-- ==== Sys2Proof/Word.lean ====
section
/-! DEFINITION. The word types of the EV9640 block model: registers are 32 bits wide (R6). -/

namespace Sys2Proof

/-- A register, a doorbell value or one word of a wide quantity (R6). -/
abbrev Word := BitVec 32

/-- One byte. -/
abbrev Byte := BitVec 8

end Sys2Proof
end

