-- ==== Sys2Proof/Syntax.lean ====
section
/-! DEFINITION. The commands of the block: `Instr`, one constructor per row of spec/opcode_table.json, with the
operands that the row's rules name. What only the outside can decide (what a pin did, what a block on a lane
held, whether a flash program failed) is an operand of the command that reports it. -/

namespace Sys2Proof

/-- The parties that read and write registers (R8): the physical function, virtual functions 1 to 63 (`vf n` is
function n + 1), user cores U0 to U3, Fjarera, and the two side-band copies (R463). -/
inductive Party where
  | pf
  | vf (n : Fin 63)
  | user (u : Fin 4)
  | fjarera
  | smbus
  | i3c
  deriving DecidableEq, Repr

/-- A class of service (Table MEM-2). -/
inductive MemClass where
  | realTime
  | isochronous
  | bulk
  deriving DecidableEq, Repr

/-- A requester of GDDR6 (Table MEM-2): a display plane, a sensor slot's course traffic, an audio unit; an encoder's source, references or
ring, the quire, a statistics ring, the decoder; host queues, a host-path course, a user core or Fjarera, a LUT copy, the scrub, MEM_TEST. -/
inductive MemUser where
  | plane
  | sensorCourse
  | audio
  | encoder
  | quire
  | stats
  | decoder
  | hostQueue
  | hostCourse
  | core
  | lutCopy
  | scrub
  | memTest
  deriving DecidableEq, Repr

/-- What else waits at the channel as a request comes to its slot (R447): whether other requests of each class do, and how many older ones of
its own class it would pass. -/
structure MemWait where
  realTime : Bool
  isochronous : Bool
  bulk : Bool
  older : Nat
  deriving DecidableEq, Repr

/-- A reader of GDDR6 whose fetch met an uncorrectable error (R442, R419), as far as what it reads decides what follows. -/
inductive Client where
  /-- A static defect table entry of a slot, on a line (R152). -/
  | defects (slot : Fin 8) (line : Nat)
  /-- A flat-field node of a slot (R152). -/
  | flat (slot : Fin 8) (cls i j : Nat)
  /-- A column offset of a slot's flat-field map, of gain 0 high or 1 low (R148, R152). -/
  | columns (slot : Fin 8) (gain x : Nat)
  /-- A correction mesh node of a slot (R185). -/
  | mesh (slot : Fin 8) (cls i j : Nat)
  /-- A noise history pixel of a slot (R185). -/
  | history (slot : Fin 8) (x y : Nat)
  /-- A line of a plane of a surface's latest buffer read for REPEAT (R200). -/
  | repeatLine (surf : Fin 32) (plane line : Nat)
  /-- A line of a head's plane (R297). -/
  | plane (h : Fin 6) (q : Fin 4) (line : Nat)
  /-- The quire's read of a galley item (R223, R251). -/
  | galley (ident : Nat)
  /-- A source line of the picture that a stream codes (R277). -/
  | encSource (e : Fin 4) (k : Fin 16)
  /-- A reference of that picture (R277). -/
  | encRef (e : Fin 4) (k : Fin 16)
  /-- Data that a queue command copies out, from a byte offset of the data on (R357, R368, R369). -/
  | command (q tag off : Nat)
  /-- Bulk objects that a host job's frame reads (R152, R185): a defect table's line, a flat-field node, a column offset,
a mesh node. -/
  | jobDefects (q tag line : Nat)
  | jobFlat (q tag cls i j : Nat)
  | jobColumns (q tag gain x : Nat)
  | jobMesh (q tag cls i j : Nat)
  deriving DecidableEq, Repr

/-- The requester that a reader belongs to (Table MEM-2). -/
def Client.user : Client → MemUser
  | .plane .. => .plane
  | .galley _ => .quire
  | .encSource .. => .encoder
  | .encRef .. => .encoder
  | .command .. => .hostQueue
  | .jobDefects .. => .hostCourse
  | .jobFlat .. => .hostCourse
  | .jobColumns .. => .hostCourse
  | .jobMesh .. => .hostCourse
  | .defects .. => .sensorCourse
  | .flat .. => .sensorCourse
  | .columns .. => .sensorCourse
  | .mesh .. => .sensorCourse
  | .history .. => .sensorCourse
  | .repeatLine .. => .sensorCourse

/-- An error that a line meets in its courses (R183, R419, R420): none, an uncorrectable one in the SRAM of a stage or in the state of a
course's TRB engine, an uncorrectable 64-bit word of the LUT memory, or reads of that memory that were corrected. -/
inductive StageFault where
  | none
  | sram
  | engine (c : Fin 4)
  | lut (word : Nat)
  | lutCorrected (n : Nat)
  deriving DecidableEq, Repr

/-- What a command's host memory reads return (R347, R353): the scatter list, and the data; none for a read that failed. -/
structure HostBuf where
  sgl : Option (List Byte)
  data : Option (List Byte)
  deriving DecidableEq, Repr

/-- What a mount finds in a magazine (R231, R232, R241 to R244): its population and die geometry, data sectors of all dies, their unique
IDs, the die positions that fail identification, the write-protect switch, the two superblock copies, and the log's data sectors
after sector decoding, by stripe × 65,536 + data sector, rising. -/
structure Medium where
  chans : Nat
  dies : Nat
  planes : Nat
  bits : Nat
  blocks : Nat
  total : Nat
  serials : List (List Byte)
  bad : List Nat
  wp : Bool
  superA : List Byte
  superB : List Byte
  log : List (Nat × List Byte)
  deriving DecidableEq, Repr

/-- What starts a PCIe reset (Table SYS-18). -/
inductive PcieCause where
  | perst
  | hotReset
  | linkDown
  deriving DecidableEq, Repr

/-- The kinds of strip of a commit unit (R238). -/
inductive Strip where
  | data
  | parity
  | commit
  | partialParity
  deriving DecidableEq, Repr

/-- How a peripheral bus command ends (R406). -/
inductive BusEnd where
  | done
  | nack
  | busError
  deriving DecidableEq, Repr

/-- What a switch-over has met as it ends (R426, R429, R386, R375): whether the role-4 core started, checked its image and restored; the cycles
of the gap beyond those that the device time shows, as where one command begins and ends it; and, after a fault,
the mailbox requests that the failed core served and the jobs that it was admitting. -/
structure Standby where
  ok : Bool
  gap : Nat
  served : List (Party × Nat)
  jobs : List (Nat × Nat)
  deriving DecidableEq, Repr

/-- What the inline code says of a granule (R442): good; a correctable error, whose write-back is dropped when a newer write has been
issued; or an uncorrectable one. -/
inductive Ecc where
  | good
  | corrected
  | uncorrectable
  deriving DecidableEq, Repr

/-- The space that a register access goes to (R14, R340, R341, R395): BAR0 registers, the MSI-X table and PBA of BAR4, the function's PCIe
configuration space, or the address space of a user core, with what the check bits of the word say. -/
inductive Bar where
  | bar0
  | bar4
  | config
  | core (ecc : Ecc)
  deriving DecidableEq, Repr

/-- What ITU-T H.265 makes of an access unit (R282 to R284): the POC; whether its output rules do not output the picture; the POCs of its
reference picture set, used by the picture and kept for later ones; whether slice data cannot be decoded; and the picture's planes in the
layout of its handle from plane 0 on. -/
structure Decoded where
  poc : Int
  notOutput : Bool
  used : List Int
  kept : List Int
  corrupt : Bool
  planes : List Byte
  deriving DecidableEq, Repr

/-- A firmware slot of the boot flash and its marks in SLOT_STATE (R468, R474): the image; VALID, ACTIVE and PENDING of MGT.SLOTS; the
starts that the image has used since its activation, and whether it has ever been healthy. -/
structure FwSlot where
  image : List Byte
  valid : Bool
  active : Bool
  pending : Bool
  starts : Nat
  healthy : Bool
  deriving DecidableEq, Repr

/-- What the boot flash and the fuses hold when Colophon starts (R474, R460, R467): the slots Colophon A and B, Fjarera A and B; the
64-byte entries of the log's ring in any order; the configuration area; the SVN counters of Colophon and Fjarera. -/
structure Flash where
  slots : Vector FwSlot 4
  log : List (List Byte)
  config : List Byte
  fuses : Vector Nat 2
  deriving DecidableEq, Repr

/-- The commands of the block (spec/opcode_table.json). -/
inductive Instr where
  /-- REGISTER_WRITE (R9): A write to a register field that has no row of its own takes effect under the field's access code. By party `p`, of `v` to the register at offset `off`, or of a user core to core address `off`. -/
  | registerWrite (p : Party) (bar : Bar) (off : Nat) (v : Word)
  /-- UNALIGNED_ACCESS (R6): A register access that is not an aligned 32-bit access completes without effect, reads zero and is counted in SYS.BAD_ACCESS. By party `p`, of `bytes` bytes at offset `off`. -/
  | unalignedAccess (p : Party) (off : Nat) (bytes : Nat) (isRead : Bool)
  /-- LOWEST_WORD_READ (R8): A party's read of the lowest word of a wide quantity captures the whole quantity for that party. `off` is the offset of the lowest word, or a core address of a user core. -/
  | lowestWordRead (p : Party) (bar : Bar) (off : Nat)
  /-- HIGHEST_WORD_WRITE (R8): A party's write of the highest word of a wide quantity makes the whole quantity take effect with that party's staged lower words. `off` is the offset of the highest word. -/
  | highestWordWrite (p : Party) (off : Nat) (v : Word)
  /-- RC_READ (R9): A read of an RC field returns its value and clears it, keeping any event counted in the same cycle. `meanwhile` events are counted in the cycle of the read. -/
  | rcRead (p : Party) (off : Nat) (meanwhile : Nat)
  /-- W1C_WRITE (R9): A write to a W1C field clears the bits written as 1 unless hardware sets them in the same cycle. Hardware sets the bits `hw` in the same cycle. -/
  | w1cWrite (p : Party) (off : Nat) (v : Word) (hw : Word)
  /-- STRAY_WRITE (R9): A write to an FS field outside a forme is ignored and counted in FRM.STRAY_WRITES. -/
  | strayWrite (p : Party) (off : Nat) (v : Word)
  /-- FRAME_START_ISSUE (R32): At the first tick at or after a slot's cadence instant the device issues the frame-start command, subject to the ready check. Of slot `n`. -/
  | frameStartIssue (n : Fin 8)
  /-- REF_EDGE (R43): A filtered edge on the genlock, encoder index or mains input is judged valid or an outlier and advances the input's lock state. On input `i`: 0 genlock, 1 encoder index, 2 mains. The edge has passed the glitch filter. -/
  | refEdge (i : Fin 3)
  /-- INPUT_LOST (R44): When three expected periods pass without a valid edge the input is lost and its slots enter holdover. Of input `i`. -/
  | inputLost (i : Fin 3)
  /-- QUADRATURE_TRANSITION (R50): A legal change of the encoder A and B inputs moves the raw count and the accepted position under the hysteresis rule. To levels `a` and `b` of the encoder inputs after the glitch filter. -/
  | quadratureTransition (a : Bool) (b : Bool)
  /-- INDEX_PULSE (R51): A forward index pulse realigns the raw count and accepted position to 0, counting the adjustment or a mismatch. -/
  | indexPulse
  /-- PHASE_FRET_DUE (R57): A phase fret comes due at the first tick at which the slot's cadence phase reaches its key and fires its action. Entry `k` of slot `n`. -/
  | phaseFretDue (n : Fin 8) (k : Fin 256)
  /-- APPLY_FORME (R76): The fret marks the slot's frame boundary and applies the Locked formes due there with the apply strobe. Entry `k` of slot `n` fires. -/
  | applyForme (n : Fin 8) (k : Fin 256)
  /-- SEND_EXPOSURE (R108): The fret sends the EXPOSURE packet of the frame L frames ahead, fixing its period and tag. Entry `k` of slot `n` fires. -/
  | sendExposure (n : Fin 8) (k : Fin 256)
  /-- STATS_OPEN (R154): The fret opens a statistics window on its frame, sealing any earlier open record of that window. Entry `k` of slot `n` fires. -/
  | statsOpen (n : Fin 8) (k : Fin 256)
  /-- STATS_CLOSE (R155): The fret closes a statistics window, or is counted as an error when the window is not open on its frame. Entry `k` of slot `n` fires. -/
  | statsClose (n : Fin 8) (k : Fin 256)
  /-- TIMESTAMP (R61): The fret captures PTP time into the fret time-stamp FIFO, or counts a loss when the FIFO is full. Entry `k` of slot `n` fires. -/
  | timestamp (n : Fin 8) (k : Fin 256)
  /-- MEM_RETRAIN (R437): The fret opens a GDDR6 retraining window of the given length. Entry `k` of slot `n` fires. -/
  | memRetrain (n : Fin 8) (k : Fin 256)
  /-- ENC_START (R266): The fret counts towards a stream's picture cadence and starts and binds a picture every FRAME_DIV firings. Entry `k` of slot `n` fires. -/
  | encStart (n : Fin 8) (k : Fin 256)
  /-- RAISE_IRQ (R55): The fret asserts one of the 16 fret interrupt sources. Entry `k` of slot `n` fires. -/
  | raiseIrq (n : Fin 8) (k : Fin 256)
  /-- TEMP_BAND (R60): The fret applies a pending temperature-band change. Entry `k` of slot `n` fires. -/
  | tempBand (n : Fin 8) (k : Fin 256)
  /-- EVENT_OUT (R494): The fret drives a time-stamp output pin high for the given width, extending a pulse already in progress. Entry `k` of slot `n` fires. -/
  | eventOut (n : Fin 8) (k : Fin 256)
  /-- NOP (R55): A fret with action NOP fires with no effect. Entry `k` of slot `n` fires. -/
  | nop (n : Fin 8) (k : Fin 256)
  /-- EVENT_OUT_END (R494): When an EVENT_OUT pulse's width expires the time-stamp output pin goes low. On time-stamp output pin `o`. -/
  | eventOutEnd (o : Fin 16)
  /-- TS_READ (R61): A read of FRT.TS_W0 captures and removes the head entry of the fret time-stamp FIFO. By party `p`. -/
  | tsRead (p : Party)
  /-- FORME_OPEN (R69): The command moves a Free forme identifier to Staged for the requesting party. The request posted in mailbox slot `slot` of party `p`. -/
  | formeOpen (p : Party) (slot : Fin 32)
  /-- FORME_WRITE (R63): The command appends up to 4,096 write triples to a Staged forme by DMA descriptor. The request posted in mailbox slot `slot` of party `p`; `buf` is what its descriptor reads (R385). -/
  | formeWrite (p : Party) (slot : Fin 32) (buf : HostBuf)
  /-- FORME_LOAD (R64): The command loads and header-checks one bulk object into the forme area for a Staged forme. The request posted in mailbox slot `slot` of party `p`; `buf` is what its descriptor reads (R385). -/
  | formeLoad (p : Party) (slot : Fin 32) (buf : HostBuf)
  /-- FORME_LOCK (R72): The command submits a Staged forme with its application point for lock-up and moves it to Checking. The request posted in mailbox slot `slot` of party `p`. -/
  | formeLock (p : Party) (slot : Fin 32)
  /-- LOCKUP_COMPLETE (R76): The staged checks finish and the forme is either committed to the Locked list or rejected back to Staged. Of forme `f`. -/
  | lockupComplete (f : Fin 256)
  /-- FORME_DISCARD (R76): The command returns a Staged or last-Locked forme to Free, or refuses it. The request posted in mailbox slot `slot` of party `p`. -/
  | formeDiscard (p : Party) (slot : Fin 32)
  /-- FORME_QUERY (R390): The command returns a forme's state, owner, write and object counts and application point. The request posted in mailbox slot `slot` of party `p`. -/
  | formeQuery (p : Party) (slot : Fin 32)
  /-- STAGE_DATA (R71): A write to a staging window's STAGE_DATA appends a write triple to its forme or records why it was refused. By party `p` through window `w`. -/
  | stageData (p : Party) (w : Fin 5) (data : Word)
  /-- LINK_CONFIG_SEND (R103): Every 10 µs in CONFIG the device sends LINK_CONFIG on the back-channel. On link `k`. -/
  | linkConfigSend (k : Fin 4)
  /-- CDR_LOCK (R103): A forward lane reaches CDR lock and the link enters LOCKING. Lane `j`. -/
  | cdrLock (j : Fin 32)
  /-- BLOCK_RECEIVED (R97): A 66-bit block received on a lane advances block lock and is descrambled, rate-matched and reassembled. On lane `j`: sync header (bit 0 first on the line), 64 payload bits as received (bit 0 first); the block clock reads the lane's elastic buffer `reads` times until then (R102). -/
  | blockReceived (j : Fin 32) (hdr : BitVec 2) (payload : BitVec 64) (reads : Nat)
  /-- AM_RECEIVED (R98): An alignment marker advances marker lock, polarity correction, lane mapping and deskew on its lane. On lane `j`: a valid or inverted marker that declares logical lane `lane`, `widthM1` + 1 lanes and sequence count `seq`; `reads` as for BLOCK_RECEIVED. -/
  | amReceived (j : Fin 32) (inverted : Bool) (lane : Fin 8) (widthM1 : Fin 8) (seq : Byte) (reads : Nat)
  /-- BRINGUP_FAIL (R103): A link not UP within its timeout raises BRINGUP_FAIL and restarts bring-up under a new timeout. Of link `k`. -/
  | bringupFail (k : Fin 4)
  /-- RETRAIN (R105): A write of RETRAIN to LNK.Lk_CTL takes the link down and brings it up again, or is refused on an unmasked slot. By party `p`, of `v` to LNK.Lk_CTL of link `k`. -/
  | retrain (p : Party) (k : Fin 4) (v : Word)
  /-- LINK_RECONFIG (R105): After a forme changes a link's rate or lanes, and its slots' current frames end, the link restarts bring-up with the new values. Of link `k`. -/
  | linkReconfig (k : Fin 4)
  /-- LINK_DISABLE (R105): After a forme clears a link's ENABLE and its slots' current frames end, the link goes DISABLED. Of link `k`. -/
  | linkDisable (k : Fin 4)
  /-- BC_DELAY_MEASURE (R107): Every 1,000 ms while UP the device sends 8 PINGs to measure the back-channel delay. On link `k`. -/
  | bcDelayMeasure (k : Fin 4)
  /-- ECHO (R107): An ECHO answering a PING supplies one round-trip sample to the delay measurement. The oldest ECHO received on link `k`; `rtt` is the measured round trip in ps (R107). -/
  | echo (k : Fin 4) (rtt : Nat)
  /-- PING_TIMEOUT (R107): A PING with no ECHO within 10 µs is dropped from the median, and the delay is kept when all are dropped. Of the PING with sequence number `seq` on link `k`. -/
  | pingTimeout (k : Fin 4) (seq : Nat)
  /-- STATUS_BLOCK (R93): A STATUS control block from the sensor is received inline. The oldest STATUS received on link `k`. -/
  | statusBlock (k : Fin 4)
  /-- LINE_PACKET (R124): A LINE packet delivered for a slot is classified as failed, stray, long, out of order or accepted into its frame. The oldest LINE packet received on link `k`; each course has drained so many bytes of its input buffer since the last; `fault`: what the stages of the frame's courses have met with the line. -/
  | linePacket (k : Fin 4) (drained : Vector Nat 4) (fault : StageFault)
  /-- FRAME_TIMEOUT (R126): A frame whose TIMEOUT ends without its last line closes short with cause TIMEOUT. Of the current frame of slot `n`. -/
  | frameTimeout (n : Fin 8)
  /-- FRAME_SEALED (R25): A frame record is sealed once every course has closed it and its TRB engine has written TRB_BYTES. The frame of ordinal `ord` of slot `n`. -/
  | frameSealed (n : Fin 8) (ord : Word)
  /-- CAPABILITY (R121): A CAPABILITY packet is checked and accepted as the slot's record in force, raising CAP_CHANGED on a difference. The oldest CAPABILITY packet received on link `k`. -/
  | capability (k : Fin 4)
  /-- CAP_REQUEST_TIMEOUT (R121): With no acceptable record within the wait the device repeats CAP_REQUEST, raising CAP_FAIL after the third failure. For slot `n`. -/
  | capRequestTimeout (n : Fin 8)
  /-- REG_RESPONSE (R109): A REG_RESPONSE packet answers a REG_ACCESS and completes its sensor command. The oldest REG_RESPONSE packet received on link `k`. -/
  | regResponse (k : Fin 4)
  /-- REG_ACCESS_TIMEOUT (R109): A REG_ACCESS with no answer within 10 ms completes its command with NOT_READY. For the oldest REG_ACCESS sent to slot `n`. -/
  | regAccessTimeout (n : Fin 8)
  /-- SENSOR_EVENT (R495): A whole SENSOR_EVENT packet raises SENSOR_EVENT with its first 8 payload bytes. The oldest SENSOR_EVENT packet received on link `k`. -/
  | sensorEvent (k : Fin 4)
  /-- PRBS_CHECK (R112): A lane TEST write of MODE 1 starts a PRBS check of the sensor's transmitter and sends TEST to the sensor. By party `p`, of `v` to LNK.LANEj_TEST of lane `j`. -/
  | prbsCheck (p : Party) (j : Fin 32) (v : Word)
  /-- NEAR_END_SERIAL (R111): A lane TEST write of MODE 2 injects the on-die pattern after the lane's input pins. By party `p`, of `v` to LNK.LANEj_TEST of lane `j`. -/
  | nearEndSerial (p : Party) (j : Fin 32) (v : Word)
  /-- NEAR_END_PARALLEL (R111): A lane TEST write of MODE 3 injects the on-die pattern after the deserialiser. By party `p`, of `v` to LNK.LANEj_TEST of lane `j`. -/
  | nearEndParallel (p : Party) (j : Fin 32) (v : Word)
  /-- FAR_END_LOOPBACK (R112): A lane TEST write of MODE 4 sends the pattern on BC1 for the sensor to loop back on the forward lane. By party `p`, of `v` to LNK.LANEj_TEST of lane `j`. -/
  | farEndLoopback (p : Party) (j : Fin 32) (v : Word)
  /-- TEST_OFF (R111): A lane TEST write of MODE 0 ends the test and restarts bring-up of an assigned lane's link. By party `p`, of `v` to LNK.LANEj_TEST of lane `j`. -/
  | testOff (p : Party) (j : Fin 32) (v : Word)
  /-- EQ_ADAPT (R110): Once per ms a lane's equaliser takes or reverts one adaptation step unless frozen. On lane `j`. -/
  | eqAdapt (j : Fin 32)
  /-- META_COMMIT (R133): A write of GO to ING.SLOTn_META_COMMIT copies the staging buffer into the committed buffer and increments META_SEQ. By party `p`, of `v` to ING.SLOTn_META_COMMIT. -/
  | metaCommit (p : Party) (n : Fin 8) (v : Word)
  /-- STATS_ACK (R398): A write of SEQ to PER.STATS_ACKn marks that statistics record of slot n as pulled. By party `p`, of `v` to PER.STATS_ACKn. -/
  | statsAck (p : Party) (n : Fin 8) (v : Word)
  /-- LUT_SCRUB (R183): The LUT memory scrub reads and rewrites every word at least once per 10 ms in idle cycles. A pass that corrects so many words and finds the words `bad` (offset / 8) uncorrectable. -/
  | lutScrub (corrected : Nat) (bad : List Nat)
  /-- SURFACE_COMPLETE (R201): When every course has written its columns of a surface buffer it becomes the surface's latest complete buffer. Of the oldest buffer of surface `k` that its courses have written. -/
  | surfaceComplete (k : Fin 32)
  /-- GOVERNOR_DECISION (R224): At a frame boundary of a slot in a take Fjarera raises, lowers or keeps the slot's ratio for its next frame. For slot `n`. -/
  | governorDecision (n : Fin 8)
  /-- UNIT_BEGIN (R247): The quire begins a frame, stream, host-write, checkpoint or journal unit at the next log position and assigns its SEQ. A host-write unit takes up to `batch` writes. -/
  | unitBegin (batch : Nat)
  /-- STRIP_PROGRAMMED (R238): A strip program completes, allowing the commit-record strip or partial parity and making a unit durable. A strip of the unit with SEQ `seq`, on die position `die`; a failure damages the durable ranges `damage` (VSA, sectors) beyond repair; if the die is then declared failed as the second of its group, the ranges `lost` cannot be rebuilt. -/
  | stripProgrammed (seq : Nat) (kind : Strip) (ok : Bool) (die : Nat) (damage : List (Nat × Nat)) (lost : List (Nat × Nat))
  /-- BLOCK_ERASE (R240): A block erase completes or fails, counting towards die failure. On die position `die`; `damage` and `lost` as for STRIP_PROGRAMMED. -/
  | blockErase (die : Nat) (ok : Bool) (damage : List (Nat × Nat)) (lost : List (Nat × Nat))
  /-- SECTOR_READ (R239): A sector read that fails is retried through the read-retry levels and then rebuilt from parity or declared unrecoverable. Of sector `vsa` on die position `die` with `levels` read-retry levels: number `good` of the retry succeeds, or the rebuild by parity does. -/
  | sectorRead (vsa : Nat) (die : Nat) (levels : Nat) (good : Option Nat) (rebuilt : Bool)
  /-- DIE_SILENT (R240): A die silent for 100 ms after RESET is declared failed. Die position `die`; `lost` as for STRIP_PROGRAMMED. -/
  | dieSilent (die : Nat) (lost : List (Nat × Nat))
  /-- INSERTED (R234): Presence and latch held for 100 ms raise INSERTED and, with AUTO_MOUNT, start the mount. -/
  | inserted
  /-- VCC_GOOD_TIMEOUT (R234): MAG_VCC_GOOD not high within 50 ms raises MOUNT_FAIL and returns the magazine to OFF. -/
  | vccGoodTimeout
  /-- EJECT_BUTTON (R235): MAG_EJECT_N held low for 500 ms requests eject, refused while a take is open. -/
  | ejectButton
  /-- EJECT_UNMOUNT (R235): Once accepted units are durable the eject writes a checkpoint and clean superblock and powers the magazine off. -/
  | ejectUnmount
  /-- PRESENCE_REMOVED (R235): Both presence inputs going high make the magazine state EMPTY. -/
  | presenceRemoved
  /-- REMOVED (R236): A surprise removal stops the quire within 10 µs and gives every item in flight its single outcome. The magazine is still present; MAG_LATCH afterwards. -/
  | removed (present : Bool) (latch : Bool)
  /-- PWR_FAIL (R249): MAG_PWR_FAIL_N falling restricts the quire to finishing the last commit. -/
  | pwrFail
  /-- PWR_FAIL_CLEAR (R249): MAG_PWR_FAIL_N high for 10 ms with VCC_GOOD resumes normal magazine work. -/
  | pwrFailClear
  /-- ZQ_CALIBRATION (R229): Every 100 ms in MP0 and MP1 the quire calibrates ZQ on the channels. -/
  | zqCalibration
  /-- PATROL_SCRUB (R253): Every written block is read once per 168 hours of powered time. Of block `block` on die position `die`, which takes `ns` ns of its time and relocates the ranges `moved` (VSA, sectors). -/
  | patrolScrub (die : Nat) (block : Nat) (ns : Nat) (moved : List (Nat × Nat))
  /-- READ_DISTURB_SCRUB (R253): A block reaching 50,000 reads since its last program is scrubbed. Of a block on die position `die` that has been read `reads` times since its last program; `ns` and `moved` as for PATROL_SCRUB. -/
  | readDisturbScrub (die : Nat) (reads : Nat) (ns : Nat) (moved : List (Nat × Nat))
  /-- STATIC_WEAR_LEVELLING (R253): A die whose erase counts spread by more than 500 is levelled. On die position `die`, whose erase counts spread by `spread`; `ns` and `moved` as for PATROL_SCRUB. -/
  | staticWearLevelling (die : Nat) (spread : Nat) (ns : Nat) (moved : List (Nat × Nat))
  /-- RECLAMATION (R253): A die with fewer than 16 free erased blocks has blocks reclaimed. On die position `die`, which has `free` free erased blocks; `ns` and `moved` as for PATROL_SCRUB. -/
  | reclamation (die : Nat) (free : Nat) (ns : Nat) (moved : List (Nat × Nat))
  /-- PARITY_REBUILD (R240): Stripes holding a failed die are rebuilt and relocated in the background. Of what the failed die position `die` holds; it takes `ns` ns of the other dies' time. -/
  | parityRebuild (die : Nat) (ns : Nat)
  /-- POWER_TRANSITION (R255): A requested magazine power-state change completes once accepted units are durable. -/
  | powerTransition
  /-- CTU_ROW (R270): At a row boundary a core codes one CTU row of the chosen stream once its source lines are written. On core `e`: the bits of each CTU of the row as coded at the row's QP; the bytes of the picture's SEI messages that H.265 alone defines, and the bits of each slice header, both used when the picture starts; `fault`: the core's state is uncorrectable (R420). -/
  | ctuRow (e : Fin 4) (ctus : List Nat) (sei : Nat) (hdr : Nat) (fault : Bool)
  /-- RATE_DECISION (R271): Fjarera decides a picture's base QP and target and writes them to PIC_QP and PIC_TARGET. For stream `k` of core `e`. -/
  | rateDecision (e : Fin 4) (k : Fin 16)
  /-- PICTURE_DECODED (R282): The decoder finishes one access unit, writes its handle and completes its command with its status. The oldest picture of session `i`: what H.265 makes of its access unit; `fault`: the session's state is uncorrectable (R420). -/
  | pictureDecoded (i : Fin 16) (d : Decoded) (fault : Bool)
  /-- HEAD_FRAME_START (R291): A head frame starts and, under a locked source, measures its phase error and adjusts its clock offset. Of head `h`; `late`: active lines with pixels not delivered in the frame, with the first pixel and the number of them (R297). -/
  | headFrameStart (h : Fin 6) (late : List (Nat × Nat × Nat))
  /-- LATCH_INSTANT (R293): At the start of the vertical front porch the head latches formes and plane buffers or handles. Of head `h`. -/
  | latchInstant (h : Fin 6)
  /-- PLANE_HANDLE_WRITE (R293): A write to DSP.Dh_Pp_HANDLE names the handle the plane takes at its next latch instant. By party `p`, of `v`, for plane `q` of head `h`. -/
  | planeHandleWrite (p : Party) (h : Fin 6) (q : Fin 4) (v : Word)
  /-- EDP_HPD (R299): A hot-plug detect transition is reported and a loss of link status starts training. On port `p`, to high or low; `lost`: it reports loss of link status. -/
  | edpHpd (p : Fin 2) (high : Bool) (lost : Bool)
  /-- LINK_TRAINING (R299): eDP training finishes with the port active or failed. Of port `p`; the sink's lanes and rate in the coding of Table DSP-5, its PSR2 declaration and setup frames; `tries`: whether clock recovery and equalisation succeeded, attempt by attempt (R299). -/
  | linkTraining (p : Fin 2) (lanes : Fin 3) (rate : Fin 3) (psr : Bool) (setup : Fin 16) (tries : List Bool)
  /-- VIDEO_PACKET (R310): At its scheduled instant a video sender emits the next ST 2110-20 packet of the head frame. Of sender `i`. -/
  | videoPacket (i : Fin 48)
  /-- AUDIO_PACKET (R311): At its scheduled instant an audio sender emits the packet of one packet time. Of sender `i`. -/
  | audioPacket (i : Fin 48)
  /-- TIMECODE_PACKET (R312): 50 µs after each head frame start a timecode sender emits its ancillary timecode packet or counts it missing. Of sender `i`. -/
  | timecodePacket (i : Fin 48)
  /-- ETH_FRAME_RECEIVED (R305): A received Ethernet frame is kept when it is a PTP message for the interface and otherwise discarded. The frame `l`, without its FCS, on interface `f` of port `p`. -/
  | ethFrameReceived (p : Fin 2) (f : Fin 4) (l : List Byte)
  /-- ETH_LINK_DOWN (R306): An interface link drops and its senders' packets are discarded while schedules run on. Interface `f` of port `p`. -/
  | ethLinkDown (p : Fin 2) (f : Fin 4)
  /-- ETH_LINK_UP (R306): An interface link comes up and LINK_UP is raised. Interface `f` of port `p`; `fec`: its FEC is locked. -/
  | ethLinkUp (p : Fin 2) (f : Fin 4) (fec : Bool)
  /-- FEC_UNCORR (R304): An uncorrectable FEC codeword is counted. On interface `f` of port `p`. -/
  | fecUncorr (p : Fin 2) (f : Fin 4)
  /-- PTP_MESSAGE_SENT (R320): A PTP event message leaves and its egress time-stamp is appended to the port's queue. The frame `l` that Fjarera tagged `ident`, on interface `f` of port `p`. -/
  | ptpMessageSent (p : Fin 2) (f : Fin 4) (ident : Nat) (l : List Byte)
  /-- TXTS_READ (R320): A read of PTP.Pp_TXTS_W0 captures and removes the head transmit time-stamp. By party `p`, of port `k`. -/
  | txtsRead (p : Party) (k : Fin 2)
  /-- OFFSET_WRITE (R317): Fjarera's write of a measured offset drives the servo to step or slew the clock and update its lock state. By party `p`, of `v` to PTP.OFFSET_HI. -/
  | offsetWrite (p : Party) (v : Word)
  /-- OFS_TIMEOUT (R318): No offset for OFS_TIMEOUT ms puts the servo in holdover. -/
  | ofsTimeout
  /-- EVENT_EDGE (R321): An accepted event-input edge is time-stamped and appended to the event FIFO. On input `i`, rising or falling, of a pulse of `width` ns. -/
  | eventEdge (i : Fin 16) (rising : Bool) (width : Nat)
  /-- EVT_INPUT_LOST (R321): An event input with no valid edge for three expected periods raises EVT_INPUT_LOST. Of input `i`. -/
  | evtInputLost (i : Fin 16)
  /-- EVT_READ (R322): A read of PTP.EVT_W0 captures and removes the head event entry. By party `p`. -/
  | evtRead (p : Party)
  /-- TC_JAM (R325): A write to PTP.TC_JAMn gives the label of the slot's next frame in counting mode. By party `p`, of `v` for slot `n`. -/
  | tcJam (p : Party) (n : Fin 8) (v : Word)
  /-- AUDIO_FRAME (R329): A word-select frame on a port is checked, time-stamped and its samples taken into the current block. On port `a`: the bits sampled from the word-select edge on, first one in bit 32, in the half-frames with word select low and high, the bit clocks of the frame, and the width in ns of the pulse that begins it. -/
  | audioFrame (a : Fin 8) (low : BitVec 33) (high : BitVec 33) (bclk width : Nat)
  /-- AUDIO_PORT_LOST (R332): A slave port declared lost completes its block with zeros and starts generating silent blocks. Of port `a`. -/
  | audioPortLost (a : Fin 8)
  /-- SYNTHETIC_BLOCK (R332): A lost port generates a zero block flagged SILENCE at its last valid rate. Of port `a`. -/
  | syntheticBlock (a : Fin 8)
  /-- SQ_TAIL_DOORBELL (R349): A write to an SQ tail doorbell sets the queue's tail, or is ignored as a bad doorbell. By function `f`, of `v` to the SQ tail doorbell of queue `q`. -/
  | sqTailDoorbell (f : Fin 64) (q : Nat) (v : Word)
  /-- CQ_HEAD_DOORBELL (R349): A write to a CQ head doorbell frees CQ slots, or is ignored as a bad doorbell. By function `f`, of `v` to the CQ head doorbell of queue `q`. -/
  | cqHeadDoorbell (f : Fin 64) (q : Nat) (v : Word)
  /-- FETCH (R350): The fetch arbiter fetches one SQ entry and checks its tag and opcode. From queue `q`, when the arbiter's choice falls on it; what the read of the 64 bytes returns, none when it fails. -/
  | fetch (q : Nat) (entry : Option (List Byte))
  /-- MAG_READ (R357): The opcode reads sectors of the volume into host memory. The command under `tag` of queue `q`; what its scatter-list read returns. -/
  | magRead (q : Nat) (tag : Nat) (buf : HostBuf)
  /-- MAG_WRITE (R356): The opcode reads data from host memory into the galley for commitment. The command under `tag` of queue `q`; what its host memory reads return. -/
  | magWrite (q : Nat) (tag : Nat) (buf : HostBuf)
  /-- WRITE_ACCEPTED (R356): A waiting MAG_WRITE is admitted to the galley and completes with SUCCESS. The write under `tag` of queue `q`. -/
  | writeAccepted (q : Nat) (tag : Nat)
  /-- MAG_FLUSH (R360): The opcode waits until every accepted write it covers is durable. The command under `tag` of queue `q`. -/
  | magFlush (q : Nat) (tag : Nat)
  /-- MAG_TRIM (R359): The opcode trims a sector range, which reads as zero from acceptance. The command under `tag` of queue `q`. -/
  | magTrim (q : Nat) (tag : Nat)
  /-- JOB_SUBMIT (R364): The opcode checks a host-job descriptor, rendition set and handles. The command under `tag` of queue `q`; what its host memory reads return. -/
  | jobSubmit (q : Nat) (tag : Nat) (buf : HostBuf)
  /-- JOB_ADMIT (R365): Fjarera admits a checked job, which then waits for a host-path course. The job under `tag` of queue `q`. -/
  | jobAdmit (q : Nat) (tag : Nat)
  /-- HOST_JOB_FRAME_START (R365): A host-job frame enters a host-path course. The next frame of the job under `tag` of queue `q` on course `c`; what the reads of its raw input and of its metadata return. -/
  | hostJobFrameStart (q : Nat) (tag : Nat) (c : Fin 4) (raw : Option (List Byte)) (info : Option (List Byte))
  /-- HOST_JOB_FRAME_DONE (R365): A host-job frame leaves its course and its outputs are written. The frame in progress of the job under `tag` of queue `q`, with an error that it met in its course. -/
  | hostJobFrameDone (q : Nat) (tag : Nat) (fault : StageFault)
  /-- STREAM_PULL (R367): The opcode copies whole output units of a stream into host memory, or waits for one. The command under `tag` of queue `q`; what its scatter-list read returns. -/
  | streamPull (q : Nat) (tag : Nat) (buf : HostBuf)
  /-- STATS_PULL (R368): The opcode copies a sealed statistics record and marks it pulled, or waits for it. The command under `tag` of queue `q`; what its scatter-list read returns. -/
  | statsPull (q : Nat) (tag : Nat) (buf : HostBuf)
  /-- SURF_ALLOC (R369): The opcode allocates the lowest free handle of the requested size. The command under `tag` of queue `q`. -/
  | surfAlloc (q : Nat) (tag : Nat)
  /-- SURF_FREE (R203): The opcode frees a handle at once or marks it RELEASING. The command under `tag` of queue `q`. -/
  | surfFree (q : Nat) (tag : Nat)
  /-- SURF_READ (R369): The opcode copies bytes of a handle's buffer into host memory. The command under `tag` of queue `q`; what its scatter-list read returns. -/
  | surfRead (q : Nat) (tag : Nat) (buf : HostBuf)
  /-- SURF_WRITE (R369): The opcode copies host bytes into an unreferenced handle's buffer. The command under `tag` of queue `q`; what its host memory reads return. -/
  | surfWrite (q : Nat) (tag : Nat) (buf : HostBuf)
  /-- DEC_OPEN (R370): The opcode opens a decode session with its parameter sets. The command under `tag` of queue `q`; what its host memory reads return; what H.265 makes of the parameter sets: the format of the pictures (Table IMP-4), their width and height, none for a profile, level, chroma format or bit depth outside R282. -/
  | decOpen (q : Nat) (tag : Nat) (buf : HostBuf) (pic : Option (Nat × Nat × Nat))
  /-- DEC_PICTURE (R370): The opcode submits one access unit for decoding into its output handle. The command under `tag` of queue `q`; what its host memory reads return. -/
  | decPicture (q : Nat) (tag : Nat) (buf : HostBuf)
  /-- DEC_CLOSE (R370): The opcode closes a session after its earlier pictures complete. The command under `tag` of queue `q`. -/
  | decClose (q : Nat) (tag : Nat)
  /-- AGG_TIME_EXPIRY (R351): AGG_TIME after the first unsignalled completion the CQ sends its MSI-X message. Of queue `q`. -/
  | aggTimeExpiry (q : Nat)
  /-- VECTOR_UNMASK (R351): Unmasking an MSI-X vector with its PBA bit set sends the held message. By function `f`, of `v` to the control word of vector `vec`. -/
  | vectorUnmask (f : Fin 64) (vec : Fin 128) (v : Word)
  /-- QRESET (R371): A write of HQ.QRESET with GO asks for a queue reset by its owner. By function `f`, of `v` to HQ.QRESET. -/
  | qreset (f : Fin 64) (v : Word)
  /-- RESET_HOLD (R371): The queue's completion arbiter accepts the reset, stopping fetch and marking every in-flight tag for abort. Of queue `q`. -/
  | resetHold (q : Nat)
  /-- ABORTED_COMPLETION (R372): An aborted tag whose work has stopped host access is posted with ABORTED_BY_RESET. Of the command under `tag` of queue `q`. -/
  | abortedCompletion (q : Nat) (tag : Nat)
  /-- FLR (R373): A Function Level Reset deletes the function's queues, aborts its tags by records, frees its handles and clears its slots. Of function `f`. -/
  | flr (f : Fin 64)
  /-- PCIE_RESET (R479): PERST_N low, hot reset or link down resets the PCIe domains and every function as for an FLR of the PF. By what starts it. -/
  | pcieReset (cause : PcieCause)
  /-- PCIE_LINK_TRAINING (R477): Link training begins after PERST_N rises and the core reset is released. To a rate code of HQ.LINK and a width; whether the link partner supports FLIT mode, and whether L0p is active. -/
  | pcieLinkTraining (rate : Nat) (width : Nat) (flit l0p : Bool)
  /-- GO (R378): A write of GO to an IDLE slot posts its request. By party `p`, of `v` to the CTL word of its slot. -/
  | go (p : Party) (slot : Fin 32) (v : Word)
  /-- ACK (R378): A write of ACK to a DONE slot returns it to IDLE. By party `p`, of `v` to the CTL word of its slot. -/
  | ack (p : Party) (slot : Fin 32) (v : Word)
  /-- IDENTIFY (R390): The command returns identity, versions, serial and usable memory. Posted by party `p` in its slot. -/
  | identify (p : Party) (slot : Fin 32)
  /-- VF_QUOTA (R342): The command sets a VF's quota of queues, tags and handles. Posted by party `p` in its slot. -/
  | vfQuota (p : Party) (slot : Fin 32)
  /-- QUEUE_CREATE (R343): The command creates a queue pair with the lowest free identifier and an aligned tag run. Posted by party `p` in its slot. -/
  | queueCreate (p : Party) (slot : Fin 32)
  /-- QUEUE_DELETE (R344): The command deletes an idle queue and frees its identifier and tags. Posted by party `p` in its slot. -/
  | queueDelete (p : Party) (slot : Fin 32)
  /-- PTP_CONFIG (R392): The command sets the PTP role, domain, priorities, intervals and asymmetries. Posted by party `p` in its slot. -/
  | ptpConfig (p : Party) (slot : Fin 32)
  /-- PTP_SET_TIME (R390): The command steps the PTP clock to a given time while the servo is off. Posted by party `p` in its slot. -/
  | ptpSetTime (p : Party) (slot : Fin 32)
  /-- PTP_STATUS (R390): The command returns parent, grandmaster, port states, offset and path delay. Posted by party `p` in its slot. -/
  | ptpStatus (p : Party) (slot : Fin 32)
  /-- SENSOR_CAP (R390): The command returns a slot's capability record in force. Posted by party `p` in its slot. -/
  | sensorCap (p : Party) (slot : Fin 32)
  /-- SENSOR_REG (R109): The command sends a REG_ACCESS packet of sensor register reads and writes. Posted by party `p` in its slot; what the reads through the descriptors of the entries and of the answers return. -/
  | sensorReg (p : Party) (slot : Fin 32) (buf : HostBuf) (ans : HostBuf)
  /-- HANDLE_ALLOC (R390): The command allocates a surface handle for the party. Posted by party `p` in its slot. -/
  | handleAlloc (p : Party) (slot : Fin 32)
  /-- HANDLE_FREE (R203): The command frees a handle or marks it RELEASING. Posted by party `p` in its slot. -/
  | handleFree (p : Party) (slot : Fin 32)
  /-- HANDLE_QUERY (R390): The command returns a handle's state and size. Posted by party `p` in its slot. -/
  | handleQuery (p : Party) (slot : Fin 32)
  /-- TAKE_START (R221): The command opens a take on slots, taking in their retained pre-record frames. Posted by party `p` in its slot. -/
  | takeStart (p : Party) (slot : Fin 32)
  /-- TAKE_STOP (R390): The command ends a take and completes once its units are durable or failed. Posted by party `p` in its slot. -/
  | takeStop (p : Party) (slot : Fin 32)
  /-- TAKE_INFO (R390): The command returns a take directory entry and index entries. Posted by party `p` in its slot; what the reads through its descriptor return. -/
  | takeInfo (p : Party) (slot : Fin 32) (buf : HostBuf)
  /-- VOLUME_FORMAT (R390): The command formats the magazine volume and writes a new superblock. Posted by party `p` in its slot. -/
  | volumeFormat (p : Party) (slot : Fin 32)
  /-- MAG_POWER (R255): The command requests a magazine power state. Posted by party `p` in its slot. -/
  | magPower (p : Party) (slot : Fin 32)
  /-- MAG_EJECT (R235): The command requests eject, refused while a take is open. Posted by party `p` in its slot. -/
  | magEject (p : Party) (slot : Fin 32)
  /-- STREAM_SEI (R264): The command stages or removes a static SEI payload for a stream's next header set. Posted by party `p` in its slot. -/
  | streamSei (p : Party) (slot : Fin 32)
  /-- STREAM_HEADERS (R390): The command returns a stream's parameter sets in force. Posted by party `p` in its slot; what the reads through its descriptor return. -/
  | streamHeaders (p : Party) (slot : Fin 32) (buf : HostBuf)
  /-- EDP_AUX (R390): The command reads or writes DPCD bytes over an eDP port's AUX channel. Posted by party `p` in its slot; what the sink answers, none for a NACK or a timeout; whether a write changes link state. -/
  | edpAux (p : Party) (slot : Fin 32) (ack : Option (List Byte)) (relinks : Bool)
  /-- SDP_GET (R307): The command returns a sender's SDP description. Posted by party `p` in its slot; what the reads through its descriptor return. -/
  | sdpGet (p : Party) (slot : Fin 32) (buf : HostBuf)
  /-- LANE_TEST (R111): The command runs a lane test mode for a duration and returns the PRBS counts. Posted by party `p` in its slot. -/
  | laneTest (p : Party) (slot : Fin 32)
  /-- MEM_TEST (R389): The command tests a GDDR6 range and reports failing words. Posted by party `p` in its slot; the words that fail, and the index of the first of them. -/
  | memTest (p : Party) (slot : Fin 32) (failed first : Nat)
  /-- BLACK_CAL (R393): The command averages black-subtracted columns over frames into a column-offset vector. Posted by party `p` in its slot; what the reads through its descriptor return. -/
  | blackCal (p : Party) (slot : Fin 32) (buf : HostBuf)
  /-- LOG_GET (R394): The command returns error records, persistent log entries or the deferred-error list, optionally clearing the latter. Posted by party `p` in its slot; what the reads through its descriptor return. -/
  | logGet (p : Party) (slot : Fin 32) (buf : HostBuf)
  /-- FW_DOWNLOAD (R467): The command checks a Fjarera image and writes it to the inactive slot. Posted by party `p` in its slot; what the reads through its descriptor return. -/
  | fwDownload (p : Party) (slot : Fin 32) (buf : HostBuf)
  /-- FW_ACTIVATE (R430): The command drains queues and mailboxes and switches the control complex to the new image. Posted by party `p` in its slot; what the switch-over has met, none while its gap goes on. -/
  | fwActivate (p : Party) (slot : Fin 32) (b : Option Standby)
  /-- DRILL (R430): The command drains and exercises a switch-over onto the standby core with the image in force. Posted by party `p` in its slot; what the switch-over has met, none while its gap goes on. -/
  | drill (p : Party) (slot : Fin 32) (b : Option Standby)
  /-- THM_ACK (R459): The command acknowledges the thermal latch, clearing VALID and logging THM_ACK. Posted by party `p` in its slot. -/
  | thmAck (p : Party) (slot : Fin 32)
  /-- DRAIN_TIMEOUT (R387): A drain not finished within DRAIN_MS completes the activation or drill with NOT_READY and resumes service. -/
  | drainTimeout
  /-- LOAD (R401): A write of LOAD to PER.Uu_CTL holds the core in reset and copies and checks its image from a handle. By party `p`, of `v` for core `u`. -/
  | load (p : Party) (u : Fin 4) (v : Word)
  /-- LOAD_COMPLETE (R401): A user-core load finishes and sets its outcome in PER.Uu_STATE. Of core `u`; `bad`: the copy met an uncorrectable GDDR6 error. -/
  | loadComplete (u : Fin 4) (bad : Bool)
  /-- CORE_RESET (R402): A write of RESET 1 stops a user core and clears its interrupt state, windows and slots. By party `p`, of `v` to PER.Uu_CTL of core `u`. -/
  | coreReset (p : Party) (u : Fin 4) (v : Word)
  /-- CORE_RELEASE (R402): A write of RESET 0 releases a user core at its loaded entry point. By party `p`, of `v` to PER.Uu_CTL of core `u`. -/
  | coreRelease (p : Party) (u : Fin 4) (v : Word)
  /-- HWIN_MAP (R399): A write to PER.Uu_HWINw maps or unmaps a handle window for the core. By party `p`, of `v` for window `w` of core `u`. -/
  | hwinMap (p : Party) (u : Fin 4) (w : Fin 16) (v : Word)
  /-- ACCESS_FAULT (R395): A user-core access outside its regions, to read-only space or meeting an uncorrectable word takes an access fault. On core `u` with mcause `cause` at address `addr`; `bad`: the access met an uncorrectable word (R396). -/
  | accessFault (u : Fin 4) (cause : Nat) (addr : Nat) (bad : Bool)
  /-- MACHINE_TIMER (R403): MTIME reaching a core's MTIMECMP makes its machine timer interrupt pending. Of core `u`. -/
  | machineTimer (u : Fin 4)
  /-- UART_TXDATA (R404): A write to UART TXDATA queues a byte, or sets OVERFLOW when the FIFO is full. By party `p`, of `v` to UART `i`. -/
  | uartTxdata (p : Party) (i : Fin 8) (v : Word)
  /-- UART_TX_BYTE (R404): A UART finishes sending a byte and raises TX_EMPTY when its FIFO empties. UART `i`. -/
  | uartTxByte (i : Fin 8)
  /-- UART_RX_BYTE (R404): A UART receives a byte into its RX FIFO, with overrun, parity, framing and break reported. UART `i`, byte `b`; with a parity error, a framing error, a break. -/
  | uartRxByte (i : Fin 8) (b : Byte) (parity : Bool) (framing : Bool) (brk : Bool)
  /-- UART_RXDATA_READ (R404): A read of UART RXDATA removes the entry read. By party `p`, of UART `i`. -/
  | uartRxdataRead (p : Party) (i : Fin 8)
  /-- SPI_TXDATA (R405): A write to SPI TXDATA queues a byte for the next transfer. By party `p`, of `v` to port `i`. -/
  | spiTxdata (p : Party) (i : Fin 6) (v : Word)
  /-- SPI_TRANSFER (R405): A write of GO to SPI XFER starts a full-duplex transfer, or is refused while busy. By party `p`, of `v` to port `i`. -/
  | spiTransfer (p : Party) (i : Fin 6) (v : Word)
  /-- SPI_DONE (R405): An SPI transfer finishes and raises DONE. Of port `i`; `l` are the bytes that came in. -/
  | spiDone (i : Fin 6) (l : List Byte)
  /-- SPI_RXDATA_READ (R405): A read of SPI RXDATA removes the entry read. By party `p`, of port `i`. -/
  | spiRxdataRead (p : Party) (i : Fin 6)
  /-- I3C_TXDATA (R406): A write to I3C TXDATA queues a byte for the next command. By party `p`, of `v` to port `i`. -/
  | i3cTxdata (p : Party) (i : Fin 4) (v : Word)
  /-- I3C_COMMAND (R406): A write of GO to I3C CMD starts a private transfer or CCC on the bus. By party `p`, of `v` to port `i`. -/
  | i3cCommand (p : Party) (i : Fin 4) (v : Word)
  /-- I3C_DONE (R406): An I3C command finishes with DONE, NACK or BUS_ERROR. Of port `i` with outcome `e`; `l` are the bytes that came in. -/
  | i3cDone (i : Fin 4) (e : BusEnd) (l : List Byte)
  /-- IBI (R406): An in-band interrupt is queued in the IBI FIFO or NACKed as lost. On port `i` from target `addr` with payload `l`. -/
  | ibi (i : Fin 4) (addr : Nat) (l : List Byte)
  /-- HOT_JOIN (R406): A hot-join request is acknowledged and reported. On port `i`. -/
  | hotJoin (i : Fin 4)
  /-- I3C_IBI_READ (R406): A read of PER.I3Ci_IBI removes the head IBI entry. By party `p`, of port `i`. -/
  | i3cIbiRead (p : Party) (i : Fin 4)
  /-- I3C_RXDATA_READ (R406): A read of I3C RXDATA removes the entry read. By party `p`, of port `i`. -/
  | i3cRxdataRead (p : Party) (i : Fin 4)
  /-- OUT_SET (R407): A write to GPIO_OUT_SET sets the named output bits atomically. By party `p`, of `v` to the _HI register when `hi`, else to _LO. -/
  | outSet (p : Party) (hi : Bool) (v : Word)
  /-- OUT_CLR (R407): A write to GPIO_OUT_CLR clears the named output bits atomically. By party `p`, of `v` to the _HI register when `hi`, else to _LO. -/
  | outClr (p : Party) (hi : Bool) (v : Word)
  /-- GPIO_EDGE (R407): An accepted edge of the selected kind on a GPIO pin raises its source. On pin `i`, rising or falling, of a pulse of `width` ns. -/
  | gpioEdge (i : Fin 64) (rising : Bool) (width : Nat)
  /-- SOURCE_EDGE (R409): An edge on an enabled interrupt source latches its pending bit and may signal the host. Of source `i`. -/
  | sourceEdge (i : Fin 1024)
  /-- SWSET (R408): A write to IRQ.SWSET presents an edge on the named software sources. By party `p`, of `v`. -/
  | swset (p : Party) (v : Word)
  /-- CLAIM (R411): A read of IRQ.Uu_CLAIM claims the most urgent routed source or returns the spurious number. By party `p`, of IRQ.Uu_CLAIM of core `u`. -/
  | claim (p : Party) (u : Fin 4)
  /-- EOI (R412): A write to IRQ.Uu_EOI ends the source on top of the core's stack or is counted as an error. By party `p`, of `v` to IRQ.Uu_EOI of core `u`. -/
  | eoi (p : Party) (u : Fin 4) (v : Word)
  /-- THRESH_WRITE (R431): A write of FLT.THRESH may raise RECORDS when the queued count now reaches it. By party `p`, of `v`. -/
  | threshWrite (p : Party) (v : Word)
  /-- CONTROL_CORE_FAULT (R424): An uncorrectable error or unrecoverable trap on a control core declares a fault and starts switch-over. On core `k`: an unrecoverable trap, else an uncorrectable error; `b` is what the switch-over has met, none while its gap goes on. -/
  | controlCoreFault (k : Fin 5) (trap : Bool) (b : Option Standby)
  /-- HEARTBEAT_TIMEOUT (R424): A control core with no heartbeat for HB_TIMEOUT µs is declared faulty. Of core `k`; `b` as for CONTROL_CORE_FAULT. -/
  | heartbeatTimeout (k : Fin 5) (b : Option Standby)
  /-- SELF_TEST (R427): A faulted core's 200 ms self-test ends, returning it to standby or marking it FAILED. Of core `k`. -/
  | selfTest (k : Fin 5) (pass : Bool)
  /-- CHECKPOINT (R425): Fjarera writes a checkpoint at a timing-master boundary, every 10 ms with no slot unmasked, or when the journal fills. The checkpoint is complete. -/
  | checkpoint
  /-- DRILL_OVERDUE (R428): FLT.DRILL_AGE passing 86,400,000 ms raises DRILL_OVERDUE. -/
  | drillOverdue
  /-- TRAINING (R436): At start the controller trains all GDDR6 channels and sets RUN, or raises TRAIN_FAIL. The first channel that has failed three attempts; none when every channel trained. -/
  | training (failed : Option (Fin 24))
  /-- RETRAINING_STEP (R437): One channel is retrained for 1,000 ns within a retraining window. -/
  | retrainingStep
  /-- RETRAIN_FORCED (R438): A channel not retrained within INTERVAL is retrained at once outside any window. Of channel `c`. -/
  | retrainForced (c : Fin 24)
  /-- REFRESH (R439): A per-bank refresh falls due and is issued or postponed, clearing the row-hammer table at each window end. Of bank `b` of channel `c`; `busy`: real-time requests to the bank are pending. -/
  | refresh (c : Fin 24) (b : Fin 16) (busy : Bool)
  /-- ACTIVATE (R441): A row ACTIVATE updates the row-hammer table and may trigger a neighbour refresh. Of row `r` of bank `b` of channel `c`, by a request. -/
  | activate (c : Fin 24) (b : Fin 16) (r : Nat)
  /-- MEM_READ (R442): A GDDR6 read is checked, corrected or retried, and delivered or reported uncorrectable. Of the granule at usable address `a` after `fails` failed link CRCs in a row, for `u`, where it decides what an error does for `who`; `wait` is what else waits. -/
  | memRead (a : Nat) (fails : Nat) (ecc : Ecc) (u : MemUser) (who : Option Client) (wait : MemWait)
  /-- MEM_WRITE (R443): A GDDR6 write is merged into its granule and resent on a returned CRC failure. Of the granule at usable address `a`, whole or in part, after `fails` failed link CRCs in a row; `u` and `wait` as for MEM_READ. -/
  | memWrite (a : Nat) (whole : Bool) (fails : Nat) (u : MemUser) (wait : MemWait)
  /-- MEM_SCRUB (R444): Patrol scrub reads a granule, correcting it or counting it uncorrectable. Of the granule at usable address `a`; `wait` as for MEM_READ. -/
  | memScrub (a : Nat) (ecc : Ecc) (wait : MemWait)
  /-- TEMP_CONVERSION (R452): Every 1 ms each temperature sensor converts, updating TMAX, exclusions, warnings and the measured band. Sensor values in 1/16 °C; none for a conversion that fails. -/
  | tempConversion (v : Vector (Option Int) 28)
  /-- RATE_EVALUATION (R454): Every 10 ms the device computes each sensor's rate of rise and applies the rate conditions. -/
  | rateEvaluation
  /-- COOLDOWN (R458): After a thermal shutdown, sensor 27 below 90 °C for 10 s lets core power return. -/
  | cooldown
  /-- SUPPLY_SAMPLE (R453): Every 1 ms each supply monitor samples and raises SUPPLY_WARN after two samples out of limits. Monitor `m` reads `v`, in mV or 10 mA. -/
  | supplySample (m : Fin 14) (v : BitVec 16)
  /-- LOG_SECOND (R418): Each second of Colophon time up to 16 records are persisted by priority and summaries written for the rest. -/
  | logSecond
  /-- SIDEBAND_WRITE (R463): A side-band Block Write command 0x20 writes a THM or MGT window register. On the I3C or the SMBus port, with a good or a bad PEC. -/
  | sidebandWrite (i3c good : Bool) (blk : Byte) (off : BitVec 16) (v : Word)
  /-- SIDEBAND_READ_ADDRESS (R463): A side-band Block Write command 0x21 selects a THM or MGT register to read. On the I3C or the SMBus port, with a good or a bad PEC. -/
  | sidebandReadAddress (i3c good : Bool) (blk : Byte) (off : BitVec 16)
  /-- SIDEBAND_READ (R463): A side-band Block Read command 0x22 returns the selected register's 4 bytes. On the I3C or the SMBus port, with a good or a bad PEC. -/
  | sidebandRead (i3c good : Bool)
  /-- SET_ENDPOINT_ID (R464): The MCTP control message sets the device's endpoint ID. Over the PCIe VDM or SMBus binding, with a good or a bad PEC. -/
  | setEndpointId (pcie good : Bool) (eid : Byte)
  /-- GET_ENDPOINT_ID (R464): The MCTP control message returns the device's endpoint ID. Over the PCIe VDM or SMBus binding, with a good or a bad PEC. -/
  | getEndpointId (pcie good : Bool)
  /-- GET_MCTP_VERSION_SUPPORT (R464): The MCTP control message returns the supported MCTP versions. Of message type `ty`, over the PCIe VDM or SMBus binding, with a good or a bad PEC. -/
  | getMctpVersionSupport (pcie good : Bool) (ty : Byte)
  /-- GET_MESSAGE_TYPE_SUPPORT (R464): The MCTP control message returns message types 0 and 1. Over the PCIe VDM or SMBus binding, with a good or a bad PEC. -/
  | getMessageTypeSupport (pcie good : Bool)
  /-- SET_EVENT_RECEIVER (R464): The PLDM message sets the receiver of PlatformEventMessage warnings. The receiver's address, or none; over the PCIe VDM or SMBus binding, with a good or a bad PEC. -/
  | setEventReceiver (pcie good : Bool) (addr : Option (List Byte))
  /-- PLDM_PLATFORM_MONITORING (R464): A PLDM monitoring request reads a numeric sensor mapped to a temperature sensor or supply monitor. Of numeric sensor `id`: its thresholds, else its reading. -/
  | pldmPlatformMonitoring (pcie good : Bool) (id : Nat) (thresholds : Bool)
  /-- PLDM_FIRMWARE_UPDATE (R464): A PLDM Firmware Update transfer delivers an image for Colophon or Fjarera for checking. The next part of an image for component `comp`; `last` ends the transfer. -/
  | pldmFirmwareUpdate (pcie good : Bool) (comp : BitVec 16) (part : List Byte) (last : Bool)
  /-- ACTIVATE_FIRMWARE (R468): The PLDM message activates a Colophon image by restart or a Fjarera image by the FW_ACTIVATE path. Of component `comp`; what a switch-over meets. -/
  | activateFirmware (pcie good : Bool) (comp : BitVec 16) (b : Option Standby)
  /-- READ_LOG (R465): A data-window GO with OP 1 starts reading log entries from DW_ARG. By party `p`: a write of `v` to its copy of MGT.DW_CMD. -/
  | readLog (p : Party) (v : Word)
  /-- WRITE_IMAGE (R465): A data-window GO with OP 2 starts receiving an image for a component. By party `p`: a write of `v` to its copy of MGT.DW_CMD. -/
  | writeImage (p : Party) (v : Word)
  /-- FINISH (R467): A data-window GO with OP 3 closes the image and verifies it. By party `p`: a write of `v` to its copy of MGT.DW_CMD. -/
  | finish (p : Party) (v : Word)
  /-- ABORT (R465): A data-window GO with OP 4 ends any operation. By party `p`: a write of `v` to its copy of MGT.DW_CMD. -/
  | abort (p : Party) (v : Word)
  /-- DW_DATA (R465): An access to MGT.DW_DATA moves the next word of the open window operation or is refused. By party `p`: a write of `v`, or a read. -/
  | dwData (p : Party) (v : Option Word)
  /-- HEALTH_TIMEOUT (R468): An activated image not healthy within 5 s uses a start, falling back to the other slot after three. Of Fjarera's image, else of Colophon's; `healthy`: it has reported healthy within the 5 s. -/
  | healthTimeout (fjarera healthy : Bool)
  /-- WATCHDOG (R470): The 100 ms Colophon watchdog, a trap or an activation restarts the Colophon processor. A trap, else a watchdog timeout. -/
  | watchdog (trap : Bool)
  /-- AON_RESET (R476): AON_RST_N rising samples the straps and starts Colophon's boot. After group A power-on, else after AON_RST_N alone; the straps in the places of SYS.STRAPS; what the flash holds. -/
  | aonReset (groupA : Bool) (straps : BitVec 6) (f : Flash)
  /-- CORE_PG (R476): CORE_PG rising holds core reset 2 ms for PLL lock before release. -/
  | corePg
  /-- CORE_RESET_RELEASE (R476): The core reset is released, the band applied, the map written and training started. -/
  | coreResetRelease
  /-- CORE_PG_TIMEOUT (R472): CORE_PG not risen within 60 ms drops core power, logs and retries after 100 ms, up to 3 attempts. -/
  | corePgTimeout
  /-- CORE_SUPPLY_LOSS (R472): CORE_PG falling while CORE_PWR_EN is high drops core power and restarts the core after 100 ms. -/
  | coreSupplyLoss
  /-- CORE_RESTART (R472): 100 ms after a core power drop Colophon raises CORE_PWR_EN again. -/
  | coreRestart
  /-- READINESS (R478): Fjarera finishes boot with forme 0 in force, raises SYS_READY and starts any mount. -/
  | readiness
  /-- DEVICE_RESET (R479): A keyed write of SYS.RESET_CTL resets domains 0–48 and reruns boot from the core step. By party `p`: a write of `v` to SYS.RESET_CTL. -/
  | deviceReset (p : Party) (v : Word)
  /-- CLOCK_MONITOR_WINDOW (R485): Each 1 ms window checks every reference clock, declaring losses and returns. AON_XTAL, SYS_REFCLK, PCIE_REFCLK, LNK_REFCLK, ETH_REFCLK: the deviation from nominal in ppm, none for no edge. -/
  | clockMonitorWindow (v : Vector (Option Int) 5)
  /-- MAINS_PHASE_FRET (R56): On a mains-source slot an angle fret fires when the mains phase, computed from time since the last valid edge, first reaches its key after the frame start. Entry `k` of slot `n`. -/
  | mainsPhaseFret (n : Fin 8) (k : Fin 256)
  /-- MAG_VCC_GOOD_RISE (R234): MAG_VCC_GOOD rising after MAG_VCC_EN lets the mount proceed to die reset, identification, training and volume recovery. `m` is what the dies hold. -/
  | magVccGoodRise (m : Medium)
  /-- BUS_MASTER_ENABLE (R350): A configuration write that changes a function's Bus Master Enable pauses or resumes that function's queue fetching and mailbox DMA. Of function `f`. -/
  | busMasterEnable (f : Fin 64) (on : Bool)
  /-- LANE_TEST_DURATION (R390): When a LANE_TEST's duration expires the device returns the lane to mode 0, restarts bring-up of an assigned lane's link and completes the command with the PRBS counts. Of lane `j`. -/
  | laneTestDuration (j : Fin 32)
  /-- THERMAL_CORE_POWER_OFF (R457): 2 ms after a shutdown condition sets, the device drives CORE_PWR_EN low whether or not the log entry is written, removing power from every domain except 49. -/
  | thermalCorePowerOff
  /-- PHASE_DRIFT (R438): A channel's EDC hold pattern drifting beyond 1/8 UI brings its next retraining step forward to the first instant with no real-time request pending. Of channel `c`; `busy`: a real-time request to it is pending. -/
  | phaseDrift (c : Fin 24) (busy : Bool)
  /-- ENTDAA (R462): The side-band I3C target port takes its dynamic address when the bus controller runs ENTDAA. The bus controller assigns `addr`. -/
  | entdaa (addr : BitVec 7)
  deriving DecidableEq, Repr

end Sys2Proof
end

