-- ==== Sys2Proof/Config.lean ====
section
/-! DEFINITION. What the implementation fixes and the spec leaves open: free values. None has a body,
so nothing that is proved can rest on the value one of them takes. Each is applied to the counter
`State.free`, which the command that takes a free value advances. -/

namespace Sys2Proof.Config

/-- A free natural number (notes/assumptions/3.md): a value the spec leaves open where a command goes on. (DESIGN CHOICE, log 3) -/
opaque freeNat : Nat → Nat

/-- A free 32-bit word (notes/assumptions/3.md). (DESIGN CHOICE, log 3) -/
opaque freeWord : Nat → Word

/-- A free string of bytes of a given length is read off byte by byte: byte `i` of draw `k` (notes/assumptions/3.md). (DESIGN CHOICE, log 3) -/
opaque freeByte : Nat → Nat → Byte

/-- Byte `off` of a buffer that nothing has written since the allocation of draw `k` (notes/assumptions/3.md). (DESIGN CHOICE, log 3) -/
opaque bufferByte (k off : Nat) : Byte

/-- A free truth value (notes/assumptions/3.md). (DESIGN CHOICE, log 3) -/
opaque freeBool : Nat → Bool

/-- The internal latency of a port in a mode, in 2⁻¹⁶ ns (R319): the spec names it and states no value. -/
opaque portLatency : Nat → Nat

/-- The calibrated receive latency of a link in ps (R107): the spec names it and states no value. -/
opaque linkLatency : Nat → Nat

/-- Whether an image is signed by a key the fuses trust (R467): the digest of its public key equals fuse digest KEY_INDEX, that key is
not revoked, and its signature is valid. The fuse digests are the implementation's. -/
opaque imageSigned : List Byte → Bool

/-- The GDDR6 demand in bytes per second that the buffers of host jobs take on a number of host-path courses (R30): the rule counts them
and the spec declares no rate for them. -/
opaque jobTraffic (courses : Nat) : Nat

/-- The GDDR6 demand in bytes per second of the buffers of a stream without rate control (R30): its RATE is not declared. -/
opaque cqpTraffic (stream : Nat) : Nat

/-- A column offset of a flat-field map whose fetch failed (R148, R152), by slot, ordinal, gain and column: the rule gives it no value. -/
opaque badColumn (slot ord gain x : Nat) : Word

/-- Byte `i` of the device serial number (Tables HQ-2, MBX-7): every device has its own. -/
opaque deviceSerial (i : Nat) : Byte

end Sys2Proof.Config
end

