-- ==== Sys2Proof/Machine/Bits.lean ====
section
/-! DEFINITION. Bit fields, sign extension and byte order: the helpers every block uses (R6, R7, R8). -/

namespace Sys2Proof.Machine
open Sys2Proof

/-- Field `[hi:lo]` of a word, as a number. -/
def field (w : Word) (hi lo : Nat) : Nat := (w.toNat >>> lo) % 2 ^ (hi - lo + 1)

/-- Bit `i` of a word. -/
def bit (w : Word) (i : Nat) : Bool := w.getLsbD i

/-- The word with bit `i` set. -/
def setBit (w : Word) (i : Nat) : Word := w ||| BitVec.ofNat 32 (2 ^ i)

/-- The word with bit `i` clear. -/
def clrBit (w : Word) (i : Nat) : Word := w &&& ~~~(BitVec.ofNat 32 (2 ^ i))

/-- The word with bit `i` set or clear. -/
def putBit (w : Word) (i : Nat) (b : Bool) : Word := if b then setBit w i else clrBit w i

/-- The mask of field `[hi:lo]`. -/
def fieldMask (hi lo : Nat) : Word := BitVec.ofNat 32 ((2 ^ (hi - lo + 1) - 1) * 2 ^ lo)

/-- The word with field `[hi:lo]` replaced by `v`, taken modulo the field's width. -/
def putField (w : Word) (hi lo v : Nat) : Word :=
  (w &&& ~~~(fieldMask hi lo)) ||| (BitVec.ofNat 32 (v * 2 ^ lo) &&& fieldMask hi lo)

/-- A word from a list of bit fields `(lo, value)`. -/
def packFields : List (Nat × Nat) → Word
  | [] => 0
  | (lo, v) :: r => BitVec.ofNat 32 (v * 2 ^ lo) ||| packFields r

/-- A number read as two's complement of `n` bits. -/
def signed (n v : Nat) : Int :=
  let m := v % 2 ^ n
  if m < 2 ^ (n - 1) then (m : Int) else (m : Int) - (2 ^ n : Nat)

/-- A word read as a signed number. -/
def sword (w : Word) : Int := signed 32 w.toNat

/-- A signed number as two's complement of `n` bits, wrapping. -/
def unsigned (n : Nat) (x : Int) : Nat := (x % ((2 ^ n : Nat) : Int)).toNat

/-- A signed number as a word, wrapping. -/
def wordOfInt (x : Int) : Word := BitVec.ofNat 32 (unsigned 32 x)

/-- `n` bytes of a number, least significant first (R6). -/
def leBytes : Nat → Nat → List Byte
  | 0, _ => []
  | n + 1, v => BitVec.ofNat 8 v :: leBytes n (v / 256)

/-- The number that bytes spell, least significant first (R6). -/
def ofLe : List Byte → Nat
  | [] => 0
  | b :: r => b.toNat + 256 * ofLe r

/-- `n` bytes of a list from an offset, as a little-endian number; bytes past the end count as 0. -/
def leAt (l : List Byte) (off n : Nat) : Nat := ofLe ((l.drop off).take n)

/-- `n` bytes of a number, most significant first. -/
def beBytes (n v : Nat) : List Byte := (leBytes n v).reverse

/-- The number that bytes spell, most significant first. -/
def beAt (l : List Byte) (off n : Nat) : Nat := ofLe ((l.drop off).take n).reverse

/-- Byte `i` of a list, 0 past its end. -/
def byteAt (l : List Byte) (i : Nat) : Byte := l.getD i 0

/-- A list of bytes as little-endian words. -/
def wordsOf : Nat → List Byte → List Word
  | 0, _ => []
  | n + 1, l => BitVec.ofNat 32 (ofLe (l.take 4)) :: wordsOf n (l.drop 4)

/-- Words as little-endian bytes. -/
def bytesOf : List Word → List Byte
  | [] => []
  | w :: r => leBytes 4 w.toNat ++ bytesOf r

/-- `n` zero bytes. -/
def zeros (n : Nat) : List Byte := List.replicate n 0

/-- The bytes cut or padded with zeros to `n`. -/
def padTo (n : Nat) (l : List Byte) : List Byte := l.take n ++ zeros (n - l.length)

/-- Whether every byte is zero. -/
def allZero (l : List Byte) : Bool := l.all (· == 0)

/-- Frame ordinal A is later than B when (A − B) mod 2³² lies in 1 to 2,147,483,647 (R5). -/
def later (a b : Word) : Bool := let d := (a - b).toNat; 1 ≤ d && d ≤ 2147483647

/-- A is B or later than B (R5). -/
def notBefore (a b : Word) : Bool := a == b || later a b

/-- The increment of an event counter, which saturates at 0xFFFF_FFFF (R10). -/
def satInc (w : Word) : Word := if w == 0xFFFFFFFF#32 then w else w + 1#32

/-- A sum on an event counter, saturating (R10). -/
def satAdd (w : Word) (n : Nat) : Word :=
  if w.toNat + n ≥ 0xFFFFFFFF then 0xFFFFFFFF#32 else BitVec.ofNat 32 (w.toNat + n)

/-- Division rounded up. -/
def ceilDiv (a b : Nat) : Nat := (a + b - 1) / b

/-- Division rounded half up. -/
def roundDiv (a b : Nat) : Nat := (2 * a + b) / (2 * b)

/-- One step of the reflected CRC-32 of R117 (polynomial 0xEDB8_8320), over eight bits. -/
def crcBits : Nat → Nat → Nat
  | 0, c => c
  | n + 1, c => crcBits n (if c % 2 == 1 then (c / 2) ^^^ 0xEDB88320 else c / 2)

/-- The CRC register after some bytes. -/
def crcFrom : Nat → List Byte → Nat
  | c, [] => c
  | c, b :: r => crcFrom (crcBits 8 (c ^^^ b.toNat)) r

end Sys2Proof.Machine
end

