-- ==== Sys2Proof/Machine/RegMap.lean ====
section
/-! DEFINITION. The register map (R6, R7, R9, R14): one row per register of the spec's register tables, with its
BAR0 offset, indices, access code (Table SYS-4), reset value and implemented bits. Bits outside the mask are
reserved: they read as zero and ignore what is written (R7). -/

namespace Sys2Proof.Machine
open Sys2Proof

/-- The access codes of Table SYS-4 (R9), and the two that the tables restrict to Fjarera. -/
inductive Acc where
  | ro | rw | wo | w1c | rc | fs
  | rwFj
  | woFj
  deriving DecidableEq, Repr

/-- One register of a table: up to three indices, each with a count and a stride. -/
structure Row where
  name : String
  base : Nat
  n1 : Nat
  s1 : Nat
  n2 : Nat
  s2 : Nat
  n3 : Nat
  s3 : Nat
  acc : Acc
  rst : Word
  mask : Word
  deriving DecidableEq, Repr

/-- A row from plain numbers. -/
def row (name : String) (base n1 s1 n2 s2 n3 s3 : Nat) (acc : Acc) (rst mask : Nat) : Row :=
  { name := name, base := base, n1 := n1, s1 := s1, n2 := n2, s2 := s2, n3 := n3, s3 := s3,
    acc := acc, rst := BitVec.ofNat 32 rst, mask := BitVec.ofNat 32 mask }

/-- The registers of the SYS block: name, offset, counts and strides of its indices, access code, reset value, implemented bits. -/
def sysRows : List Row := [
  row "SYS.IDENT" 0x0 1 0x0 1 0x0 1 0x0 .ro 0x96404101 0xFFFFFFFF,
  row "SYS.BOOT_STATE" 0x10 1 0x0 1 0x0 1 0x0 .ro 0x0 0x7,
  row "SYS.RESET_CAUSE" 0x14 1 0x0 1 0x0 1 0x0 .ro 0x0 0xFF,
  row "SYS.STRAPS" 0x18 1 0x0 1 0x0 1 0x0 .ro 0x0 0x3F,
  row "SYS.RESET_CTL" 0x1C 1 0x0 1 0x0 1 0x0 .wo 0x0 0xFFFF0001,
  row "SYS.CLK_STATE" 0x20 1 0x0 1 0x0 1 0x0 .ro 0x0 0x1F,
  row "SYS.CLK_LOSSES" 0x24 1 0x0 1 0x0 1 0x0 .rc 0x0 0xFFFFFFFF,
  row "SYS.EVENTS" 0x28 1 0x0 1 0x0 1 0x0 .w1c 0x0 0x3,
  row "SYS.BAD_ACCESS" 0x2C 1 0x0 1 0x0 1 0x0 .rc 0x0 0xFFFFFFFF]

/-- The registers of the MBX block: name, offset, counts and strides of its indices, access code, reset value, implemented bits. -/
def mbxRows : List Row := [
  row "MBX.SLOTs_CTL" 0x10000 32 0x400 1 0x0 1 0x0 .wo 0x0 0xC0000000,
  row "MBX.SLOTs_STATE" 0x10004 32 0x400 1 0x0 1 0x0 .ro 0x0 0xC000FFFF,
  row "MBX.SLOTs_REFUSED" 0x10008 32 0x400 1 0x0 1 0x0 .rc 0x0 0xFFFFFFFF,
  row "MBX.SLOTs_REQi" 0x10100 32 0x400 64 0x4 1 0x0 .rw 0x0 0xFFFFFFFF,
  row "MBX.SLOTs_RSPi" 0x10200 32 0x400 128 0x4 1 0x0 .ro 0x0 0xFFFFFFFF,
  row "MBX.SLOTs_CTL" 0x18000 4 0x1000 4 0x400 1 0x0 .wo 0x0 0xC0000000,
  row "MBX.SLOTs_STATE" 0x18004 4 0x1000 4 0x400 1 0x0 .ro 0x0 0xC000FFFF,
  row "MBX.SLOTs_REFUSED" 0x18008 4 0x1000 4 0x400 1 0x0 .rc 0x0 0xFFFFFFFF,
  row "MBX.SLOTs_REQi" 0x18100 4 0x1000 4 0x400 64 0x4 .rw 0x0 0xFFFFFFFF,
  row "MBX.SLOTs_RSPi" 0x18200 4 0x1000 4 0x400 128 0x4 .ro 0x0 0xFFFFFFFF,
  row "MBX.ACTIVE" 0x1C000 1 0x0 1 0x0 1 0x0 .ro 0x0 0xFFF001F,
  row "MBX.SERVED" 0x1C004 1 0x0 1 0x0 1 0x0 .rc 0x0 0xFFFFFFFF,
  row "MBX.FAILED_SW" 0x1C008 1 0x0 1 0x0 1 0x0 .rc 0x0 0xFFFFFFFF,
  row "MBX.FLR_CLEARED" 0x1C00C 1 0x0 1 0x0 1 0x0 .rc 0x0 0xFFFFFFFF]

/-- The registers of the FRM block: name, offset, counts and strides of its indices, access code, reset value, implemented bits. -/
def frmRows : List Row := [
  row "FRM.CFG_SLOT_MASK" 0x20000 1 0x0 1 0x0 1 0x0 .fs 0x0 0xFF,
  row "FRM.CFG_TIMING_MASTER" 0x20004 1 0x0 1 0x0 1 0x0 .fs 0x0 0x7,
  row "FRM.CFG_COURSE" 0x20008 1 0x0 1 0x0 1 0x0 .fs 0x0 0x1F1F1F1F,
  row "FRM.STATE" 0x20010 1 0x0 1 0x0 1 0x0 .ro 0x0 0xFF0F0F01,
  row "FRM.STRAY_WRITES" 0x20014 1 0x0 1 0x0 1 0x0 .rc 0x0 0xFFFFFFFF,
  row "FRM.TAG_MISMATCH" 0x20018 1 0x0 1 0x0 1 0x0 .rc 0x0 0xFFFFFFFF,
  row "FRM.APPLIED_COUNT" 0x2001C 1 0x0 1 0x0 1 0x0 .rc 0x0 0xFFFFFFFF,
  row "FRM.EVENTS" 0x20020 1 0x0 1 0x0 1 0x0 .w1c 0x0 0xF,
  row "FRM.PENDINGi" 0x20040 4 0x8 1 0x0 1 0x0 .ro 0x0 0xF00007FF,
  row "FRM.PENDINGi_ORD" 0x20044 4 0x8 1 0x0 1 0x0 .ro 0x0 0xFFFFFFFF,
  row "FRM.STAGEw_ID" 0x20100 5 0x20 1 0x0 1 0x0 .rw 0x0 0x1FF,
  row "FRM.STAGEw_ADDR" 0x20104 5 0x20 1 0x0 1 0x0 .rw 0x0 0x3FFFFFC,
  row "FRM.STAGEw_MASK" 0x20108 5 0x20 1 0x0 1 0x0 .rw 0xFFFFFFFF 0xFFFFFFFF,
  row "FRM.STAGEw_DATA" 0x2010C 5 0x20 1 0x0 1 0x0 .wo 0x0 0xFFFFFFFF,
  row "FRM.STAGEw_STATUS" 0x20110 5 0x20 1 0x0 1 0x0 .ro 0x0 0xE0007FFF]

/-- The registers of the FRT block: name, offset, counts and strides of its indices, access code, reset value, implemented bits. -/
def frtRows : List Row := [
  row "FRT.SLOTn_ENTRYk_LO" 0x30000 8 0x800 256 0x8 1 0x0 .fs 0x0 0xFFFFFFFF,
  row "FRT.SLOTn_ENTRYk_HI" 0x30004 8 0x800 256 0x8 1 0x0 .fs 0x0 0xFFFFFFFF,
  row "FRT.SLOTn_UNFIRED" 0x34000 8 0x4 1 0x0 1 0x0 .rc 0x0 0xFFFFFFFF,
  row "FRT.TS_Wk" 0x34100 5 0x4 1 0x0 1 0x0 .ro 0x0 0xFFFFFFFF,
  row "FRT.TS_LOST" 0x34120 1 0x0 1 0x0 1 0x0 .rc 0x0 0xFFFFFFFF]

/-- The registers of the REF block: name, offset, counts and strides of its indices, access code, reset value, implemented bits. -/
def refRows : List Row := [
  row "REF.x_FILT" 0x40000 3 0x10 1 0x0 1 0x0 .fs 0x4 0xC000FFFF,
  row "REF.x_EXP_PERIOD" 0x40004 3 0x10 1 0x0 1 0x0 .fs 0x0 0xFFFFFFFF,
  row "REF.x_MEAS_PERIOD" 0x40008 3 0x10 1 0x0 1 0x0 .ro 0x0 0xFFFFFFFF,
  row "REF.x_STATE" 0x4000C 3 0x10 1 0x0 1 0x0 .ro 0x0 0xE00000FF,
  row "REF.ENC_CFG" 0x40030 1 0x0 1 0x0 1 0x0 .fs 0x41000 0xE07FFFFF,
  row "REF.ENC_POS" 0x40034 1 0x0 1 0x0 1 0x0 .ro 0x0 0xFFFFFFFF,
  row "REF.EVENTS" 0x40040 1 0x0 1 0x0 1 0x0 .w1c 0x0 0x1FFF,
  row "REF.GEN_OUTLIERS" 0x40080 1 0x0 1 0x0 1 0x0 .rc 0x0 0xFFFFFFFF,
  row "REF.ENC_OUTLIERS" 0x40084 1 0x0 1 0x0 1 0x0 .rc 0x0 0xFFFFFFFF,
  row "REF.MAINS_OUTLIERS" 0x40088 1 0x0 1 0x0 1 0x0 .rc 0x0 0xFFFFFFFF,
  row "REF.ENC_ILLEGAL" 0x4008C 1 0x0 1 0x0 1 0x0 .rc 0x0 0xFFFFFFFF,
  row "REF.ENC_IDX_ADJ" 0x40090 1 0x0 1 0x0 1 0x0 .rc 0x0 0xFFFFFFFF,
  row "REF.ENC_IDX_MISMATCH" 0x40094 1 0x0 1 0x0 1 0x0 .rc 0x0 0xFFFFFFFF,
  row "REF.LOSSES" 0x40098 1 0x0 1 0x0 1 0x0 .rc 0x0 0xFFFFFFFF,
  row "REF.SLOTn_CAD" 0x40100 8 0x40 1 0x0 1 0x0 .fs 0x101000 0xEFFFF000,
  row "REF.SLOTn_PER_NUM" 0x40104 8 0x40 1 0x0 1 0x0 .fs 0x2FAF080 0xFFFFFFFF,
  row "REF.SLOTn_PER_DEN" 0x40108 8 0x40 1 0x0 1 0x0 .fs 0x1 0xFFFF,
  row "REF.SLOTn_PHASE_OFS" 0x4010C 8 0x40 1 0x0 1 0x0 .fs 0x0 0xFFFFFFFF,
  row "REF.SLOTn_LINE_TIME" 0x40110 8 0x40 1 0x0 1 0x0 .fs 0x75300 0xFFFFFFFF,
  row "REF.SLOTn_ANGLE" 0x40114 8 0x40 1 0x0 1 0x0 .fs 0x0 0xFFFF,
  row "REF.SLOTn_RAMP_NUM" 0x40118 8 0x40 1 0x0 1 0x0 .fs 0x0 0xFFFFFFFF,
  row "REF.SLOTn_RAMP_STEP" 0x4011C 8 0x40 1 0x0 1 0x0 .fs 0x0 0xFFFFFFFF,
  row "REF.SLOTn_STATE" 0x40120 8 0x40 1 0x0 1 0x0 .ro 0x0 0xE00000FF,
  row "REF.SLOTn_PHASE_ERR" 0x40124 8 0x40 1 0x0 1 0x0 .ro 0x0 0xFFFFFFFF,
  row "REF.SLOTn_MIN_PERIOD" 0x40128 8 0x40 1 0x0 1 0x0 .ro 0x0 0xFFFFFFFF,
  row "REF.MISSED_TRIGn" 0x4012C 8 0x40 1 0x0 1 0x0 .rc 0x0 0xFFFFFFFF,
  row "REF.SLOTn_EXP_NS" 0x41000 8 0x100 1 0x0 1 0x0 .fs 0x989680 0xFFFFFFFF,
  row "REF.SLOTn_EXP_GAIN" 0x41004 8 0x100 1 0x0 1 0x0 .fs 0x0 0xFFFF,
  row "REF.SLOTn_EXP_WORDS" 0x41008 8 0x100 1 0x0 1 0x0 .fs 0x0 0x1F,
  row "REF.SLOTn_EXP_PARAMi" 0x41020 8 0x100 24 0x4 1 0x0 .fs 0x0 0xFFFFFFFF]

/-- The registers of the LNK block: name, offset, counts and strides of its indices, access code, reset value, implemented bits. -/
def lnkRows : List Row := [
  row "LNK.Lk_CFG" 0x50000 4 0x100 1 0x0 1 0x0 .fs 0x58002710 0xF8007FFF,
  row "LNK.Lk_LANES" 0x50004 4 0x100 1 0x0 1 0x0 .fs 0x0 0xFFFFFFFF,
  row "LNK.Lk_SLOTS" 0x50008 4 0x100 1 0x0 1 0x0 .fs 0x0 0xFF,
  row "LNK.Lk_CTL" 0x5000C 4 0x100 1 0x0 1 0x0 .rw 0x10064 0x1FFFF,
  row "LNK.Lk_STATE" 0x50010 4 0x100 1 0x0 1 0x0 .ro 0x0 0xE7FF00FF,
  row "LNK.Lk_BC_DELAY" 0x50014 4 0x100 1 0x0 1 0x0 .ro 0x0 0xFFFFFFFF,
  row "LNK.Lk_DESKEW_ERR" 0x50018 4 0x100 1 0x0 1 0x0 .rc 0x0 0xFFFFFFFF,
  row "LNK.Lk_PKT_ABORT" 0x5001C 4 0x100 1 0x0 1 0x0 .rc 0x0 0xFFFFFFFF,
  row "LNK.Lk_ORPHAN" 0x50020 4 0x100 1 0x0 1 0x0 .rc 0x0 0xFFFFFFFF,
  row "LNK.Lk_UNKNOWN_CTL" 0x50024 4 0x100 1 0x0 1 0x0 .rc 0x0 0xFFFFFFFF,
  row "LNK.Lk_DOWNS" 0x50028 4 0x100 1 0x0 1 0x0 .rc 0x0 0xFFFFFFFF,
  row "LNK.Lk_BRINGUP_FAIL" 0x5002C 4 0x100 1 0x0 1 0x0 .rc 0x0 0xFFFFFFFF,
  row "LNK.Lk_PKTS" 0x50030 4 0x100 1 0x0 1 0x0 .rc 0x0 0xFFFFFFFF,
  row "LNK.LANEj_STATUS" 0x51000 32 0x40 1 0x0 1 0x0 .ro 0x0 0xFC00FF07,
  row "LNK.LANEj_TEST" 0x51004 32 0x40 1 0x0 1 0x0 .rw 0xC000000 0x7E000000,
  row "LNK.LANEj_HDR_ERR" 0x51008 32 0x40 1 0x0 1 0x0 .rc 0x0 0xFFFFFFFF,
  row "LNK.LANEj_LOCK_LOSS" 0x5100C 32 0x40 1 0x0 1 0x0 .rc 0x0 0xFFFFFFFF,
  row "LNK.LANEj_AM_MISS" 0x51010 32 0x40 1 0x0 1 0x0 .rc 0x0 0xFFFFFFFF,
  row "LNK.LANEj_EB_INSERT" 0x51014 32 0x40 1 0x0 1 0x0 .rc 0x0 0xFFFFFFFF,
  row "LNK.LANEj_EB_DELETE" 0x51018 32 0x40 1 0x0 1 0x0 .rc 0x0 0xFFFFFFFF,
  row "LNK.LANEj_PRBS_ERR" 0x5101C 32 0x40 1 0x0 1 0x0 .rc 0x0 0xFFFFFFFF,
  row "LNK.LANEj_PRBS_MBITS" 0x51020 32 0x40 1 0x0 1 0x0 .rc 0x0 0xFFFFFFFF,
  row "LNK.LANEj_EQ" 0x51024 32 0x40 1 0x0 1 0x0 .ro 0x0 0xFFFFFF,
  row "LNK.EVENTS" 0x52000 1 0x0 1 0x0 1 0x0 .w1c 0x0 0x1FF,
  row "LNK.TEST_REFUSED" 0x52004 1 0x0 1 0x0 1 0x0 .rc 0x0 0xFFFFFFFF,
  row "LNK.ADAPT_CTL" 0x52008 1 0x0 1 0x0 1 0x0 .rw 0x0 0x1]

/-- The registers of the ING block: name, offset, counts and strides of its indices, access code, reset value, implemented bits. -/
def ingRows : List Row := [
  row "ING.SLOTn_GEOM" 0x60000 8 0x200 1 0x0 1 0x0 .fs 0x10E02000 0xFFFFFFFF,
  row "ING.SLOTn_FMT" 0x60004 8 0x200 1 0x0 1 0x0 .fs 0x1 0x7,
  row "ING.SLOTn_TIMEOUT" 0x60008 8 0x200 1 0x0 1 0x0 .fs 0xFFFF 0xFFFFFF,
  row "ING.SLOTn_CUR_ORD" 0x6000C 8 0x200 1 0x0 1 0x0 .ro 0x0 0xFFFFFFFF,
  row "ING.SLOTn_CUR_STATE" 0x60010 8 0x200 1 0x0 1 0x0 .ro 0x0 0x8000FFFF,
  row "ING.SLOTn_LAST_CLOSE" 0x60014 8 0x200 1 0x0 1 0x0 .ro 0x0 0xE000FFFF,
  row "ING.SLOTn_LAST_ORD" 0x60018 8 0x200 1 0x0 1 0x0 .ro 0x0 0xFFFFFFFF,
  row "ING.SLOTn_LINES" 0x60020 8 0x200 1 0x0 1 0x0 .rc 0x0 0xFFFFFFFF,
  row "ING.SLOTn_FAILED" 0x60024 8 0x200 1 0x0 1 0x0 .rc 0x0 0xFFFFFFFF,
  row "ING.SLOTn_LONG_LINES" 0x60028 8 0x200 1 0x0 1 0x0 .rc 0x0 0xFFFFFFFF,
  row "ING.SLOTn_ORDER_ERR" 0x6002C 8 0x200 1 0x0 1 0x0 .rc 0x0 0xFFFFFFFF,
  row "ING.SLOTn_STRAY" 0x60030 8 0x200 1 0x0 1 0x0 .rc 0x0 0xFFFFFFFF,
  row "ING.SLOTn_DROPPED" 0x60034 8 0x200 1 0x0 1 0x0 .rc 0x0 0xFFFFFFFF,
  row "ING.SLOTn_SHORT_FRAMES" 0x60038 8 0x200 1 0x0 1 0x0 .rc 0x0 0xFFFFFFFF,
  row "ING.SLOTn_TRUNC_FRAMES" 0x6003C 8 0x200 1 0x0 1 0x0 .rc 0x0 0xFFFFFFFF,
  row "ING.SLOTn_FORMAT_ERR" 0x60040 8 0x200 1 0x0 1 0x0 .rc 0x0 0xFFFFFFFF,
  row "ING.SLOTn_META_Wi" 0x60080 8 0x200 32 0x4 1 0x0 .rw 0x0 0xFFFFFFFF,
  row "ING.SLOTn_META_COMMIT" 0x60100 8 0x200 1 0x0 1 0x0 .wo 0x0 0x1,
  row "ING.SLOTn_META_SEQ" 0x60104 8 0x200 1 0x0 1 0x0 .ro 0x0 0xFFFFFFFF,
  row "ING.SLOTn_CAPi" 0x60180 8 0x200 16 0x4 1 0x0 .ro 0x0 0xFFFFFFFF,
  row "ING.SLOTn_CAP_STATE" 0x601C0 8 0x200 1 0x0 1 0x0 .ro 0x0 0xC00000FF,
  row "ING.EVENTS" 0x61000 1 0x0 1 0x0 1 0x0 .w1c 0x0 0x1FF,
  row "ING.CRSc_HWM" 0x61010 4 0x4 1 0x0 1 0x0 .rc 0x0 0x1FFFFF]

/-- The registers of the RFE block: name, offset, counts and strides of its indices, access code, reset value, implemented bits. -/
def rfeRows : List Row := [
  row "RFE.SLOTn_CTL" 0x80000 8 0x1000 1 0x0 1 0x0 .fs 0x0 0xFF,
  row "RFE.SLOTn_CFA_DIM" 0x80004 8 0x1000 1 0x0 1 0x0 .fs 0x211 0x777,
  row "RFE.SLOTn_PED" 0x80008 8 0x1000 1 0x0 1 0x0 .fs 0x100 0xFFF,
  row "RFE.SLOTn_OB" 0x8000C 8 0x1000 1 0x0 1 0x0 .fs 0x0 0xFFFFFF,
  row "RFE.SLOTn_OB_CLIP" 0x80010 8 0x1000 1 0x0 1 0x0 .fs 0x400 0xFFFF,
  row "RFE.SLOTn_BLACK_H" 0x80014 8 0x1000 1 0x0 1 0x0 .fs 0x0 0xFFFFF,
  row "RFE.SLOTn_BLACK_L" 0x80018 8 0x1000 1 0x0 1 0x0 .fs 0x0 0xFFFFF,
  row "RFE.SLOTn_MERGE_G" 0x8001C 8 0x1000 1 0x0 1 0x0 .fs 0x3F800000 0xFFFFFFFF,
  row "RFE.SLOTn_MERGE_T" 0x80020 8 0x1000 1 0x0 1 0x0 .fs 0xF000C000 0xFFFFFFFF,
  row "RFE.SLOTn_DYN" 0x80024 8 0x1000 1 0x0 1 0x0 .fs 0x200040 0xFF0FFF,
  row "RFE.SLOTn_DARKb_g" 0x80040 8 0x1000 8 0x4 1 0x0 .fs 0x0 0xFFFFFFFF,
  row "RFE.SLOTn_CFA_ROWr" 0x80060 8 0x1000 8 0x4 1 0x0 .fs 0x0 0xFFFFFFFF,
  row "RFE.SLOTn_MEAS_BLACK_H" 0x80100 8 0x1000 1 0x0 1 0x0 .ro 0x0 0xFFFFF,
  row "RFE.SLOTn_MEAS_BLACK_L" 0x80104 8 0x1000 1 0x0 1 0x0 .ro 0x0 0xFFFFF,
  row "RFE.SLOTn_STATIC_FIXED" 0x80108 8 0x1000 1 0x0 1 0x0 .ro 0x0 0xFFFFFFFF,
  row "RFE.SLOTn_DYN_FIXED" 0x8010C 8 0x1000 1 0x0 1 0x0 .ro 0x0 0xFFFFFFFF,
  row "RFE.SLOTn_DEFECT_UNFIXED" 0x80110 8 0x1000 1 0x0 1 0x0 .rc 0x0 0xFFFFFFFF,
  row "RFE.SLOTn_CLIPPED" 0x80114 8 0x1000 1 0x0 1 0x0 .rc 0x0 0xFFFFFFFF,
  row "RFE.SLOTn_OB_MISSING" 0x80118 8 0x1000 1 0x0 1 0x0 .rc 0x0 0xFFFFFFFF,
  row "RFE.SLOTn_STATS_SEQ" 0x8011C 8 0x1000 1 0x0 1 0x0 .ro 0x0 0xFFFFFFFF,
  row "RFE.SLOTn_STATS_LOST" 0x80120 8 0x1000 1 0x0 1 0x0 .rc 0x0 0xFFFFFFFF,
  row "RFE.SLOTn_STATS_FRET_ERR" 0x80124 8 0x1000 1 0x0 1 0x0 .rc 0x0 0xFFFFFFFF,
  row "RFE.SLOTn_WINw_X" 0x80400 8 0x1000 16 0x20 1 0x0 .fs 0x0 0xFFFFFFFF,
  row "RFE.SLOTn_WINw_Y" 0x80404 8 0x1000 16 0x20 1 0x0 .fs 0x0 0x3FFF3FFF,
  row "RFE.SLOTn_WINw_CFG" 0x80408 8 0x1000 16 0x20 1 0x0 .fs 0x0 0x7FF7F,
  row "RFE.EVENTS" 0x90000 1 0x0 1 0x0 1 0x0 .w1c 0x0 0xFF0F]

/-- The registers of the CLR block: name, offset, counts and strides of its indices, access code, reset value, implemented bits. -/
def clrRows : List Row := [
  row "CLR.SLOTn_BANDi_i" 0xA0080 8 0x1000 6 0x1C 1 0x0 .fs 0x3F800000 0xFFFFFFFF,
  row "CLR.RENDr_PROJk_k" 0xA8010 32 0x100 3 0x1C 1 0x0 .fs 0x3F800000 0xFFFFFFFF,
  row "CLR.SLOTn_CTL" 0xA0000 8 0x1000 1 0x0 1 0x0 .fs 0x20000 0xF73F73,
  row "CLR.SLOTn_EXP_GAIN" 0xA0004 8 0x1000 1 0x0 1 0x0 .fs 0x3F800000 0xFFFFFFFF,
  row "CLR.SLOTn_GAINc" 0xA0010 8 0x1000 6 0x4 1 0x0 .fs 0x3F800000 0xFFFFFFFF,
  row "CLR.SLOTn_CLIPc" 0xA0030 8 0x1000 6 0x4 1 0x0 .fs 0x3F800000 0xFFFFFFFF,
  row "CLR.SLOTn_BANDi_j" 0xA0080 8 0x1000 36 0x4 1 0x0 .fs 0x0 0xFFFFFFFF,
  row "CLR.SLOTn_LUMAb" 0xA0120 8 0x1000 6 0x4 1 0x0 .fs 0x0 0xFFFFFFFF,
  row "CLR.SLOTn_SNR_K" 0xA0140 8 0x1000 1 0x0 1 0x0 .fs 0x0 0xFFFFFFFF,
  row "CLR.SLOTn_SNR_FLOOR" 0xA0144 8 0x1000 1 0x0 1 0x0 .fs 0x3F800000 0xFFFFFFFF,
  row "CLR.SLOTn_SNR_STRb" 0xA0148 8 0x1000 6 0x4 1 0x0 .fs 0x0 0xFFFFFFFF,
  row "CLR.SLOTn_SNR_KERNi" 0xA0160 8 0x1000 20 0x4 1 0x0 .fs 0x0 0xFFFFFFFF,
  row "CLR.SLOTn_SNR_KERN20" 0xA01B0 8 0x1000 1 0x0 1 0x0 .fs 0x0 0xFF,
  row "CLR.SLOTn_TNR_ALPHA_MIN" 0xA01C0 8 0x1000 1 0x0 1 0x0 .fs 0x3F800000 0xFFFFFFFF,
  row "CLR.SLOTn_TNR_T" 0xA01C4 8 0x1000 1 0x0 1 0x0 .fs 0x3F800000 0xFFFFFFFF,
  row "CLR.SLOTn_DEMOSAIC_VOID" 0xA0200 8 0x1000 1 0x0 1 0x0 .rc 0x0 0xFFFFFFFF,
  row "CLR.SLOTn_HL_PIXELS" 0xA0204 8 0x1000 1 0x0 1 0x0 .ro 0x0 0xFFFFFFFF,
  row "CLR.SLOTn_MESH_CLAMPED" 0xA0208 8 0x1000 1 0x0 1 0x0 .rc 0x0 0xFFFFFFFF,
  row "CLR.SLOTn_TNR_RESETS" 0xA020C 8 0x1000 1 0x0 1 0x0 .rc 0x0 0xFFFFFFFF,
  row "CLR.RENDr_CTL" 0xA8000 32 0x100 1 0x0 1 0x0 .fs 0x0 0x873EF000,
  row "CLR.RENDr_SHAPE_IN" 0xA8004 32 0x100 1 0x0 1 0x0 .fs 0x0 0x7F7F7F,
  row "CLR.RENDr_SHAPE_OUT" 0xA8008 32 0x100 1 0x0 1 0x0 .fs 0x0 0x7F7F7F,
  row "CLR.RENDr_SHAPE_RANGE" 0xA800C 32 0x100 1 0x0 1 0x0 .fs 0x4F0 0xFFFF,
  row "CLR.RENDr_PROJk_j" 0xA8010 32 0x100 18 0x4 1 0x0 .fs 0x0 0xFFFFFFFF,
  row "CLR.RENDr_PROJ_OFSk" 0xA8058 32 0x100 3 0x4 1 0x0 .fs 0x0 0xFFFFFFFF,
  row "CLR.RENDr_TM_KNEE" 0xA8064 32 0x100 1 0x0 1 0x0 .fs 0x3F400000 0xFFFFFFFF,
  row "CLR.RENDr_TM_PEAK" 0xA8068 32 0x100 1 0x0 1 0x0 .fs 0x3F800000 0xFFFFFFFF,
  row "CLR.EVENTS" 0xB0000 1 0x0 1 0x0 1 0x0 .w1c 0x0 0x7,
  row "CLR.LUT_CORRECTED" 0xB0004 1 0x0 1 0x0 1 0x0 .rc 0x0 0xFFFFFFFF,
  row "CLR.LUT_UNCORR" 0xB0008 1 0x0 1 0x0 1 0x0 .rc 0x0 0xFFFFFFFF]

/-- The registers of the IMP block: name, offset, counts and strides of its indices, access code, reset value, implemented bits. -/
def impRows : List Row := [
  row "IMP.SURFs_CTL" 0xC0000 32 0x40 1 0x0 1 0x0 .fs 0x0 0x9FFFFFF0,
  row "IMP.SURFs_CROP_XY" 0xC0004 32 0x40 1 0x0 1 0x0 .fs 0x0 0xFFFFFFFF,
  row "IMP.SURFs_CROP_WH" 0xC0008 32 0x40 1 0x0 1 0x0 .fs 0x10E02000 0xFFFFFFFF,
  row "IMP.SURFs_OUT_WH" 0xC000C 32 0x40 1 0x0 1 0x0 .fs 0x4380780 0xFFFFFFFF,
  row "IMP.SURFs_ALPHA" 0xC0010 32 0x40 1 0x0 1 0x0 .fs 0xFF 0xFF,
  row "IMP.SURFs_EDGE_GAIN" 0xC0014 32 0x40 1 0x0 1 0x0 .fs 0x44000000 0xFFFFFFFF,
  row "IMP.SURFs_POOLi" 0xC0018 32 0x40 4 0x4 1 0x0 .fs 0x0 0xFFFFFFFF,
  row "IMP.SURFs_LATEST" 0xC0028 32 0x40 1 0x0 1 0x0 .ro 0x0 0x8000FFFF,
  row "IMP.SURFs_LAST_ORD" 0xC002C 32 0x40 1 0x0 1 0x0 .ro 0x0 0xFFFFFFFF,
  row "IMP.SURFs_DROPPED" 0xC0030 32 0x40 1 0x0 1 0x0 .rc 0x0 0xFFFFFFFF,
  row "IMP.SURFs_NO_BUFFER" 0xC0034 32 0x40 1 0x0 1 0x0 .rc 0x0 0xFFFFFFFF,
  row "IMP.SURFs_FILLED" 0xC0038 32 0x40 1 0x0 1 0x0 .rc 0x0 0xFFFFFFFF,
  row "IMP.EVENTS" 0xC1000 1 0x0 1 0x0 1 0x0 .w1c 0x0 0x7,
  row "IMP.HANDLES_FREE" 0xC1004 1 0x0 1 0x0 1 0x0 .ro 0xFFFF 0xFFFFFFFF,
  row "IMP.HANDLE_SEL" 0xC1008 1 0x0 1 0x0 1 0x0 .rw 0x0 0xFFFF,
  row "IMP.HANDLE_STATE" 0xC100C 1 0x0 1 0x0 1 0x0 .ro 0x0 0xC00003FF]

/-- The registers of the GAL block: name, offset, counts and strides of its indices, access code, reset value, implemented bits. -/
def galRows : List Row := [
  row "GAL.CFG" 0xD0000 1 0x0 1 0x0 1 0x0 .fs 0x80000040 0x800000FF,
  row "GAL.PREREC" 0xD0004 1 0x0 1 0x0 1 0x0 .fs 0x0 0xFFFF,
  row "GAL.GOV_THRESH" 0xD0008 1 0x0 1 0x0 1 0x0 .fs 0x800040 0xFF00FF,
  row "GAL.GOV_STEP" 0xD000C 1 0x0 1 0x0 1 0x0 .fs 0xF00820 0xFFFFFFFF,
  row "GAL.GOV_HORIZON" 0xD0010 1 0x0 1 0x0 1 0x0 .fs 0x7D0 0xFFFF,
  row "GAL.GOV_LOSSY" 0xD0014 1 0x0 1 0x0 1 0x0 .fs 0x200 0xFFFF,
  row "GAL.FILL" 0xD0040 1 0x0 1 0x0 1 0x0 .ro 0x0 0xFFFFFFFF,
  row "GAL.MAG_RATE" 0xD0044 1 0x0 1 0x0 1 0x0 .ro 0x0 0xFFFFFFFF,
  row "GAL.IN_RATE" 0xD0048 1 0x0 1 0x0 1 0x0 .ro 0x0 0xFFFFFFFF,
  row "GAL.PREREC_FILL" 0xD004C 1 0x0 1 0x0 1 0x0 .ro 0x0 0xFFFFFFFF,
  row "GAL.EVENTS" 0xD0050 1 0x0 1 0x0 1 0x0 .w1c 0x0 0x3F,
  row "GAL.RAISES" 0xD0054 1 0x0 1 0x0 1 0x0 .rc 0x0 0xFFFFFFFF,
  row "GAL.LOWERS" 0xD0058 1 0x0 1 0x0 1 0x0 .rc 0x0 0xFFFFFFFF,
  row "GAL.FRAMES_FAILED" 0xD005C 1 0x0 1 0x0 1 0x0 .rc 0x0 0xFFFFFFFF,
  row "GAL.READ_CORRUPT" 0xD0060 1 0x0 1 0x0 1 0x0 .rc 0x0 0xFFFFFFFF,
  row "GAL.HOST_FILL" 0xD0064 1 0x0 1 0x0 1 0x0 .ro 0x0 0xFFFFFFFF,
  row "GAL.SLOTn_RATIO" 0xD0080 8 0x4 1 0x0 1 0x0 .ro 0x0 0xFFFF]

/-- The registers of the TRB block: name, offset, counts and strides of its indices, access code, reset value, implemented bits. -/
def trbRows : List Row := [
  row "TRB.SLOTn_CTL" 0xE0000 8 0x40 1 0x0 1 0x0 .fs 0x4010 0x8000FF3F,
  row "TRB.SLOTn_RATIO" 0xE0004 8 0x40 1 0x0 1 0x0 .fs 0x12000400 0xFFFFFFFF,
  row "TRB.Tt_STATE" 0xE1000 4 0x40 1 0x0 1 0x0 .ro 0x0 0x8700003F,
  row "TRB.Tt_FRAMES" 0xE1004 4 0x40 1 0x0 1 0x0 .rc 0x0 0xFFFFFFFF,
  row "TRB.Tt_CAPPED" 0xE1008 4 0x40 1 0x0 1 0x0 .rc 0x0 0xFFFFFFFF,
  row "TRB.Tt_MAX_BLOCKS" 0xE100C 4 0x40 1 0x0 1 0x0 .rc 0x0 0xFFFFFFFF,
  row "TRB.Tt_LAST_BYTES" 0xE1010 4 0x40 1 0x0 1 0x0 .ro 0x0 0xFFFFFFFF,
  row "TRB.EVENTS" 0xE2000 1 0x0 1 0x0 1 0x0 .w1c 0x0 0x1]

/-- The registers of the MAG block: name, offset, counts and strides of its indices, access code, reset value, implemented bits. -/
def magRows : List Row := [
  row "MAG.CFG" 0xF0000 1 0x0 1 0x0 1 0x0 .rw 0xE0000000 0xE0000003,
  row "MAG.STATE" 0xF0004 1 0x0 1 0x0 1 0x0 .ro 0x18000000 0xFFEF81FF,
  row "MAG.SECTORS_LO" 0xF0008 1 0x0 1 0x0 1 0x0 .ro 0x0 0xFFFFFFFF,
  row "MAG.SECTORS_HI" 0xF000C 1 0x0 1 0x0 1 0x0 .ro 0x0 0xFFFFFFFF,
  row "MAG.FREE_LO" 0xF0010 1 0x0 1 0x0 1 0x0 .ro 0x0 0xFFFFFFFF,
  row "MAG.FREE_HI" 0xF0014 1 0x0 1 0x0 1 0x0 .ro 0x0 0xFFFFFFFF,
  row "MAG.WRITE_RATE" 0xF0018 1 0x0 1 0x0 1 0x0 .ro 0x0 0xFFFFFFFF,
  row "MAG.GUAR_WRITE" 0xF001C 1 0x0 1 0x0 1 0x0 .ro 0x0 0xFFFFFFFF,
  row "MAG.GUAR_READ" 0xF0020 1 0x0 1 0x0 1 0x0 .ro 0x0 0xFFFFFFFF,
  row "MAG.RETRY_START" 0xF0024 1 0x0 1 0x0 1 0x0 .rw 0x0 0xFFFFFFFF,
  row "MAG.COMMIT_SEQ_LO" 0xF0028 1 0x0 1 0x0 1 0x0 .ro 0x0 0xFFFFFFFF,
  row "MAG.COMMIT_SEQ_HI" 0xF002C 1 0x0 1 0x0 1 0x0 .ro 0x0 0xFFFFFFFF,
  row "MAG.PROG_FAIL" 0xF0040 1 0x0 1 0x0 1 0x0 .rc 0x0 0xFFFFFFFF,
  row "MAG.ERASE_FAIL" 0xF0044 1 0x0 1 0x0 1 0x0 .rc 0x0 0xFFFFFFFF,
  row "MAG.READ_RETRY" 0xF0048 1 0x0 1 0x0 1 0x0 .rc 0x0 0xFFFFFFFF,
  row "MAG.PARITY_REBUILT" 0xF004C 1 0x0 1 0x0 1 0x0 .rc 0x0 0xFFFFFFFF,
  row "MAG.UNRECOVERABLE" 0xF0050 1 0x0 1 0x0 1 0x0 .rc 0x0 0xFFFFFFFF,
  row "MAG.DEFERRED" 0xF0054 1 0x0 1 0x0 1 0x0 .rc 0x0 0xFFFFFFFF,
  row "MAG.COMMITS" 0xF0058 1 0x0 1 0x0 1 0x0 .rc 0x0 0xFFFFFFFF,
  row "MAG.BG_OPS" 0xF005C 1 0x0 1 0x0 1 0x0 .rc 0x0 0xFFFFFFFF,
  row "MAG.EVENTS" 0xF0080 1 0x0 1 0x0 1 0x0 .w1c 0x0 0x3FFF]

/-- The registers of the HEV block: name, offset, counts and strides of its indices, access code, reset value, implemented bits. -/
def hevRows : List Row := [
  row "HEV.Ee_Sk_CTL" 0x100000 4 0x4000 16 0x100 1 0x0 .fs 0xA000BA 0xFFFE00FF,
  row "HEV.Ee_Sk_SRC" 0x100004 4 0x4000 16 0x100 1 0x0 .fs 0x0 0xFF00001F,
  row "HEV.Ee_Sk_SIZE" 0x100008 4 0x4000 16 0x100 1 0x0 .fs 0x4380780 0x3FFF3FFF,
  row "HEV.Ee_Sk_GOP" 0x10000C 4 0x4000 16 0x100 1 0x0 .fs 0x3C 0x8000FFFF,
  row "HEV.Ee_Sk_RATE" 0x100010 4 0x4000 16 0x100 1 0x0 .fs 0xC350 0xFFFFFFFF,
  row "HEV.Ee_Sk_MAXBR" 0x100014 4 0x4000 16 0x100 1 0x0 .fs 0xC350 0xFFFFFFFF,
  row "HEV.Ee_Sk_CPB" 0x100018 4 0x4000 16 0x100 1 0x0 .fs 0xC350 0xFFFFFFFF,
  row "HEV.Ee_Sk_QP" 0x10001C 4 0x4000 16 0x100 1 0x0 .fs 0x330A1E 0x3F3F3F,
  row "HEV.Ee_Sk_PIC_CAP" 0x100020 4 0x4000 16 0x100 1 0x0 .fs 0x0 0xFFFFFFFF,
  row "HEV.Ee_Sk_CODING" 0x100024 4 0x4000 16 0x100 1 0x0 .fs 0x27E00 0x37FFF,
  row "HEV.Ee_Sk_RING" 0x100028 4 0x4000 16 0x100 1 0x0 .fs 0x40 0xFFFF,
  row "HEV.Ee_Sk_PIC_QP" 0x100040 4 0x4000 16 0x100 1 0x0 .rwFj 0x0 0x8000003F,
  row "HEV.Ee_Sk_PIC_TARGET" 0x100044 4 0x4000 16 0x100 1 0x0 .rwFj 0x0 0xFFFFFFFF,
  row "HEV.Ee_Sk_STATE" 0x100048 4 0x4000 16 0x100 1 0x0 .ro 0x0 0xFF00FFFF,
  row "HEV.Ee_Sk_PICS" 0x10004C 4 0x4000 16 0x100 1 0x0 .rc 0x0 0xFFFFFFFF,
  row "HEV.Ee_Sk_EXHAUSTED" 0x100050 4 0x4000 16 0x100 1 0x0 .rc 0x0 0xFFFFFFFF,
  row "HEV.Ee_Sk_SKIPPED" 0x100054 4 0x4000 16 0x100 1 0x0 .rc 0x0 0xFFFFFFFF,
  row "HEV.Ee_Sk_RING_LOST" 0x100058 4 0x4000 16 0x100 1 0x0 .rc 0x0 0xFFFFFFFF,
  row "HEV.Ee_Sk_START_ERR" 0x10005C 4 0x4000 16 0x100 1 0x0 .rc 0x0 0xFFFFFFFF,
  row "HEV.Ee_Sk_LAST_BYTES" 0x100060 4 0x4000 16 0x100 1 0x0 .ro 0x0 0xFFFFFFFF,
  row "HEV.Ee_STATE" 0x110000 4 0x40 1 0x0 1 0x0 .ro 0x0 0x8000000F,
  row "HEV.Ee_LOAD" 0x110004 4 0x40 1 0x0 1 0x0 .ro 0x0 0xFFFFFFFF,
  row "HEV.Ee_ROWS" 0x110008 4 0x40 1 0x0 1 0x0 .rc 0x0 0xFFFFFFFF,
  row "HEV.DEC_STATE" 0x111000 1 0x0 1 0x0 1 0x0 .ro 0x0 0x800FFFFF,
  row "HEV.DEC_PICS" 0x111004 1 0x0 1 0x0 1 0x0 .rc 0x0 0xFFFFFFFF,
  row "HEV.DEC_SUBSTITUTED" 0x111008 1 0x0 1 0x0 1 0x0 .rc 0x0 0xFFFFFFFF,
  row "HEV.DEC_CONCEALED" 0x11100C 1 0x0 1 0x0 1 0x0 .rc 0x0 0xFFFFFFFF,
  row "HEV.EVENTS" 0x112000 1 0x0 1 0x0 1 0x0 .w1c 0x0 0xFF]

/-- The registers of the DSP block: name, offset, counts and strides of its indices, access code, reset value, implemented bits. -/
def dspRows : List Row := [
  row "DSP.Dh_CTL" 0x120000 6 0x1000 1 0x0 1 0x0 .fs 0xC011000 0xFF8FF000,
  row "DSP.Dh_H1" 0x120004 6 0x1000 1 0x0 1 0x0 .fs 0x7800058 0xFFFFFFFF,
  row "DSP.Dh_H2" 0x120008 6 0x1000 1 0x0 1 0x0 .fs 0x2C0094 0xFFFFFFFF,
  row "DSP.Dh_V1" 0x12000C 6 0x1000 1 0x0 1 0x0 .fs 0x4380004 0xFFFFFFFF,
  row "DSP.Dh_V2" 0x120010 6 0x1000 1 0x0 1 0x0 .fs 0x50024 0xFFFFFFFF,
  row "DSP.Dh_F_NUM" 0x120014 6 0x1000 1 0x0 1 0x0 .fs 0x24414 0xFFFFFFFF,
  row "DSP.Dh_F_DEN" 0x120018 6 0x1000 1 0x0 1 0x0 .fs 0x1 0xFFFF,
  row "DSP.Dh_PHASE_OFS" 0x12001C 6 0x1000 1 0x0 1 0x0 .fs 0x0 0xFFFFFFFF,
  row "DSP.Dh_PULL" 0x120020 6 0x1000 1 0x0 1 0x0 .fs 0x32 0xFF,
  row "DSP.Dh_BG" 0x120024 6 0x1000 1 0x0 1 0x0 .fs 0x0 0x3FFFFFFF,
  row "DSP.Dh_STATE" 0x120028 6 0x1000 1 0x0 1 0x0 .ro 0x0 0xC0000000,
  row "DSP.Dh_PHASE_ERR" 0x12002C 6 0x1000 1 0x0 1 0x0 .ro 0x0 0xFFFFFFFF,
  row "DSP.Dh_FREQ_OFS" 0x120030 6 0x1000 1 0x0 1 0x0 .ro 0x0 0xFFFFFFFF,
  row "DSP.Dh_FRAMES" 0x120034 6 0x1000 1 0x0 1 0x0 .rc 0x0 0xFFFFFFFF,
  row "DSP.Dh_UNDERFLOW" 0x120038 6 0x1000 1 0x0 1 0x0 .rc 0x0 0xFFFFFFFF,
  row "DSP.Dh_PLANE_REJECT" 0x12003C 6 0x1000 1 0x0 1 0x0 .rc 0x0 0xFFFFFFFF,
  row "DSP.Dh_Pp_CFG" 0x120100 6 0x1000 4 0x20 1 0x0 .fs 0xFF 0xDFFF00FF,
  row "DSP.Dh_Pp_POS" 0x120104 6 0x1000 4 0x20 1 0x0 .fs 0x0 0xFFFFFFFF,
  row "DSP.Dh_Pp_SIZE" 0x120108 6 0x1000 4 0x20 1 0x0 .fs 0x0 0xFFFFFFFF,
  row "DSP.Dh_Pp_HANDLE" 0x12010C 6 0x1000 4 0x20 1 0x0 .rw 0x0 0xFFFF,
  row "DSP.Dh_Pp_SHOWN" 0x120110 6 0x1000 4 0x20 1 0x0 .ro 0x0 0x8000FFFF,
  row "DSP.EDPp_CFG" 0x128000 2 0x8 1 0x0 1 0x0 .fs 0xA400400 0xFFE0FF00,
  row "DSP.EDPp_STATE" 0x128004 2 0x8 1 0x0 1 0x0 .ro 0x0 0xFFE00000,
  row "DSP.SDIq_CFG" 0x128020 4 0x4 1 0x0 1 0x0 .fs 0x0 0xFE000000,
  row "DSP.EVENTS" 0x128040 1 0x0 1 0x0 1 0x0 .w1c 0x0 0x1FF]

/-- The registers of the NET block: name, offset, counts and strides of its indices, access code, reset value, implemented bits. -/
def netRows : List Row := [
  row "NET.Pp_CFG" 0x140000 2 0x400 1 0x0 1 0x0 .fs 0x0 0xF0000000,
  row "NET.Pp_IFf_IP" 0x140010 2 0x400 4 0x10 1 0x0 .fs 0x0 0xFFFFFFFF,
  row "NET.Pp_IFf_MAC_LO" 0x140014 2 0x400 4 0x10 1 0x0 .fs 0x0 0xFFFFFFFF,
  row "NET.Pp_IFf_MAC_HI" 0x140018 2 0x400 4 0x10 1 0x0 .fs 0x0 0xFFFF,
  row "NET.Pp_STATE" 0x140080 2 0x400 1 0x0 1 0x0 .ro 0x0 0xFF,
  row "NET.Pp_TX_PKTS" 0x140084 2 0x400 1 0x0 1 0x0 .rc 0x0 0xFFFFFFFF,
  row "NET.Pp_TX_DROPPED" 0x140088 2 0x400 1 0x0 1 0x0 .rc 0x0 0xFFFFFFFF,
  row "NET.Pp_TX_LATE" 0x14008C 2 0x400 1 0x0 1 0x0 .rc 0x0 0xFFFFFFFF,
  row "NET.Pp_RX_PTP" 0x140090 2 0x400 1 0x0 1 0x0 .rc 0x0 0xFFFFFFFF,
  row "NET.Pp_RX_OTHER" 0x140094 2 0x400 1 0x0 1 0x0 .rc 0x0 0xFFFFFFFF,
  row "NET.Pp_FEC_UNCORR" 0x140098 2 0x400 1 0x0 1 0x0 .rc 0x0 0xFFFFFFFF,
  row "NET.Pp_LINK_DOWNS" 0x14009C 2 0x400 1 0x0 1 0x0 .rc 0x0 0xFFFFFFFF,
  row "NET.SNDi_CTL" 0x141000 48 0x80 1 0x0 1 0x0 .fs 0x10004B0 0xFFF007FF,
  row "NET.SNDi_SRC" 0x141004 48 0x80 1 0x0 1 0x0 .fs 0x0 0x700FFFF,
  row "NET.SNDi_IP_A" 0x141008 48 0x80 1 0x0 1 0x0 .fs 0x0 0xFFFFFFFF,
  row "NET.SNDi_UDP_A" 0x14100C 48 0x80 1 0x0 1 0x0 .fs 0x4E204E20 0xFFFFFFFF,
  row "NET.SNDi_MAC_A_LO" 0x141010 48 0x80 1 0x0 1 0x0 .fs 0x0 0xFFFFFFFF,
  row "NET.SNDi_MAC_A_HI" 0x141014 48 0x80 1 0x0 1 0x0 .fs 0x0 0xFFFF,
  row "NET.SNDi_IP_B" 0x141018 48 0x80 1 0x0 1 0x0 .fs 0x0 0xFFFFFFFF,
  row "NET.SNDi_UDP_B" 0x14101C 48 0x80 1 0x0 1 0x0 .fs 0x4E204E20 0xFFFFFFFF,
  row "NET.SNDi_MAC_B_LO" 0x141020 48 0x80 1 0x0 1 0x0 .fs 0x0 0xFFFFFFFF,
  row "NET.SNDi_MAC_B_HI" 0x141024 48 0x80 1 0x0 1 0x0 .fs 0x0 0xFFFF,
  row "NET.SNDi_RTP" 0x141028 48 0x80 1 0x0 1 0x0 .fs 0x604000 0x7FFFFC,
  row "NET.SNDi_SSRC" 0x14102C 48 0x80 1 0x0 1 0x0 .fs 0x0 0xFFFFFFFF,
  row "NET.SNDi_VLAN" 0x141030 48 0x80 1 0x0 1 0x0 .fs 0x0 0x80007FFF,
  row "NET.SNDi_TIMING" 0x141034 48 0x80 1 0x0 1 0x0 .fs 0x0 0xFFFFFFFF,
  row "NET.SNDi_PKTS" 0x141038 48 0x80 1 0x0 1 0x0 .rc 0x0 0xFFFFFFFF,
  row "NET.SNDi_DROPPED" 0x14103C 48 0x80 1 0x0 1 0x0 .rc 0x0 0xFFFFFFFF,
  row "NET.SNDi_SILENCE" 0x141040 48 0x80 1 0x0 1 0x0 .rc 0x0 0xFFFFFFFF,
  row "NET.SNDi_STATE" 0x141044 48 0x80 1 0x0 1 0x0 .ro 0x0 0xC000FFFF,
  row "NET.EVENTS" 0x143000 1 0x0 1 0x0 1 0x0 .w1c 0x0 0x7F]

/-- The registers of the PTP block: name, offset, counts and strides of its indices, access code, reset value, implemented bits. -/
def ptpRows : List Row := [
  row "PTP.TIME_Wk" 0x150000 4 0x4 1 0x0 1 0x0 .ro 0x0 0xFFFFFFFF,
  row "PTP.CTL" 0x150010 1 0x0 1 0x0 1 0x0 .rw 0x40000000 0xE0000000,
  row "PTP.KP" 0x150014 1 0x0 1 0x0 1 0x0 .rw 0x3E4CCCCD 0xFFFFFFFF,
  row "PTP.KI" 0x150018 1 0x0 1 0x0 1 0x0 .rw 0x3C23D70A 0xFFFFFFFF,
  row "PTP.FMAX" 0x15001C 1 0x0 1 0x0 1 0x0 .rw 0x186A0 0x7FFFF,
  row "PTP.STEP_THRESH" 0x150020 1 0x0 1 0x0 1 0x0 .rw 0xC350 0xFFFFFFFF,
  row "PTP.LOCK_THRESH" 0x150024 1 0x0 1 0x0 1 0x0 .rw 0x64 0xFFFFFFFF,
  row "PTP.OFS_TIMEOUT" 0x150028 1 0x0 1 0x0 1 0x0 .rw 0xBB8 0xFFFFFFFF,
  row "PTP.OFFSET_LO" 0x150030 1 0x0 1 0x0 1 0x0 .woFj 0x0 0xFFFFFFFF,
  row "PTP.OFFSET_HI" 0x150034 1 0x0 1 0x0 1 0x0 .woFj 0x0 0xFFFFFFFF,
  row "PTP.FREQ" 0x150038 1 0x0 1 0x0 1 0x0 .ro 0x0 0xFFFFFFFF,
  row "PTP.STATE" 0x15003C 1 0x0 1 0x0 1 0x0 .ro 0x0 0xC00000FF,
  row "PTP.UTC_OFS" 0x150040 1 0x0 1 0x0 1 0x0 .rwFj 0x25 0xFFFF,
  row "PTP.Pp_INGRESS_LAT" 0x150080 2 0x20 1 0x0 1 0x0 .rw 0x0 0xFFFFFFFF,
  row "PTP.Pp_EGRESS_LAT" 0x150084 2 0x20 1 0x0 1 0x0 .rw 0x0 0xFFFFFFFF,
  row "PTP.Pp_TXTS_Wk" 0x150088 2 0x20 4 0x4 1 0x0 .ro 0x0 0xFFFFFFFF,
  row "PTP.Pp_TXTS_LOST" 0x150098 2 0x20 1 0x0 1 0x0 .rc 0x0 0xFFFFFFFF,
  row "PTP.EVTi_CFG" 0x150200 16 0x8 1 0x0 1 0x0 .rw 0x4 0xE000FFFF,
  row "PTP.EVTi_PERIOD" 0x150204 16 0x8 1 0x0 1 0x0 .rw 0x0 0xFFFFFFFF,
  row "PTP.EVT_Wk" 0x150280 4 0x4 1 0x0 1 0x0 .ro 0x0 0xFFFFFFFF,
  row "PTP.EVT_LOST" 0x150290 1 0x0 1 0x0 1 0x0 .rc 0x0 0xFFFFFFFF,
  row "PTP.EVT_OUTLIERS" 0x150294 1 0x0 1 0x0 1 0x0 .rc 0x0 0xFFFFFFFF,
  row "PTP.TC_CFGn" 0x150300 8 0x10 1 0x0 1 0x0 .rw 0x20000 0xE007FFFF,
  row "PTP.TC_JAMn" 0x150304 8 0x10 1 0x0 1 0x0 .rw 0x0 0xFFFFFFFF,
  row "PTP.TC_USERn" 0x150308 8 0x10 1 0x0 1 0x0 .rw 0x0 0xFFFFFFFF,
  row "PTP.TC_LOCALn" 0x15030C 8 0x10 1 0x0 1 0x0 .rw 0x0 0xFFFFFFFF,
  row "PTP.EVENTS" 0x150400 1 0x0 1 0x0 1 0x0 .w1c 0x0 0x3FF]

/-- The registers of the AUD block: name, offset, counts and strides of its indices, access code, reset value, implemented bits. -/
def audRows : List Row := [
  row "AUD.Aa_CFG" 0x160000 8 0x100 1 0x0 1 0x0 .fs 0xA000000 0xFE000000,
  row "AUD.Aa_RATE" 0x160004 8 0x100 1 0x0 1 0x0 .fs 0xBB80 0x3FFFF,
  row "AUD.Aa_PHASE_OFS" 0x160008 8 0x100 1 0x0 1 0x0 .fs 0x0 0xFFFFFFFF,
  row "AUD.Aa_FILT" 0x16000C 8 0x100 1 0x0 1 0x0 .fs 0x2 0xFFFF,
  row "AUD.Aa_RATE_THRESH" 0x160010 8 0x100 1 0x0 1 0x0 .fs 0x12C0 0xFFFFFFF,
  row "AUD.Aa_STATE" 0x160020 8 0x100 1 0x0 1 0x0 .ro 0x0 0xC00000FF,
  row "AUD.Aa_RATE_MHZ" 0x160024 8 0x100 1 0x0 1 0x0 .ro 0x0 0xFFFFFFF,
  row "AUD.Aa_RATE_REF" 0x160028 8 0x100 1 0x0 1 0x0 .ro 0x0 0xFFFFFFF,
  row "AUD.Aa_OUTLIERS" 0x16002C 8 0x100 1 0x0 1 0x0 .rc 0x0 0xFFFFFFFF,
  row "AUD.Aa_LOSSES" 0x160030 8 0x100 1 0x0 1 0x0 .rc 0x0 0xFFFFFFFF,
  row "AUD.Aa_SILENT_BLOCKS" 0x160034 8 0x100 1 0x0 1 0x0 .rc 0x0 0xFFFFFFFF,
  row "AUD.Aa_SLIPS" 0x160038 8 0x100 1 0x0 1 0x0 .rc 0x0 0xFFFFFFFF,
  row "AUD.Aa_BCLK_ERR" 0x16003C 8 0x100 1 0x0 1 0x0 .rc 0x0 0xFFFFFFFF,
  row "AUD.Aa_TS_Wk" 0x160040 8 0x100 4 0x4 1 0x0 .ro 0x0 0xFFFFFFFF,
  row "AUD.EVENTS" 0x161000 1 0x0 1 0x0 1 0x0 .w1c 0x0 0x3F]

/-- The registers of the MEM block: name, offset, counts and strides of its indices, access code, reset value, implemented bits. -/
def memRows : List Row := [
  row "MEM.CFG" 0x170000 1 0x0 1 0x0 1 0x0 .ro 0x0 0xF800FFFF,
  row "MEM.MAP_CSi" 0x170010 1 0x0 1 0x0 1 0x0 .rw 0x20401 0x7FFFF,
  row "MEM.MAP_CSi" 0x170014 1 0x0 1 0x0 1 0x0 .rw 0x40802 0x7FFFF,
  row "MEM.MAP_BAj" 0x170018 1 0x0 1 0x0 1 0x0 .rw 0x8888 0x7FFFF,
  row "MEM.MAP_BAj" 0x17001C 1 0x0 1 0x0 1 0x0 .rw 0x11110 0x7FFFF,
  row "MEM.MAP_BAj" 0x170020 1 0x0 1 0x0 1 0x0 .rw 0x22220 0x7FFFF,
  row "MEM.MAP_BAj" 0x170024 1 0x0 1 0x0 1 0x0 .rw 0x44440 0x7FFFF,
  row "MEM.RETRAIN" 0x170030 1 0x0 1 0x0 1 0x0 .rw 0x3E8 0xFFFF,
  row "MEM.RH_CFG" 0x170034 1 0x0 1 0x0 1 0x0 .rw 0x800020B 0xFFFF031F,
  row "MEM.SCRUB" 0x170038 1 0x0 1 0x0 1 0x0 .rw 0x4 0x1F,
  row "MEM.QOS" 0x170040 1 0x0 1 0x0 1 0x0 .fs 0x10 0xFF,
  row "MEM.PART_ENC" 0x170044 1 0x0 1 0x0 1 0x0 .fs 0x800 0xFFFF,
  row "MEM.PART_NR" 0x170048 1 0x0 1 0x0 1 0x0 .fs 0x0 0xFFFF,
  row "MEM.SURF_FREE" 0x17004C 1 0x0 1 0x0 1 0x0 .ro 0x0 0xFFFF,
  row "MEM.EVENTS" 0x170080 1 0x0 1 0x0 1 0x0 .w1c 0x0 0x3F,
  row "MEM.Mc_CORR" 0x171000 24 0x40 1 0x0 1 0x0 .rc 0x0 0xFFFFFFFF,
  row "MEM.Mc_UNCORR" 0x171004 24 0x40 1 0x0 1 0x0 .rc 0x0 0xFFFFFFFF,
  row "MEM.Mc_EDC_RETRY" 0x171008 24 0x40 1 0x0 1 0x0 .rc 0x0 0xFFFFFFFF,
  row "MEM.Mc_RH_REFRESH" 0x17100C 24 0x40 1 0x0 1 0x0 .rc 0x0 0xFFFFFFFF,
  row "MEM.Mc_RETRAINS" 0x171010 24 0x40 1 0x0 1 0x0 .rc 0x0 0xFFFFFFFF,
  row "MEM.Mc_FORCED" 0x171014 24 0x40 1 0x0 1 0x0 .rc 0x0 0xFFFFFFFF]

/-- The registers of the HQ block: name, offset, counts and strides of its indices, access code, reset value, implemented bits. -/
def hqRows : List Row := [
  row "HQ.FN_STATE" 0x180000 1 0x0 1 0x0 1 0x0 .ro 0x0 0xF0001FFF,
  row "HQ.QRESET" 0x180004 1 0x0 1 0x0 1 0x0 .wo 0x0 0x80000FFF,
  row "HQ.QSEL" 0x180008 1 0x0 1 0x0 1 0x0 .rw 0x0 0xFFF,
  row "HQ.QSTATE" 0x18000C 1 0x0 1 0x0 1 0x0 .ro 0x0 0xFC00FFFF,
  row "HQ.QINFLIGHT" 0x180010 1 0x0 1 0x0 1 0x0 .ro 0x0 0x1FFFF,
  row "HQ.BAD_DOORBELL" 0x180014 1 0x0 1 0x0 1 0x0 .rc 0x0 0xFFFFFFFF,
  row "HQ.DUP_TAGS" 0x180018 1 0x0 1 0x0 1 0x0 .rc 0x0 0xFFFFFFFF,
  row "HQ.EVENTS" 0x18001C 1 0x0 1 0x0 1 0x0 .w1c 0x0 0xF,
  row "HQ.ARB" 0x181000 1 0x0 1 0x0 1 0x0 .rw 0x10080402 0xFFFFFFFF,
  row "HQ.TAGS_FREE" 0x181004 1 0x0 1 0x0 1 0x0 .ro 0x40000 0x7FFFF,
  row "HQ.QUEUES_FREE" 0x181008 1 0x0 1 0x0 1 0x0 .ro 0x1000 0x1FFF,
  row "HQ.FETCHED" 0x18100C 1 0x0 1 0x0 1 0x0 .rc 0x0 0xFFFFFFFF,
  row "HQ.DMA_ERR" 0x181010 1 0x0 1 0x0 1 0x0 .rc 0x0 0xFFFFFFFF,
  row "HQ.LINK" 0x181014 1 0x0 1 0x0 1 0x0 .ro 0x0 0xC000FF0F]

/-- The registers of the IRQ block: name, offset, counts and strides of its indices, access code, reset value, implemented bits. -/
def irqRows : List Row := [
  row "IRQ.SRCi_CFG" 0x190040 30 0x4 1 0x0 1 0x0 .rw 0x80010008 0x80010F0F,
  row "IRQ.SRCi_CFG" 0x1900C0 4 0x4 1 0x0 1 0x0 .rw 0x80010008 0x80010F0F,
  row "IRQ.SRCi_CFG" 0x190100 16 0x4 1 0x0 1 0x0 .rw 0x8 0x80010F0F,
  row "IRQ.SRCi_CFG" 0x190140 8 0x4 1 0x0 1 0x0 .rw 0x8 0x80010F0F,
  row "IRQ.SRCi_CFG" 0x190180 16 0x4 1 0x0 1 0x0 .rw 0x8 0x80010F0F,
  row "IRQ.SRCi_CFG" 0x190200 8 0x4 1 0x0 1 0x0 .rw 0x8 0x80010F0F,
  row "IRQ.SRCi_CFG" 0x190220 6 0x4 1 0x0 1 0x0 .rw 0x8 0x80010F0F,
  row "IRQ.SRCi_CFG" 0x190238 4 0x4 1 0x0 1 0x0 .rw 0x8 0x80010F0F,
  row "IRQ.SRCi_CFG" 0x190300 64 0x4 1 0x0 1 0x0 .rw 0x8 0x80010F0F,
  row "IRQ.SRCi_CFG" 0x190400 16 0x4 1 0x0 1 0x0 .rw 0x8 0x80010F0F,
  row "IRQ.PENDINGj" 0x191000 32 0x4 1 0x0 1 0x0 .w1c 0x0 0xFFFFFFFF,
  row "IRQ.ACTIVEj" 0x191080 32 0x4 1 0x0 1 0x0 .ro 0x0 0xFFFFFFFF,
  row "IRQ.HOST_PENDINGj" 0x191100 32 0x4 1 0x0 1 0x0 .w1c 0x0 0xFFFFFFFF,
  row "IRQ.SWSET" 0x191180 1 0x0 1 0x0 1 0x0 .wo 0x0 0xFFFF,
  row "IRQ.MERGED" 0x191184 1 0x0 1 0x0 1 0x0 .rc 0x0 0xFFFFFFFF,
  row "IRQ.Uu_CLAIM" 0x192000 4 0x100 1 0x0 1 0x0 .ro 0x0 0x3FF,
  row "IRQ.Uu_EOI" 0x192004 4 0x100 1 0x0 1 0x0 .wo 0x0 0x3FF,
  row "IRQ.Uu_RUNPRI" 0x192008 4 0x100 1 0x0 1 0x0 .ro 0x10 0x1F001F,
  row "IRQ.Uu_EOI_ERR" 0x19200C 4 0x100 1 0x0 1 0x0 .rc 0x0 0xFFFFFFFF]

/-- The registers of the FLT block: name, offset, counts and strides of its indices, access code, reset value, implemented bits. -/
def fltRows : List Row := [
  row "FLT.STATE" 0x1A0000 1 0x0 1 0x0 1 0x0 .ro 0x0 0xE00007FF,
  row "FLT.LOST" 0x1A0004 1 0x0 1 0x0 1 0x0 .rc 0x0 0xFFFFFFFF,
  row "FLT.LOST_ITEM" 0x1A0008 1 0x0 1 0x0 1 0x0 .rc 0x0 0xFFFFFFFF,
  row "FLT.COALESCED" 0x1A000C 1 0x0 1 0x0 1 0x0 .rc 0x0 0xFFFFFFFF,
  row "FLT.THRESH" 0x1A0010 1 0x0 1 0x0 1 0x0 .rw 0x1 0x7FF,
  row "FLT.ROLES" 0x1A0014 1 0x0 1 0x0 1 0x0 .ro 0x43210 0x1F077777,
  row "FLT.LAST_GAP" 0x1A0018 1 0x0 1 0x0 1 0x0 .ro 0x0 0xFFFFFFFF,
  row "FLT.MAX_GAP" 0x1A001C 1 0x0 1 0x0 1 0x0 .ro 0x0 0xFFFFFFFF,
  row "FLT.SWITCHOVERS" 0x1A0020 1 0x0 1 0x0 1 0x0 .rc 0x0 0xFFFFFFFF,
  row "FLT.DRILL_AGE" 0x1A0024 1 0x0 1 0x0 1 0x0 .ro 0x0 0xFFFFFFFF,
  row "FLT.HB_TIMEOUT" 0x1A0028 1 0x0 1 0x0 1 0x0 .rw 0x32 0x3F,
  row "FLT.CKPT_SEQ" 0x1A002C 1 0x0 1 0x0 1 0x0 .ro 0x0 0xFFFFFFFF,
  row "FLT.CKPT_SKIPPED" 0x1A0030 1 0x0 1 0x0 1 0x0 .rc 0x0 0xFFFFFFFF,
  row "FLT.EVENTS" 0x1A0040 1 0x0 1 0x0 1 0x0 .w1c 0x0 0x7F]

/-- The registers of the THM block: name, offset, counts and strides of its indices, access code, reset value, implemented bits. -/
def thmRows : List Row := [
  row "THM.STATE" 0x1B0000 1 0x0 1 0x0 1 0x0 .ro 0x40000000 0xFC00FFFF,
  row "THM.LATCH0" 0x1B0004 1 0x0 1 0x0 1 0x0 .ro 0x0 0xFFFFFFFF,
  row "THM.LATCH1" 0x1B0008 1 0x0 1 0x0 1 0x0 .ro 0x0 0xFFFFFFFF,
  row "THM.FAULTY" 0x1B000C 1 0x0 1 0x0 1 0x0 .ro 0x0 0xFFFFFFF,
  row "THM.CAPc" 0x1B0010 4 0x4 1 0x0 1 0x0 .fs 0x10 0x1F,
  row "THM.EVENTS" 0x1B0040 1 0x0 1 0x0 1 0x0 .w1c 0x0 0x1F,
  row "THM.Ti" 0x1B0100 28 0x8 1 0x0 1 0x0 .ro 0x0 0xFFFF,
  row "THM.Ti_MAX" 0x1B0104 28 0x8 1 0x0 1 0x0 .rc 0x8000 0xFFFF,
  row "THM.Vm" 0x1B0200 14 0x8 1 0x0 1 0x0 .ro 0x0 0xFFFF,
  row "THM.Vm_MAX" 0x1B0204 14 0x8 1 0x0 1 0x0 .rc 0x0 0xFFFF,
  row "THM.V0_LIM" 0x1B0300 1 0x0 1 0x0 1 0x0 .rw 0x31402C9 0xFFFFFFFF,
  row "THM.V1_LIM" 0x1B0304 1 0x0 1 0x0 1 0x0 .rw 0x36B00000 0xFFFFFFFF,
  row "THM.V2_LIM" 0x1B0308 1 0x0 1 0x0 1 0x0 .rw 0x37D0328 0xFFFFFFFF,
  row "THM.V3_LIM" 0x1B030C 1 0x0 1 0x0 1 0x0 .rw 0x34802F8 0xFFFFFFFF,
  row "THM.V4_LIM" 0x1B0310 1 0x0 1 0x0 1 0x0 .rw 0x320000 0xFFFFFFFF,
  row "THM.V5_LIM" 0x1B0314 1 0x0 1 0x0 1 0x0 .rw 0x58A0503 0xFFFFFFFF,
  row "THM.V6_LIM" 0x1B0318 1 0x0 1 0x0 1 0x0 .rw 0x9C40000 0xFFFFFFFF,
  row "THM.V7_LIM" 0x1B031C 1 0x0 1 0x0 1 0x0 .rw 0x3B10357 0xFFFFFFFF,
  row "THM.V8_LIM" 0x1B0320 1 0x0 1 0x0 1 0x0 .rw 0x7D00000 0xFFFFFFFF,
  row "THM.V9_LIM" 0x1B0324 1 0x0 1 0x0 1 0x0 .rw 0x4EC0474 0xFFFFFFFF,
  row "THM.V10_LIM" 0x1B0328 1 0x0 1 0x0 1 0x0 .rw 0x76206AE 0xFFFFFFFF,
  row "THM.V11_LIM" 0x1B032C 1 0x0 1 0x0 1 0x0 .rw 0x276023A 0xFFFFFFFF,
  row "THM.V12_LIM" 0x1B0330 1 0x0 1 0x0 1 0x0 .rw 0x76206AE 0xFFFFFFFF,
  row "THM.V13_LIM" 0x1B0334 1 0x0 1 0x0 1 0x0 .rw 0xD890C3F 0xFFFFFFFF]

/-- The registers of the MGT block: name, offset, counts and strides of its indices, access code, reset value, implemented bits. -/
def mgtRows : List Row := [
  row "MGT.DW_CMD" 0x1C0000 1 0x0 1 0x0 1 0x0 .wo 0x0 0x8F000000,
  row "MGT.DW_ARG" 0x1C0004 1 0x0 1 0x0 1 0x0 .rw 0x0 0xFFFFFFFF,
  row "MGT.DW_DATA" 0x1C0008 1 0x0 1 0x0 1 0x0 .rw 0x0 0xFFFFFFFF,
  row "MGT.DW_STATUS" 0x1C000C 1 0x0 1 0x0 1 0x0 .ro 0x0 0xFFFFFFFF,
  row "MGT.SLOTS" 0x1C0010 1 0x0 1 0x0 1 0x0 .ro 0x0 0xE0E0E0E0,
  row "MGT.LOG_SEQ" 0x1C0014 1 0x0 1 0x0 1 0x0 .ro 0x0 0xFFFFFFFF,
  row "MGT.DW_REFUSED" 0x1C0018 1 0x0 1 0x0 1 0x0 .rc 0x0 0xFFFFFFFF,
  row "MGT.EVENTS" 0x1C0040 1 0x0 1 0x0 1 0x0 .w1c 0x0 0x7]

/-- The registers of the PER block: name, offset, counts and strides of its indices, access code, reset value, implemented bits. -/
def perRows0 : List Row := [
  row "PER.Uu_CTL" 0x1D0000 4 0x100 1 0x0 1 0x0 .rw 0x1 0x3,
  row "PER.Uu_STATE" 0x1D0004 4 0x100 1 0x0 1 0x0 .ro 0x0 0x80000007,
  row "PER.Uu_BOOT_HANDLE" 0x1D0008 4 0x100 1 0x0 1 0x0 .rw 0x0 0xFFFF,
  row "PER.Uu_FAULT_ADDR_LO" 0x1D0010 4 0x100 1 0x0 1 0x0 .ro 0x0 0xFFFFFFFF,
  row "PER.Uu_FAULT_ADDR_HI" 0x1D0014 4 0x100 1 0x0 1 0x0 .ro 0x0 0xFFFFFFFF,
  row "PER.Uu_TCM_CORR" 0x1D0018 4 0x100 1 0x0 1 0x0 .rc 0x0 0xFFFFFFFF,
  row "PER.Uu_MTIMECMP_LO" 0x1D0020 4 0x100 1 0x0 1 0x0 .rw 0xFFFFFFFF 0xFFFFFFFF,
  row "PER.Uu_MTIMECMP_HI" 0x1D0024 4 0x100 1 0x0 1 0x0 .rw 0xFFFFFFFF 0xFFFFFFFF,
  row "PER.Uu_HWINw" 0x1D0040 4 0x100 16 0x4 1 0x0 .rw 0x0 0x8000FFFF,
  row "PER.MTIME_LO" 0x1D0800 1 0x0 1 0x0 1 0x0 .ro 0x0 0xFFFFFFFF,
  row "PER.MTIME_HI" 0x1D0804 1 0x0 1 0x0 1 0x0 .ro 0x0 0xFFFFFFFF,
  row "PER.UARTi_CFG" 0x1D1000 8 0x40 1 0x0 1 0x0 .rw 0x21E9 0x80EFFFFF,
  row "PER.UARTi_TXDATA" 0x1D1004 8 0x40 1 0x0 1 0x0 .wo 0x0 0xFF,
  row "PER.UARTi_RXDATA" 0x1D1008 8 0x40 1 0x0 1 0x0 .ro 0x0 0x1FF,
  row "PER.UARTi_STATUS" 0x1D100C 8 0x40 1 0x0 1 0x0 .ro 0x0 0x7F7F00,
  row "PER.UARTi_THRESH" 0x1D1010 8 0x40 1 0x0 1 0x0 .rw 0x1 0x7F,
  row "PER.UARTi_IRQ_EN" 0x1D1014 8 0x40 1 0x0 1 0x0 .rw 0x0 0x7F,
  row "PER.UARTi_EVENTS" 0x1D1018 8 0x40 1 0x0 1 0x0 .w1c 0x0 0x7F,
  row "PER.SPIi_CFG" 0x1D2000 6 0x40 1 0x0 1 0x0 .rw 0x4 0x8380FFFF,
  row "PER.SPIi_XFER" 0x1D2004 6 0x40 1 0x0 1 0x0 .wo 0x0 0x838001FF,
  row "PER.SPIi_TXDATA" 0x1D2008 6 0x40 1 0x0 1 0x0 .wo 0x0 0xFF,
  row "PER.SPIi_RXDATA" 0x1D200C 6 0x40 1 0x0 1 0x0 .ro 0x0 0x1FF,
  row "PER.SPIi_STATUS" 0x1D2010 6 0x40 1 0x0 1 0x0 .ro 0x0 0x81FF01FF,
  row "PER.SPIi_IRQ_EN" 0x1D2014 6 0x40 1 0x0 1 0x0 .rw 0x0 0xF,
  row "PER.SPIi_EVENTS" 0x1D2018 6 0x40 1 0x0 1 0x0 .w1c 0x0 0xF,
  row "PER.I3Ci_CFG" 0x1D3000 4 0x100 1 0x0 1 0x0 .rw 0x28 0x8000FFFF,
  row "PER.I3Ci_CMD" 0x1D3004 4 0x100 1 0x0 1 0x0 .wo 0x0 0xFFFFE1FF,
  row "PER.I3Ci_TXDATA" 0x1D3008 4 0x100 1 0x0 1 0x0 .wo 0x0 0xFF,
  row "PER.I3Ci_RXDATA" 0x1D300C 4 0x100 1 0x0 1 0x0 .ro 0x0 0x1FF,
  row "PER.I3Ci_IBI" 0x1D3010 4 0x100 1 0x0 1 0x0 .ro 0x0 0xFF0F0000,
  row "PER.I3Ci_IRQ_EN" 0x1D3014 4 0x100 1 0x0 1 0x0 .rw 0x0 0x7F,
  row "PER.I3Ci_EVENTS" 0x1D3018 4 0x100 1 0x0 1 0x0 .w1c 0x0 0x7F,
  row "PER.GPIO_OUT_LO" 0x1D4000 1 0x0 1 0x0 1 0x0 .rw 0x0 0xFFFFFFFF,
  row "PER.GPIO_OUT_HI" 0x1D4004 1 0x0 1 0x0 1 0x0 .rw 0x0 0xFFFFFFFF,
  row "PER.GPIO_OE_LO" 0x1D4008 1 0x0 1 0x0 1 0x0 .rw 0x0 0xFFFFFFFF,
  row "PER.GPIO_OE_HI" 0x1D400C 1 0x0 1 0x0 1 0x0 .rw 0x0 0xFFFFFFFF,
  row "PER.GPIO_IN_LO" 0x1D4010 1 0x0 1 0x0 1 0x0 .ro 0x0 0xFFFFFFFF,
  row "PER.GPIO_IN_HI" 0x1D4014 1 0x0 1 0x0 1 0x0 .ro 0x0 0xFFFFFFFF,
  row "PER.GPIO_OUT_SET_LO" 0x1D4018 1 0x0 1 0x0 1 0x0 .wo 0x0 0xFFFFFFFF,
  row "PER.GPIO_OUT_SET_HI" 0x1D401C 1 0x0 1 0x0 1 0x0 .wo 0x0 0xFFFFFFFF]

/-- More registers of the PER block. -/
def perRows1 : List Row := [
  row "PER.GPIO_OUT_CLR_LO" 0x1D4020 1 0x0 1 0x0 1 0x0 .wo 0x0 0xFFFFFFFF,
  row "PER.GPIO_OUT_CLR_HI" 0x1D4024 1 0x0 1 0x0 1 0x0 .wo 0x0 0xFFFFFFFF,
  row "PER.GPIOp_CFG" 0x1D4100 64 0x4 1 0x0 1 0x0 .rw 0x50000 0xFFFF0003,
  row "PER.STATS_ACKn" 0x1D5000 8 0x4 1 0x0 1 0x0 .wo 0x0 0xFFFFFFFF]

/-- Every register of the PER block. -/
def perRows : List Row := perRows0 ++ perRows1

/-- The registers of a virtual function's own window (R341, R375, R377), keyed from 0x8000_0000 by function. -/
def vfRows : List Row := [
  row "MBX.SLOTs_CTL" 0x80000000 64 0x10000 32 0x400 1 0x0 .wo 0x0 0xC0000000,
  row "MBX.SLOTs_STATE" 0x80000004 64 0x10000 32 0x400 1 0x0 .ro 0x0 0xC000FFFF,
  row "MBX.SLOTs_REFUSED" 0x80000008 64 0x10000 32 0x400 1 0x0 .rc 0x0 0xFFFFFFFF,
  row "MBX.SLOTs_REQi" 0x80000100 64 0x10000 32 0x400 64 0x4 .rw 0x0 0xFFFFFFFF,
  row "MBX.SLOTs_RSPi" 0x80000200 64 0x10000 32 0x400 128 0x4 .ro 0x0 0xFFFFFFFF,
  row "HQ.FN_STATE/vf" 0x80008000 64 0x10000 1 0x0 1 0x0 .ro 0x0 0xF0001FFF,
  row "HQ.QRESET/vf" 0x80008004 64 0x10000 1 0x0 1 0x0 .wo 0x0 0x80000FFF,
  row "HQ.QSEL/vf" 0x80008008 64 0x10000 1 0x0 1 0x0 .rw 0x0 0xFFF,
  row "HQ.QSTATE/vf" 0x8000800C 64 0x10000 1 0x0 1 0x0 .ro 0x0 0xFC00FFFF,
  row "HQ.QINFLIGHT/vf" 0x80008010 64 0x10000 1 0x0 1 0x0 .ro 0x0 0x1FFFF,
  row "HQ.BAD_DOORBELL/vf" 0x80008014 64 0x10000 1 0x0 1 0x0 .rc 0x0 0xFFFFFFFF,
  row "HQ.DUP_TAGS/vf" 0x80008018 64 0x10000 1 0x0 1 0x0 .rc 0x0 0xFFFFFFFF,
  row "HQ.EVENTS/vf" 0x8000801C 64 0x10000 1 0x0 1 0x0 .w1c 0x0 0xF]

/-- The rows that can hold an offset: those of its block. -/
def rowsAt (off : Nat) : List Row :=
  if off ≥ 0x80000000 then vfRows
  else match off / 65536 with
  | 0 => sysRows | 1 => mbxRows | 2 => frmRows | 3 => frtRows | 4 => refRows | 5 => lnkRows
  | 6 => ingRows | 7 => ingRows | 8 => rfeRows | 9 => rfeRows | 10 => clrRows | 11 => clrRows
  | 12 => impRows | 13 => galRows | 14 => trbRows | 15 => magRows | 16 => hevRows | 17 => hevRows
  | 18 => dspRows | 19 => dspRows | 20 => netRows | 21 => ptpRows | 22 => audRows | 23 => memRows
  | 24 => hqRows | 25 => irqRows | 26 => fltRows | 27 => thmRows | 28 => mgtRows | 29 => perRows
  | _ => []

/-- Whether a row holds an offset: base + i·s1 + j·s2 + k·s3 with every index below its count. A stride of 0
stands for an index that is not used. -/
def Row.holds (r : Row) (off : Nat) : Bool :=
  if off < r.base then false else
    let d := off - r.base
    let i := d / r.s1
    let d1 := d % r.s1
    let j := d1 / r.s2
    let d2 := d1 % r.s2
    let k := d2 / r.s3
    let d3 := d2 % r.s3
    decide (i < r.n1) && decide (j < r.n2) && decide (k < r.n3) && decide (d3 = 0)

/-- The register at an offset, if the map assigns it. -/
def rowOf (off : Nat) : Option Row := (rowsAt off).find? (·.holds off)

/-- The reset value of the register at an offset; 0 at an unassigned offset (R7). -/
def resetOf (off : Nat) : Word := ((rowOf off).map (·.rst)).getD 0#32

/-- The implemented bits of the register at an offset; none at an unassigned offset (R7). -/
def maskOf (off : Nat) : Word := ((rowOf off).map (·.mask)).getD 0#32

/-- Whether an offset is a forme-staged register (R9). -/
def isFs (off : Nat) : Bool := match rowOf off with
  | some r => r.acc == .fs
  | none => false

end Sys2Proof.Machine
end

