-- ==== Sys2Proof/Machine/Sparse.lean ====
section
/-! DEFINITION. Sparse maps by number: lists of (key, value) pairs in one canonical form, keys strictly rising,
so that equal maps are equal data. Registers, buffers, formes, queues and handles are held this way. -/

namespace Sys2Proof.Machine
open Sys2Proof

/-- A sparse map from numbers: pairs with strictly rising keys. -/
abbrev SMap (α : Type) := List (Nat × α)

/-- The value at a key, if one is listed. -/
def mGet {α : Type} : SMap α → Nat → Option α
  | [], _ => none
  | (k, v) :: r, i => if i = k then some v else mGet r i

/-- The map with a value put at a key. -/
def mPut {α : Type} : SMap α → Nat → α → SMap α
  | [], i, x => [(i, x)]
  | (k, v) :: r, i, x =>
    if i < k then (i, x) :: (k, v) :: r
    else if i = k then (i, x) :: r
    else (k, v) :: mPut r i x

/-- The map with a key taken out. -/
def mDel {α : Type} : SMap α → Nat → SMap α
  | [], _ => []
  | (k, v) :: r, i => if i = k then mDel r i else (k, v) :: mDel r i

/-- The map with the value at a key changed, where one is listed. -/
def mMod {α : Type} : SMap α → Nat → (α → α) → SMap α
  | [], _, _ => []
  | (k, v) :: r, i, f => if i = k then (k, f v) :: r else (k, v) :: mMod r i f

/-- Whether a key is listed. -/
def mHas {α : Type} (m : SMap α) (i : Nat) : Bool := (mGet m i).isSome

/-- The canonical form: keys strictly rising from a bound. -/
def mRising {α : Type} : Option Nat → SMap α → Bool
  | _, [] => true
  | none, (k, _) :: r => mRising (some k) r
  | some b, (k, _) :: r => decide (b < k) && mRising (some k) r

/-- The keys of a map from 0 on that are not listed: the least one at or above a bound, looking `n` steps. -/
def mFreeFrom {α : Type} (m : SMap α) : Nat → Nat → Option Nat
  | 0, _ => none
  | n + 1, i => if mHas m i then mFreeFrom m n (i + 1) else some i

end Sys2Proof.Machine
end

