-- ==== Sys2Proof/Machine/State.lean ====
section
/-! DEFINITION. The state of the block as plain data: every register, FIFO, buffer, counter, mode and pin the spec
gives the EV9640, the queue of waiting commands, and the state after reset. Each field's docstring names the rule
that gives it. Registers live in `State.regs`, keyed by BAR0 offset; the other fields hold what stands behind them. -/

namespace Sys2Proof.Machine
open Sys2Proof

/-- The reasons for a fault stop. No command of this block ends in one: a fault of the spec is an error record, an
event and its containment (R413 to R422), all of them state. The one constructor is there so that the type of
outcomes has one; nobody raises it (safe). -/
inductive Fault where
  | none
  deriving DecidableEq, Repr

/-- The reasons for a refusal. -/
inductive Refusal where
  /-- Raised by an arm of `exec` whose command has no meaning yet; safe: nothing can be proved of its effect. -/
  | notModelled (mnemonic : String)
  deriving DecidableEq, Repr

/-- The severity classes of error records (R413, Table FLT-1). -/
inductive Severity where
  | info
  | degraded
  | itemFailed
  | fatal
  deriving DecidableEq, Repr

/-- The context of an error record (R415): CTX_KIND, SOURCE and INSTANCE. -/
structure Ctx where
  kind : Nat
  source : Word
  inst : BitVec 64
  deriving DecidableEq, Repr

/-- An error record (R414) and the device time of its first occurrence (R416). -/
structure ErrRec where
  seq : Word
  ptpNs : Nat
  ptpSec : Nat
  block : Nat
  code : Nat
  sev : Severity
  ctx : Ctx
  status : Nat
  count : Nat
  /-- Device time base at the first occurrence, the time R416 measures the merge window on. -/
  devTime : Nat
  deriving DecidableEq, Repr

/-- A switch-over under way (R426): the core at fault, none for an activation or a drill, and the tick at which its fence came. -/
structure Gap where
  core : Option Nat
  since : Nat
  deriving DecidableEq, Repr

/-- The FLT block behind its registers (R414 to R431). -/
structure FltBlk where
  /-- Queued records, oldest first, at most 1,024 (R417); empty at reset. -/
  queue : List ErrRec
  /-- SEQ of the next record (R414); 0 at reset. -/
  nextSeq : Word
  /-- OVERFLOW has been raised and the queue has not yet fallen below 960 (R417); false at reset. -/
  overflowed : Bool
  /-- FLT.STATE.FATAL (R421). -/
  fatal : Bool
  /-- FLT.STATE.CONTROL_LOST (R429). -/
  controlLost : Bool
  /-- FLT.STATE.GAP: control service is interrupted by a switch-over (R28, R426). -/
  gap : Option Gap
  /-- The core in each role 0 to 4 (R422): role n is held by core n at reset. -/
  roles : Vector Nat 5
  /-- Cores marked FAILED (R427, R429). -/
  failed : Vector Bool 5
  /-- When each core last left role 4, for the displaced role of R430; 0 at reset. -/
  leftStandby : Vector Nat 5
  /-- The core whose self-test is running after a fault switch-over (R427). -/
  selfTest : Option Nat
  /-- Device time of the last successful switch-over (R428); 0 at reset. -/
  lastSwitch : Nat
  /-- DRILL_OVERDUE has been raised since the last switch-over (R428). -/
  overdueRaised : Bool
  /-- Entries of the commit journal since the newest checkpoint (R425). -/
  journal : Nat
  /-- Device time at which the newest checkpoint began (R425). -/
  lastCkpt : Nat
  /-- A checkpoint that is being written: the journal entries that it covers (R425). -/
  ckpt : Option Nat
  deriving DecidableEq, Repr

/-- The interrupt controller behind its registers (R408 to R412). -/
structure IrqBlk where
  /-- Running priority of each user core, 16 when none is in service (R410). -/
  run : Vector Nat 4
  /-- Each core's stack, top first: the saved running priority and the identifier (R411). -/
  stack : Vector (List (Nat × Nat)) 4
  deriving DecidableEq, Repr

/-- Output pins whose changes are reported (R421, R457, R472, R494, R234). -/
inductive Pin where
  | sysFaultN
  | sysThermN
  | sysReady
  | corePwrEn
  | magVccEn
  | magLock
  | eventOut (i : Fin 16)
  | gpio (i : Fin 64)
  deriving DecidableEq, Repr

/-- A block or packet placed on a link's back-channel (R89, R93, R106 to R109, R121). -/
inductive Bc where
  /-- LINK_CONFIG (R103). -/
  | linkConfig (bytes : List Byte)
  /-- FRAME_START with its stream index, OFFSET and ordinal (R106). -/
  | frameStart (stream : Nat) (offset : Nat) (ord : Word)
  /-- PING with its number (R107). -/
  | ping (id : Nat)
  /-- CAP_REQUEST with its stream index (R121). -/
  | capRequest (stream : Nat)
  /-- TEST with mode, pattern and lane (R112). -/
  | test (mode pattern lane : Nat)
  /-- A packet: type, stream index, payload (R94, R108, R109). -/
  | packet (ty stream : Nat) (bytes : List Byte)
  deriving DecidableEq, Repr

/-- Where a die sits (R231): channel, chip enable and LUN. -/
structure DieAddr where
  chan : Nat
  ce : Nat
  lun : Nat
  deriving DecidableEq, Repr

/-- Operations of the quire on the flash that the model reports (Table MAG-1, R238, R242, R253, R254). -/
inductive FlashOp where
  /-- A strip program of a unit (R238), of a log stripe. -/
  | program (seq : Nat) (kind : Strip) (stripe : Nat)
  /-- A superblock copy. -/
  | super
  | erase
  /-- A read at a read-retry level. -/
  | retry (level : Nat)
  | zq
  /-- A background operation of Table MAG-11, by row from 0. -/
  | background (row : Nat)
  | reset
  /-- READ ID, READ UNIQUE ID and READ PARAMETER PAGE. -/
  | readId
  | uniqueId
  | paramPage
  /-- SET FEATURES: timing mode and NV-LPDDR4 settings for a rate in MT/s. -/
  | features (rate : Nat)
  /-- Interface training: duty cycle, read DQ and write DQ. -/
  | train
  deriving DecidableEq, Repr

/-- What the device puts out, one entry per output, newest first in `State.out`. The model's own record of what
leaves the block; no rule of the spec reads it back. -/
inductive Out where
  /-- The value a register read returned to a party (R6 to R9). -/
  | readData (p : Party) (off : Nat) (v : Word)
  /-- The value that a read of a function's MSI-X table, PBA or configuration space returned (R340, R341). -/
  | barData (p : Party) (bar : Bar) (off : Nat) (v : Word)
  /-- An MSI-X message of a function on a vector (R351). -/
  | msix (fn vec : Nat)
  /-- A pin driven to a level. -/
  | pin (p : Pin) (level : Bool)
  /-- A block or packet on the back-channel of a link (chapter 04). -/
  | bc (link : Fin 4) (b : Bc)
  /-- Bytes written to host memory with a function's requester ID (R341, R348). -/
  | hostWrite (fn addr : Nat) (bytes : List Byte)
  /-- A packet sent on an interface of an Ethernet port (chapter 13). -/
  | netTx (port iface : Nat) (bytes : List Byte)
  /-- A PTP message handed to Fjarera, with its ingress time-stamp in 2⁻¹⁶ ns (R305, R319). -/
  | ptpRx (port iface : Nat) (stamp : Int) (bytes : List Byte)
  /-- An uncorrectable internal error reported through AER on the PF (R421). -/
  | aer
  /-- Bytes returned to a side-band controller or sent as an MCTP message (R463, R464). -/
  | sideband (p : Party) (bytes : List Byte)
  /-- A transfer on a peripheral bus: kind 0 UART, 1 SPI, 2 I3C; port; the port's CFG word and its XFER or CMD word, 0 for a UART, which say
  how, to which select or address and with which code it went; bytes (R404 to R406). -/
  | bus (kind port : Nat) (cfg cmd : Word) (bytes : List Byte)
  /-- An AUX transaction on an eDP port (R390 EDP_AUX). -/
  | aux (port : Nat) (isWrite : Bool) (addr : Nat) (bytes : List Byte)
  /-- A frame scanned out: eDP ports 0 and 1, SDI outputs 2 to 5; codes line by line, R G B of each pixel on eDP, Cb Y Cr Y of
  each pixel pair on SDI (chapter 12). -/
  | scan (port : Nat) (lines : List (List Nat))
  /-- A request of the quire to the flash, with what it carries (chapter 10). -/
  | flash (what : FlashOp) (die : DieAddr) (bytes : List Byte)
  /-- A row of a bank of a channel refreshed as the neighbour of another (R440). -/
  | rowRefresh (chan bank row : Nat)
  deriving DecidableEq, Repr

/-- The lock states of a reference input (Table REF-5). -/
inductive InSt where
  | disabled
  | seeking
  | locked
  | lost
  deriving DecidableEq, Repr

/-- A reference input: genlock, encoder index or mains (R43 to R46). -/
structure RefIn where
  /-- STATE (Table REF-5). -/
  st : InSt
  /-- OFF_RATE (R45, R46). -/
  offRate : Bool
  /-- The input has been lost and has not returned (R45). -/
  afterLoss : Bool
  /-- Tick of the last valid edge (R43). -/
  lastEdge : Option Nat
  /-- The last valid periods in ns, newest first, at most 8 (R43). -/
  periods : List Nat
  /-- Periods seen since a loss, newest first, at most 8, until they lie near their own mean (R45). -/
  seek : List Nat
  /-- Tick of the last valid edge, from which the mains phase runs, a loss included (R52). -/
  phaseEdge : Option Nat
  /-- Consecutive valid periods (VALID_RUN before saturation). -/
  run : Nat
  /-- Tick at which the input was enabled or last lost, from which a loss is timed when no edge came (R44). -/
  since : Nat
  /-- Mean period in force at the last valid edge within the window (R44, R46), in ns. -/
  inForce : Option ℚ
  deriving DecidableEq, Repr

/-- The states of a slot's cadence (Table REF-5). -/
inductive SlotSt where
  | idle
  | locked
  | holdover
  | slewing
  deriving DecidableEq, Repr

/-- A period fixed ahead for a frame (R34): the frame's number and its period in ns. -/
structure FixedPer where
  ord : Nat
  period : ℚ
  deriving DecidableEq, Repr

/-- An exposure message sent for a frame (R80, R108). -/
structure SentExp where
  ord : Nat
  tag : Nat
  expNs : Nat
  periodNs : Nat
  deriving DecidableEq, Repr

/-- A slot's cadence generator (R31 to R48) and its fret bookkeeping (R54 to R62). -/
structure Cad where
  /-- Frame starts issued since reset; the next frame's ordinal modulo 2³². -/
  issued : Nat
  /-- Tick of the last issued frame start. -/
  lastIssue : Option Nat
  /-- Line time of the current frame, in ns, fixed at its issue tick (R31). -/
  lineTime : ℚ
  /-- The exact instant of the next frame start, in ns of the device time base (R32). -/
  next : Option ℚ
  /-- `next` is counted in PTP nanoseconds: the frame's source is PTP (R35, R48). -/
  ptpAxis : Bool
  /-- The slot is unmasked: its frame starts are issued (R84). -/
  on : Bool
  /-- No frame start before this tick (R84: 200,000 ns after the unmasking boundary). -/
  notBefore : Nat
  /-- STATE of the slot (Table REF-5). -/
  st : SlotSt
  /-- The frame period kept in holdover (R44, R48). -/
  hold : Option ℚ
  /-- The last frame's period, from which a ramp moves (R38). -/
  lastPeriod : Option ℚ
  /-- The exact phase error at the last frame start, in ns (R47). -/
  err : ℚ
  /-- Tick of the last alignment edge (R36). -/
  align : Option Nat
  /-- Valid edges counted since the alignment edge (R36). -/
  edges : Nat
  /-- A trigger was missed since the previous frame start (R42). -/
  missed : Bool
  /-- Periods fixed for frames to come (R34). -/
  fixed : List FixedPer
  /-- Exposure messages sent for frames to come, and for those that a SEND_EXPOSURE fret can still name (R80). -/
  sent : List SentExp
  /-- The one-way back-channel delay in ps that the slot's frame starts use (R107). -/
  bcDelay : Nat
  /-- Commit number of the forme whose tag exposure messages now carry (R81); 0, the boot forme, before any message. -/
  msgNo : Nat
  /-- The forme-staged registers in force at the last issue tick: the fret table, mask and cadence of the frame (R54). -/
  cfg : SMap Word
  /-- Phase and angle frets, and boundary frets, fired for the current frame (R58). -/
  fired : List Nat
  /-- The boundary that the newest frame brings has been taken (R58, R59). -/
  boundary : Bool
  /-- The cadence fields of the newest frame: source, period, offset and ramp (R34). -/
  key : List Word
  deriving DecidableEq, Repr

/-- An entry of the fret time-stamp FIFO (R61): PTP time in units of 2⁻¹⁶ ns. -/
structure TsEntry where
  slot : Nat
  ident : Nat
  ord : Word
  time : Nat
  deriving DecidableEq, Repr

/-- The REF and FRT blocks behind their registers (chapter 02). -/
structure RefBlk where
  /-- Genlock, encoder index, mains (R43); all disabled at reset. -/
  inputs : Vector RefIn 3
  /-- The slots' cadence generators; all idle at reset. -/
  slots : Vector Cad 8
  /-- Encoder inputs A and B as last sampled (R49); low at reset. -/
  encA : Bool
  encB : Bool
  /-- Raw quadrature count modulo CPR (R50). -/
  raw : Nat
  /-- Accepted position (R50). -/
  acc : Nat
  /-- Accepted direction: forward (R50). -/
  fwd : Bool
  /-- Revolutions counted, wrapping at 2¹⁶ (REF.ENC_POS). -/
  revs : Nat
  /-- The fret time-stamp FIFO, oldest first, at most 64 entries (R61). -/
  tsFifo : List TsEntry
  /-- For each EVENT_OUT pin, the tick at which its pulse ends, while it is high (R494). -/
  pulses : Vector (Option Nat) 16
  deriving DecidableEq, Repr

/-- The states of a forme identifier that is not Free (Table FRM-5). -/
inductive FormeSt where
  | staged
  | checking
  | locked
  | applied
  /-- Discarded, while a held tag bank still carries the identifier (R69, R76). -/
  | discarded
  deriving DecidableEq, Repr

/-- A register write of a forme (R63). -/
structure Triple where
  off : Nat
  data : Word
  mask : Word
  deriving DecidableEq, Repr

/-- A bulk object (R64): its kind, the slot it was loaded for, and its bytes. -/
structure BulkObj where
  kind : Nat
  slot : Nat
  bytes : List Byte
  deriving DecidableEq, Repr

/-- A forme that is not Free (R63 to R70). -/
structure Forme where
  st : FormeSt
  owner : Party
  /-- Writes held, merged by offset, in staging order (R63). -/
  writes : List Triple
  /-- Bulk objects held (R63). -/
  objs : List BulkObj
  /-- APPLY and ORDINAL of FORME_LOCK (R75). -/
  apply : Word
  ordinal : Word
  /-- Position in commit order (R77); 0 before commit. -/
  commitNo : Nat
  /-- The frame of slot APPLY.SLOT that its application point precedes, fixed at commit; none for KIND 2 (R75, R76). -/
  due : Option Nat
  deriving DecidableEq, Repr

/-- A tag bank of a slot (R81): the forme that filled it, the tag-bound register values of the slot (only those
that differ from reset), and the bulk objects in use (R65). -/
structure Bank where
  forme : Nat
  commitNo : Nat
  regs : SMap Word
  objs : List BulkObj
  discarded : Bool
  deriving DecidableEq, Repr

/-- A forme's target frame on a slot (R79). -/
structure Target where
  forme : Nat
  commitNo : Nat
  ord : Nat
  deriving DecidableEq, Repr

/-- The FORME_LOCK request that is in Checking (R72): the forme, and the mailbox slot to answer. -/
structure LockReq where
  forme : Nat
  party : Party
  slot : Nat
  deriving DecidableEq, Repr

/-- The FRM block behind its registers (chapter 03). -/
structure FrmBlk where
  /-- Formes that are not Free, by identifier (R67); none at reset. -/
  formes : SMap Forme
  /-- Identifiers of Locked formes in application order (R76). -/
  lockedList : List Nat
  /-- The FORME_LOCK in Checking, oldest first (R72). -/
  checking : List LockReq
  /-- The last forme applied; 0 at reset, the boot forme. -/
  inForce : Nat
  /-- FRM.STATE.IN_FORCE (R78): the last forme applied once every domain has latched; 0 at reset. -/
  shown : Nat
  /-- A strobe's domains have not all latched: APPLIED is still to come (R78). -/
  latching : Bool
  /-- Slots whose courses and links have still to meet the first line of a frame issued after a strobe, each with that frame (Table FRM-9). -/
  latchSlots : List (Nat × Nat)
  /-- Commits made, which number the commit order (R77). -/
  commits : Nat
  /-- Each slot's tag banks in commit order, at most 6 of them held (R81); the boot forme's bank at reset. A bank that is released but whose
forme messages can still return to, after a discard (R76), keeps its values. -/
  banks : Vector (List Bank) 8
  /-- Each slot's target frames, in commit order (R79, R80); forme 0 from frame 0 at reset. -/
  targets : Vector (List Target) 8
  /-- A boundary has fired and its formes wait for host-job frames to leave the courses they take (R19): its slot, and the frame that it
precedes. -/
  heldFor : Option (Nat × Nat)
  /-- FORME_ID that a frame started now carries: the newest forme applied at or before the last frame boundary of the
  timing-master slot (R83). -/
  formeId : Nat
  /-- LAST_ERR of each staging window (R71). -/
  stageErr : Vector Nat 5
  deriving DecidableEq, Repr

/-- The states of a link (Table LNK-4). -/
inductive LinkSt where
  | disabled
  | config
  | locking
  | deskew
  | up
  | down
  deriving DecidableEq, Repr

/-- A block behind a lane's elastic buffer: its kind after descrambling (R91 to R93). -/
inductive RxBlk where
  /-- FILLER. -/
  | filler
  /-- An alignment marker with its sequence count. -/
  | marker (seq : Nat)
  /-- A data block, byte 0 first. -/
  | data (bytes : List Byte)
  /-- A control block other than FILLER and AM, byte 0 first. -/
  | ctl (bytes : List Byte)
  /-- A block with an invalid header (R94). -/
  | bad
  deriving DecidableEq, Repr

/-- The PRBS checker of a lane (R113). -/
structure Prbs where
  /-- The last 31 bits checked, newest in bit 0. -/
  hist : BitVec 31
  /-- Consecutive error-free bits while seeking. -/
  run : Nat
  locked : Bool
  /-- Positions of the latest errors while locked, newest first, at most 64. -/
  errs : List Nat
  /-- Bits checked since the checker started. -/
  pos : Nat
  /-- Bits checked while locked that PRBS_MBITS does not count yet. -/
  bits : Nat
  deriving DecidableEq, Repr

/-- A forward lane (R91 to R102, R110 to R113). -/
structure Lane where
  blockLock : Bool
  /-- The candidate block boundary, in bits behind the first one tried, modulo 66 (R97): a received block is what lies at it. -/
  slip : Nat
  /-- Consecutive valid headers while block lock is sought (R97). -/
  goodRun : Nat
  /-- Headers seen in the current window of 64, and those of them that were invalid (R97). -/
  winPos : Nat
  winBad : Nat
  amLock : Bool
  /-- Blocks since the last marker of the grid, once a marker has been seen (R98). -/
  sinceAm : Option Nat
  /-- Consecutive expected positions without a valid marker (R98). -/
  amMiss : Nat
  /-- INVERT (R96). -/
  invert : Bool
  /-- Logical lane and lane count from the marker that gained marker lock (R99). -/
  logical : Nat
  width : Nat
  /-- The lane has been mapped since reset: its logical number (R112, R113). -/
  mapped : Option Nat
  /-- The last 58 payload bits received, newest in bit 0 (R92). -/
  descr : BitVec 58
  /-- Elastic buffer, oldest first, at most 32 blocks (R102). -/
  eb : List RxBlk
  /-- Deskew FIFO behind it, oldest first, at most 80 blocks (R100). -/
  fifo : List RxBlk
  /-- Blocks taken from the elastic buffer since the map was accepted, and the markers among them, by position (R100). -/
  outPos : Nat
  marks : List (Nat × Nat)
  /-- Blocks behind the earliest lane at the last deskew. -/
  skew : Nat
  prbs : Prbs
  /-- The on-die generator of MODE 2 and 3, its last 31 bits, newest in bit 0 (Table LNK-10). -/
  gen : BitVec 31
  /-- The lane has reached CDR lock since its receiver started (R103, R110). -/
  running : Bool
  /-- The rate the lane's receiver runs at in kb/s, 0 before it first starts (R88, R112). -/
  rate : Nat
  /-- Tick of the CDR lock or of the last adaptation (R110). -/
  eqAt : Nat
  /-- The taps before the last adaptation step, while it may be reverted (R110). -/
  eqPrev : Option Word
  /-- HDR_ERR events in the last full ms and in the current one (R110). -/
  errPrev : Nat
  errCur : Nat
  deriving DecidableEq, Repr

/-- A packet being received (R94). -/
structure OpenPkt where
  ty : Nat
  stream : Nat
  /-- The slot its stream index named when its START came (R105). -/
  slot : Option Nat
  len : Nat
  bytes : List Byte
  errored : Bool
  aborted : Bool
  deriving DecidableEq, Repr

/-- What a link has received and ingest has not yet taken (R93, R94). -/
inductive RxItem where
  | packet (p : OpenPkt)
  | status (bytes : List Byte)
  | echo (seq : Nat)
  deriving DecidableEq, Repr

/-- A block placed on the block grid of a back-channel (R91, R93): its index, whether its type is inline, whether it is a control block,
and its payload, byte 0 in the lowest bits. -/
structure TxBlk where
  idx : Nat
  inl : Bool
  ctl : Bool
  payload : BitVec 64
  deriving DecidableEq, Repr

/-- What a link's back-channel lanes carry since the link last entered CONFIG (R89, R91 to R95): every index of the grid that holds neither
a marker nor a placed block is a FILLER. -/
structure BcTx where
  /-- Tick at which block 0, the first marker, begins; none at electrical idle. -/
  origin : Option Nat
  /-- BC_RATE's code and BC_MODE in use. -/
  rate : Nat
  dup : Bool
  /-- Sequence count of the first marker set, and the scrambler's state before block 0 (R92, R95). -/
  seq0 : Nat
  seed : BitVec 58
  /-- Blocks placed, the latest first. -/
  placed : List TxBlk
  /-- First index that the next block of a type that is not inline may take. -/
  nextPkt : Nat
  /-- The pattern that BC1 carries unencoded in MODE 4 (R112). -/
  pattern : Option Nat
  deriving DecidableEq, Repr

/-- LNK.Lk_CFG, Lk_LANES and Lk_SLOTS as they were before a forme changed them (R105). -/
structure HeldLink where
  cfg : Word
  lanes : Word
  slots : Word
  deriving DecidableEq, Repr

/-- A PING that waits for its ECHO (R107). -/
structure PingSt where
  id : Nat
  sentAt : Nat
  deriving DecidableEq, Repr

/-- A link (R88 to R109). -/
structure Link where
  st : LinkSt
  /-- Start of the running bring-up timeout (R103). -/
  start : Nat
  /-- Tick of the last LINK_CONFIG (R103). -/
  lastCfg : Option Nat
  /-- The lane map has been accepted (R99). -/
  mapOk : Bool
  /-- Next logical lane of the reassembly (R101). -/
  rr : Nat
  maxSkew : Nat
  pkt : Option OpenPkt
  /-- A START named an unknown stream or type: its packet is being discarded (R94). -/
  dropping : Bool
  /-- Items received, oldest first. -/
  rx : List RxItem
  /-- A forme's new rate or lanes wait for the frames in progress (R105). -/
  reconfig : Bool
  /-- A forme's disable waits for the frames in progress (R105). -/
  disabling : Bool
  /-- A test or retrain keeps the link down until MODE returns to 0 (R111). -/
  testing : Bool
  /-- A back-channel delay is in force (R107). -/
  delayValid : Bool
  /-- Tick of the last delay measurement, PINGs outstanding and results so far in ps (R107). -/
  lastMeas : Nat
  pings : List PingSt
  samples : List Nat
  dropped : Nat
  pingSeq : Nat
  /-- The first measurement after LINK_UP is running: CAP_REQUEST for each stream index follows it (R103). -/
  capsDue : Bool
  /-- What the link keeps while a change or a disable waits for its slots' frames (R105). -/
  held : Option HeldLink
  tx : BcTx
  /-- Bytes 1 to 7 of the last STATUS block (R93). -/
  status : List Byte
  deriving DecidableEq, Repr

/-- A REG_ACCESS that waits for its REG_RESPONSE (R109): the mailbox slot served and the number of entries. -/
structure RegWait where
  party : Party
  mslot : Nat
  slot : Nat
  entries : Nat
  sentAt : Nat
  /-- Segments that the answers go to (R385). -/
  segs : List (Nat × Nat)
  deriving DecidableEq, Repr

/-- The LNK block behind its registers (chapter 04). -/
structure LnkBlk where
  links : Vector Link 4
  lanes : Vector Lane 32
  /-- REG_ACCESS packets waiting for answers, oldest first (R109). -/
  regWaits : List RegWait
  deriving DecidableEq, Repr

/-- A lane at reset. -/
def Lane.reset : Lane where
  blockLock := false
  slip := 0
  goodRun := 0
  winPos := 0
  winBad := 0
  amLock := false
  sinceAm := none
  amMiss := 0
  invert := false
  logical := 0
  width := 0
  mapped := none
  descr := 0
  eb := []
  fifo := []
  outPos := 0
  marks := []
  skew := 0
  prbs := { hist := 0, run := 0, locked := false, errs := [], pos := 0, bits := 0 }
  gen := 0
  running := false
  rate := 0
  eqAt := 0
  eqPrev := none
  errPrev := 0
  errCur := 0

/-- A link at reset. -/
def Link.reset : Link where
  st := .disabled
  start := 0
  lastCfg := none
  mapOk := false
  rr := 0
  maxSkew := 0
  pkt := none
  dropping := false
  rx := []
  reconfig := false
  disabling := false
  testing := false
  delayValid := false
  lastMeas := 0
  pings := []
  samples := []
  dropped := 0
  pingSeq := 0
  capsDue := false
  held := none
  tx := {
    origin := none, rate := 5, dup := true, seq0 := 0, seed := 0, placed := [], nextPkt := 0, pattern := none }
  status := []

/-- A frame record (R23, R24, Table SYS-8). -/
structure FrameRec where
  hostJob : Bool
  slot : Nat
  tag : Nat
  formeId : Nat
  ord : Word
  /-- PTP time of exposure start, in 2⁻¹⁶ ns. -/
  ptp : Nat
  timecode : Word
  tcUser : Word
  /-- STATUS (Table SYS-9). -/
  status : Word
  linesReceived : Nat
  linesExpected : Nat
  linesCrc : Nat
  linesDiscarded : Nat
  ratio : Nat
  ratioPrev : Nat
  trbBytes : Nat
  courses : Nat
  tempBand : Nat
  /-- REF_SOURCE [2:0] and its HOLDOVER bit 7. -/
  refSource : Nat
  hostContext : Word
  expNs : Nat
  periodNs : Nat
  phase : Word
  metadata : List Byte
  deriving DecidableEq, Repr

/-- A statistics window of a frame (R153 to R155): its number, FIRST, LAST once it has closed, CLOSE_CAUSE. -/
structure Win where
  win : Nat
  first : Nat
  last : Option Nat
  cause : Nat
  deriving DecidableEq, Repr

/-- The galley reservation of a frame (R214, R219, R220). -/
inductive Hold where
  /-- The slot is not recorded: TRB.SLOTn_CTL.ENABLE is 0. -/
  | none
  /-- Reserved: cap C and target T in bytes. -/
  | held (cap target : Nat)
  /-- GALLEY_FULL: the frame is not recorded. -/
  | failed
  deriving DecidableEq, Repr

/-- A frame of a slot or of a host job, from its issue tick until its record is sealed (R124 to R129, R25). -/
structure Frame where
  fr : FrameRec
  issueTick : Nat
  /-- Tick of the exposure start: the issue tick and EXP_START_NS of the record in force then (R23, R32). -/
  expAt : Nat
  /-- Line time fixed at the issue tick, in ns (R31). -/
  lineTime : ℚ
  /-- Expected tag (R80). -/
  expTag : Nat
  /-- TAG_ECHO of the capability record in force at the issue tick (R82). -/
  echo : Bool
  /-- Registers in force at the issue tick (R124). -/
  cfg : SMap Word
  /-- The tag has been chosen (R82); the bank's registers and bulk objects from then on. -/
  tagKnown : Bool
  bankRegs : SMap Word
  bankObjs : List BulkObj
  /-- Lines accepted, in ascending order, each with its sample payload (R116). -/
  lines : List (Nat × List Byte)
  /-- FRAME_LINES of the first accepted line (R125). -/
  frameLines : Nat
  /-- Errors in a TRB engine's state, by course and line (R420). -/
  engineBad : List (Nat × Nat)
  /-- Line frets fired, by entry (R58). -/
  fired : List Nat
  hold : Hold
  wins : List Win
  /-- The frame has closed (R126). -/
  closed : Bool
  /-- The TRB frame, once coded (R212). -/
  trb : List Byte
  /-- Block rows coded so far (R207). -/
  trbRows : Nat
  /-- Surfaces that skipped the frame or dropped it (R199, R201). -/
  gone : List Nat
  /-- A failed fetch for the frame's raw front end has been reported (R152). -/
  fetchFailed : Bool
  deriving DecidableEq, Repr

/-- A slot's capability record exchange (R121). -/
structure CapSt where
  /-- Tick of the last CAP_REQUEST that waits for a record. -/
  askedAt : Option Nat
  /-- Requests that failed in a row since the last acceptance or LINK_UP. -/
  fails : Nat
  /-- The record in force differs in a checked field and the slot waits for a forme that is checked against it: one committed after
  so many commits (R122). -/
  awaits : Option Nat
  /-- Accepted since the slot's link last came UP: the slot is brought up (R121). -/
  broughtUp : Bool
  deriving DecidableEq, Repr

/-- The ING block behind its registers (chapter 05). -/
structure IngBlk where
  /-- Frames of each slot from issue tick to seal, in issue order. -/
  frames : Vector (List Frame) 8
  caps : Vector CapSt 8
  /-- Committed metadata buffers, 128 bytes (R133); zeros at reset. -/
  metadata : Vector (List Byte) 8
  /-- Ordinals of the frames closed by OVERFLOW: their later lines count in DROPPED too (R129). -/
  overflowed : Vector (List Word) 8
  /-- Fill of each course's input buffer in bytes (R128). -/
  fill : Vector Nat 4
  /-- ING.SLOTn_GEOM and _FMT of the issued frames, from each frame number at which they changed (R124). -/
  geoms : Vector (List (Nat × Word × Word)) 8
  deriving DecidableEq, Repr

/-- A sealed statistics record in its ring (R158). -/
structure StatRec where
  seq : Nat
  bytes : List Byte
  pulled : Bool
  deriving DecidableEq, Repr

/-- A slot of the raw front end behind its registers (chapter 06). -/
structure RfeSlot where
  /-- Measured frame black of the high and low gain since the slot was unmasked (R142). -/
  blackH : Option Int
  blackL : Option Int
  /-- Records sealed so far: the next record's sequence number (R158). -/
  nextStat : Nat
  /-- The statistics ring, oldest first, at most 64 records (R158). -/
  ring : List StatRec
  deriving DecidableEq, Repr

/-- A slot's noise history (R172, R173): its NBANDS, frame width, height and courses, and the lines whose valid bit is
set, each as binary16 codes, pixel by pixel and band by band. -/
structure History where
  nbands : Nat
  width : Nat
  height : Nat
  courses : Nat
  lines : SMap (List (BitVec 16))
  deriving DecidableEq, Repr

/-- A slot of the colour engine behind its registers (chapter 07). -/
structure ClrSlot where
  /-- The slot's previous frame since it was unmasked: tag, TNR on, NBANDS, width, height, courses (R173). -/
  prev : Option (Nat × Bool × Nat × Nat × Nat × Nat)
  hist : Option History
  /-- Banks whose first frame of the slot has come, by tag and commit (R173). -/
  seen : List (Nat × Nat)
  deriving DecidableEq, Repr

/-- The LUT memory (R180, R182, R183): slots that a LUT object has been copied into, by number, as binary16 entries in
slot order; a slot not listed holds the identity that Fjarera fills it with after reset. -/
structure LutMem where
  lut3 : SMap (List (BitVec 16))
  shaper : SMap (List (BitVec 16))
  /-- 64-bit words known uncorrectable, by offset in the LUT memory divided by 8 (R183). -/
  bad : List Nat
  deriving DecidableEq, Repr

/-- A surface handle that is not FREE (R201 to R203). -/
structure Handle where
  owner : Party
  /-- Size in bytes, a multiple of 4,096 (R369). -/
  size : Nat
  /-- RELEASING. -/
  releasing : Bool
  /-- Order in which the handle's buffer was last completed as a surface; none when it never was (R201). -/
  doneAt : Option Nat
  /-- The buffer's bytes written so far, from offset 0. -/
  bytes : List Byte
  /-- The draw of its unwritten bytes. -/
  born : Nat
  deriving DecidableEq, Repr

/-- A surface buffer that has been written and waits for its frame's seal (R22, R201). -/
structure Writing where
  surf : Nat
  slot : Nat
  ord : Word
  handle : Nat
  /-- Output lines complete so far in every plane on every course, from the first on (R267). -/
  lines : Nat
  /-- Every course has written its columns. -/
  written : Bool
  /-- The surface's own STATUS bits [31:16]. -/
  own : Word
  /-- The frame record, once sealed. -/
  fr : Option FrameRec
  deriving DecidableEq, Repr

/-- The imposition behind its registers (chapter 08). -/
structure ImpBlk where
  handles : SMap Handle
  writing : List Writing
  /-- Buffers completed so far, which numbers `Handle.doneAt`. -/
  completions : Nat
  /-- The latest complete buffer of each surface (IMP.SURFs_LATEST); 0 for none. -/
  latest : Vector Nat 32
  /-- The frame record of that buffer. -/
  lastFr : Vector (Option FrameRec) 32
  deriving DecidableEq, Repr

/-- What a galley item holds (R218). -/
inductive GalKind where
  /-- A TRB frame of a slot. -/
  | frame (slot : Fin 8)
  /-- A stream or audio unit, by its STREAM byte (Table MAG-5), with the slot whose frame it belongs to. -/
  | stream (src : Nat) (slot : Nat)
  /-- An accepted host write: queue, first VSA, sectors, ATOMIC, acceptance number. -/
  | host (queue vsa sectors : Nat) (atomic : Bool) (no : Nat)
  deriving DecidableEq, Repr

/-- An item of the galley (R218 to R221). -/
structure GalItem where
  ident : Nat
  kind : GalKind
  ord : Word
  /-- Space held, in 4 KiB units. -/
  units : Nat
  /-- Formed: a sealed frame, an emitted unit, an accepted write. -/
  ready : Bool
  /-- Order in which items became ready (R223). -/
  sealNo : Nat
  data : List Byte
  /-- The quire's copy of the frame record (R25). -/
  fr : Option FrameRec
  /-- The take it belongs to. -/
  take : Option Nat
  /-- It has no content: a frame or unit that failed, an index entry with GAP (R250, R268, R336). -/
  gap : Bool
  /-- Its galley copy has met an uncorrectable error (R223, R251). -/
  corrupt : Bool
  /-- The frame set of its frame (R247): frame boundaries of the timing-master slot until then. -/
  fset : Nat
  /-- SEQ of the unit that carries it, once begun. -/
  unit : Option Nat
  deriving DecidableEq, Repr

/-- A slot of the galley governor (R221 to R225). -/
structure GovSlot where
  /-- Ratio of the slot's previous frame; none before the first after unmasking or enabling (R225). -/
  prev : Option Nat
  /-- Frames issued since the last raise, once there was one (R224). -/
  sinceRaise : Option Nat
  /-- TRB_BYTES and T of the last 8 frames, newest first. -/
  last8 : List (Nat × Nat)
  /-- The slot has had a frame boundary in a take since its last decision (R224). -/
  due : Bool
  deriving DecidableEq, Repr

/-- The galley behind its registers (chapter 09). -/
structure GalBlk where
  /-- Items in the order of their reservations. -/
  items : List GalItem
  nextIdent : Nat
  nextSeal : Nat
  /-- Frame boundaries of the timing-master slot so far. -/
  fset : Nat
  gov : Vector GovSlot 8
  /-- Time that take units have waited to be written, up to `waitFrom`'s start (R224's W). -/
  waited : Nat
  /-- Tick from which take units wait, while they do. -/
  waitFrom : Option Nat
  /-- Strip programs of take units: waiting time and bytes, newest first, the last 250 ms of waiting. -/
  written : List (Nat × Nat)
  /-- Stream units made for the magazine: tick and bytes, newest first (R224's I). -/
  streamed : List (Nat × Nat)
  /-- Per course and slot, the QI in force at the end of the engine's last section (R217). -/
  qi : Vector (Vector (Option Nat) 8) 4
  deriving DecidableEq, Repr

/-- The states of the magazine (Table MAG-15). -/
inductive MagSt where
  | empty
  | off
  | ident
  | mounting
  | mounted
  | readOnly
  | ejecting
  | unusable
  deriving DecidableEq, Repr

/-- A frame index entry (Table MAG-9). -/
structure IdxEntry where
  ord : Word
  sectors : Nat
  vsa : Nat
  bytes : Nat
  status : Nat
  flags : Nat
  source : Nat
  ptpNs : Nat
  ptpSec : Nat
  deriving DecidableEq, Repr

/-- A take of the volume's directory (Table MAG-8). -/
structure Take where
  ident : Nat
  state : Nat
  slots : Nat
  cause : Nat
  streams : Nat
  startNs : Nat
  startSec : Nat
  endNs : Nat
  endSec : Nat
  frames : Vector Nat 8
  name : List Byte
  timecode : Nat
  index : List IdxEntry
  deriving DecidableEq, Repr

/-- A slot of the open takes: while it records, and the last ordinal after a stop (R221, R250). -/
structure TakeSlot where
  slot : Nat
  take : Nat
  /-- The take's last frame on the slot, once it is stopping; none while it goes on. -/
  last : Option Word
  /-- It stops at its next frame boundary: volume full (R250). -/
  full : Bool
  deriving DecidableEq, Repr

/-- A mapped extent of the volume (R241): sectors, log position of the first, and whose they are. -/
structure Ext where
  vsa : Nat
  n : Nat
  pos : Nat
  kind : Nat
  take : Nat
  /-- FRAME_RECORD of the unit that carries it (Table MAG-5). -/
  frec : List Byte
  /-- SEQ of that unit. -/
  seq : Nat
  /-- Acceptance number of the host write, 0 for none. -/
  no : Nat
  deriving DecidableEq, Repr

/-- A host write or trim accepted and not yet merged into the stored content (R357, R359). -/
structure HostOp where
  no : Nat
  vsa : Nat
  n : Nat
  isTrim : Bool
  atomic : Bool
  data : List Byte
  /-- The galley item of a write that is not durable. -/
  item : Option Nat
  /-- The unit that carries it, once begun. -/
  begun : Option Nat
  durable : Bool
  /-- Its galley copy has met an uncorrectable error (R251, R357). -/
  corrupt : Bool
  deriving DecidableEq, Repr

/-- A deferred error attached to the volume (Table MAG-10). -/
structure DefErr where
  seq : Nat
  cause : Nat
  kind : Nat
  vsa : Nat
  n : Nat
  take : Nat
  ord : Word
  slot : Nat
  /-- Acceptance number of the host write it touches, 0 for none. -/
  no : Nat
  deriving DecidableEq, Repr

/-- A strip program that a unit needs (R237, R238): data, parity of a stripe, the commit record's strip, or partial parity. -/
structure Prog where
  kind : Strip
  /-- Die position, log stripe and page data. -/
  die : Nat
  stripe : Nat
  bytes : List Byte
  /-- Issued to its die; reported successful. -/
  issued : Bool
  done : Bool
  deriving DecidableEq, Repr

/-- A commit unit from its start until it is durable (R238, R243). -/
structure MUnit where
  seq : Nat
  kind : Nat
  /-- Header FLAGS and STREAM (Table MAG-5), TAKE_ID, first VSA, frame record. -/
  flags : Nat
  stream : Nat
  take : Nat
  vsa : Nat
  frec : List Byte
  /-- Payload bytes, not padded. -/
  body : List Byte
  /-- Extents it maps: VSA, sectors, payload sector of the first. -/
  maps : List (Nat × Nat × Nat)
  /-- Its other journal records. -/
  recs : List Byte
  /-- Log stripe and data strip within it at which the unit starts. -/
  stripe : Nat
  strip : Nat
  /-- Its strip programs, in order. -/
  progs : List Prog
  /-- Its commit-record strip has succeeded; its last stripe stays open. -/
  commit : Bool
  opens : Bool
  /-- Galley items, acceptance numbers of host writes and trims, index entries by take, and take content it carries. -/
  items : List Nat
  ops : List Nat
  entries : List (Nat × IdxEntry)
  stores : List (Nat × List Byte)
  /-- Acceptance number that its extents keep, 0 for none. -/
  no : Nat
  deriving DecidableEq, Repr

/-- A mounted volume (R237 to R248). -/
structure Vol where
  ident : List Byte
  superSeq : Nat
  sectors : Nat
  /-- Superblock READ_ONLY. -/
  superRo : Bool
  failed : List Nat
  formatSec : Nat
  ckptPos : Nat
  ckptSeq : Nat
  exts : List Ext
  /-- Durable sectors by VSA; a sector that is not listed reads as zeros. -/
  store : SMap (List Byte)
  /-- VSAs of sectors that are unrecoverable (R239). -/
  bad : List Nat
  takes : List Take
  nextTake : Nat
  defs : List DefErr
  attachments : Nat
  nextSeq : Nat
  /-- SEQ of the last durable unit (MAG.COMMIT_SEQ). -/
  durableSeq : Nat
  /-- Next log position: stripe and data strip (R237). -/
  stripe : Nat
  strip : Nat
  /-- By stripe group, the stripe from which its stripes have 14 data columns (R240). -/
  short : SMap Nat
  /-- Byte-wise XOR of the data strips laid so far in the stripe at the next log position (R237, R238). -/
  parity : List Byte
  /-- Sectors that parity has rebuilt and the scrub has still to relocate (R239). -/
  moves : List Nat
  /-- Units and payload bytes since the newest checkpoint (R244). -/
  sinceUnits : Nat
  sinceBytes : Nat
  /-- Journal records that wait for the next unit. -/
  records : List (List Byte)
  /-- Free sectors have fallen below 1/50 (R250). -/
  low : Bool
  deriving DecidableEq, Repr

/-- The magazine controller behind its registers (chapter 10). -/
structure MagBlk where
  st : MagSt
  /-- MP0 to MP3. -/
  power : Nat
  /-- Pins: MAG_LOCK, MAG_VCC_EN, MAG_LATCH, the presence inputs, MAG_VCC_GOOD. -/
  locked : Bool
  vccEn : Bool
  latch : Bool
  present : Bool
  vccGood : Bool
  wp : Bool
  blank : Bool
  degraded : Bool
  rebuild : Bool
  /-- Population: channels, dies per channel, planes, bits per cell, blocks per die. -/
  chans : Nat
  dies : Nat
  planes : Nat
  bits : Nat
  blocks : Nat
  /-- Data sectors of all dies. -/
  total : Nat
  /-- Unique IDs of the dies, by position (Table MAG-1). -/
  serials : List (List Byte)
  /-- MAG.CFG.RATE as the mount took it (Table MAG-14). -/
  rateSel : Nat
  vol : Option Vol
  /-- The power state a mount was asked for (R234). -/
  wanted : Nat
  /-- When MAG_VCC_EN went high (R234 step 2). -/
  vccAt : Nat
  /-- A power transition in progress: target, and the mailbox slot to answer (R255). -/
  transition : Option (Nat × Option (Party × Nat))
  /-- An eject in progress, with the mailbox slot to answer (R235). -/
  eject : Option (Option (Party × Nat))
  /-- MAG_PWR_FAIL_N is low, or has not been high for 10 ms (R249). -/
  pwrFail : Bool
  units : List MUnit
  ops : List HostOp
  nextOp : Nat
  takeSlots : List TakeSlot
  /-- TAKE_STOP requests that wait: take, party, slot. -/
  stopping : List (Nat × Party × Nat)
  /-- Program and erase failures by die position: ticks, newest first (R240). -/
  fails : SMap (List Nat)
  /-- Blocks retired, by die position (R238). -/
  retired : SMap Nat
  /-- Programs still running for a copy of a unit that is written again: SEQ, kind, die position (R238). -/
  stale : List (Nat × Strip × Nat)
  /-- When the first of the units in progress was begun: the magazine is under load (R253). -/
  loadFrom : Option Nat
  /-- Time that background operations have taken since then, by die position × 8 + activity, in ns (R253). -/
  bgTime : SMap Nat
  /-- When the patrol scrub last read a block, by die position × 2²⁴ + block, since the magazine was powered (R253). -/
  patrolled : SMap Nat
  /-- Takes open at a surprise removal, by VOLUME_ID, until the volume is mounted again (R236). -/
  cutTakes : List (List Byte × List Nat)
  /-- Deferred errors made at a removal, by VOLUME_ID (R251). -/
  held : List (List Byte × List DefErr)
  /-- Data strips programmed: tick and bytes, newest first, over 250 ms (MAG.WRITE_RATE). -/
  rate : List (Nat × Nat)
  /-- Tick of the last ZQ calibration (R229). -/
  lastZq : Nat
  deriving DecidableEq, Repr

/-- A picture of an encoder stream, from its binding until its output unit is emitted (R266 to R278). -/
structure EncPic where
  slot : Nat
  ord : Word
  /-- Queue, tag and frame index of a host-job picture. -/
  job : Option (Nat × Nat × Nat)
  /-- The handle it reads, once its surface has chosen one (R267). -/
  handle : Option Nat
  /-- Order of binding over the device, which tells pictures apart, and the tick of binding (R270). -/
  bound : Nat
  boundAt : Nat
  /-- The stream's fields, header set and static SEI as it was bound: it is coded under them (R258, R264). -/
  cfg : SMap Word
  headers : List Byte
  sei : SMap (List Byte)
  /-- It is the first picture under new parameter sets (R265); the first since the stream was enabled. -/
  first : Bool
  anew : Bool
  /-- Position in the stream's picture sequence, from which its POC comes (R265). -/
  pos : Nat
  /-- The source lines are complete (R267). -/
  ready : Bool
  /-- Lines of the source complete so far, from the first on (R267). -/
  lines : Nat
  /-- Its coding has started: type 0 I, 1 P or LOW_DELAY_B anchor, 2 B, 3 b; IRAP; forced IRAP. -/
  started : Bool
  ty : Nat
  /-- POC (R265). -/
  poc : Nat
  irap : Bool
  forced : Bool
  qpBase : Nat
  qp : Nat
  /-- Lowest and highest QP of any row. -/
  qpMin : Nat
  qpMax : Nat
  /-- Target in bytes. -/
  target : Nat
  /-- B_cap in bits; none when unbounded (R273). -/
  cap : Option Nat
  /-- CAP_BYTES (Table HEV-7). -/
  capBytes : Nat
  /-- The access unit before its slice segments; bits of slice headers in all; rows coded and slice-data bits so far. -/
  head : List Byte
  sliceHdr : Nat
  rows : Nat
  bits : Nat
  /-- R274: the clamp holds; CTUs have been skipped. -/
  clamped : Bool
  skipping : Bool
  corrupt : Bool
  /-- The output unit's access unit, once coded, filler included. -/
  data : List Byte
  /-- The frame record, once sealed. -/
  fr : Option FrameRec
  /-- The galley item of a magazine-bound unit (R279). -/
  item : Option Nat
  deriving DecidableEq, Repr

/-- An output unit in a ring (R278, R280). -/
structure RingUnit where
  bytes : List Byte
  deriving DecidableEq, Repr

/-- References and rate state of a stream before the picture being coded, to which they return when it is abandoned (R268). -/
structure EncBefore where
  lastIdr : Nat
  base : Nat
  anchor : Nat
  forceIrap : Bool
  group : List Nat
  prevQp : Option Nat
  prevTarget : Nat
  debt : ℚ
  last : Vector (Option (Nat × Nat × Nat)) 4
  hrd : Option ℚ
  deriving DecidableEq, Repr

/-- An encoder stream behind its registers (R258 to R281). -/
structure EncStream where
  /-- Its fields as last latched (Table FRM-9). -/
  cfg : SMap Word
  /-- What its header set carries beside the fields: the source's format, the nominal period in ns and whether the slot ramps (R264, R265). -/
  source : Nat × ℚ × Bool
  /-- Pictures bound and not yet started, in output order; the picture being coded; pictures coded that wait for the seal. -/
  waiting : List EncPic
  cur : Option EncPic
  coded : List EncPic
  /-- ENC_START firings counted since the fields latched (R266). -/
  firings : Nat
  /-- The frame last bound. -/
  lastBound : Option (Nat × Word)
  /-- Next position; position of the last IDR, from which POC counts; position that IRAP periods and groups count from;
  position of the last anchor (structure 3). -/
  nextPos : Nat
  lastIdr : Nat
  base : Nat
  anchor : Nat
  /-- The next picture bound is the first under new parameter sets; the first since the stream was enabled; the next picture coded is an IRAP. -/
  wantIrap : Bool
  anew : Bool
  forceIrap : Bool
  /-- In structure 3: positions of the group whose anchor is coded that are still to be coded, in decode order. -/
  group : List Nat
  /-- Base QP and target of the previous picture (R272). -/
  prevQp : Option Nat
  prevTarget : Nat
  /-- R271: debt, and per type the last QP, bits and target. -/
  debt : ℚ
  last : Vector (Option (Nat × Nat × Nat)) 4
  /-- HRD fullness in bits after the last picture; none before the first (R273). -/
  hrd : Option ℚ
  before : Option EncBefore
  /-- Units emitted (UNIT_SEQ); output ring, oldest first; an overwrite has not been marked yet (R280). -/
  units : Nat
  ring : List RingUnit
  discont : Bool
  /-- Static SEI payloads by payloadType: in force; staged for the next header set; those of the last header set written under a forme that has
  applied; and those of header sets written at the lock-up of formes still Locked, by commit number (R264). -/
  sei : SMap (List Byte)
  seiNext : SMap (List Byte)
  seiSet : SMap (List Byte)
  seiSets : List (Nat × SMap (List Byte))
  /-- The parameter sets in force, Annex B (R264). -/
  headers : List Byte
  deriving DecidableEq, Repr

/-- A decoded picture in a session's buffer (R283): POC, and whether it is a substitute, concealed-dependent or concealed. -/
structure DecPic where
  poc : Int
  concealed : Bool
  deriving DecidableEq, Repr

/-- A decode session (R282 to R285, R370). -/
structure Session where
  owner : Party
  /-- Bytes of a buffer for one picture (R197). -/
  size : Nat
  params : List Byte
  pictures : Nat
  dpb : List DecPic
  /-- No picture has been decoded since the session opened, or the last IRAP was a CRA that began it. -/
  fresh : Bool
  /-- Tags of the session's pictures submitted and not finished, oldest first. -/
  todo : List (Nat × Nat)
  deriving DecidableEq, Repr

/-- The HEV block behind its registers (chapter 11). -/
structure HevBlk where
  streams : Vector (Vector EncStream 16) 4
  /-- Pictures bound so far. -/
  bindings : Nat
  sessions : SMap Session
  deriving DecidableEq, Repr

/-- A stream at reset. -/
def EncStream.reset : EncStream where
  cfg := []
  source := (0, 0, false)
  waiting := []
  cur := none
  coded := []
  firings := 0
  lastBound := none
  nextPos := 0
  lastIdr := 0
  base := 0
  anchor := 0
  wantIrap := true
  anew := true
  forceIrap := false
  group := []
  prevQp := none
  prevTarget := 0
  debt := 0
  last := Vector.replicate 4 none
  hrd := none
  before := none
  units := 0
  ring := []
  discont := false
  sei := []
  seiNext := []
  seiSet := []
  seiSets := []
  headers := []

/-- The lock states of a display head (Table DSP-1, Dh_STATE). -/
inductive HeadSt where
  | off
  | seeking
  | locked
  | holdover
  deriving DecidableEq, Repr

/-- A plane of a head (R293, R294). -/
structure PlaneSt where
  /-- The handle being scanned; 0 for none. -/
  shown : Nat
  /-- Handles written that no latch has taken, newest first, with their ticks: one written in the cycle of a latch instant waits for the
  following one (R293, R294). -/
  writes : List (Nat × Nat)
  /-- The handle that a handle-sourced plane is on: the last one it did not refuse. -/
  kept : Nat
  /-- Lines whose fetch fails in the frame that starts next: the plane is transparent there (R297). -/
  clear : List Nat
  /-- Width, height and format of what is shown, and its place, as of its latch. -/
  w : Nat
  h : Nat
  fmt : Nat
  deriving DecidableEq, Repr

/-- A display head behind its registers (R287 to R297). -/
structure Head where
  st : HeadSt
  /-- Its fields as last latched (Table FRM-9). -/
  cfg : SMap Word
  /-- The raster runs; frames since it started (R289, R290). -/
  raster : Bool
  frame : Nat
  /-- The exact instant of the last head frame start, in ns of the device time base. -/
  startAt : ℚ
  /-- PTP time of that frame start, in ns (R309). -/
  startPtp : ℚ
  /-- This frame's latch instant has passed. -/
  latched : Bool
  /-- A new raster may start from this instant on (R289). -/
  waitFrom : ℚ
  /-- The composed picture of the frame in progress: three channels per pixel (R296). -/
  picture : List (List (List ℚ))
  /-- The offset d in force, ppm (R291). -/
  d : ℚ
  /-- Consecutive measurements below one head clock; consecutive frame starts with want at ±PULL (R291, R292). -/
  good : Nat
  atPull : Nat
  /-- HEAD_OFF_RANGE holds the head in holdover until a forme changes its clock fields (R292). -/
  offRange : Bool
  /-- Last alignment event of the reference, and the reference events counted since (R290). -/
  align : Option Nat
  edges : Nat
  planes : Vector PlaneSt 4
  /-- An underflow or fetch error since the last latch instant; a forme has latched there (R300). -/
  disturbed : Bool
  formed : Bool
  deriving DecidableEq, Repr

/-- An eDP port (R299, R300): state code of Table DSP-5, HPD, and unchanged frames so far. -/
structure EdpPort where
  st : Nat
  hpd : Bool
  lanes : Nat
  rate : Nat
  setup : Nat
  psr2 : Bool
  unchanged : Nat
  /-- Frames of its head that the panel does not show while the sink sets up after self-refresh (R300). -/
  wake : Nat
  /-- Its configuration as last latched. -/
  cfg : Word
  deriving DecidableEq, Repr

/-- The DSP block behind its registers. -/
structure DspBlk where
  heads : Vector Head 6
  ports : Vector EdpPort 2
  /-- SDI configuration as last latched, SDI0 to SDI3. -/
  sdi : Vector Word 4
  deriving DecidableEq, Repr

/-- A sender behind its registers (R307 to R313). -/
structure Sender where
  /-- Its fields as last latched (Table FRM-9). -/
  cfg : SMap Word
  /-- The RTP sequence number of the next packet, 32 bits (R307). -/
  seq : Nat
  /-- The head frame whose packets it sends, by the instant at which it started, and the next packet of it (R310, R312). -/
  frame : Option ℚ
  next : Nat
  /-- The packet time whose packet an audio sender sends next (R311). -/
  group : Option Nat
  /-- Real samples assigned to sampling instants to come: port, instant, channel 0, channel 1 (R334). -/
  got : List (Nat × Nat × Int × Int)
  /-- The loss in progress has raised AUDIO_SILENCE (R311). -/
  silent : Bool
  deriving DecidableEq, Repr

/-- An entry of the event FIFO (R322): rising, input, edge count, PTP time. -/
structure EvtEntry where
  rising : Bool
  input : Nat
  count : Nat
  time : Nat
  deriving DecidableEq, Repr

/-- An event input (R321). -/
structure EvtIn where
  /-- Tick of the last valid edge, or of the input's enabling. -/
  lastEdge : Option Nat
  since : Nat
  /-- Valid periods, newest first, at most 8, and consecutive valid ones: the range check of R43. -/
  periods : List Nat
  run : Nat
  count : Nat
  lost : Bool
  deriving DecidableEq, Repr

/-- The network senders and the PTP clock's servo, queues and inputs (chapter 13). -/
structure NetBlk where
  snds : Vector Sender 48
  /-- Port configurations as last latched. -/
  ports : Vector Word 2
  /-- The clock's fraction below 2⁻¹⁶ ns, in 2⁻³² ns (R315). -/
  sub : Nat
  /-- The last step of the clock, in 2⁻¹⁶ ns, and its tick: samples taken in that tick read the old time (R317). -/
  stepped : Option (Nat × Int)
  /-- PTP messages received within a switch-over gap, which Fjarera has still to handle: port, interface, ingress time-stamp, frame (R316). -/
  heard : List (Nat × Nat × Int × List Byte)
  /-- The servo (R317, R318): integ and f in ppb, prev_big, offsets within LOCK_THRESH in a row, offsets at the limit in a row,
  and the tick of the last offset. -/
  integ : ℚ
  f : ℚ
  prevBig : Bool
  small : Nat
  atLimit : Nat
  lastOfs : Option Nat
  /-- Transmit time-stamp queues: identifier and egress time (R320). -/
  txts : Vector (List (Nat × Nat)) 2
  /-- The event FIFO, oldest first (R322). -/
  evts : List EvtEntry
  inputs : Vector EvtIn 16
  /-- The label of each slot's next frame in counting mode (R325). -/
  labels : Vector Word 8
  /-- Fjarera's PTP settings (R392): the words of the last PTP_CONFIG. -/
  config : List Word
  deriving DecidableEq, Repr

/-- A block of 64 samples of an audio port (R330, Table AUD-3). -/
structure AudBlock where
  seq : Nat
  silence : Bool
  discont : Bool
  /-- PTP time of its first sample, in 2⁻¹⁶ ns. -/
  start : Nat
  /-- RATE_MHZ when it closed. -/
  rate : Nat
  samples : List (Int × Int)
  deriving DecidableEq, Repr

/-- A frame set as an audio port sees it (R335): the timing-master frame's ordinal and issue instant in PTP time, the take, and the
galley item reserved; none when the reservation failed. -/
structure AudSet where
  ord : Word
  issue : Nat
  take : Option Nat
  item : Option Nat
  deriving DecidableEq, Repr

/-- The lock states of an audio port (Table AUD-1). -/
inductive AudSt where
  | disabled
  | seeking
  | locked
  | lost
  deriving DecidableEq, Repr

/-- An audio port behind its registers (R327 to R337). -/
structure AudPort where
  /-- CFG, RATE, PHASE_OFS, FILT and RATE_THRESH as last latched (Table FRM-9). -/
  cfg : SMap Word
  st : AudSt
  /-- Tick of the last valid word-select edge, or of the start of seeking; valid periods, newest first; consecutive valid ones. -/
  lastEdge : Option Nat
  since : Nat
  periods : List Nat
  run : Nat
  /-- The port has been lost and generates silent blocks (R332). -/
  silent : Bool
  /-- Index of a master port's next sample (R328). -/
  sample : Option Nat
  /-- SEQ of the next block; the block in progress; the next real block is flagged DISCONT (R333). -/
  seq : Nat
  cur : Option AudBlock
  discont : Bool
  /-- Time-stamp of the last block begun (R332). -/
  lastStart : Nat
  /-- Time-stamps of the blocks since the port locked, newest first, at most 65 (R331). -/
  stamps : List Nat
  /-- The last valid RATE_MHZ; 0 for none. RATE_REF has taken a value. -/
  lastRate : Nat
  refSet : Bool
  /-- Blocks completed and not yet in a unit, oldest first; frame sets begun and not formed, oldest first (R335). -/
  blocks : List AudBlock
  sets : List AudSet
  deriving DecidableEq, Repr

/-- A host job from its acceptance until its completion (R362 to R366). -/
structure Job where
  /-- The job descriptor (Tables HQ-8 and HQ-9). -/
  desc : List Byte
  /-- Fjarera has admitted it (R365). -/
  admitted : Bool
  /-- Frames started and frames that have left their course. -/
  started : Nat
  left : Nat
  /-- The course, the raw input and the record of the frame in progress. -/
  course : Option Nat
  raw : List Byte
  cur : Option FrameRec
  /-- Records of the frames that have left, oldest first; STATUS [31:16] gathers their outputs' bits (R366). -/
  recs : List FrameRec
  /-- Pictures neither written nor abandoned: frame index, core, stream. -/
  pics : List (Nat × Nat × Nat)
  /-- An output carries OUT_CORRUPT or a frame DATA_CORRUPT; a picture was flagged BUDGET_EXHAUSTED (R366). -/
  corrupt : Bool
  budget : Bool
  deriving DecidableEq, Repr

/-- A command of a queue from its fetch until its completion is posted (R345, R346). -/
structure Cmd where
  op : Nat
  flags : Nat
  addr : Nat
  len : Nat
  arg0 : Nat
  arg1 : Nat
  arg2 : Nat
  /-- SQ head after the entry was fetched (Table HQ-6). -/
  sqHead : Nat
  /-- Position in device-wide fetch order (R365, R370). -/
  order : Nat
  /-- Host writes and trims accepted before the fetch have acceptance numbers below this (R360). -/
  mark : Nat
  /-- Its opcode has been executed and it waits: a write for room, a flush, a pull, a job or a picture (R356, R360,
  R367, R368, R365, R370). -/
  waiting : Bool
  /-- Its completion is made and waits for room in the CQ (R348). -/
  finished : Bool
  /-- Handles it references until its completion is posted (R202, R365, R369, R370). -/
  holds : List Nat
  /-- Host segments of its data (R347), once resolved. -/
  segs : List (Nat × Nat)
  /-- Data read from host memory: of a write that waits, or an access unit. -/
  data : List Byte
  job : Option Job
  /-- Marked for abort at the hold instant (R371). -/
  aborted : Bool
  deriving DecidableEq, Repr

/-- A CQ entry (Table HQ-6) that waits for a free slot (R348). -/
structure Cqe where
  result : Word
  tag : Nat
  sqHead : Nat
  status : Nat
  detail : Nat
  /-- FLAGS other than PHASE and DEFERRED_ERROR. -/
  flags : Nat
  op : Nat
  irqNow : Bool
  /-- The posted entry ends the tag's flight. -/
  ends : Bool
  deriving DecidableEq, Repr

/-- A queue pair (R343 to R351). -/
structure Queue where
  owner : Party
  sqBase : Nat
  cqBase : Nat
  sqDepth : Nat
  cqDepth : Nat
  tagBase : Nat
  tagCount : Nat
  vector : Nat
  cls : Nat
  bindMag : Bool
  aggCount : Nat
  aggTime : Nat
  sqHead : Nat
  sqTail : Nat
  cqHead : Nat
  cqTail : Nat
  phase : Bool
  halted : Bool
  /-- A reset is in progress: tags aborted so far (R371, R372). -/
  resetting : Option Nat
  /-- Fetching waits for the next tail doorbell after a fence (R372). -/
  fenced : Bool
  /-- Entries posted since the last message, and the tick of the first of them (R351). -/
  unsignalled : Nat
  firstAt : Nat
  /-- Deferred-error attachments not yet reported on this queue (R361). -/
  attached : Nat
  backlog : List Cqe
  /-- Tags in flight. -/
  cmds : SMap Cmd
  deriving DecidableEq, Repr

/-- What a function may create (R342): queues, tags and handles. -/
structure Quota where
  queues : Nat
  tags : Nat
  handles : Nat
  deriving DecidableEq, Repr

/-- The fetch arbiter (R350): the last urgent queue served and the entries left in its turn; the class and queue last served in the rounds of
the other classes, and the entries left in its turn. -/
structure Arb where
  urgent : Nat
  urgentLeft : Nat
  cls : Nat
  lastQ : Nat
  left : Nat
  deriving DecidableEq, Repr

/-- The host interface behind its registers (chapter 15). -/
structure HqBlk where
  queues : SMap Queue
  /-- Quotas of the VFs, function 1 first (R342). -/
  quotas : Vector Quota 63
  /-- Bus Master Enable of each function (R350). -/
  bme : Vector Bool 64
  arb : Arb
  /-- Entries fetched, which numbers fetch order. -/
  fetched : Nat
  /-- Queues with a QRESET write that the completion arbiter has not accepted (R371). -/
  resetAsked : List Nat
  deriving DecidableEq, Repr

/-- What a mailbox request acts on (R382). -/
inductive MbxTarget where
  | forme (f : Nat)
  | slot (n : Nat)
  | queue (q : Nat)
  | magazine
  | stream (k : Nat)
  | edp (p : Nat)
  | sender (i : Nat)
  | lane (j : Nat)
  | mem (start len : Nat)
  | logPage (k : Nat)
  | control
  | ptp
  | none
  deriving DecidableEq, Repr

/-- A mailbox request that is RUNNING (R378): its slot, opcode, target, when it was taken, whether it waits only on
hardware (R382), and two numbers of its own. -/
structure RunReq where
  party : Party
  slot : Nat
  op : Nat
  target : MbxTarget
  since : Nat
  onHardware : Bool
  a : Nat
  b : Nat
  deriving DecidableEq, Repr

/-- A BLACK_CAL in progress (R393): sums per column and gain, samples counted, frames used and wanted. -/
structure BlackCal where
  party : Party
  mslot : Nat
  slot : Nat
  want : Nat
  used : Nat
  /-- Per gain and column: sum of working values and their number. -/
  sums : List (Int × Nat)
  /-- Host segments of the result (R385). -/
  segs : List (Nat × Nat)
  deriving DecidableEq, Repr

/-- A drain before an activation or a drill (R374, R387). -/
structure Drain where
  party : Party
  slot : Nat
  isDrill : Bool
  since : Nat
  limitMs : Nat
  deriving DecidableEq, Repr

/-- The mailboxes behind their registers (chapter 16). -/
structure MbxBlk where
  /-- Requests POSTED, in the order of their GO writes (R382). -/
  posted : List (Party × Nat)
  running : List RunReq
  calib : List BlackCal
  drain : Option Drain
  deriving DecidableEq, Repr

/-- A user core (R395 to R403): what of it the device keeps. -/
structure UserCore where
  /-- TCM from offset 0 as loaded and stored to; the rest of it is zero (R395, R401). -/
  tcm : List Byte
  /-- The handle of a load in progress, 0 where the one named cannot be loaded from (R401). -/
  loading : Option Nat
  /-- ENTRY of the last successful load (R402). -/
  entry : Option Nat
  /-- The machine timer interrupt is pending (R403). -/
  timer : Bool
  deriving DecidableEq, Repr

/-- A UART's FIFOs, oldest first, at most 64 bytes each (R404). -/
structure Uart where
  tx : List Byte
  rx : List Byte
  deriving DecidableEq, Repr

/-- An SPI port's FIFOs, at most 256 bytes each, and the XFER word of a transfer in progress (R405). -/
structure SpiPort where
  tx : List Byte
  rx : List Byte
  xfer : Option Word
  deriving DecidableEq, Repr

/-- An I3C port's FIFOs, its in-band interrupts (address and payload, at most 8), and the CMD word of a command in progress (R406). -/
structure I3cPort where
  tx : List Byte
  rx : List Byte
  ibi : List (Nat × List Byte)
  cmd : Option Word
  deriving DecidableEq, Repr

/-- The user cores and peripherals behind the PER registers (chapter 17). -/
structure PerBlk where
  cores : Vector UserCore 4
  uarts : Vector Uart 8
  spis : Vector SpiPort 6
  i3cs : Vector I3cPort 4
  /-- Per word of GPIO pins, the tick of its last OUT_CLR and the bits cleared in that tick (R407). -/
  gpioClr : Vector (Nat × Word) 2
  deriving DecidableEq, Repr


/-- A GDDR6 channel (R437 to R441): the tick of its last retraining step; refreshes owed per bank, in intervals, as reckoned at a tick;
the start of the refresh window; and the row-hammer table, in entry order: bank, row, count, at most 512. Also, until when a retraining
step keeps it from requests; the open row of each bank; neighbour refreshes that wait, by bank and row, oldest first; and of the arbiter's
window the slots gone, those that real-time left, and those of them that bulk received (R447). -/
structure MemChan where
  lastStep : Nat
  owed : Vector ℚ 16
  owedAt : Nat
  winAt : Nat
  table : List (Nat × Nat × Nat)
  stepEnd : Nat
  openRow : Vector (Option Nat) 16
  hammer : List (Nat × Nat)
  slots : Nat
  spare : Nat
  bulk : Nat
  /-- A phase drift waits for its step (R438). -/
  drift : Bool
  deriving DecidableEq, Repr

/-- A channel at reset. -/
def MemChan.reset : MemChan where
  lastStep := 0
  owed := Vector.replicate 16 0
  owedAt := 0
  winAt := 0
  table := []
  stepEnd := 0
  openRow := Vector.replicate 16 none
  hammer := []
  drift := false
  slots := 0
  spare := 0
  bulk := 0

/-- The GDDR6 controller behind its registers (chapter 19). -/
structure MemBlk where
  chans : Vector MemChan 24
  /-- Retraining windows that still have steps to run: opened at, length, steps left (R437). -/
  windows : List (Nat × Nat × Nat)
  /-- The channel of the next step, and the tick at which the step in progress ends. -/
  next : Nat
  busyUntil : Nat
  /-- Granules whose check bytes are a poison code, by usable address / 64 (R443). -/
  poison : List Nat
  deriving DecidableEq, Repr

/-- The copy of an error record that Colophon receives (R418). -/
structure RecCopy where
  err : ErrRec
  /-- The occurrence was merged into a queued record (R416). -/
  merged : Bool
  deriving DecidableEq, Repr

/-- A temperature sensor (R452, R454). -/
structure Sensor where
  /-- Conversions in 1/16 °C, newest first, at most 101; none for one that failed. -/
  hist : List (Option Int)
  excluded : Bool
  /-- Consecutive evaluations at which its rate exceeded 20 °C/s. -/
  fast : Nat
  deriving DecidableEq, Repr

/-- A supply monitor (R453). -/
structure Monitor where
  /-- Consecutive samples outside the limits. -/
  outRun : Nat
  warned : Bool
  /-- Tick since which the quantity has been inside its limits. -/
  okSince : Option Nat
  deriving DecidableEq, Repr

/-- The comparators of domain 49 behind the THM registers (R452 to R459). -/
structure ThmBlk where
  sensors : Vector Sensor 28
  monitors : Vector Monitor 14
  /-- Ticks of the last conversion, evaluation and supply samples. -/
  convAt : Nat
  rateAt : Nat
  sampleAt : Vector Nat 14
  /-- TMAX of the last conversion. -/
  lastMax : Option Int
  /-- Applied band, measured band, and a change of it that waits for a fret (R455, R60). -/
  band : Nat
  measured : Nat
  bandWaits : Bool
  /-- TEMP_WARN and RATE_WARN are set; tick since which every rate has been at most 4 °C/s. -/
  warn : Bool
  rateWarn : Bool
  calmSince : Option Nat
  /-- A shutdown condition set at this tick: core power goes 2 ms later (R457). -/
  shutAt : Option Nat
  /-- Core power is held off after a thermal shutdown; tick since which sensor 27 has been below 90 °C (R458). -/
  hot : Bool
  coolSince : Option Nat
  deriving DecidableEq, Repr

/-- An entry of the persistent event log (Table THM-5). -/
structure LogEnt where
  ty : Nat
  seq : Nat
  boot : Nat
  uptime : Nat
  payload : List Byte
  deriving DecidableEq, Repr

/-- A data window (R465): 0 the PF's, 1 the SMBus port's, 2 the I3C port's. -/
structure DwWin where
  arg : Word
  state : Nat
  code : Nat
  moved : Nat
  /-- The operation in progress: 1 READ_LOG, 2 WRITE_IMAGE, 0 none. -/
  op : Nat
  /-- What has been written of an image. -/
  data : List Byte
  /-- MGT.DW_REFUSED of a side-band copy. -/
  refused : Nat
  /-- LOG_SEQ of the first entry of a READ_LOG. -/
  first : Nat
  /-- Block and offset named by the last 0x21 (R463). -/
  readAt : Option (Nat × Nat)
  deriving DecidableEq, Repr

/-- Colophon behind the MGT registers (R460 to R470). -/
structure MgtBlk where
  /-- Copies received in the current second, oldest first (R418). -/
  incoming : List RecCopy
  /-- Copies that arrived while the processor restarts, and those of them lost from the FIFO (R470). -/
  fifo : Nat
  lost : Nat
  /-- Occurrences, by (BLOCK, CODE), merged into records persisted before, for the next summary of their pair (R418). -/
  carry : List ((Nat × Nat) × Nat)
  /-- Log entries that wait for the processor to restart: type and payload. -/
  waiting : List (Nat × List Byte)
  /-- Start of the current second of Colophon time. -/
  secondAt : Nat
  /-- The retained entries, oldest first; the newest LOG_SEQ (R460). -/
  log : List LogEnt
  logSeq : Nat
  bootCount : Nat
  /-- This boot's core power-on. -/
  powerAt : Nat
  /-- Colophon A and B, Fjarera A and B. -/
  slots : Vector FwSlot 4
  /-- The slot that each component booted from (0 A, 1 B); both Colophon slots have failed (R476). -/
  booted : Vector Nat 2
  dead : Bool
  /-- The SVN fuse counters of Colophon and Fjarera (R467). -/
  fuses : Vector Nat 2
  wins : Vector DwWin 3
  /-- A PLDM transfer that is open: component, bytes so far (R464). -/
  pldm : Option (Nat × List Byte)
  /-- MCTP endpoint ID, PLDM event receiver, I3C dynamic address (R462, R464). -/
  eid : Nat
  receiver : Option (Party × List Byte)
  i3cAddr : Option Nat
  /-- The processor restarts: until when, and the cause (R470). -/
  restart : Option (Nat × Nat)
  /-- When a start began after which the image of Colophon or Fjarera has to report healthy (R468). -/
  health : Vector (Option Nat) 2
  deriving DecidableEq, Repr

/-- A reference clock monitor (R485). -/
structure ClkMon where
  bad : Nat
  good : Nat
  lost : Bool
  deriving DecidableEq, Repr

/-- Start-up and reset behind the SYS registers (R471 to R485). -/
structure SysBlk where
  /-- The always-on domain runs. -/
  aon : Bool
  /-- CORE_PWR_EN and the tick at which it rose; CORE_PG and the tick at which it rose. -/
  pwrEn : Bool
  enAt : Nat
  pg : Bool
  pgAt : Nat
  /-- Failed attempts; core power held off until the next always-on reset (R472). -/
  attempts : Nat
  gaveUp : Bool
  /-- Tick of a core power drop after which power returns (R472). -/
  downAt : Option Nat
  /-- The cause of the next core reset (SYS.RESET_CAUSE). -/
  cause : Nat
  /-- Training of GDDR6 has ended well; readiness has been reached (R476, R478). -/
  trained : Bool
  ready : Bool
  /-- PERST_N is high; the PCIe link trains or is up (R477). -/
  perst : Bool
  pcieUp : Bool
  /-- AON_XTAL, SYS_REFCLK, PCIE_REFCLK, LNK_REFCLK, ETH_REFCLK. -/
  clocks : Vector ClkMon 5
  clkAt : Nat
  /-- The configuration area of the boot flash (R475). -/
  config : List Byte
  deriving DecidableEq, Repr

/-- The state of the block. -/
structure State where
  /-- Device time base, ns since reset (R31, R403 PER.MTIME). -/
  now : Nat
  /-- The model's own counter of free values taken (notes/assumptions/3.md). -/
  free : Nat
  /-- The model's own record of what the block put out, newest first. -/
  out : List Out
  /-- Commands waiting, first in first out. -/
  pending : List Instr
  /-- Every register that does not hold its reset value, by BAR0 offset; a VF's window is keyed above 0x8000_0000 (R6, R341). -/
  regs : SMap Word
  /-- Captured wide quantities by party and lowest offset (R8); a capture not listed holds zero. -/
  captures : SMap (List Word)
  /-- Lower words of wide quantities last written, by party and offset (R8). -/
  staged : SMap Word
  /-- MSI-X table words by function and BAR4 offset (R341, R351). -/
  msix : SMap Word
  /-- MSI-X pending bits by function and vector (R351). -/
  pba : SMap Bool
  flt : FltBlk
  irq : IrqBlk
  ref : RefBlk
  frm : FrmBlk
  lnk : LnkBlk
  ing : IngBlk
  /-- The core supply is up and the core reset is released: domains 0 to 48 run (R476, R479). False at reset. -/
  live : Bool
  /-- The PTP clock, in units of 2⁻¹⁶ ns since its epoch (R315); counts from 0 at reset (R414). -/
  ptpNow : Nat
  /-- Tick at which the core reset was last released: device time is counted from it (R31). -/
  coreAt : Nat
  rfe : Vector RfeSlot 8
  /-- Uncorrectable GDDR6 errors met by fetches for frames in progress, until the frame's processing meets them (R152, R185, R200). -/
  fetchBad : List Client
  clr : Vector ClrSlot 8
  lut : LutMem
  imp : ImpBlk
  gal : GalBlk
  mag : MagBlk
  hev : HevBlk
  dsp : DspBlk
  net : NetBlk
  aud : Vector AudPort 8
  hq : HqBlk
  mbx : MbxBlk
  per : PerBlk
  mem : MemBlk
  thm : ThmBlk
  mgt : MgtBlk
  sys : SysBlk
  deriving DecidableEq, Repr

/-- The machine right after reset (R479): registers at their reset values, FIFOs and queues empty, every identifier
free, core power off. Values of internal state that the spec gives no reset value are named in notes/assumptions/2.md. -/
def State.reset : State where
  now := 0
  free := 0
  out := []
  pending := []
  regs := []
  captures := []
  staged := []
  msix := []
  pba := []
  flt := { queue := [], nextSeq := 0, overflowed := false, fatal := false, controlLost := false, gap := none,
           roles := #v[0, 1, 2, 3, 4], failed := Vector.replicate 5 false,
           leftStandby := Vector.replicate 5 0, selfTest := none, lastSwitch := 0,
           overdueRaised := false, journal := 0, lastCkpt := 0, ckpt := none }
  irq := { run := Vector.replicate 4 16, stack := Vector.replicate 4 [] }
  ref := { inputs := Vector.replicate 3 {
             st := .disabled, offRate := false, afterLoss := false,
             lastEdge := none, periods := [], seek := [], phaseEdge := none, run := 0, since := 0, inForce := none },
           slots := Vector.replicate 8 {
             issued := 0, lastIssue := none, lineTime := 0, next := none, ptpAxis := false, on := false, notBefore := 0,
             st := .idle, hold := none, lastPeriod := none, err := 0, align := none, edges := 0,
             missed := false, fixed := [], sent := [], bcDelay := 0, msgNo := 0, cfg := [], fired := [], boundary := false,
             key := [] },
           encA := false, encB := false, raw := 0, acc := 0, fwd := true, revs := 0,
           tsFifo := [], pulses := Vector.replicate 16 none }
  frm := { formes := [], lockedList := [], checking := [], inForce := 0, shown := 0, latching := false, latchSlots := [], commits := 0,
           banks := Vector.replicate 8 [{ forme := 0, commitNo := 0, regs := [], objs := [], discarded := false }],
           targets := Vector.replicate 8 [{ forme := 0, commitNo := 0, ord := 0 }],
           heldFor := none, formeId := 0, stageErr := Vector.replicate 5 0 }
  lnk := { links := Vector.replicate 4 Link.reset, lanes := Vector.replicate 32 Lane.reset, regWaits := [] }
  ing := {
    frames := Vector.replicate 8 [],
    caps := Vector.replicate 8 { askedAt := none, fails := 0, awaits := none, broughtUp := false },
    metadata := Vector.replicate 8 (List.replicate 128 0),
    overflowed := Vector.replicate 8 [], fill := Vector.replicate 4 0, geoms := Vector.replicate 8 [] }
  live := false
  ptpNow := 0
  coreAt := 0
  rfe := Vector.replicate 8 { blackH := none, blackL := none, nextStat := 0, ring := [] }
  fetchBad := []
  clr := Vector.replicate 8 { prev := none, hist := none, seen := [] }
  lut := { lut3 := [], shaper := [], bad := [] }
  imp := {
    handles := [], writing := [], completions := 0, latest := Vector.replicate 32 0,
    lastFr := Vector.replicate 32 none }
  gal := {
    items := [], nextIdent := 0, nextSeal := 0, fset := 0,
    gov := Vector.replicate 8 { prev := none, sinceRaise := none, last8 := [], due := false },
    waited := 0, waitFrom := none, written := [], streamed := [],
    qi := Vector.replicate 4 (Vector.replicate 8 none) }
  mag := {
    st := .empty, power := 3, locked := false, vccEn := false, latch := false, present := false, vccGood := false,
    wp := false, blank := false, degraded := false, rebuild := false, chans := 0, dies := 0, planes := 0, bits := 0,
    blocks := 0, total := 0, serials := [], rateSel := 0, vol := none, wanted := 0, vccAt := 0, transition := none, eject := none, 
    pwrFail := false,  units := [], ops := [], nextOp := 1, takeSlots := [], stopping := [],
    fails := [], retired := [], stale := [], loadFrom := none, bgTime := [], patrolled := [], cutTakes := [], held := [], rate := [], lastZq := 0 }
  hev := {
    streams := Vector.replicate 4 (Vector.replicate 16 EncStream.reset), bindings := 0, sessions := [] }
  dsp := {
    heads := Vector.replicate 6 {
      st := .off, cfg := [], raster := false, frame := 0, startAt := 0, startPtp := 0, latched := false,
      waitFrom := 0, picture := [], d := 0, good := 0, atPull := 0,
      offRange := false, align := none, edges := 0,
      planes := Vector.replicate 4 { shown := 0, writes := [], kept := 0, clear := [], w := 0, h := 0, fmt := 0 },
      disturbed := false, formed := false },
    ports := Vector.replicate 2 {
      st := 0, hpd := false, lanes := 0, rate := 0, setup := 0, psr2 := false, unchanged := 0, wake := 0, cfg := 0x0A400400#32 },
    sdi := Vector.replicate 4 0 }
  net := {
    snds := Vector.replicate 48 {
      cfg := [], seq := 0, frame := none, next := 0, group := none, got := [], silent := false },
    ports := Vector.replicate 2 0, sub := 0, stepped := none, heard := [], integ := 0, f := 0, prevBig := false, small := 0, atLimit := 0,
    lastOfs := none, txts := Vector.replicate 2 [], evts := [],
    inputs := Vector.replicate 16 {
      lastEdge := none, since := 0, periods := [], run := 0, count := 0, lost := false },
    labels := Vector.replicate 8 0, config := [] }
  aud := Vector.replicate 8 {
    cfg := [], st := .disabled, lastEdge := none, since := 0, periods := [], run := 0, silent := false, sample := none, seq := 0,
    cur := none, discont := false, lastStart := 0, stamps := [], lastRate := 0, refSet := false, blocks := [], sets := [] }
  hq := {
    queues := [], quotas := Vector.replicate 63 { queues := 0, tags := 0, handles := 0 },
    bme := Vector.replicate 64 false,
    arb := { urgent := 4095, urgentLeft := 0, cls := 3, lastQ := 4095, left := 0 }, fetched := 0, resetAsked := [] }
  mbx := { posted := [], running := [], calib := [], drain := none }
  per := {
    cores := Vector.replicate 4 { tcm := [], loading := none, entry := none, timer := false },
    uarts := Vector.replicate 8 { tx := [], rx := [] },
    spis := Vector.replicate 6 { tx := [], rx := [], xfer := none },
    i3cs := Vector.replicate 4 { tx := [], rx := [], ibi := [], cmd := none },
    gpioClr := Vector.replicate 2 (0, 0) }
  mem := {
    chans := Vector.replicate 24 MemChan.reset,
    windows := [], next := 0, busyUntil := 0, poison := [] }
  thm := {
    sensors := Vector.replicate 28 { hist := [], excluded := false, fast := 0 },
    monitors := Vector.replicate 14 { outRun := 0, warned := false, okSince := none },
    convAt := 0, rateAt := 0, sampleAt := Vector.replicate 14 0, lastMax := none, band := 1, measured := 0, bandWaits := false, warn := false,
    rateWarn := false, calmSince := none, shutAt := none, hot := false, coolSince := none }
  mgt := {
    incoming := [], fifo := 0, lost := 0, carry := [], waiting := [], secondAt := 0, log := [], logSeq := 0, bootCount := 0,
    powerAt := 0, booted := Vector.replicate 2 0, dead := false,
    slots := Vector.replicate 4 {
      image := [], valid := false, active := false, pending := false, starts := 0, healthy := false },
    fuses := Vector.replicate 2 0,
    wins := Vector.replicate 3 {
      arg := 0, state := 0, code := 0, moved := 0, op := 0, data := [], refused := 0, first := 0, readAt := none },
    pldm := none, eid := 0, receiver := none, i3cAddr := none, restart := none, health := Vector.replicate 2 none }
  sys := {
    aon := false, pwrEn := false, enAt := 0, pg := false, pgAt := 0, attempts := 0, gaveUp := false, downAt := none,
    cause := 1, trained := false, ready := false, perst := false, pcieUp := false,
    clocks := Vector.replicate 5 { bad := 0, good := 0, lost := false }, clkAt := 0, config := [] }

end Sys2Proof.Machine
end

