-- ==== Sys2Proof/Machine/Ops.lean ====
section
/-! DEFINITION. The named operations every block shares: registers and counters (R6 to R10), MSI-X messages (R351),
interrupt source edges (R408, R409), error records (R414 to R418), block events, and free values. -/

namespace Sys2Proof.Machine
open Sys2Proof

/-- The state with the queue of waiting commands replaced. -/
def State.withPending (s : State) (q : List Instr) : State := { s with pending := q }

/-! ### Registers -/

/-- The value a register map gives an offset: the listed value, or the register's reset value. -/
def rmGet (m : SMap Word) (off : Nat) : Word := (mGet m off).getD (resetOf off)

/-- A register map with a value put at an offset; a value equal to the reset value is not listed. -/
def rmSet (m : SMap Word) (off : Nat) (v : Word) : SMap Word :=
  if v = resetOf off then mDel m off else mPut m off v

/-- The value a register holds. -/
def regGet (s : State) (off : Nat) : Word := rmGet s.regs off

/-- The state with a register set by hardware; reserved bits stay 0 (R7). -/
def regSet (s : State) (off : Nat) (v : Word) : State :=
  { s with regs := rmSet s.regs off (v &&& maskOf off) }

/-- A field of a register. -/
def regField (s : State) (off hi lo : Nat) : Nat := field (regGet s off) hi lo

/-- A bit of a register. -/
def regBit (s : State) (off i : Nat) : Bool := bit (regGet s off) i

/-- The state with one field of a register set by hardware. -/
def regPut (s : State) (off hi lo v : Nat) : State := regSet s off (putField (regGet s off) hi lo v)

/-- One event counted in a counter register (R10). -/
def count (s : State) (off : Nat) : State := regSet s off (satInc (regGet s off))

/-- `n` events counted in a counter register (R10). -/
def countN (s : State) (off n : Nat) : State := regSet s off (satAdd (regGet s off) n)

/-- A wide quantity written by hardware into consecutive registers, least significant word first (R8). -/
def regSetWide (s : State) (off : Nat) : List Word → State
  | [] => s
  | w :: r => regSetWide (regSet s off w) (off + 4) r

/-- The words of consecutive registers. -/
def regWords (s : State) (off : Nat) : Nat → List Word
  | 0 => []
  | n + 1 => regGet s off :: regWords s (off + 4) n

/-- The part of a register map between two offsets. -/
def rmSlice (m : SMap Word) (lo hi : Nat) : SMap Word := m.filter fun p => decide (lo ≤ p.1) && decide (p.1 < hi)

/-- The state with one more output. (DESIGN CHOICE, log 42) -/
def emit (s : State) (o : Out) : State := { s with out := o :: s.out }

/-- SYS.BAD_ACCESS. -/
def badAccessReg : Nat := 0x2C

/-- An access ignored or refused and counted in SYS.BAD_ACCESS. -/
def badAccess (s : State) : State := count s badAccessReg

/-! ### Free values -/

/-- A free number, and the state with the draw counted. (DESIGN CHOICE, log 3) -/
def freeNat (s : State) : Nat × State := (Config.freeNat s.free, { s with free := s.free + 1 })

/-- A free word, and the state with the draw counted. (DESIGN CHOICE, log 3) -/
def freeWord (s : State) : Word × State := (Config.freeWord s.free, { s with free := s.free + 1 })

/-- A free truth value, and the state with the draw counted. (DESIGN CHOICE, log 3) -/
def freeBool (s : State) : Bool × State := (Config.freeBool s.free, { s with free := s.free + 1 })

/-- `n` bytes of draw `k`, from byte `i` on. -/
def freeBytesFrom (k i : Nat) : Nat → List Byte
  | 0 => []
  | n + 1 => Config.freeByte k i :: freeBytesFrom k (i + 1) n

/-- `n` free bytes, and the state with the draw counted. (DESIGN CHOICE, log 3) -/
def freeBytes (s : State) (n : Nat) : List Byte × State :=
  (freeBytesFrom s.free 0 n, { s with free := s.free + 1 })

/-! ### Parties -/

/-- The number of a party: functions 0 to 63, user cores 64 to 67 (Table FLT-3), Fjarera 68, the side-band copies 69 and 70. -/
def partyNo : Party → Nat
  | .pf => 0
  | .vf n => n.val + 1
  | .user u => 64 + u.val
  | .fjarera => 68
  | .smbus => 69
  | .i3c => 70

/-- The function a party's DMA and messages use: its own number for a function, the PF for the device's own parties. -/
def partyFn : Party → Nat
  | .vf n => n.val + 1
  | _ => 0

/-- The key of an offset as a party sees it: a VF's offsets are those of its own BAR0 (R16, R341). -/
def regKey : Party → Nat → Nat
  | .vf n, off => 0x80000000 + 0x10000 * (n.val + 1) + off
  | _, off => off

/-- The key of a party's capture or write staging of a wide quantity (R8). -/
def wideKey (p : Party) (off : Nat) : Nat := partyNo p * 2 ^ 32 + regKey p off

/-- A party's read of the lowest word of a wide quantity: the words are captured for it, and the lowest is returned (R8). -/
def capture (s : State) (p : Party) (off : Nat) (ws : List Word) : State :=
  emit { s with captures := mPut s.captures (wideKey p off) ws } (.readData p off (ws.headD 0))

/-- The lower word that a party last wrote at an offset; zero before any (R8). -/
def stagedWord (s : State) (p : Party) (off : Nat) : Word := (mGet s.staged (wideKey p off)).getD 0

/-! ### MSI-X (R351) -/

/-- A word of a function's MSI-X table; a vector's control word masks it until host software unmasks it. (PRESUMED, log 15) -/
def msixWord (s : State) (fn off : Nat) : Word :=
  (mGet s.msix (fn * 0x4000 + off)).getD (if off % 16 = 12 then 1#32 else 0#32)

/-- Whether a vector is masked. -/
def vecMasked (s : State) (fn vec : Nat) : Bool := bit (msixWord s fn (16 * vec + 12)) 0

/-- A message on a vector: sent, or held in the PBA bit of a masked vector (R351). -/
def msixSend (s : State) (fn vec : Nat) : State :=
  if vecMasked s fn vec then { s with pba := mPut s.pba (fn * 128 + vec) true }
  else emit s (.msix fn vec)

/-! ### Interrupt sources (R408, R409) -/

def srcCfgReg (i : Nat) : Nat := 0x190000 + 4 * i
def pendingReg (i : Nat) : Nat := 0x191000 + 4 * (i / 32)
def activeReg (i : Nat) : Nat := 0x191080 + 4 * (i / 32)
def hostPendingReg (i : Nat) : Nat := 0x191100 + 4 * (i / 32)
def mergedReg : Nat := 0x191184

/-- An edge on an interrupt source: latched while ENABLE is 1, merged into a bit already pending, and signalled to
the host when HOST is 1 (R409). An identifier that Table IRQ-1 does not assign never becomes pending (R408). (DEDUCED, log 10) -/
def sourceEdge (s : State) (i : Nat) : State :=
  if bit (regGet s (srcCfgReg i)) 31 then
    let s1 := if regBit s (pendingReg i) (i % 32) then count s mergedReg
      else regSet s (pendingReg i) (setBit (regGet s (pendingReg i)) (i % 32))
    if bit (regGet s (srcCfgReg i)) 16 then
      msixSend (regSet s1 (hostPendingReg i) (setBit (regGet s1 (hostPendingReg i)) (i % 32))) 0 0
    else s1
  else s

/-! ### Blocks -/

/-- The blocks and units that raise events (Table SYS-7). -/
inductive Blk where
  | sys | mbx | frm | frt | ref | lnk | ing | rfe | clr | imp | gal | trb | mag | hev | dsp | net | ptp
  | aud | mem | hq | irq | flt | thm | mgt | per | control | user | pcie | noc
  deriving DecidableEq, Repr

/-- The block tag code (R15). -/
def Blk.tag : Blk → Nat
  | .sys => 0x00 | .mbx => 0x01 | .frm => 0x02 | .frt => 0x03 | .ref => 0x04 | .lnk => 0x05 | .ing => 0x06
  | .rfe => 0x08 | .clr => 0x0A | .imp => 0x0C | .gal => 0x0D | .trb => 0x0E | .mag => 0x0F | .hev => 0x10
  | .dsp => 0x12 | .net => 0x14 | .ptp => 0x15 | .aud => 0x16 | .mem => 0x17 | .hq => 0x18 | .irq => 0x19
  | .flt => 0x1A | .thm => 0x1B | .mgt => 0x1C | .per => 0x1D | .control => 0x20 | .user => 0x21
  | .pcie => 0x22 | .noc => 0x23

/-- The offset of a block's EVENTS register, where it has one. -/
def Blk.events : Blk → Option Nat
  | .sys => some 0x28 | .frm => some 0x20020 | .ref => some 0x40040 | .lnk => some 0x52000
  | .ing => some 0x61000 | .rfe => some 0x90000 | .clr => some 0xB0000 | .imp => some 0xC1000
  | .gal => some 0xD0050 | .trb => some 0xE2000 | .mag => some 0xF0080 | .hev => some 0x112000
  | .dsp => some 0x128040 | .net => some 0x143000 | .ptp => some 0x150400 | .aud => some 0x161000
  | .mem => some 0x170080 | .hq => some 0x18001C | .flt => some 0x1A0040 | .thm => some 0x1B0040
  | .mgt => some 0x1C0040
  | _ => none

/-- An event of a block: its EVENTS bit is set and the block's source receives an edge (R408), whether or not the
bit was already set. -/
def raise (s : State) (b : Blk) (i : Nat) : State :=
  let s1 := match b.events with
    | some off => regSet s off (setBit (regGet s off) i)
    | none => s
  sourceEdge s1 (16 + b.tag)

/-! ### Error records (R414 to R418) -/

/-- Severity codes of Table FLT-1. -/
def Severity.code : Severity → Nat
  | .info => 0
  | .degraded => 1
  | .itemFailed => 2
  | .fatal => 3

def Severity.merges : Severity → Bool
  | .info => true
  | .degraded => true
  | _ => false

def ctxNone : Ctx := { kind := 0, source := 0, inst := 0 }

/-- CTX_KIND FRAME (Table FLT-3). -/
def ctxFrame (slot kind idx sub : Nat) (ord : Word) (tag v : Nat) : Ctx :=
  { kind := 1, source := packFields [(0, slot), (8, kind), (16, idx), (24, sub)],
    inst := BitVec.ofNat 64 (ord.toNat + tag * 2 ^ 32 + v * 2 ^ 40) }

/-- CTX_KIND COMMAND. -/
def ctxCommand (fn q tag op v : Nat) : Ctx :=
  { kind := 2, source := packFields [(0, fn), (16, q)],
    inst := BitVec.ofNat 64 (tag + op * 2 ^ 24 + v * 2 ^ 32) }

/-- CTX_KIND UNIT. (DEDUCED, log 43) -/
def ctxUnit (kind idx sub v : Nat) : Ctx :=
  { kind := 3, source := packFields [(0, kind), (8, idx), (16, sub)], inst := BitVec.ofNat 64 v }

/-- CTX_KIND MEMORY. -/
def ctxMem (kind idx addr : Nat) : Ctx :=
  { kind := 4, source := packFields [(0, kind), (8, idx)], inst := BitVec.ofNat 64 addr }

/-- CTX_KIND MAILBOX. -/
def ctxMbx (party slot op cookie : Nat) : Ctx :=
  { kind := 5, source := packFields [(0, party), (8, slot), (16, op)], inst := BitVec.ofNat 64 cookie }

/-- CTX_KIND VOLUME. -/
def ctxVol (take a sectors : Nat) : Ctx :=
  { kind := 6, source := BitVec.ofNat 32 take, inst := BitVec.ofNat 64 (a + sectors * 2 ^ 32) }

/-- PTP seconds of the clock. -/
def ptpSec (t : Nat) : Nat := t / (65536 * 1000000000)

/-- PTP nanoseconds within the second. -/
def ptpNs (t : Nat) : Nat := t / 65536 % 1000000000

/-- The sub-nanosecond fraction, in 2⁻¹⁶ ns. -/
def ptpFrac (t : Nat) : Nat := t % 65536

/-- The time that a sample of the PTP clock reads: in the tick of a step, the time before it (R315, R317). -/
def ptpTime (s : State) : Nat := match s.net.stepped with
  | some (t, d) => if t = s.now then ((s.ptpNow : Int) - d).toNat else s.ptpNow
  | none => s.ptpNow

/-- A new record of an occurrence now, with the SEQ it takes. -/
def newRec (s : State) (tag code : Nat) (sev : Severity) (ctx : Ctx) (status : Nat) : ErrRec :=
  { seq := s.flt.nextSeq, ptpNs := ptpNs (ptpTime s), ptpSec := ptpSec (ptpTime s), block := tag, code := code,
    sev := sev, ctx := ctx, status := status, count := 1, devTime := s.now }

/-- Whether a queued record takes a new occurrence (R416): same BLOCK, CODE, severity, CTX_KIND and SOURCE, first
occurrence at most 1 ms before on the device time base, COUNT below 65,535; the FLT OVERFLOW record never does. -/
def mergesInto (r q : ErrRec) : Bool :=
  q.block == r.block && q.code == r.code && q.sev == r.sev && q.ctx.kind == r.ctx.kind
    && q.ctx.source == r.ctx.source && decide (r.devTime ≤ q.devTime + 1000000) && decide (q.count < 65535)
    && !(q.block == 0x1A && q.code == 0x01)

/-- The queue with the occurrence counted in the first record that takes it. -/
def mergeQueue (r : ErrRec) : List ErrRec → Option (List ErrRec)
  | [] => none
  | q :: rest =>
    if mergesInto r q then some ({ q with count := q.count + 1 } :: rest)
    else (mergeQueue r rest).map (q :: ·)

/-- Colophon's processor restarts (R470). -/
def colRestarts (s : State) : Bool := match s.mgt.restart with
  | some (til, _) => decide (s.now < til)
  | none => false

/-- Colophon receives its copy of a record (R418); while its processor restarts, 64 copies wait and the rest are counted (R470). (DEDUCED, log 43) -/
def colophonCopy (s : State) (r : ErrRec) (merged : Bool) : State :=
  let wait := colRestarts s
  if wait ∧ s.mgt.fifo ≥ 64 then { s with mgt := { s.mgt with lost := s.mgt.lost + 1 } }
  else { s with mgt := { s.mgt with
    incoming := s.mgt.incoming ++ [{ err := r, merged := merged }], fifo := s.mgt.fifo + if wait then 1 else 0 } }

/-- The threshold that raises RECORDS: FLT.THRESH, 0 acting as 1 (R431). -/
def recThresh (s : State) : Nat :=
  let t := regField s 0x1A0010 10 0
  if t = 0 then 1 else t

/-- A record put at the end of the queue; RECORDS is raised when the count comes to FLT.THRESH (R431). -/
def enqueueRec (s : State) (r : ErrRec) : State :=
  let s1 := { s with flt := { s.flt with queue := s.flt.queue ++ [r] } }
  if s.flt.queue.length < recThresh s ∧ recThresh s ≤ s.flt.queue.length + 1 then raise s1 .flt 0 else s1

/-- The next SEQ is taken (R414). -/
def takeSeq (s : State) : State := { s with flt := { s.flt with nextSeq := s.flt.nextSeq + 1 } }

/-- OVERFLOW: its record takes a reserved place and is never merged; without one it counts in LOST_ITEM (R417, R431). -/
def overflow (s : State) : State :=
  if s.flt.overflowed then s
  else
    let s1 := { s with flt := { s.flt with overflowed := true } }
    let r := newRec s1 0x1A 0x01 .degraded ctxNone 0
    let s2 := colophonCopy (takeSeq s1) r false
    raise (if s.flt.queue.length < 1024 then enqueueRec s2 r else count s2 0x1A0008) .flt 1

/-- An error record is written: merged, queued, or discarded under the queue limits (R414, R416, R417), with a copy to
Colophon in every case (R418). (DEDUCED, log 43) -/
def record (s : State) (tag code : Nat) (sev : Severity) (ctx : Ctx) (status : Nat) : State :=
  let r := newRec s tag code sev ctx status
  match if sev.merges then mergeQueue r s.flt.queue else none with
  | some q => colophonCopy (count { s with flt := { s.flt with queue := q } } 0x1A000C) r true
  | none =>
    let s1 := colophonCopy (takeSeq s) r false
    if sev.merges then
      if s.flt.queue.length < 960 then enqueueRec s1 r else overflow (count s1 0x1A0004)
    else
      if s.flt.queue.length < 1024 then enqueueRec s1 r else overflow (count s1 0x1A0008)

/-- An event that also writes an error record with its block's tag. -/
def event (s : State) (b : Blk) (i code : Nat) (sev : Severity) (ctx : Ctx) (status : Nat) : State :=
  raise (record s b.tag code sev ctx status) b i

/-- OVERFLOW may be raised again once the queue has fallen below 960 records (R417). -/
def queueFell (s : State) : State :=
  if s.flt.queue.length < 960 then { s with flt := { s.flt with overflowed := false } } else s

/-- A fatal cause (R421): its record, FLT.STATE.FATAL and the FATAL event, AER, SYS_FAULT_N low. -/
def fatal (s : State) (tag code : Nat) (ctx : Ctx) : State :=
  let s1 := record s tag code .fatal ctx 0
  let s2 := raise { s1 with flt := { s1.flt with fatal := true } } .flt 5
  emit (emit s2 .aer) (.pin .sysFaultN false)

/-- The 32 bytes of an error record (Table FLT-2). -/
def errBytes (r : ErrRec) : List Byte :=
  leBytes 4 r.seq.toNat ++ leBytes 4 r.ptpNs ++ leBytes 6 r.ptpSec
    ++ [BitVec.ofNat 8 r.block, BitVec.ofNat 8 r.code, BitVec.ofNat 8 (r.sev.code + 16 * r.ctx.kind), BitVec.ofNat 8 r.status]
    ++ leBytes 2 r.count ++ leBytes 4 r.ctx.source.toNat ++ leBytes 8 r.ctx.inst.toNat

/-! ### Running -/

/-- Nanoseconds of the device time base (R31). -/
def devTime (s : State) : Nat := s.now - s.coreAt

end Sys2Proof.Machine
end

