-- ==== Sys2Proof/Machine/RefOps.lean ====
section
/-! DEFINITION. Cadence arithmetic, tag banks and expected tags: what the REF, FRT and FRM families share
(R31 to R48, R79 to R82). -/

namespace Sys2Proof.Machine
open Sys2Proof

/-! ### Vectors of structures -/

/-- One element of a vector changed. -/
def vMod {α : Type} {n : Nat} (v : Vector α n) (i : Nat) (f : α → α) : Vector α n :=
  if h : i < n then v.set i (f v[i]) else v

/-- A slot's cadence generator changed. -/
def modCad (s : State) (n : Nat) (f : Cad → Cad) : State :=
  { s with ref := { s.ref with slots := vMod s.ref.slots n f } }

/-- A reference input changed. -/
def modInput (s : State) (i : Nat) (f : RefIn → RefIn) : State :=
  { s with ref := { s.ref with inputs := vMod s.ref.inputs i f } }

/-! ### Register offsets -/

def slotReg (n off : Nat) : Nat := 0x40100 + 0x40 * n + off
def expReg (n off : Nat) : Nat := 0x41000 + 0x100 * n + off
def filtReg (i : Nat) : Nat := 0x40000 + 0x10 * i
def expPeriodReg (i : Nat) : Nat := 0x40004 + 0x10 * i
def measPeriodReg (i : Nat) : Nat := 0x40008 + 0x10 * i
def inStateReg (i : Nat) : Nat := 0x4000C + 0x10 * i
def encCfgReg : Nat := 0x40030
def encPosReg : Nat := 0x40034
def outliersReg (i : Nat) : Nat := 0x40080 + 4 * i
def missedReg (n : Nat) : Nat := slotReg n 0x2C
def fretLoReg (n k : Nat) : Nat := 0x30000 + 0x800 * n + 8 * k
def fretHiReg (n k : Nat) : Nat := fretLoReg n k + 4
def unfiredReg (n : Nat) : Nat := 0x34000 + 4 * n
def slotMaskReg : Nat := 0x20000
def timingMasterReg : Nat := 0x20004
def courseReg : Nat := 0x20008
def capReg (n i : Nat) : Nat := 0x60180 + 0x200 * n + 4 * i

/-- A slot is unmasked in the configuration in force (Table FRM-2). -/
def unmasked (s : State) (n : Nat) : Bool := regBit s slotMaskReg n

/-- The timing-master slot (Table FRM-3). -/
def timingMaster (s : State) : Nat := regField s timingMasterReg 2 0

/-- The declared latency L of the record in force (R121, Table ING-2). -/
def latency (s : State) (n : Nat) : Nat := field (regGet s (capReg n 0)) 31 24

/-! ### Encoder configuration (Table REF-6) -/

def encCpr (s : State) : Nat := regField s encCfgReg 15 0
def encHyst (s : State) : Nat := regField s encCfgReg 22 16
def encFpr (s : State) : Nat := regField s encCfgReg 29 29

/-! ### Tags (R79 to R82) -/

/-- The tag of frame `j` of a slot (R80): that of a message already sent for it, else the identifier of the newest
forme, in commit order, whose target frame it is or follows. -/
def expectedTag (s : State) (n : Fin 8) (j : Nat) : Nat :=
  match (s.ref.slots[n]).sent.find? (fun e => decide (e.ord = j)) with
  | some e => e.tag
  | none => ((s.frm.targets[n]).filter (fun t => decide (t.ord ≤ j))).getLast?.elim 0 (·.forme)

/-- Commit number of a forme identifier; 0 for the boot forme. -/
def commitNoOf (s : State) (f : Nat) : Nat := ((mGet s.frm.formes f).map (·.commitNo)).getD 0

/-- The commit numbers of the Locked formes: those that can still be discarded (R76). -/
def lockedNos (s : State) : List Nat := s.frm.lockedList.map (commitNoOf s)

/-- The ordinal whose exposure message comes next on a slot. -/
def nextMessage (s : State) (n : Fin 8) : Nat :=
  let c := s.ref.slots[n]
  max c.issued (c.sent.foldl (fun a e => max a (e.ord + 1)) 0)

/-- A later forme that can no longer be discarded reaches a slot: its target stands. -/
def outlasted (s : State) (n : Fin 8) (b : Bank) : Bool :=
  (s.frm.targets[n]).any fun t => decide (b.commitNo < t.commitNo) && !(lockedNos s).contains t.commitNo

/-- Exposure messages for a slot now carry the tag of a forme committed after a bank's (R81); on a slot that issues no frames, and so sends no
message, a later forme has applied. (DEDUCED, log 18) -/
def superseded (s : State) (n : Fin 8) (b : Bank) : Bool :=
  decide (b.commitNo < (s.ref.slots[n]).msgNo) || (!(s.ref.slots[n]).on && outlasted s n b)

/-- A bank is held (R81): its forme is neither discarded nor superseded in the exposure messages, or a frame of the slot that expects or has
chosen its tag has still to pass the colour engine, counting every frame whose message has been sent. -/
def bankHeld (s : State) (n : Fin 8) (b : Bank) : Bool :=
  (!b.discarded && !superseded s n b)
    || (s.ref.slots[n]).sent.any (fun e => decide (e.tag = b.forme) && decide ((s.ref.slots[n]).issued ≤ e.ord))
    || (s.ing.frames[n]).any fun f => !f.closed
      && (decide (f.expTag = b.forme) || (f.tagKnown && decide (f.fr.tag = b.forme)))

/-- A slot's held banks. -/
def heldBanks (s : State) (n : Fin 8) : List Bank := (s.frm.banks[n]).filter (bankHeld s n)

/-- A bank keeps its values: it is held, or messages return to its forme when the Locked formes after it are discarded (R76). (DEDUCED, log 18) -/
def bankKept (s : State) (n : Fin 8) (b : Bank) : Bool := bankHeld s n b || (!b.discarded && !outlasted s n b)

/-- The bank of a slot that carries a tag (R81). -/
def bankOf (s : State) (n : Fin 8) (tag : Nat) : Option Bank :=
  (s.frm.banks[n]).reverse.find? (fun b => decide (b.forme = tag))

/-- The register values a tag stands for on a slot: its bank's, or those in force when no bank is held. -/
def tagRegs (s : State) (n : Fin 8) (tag : Nat) : SMap Word :=
  ((bankOf s n tag).map (·.regs)).getD s.regs

/-! ### Periods (R34 to R41) -/

def cadSource (m : SMap Word) (n : Nat) : Nat := field (rmGet m (slotReg n 0)) 31 29
def cadMul (m : SMap Word) (n : Nat) : Nat := field (rmGet m (slotReg n 0)) 27 20
def cadDiv (m : SMap Word) (n : Nat) : Nat := field (rmGet m (slotReg n 0)) 19 12
def perNum (m : SMap Word) (n : Nat) : Nat := (rmGet m (slotReg n 4)).toNat
def perDen (m : SMap Word) (n : Nat) : Nat := field (rmGet m (slotReg n 8)) 15 0
def phaseOfs (m : SMap Word) (n : Nat) : Word := rmGet m (slotReg n 0xC)
def angleOf (m : SMap Word) (n : Nat) : Nat := field (rmGet m (slotReg n 0x14)) 15 0
def rampNum (m : SMap Word) (n : Nat) : Nat := (rmGet m (slotReg n 0x18)).toNat
def rampStep (m : SMap Word) (n : Nat) : Nat := (rmGet m (slotReg n 0x1C)).toNat

/-- The line time of a slot in ns (Table REF-1). -/
def lineTimeOf (m : SMap Word) (n : Nat) : ℚ := ((rmGet m (slotReg n 0x10)).toNat : ℚ) / 256

/-- PER_NUM / PER_DEN. -/
def nominalNco (m : SMap Word) (n : Nat) : ℚ := (perNum m n : ℚ) / (perDen m n : ℚ)

/-- The reference input a cadence source follows: genlock, encoder or mains. -/
def inputOf : Nat → Option (Fin 3)
  | 2 => some 0
  | 3 => some 1
  | 4 => some 2
  | _ => none

/-- The mean of the last 8 valid periods, once there are 8 (R36, R43). -/
def measured (r : RefIn) : Option ℚ :=
  if r.periods.length = 8 then some ((r.periods.sum : ℚ) / 8) else none

/-- P_ref of an input: as measured, or EXP_PERIOD when no measurement exists (R34). (DEDUCED, log 20) -/
def pRef (s : State) (i : Fin 3) : ℚ :=
  (measured s.ref.inputs[i]).getD ((regGet s (expPeriodReg i)).toNat : ℚ)

def minPeriod (s : State) (n : Nat) : Nat := (regGet s (slotReg n 0x28)).toNat

/-- The predicted period of a shutter-source slot (R41). -/
def shutterPeriod (s : State) (n : Nat) : ℚ :=
  let r := s.ref.inputs[(1 : Fin 3)]
  let m : ℚ := match r.st with
    | .locked => (measured r).getD ((regGet s (expPeriodReg 1)).toNat : ℚ)
    | .lost => r.inForce.getD ((regGet s (expPeriodReg 1)).toNat : ℚ)
    | _ => if r.afterLoss then r.inForce.getD ((regGet s (expPeriodReg 1)).toNat : ℚ)
           else ((regGet s (expPeriodReg 1)).toNat : ℚ)
  max (m / (1 + (encFpr s : ℚ))) (minPeriod s n : ℚ)

/-- The cadence fields that a forme's write restarts (R34, R38): source, period, offset and ramp. (DEDUCED, log 19) -/
def cadKey (m : SMap Word) (n : Nat) : List Word :=
  [rmGet m (slotReg n 0), rmGet m (slotReg n 4), rmGet m (slotReg n 8), rmGet m (slotReg n 0xC),
   rmGet m (slotReg n 0x18), rmGet m (slotReg n 0x1C)]

/-- A period moved by a step towards a target and never past it (R38). -/
def rampTo (p step target : ℚ) : ℚ :=
  if p < target then min (p + step) target else max (p - step) target

/-- The period that a slot in holdover keeps, for a frame under the cadence fields of the frame in progress (R44, R48). -/
def heldPeriod (s : State) (n : Fin 8) (m : SMap Word) : Option ℚ :=
  let c := s.ref.slots[n]
  if c.st = .holdover ∧ (cadKey m n = c.key ∨ c.key = []) then c.hold else none

/-- The period of frame `j` (R35 to R38, R41), given the period of the frame before it. -/
def periodFor (s : State) (n : Fin 8) (j : Nat) (prev : Option ℚ) : ℚ :=
  let m := tagRegs s n (expectedTag s n j)
  match heldPeriod s n m with
  | some p => p
  | none =>
  match cadSource m n with
  | 2 => pRef s 0 * (cadDiv m n : ℚ) / (cadMul m n : ℚ)
  | 4 => pRef s 2 * (cadDiv m n : ℚ) / (cadMul m n : ℚ)
  | 3 => shutterPeriod s n
  | _ =>
    if rampStep m n = 0 then nominalNco m n
    else
      let c := s.ref.slots[n]
      let before := if j ≤ c.issued then c.key else cadKey (tagRegs s n (expectedTag s n (j - 1))) n
      match prev with
      | some p =>
        if j = 0 ∨ before ≠ cadKey m n then nominalNco m n
        else rampTo p ((rampStep m n : ℚ) / (perDen m n : ℚ)) ((rampNum m n : ℚ) / (perDen m n : ℚ))
      | none => nominalNco m n

/-- The number of the first frame whose period is not yet fixed. -/
def nextUnfixed (c : Cad) : Nat := c.fixed.getLast?.elim c.issued (·.ord + 1)

/-- Fixing one more period. -/
def fixOne (s : State) (n : Fin 8) : State :=
  let c := s.ref.slots[n]
  let j := nextUnfixed c
  let p := periodFor s n j c.lastPeriod
  modCad s n fun c => { c with fixed := c.fixed ++ [{ ord := j, period := p }], lastPeriod := some p }

/-- Fixing `k` more periods. -/
def fixMore : Nat → State → Fin 8 → State
  | 0, s, _ => s
  | k + 1, s, n => fixMore k (fixOne s n) n

/-- Every period up to that of frame `j` is fixed (R34). -/
def fixUpTo (s : State) (n : Fin 8) (j : Nat) : State :=
  fixMore (j + 1 - nextUnfixed s.ref.slots[n]) s n

/-- The fixed period of frame `j`. -/
def fixedPeriod (s : State) (n : Fin 8) (j : Nat) : ℚ :=
  match (s.ref.slots[n]).fixed.find? (fun f => decide (f.ord = j)) with
  | some f => f.period
  | none => periodFor s n j (s.ref.slots[n]).lastPeriod

/-- Rounded half up to a whole number of ns. (DEDUCED, log 12) -/
def roundHalfUp (q : ℚ) : Nat := (q + 1 / 2).floor.toNat

/-- The exposure of a frame of a period under a slot's fields (R38, R40). (DEDUCED, log 22) -/
def exposureNs (m : SMap Word) (n : Nat) (period : ℚ) : Nat :=
  if angleOf m n ≠ 0 then roundHalfUp ((angleOf m n : ℚ) / 36000 * period)
  else (rmGet m (expReg n 0)).toNat

/-! ### Phase errors (R33, R47) -/

/-- A phase moved to within half a cycle of zero: the shorter way around (R47). -/
def centred (x p : ℚ) : ℚ :=
  if p ≤ 0 then 0 else
    let r := x - p * ((x / p).floor : ℚ)
    if r * 2 > p then r - p else r

/-- Signed line times with 8 fraction bits, cut towards zero (notes/assumptions/6.md). (DEDUCED, log 6) -/
def toQ8 (e line : ℚ) : Int :=
  if line ≤ 0 then 0 else
    let q := e * 256 / line
    if q < 0 then -((-q).floor) else q.floor

/-- The frame-start offset in ns under a slot's fields: ns for PTP and genlock, 0.01° of the reference period for
mains, encoder counts of the revolution for the shutter (Table REF-3). -/
def offsetNs (s : State) (m : SMap Word) (n : Nat) : ℚ :=
  match cadSource m n with
  | 1 => ((phaseOfs m n).toNat : ℚ)
  | 2 => ((phaseOfs m n).toNat : ℚ)
  | 3 => (field (phaseOfs m n) 15 0 : ℚ) / (encCpr s : ℚ) * pRef s 1
  | 4 => (field (phaseOfs m n) 15 0 : ℚ) / 36000 * pRef s 2
  | _ => 0

/-- The phase error of a frame start at `t` (on the slot's own axis) with a period: its offset from the instant the
reference defines (R33, R47). Nothing is measured for the NCO, for a PTP ramp, or before an alignment edge. -/
def phaseError (s : State) (n : Fin 8) (m : SMap Word) (t period : ℚ) : Option ℚ :=
  match cadSource m n with
  | 0 => none
  | 1 => if rampStep m n ≠ 0 then none else some (centred (t - offsetNs s m n) (nominalNco m n))
  | _ => match (s.ref.slots[n]).align with
    | some a => some (centred (t - (a : ℚ) - offsetNs s m n) period)
    | none => none

/-- How much a period is lengthened to reduce an error (R47): at most one line time, the shorter way around, by
lengthening only where shortening would make the period less than the sensor's minimum. -/
def slewStep (err line period minP : ℚ) : ℚ :=
  if err ≤ 0 then min (-err) line
  else if period - min err line ≥ minP then -(min err line)
  else min (period - err) line

/-- Present time on a slot's axis, in ns (R35, R48). -/
def axisNow (s : State) (ptp : Bool) : ℚ := if ptp then (s.ptpNow : ℚ) / 65536 else (s.now : ℚ)

/-! ### Cadence instants of a slot being unmasked (R84) -/

/-- The first instant at or after `lo` of a grid with an offset. (DEDUCED, log 12) -/
def gridFrom (lo ofs p : ℚ) : ℚ := if p ≤ 0 then lo else ofs + p * (((lo - ofs) / p).ceil : ℚ)

/-- The first cadence instant of a slot that starts, not before `notBefore` ticks, on its own axis; none where the
source gives no instant yet. -/
def firstInstant (s : State) (n : Fin 8) : Option ℚ :=
  let c := s.ref.slots[n]
  let m := tagRegs s n (expectedTag s n c.issued)
  let wait : ℚ := (c.notBefore : ℚ) - (s.now : ℚ)
  match cadSource m n with
  | 0 => some (c.notBefore : ℚ)
  | 1 => some (gridFrom (axisNow s true + wait) (offsetNs s m n) (nominalNco m n))
  | 3 => none
  | _ => c.align.map fun a =>
      gridFrom (c.notBefore : ℚ) ((a : ℚ) + offsetNs s m n) (periodFor s n c.issued c.lastPeriod)

/-- The state a slot's cadence starts in: holdover while its reference is lost or its servo unlocked, else locked. A rate that is off holds
the slot too, but not past a forme that changes its cadence fields (`fresh`, R45). (DEDUCED, log 19) -/
def startSt (s : State) (src : Nat) (fresh : Bool) : SlotSt :=
  match inputOf src with
  | some i =>
    let r := s.ref.inputs[i]
    if r.st = .lost ∨ r.afterLoss ∨ (r.offRate ∧ fresh = false) then .holdover else .locked
  | none => if src = 1 ∧ regField s 0x15003C 31 30 ≠ 2 then .holdover else .locked

/-- Slot state code (Table REF-5). -/
def SlotSt.code : SlotSt → Nat
  | .idle => 0
  | .locked => 1
  | .holdover => 2
  | .slewing => 3

def InSt.code : InSt → Nat
  | .disabled => 0
  | .seeking => 1
  | .locked => 2
  | .lost => 3

/-- The source of the frames a slot is issuing: that of its next frame's fields. -/
def sourceNow (s : State) (n : Fin 8) : Nat :=
  cadSource (tagRegs s n (expectedTag s n (s.ref.slots[n]).issued)) n

/-- A change made on every slot, in ascending order. -/
def forSlots (s : State) (f : State → Fin 8 → State) : State :=
  (List.finRange 8).foldl f s

/-! ### Display heads that follow a reference (R292) -/

/-- The output a head's state code takes (Table DSP-1). -/
def HeadSt.code : HeadSt → Nat
  | .off => 0
  | .seeking => 1
  | .locked => 2
  | .holdover => 3

def headReg (h off : Nat) : Nat := 0x120000 + 0x1000 * h + off

/-- A head's state changed, with DSP.Dh_STATE. -/
def setHeadSt (s : State) (h : Nat) (st : HeadSt) : State :=
  regSet { s with dsp := { s.dsp with heads := vMod s.dsp.heads h fun x => { x with st := st } } }
    (headReg h 0x28) (packFields [(30, st.code)])

/-- A head enters holdover at the offset in force (R292). -/
def headHoldover (s : State) (h : Fin 6) : State :=
  match s.dsp.heads[h].st with
  | .seeking => event (setHeadSt s h .holdover) .dsp 1 0x02 .degraded (ctxUnit 4 h 0 0) 0
  | .locked => event (setHeadSt s h .holdover) .dsp 1 0x02 .degraded (ctxUnit 4 h 0 0) 0
  | _ => s

/-- A head's field word as last latched. -/
def Head.word (x : Head) (h off : Nat) : Word := rmGet x.cfg (headReg h off)

/-- A head follows a reference: CLK_SRC 1 genlock, 2 PTP, 3 a slot (Table DSP-2). -/
def Head.follows (x : Head) (h src slot : Nat) : Bool :=
  let ctl := x.word h 0
  bit ctl 31 && decide (field ctl 30 28 = src) && (decide (src ≠ 3) || decide (field ctl 25 23 = slot))

/-- Every head that follows a lost reference enters holdover (R292). -/
def headsLose (s : State) (src slot : Nat) : State :=
  (List.finRange 6).foldl (fun s (h : Fin 6) =>
    if (s.dsp.heads[h]).follows h.val src slot then headHoldover s h else s) s

/-- T in ns: H_TOT × V_TOT × F_DEN / F_NUM ms (R287, R290); 0 without a pixel rate. -/
def frameNs (rd : Nat → Word) : ℚ :=
  let w := fun off hi lo => field (rd off) hi lo
  let ht := w 4 31 16 + w 4 15 0 + w 8 31 16 + w 8 15 0
  let vt := w 0xC 31 16 + w 0xC 15 0 + w 0x10 31 16 + w 0x10 15 0
  if rd 0x14 = 0 then 0 else ((ht * vt * w 0x18 15 0 * 1000000 : Nat) : ℚ) / ((rd 0x14).toNat : ℚ)

/-- The measured period of a head's reference, in ns: the genlock input's mean, or the slot's last frame period (R292). -/
def headRefPeriod (s : State) (x : Head) (h : Nat) : Option ℚ :=
  match field (x.word h 0) 30 28 with
  | 1 => measured s.ref.inputs[0]
  | 3 => (s.ref.slots.toList[field (x.word h 0) 25 23]?).bind (·.lastPeriod)
  | _ => none

/-- The reference's measured period departs from T × MUL / DIV by more than PULL (R292). -/
def outOfPull (s : State) (x : Head) (h : Nat) : Bool :=
  let ctl := x.word h 0
  let div := field ctl 15 12
  match headRefPeriod s x h with
  | none => false
  | some p =>
    if div = 0 then false
    else
      let want := frameNs (x.word h) * (field ctl 19 16 : ℚ) / (div : ℚ)
      let pull : ℚ := (field (x.word h 0x20) 7 0 : ℚ)
      decide (p - want > want * pull / 1000000) || decide (want - p > want * pull / 1000000)

/-- HEAD_OFF_RANGE: the head stays in holdover until a forme changes its clock fields (R292). -/
def headOffRange (s : State) (h : Fin 6) : State :=
  if s.dsp.heads[h].offRange then s
  else
    let heads := vMod s.dsp.heads h fun x => { x with offRange := true }
    event (setHeadSt { s with dsp := { s.dsp with heads := heads } } h .holdover) .dsp 2 0x03 .degraded (ctxUnit 4 h 0 0) 0

/-- Heads whose reference has left their pull range (R292). -/
def headsRange (s : State) (src slot : Nat) : State :=
  (List.finRange 6).foldl (fun s (h : Fin 6) =>
    let x := s.dsp.heads[h]
    if x.follows h.val src slot ∧ x.raster = true ∧ outOfPull s x h.val = true then headOffRange s h else s) s

/-- Every head in holdover on a reference that is back slews back from its current phase, unless the reference is out of range (R292). -/
def headsRegain (s : State) (src slot : Nat) : State :=
  (List.finRange 6).foldl (fun s (h : Fin 6) =>
    let x := s.dsp.heads[h]
    if x.follows h.val src slot ∧ x.st = .holdover ∧ x.offRange = false then
      if outOfPull s x h.val then headOffRange s h
      else
        let heads := vMod s.dsp.heads h fun x => { x with good := 0, atPull := 0 }
        setHeadSt { s with dsp := { s.dsp with heads := heads } } h .seeking
    else s) s

/-- A reference event for the heads: a valid genlock edge, or an issue tick of a slot; every DIV-th is an alignment event, the first
one after the fields took effect among them (R36, R290). (DEDUCED, log 32) -/
def headsRefEdge (s : State) (src slot : Nat) : State :=
  let heads := (List.finRange 6).foldl (fun (hs : Vector Head 6) (h : Fin 6) =>
    let x := hs[h]
    if x.follows h.val src slot then
      let div := max 1 (field (x.word h.val 0) 15 12)
      if x.edges = 0 then hs.set h { x with align := some s.now, edges := div - 1 }
      else hs.set h { x with edges := x.edges - 1 }
    else hs) s.dsp.heads
  { s with dsp := { s.dsp with heads := heads } }

end Sys2Proof.Machine
end

