-- ==== Sys2Proof/Machine/Num.lean ====
section
/-! DEFINITION. Number formats and rounding of the pixel path: half-up and half-even rounding (R136, R184), binary32
arithmetic (R163), LF24 (R162) and binary16 (R172, R179, R193), on exact rationals. -/

namespace Sys2Proof.Machine
open Sys2Proof

/-- A quotient of integers rounded half up. -/
def rhu (a b : Int) : Int := (2 * a + b) / (2 * b)

/-- A rational rounded half up. -/
def rhuQ (q : ℚ) : Int := (q + 1 / 2).floor

/-- A rational rounded to nearest, ties to even. -/
def rneQ (q : ℚ) : Int :=
  let f := q.floor
  let r := q - f
  if r < 1 / 2 then f else if r > 1 / 2 then f + 1 else if f % 2 = 0 then f else f + 1

/-- A power of two. -/
def pow2 (e : Int) : ℚ := if e ≥ 0 then ((2 ^ e.toNat : Nat) : ℚ) else 1 / ((2 ^ (-e).toNat : Nat) : ℚ)

/-- The absolute value of a rational. -/
def absQ (q : ℚ) : ℚ := if q < 0 then -q else q

/-- floor(log₂ q) of a positive rational. -/
def log2Q (q : ℚ) : Int :=
  let e : Int := (Nat.log2 q.num.natAbs : Int) - (Nat.log2 q.den : Int)
  if pow2 e > q then e - 1 else if pow2 (e + 1) ≤ q then e + 1 else e

/-- A magnitude rounded to `p` fraction bits of significand at an exponent no less than `emin`, ties to even. -/
def roundMag (p : Nat) (emin : Int) (a : ℚ) : ℚ :=
  let e := max (log2Q a) emin
  let u := pow2 (e - p)
  (rneQ (a / u) : ℚ) * u

/-- A value rounded to a format without subnormals, saturating, with small results taken as +0. (DEDUCED, log 25) -/
def roundFmt (p : Nat) (big : ℚ) (q : ℚ) : ℚ :=
  if q = 0 then 0
  else
    let a := roundMag p (-1000) (absQ q)
    let b := if a < pow2 (-126) then 0 else if a > big then big else a
    if q < 0 then -b else b

/-- binary32 rounding of R163: saturating at ±(2 − 2⁻²³) × 2¹²⁷, subnormal results +0. -/
def r32 (q : ℚ) : ℚ := roundFmt 23 ((2 - pow2 (-23)) * pow2 127) q

/-- LF24 rounding of R162. -/
def r24 (q : ℚ) : ℚ := roundFmt 15 ((2 - pow2 (-15)) * pow2 127) q

/-- binary16 rounding, to nearest ties to even, saturated at ±65,504 (R172, R193). -/
def r16 (q : ℚ) : ℚ :=
  if q = 0 then 0
  else
    let a := min (roundMag 10 (-14) (absQ q)) 65504
    if q < 0 then -a else a

/-- The value of a binary32 field; a subnormal is treated as zero (R136, R163). -/
def f32 (w : Word) : ℚ :=
  let e := field w 30 23
  let m := field w 22 0
  if e = 0 then 0
  else
    let a := (1 + (m : ℚ) / 8388608) * pow2 ((e : Int) - 127)
    if bit w 31 then -a else a

/-- A binary32 field holds a NaN or an infinity. -/
def f32Bad (w : Word) : Bool := decide (field w 30 23 = 255)

/-- The exact value of a binary16 code (R163). -/
def f16 (w : BitVec 16) : ℚ :=
  let n := w.toNat
  let e := n / 1024 % 32
  let m := n % 1024
  let a := if e = 0 then (m : ℚ) / 16777216 else (1 + (m : ℚ) / 1024) * pow2 ((e : Int) - 15)
  if n ≥ 32768 then -a else a

/-- A binary16 code is a NaN or an infinity. -/
def f16Bad (w : BitVec 16) : Bool := decide (w.toNat / 1024 % 32 = 31)

/-- The binary16 code of a value rounded by `r16`. -/
def toF16 (q : ℚ) : BitVec 16 :=
  let v := r16 q
  let a := absQ v
  let s := if v < 0 then 32768 else 0
  if a = 0 then 0
  else if a < pow2 (-14) then BitVec.ofNat 16 (s + (a * 16777216).floor.toNat)
  else
    let e := log2Q a
    BitVec.ofNat 16 (s + (e + 15).toNat * 1024 + ((a / pow2 e - 1) * 1024).floor.toNat)

/-- The LF24 word of an LF24 value (Table CLR-2). -/
def toLf24 (v : ℚ) : Nat :=
  let a := absQ v
  if a = 0 then 0
  else
    let e := log2Q a
    (if v < 0 then 2 ^ 23 else 0) + (e + 127).toNat * 32768 + ((a / pow2 e - 1) * 32768).floor.toNat

/-- A value clamped between bounds. -/
def clampQ (x lo hi : ℚ) : ℚ := max lo (min x hi)

/-- A number clamped between bounds. -/
def clampI (x lo hi : Int) : Int := max lo (min x hi)

/-- A table of rows, indexed by line and pixel. -/
abbrev Plane (α : Type) := List (List α)

/-- A table filled from a function of pixel and line. -/
def tabulate {α : Type} (w h : Nat) (f : Nat → Nat → α) : Plane α :=
  (List.range h).map fun y => (List.range w).map fun x => f x y

/-- An entry of a table. -/
def at2 {α : Type} (p : Plane α) (d : α) (x y : Nat) : α := (p.getD y []).getD x d

/-- A value inserted into an ascending list. -/
def insertI (x : Int) : List Int → List Int
  | [] => [x]
  | y :: r => if x ≤ y then x :: y :: r else y :: insertI x r

/-- The middle of a sorted list: of an even number of values, the mean of the middle two rounded half up. -/
def medianI (l : List Int) : Int :=
  let m := l.foldr insertI []
  if m.length % 2 = 1 then m.getD (m.length / 2) 0
  else rhu (m.getD (m.length / 2 - 1) 0 + m.getD (m.length / 2) 0) 2

/-- The mean rounded half up; 0 of nothing. -/
def meanI (l : List Int) : Int := if l = [] then 0 else rhu l.sum l.length

end Sys2Proof.Machine
end

