-- ==== Sys2Proof/Machine/RawPath.lean ====
section
/-! DEFINITION. The raw front end's arithmetic on one frame (R135 to R152): unpacking, black subtraction, dual-gain
merge, defect correction, flat field and output. It is stated on whole frames; the stripes of R131 give the same core
values (R150). Register offsets are those of Table RFE-5 within a slot's block or a rendition set (R363). -/

namespace Sys2Proof.Machine
open Sys2Proof

/-- What the raw front end processes: registers by offset, geometry and format, accepted lines, bulk objects, the
exposure that the dark term takes, and the fetches that failed. -/
structure RawIn where
  rd : Nat → Word
  width : Nat
  height : Nat
  bits : Nat
  dual : Bool
  host : Bool
  lines : List (Nat × List Byte)
  defects : List Byte
  flat : List Byte
  prevH : Option Int
  prevL : Option Int
  expNs : Nat
  band : Nat
  badDefects : List Nat
  badNodes : List (Nat × Nat × Nat)
  /-- Column offsets that could not be read: gain, column, and the value taken, which the spec leaves open. -/
  badColumns : List (Nat × Nat × Int)

/-- What one step of a table of values gives: the table and the events counted. -/
structure Counted where
  plane : Plane Int
  n : Nat

/-- A CTL bit (Table RFE-3). -/
def RawIn.ctl (r : RawIn) (i : Nat) : Bool := bit (r.rd 0) i

def RawIn.px (r : RawIn) : Nat := field (r.rd 4) 2 0 + 1
def RawIn.py (r : RawIn) : Nat := field (r.rd 4) 6 4 + 1
def RawIn.nclass (r : RawIn) : Nat := field (r.rd 4) 10 8 + 1

/-- The CFA entry of a site; none for NONE (R139, R140). -/
def RawIn.cls (r : RawIn) (x y : Nat) : Option Nat :=
  let e := field (r.rd (0x60 + 4 * (y % r.py))) (4 * (x % r.px) + 3) (4 * (x % r.px))
  if e = 15 then none else some e

/-- A line was accepted. -/
def RawIn.has (r : RawIn) (y : Nat) : Bool := r.lines.any fun l => decide (l.1 = y)

/-- Sample `i` of a packed payload (R116). -/
def sampleAt (payload : List Byte) (bits i : Nat) : Nat :=
  let b := bits * i
  (leAt payload (b / 8) 4 >>> (b % 8)) % 2 ^ bits

/-- The input sample of gain `g` (0 high, 1 low) at a pixel. -/
def RawIn.sample (r : RawIn) (g x y : Nat) : Nat :=
  match r.lines.find? fun l => decide (l.1 = y) with
  | some l => sampleAt l.2 r.bits (if r.dual then 2 * x + g else x)
  | none => 0

/-! ### Black (R141 to R144), in 1/16 code -/

/-- Samples qualify for a measurement unless above the fixed black plus OB_CLIP. -/
def RawIn.qualifies (r : RawIn) (g : Nat) (v : Nat) : Bool :=
  decide (16 * v ≤ field (r.rd (0x14 + 4 * g)) 19 0 + 16 * field (r.rd 0x10) 15 0)

/-- The mean of samples, rounded half up to 1/16 code. -/
def meanBlack (l : List Nat) : Int := rhu (16 * (l.sum : Int)) l.length

/-- The frame black measured in this frame, when a sample qualifies (R142). -/
def RawIn.measured (r : RawIn) (g : Nat) : Option Int :=
  let rows := field (r.rd 0xC) 7 0
  let l := ((List.range (min rows r.height)).filter r.has).flatMap fun y =>
    ((List.range r.width).map fun x => r.sample g x y).filter (r.qualifies g)
  if l = [] then none else some (meanBlack l)

/-- The frame measurement is on (R138, R142). -/
def RawIn.frameMeas (r : RawIn) : Bool := r.ctl 2 && !r.host

/-- F_g for a line (R142). The lines before OB_ROWS take the last measurement since the slot was unmasked, also where the frame before ran with
FRAME_MEAS = 0, and the fixed value where there is none. (DEDUCED, log 25) -/
def RawIn.frameBlack (r : RawIn) (meas : Option Int) (g y : Nat) : Int :=
  let fixed : Int := (field (r.rd (0x14 + 4 * g)) 19 0 : Nat)
  if r.frameMeas then
    let prev := ((if g = 0 then r.prevH else r.prevL)).getD fixed
    if y < field (r.rd 0xC) 7 0 then prev else meas.getD prev
  else fixed

/-- R_g(y) (R143). -/
def RawIn.rowBlack (r : RawIn) (meas : Option Int) (g y : Nat) : Int :=
  let left := field (r.rd 0xC) 15 8
  let right := field (r.rd 0xC) 23 16
  let l := (((List.range r.width).filter fun x => decide (x < left) || decide (r.width ≤ x + right)).map
    fun x => r.sample g x y).filter (r.qualifies g)
  if l = [] then r.frameBlack meas g y else meanBlack l

/-- C_g(x): entry x of the gain's column-offset vector (R148); R152 gives one that cannot be read no value, and it is free. (DEDUCED, log 25) -/
def RawIn.column (r : RawIn) (g x : Nat) : Int :=
  let ncls := (byteAt r.flat 2).toNat
  let nodes := leAt r.flat 4 2 * leAt r.flat 6 2
  let off := 32 + 2 * ncls * nodes + 2 * (g * leAt r.flat 8 2 + x)
  if bit (BitVec.ofNat 32 (leAt r.flat 3 1)) 0 then
    match r.badColumns.find? fun b => decide (b.1 = g) && decide (b.2.1 = x) with
    | some b => b.2.2
    | none => signed 16 (leAt r.flat off 2)
  else 0

/-- D_g of the band and exposure (R141). -/
def RawIn.dark (r : RawIn) (g : Nat) : Int :=
  rhuQ (f32 (r.rd (0x40 + 8 * r.band + 4 * g)) * (r.expNs : ℚ) / 1000000000 * 16)

/-- The black level of a sample (R141). -/
def RawIn.black (r : RawIn) (meas : Option Int) (g x y : Nat) : Int :=
  (if r.ctl 1 && !r.host then r.rowBlack meas g y else r.frameBlack meas g y)
    + (if r.ctl 0 then r.column g x else 0) + (if r.ctl 3 && !r.host then r.dark g else 0)

/-! ### Steps 1 to 3 -/

/-- Saturation of a working value to 28 bits (R136). -/
def sat28 (v : Int) : Int := clampI v (-134217728) 134217727

def clipped (v : Int) : Nat := if v = sat28 v then 0 else 1

/-- The weight and blend of the dual-gain merge (R145). -/
def mergeGain (h l : Int) (g : ℚ) (tLo tHi : Int) : Int :=
  let lg := rhuQ ((l : ℚ) * g)
  let w := clampI (rhu ((h - 16 * tLo) * 65536) (16 * (tHi - tLo))) 0 65536
  rhu ((65536 - w) * h + w * lg) 65536

/-- The working value after steps 1 to 3, and its clips. A NONE site of a dual-gain slot with MERGE = 1 skips step 3 (R140) and goes on with its
high-gain value, a choice the spec leaves open. (DEDUCED, log 25) -/
def RawIn.front (r : RawIn) (measH measL : Option Int) (x y : Nat) : Int × Nat :=
  let h0 := 16 * (r.sample 0 x y : Int) - r.black measH 0 x y
  let h := sat28 h0
  if r.ctl 4 && r.dual && (r.cls x y).isSome then
    let l0 := 16 * (r.sample 1 x y : Int) - r.black measL 1 x y
    let l := sat28 l0
    let t := r.rd 0x20
    let m := mergeGain h l (f32 (r.rd 0x1C)) (field t 15 0) (field t 31 16)
    (sat28 m, clipped h0 + clipped l0 + clipped m)
  else (h, clipped h0)

/-! ### Defects (R146, R147) -/

/-- The static entries in force: position and METHOD; none while STATIC_DEF is 0. -/
def RawIn.entries (r : RawIn) : List (Nat × Nat × Nat) :=
  if r.ctl 5 && decide (r.defects ≠ []) then
    ((List.range (leAt r.defects 4 4)).map fun i =>
      let e := leAt r.defects (16 + 4 * i) 4
      (e % 32768, e / 32768 % 16384, e / 536870912)).filter fun e =>
        decide (e.1 < r.width) && decide (e.2.1 < r.height) && (r.cls e.1 e.2.1).isSome
          && !(r.badDefects.contains e.2.1)
  else []

def RawIn.entryAt (r : RawIn) (x y : Nat) : Option Nat :=
  (r.entries.find? fun e => decide (e.1 = x) && decide (e.2.1 = y)).map (·.2.2)

/-- The position at a signed offset, within the frame and on an accepted line. -/
def RawIn.neighbour (r : RawIn) (x y : Nat) (dx dy : Int) : Option (Nat × Nat) :=
  let nx := (x : Int) + dx
  let ny := (y : Int) + dy
  if nx < 0 ∨ ny < 0 ∨ nx ≥ r.width ∨ ny ≥ r.height then none
  else if r.has ny.toNat then some (nx.toNat, ny.toNat) else none

/-- The values of the available neighbours at some offsets in periods; a static correction leaves out static entries. -/
def RawIn.around (r : RawIn) (p : Plane Int) (static : Bool) (x y : Nat) (offs : List (Int × Int)) : List Int :=
  offs.filterMap fun o =>
    match r.neighbour x y (o.1 * r.px) (o.2 * r.py) with
    | some (nx, ny) => if static && (r.entryAt nx ny).isSome then none else some (at2 p 0 nx ny)
    | none => none

def horizontal : List (Int × Int) := [(-1, 0), (1, 0)]
def vertical : List (Int × Int) := [(0, -1), (0, 1)]
def diagonal : List (Int × Int) := [(-1, -1), (1, -1), (-1, 1), (1, 1)]

/-- Step 4 at a pixel: the value, whether corrected, whether left unfixed. -/
def RawIn.static (r : RawIn) (p : Plane Int) (x y : Nat) : Int × Bool × Bool :=
  match r.entryAt x y with
  | none => (at2 p 0 x y, false, false)
  | some m =>
    let l := r.around p true x y (match m with
      | 0 => horizontal ++ vertical
      | 1 => horizontal
      | 2 => vertical
      | _ => horizontal ++ vertical ++ diagonal)
    if l = [] then (at2 p 0 x y, false, true)
    else ((if m = 1 ∨ m = 2 then meanI l else medianI l), true, false)

/-- Step 5 at a pixel: the value and whether replaced (R147). -/
def RawIn.dynamic (r : RawIn) (p : Plane Int) (x y : Nat) : Int × Bool :=
  let v := at2 p 0 x y
  if !r.ctl 6 || (r.entryAt x y).isSome || (r.cls x y).isNone then (v, false)
  else
    let l := r.around p false x y (horizontal ++ vertical ++ diagonal)
    if l.length < 4 then (v, false)
    else
      let md := medianI l
      let mn := l.foldl min md
      let mx := l.foldl max md
      let d := r.rd 0x24
      let t : Int := 16 * (field d 11 0 : Int) + (field d 23 16 : Int) * max md 0 / 256
      if v > mx + t ∨ v < mn - t then (md, true) else (v, false)

/-! ### Flat field (R149) -/

/-- Gain code of a node; nodes beyond the last take the last node's value, unreadable ones 16,384 (R152). -/
def RawIn.node (r : RawIn) (c i j : Nat) : Int :=
  let nx := leAt r.flat 4 2
  let ny := leAt r.flat 6 2
  let i := min i (nx - 1)
  let j := min j (ny - 1)
  if r.badNodes.contains (c, i, j) then 16384 else (leAt r.flat (32 + 2 * ((c * ny + j) * nx + i)) 2 : Nat)

/-- The gain code at a pixel of a class. -/
def RawIn.gain (r : RawIn) (c x y : Nat) : Int :=
  let i := x / 16
  let j := y / 16
  let fx : Int := (x % 16 : Nat)
  let fy : Int := (y % 16 : Nat)
  rhu ((16 - fx) * (16 - fy) * r.node c i j + fx * (16 - fy) * r.node c (i + 1) j
    + (16 - fx) * fy * r.node c i (j + 1) + fx * fy * r.node c (i + 1) (j + 1)) 256

/-- Step 6 at a pixel. -/
def RawIn.flatten (r : RawIn) (v : Int) (x y : Nat) : Int × Nat :=
  if r.ctl 7 && decide (r.flat ≠ []) then
    match r.cls x y with
    | some c => let w := rhu (v * r.gain c x y) 16384; (sat28 w, clipped w)
    | none => (v, 0)
  else (v, 0)

/-! ### The frame -/

/-- What the raw front end gives for a frame: working values, R20 samples, counts and measurements. -/
structure RawOut where
  work : Plane Int
  r20 : Plane Nat
  clippedN : Nat
  staticN : Nat
  dynN : Nat
  unfixed : Nat
  blackH : Option Int
  blackL : Option Int

/-- A fetch of the tables in use has failed (R152). -/
def RawIn.fetchFailed (r : RawIn) : Bool :=
  (decide (r.badDefects ≠ []) && r.ctl 5) || (decide (r.badNodes ≠ []) && r.ctl 7) || (decide (r.badColumns ≠ []) && r.ctl 0)

/-- Lines below a line that steps 4 and 5 read for it (R150). -/
def RawIn.reach (r : RawIn) : Nat := r.py * ((if r.ctl 5 then 1 else 0) + (if r.ctl 6 then 1 else 0))

/-- PED (R137). -/
def RawIn.ped (r : RawIn) : Nat := field (r.rd 8) 11 0

/-- Steps 1 to 7 on every sample of the accepted lines (R135); the others stay missing (R151). -/
def RawIn.run (r : RawIn) : RawOut :=
  let mH := if r.frameMeas then r.measured 0 else none
  let mL := if r.frameMeas && r.dual then r.measured 1 else none
  let w := r.width
  let h := r.height
  let fr := tabulate w h fun x y => if r.has y then r.front mH mL x y else (0, 0)
  let p3 := fr.map fun l => l.map (·.1)
  let st := tabulate w h fun x y => if r.has y then r.static p3 x y else (0, false, false)
  let p4 := st.map fun l => l.map (·.1)
  let dy := tabulate w h fun x y => if r.has y then r.dynamic p4 x y else (0, false)
  let p5 := dy.map fun l => l.map (·.1)
  let fl := tabulate w h fun x y => if r.has y then r.flatten (at2 p5 0 x y) x y else (0, 0)
  let work := fl.map fun l => l.map (·.1)
  let raw := tabulate w h fun x y => (at2 work 0 x y + 8) / 16 + (r.ped : Int)
  let clamps := (List.range h).flatMap fun y => if r.has y then
    (List.range w).map fun x => if 0 ≤ at2 raw 0 x y ∧ at2 raw 0 x y ≤ 1048575 then 0 else 1 else []
  { work := work
    r20 := tabulate w h fun x y => if r.has y then (clampI (at2 raw 0 x y) 0 1048575).toNat else r.ped
    clippedN := (fr.flatMap fun l => l.map (·.2)).sum + (fl.flatMap fun l => l.map (·.2)).sum + clamps.sum
    staticN := ((st.flatMap id).filter (·.2.1)).length
    dynN := ((dy.flatMap id).filter (·.2)).length
    unfixed := ((st.flatMap id).filter (·.2.2)).length
    blackH := mH
    blackL := mL }

/-- The LF24 sample of a working value (R137). -/
def RawIn.lf24 (r : RawIn) (v : Int) : ℚ := r24 ((v : ℚ) / (16 * (2 ^ r.bits : Nat) : ℚ))

end Sys2Proof.Machine
end

