-- ==== Sys2Proof/Machine/StatPath.lean ====
section
/-! DEFINITION. Frame records as bytes (R23, Table SYS-8) and statistics records (R154, R156, R159). -/

namespace Sys2Proof.Machine
open Sys2Proof

/-- A point of PTP time as a record gives it: fraction (2 bytes), nanoseconds (4), seconds (6). -/
def ptpBytes (t : Nat) : List Byte :=
  leBytes 2 (t % 65536) ++ leBytes 4 (t / 65536 % 1000000000) ++ leBytes 6 (t / (65536 * 1000000000))

/-- The 256 bytes of a frame record (Table SYS-8). -/
def recBytes (r : FrameRec) : List Byte :=
  [1#8, BitVec.ofNat 8 (if r.hostJob then 128 else r.slot), BitVec.ofNat 8 r.tag, BitVec.ofNat 8 r.formeId]
    ++ leBytes 4 r.ord.toNat ++ ptpBytes r.ptp ++ leBytes 4 r.timecode.toNat ++ leBytes 4 r.tcUser.toNat
    ++ leBytes 4 r.status.toNat ++ leBytes 2 r.linesReceived ++ leBytes 2 r.linesExpected ++ leBytes 2 r.linesCrc
    ++ leBytes 2 r.linesDiscarded ++ leBytes 2 r.ratio ++ leBytes 2 r.ratioPrev ++ leBytes 4 r.trbBytes
    ++ [BitVec.ofNat 8 r.courses, BitVec.ofNat 8 r.tempBand, BitVec.ofNat 8 r.refSource, 0]
    ++ leBytes 4 r.hostContext.toNat ++ zeros 8 ++ leBytes 4 r.expNs ++ leBytes 4 r.periodNs
    ++ leBytes 4 r.phase.toNat ++ zeros 52 ++ padTo 128 r.metadata

/-- A window's rectangle and modes (Table RFE-5). -/
def winX (r : RawIn) (w : Nat) : Word := r.rd (0x400 + 0x20 * w)
def winY (r : RawIn) (w : Nat) : Word := r.rd (0x404 + 0x20 * w)
def winCfg (r : RawIn) (w : Nat) : Word := r.rd (0x408 + 0x20 * w)

/-- A sample counted by a window: class, zone, value, saturated. -/
structure Sampled where
  cls : Nat
  zone : Nat
  val : Int
  sat : Bool
  line : Nat

/-- The samples that a window counts (R154, R156). -/
def counted (r : RawIn) (o : RawOut) (w first last : Nat) : List Sampled :=
  let xs := winX r w
  let ys := winY r w
  let cfg := winCfg r w
  let x0 := field xs 15 0
  let x1 := field xs 31 16
  let y0 := field ys 13 0
  let y1 := field ys 29 16
  let k := 2 ^ field cfg 18 16
  let zxN := field cfg 11 8 + 1
  let zyN := field cfg 15 12 + 1
  ((List.range r.height).filter fun y => r.has y && decide (first ≤ y) && decide (y ≤ last)
      && decide (y0 ≤ y) && decide (y ≤ y1) && decide ((y - y0) / r.py % k = 0)).flatMap fun y =>
    (List.range r.width).filterMap fun x =>
      if x0 ≤ x ∧ x ≤ x1 ∧ (x - x0) / r.px % k = 0 then
        (r.cls x y).map fun c =>
          { cls := c, zone := (y - y0) * zyN / (y1 - y0 + 1) * zxN + (x - x0) * zxN / (x1 - x0 + 1),
            val := ((at2 o.r20 0 x y : Nat) : Int) - r.ped,
            sat := decide (r.sample (if r.ctl 4 then 1 else 0) x y = 2 ^ r.bits - 1), line := y }
      else none

/-- The histogram bin of a value (R156). -/
def histBin (log : Bool) (shift : Nat) (s : Int) : Nat :=
  if log then
    if s ≤ 0 then 0
    else
      let n := s.toNat
      let e := Nat.log2 n
      1 + 8 * e + (if e ≥ 3 then n >>> (e - 3) else n <<< (3 - e)) % 8
  else (clampI (s / (2 ^ shift : Nat)) 0 255).toNat

/-- A signed number in bytes, least significant first. -/
def leInt (n : Nat) (x : Int) : List Byte := leBytes n (unsigned (8 * n) x)

/-- The block of a class in the record (Table RFE-4). -/
def classBlock (l : List Sampled) (c : Nat) : List Byte :=
  let v := l.filter fun s => decide (s.cls = c)
  let vs := v.map (·.val)
  leBytes 4 v.length ++ leBytes 4 (v.filter (·.sat)).length ++ leInt 8 vs.sum
    ++ leInt 4 (vs.foldl min (vs.headD 0)) ++ leInt 4 (vs.foldl max (vs.headD 0)) ++ zeros 8

/-- A statistics record (R159, Table RFE-4). -/
def statBytes (r : RawIn) (o : RawOut) (fr : FrameRec) (w : Win) (seq : Nat) : List Byte :=
  let cfg := winCfg r w.win
  let last := w.last.getD 0
  let l := counted r o w.win w.first last
  let lines := ((List.range r.height).filter fun y => l.any fun s => decide (s.line = y)).length
  [2#8, BitVec.ofNat 8 w.win, BitVec.ofNat 8 fr.slot, BitVec.ofNat 8 fr.tag] ++ leBytes 4 fr.ord.toNat
    ++ leBytes 4 seq ++ leBytes 2 fr.status.toNat ++ zeros 2 ++ ptpBytes fr.ptp
    ++ leBytes 2 w.first ++ leBytes 2 last ++ leBytes 2 lines
    ++ [BitVec.ofNat 8 w.cause, BitVec.ofNat 8 r.nclass] ++ leBytes 4 fr.expNs
    ++ [BitVec.ofNat 8 fr.tempBand, BitVec.ofNat 8 (field cfg 11 8 + 16 * field cfg 15 12),
        BitVec.ofNat 8 (field cfg 1 1 + 2 * field cfg 6 2)] ++ zeros 21
    ++ ((List.range 6).flatMap fun c => if c < r.nclass then classBlock l c else zeros 32)
    ++ ((List.range 6).flatMap fun c => (List.range 256).flatMap fun k =>
        leBytes 4 (l.filter fun s => decide (s.cls = c)
          && decide (histBin (bit cfg 1) (field cfg 6 2) s.val = k)).length)
    ++ ((List.range 256).flatMap fun z => (List.range 6).flatMap fun c =>
        let v := (l.filter fun s => decide (s.cls = c) && decide (s.zone = z)).map (·.val)
        leInt 8 v.sum ++ leBytes 4 v.length ++ zeros 4)

end Sys2Proof.Machine
end

