-- ==== Sys2Proof/Machine/ColourPath.lean ====
section
/-! DEFINITION. The colour engine's arithmetic on one frame (R161 to R184): class gain, demosaic, highlights, mesh, band
transform, noise reduction, and renditions through the LUT memory. Every operation is rounded by `r32`, every stage by
`r24` (R163). -/

namespace Sys2Proof.Machine
open Sys2Proof

/-- What stages 1 to 7 process: slot registers by offset (Table CLR-4), the raw front end's view of the frame, its LF24
samples, the mesh, and the noise history where the frame continues one. -/
structure ClrIn where
  rd : Nat → Word
  raw : RawIn
  samples : Plane ℚ
  mesh : List Byte
  badMesh : List (Nat × Nat × Nat)
  hist : Option History
  badHist : List (Nat × Nat)

def ClrIn.ctl (c : ClrIn) (i : Nat) : Bool := bit (c.rd 0) i
def ClrIn.nbands (c : ClrIn) : Nat := field (c.rd 0) 18 16 + 1
def ClrIn.width (c : ClrIn) : Nat := c.raw.width
def ClrIn.height (c : ClrIn) : Nat := c.raw.height
def ClrIn.nclass (c : ClrIn) : Nat := c.raw.nclass

/-- A sum of products in order, each operation rounded (R163). -/
def dot : List (ℚ × ℚ) → ℚ
  | [] => 0
  | l => l.foldl (fun a p => r32 (a + r32 (p.1 * p.2))) 0

/-! ### Stages 1 and 2 -/

/-- Stage 1 at an image site (R164). -/
def ClrIn.gained (c : ClrIn) (x y cls : Nat) : ℚ :=
  r24 (r32 (r32 (at2 c.samples 0 x y * f32 (c.rd (0x10 + 4 * cls))) * f32 (c.rd 4)))

/-- Class-`k` sites around a pixel that are available (R165), in ascending dy and dx, with their TENT weights. -/
def ClrIn.tentSites (c : ClrIn) (k x y : Nat) : List (Nat × Nat × ℚ) :=
  let px := c.raw.px
  let py := c.raw.py
  (List.range (2 * py + 1)).flatMap fun j => (List.range (2 * px + 1)).filterMap fun i =>
    let dx : Int := (i : Int) - px
    let dy : Int := (j : Int) - py
    match c.raw.neighbour x y dx dy with
    | some (nx, ny) =>
      if c.raw.cls nx ny = some k then
        some (nx, ny, (((px + 1 - dx.natAbs) * (py + 1 - dy.natAbs) : Nat) : ℚ))
      else none
    | none => none

/-- A weighted mean over sites; none when the weights sum to 0 (R166). -/
def weighted (l : List (ℚ × ℚ)) : Option ℚ :=
  let sw := l.foldl (fun a p => r32 (a + p.1)) 0
  if sw = 0 then none else some (r32 (dot l / sw))

/-- The TENT value of a class: the own sample at a site of the class, the estimate elsewhere. -/
def ClrIn.tent (c : ClrIn) (g : Plane ℚ) (k x y : Nat) : Option ℚ :=
  if c.raw.cls x y = some k then some (at2 g 0 x y)
  else weighted ((c.tentSites k x y).map fun s => (s.2.2, at2 g 0 s.1 s.2.1))

/-- Stage 2 at a pixel for a class; none where it has no site (R165, R166). (DEDUCED, log 25) -/
def ClrIn.demosaic (c : ClrIn) (g : Plane ℚ) (guide : Plane ℚ) (k x y : Nat) : Option ℚ :=
  let gc := field (c.rd 0) 6 4
  if field (c.rd 0) 1 0 = 1 ∧ k ≠ gc ∧ c.raw.cls x y ≠ some k then
    (weighted ((c.tentSites k x y).map fun s => (s.2.2, r32 (at2 g 0 s.1 s.2.1 - at2 guide 0 s.1 s.2.1)))).map
      fun d => r32 (at2 guide 0 x y + d)
  else c.tent g k x y

/-! ### Stage 3 -/

/-- Highlight handling at a pixel (R167): the class values, and whether it acted. -/
def ClrIn.highlight (c : ClrIn) (v : List ℚ) : List ℚ × Bool :=
  let mode := field (c.rd 0) 9 8
  let clips := (List.range c.nclass).map fun k => f32 (c.rd (0x30 + 4 * k))
  let isClip := (v.zip clips).map fun p => decide (p.1 ≥ p.2)
  if mode = 0 ∨ ¬ isClip.any id then (v, false)
  else if mode = 1 then
    let cm := clips.foldl min (clips.headD 0)
    (v.map fun x => min x cm, true)
  else
    let m := v.foldl max (v.headD 0)
    ((v.zip isClip).map fun p => if p.2 then m else p.1, true)

/-! ### Stage 4 -/

/-- A displacement of a mesh node in pixels: axis 0 DX, 1 DY; an unreadable node displaces by 0 (R168, R185). -/
def ClrIn.meshNode (c : ClrIn) (k i j axis : Nat) : ℚ :=
  let nx := leAt c.mesh 4 2
  let ny := leAt c.mesh 6 2
  let i := min i (nx - 1)
  let j := min j (ny - 1)
  if c.badMesh.contains (k, i, j) then 0
  else (signed 16 (leAt c.mesh (32 + 4 * ((k * ny + j) * nx + i) + 2 * axis) 2) : ℚ) / 256

/-- The displacement of a class plane at a pixel (R169). (DEDUCED, log 25) -/
def ClrIn.displace (c : ClrIn) (k x y axis : Nat) : ℚ :=
  let i := x / 64
  let j := y / 64
  let fx := x % 64
  let fy := y % 64
  r32 (dot [((((64 - fx) * (64 - fy) : Nat) : ℚ), c.meshNode k i j axis),
            (((fx * (64 - fy) : Nat) : ℚ), c.meshNode k (i + 1) j axis),
            ((((64 - fx) * fy : Nat) : ℚ), c.meshNode k i (j + 1) axis),
            (((fx * fy : Nat) : ℚ), c.meshNode k (i + 1) (j + 1) axis)] / 4096)

/-- The accepted line nearest to a line, the lower-numbered of two equally near (R169). -/
def nearestLine (r : RawIn) (y : Nat) : Nat :=
  if r.has y then y
  else (r.lines.map (·.1)).foldl (fun b z =>
    if (max z y - min z y) < (max b y - min b y) then z else b) ((r.lines.map (·.1)).headD y)

/-- Stage 4 for a class at a pixel: the value and the clamps. -/
def ClrIn.meshAt (c : ClrIn) (p : Plane ℚ) (k x y : Nat) : ℚ × Nat :=
  let sx0 := r32 ((x : ℚ) + c.displace k x y 0)
  let sy0 := r32 ((y : ℚ) + c.displace k x y 1)
  let sx := clampQ sx0 0 (c.width - 1 : Nat)
  let sy := clampQ sy0 0 (c.height - 1 : Nat)
  let ix := sx.floor.toNat
  let iy := sy.floor.toNat
  let fx := r32 (sx - ix)
  let fy := r32 (sy - iy)
  let v := fun i j => at2 p 0 (min i (c.width - 1)) (nearestLine c.raw (min j (c.height - 1)))
  (dot [(r32 (r32 (1 - fx) * r32 (1 - fy)), v ix iy), (r32 (fx * r32 (1 - fy)), v (ix + 1) iy),
        (r32 (r32 (1 - fx) * fy), v ix (iy + 1)), (r32 (fx * fy), v (ix + 1) (iy + 1))],
   if sx = sx0 ∧ sy = sy0 then 0 else 1)

/-! ### Stages 5 to 7 -/

/-- Stage 5 at a pixel (R170). -/
def ClrIn.bands (c : ClrIn) (v : List ℚ) : List ℚ :=
  (List.range c.nbands).map fun i =>
    r24 (dot ((List.range c.nclass).map fun j => (f32 (c.rd (0x80 + 4 * (6 * i + j))), v.getD j 0)))

/-- Luminance of a pixel's bands (R171). -/
def ClrIn.luma (c : ClrIn) (w : List ℚ) : ℚ :=
  dot ((List.range c.nbands).map fun b => (f32 (c.rd (0x120 + 4 * b)), w.getD b 0))

/-- A byte of the spatial kernel, K[a][d] (R171). -/
def ClrIn.kernel (c : ClrIn) (a d : Nat) : ℚ :=
  let n := 9 * a + d
  (field (c.rd (0x160 + 4 * (n / 4))) (8 * (n % 4) + 7) (8 * (n % 4)) : ℚ)

/-- Stage 6 at a pixel (R171). -/
def ClrIn.spatial (c : ClrIn) (p : Plane (List ℚ)) (lum : Plane ℚ) (x y : Nat) : List ℚ :=
  let rad := field (c.rd 0) 23 20
  let w := at2 p [] x y
  let yc := at2 lum 0 x y
  let t := r32 (r32 (f32 (c.rd 0x140) * max yc 0) + f32 (c.rd 0x144))
  let ns := (List.range (2 * rad + 1)).flatMap fun j => (List.range (2 * rad + 1)).filterMap fun i =>
    (c.raw.neighbour x y ((i : Int) - rad) ((j : Int) - rad)).map fun q =>
      let dy := ((j : Int) - rad).natAbs
      let dx := ((i : Int) - rad).natAbs
      let wr := max 0 (r32 (1 - r32 (r32 (absQ (r32 (at2 lum 0 q.1 q.2 - yc))) / t)))
      (r32 (r32 (c.kernel dy dx / 255) * wr), q)
  let sum := ns.foldl (fun a n => r32 (a + n.1)) 0
  (List.range c.nbands).map fun b =>
    let wb := w.getD b 0
    let f := if sum = 0 then wb
      else r32 (dot (ns.map fun n => (n.1, (at2 p [] n.2.1 n.2.2).getD b 0)) / sum)
    r24 (r32 (wb + r32 (f32 (c.rd (0x148 + 4 * b)) * r32 (f - wb))))

/-- A pixel's history, where its line is valid and readable. -/
def ClrIn.past (c : ClrIn) (x y : Nat) : Option (List ℚ) :=
  match c.hist with
  | some h =>
    if c.badHist.contains (x, y) then none
    else (mGet h.lines y).map fun l => ((l.drop (x * c.nbands)).take c.nbands).map f16
  | none => none

/-- Stage 7 at a pixel (R172): the outputs in binary32. (DEDUCED, log 25) -/
def ClrIn.temporal (c : ClrIn) (w : List ℚ) (x y : Nat) : List ℚ :=
  match c.past x y with
  | none => w
  | some h =>
    let am := f32 (c.rd 0x1C0)
    let d := r32 (absQ (r32 (c.luma w - c.luma h)) / f32 (c.rd 0x1C4))
    let a := r32 (am + r32 (r32 (1 - am) * min 1 d))
    (List.range c.nbands).map fun b =>
      r32 (h.getD b 0 + r32 (a * r32 (w.getD b 0 - h.getD b 0)))

/-- What stages 1 to 7 give: the working bands of each pixel, the counts and the new history lines. -/
structure ClrOut where
  bands : Plane (List ℚ)
  voids : Nat
  hlPixels : Nat
  clamps : Nat
  lines : SMap (List (BitVec 16))

/-- Stages 1 to 7 on a frame (R161); pixels of missing lines are not produced (R165). -/
def ClrIn.run (c : ClrIn) (tnr : Bool) : ClrOut :=
  let w := c.width
  let h := c.height
  let onLine := fun {α : Type} (d : α) (f : Nat → Nat → α) => tabulate w h fun x y => if c.raw.has y then f x y else d
  let g := onLine 0 fun x y => match c.raw.cls x y with
    | some k => c.gained x y k
    | none => 0
  let gc := field (c.rd 0) 6 4
  let guide := onLine 0 fun x y => (c.tent g gc x y).getD 0
  let dem := onLine [] fun x y => (List.range c.nclass).map fun k => c.demosaic g guide k x y
  let s2 := onLine [] fun x y => (at2 dem [] x y).map fun o => r24 (o.getD 0)
  let hl := onLine ([], false) fun x y => c.highlight (at2 s2 [] x y)
  let s3 := hl.map fun l => l.map fun p => p.1.map r24
  let planes := (List.range c.nclass).map fun k => tabulate w h fun x y => (at2 s3 [] x y).getD k 0
  let ms := onLine [] fun x y => if c.ctl 10 then
      (planes.zipIdx).map fun p => c.meshAt p.1 p.2 x y
    else (at2 s3 [] x y).map fun v => (v, 0)
  let s5 := onLine [] fun x y => c.bands ((at2 ms [] x y).map fun p => r24 p.1)
  let lum := onLine 0 fun x y => c.luma (at2 s5 [] x y)
  let s6 := if c.ctl 11 then onLine [] fun x y => c.spatial s5 lum x y else s5
  let s7 := if tnr then onLine [] fun x y => c.temporal (at2 s6 [] x y) x y else s6
  { bands := s7.map fun l => l.map fun p => p.map r24
    voids := ((dem.flatMap id).filter fun l => l.any (·.isNone)).length
    hlPixels := ((hl.flatMap id).filter (·.2)).length
    clamps := ((ms.flatMap id).flatMap fun l => l.map (·.2)).sum
    lines := if tnr then
        ((List.range h).filter c.raw.has).map fun y => (y, (s7.getD y []).flatMap fun p => p.map toF16)
      else [] }

/-! ### LUT memory (R180, R182) -/

/-- Nodes per axis of a 3D slot. -/
def lutN (slot : Nat) : Nat := if slot < 4 then 65 else 33

def lut3Offset (slot : Nat) : Nat := if slot < 4 then 0x1A0000 * slot else 0x680000 + 0x40000 * (slot - 4)
def shaperOffset (slot : Nat) : Nat := 0x980000 + 0x2000 * slot

/-- An entry read from the LUT memory: +0 where its 64-bit word is uncorrectable, with that word (R183). -/
structure LutRead where
  val : ℚ
  bad : List Nat

def readLut (m : LutMem) (off : Nat) (v : ℚ) : LutRead :=
  if m.bad.contains (off / 8) then { val := 0, bad := [off / 8] } else { val := v, bad := [] }

/-- Channel `ch` of an entry of a 3D slot; the identity where nothing has been loaded. -/
def lut3At (m : LutMem) (slot i0 i1 i2 ch : Nat) : LutRead :=
  let n := lutN slot
  let e := i0 + n * i1 + n * n * i2
  readLut m (lut3Offset slot + 6 * e + 2 * ch) (match mGet m.lut3 slot with
    | some l => f16 (l.getD (3 * e + ch) 0)
    | none => r16 (((match ch with | 0 => i0 | 1 => i1 | _ => i2 : Nat) : ℚ) / (n - 1 : Nat)))

/-- An entry of a shaper slot. -/
def shaperAt (m : LutMem) (slot k : Nat) : LutRead :=
  readLut m (shaperOffset slot + 2 * k) (match mGet m.shaper slot with
    | some l => f16 (l.getD k 0)
    | none => r16 ((k : ℚ) / 4095))

/-! ### Renditions (R178 to R181) -/

/-- Three channels on their way through stage 8, with the uncorrectable words read. -/
structure Tri where
  v : List ℚ
  bad : List Nat

/-- Projection. -/
def projectT (rd : Nat → Word) (nbands : Nat) (w : List ℚ) : List ℚ :=
  (List.range 3).map fun k =>
    r24 (r32 (dot ((List.range nbands).map fun j => (f32 (rd (0x10 + 4 * (6 * k + j))), w.getD j 0))
      + f32 (rd (0x58 + 4 * k))))

/-- f(x) of the tone map. -/
def toneF (k p x : ℚ) : ℚ :=
  let a := r32 (x - k)
  let b := r32 (p - k)
  r32 (k + r32 (r32 (a * b) / r32 (a + b)))

def toneMap (rd : Nat → Word) (t : List ℚ) : List ℚ :=
  let k := f32 (rd 0x64)
  let p := f32 (rd 0x68)
  match field (rd 0) 21 20 with
  | 1 => t.map fun x => r24 (if x > k then toneF k p x else x)
  | 2 =>
    let m := t.foldl max (t.headD 0)
    if m > k then
      let q := r32 (toneF k p m / m)
      t.map fun x => r24 (r32 (x * q))
    else t
  | _ => t

/-- Lg(x), read from the LF24 bits (R179). -/
def lgOf (x : ℚ) : ℚ :=
  let n := toLf24 x
  ((n / 32768 % 256 : Nat) : ℚ) - 127 + ((n % 32768 : Nat) : ℚ) / 32768

/-- A channel through a shaper (R179). -/
def shapeCh (m : LutMem) (sel : Nat) (lo hi : ℚ) (x : ℚ) : LutRead :=
  let slot := sel % 64
  let u := if sel / 64 % 2 = 1 then
      clampQ (r32 (r32 ((if x ≤ 0 then lo else lgOf x) - lo) / r32 (hi - lo))) 0 1
    else clampQ x 0 1
  let p := r32 (u * 4095)
  let i := min p.floor.toNat 4094
  let a := shaperAt m slot i
  let b := shaperAt m slot (i + 1)
  { val := r24 (r32 (a.val + r32 (r32 (p - i) * r32 (b.val - a.val)))), bad := a.bad ++ b.bad }

/-- A triple through a select word's shapers. -/
def shape (m : LutMem) (rd : Nat → Word) (reg : Nat) (t : Tri) : Tri :=
  let w := rd reg
  let lo : ℚ := (signed 8 (field (rd 0xC) 7 0) : ℚ)
  let hi : ℚ := (signed 8 (field (rd 0xC) 15 8) : ℚ)
  let l := (List.range 3).map fun k => shapeCh m (field w (8 * k + 7) (8 * k)) lo hi (t.v.getD k 0)
  { v := l.map (·.val), bad := t.bad ++ l.flatMap (·.bad) }

/-- Axes by descending fraction; equal fractions keep order 0, 1, 2 (R181). -/
def insAxis (f : Nat → ℚ) (a : Nat) : List Nat → List Nat
  | [] => [a]
  | b :: r => if f a ≥ f b then a :: b :: r else b :: insAxis f a r

def axesDesc (f : Nat → ℚ) : List Nat := [0, 1, 2].foldr (insAxis f) []

/-- The 3D LUT (R181). -/
def lut3d (m : LutMem) (slot : Nat) (t : Tri) : Tri :=
  let n := lutN slot
  let q := fun k => r32 (clampQ (t.v.getD k 0) 0 1 * (n - 1 : Nat))
  let i := fun k => min (q k).floor.toNat (n - 2)
  let f := fun k => r32 (q k - (i k : ℚ))
  let ax := axesDesc f
  let p := ax.getD 0 0
  let s2 := ax.getD 1 0
  let s3 := ax.getD 2 0
  let c := fun (on : List Nat) ch => lut3At m slot (i 0 + (if on.contains 0 then 1 else 0))
    (i 1 + (if on.contains 1 then 1 else 0)) (i 2 + (if on.contains 2 then 1 else 0)) ch
  let one := fun ch =>
    let c0 := c [] ch
    let c1 := c [p] ch
    let c2 := c [p, s2] ch
    let c3 := c [0, 1, 2] ch
    ({ val := r24 (dot [(r32 (1 - f p), c0.val), (r32 (f p - f s2), c1.val), (r32 (f s2 - f s3), c2.val),
                        (f s3, c3.val)]), bad := c0.bad ++ c1.bad ++ c2.bad ++ c3.bad } : LutRead)
  let l := [one 0, one 1, one 2]
  { v := l.map (·.val), bad := t.bad ++ l.flatMap (·.bad) }

/-- Stage 8 at a pixel (R178). -/
def render (m : LutMem) (rd : Nat → Word) (nbands : Nat) (w : List ℚ) : Tri :=
  let ctl := rd 0
  let t : Tri := { v := toneMap rd (projectT rd nbands w), bad := [] }
  let t := if bit ctl 19 then shape m rd 4 t else t
  let t := if bit ctl 18 then lut3d m (field ctl 15 12) t else t
  if bit ctl 17 then shape m rd 8 t else t

/-- A rendition of a frame: three channels per pixel of the accepted lines, and the uncorrectable words read. -/
structure Rendered where
  px : Plane (List ℚ)
  bad : List Nat

def renderFrame (m : LutMem) (rd : Nat → Word) (c : ClrIn) (o : ClrOut) : Rendered :=
  let t := tabulate c.width c.height fun x y =>
    if c.raw.has y then render m rd c.nbands (at2 o.bands [] x y) else { v := [], bad := [] }
  { px := t.map fun l => l.map (·.v), bad := ((t.flatMap id).flatMap (·.bad)).eraseDups }

end Sys2Proof.Machine
end

