-- ==== Sys2Proof/Machine/SurfPath.lean ====
section
/-! DEFINITION. The imposition's arithmetic on one surface (R189 to R198): scaling, colour conversion, surface formats and
layout, affected lines and fills. Register offsets are those of Table IMP-1 within a descriptor or a rendition set. -/

namespace Sys2Proof.Machine
open Sys2Proof

/-- A surface descriptor (Table IMP-1). -/
structure Surf where
  rd : Nat → Word

def Surf.on (f : Surf) : Bool := bit (f.rd 0) 31
def Surf.rend (f : Surf) : Nat := field (f.rd 0) 28 24
def Surf.format (f : Surf) : Nat := field (f.rd 0) 23 16
def Surf.fill (f : Surf) : Nat := field (f.rd 0) 15 14
def Surf.corruptDrop (f : Surf) : Bool := bit (f.rd 0) 13
def Surf.narrow (f : Surf) : Bool := bit (f.rd 0) 12
def Surf.matrix (f : Surf) : Nat := field (f.rd 0) 11 10
def Surf.cropX (f : Surf) : Nat := field (f.rd 4) 15 0
def Surf.cropY (f : Surf) : Nat := field (f.rd 4) 31 16
def Surf.cropW (f : Surf) : Nat := field (f.rd 8) 15 0
def Surf.cropH (f : Surf) : Nat := field (f.rd 8) 31 16
def Surf.outW (f : Surf) : Nat := field (f.rd 0xC) 15 0
def Surf.outH (f : Surf) : Nat := field (f.rd 0xC) 31 16
def Surf.alpha (f : Surf) : Nat := field (f.rd 0x10) 7 0

/-- Pool handles of a descriptor; 0 means no entry. -/
def Surf.pool (f : Surf) : List Nat :=
  ((List.range 4).flatMap fun i => [field (f.rd (0x18 + 4 * i)) 15 0, field (f.rd (0x18 + 4 * i)) 31 16]).filter (· ≠ 0)

/-! ### Layout (R197) -/

/-- Bytes and lines of each plane of a format; none for a reserved code (Table IMP-4). -/
def planeDims (fmt w h : Nat) : Option (List (Nat × Nat)) :=
  match fmt with
  | 0x01 => some [(4 * w, h)]
  | 0x02 => some [(4 * w, h)]
  | 0x03 => some [(8 * w, h)]
  | 0x10 => some [(w, h), (w, h / 2)]
  | 0x11 => some [(2 * w, h), (2 * w, h / 2)]
  | 0x12 => some [(w, h), (w, h)]
  | 0x13 => some [(2 * w, h), (2 * w, h)]
  | 0x20 => some [(w, h)]
  | 0x21 => some [(2 * w, h)]
  | 0x22 => some [(2 * w, h), (2 * w, h), (2 * w, h)]
  | 0x23 => some [(2 * ceilDiv w 8, ceilDiv h 8)]
  | _ => none

def strideOf (n : Nat) : Nat := 256 * ceilDiv n 256

/-- Start of each plane, from a first start. -/
def planeStarts : Nat → List (Nat × Nat) → List Nat
  | _, [] => []
  | at_, (n, l) :: r => at_ :: planeStarts (4096 * ceilDiv (at_ + strideOf n * l) 4096) r

/-- Size of a surface buffer. -/
def bufSize (fmt w h : Nat) : Nat :=
  match planeDims fmt w h with
  | some ps =>
    match (planeStarts 4096 ps).getLast?, ps.getLast? with
    | some a, some (n, l) => a + strideOf n * l
    | _, _ => 0
  | none => 0

def Surf.size (f : Surf) : Nat := bufSize f.format f.outW f.outH

/-! ### Scaling (R189, R190) -/

/-- π to 35 decimal places. -/
def piQ : ℚ := 314159265358979323846264338327950288 / 100000000000000000000000000000000000

/-- Terms of the sine series. -/
def sinTerms : Nat → Nat → ℚ → ℚ → ℚ
  | 0, _, _, _ => 0
  | n + 1, k, x2, t => t + sinTerms n (k + 1) x2 (-(t * x2) / ((2 * k + 2) * (2 * k + 3) : Nat))

/-- sin(πt) / (πt). (DEDUCED, log 25) -/
def sincQ (t : ℚ) : ℚ :=
  if t = 0 then 1
  else if t.den = 1 then 0
  else
    let x := piQ * t
    sinTerms 36 0 (x * x) x / x

/-- The kernel of a filter (Table IMP-3). -/
def kernelAt (filt : Nat) (t : ℚ) : ℚ :=
  let a := absQ t
  match filt with
  | 1 => max 0 (1 - a)
  | 2 => if a < 1 then 3 / 2 * a * a * a - 5 / 2 * a * a + 1
    else if a < 2 then -1 / 2 * a * a * a + 5 / 2 * a * a - 4 * a + 2 else 0
  | 3 => if a < 3 then sincQ a * sincQ (a / 3) else 0
  | _ => 0

/-- Half the width of a filter's support, in source pixels at ratio 1. -/
def supportOf : Nat → ℚ
  | 1 => 1
  | 2 => 2
  | 3 => 3
  | _ => 1

/-- Source indices and weights of an output index on one axis, before clamping into the frame (R190). -/
def taps (filt : Nat) (crop cropN outN i : Nat) : List (Int × ℚ) :=
  let r : ℚ := (cropN : ℚ) / (outN : ℚ)
  let xs : ℚ := (crop : ℚ) + ((i : ℚ) + 1 / 2) * r - 1 / 2
  if filt = 0 then [((xs + 1 / 2).floor, 1)]
  else
    let m := max 1 r
    let reach := if filt = 4 then r / 2 + 1 else supportOf filt * m + 1
    let lo := (xs - reach).floor
    let n := ((xs + reach).ceil - lo).toNat + 1
    let raw := (List.range n).map fun (k : Nat) =>
      let j : Int := lo + k
      let w := if filt = 4 then
          max 0 (min ((j : ℚ) + 1 / 2) (xs + r / 2) - max ((j : ℚ) - 1 / 2) (xs - r / 2)) / r
        else kernelAt filt ((rhuQ (((j : ℚ) - xs) * 256) : ℚ) / 256 / m)
      (j, r32 w)
    let ws := raw.filter fun p => decide (p.2 ≠ 0)
    let sum := ws.foldl (fun a p => r32 (a + p.2)) 0
    ws.map fun p => (p.1, r32 (p.2 / sum))

/-- An index taken to the nearest edge of the frame. -/
def clampIdx (j : Int) (n : Nat) : Nat := (clampI j 0 ((n : Int) - 1)).toNat

/-- A scaled surface: three channels per output pixel, and the output lines that are affected (R198). -/
structure Scaled where
  px : Plane (List ℚ)
  affected : List Bool

/-- Source lines and weights of an output line of a frame of `h` lines. -/
def Surf.vTaps (f : Surf) (h y : Nat) : List (Nat × ℚ) :=
  (taps (field (f.rd 0) 6 4) f.cropY f.cropH f.outH y).map fun t => (clampIdx t.1 h, t.2)

/-- The leading output lines whose source lines are all among the first `passed` (R192, R267). -/
def Surf.linesDone (f : Surf) (h passed : Nat) : Nat :=
  ((List.range f.outH).takeWhile fun y => (f.vTaps h y).all fun t => decide (t.1 < passed)).length

def Surf.scale (f : Surf) (w h : Nat) (has : Nat → Bool) (src : Plane (List ℚ)) : Scaled :=
  let hf := field (f.rd 0) 9 7
  let cols := (List.range f.outW).map fun x => (taps hf f.cropX f.cropW f.outW x).map fun t => (clampIdx t.1 w, t.2)
  let rows := (List.range f.outH).map (f.vTaps h)
  let horiz := (List.range h).map fun y => if has y then
    cols.map fun ts => (List.range 3).map fun k => dot (ts.map fun t => (t.2, (at2 src [] t.1 y).getD k 0)) else []
  { px := rows.map fun ts => (List.range f.outW).map fun x =>
      (List.range 3).map fun k => dot (ts.map fun t => (t.2, (at2 horiz [] x t.1).getD k 0))
    affected := rows.map fun ts => ts.any fun t => !(has t.1) }

/-! ### Conversion (R184, R193 to R196) -/

/-- A channel coded in `n` bits (R184). -/
def codeCh (n : Nat) (v : ℚ) : Nat := (rneQ (r32 (clampQ v 0 1 * (2 ^ n - 1 : Nat)))).toNat

/-- Kr and Kb of a matrix (R194). -/
def lumaK : Nat → ℚ × ℚ
  | 0 => (2126 / 10000, 722 / 10000)
  | 1 => (2627 / 10000, 593 / 10000)
  | _ => (299 / 1000, 114 / 1000)

def lumaOf (m : Nat) (p : List ℚ) : ℚ :=
  let k := lumaK m
  dot [(r32 k.1, p.getD 0 0), (r32 (1 - k.1 - k.2), p.getD 1 0), (r32 k.2, p.getD 2 0)]

def cbOf (m : Nat) (p : List ℚ) : ℚ := r32 (r32 (p.getD 2 0 - lumaOf m p) / r32 (2 * (1 - (lumaK m).2)))
def crOf (m : Nat) (p : List ℚ) : ℚ := r32 (r32 (p.getD 0 0 - lumaOf m p) / r32 (2 * (1 - (lumaK m).1)))

/-- A narrow-range or full-range code of luma or chroma in `n` bits (R194). (DEDUCED, log 25) -/
def codeYc (f : Surf) (n : Nat) (chroma : Bool) (v : ℚ) : Nat :=
  if f.narrow then
    let a : ℚ := if chroma then 224 * v + 128 else 219 * v + 16
    let c := codeCh n (r32 (a * (2 ^ (n - 8) : Nat) / (2 ^ n - 1 : Nat)))
    if n = 8 then max 1 (min c 254) else max 4 (min c 1019)
  else codeCh n (if chroma then r32 (v + 1 / 2) else v)

/-- A sample in its container: a byte for 8 bits, bits [15:6] for 10 (R193). -/
def container (n v : Nat) : List Byte := if n = 8 then leBytes 1 v else leBytes 2 (64 * v)

/-- Chroma of a line filtered to half width (R194). -/
def chromaLine (f : Surf) (g : List ℚ → ℚ) (l : List (List ℚ)) : List ℚ :=
  (List.range (f.outW / 2)).map fun i =>
    let c := fun (j : Nat) => g (l.getD (min j (f.outW - 1)) [])
    r32 (r32 (r32 (c (2 * i - 1) + r32 (2 * c (2 * i))) + c (2 * i + 1)) / 4)

/-- Interleaved chroma of a plane line from two filtered lines' means. -/
def chromaBytes (f : Surf) (n : Nat) (cb cr : List ℚ) : List Byte :=
  (cb.zip cr).flatMap fun p => container n (codeYc f n true p.1) ++ container n (codeYc f n true p.2)

def meanQ (a b : List ℚ) : List ℚ := (a.zip b).map fun p => r32 (r32 (p.1 + p.2) / 2)

/-- A colour plane pixel of the packed formats. -/
def packedPixel (f : Surf) (p : List ℚ) : List Byte :=
  let c := fun n k => codeCh n (p.getD k 0)
  match f.format with
  | 0x01 => leBytes 4 ((rneQ ((f.alpha * 3 : Nat) / 255 : ℚ)).toNat * 2 ^ 30 + c 10 0 * 2 ^ 20 + c 10 1 * 2 ^ 10 + c 10 2)
  | 0x02 => leBytes 4 (f.alpha * 2 ^ 24 + c 8 0 * 2 ^ 16 + c 8 1 * 2 ^ 8 + c 8 2)
  | 0x03 => ((List.range 3).flatMap fun k => leBytes 2 (toF16 (p.getD k 0)).toNat)
      ++ leBytes 2 (toF16 ((f.alpha : ℚ) / 255)).toNat
  | _ => []

/-- The EDGE code of a tile (R196). -/
def edgeTile (f : Surf) (y : Plane ℚ) (u v : Nat) : Nat :=
  let x1 := min (8 * u + 8) f.outW
  let y1 := min (8 * v + 8) f.outH
  let d := fun a b => r32 (absQ (r32 (a - b)))
  let e := (List.range (y1 - 8 * v)).foldl (fun e j => (List.range (x1 - 8 * u)).foldl (fun e i =>
    let x := 8 * u + i
    let l := 8 * v + j
    let e := if x + 1 < x1 then r32 (e + d (at2 y 0 (x + 1) l) (at2 y 0 x l)) else e
    if l + 1 < y1 then r32 (e + d (at2 y 0 x (l + 1)) (at2 y 0 x l)) else e) e) 0
  min 0xFFFE (rneQ (r32 (e * f32 (f.rd 0x14)))).toNat

/-- The planes of a surface, line by line (Table IMP-4). -/
def Surf.planes (f : Surf) (s : Scaled) : List (List (List Byte)) :=
  let yc := fun (n : Nat) (half : Bool) =>
    let cb := s.px.map (chromaLine f (cbOf f.matrix))
    let cr := s.px.map (chromaLine f (crOf f.matrix))
    let luma := s.px.map fun l => l.flatMap fun p => container n (codeYc f n false (lumaOf f.matrix p))
    let chroma := if half then
        (List.range (f.outH / 2)).map fun j => chromaBytes f n
          (meanQ (cb.getD (2 * j) []) (cb.getD (2 * j + 1) [])) (meanQ (cr.getD (2 * j) []) (cr.getD (2 * j + 1) []))
      else (cb.zip cr).map fun p => chromaBytes f n p.1 p.2
    [luma, chroma]
  match f.format with
  | 0x10 => yc 8 true
  | 0x11 => yc 10 true
  | 0x12 => yc 8 false
  | 0x13 => yc 10 false
  | 0x20 => [s.px.map fun l => l.flatMap fun p => leBytes 1 (codeCh 8 (lumaOf f.matrix p))]
  | 0x21 => [s.px.map fun l => l.flatMap fun p => leBytes 2 (codeCh 16 (lumaOf f.matrix p))]
  | 0x22 => (List.range 3).map fun k => s.px.map fun l => l.flatMap fun p => leBytes 2 (toF16 (p.getD k 0)).toNat
  | 0x23 =>
    let y := s.px.map fun l => l.map fun p => lumaOf f.matrix (p.map fun v => clampQ v 0 1)
    [(List.range (ceilDiv f.outH 8)).map fun v => (List.range (ceilDiv f.outW 8)).flatMap fun u =>
      leBytes 2 (edgeTile f y u v)]
  | _ => [s.px.map fun l => l.flatMap (packedPixel f)]

/-- Which lines of each plane are affected (R198). -/
def Surf.affectedLines (f : Surf) (a : List Bool) : List (List Bool) :=
  let halfA := (List.range (f.outH / 2)).map fun j => a.getD (2 * j) false || a.getD (2 * j + 1) false
  match f.format with
  | 0x10 => [a, halfA]
  | 0x11 => [a, halfA]
  | 0x12 => [a, a]
  | 0x13 => [a, a]
  | 0x22 => [a, a, a]
  | 0x23 => [(List.range (ceilDiv f.outH 8)).map fun v => (List.range 8).any fun i => a.getD (8 * v + i) false]
  | _ => [a]

/-- A line filled as for BLACK in plane `k` (R198). -/
def Surf.blackLine (f : Surf) (k : Nat) : List Byte :=
  let rep := fun n (l : List Byte) => (List.replicate n l).flatten
  match f.format with
  | 0x10 => if k = 0 then List.replicate f.outW (if f.narrow then 16 else 0) else List.replicate f.outW 128
  | 0x12 => if k = 0 then List.replicate f.outW (if f.narrow then 16 else 0) else List.replicate f.outW 128
  | 0x11 => if k = 0 then rep f.outW (container 10 (if f.narrow then 64 else 0)) else rep f.outW (container 10 512)
  | 0x13 => if k = 0 then rep f.outW (container 10 (if f.narrow then 64 else 0)) else rep f.outW (container 10 512)
  | 0x23 => List.replicate (2 * ceilDiv f.outW 8) 0xFF
  | fmt => zeros (((planeDims fmt f.outW f.outH).getD []).getD k (0, 0)).1

/-- Where affected lines come from: the latest buffer's bytes, with the planes and lines of it that could not be read, or black. -/
inductive FillFrom where
  | black
  | copy (old : List Byte) (badLines : List (Nat × Nat))

/-- A plane with its affected lines filled; whether any line was copied, filled with black, or unreadable. (DEDUCED, log 25) -/
def Surf.fillPlane (f : Surf) (src : FillFrom) (k start stride : Nat) (ls : List (List Byte)) (aff : List Bool) :
    List (List Byte) × Bool × Bool × Bool :=
  let black := f.blackLine k
  let z := (ls.zip aff).zipIdx
  let fill := fun (e : (List Byte × Bool) × Nat) =>
    if e.1.2 then (match src with
      | .black => black
      | .copy old bad => if bad.contains (k, e.2) then black else (old.drop (start + stride * e.2)).take black.length)
    else e.1.1
  let any := aff.any id
  let isBad := match src with
    | .black => false
    | .copy _ bad => z.any fun e => e.1.2 && bad.contains (k, e.2)
  let isCopy := match src with
    | .black => false
    | .copy _ _ => any
  (z.map fill, isCopy, any && !isCopy, isBad)

/-- Plane bytes laid out by line with their strides (R197). -/
def layPlanes : Nat → List (Nat × Nat) → List (List (List Byte)) → List Byte
  | _, [], _ => []
  | _, _, [] => []
  | at_, (n, l) :: ds, p :: ps =>
    let here := p.flatMap fun line => padTo (strideOf n) line
    let size := strideOf n * l
    let next := 4096 * ceilDiv (at_ + size) 4096
    let rest := layPlanes next ds ps
    if ps = [] ∨ ds = [] then padTo size here else padTo (next - at_) here ++ rest

end Sys2Proof.Machine
end

