-- ==== Sys2Proof/Machine/ImpOps.lean ====
section
/-! DEFINITION. Surface handles: their references, allocation and release (R201 to R204, R369), and the room the surface
partition has (R449, R450). -/

namespace Sys2Proof.Machine
open Sys2Proof

/-! ### Values under Locked formes -/

/-- A register's value once a forme's writes apply: data where the mask is 1 (R63). -/
def overlayWord (old data mask : Word) : Word := (old &&& ~~~mask) ||| (data &&& mask)

/-- A register's value under a forme, over the value in force. -/
def formeWord (s : State) (f : Forme) (off : Nat) : Word :=
  match f.writes.find? (fun t => decide (t.off = off)) with
  | some t => overlayWord (regGet s off) t.data t.mask
  | none => regGet s off

/-- The Locked formes, in application order. -/
def lockedFormes (s : State) : List Forme :=
  s.frm.lockedList.filterMap fun i => mGet s.frm.formes i

/-- The values a register has now or will have under a Locked forme. -/
def comingWords (s : State) (off : Nat) : List Word := regGet s off :: (lockedFormes s).map fun f => formeWord s f off

/-! ### References (R202) -/

def surfReg (k off : Nat) : Nat := 0xC0000 + 0x40 * k + off

/-- A pool word names a handle. -/
def poolWordHas (w : Word) (h : Nat) : Bool := decide (field w 15 0 = h) || decide (field w 31 16 = h)

/-- A surface's pool names a handle in the forme in force or in a Locked forme. -/
def inPool (s : State) (h : Nat) : Bool :=
  (List.range 32).any fun k => (List.range 4).any fun i =>
    (comingWords s (surfReg k (0x18 + 4 * i))).any fun w => poolWordHas w h

/-- A surface is writing a handle. -/
def isWriting (s : State) (h : Nat) : Bool :=
  s.imp.writing.any fun w => decide (w.handle = h)

/-- A handle is some surface's latest complete buffer. -/
def isLatest (s : State) (h : Nat) : Bool := s.imp.latest.toList.any fun x => decide (x = h)

/-- Planes that scan a handle. -/
def planeRefs (s : State) (h : Nat) : Nat :=
  (s.dsp.heads.toList.map fun d => (d.planes.toList.filter fun p => decide (p.shown = h)).length).sum

def picReads (h : Nat) (p : EncPic) : Bool := decide (p.handle = some h)

/-- Pictures that read a handle: bound, or being coded. -/
def encRefs (s : State) (h : Nat) : Nat :=
  (s.hev.streams.toList.map fun v => (v.toList.map fun k =>
    (k.waiting.filter (picReads h)).length + (k.cur.toList.filter (picReads h)).length).sum).sum

/-- Host commands that hold a handle. -/
def hostRefs (s : State) (h : Nat) : Nat :=
  (s.hq.queues.map fun q => (q.2.cmds.filter fun c => c.2.holds.any fun x => decide (x = h)).length).sum

/-- Handle windows and image loads of user cores that hold a handle (R399, R401). -/
def userRefs (s : State) (h : Nat) : Nat :=
  ((List.range 64).filter fun i =>
    let w := regGet s (0x1D0040 + 0x100 * (i / 16) + 4 * (i % 16))
    bit w 31 && decide (field w 15 0 = h)).length
  + (s.per.cores.toList.filter fun c => decide (c.loading = some h)).length

/-- Consumer references (IMP.HANDLE_STATE [7:0]). -/
def consumerRefs (s : State) (h : Nat) : Nat := planeRefs s h + encRefs s h + hostRefs s h + userRefs s h

/-- A handle holds a reference other than its pool membership. -/
def heldOutsidePool (s : State) (h : Nat) : Bool :=
  isWriting s h || isLatest s h || decide (0 < consumerRefs s h)

/-- A handle holds a reference (R202). -/
def referenced (s : State) (h : Nat) : Bool := inPool s h || heldOutsidePool s h

/-- RELEASING handles whose last reference has ended become FREE (R203). (DEDUCED, log 8) -/
def sweepHandles (s : State) : State :=
  if s.imp.handles.any (fun p => p.2.releasing) then
    { s with imp := { s.imp with handles := s.imp.handles.filter fun p => !p.2.releasing || referenced s p.1 } }
  else s

def handleOf (s : State) (h : Nat) : Option Handle := mGet s.imp.handles h

/-- A handle is ALLOCATED. -/
def isAllocated (s : State) (h : Nat) : Bool :=
  match handleOf s h with
  | some x => !x.releasing
  | none => false

/-- A handle is ALLOCATED to a party. -/
def allocatedTo (s : State) (p : Party) (h : Nat) : Bool :=
  match handleOf s h with
  | some x => !x.releasing && decide (x.owner = p)
  | none => false

def modHandle (s : State) (h : Nat) (f : Handle → Handle) : State :=
  { s with imp := { s.imp with handles := mMod s.imp.handles h f } }

/-- IMP.HANDLE_STATE of a handle. -/
def handleWord (s : State) (h : Nat) : Word :=
  match handleOf s h with
  | none => 0
  | some x => packFields [(30, if x.releasing then 2 else 1), (9, if isLatest s h then 1 else 0),
      (8, if inPool s h then 1 else 0), (0, min 255 (consumerRefs s h))]

/-! ### Room in the surface partition (R449, R450) -/

def mebi : Nat := 1048576

/-- The largest of a field's present and coming values: from commit to the strobe the partitions around the surface
partition count at their larger size, so that its own counts at the smaller (R450). -/
def largest (s : State) (off hi lo : Nat) : Nat := ((comingWords s off).map fun w => field w hi lo).foldl max 0

/-- MEM.CFG.USABLE in bytes. -/
def usableBytes (s : State) : Nat := regField s 0x170000 15 0 * mebi

/-- Bytes of the fixed regions of Table MEM-3. -/
def fixedBytes : Nat := (256 + 512 + 1024 + 16) * mebi

/-- The surface partition's size in bytes. -/
def surfBytes (s : State) : Nat :=
  usableBytes s - (fixedBytes + largest s 0xD0000 7 0 * 256 * mebi + largest s 0x170044 15 0 * mebi
    + largest s 0x170048 15 0 * mebi)

/-- Bytes of allocated handles. -/
def handleBytes (s : State) : Nat := (s.imp.handles.map fun p => p.2.size).sum

/-- MEM.SURF_FREE: the surface partition in force not allocated, in MiB. -/
def surfFreeMib (s : State) : Nat :=
  let size := usableBytes s - (fixedBytes + regField s 0xD0000 7 0 * 256 * mebi + regField s 0x170044 15 0 * mebi
    + regField s 0x170048 15 0 * mebi)
  (size - handleBytes s) / mebi

/-! ### Allocation and release -/

/-- Handles a party holds. -/
def handlesOf (s : State) (p : Party) : Nat := (s.imp.handles.filter fun h => decide (h.2.owner = p)).length

/-- A party's quota of handles (R342): a VF's own, none for the others. -/
def handleQuota (s : State) : Party → Option Nat
  | .vf n => some s.hq.quotas[n].handles
  | _ => none

/-- The lowest free handle, 1 to 65,535. (DEDUCED, log 26) -/
def lowestHandle (s : State) : Option Nat := mFreeFrom s.imp.handles 65535 1

/-- Size rounded up to 4,096 bytes (R369). -/
def pageUp (n : Nat) : Nat := 4096 * ceilDiv n 4096

/-- Allocation of the lowest free handle (R369): none when no handle, room or quota is left. -/
def allocHandle (s : State) (p : Party) (size : Nat) : Option (Nat × State) :=
  let need := pageUp size
  match lowestHandle s with
  | none => none
  | some h =>
    if handleBytes s + need > surfBytes s ∨ (handleQuota s p).any (fun q => decide (q ≤ handlesOf s p)) then none
    else
      let x : Handle := {
        owner := p, size := need, releasing := false, doneAt := none, bytes := [], born := s.free }
      some (h, { s with free := s.free + 1, imp := { s.imp with handles := mPut s.imp.handles h x } })

/-- A free by a party (R203): none when it fails with INVALID_FIELD; else the status and the state. -/
def freeHandle (s : State) (p : Party) (h : Nat) : Option (Bool × State) :=
  if ¬ allocatedTo s p h then none
  else if referenced s h then some (true, modHandle s h fun x => { x with releasing := true })
  else some (false, { s with imp := { s.imp with handles := mDel s.imp.handles h } })

/-- Every handle of a party is freed under R203 (R373). -/
def freeAllOf (s : State) (p : Party) : State :=
  (s.imp.handles.filter fun x => decide (x.2.owner = p)).foldl (fun s x =>
    match freeHandle s p x.1 with
    | some (_, s) => s
    | none => s) s

/-! ### Buffer contents -/

/-- Bytes of a buffer from an offset; bytes nothing has written since the allocation are free values, drawn at
its allocation (notes/assumptions/3.md). -/
def bufferBytes (s : State) (h off n : Nat) : List Byte :=
  match handleOf s h with
  | none => []
  | some x =>
    let have_ := (x.bytes.drop off).take n
    have_ ++ (List.range (n - have_.length)).map fun i => Config.bufferByte x.born (off + have_.length + i)

/-- Bytes put into a buffer at an offset. -/
def writeBuffer (s : State) (h off : Nat) (l : List Byte) : State :=
  modHandle s h fun x =>
    let head := (x.bytes.take off) ++
      (List.range (off - x.bytes.length)).map fun i => Config.bufferByte x.born (x.bytes.length + i)
    { x with bytes := head ++ l ++ x.bytes.drop (off + l.length) }

/-! ### Complete surfaces (R22, R197, R201, R202) -/

/-- A buffer becomes its surface's latest complete one: its copy of the record is written, and the previous latest loses its mark. -/
def completeSurface (s : State) (k : Fin 32) (w : Writing) (fr : FrameRec) : State :=
  let fr : FrameRec := { fr with status := fr.status ||| w.own }
  let s := writeBuffer s w.handle 0 (recBytes fr)
  let no := s.imp.completions + 1
  let s := modHandle s w.handle fun h => { h with doneAt := some no }
  let s := { s with imp := { s.imp with
    completions := no, latest := s.imp.latest.set k w.handle, lastFr := s.imp.lastFr.set k (some fr),
    writing := s.imp.writing.filter fun x => decide (x ≠ w) } }
  let s := regSet s (surfReg k 0x28) (packFields [(31, 1), (0, w.handle)])
  regSet s (surfReg k 0x2C) fr.ord

/-- A surface's buffer that is written and whose record is sealed becomes complete; a consumer's latch point takes one that completes in its
cycle (R22, R201, R202). (DEDUCED, log 26) -/
def settleSurface (s : State) (k : Fin 32) : State :=
  match s.imp.writing.find? fun w => decide (w.surf = k.val) with
  | some w => match w.fr with
    | some fr => if w.written then completeSurface s k w fr else s
    | none => s
  | none => s

end Sys2Proof.Machine
end

