-- ==== Sys2Proof/Machine/Cycle.lean ====
section
/-! DEFINITION. What every command has in common: the domain it needs, the queue of waiting commands that it leaves as it is, and what
happens at the end of its cycle. -/

namespace Sys2Proof.Machine
open Sys2Proof

/-- The end of a command's cycle: RELEASING handles whose last reference has ended are FREE (R203). A command leaves the commands that wait
as they are, and takes no device time (notes/assumptions/1.md). (DESIGN CHOICE, log 1; DEDUCED, log 8) -/
def endCycle (s t : State) : State := { sweepHandles t with pending := s.pending, now := s.now }

/-- A command of the always-on domain acts while that domain runs (notes/assumptions/4.md). (DEDUCED, log 4) -/
def inAon (s : State) (f : State → State) : Host.Outcome State Fault Refusal :=
  .next (endCycle s (if s.sys.aon then f s else s))

/-- A command of the powered core acts only while the core reset is released (R479, notes/assumptions/4.md). (DEDUCED, log 4) -/
def inCore (s : State) (f : State → State) : Host.Outcome State Fault Refusal :=
  .next (endCycle s (if s.live then f s else s))

end Sys2Proof.Machine
end

