-- ==== Sys2Proof/Machine/TrbPath.lean ====
section
/-! DEFINITION. TRB raw compression of one frame (R206 to R217): planes and blocks, prediction, quantisers, Rice codes,
the hardware loop, the cap, and the frame's bytes. -/

namespace Sys2Proof.Machine
open Sys2Proof

/-- What the engines code: the corrected samples, and what the headers give. -/
structure TrbIn where
  r20 : Plane Nat
  missing : Nat → Bool
  width : Nat
  height : Nat
  px : Nat
  py : Nat
  ped : Nat
  /-- Core edges b_0 to b_N (R130), and the courses. -/
  edges : List Nat
  courses : List Nat
  ratio : Nat
  cap : Nat
  target : Nat
  /-- Starting QI of each section (R217). -/
  q0 : List Nat
  format : Nat
  slot : Nat
  ord : Word
  tag : Nat
  cfaRows : List Word
  /-- Errors in an engine's state: course and block row (R420). -/
  faults : List (Nat × Nat)

/-- Seams of a slot of width `w` on `n` courses (R130). -/
def seams (w n : Nat) : List Nat :=
  (List.range (n + 1)).map fun k => if k = n then w else 64 * (k * w / (64 * n))

/-- The step of a quantiser index (Table TRB-1). -/
def qStep (qi : Nat) : Nat :=
  if qi < 16 then qi + 1 else (18 + 2 * ((qi - 16) % 8)) * 2 ^ ((qi - 16) / 8)

/-! ### Blocks (R207) -/

/-- Columns of plane column index `i` in a section, in frame coordinates. -/
def planeCols (px x0 x1 i : Nat) : List Nat := ((List.range (x1 - x0)).map (x0 + ·)).filter fun x => decide (x % px = i)

/-- Rows of plane row index `j`. -/
def planeRows (py h j : Nat) : Nat := (h + py - 1 - j) / py

/-- A block: plane, block row and column, with its size. -/
structure TBlk where
  p : Nat
  br : Nat
  bc : Nat
  w : Nat
  h : Nat

/-- The blocks of a block row of a section, by plane and then block column. -/
def blocksOfRow (t : TrbIn) (x0 x1 br : Nat) : List TBlk :=
  (List.range (t.px * t.py)).flatMap fun p =>
    let cols := (planeCols t.px x0 x1 (p % t.px)).length
    let rows := planeRows t.py t.height (p / t.px)
    if 8 * br < rows then
      (List.range (ceilDiv cols 32)).map fun bc =>
        { p := p, br := br, bc := bc, w := min 32 (cols - 32 * bc), h := min 8 (rows - 8 * br) }
    else []

/-- Block rows of a section. -/
def blockRows (t : TrbIn) : Nat := ceilDiv (ceilDiv t.height t.py) 8

/-- The samples of a block: plane column, plane row, value, in raster order. -/
def blockSamples (t : TrbIn) (x0 x1 : Nat) (b : TBlk) : List (Nat × Nat × Nat) :=
  let cols := planeCols t.px x0 x1 (b.p % t.px)
  (List.range b.h).flatMap fun dv => (List.range b.w).map fun du =>
    let u := 32 * b.bc + du
    let v := 8 * b.br + dv
    (u, v, at2 t.r20 t.ped (cols.getD u 0) (v * t.py + b.p / t.px))

/-! ### Prediction and coding (R208 to R210) -/

/-- Reconstructions so far of a section, by plane, row and column. -/
abbrev Recon := List ((Nat × Nat × Nat) × Nat)

def Recon.at (r : Recon) (p u v : Nat) : Int :=
  match r.find? fun e => decide (e.1 = (p, u, v)) with
  | some e => (e.2 : Int)
  | none => 0

/-- The prediction of a sample (R208). -/
def predict (ped : Nat) (r : Recon) (p u v : Nat) : Int :=
  let a := r.at p (u - 1) v
  let b := r.at p u (v - 1)
  let c := r.at p (u - 1) (v - 1)
  if u = 0 ∧ v = 0 then ped
  else if v = 0 then a
  else if u = 0 then b
  else if c ≥ max a b then min a b
  else if c ≤ min a b then max a b
  else a + b - c

/-- The quantised residual of an error (R209). -/
def quant (d : Nat) (e : Int) : Int :=
  let q : Int := ((e.natAbs + d / 2) / d : Nat)
  if e < 0 then -q else q

/-- The samples of a block coded at a QI below 63: residuals and reconstructions. -/
def codeSamples (ped qi p : Nat) : List (Nat × Nat × Nat) → Recon → List Int → List Int × Recon
  | [], r, acc => (acc.reverse, r)
  | (u, v, x) :: rest, r, acc =>
    let pr := predict ped r p u v
    let e := quant (qStep qi) ((x : Int) - pr)
    let y := (clampI (pr + e * qStep qi) 0 1048575).toNat
    codeSamples ped qi p rest (((p, u, v), y) :: r) (e :: acc)

/-- A number in `n` bits, most significant first. -/
def bitsOf : Nat → Nat → List Bool
  | 0, _ => []
  | n + 1, v => v.testBit n :: bitsOf n v

/-- A residual's mapped value (R210). -/
def mapRes (e : Int) : Nat := if e ≥ 0 then (2 * e).toNat else (-2 * e - 1).toNat

/-- A Rice code (R210). -/
def rice (k u : Nat) : List Bool :=
  let h := u >>> k
  if h < 24 then List.replicate h true ++ [false] ++ bitsOf k u
  else List.replicate 24 true ++ bitsOf 21 u

/-- The K of a block: 31 when every residual is 0, else the lowest that costs the fewest bits. -/
def chooseK (us : List Nat) : Nat :=
  if us.all (· == 0) then 31
  else
    let cost := fun k => (us.map fun u => (rice k u).length).sum
    (List.range 21).foldl (fun b k => if cost k < cost b then k else b) 0

/-- A block's bits at a QI below 63 (Table TRB-2). -/
def blockBitsAt (qi : Nat) (es : List Int) : List Bool :=
  let us := es.map mapRes
  let k := chooseK us
  bitsOf 6 qi ++ bitsOf 5 k ++ (if k = 31 then [] else us.flatMap (rice k))

/-- A block at the maximum quantiser (R209). -/
def maxBlock (p : Nat) (l : List (Nat × Nat × Nat)) (r : Recon) : List Bool × Recon :=
  let n := l.length
  let v := (2 * (l.map (·.2.2)).sum + n) / (2 * n)
  (bitsOf 6 63 ++ bitsOf 20 v, (l.map fun s => ((p, s.1, s.2.1), v)) ++ r)

/-- The coding state of a section. -/
structure SecSt where
  bits : List (List Bool)
  used : Nat
  left : Nat
  recon : Recon
  qi : Nat
  fell : Bool
  maxN : Nat
  /-- Every block so far has QI 0. -/
  allZero : Bool

/-- One block under the budget of R215: `d` is the data budget in bytes. -/
def codeBlock (t : TrbIn) (x0 x1 d : Nat) (s : SecSt) (b : TBlk) : SecSt :=
  let smp := blockSamples t x0 x1 b
  let qi := if t.ratio = 0 then 0 else s.qi
  let (es, rc) := codeSamples t.ped qi b.p smp s.recon []
  let bs := blockBitsAt qi es
  let after := s.left - 1
  if s.fell ∨ s.used + bs.length + 26 * after > 8 * d then
    let (mb, rc) := maxBlock b.p smp s.recon
    { s with bits := mb :: s.bits, used := s.used + mb.length, left := after, recon := rc, fell := true,
             maxN := s.maxN + 1, allZero := false }
  else { s with bits := bs :: s.bits, used := s.used + bs.length, left := after, recon := rc,
                allZero := s.allZero && decide (qi = 0) }

/-- The hardware loop after a block row (R217): used bytes against t = T_k × (br + 1) / BR, exactly. -/
def loopQi (s : SecSt) (tk br rows : Nat) : Nat :=
  let u : ℚ := (s.used : ℚ) / 8
  let t : ℚ := (tk : ℚ) * (br + 1 : Nat) / (rows : ℚ)
  if u > t + t / 4 then min 62 (s.qi + 2)
  else if u > t + t / 16 then min 62 (s.qi + 1)
  else if u < t - t / 16 then s.qi - 1
  else s.qi

/-- The block rows of a section. An engine whose state is lost codes from that row on at QI 63 (R420). -/
def codeRows (t : TrbIn) (bad : List Nat) (x0 x1 d tk : Nat) : List Nat → SecSt → SecSt
  | [], s => s
  | br :: rest, s =>
    let s := if bad.contains br then { s with fell := true } else s
    let s := (blocksOfRow t x0 x1 br).foldl (codeBlock t x0 x1 d) s
    codeRows t bad x0 x1 d tk rest
      (if t.ratio = 0 ∨ s.fell then s else { s with qi := loopQi s tk br (blockRows t) })

/-- Bits packed most significant first and padded to a multiple of 64 (R211). -/
def packBits : Nat → List Bool → List Byte
  | 0, _ => []
  | n + 1, l =>
    BitVec.ofNat 8 ((List.range 8).foldl (fun a i => 2 * a + (if l.getD i false then 1 else 0)) 0)
      :: packBits n (l.drop 8)

/-- A coded section. -/
structure Sec where
  course : Nat
  bytes : List Byte
  qi : Nat
  fell : Bool
  maxN : Nat
  lossless : Bool

/-- The fixed overhead H (R214). -/
def trbOverhead (height n : Nat) : Nat := 64 + 8 * ceilDiv (ceilDiv height 8) 8 + 8 * n + 8

/-- The data budget D_k of a section (R214). -/
def secBudget (cap height width wk n : Nat) : Nat := 8 * ((cap - trbOverhead height n) * wk / (8 * width)) - 16

/-- Blocks of a section. -/
def secBlocks (t : TrbIn) (x0 x1 : Nat) : Nat := ((List.range (blockRows t)).map fun br => (blocksOfRow t x0 x1 br).length).sum

/-- A section after its first `m` block rows (R207). -/
def secAfter (t : TrbIn) (k m : Nat) : SecSt :=
  let x0 := t.edges.getD k 0
  let x1 := t.edges.getD (k + 1) 0
  let d := secBudget t.cap t.height t.width (x1 - x0) t.courses.length
  let bad := (t.faults.filter fun p => decide (p.1 = t.courses.getD k 0)).map (·.2)
  codeRows t bad x0 x1 d (t.target * (x1 - x0) / t.width) (List.range m)
    { bits := [], used := 0, left := secBlocks t x0 x1, recon := [], qi := t.q0.getD k 0, fell := false, maxN := 0, allZero := true }

/-- One section with its 16-byte header (Table TRB-5). -/
def codeSection (t : TrbIn) (k : Nat) : Sec :=
  let x0 := t.edges.getD k 0
  let x1 := t.edges.getD (k + 1) 0
  let wk := x1 - x0
  let n := secBlocks t x0 x1
  let s := secAfter t k (blockRows t)
  let data := packBits (8 * ceilDiv s.used 64) s.bits.reverse.flatten
  { course := t.courses.getD k 0
    bytes := [BitVec.ofNat 8 (t.courses.getD k 0), 0, 0, 0] ++ leBytes 2 x0 ++ leBytes 2 wk ++ leBytes 4 n
      ++ leBytes 4 data.length ++ data
    qi := s.qi, fell := s.fell, maxN := s.maxN, lossless := s.allZero }

/-- The line map (Table TRB-3). -/
def lineMap (t : TrbIn) : List Byte :=
  padTo (8 * ceilDiv (ceilDiv t.height 8) 8)
    ((List.range (ceilDiv t.height 8)).map fun i =>
      BitVec.ofNat 8 ((List.range 8).foldl (fun a b =>
        a + (if 8 * i + b < t.height ∧ t.missing (8 * i + b) then 2 ^ b else 0)) 0))

/-- The stripe directory from an offset. -/
def directory : Nat → List Sec → List Byte
  | _, [] => []
  | off, s :: r => leBytes 4 off ++ leBytes 4 s.bytes.length ++ directory (off + s.bytes.length) r

/-- The CRC-32 of R117. -/
def crc32 (l : List Byte) : Nat := crcFrom 0xFFFFFFFF l ^^^ 0xFFFFFFFF

/-- The sections of a frame. -/
def trbSections (t : TrbIn) : List Sec := (List.range t.courses.length).map (codeSection t)

/-- The TRB frame (R212, Tables TRB-3 and TRB-4). -/
def trbFrame (t : TrbIn) (host : Bool) (secs : List Sec) : List Byte :=
  let anyMissing := (List.range t.height).any t.missing
  let lm := if anyMissing then lineMap t else []
  let dirOff := 64 + lm.length
  let body := secs.flatMap (·.bytes)
  let total := dirOff + 8 * secs.length + body.length + 8
  let flags := (if secs.all (·.lossless) then 1 else 0) + (if anyMissing then 2 else 0)
    + (if secs.any (·.fell) then 4 else 0)
  let hdr := [0x54#8, 0x52#8, 0x42#8, 0x46#8, 1, BitVec.ofNat 8 flags, BitVec.ofNat 8 secs.length,
      BitVec.ofNat 8 (t.format + (if host then 8 else 0))]
    ++ leBytes 2 t.width ++ leBytes 2 t.height
    ++ [BitVec.ofNat 8 (t.px - 1 + 16 * (t.py - 1)), BitVec.ofNat 8 t.slot] ++ leBytes 2 t.ped
    ++ leBytes 4 t.ord.toNat ++ [BitVec.ofNat 8 t.tag, 0] ++ leBytes 2 t.ratio ++ leBytes 4 total
    ++ leBytes 4 t.cap ++ (t.cfaRows.flatMap fun w => leBytes 4 w.toNat)
  let l := hdr ++ lm ++ directory (dirOff + 8 * secs.length) secs ++ body
  l ++ leBytes 4 (crc32 l) ++ zeros 4

/-- Nominal size N, target T and cap C of a frame (R214). -/
def trbNominal (width height depth : Nat) : Nat := ceilDiv (width * height * depth) 8
def trbTarget (n ratio : Nat) : Nat := if ratio = 0 then n else n * 256 / ratio
def trbCap (t margin : Nat) : Nat := min (t * (256 + margin) / 256) 1073676288

end Sys2Proof.Machine
end

