-- ==== Sys2Proof/Machine/GalOps.lean ====
section
/-! DEFINITION. The galley: fill, reservations, pre-record, and the governor's quantities and decision (R214, R218 to
R226). -/

namespace Sys2Proof.Machine
open Sys2Proof

/-! ### Fill (R218) -/

def galEvent (s : State) (i code : Nat) (sev : Severity) (slot : Nat) (ord : Word) : State :=
  event s .gal i code sev (ctxFrame slot 1 slot 0 ord 0 0) 0

/-- Units of 4 KiB. -/
def units4k (n : Nat) : Nat := ceilDiv n 4096

/-- The galley size in force: GAL.CFG.SIZE × 256 MiB, in 4 KiB units; the smaller of it and a Locked forme's (R450). -/
def galUnits (s : State) : Nat :=
  65536 * ((comingWords s 0xD0000).map fun w => field w 7 0).foldl min (regField s 0xD0000 7 0)

/-- G in bytes. -/
def galBytes (s : State) : Nat := regField s 0xD0000 7 0 * 268435456

def GalItem.isHost (i : GalItem) : Bool := match i.kind with
  | .host .. => true
  | _ => false

/-- F (GAL.FILL) and H (GAL.HOST_FILL), in 4 KiB units. -/
def galFill (s : State) : Nat := ((s.gal.items.filter fun i => !i.isHost).map (·.units)).sum
def hostFill (s : State) : Nat := ((s.gal.items.filter (·.isHost)).map (·.units)).sum

/-- A sealed frame that the galley keeps for pre-record: in no take (R221). -/
def GalItem.preRec (i : GalItem) : Bool := match i.kind with
  | .frame _ => i.ready && i.take.isNone && !i.gap
  | _ => false

/-- GAL.PREREC_FILL. -/
def preRecFill (s : State) : Nat := ((s.gal.items.filter (·.preRec)).map (·.units)).sum

def galFree (s : State) : Nat := galUnits s - galFill s - hostFill s

def setItems (s : State) (l : List GalItem) : State := { s with gal := { s.gal with items := l } }

def modItem (s : State) (ident : Nat) (f : GalItem → GalItem) : State :=
  setItems s (s.gal.items.map fun i => if i.ident = ident then f i else i)

/-- An item's space is freed (R219). -/
def freeItem (s : State) (ident : Nat) : State := setItems s (s.gal.items.filter fun i => decide (i.ident ≠ ident))

def itemOf (s : State) (ident : Nat) : Option GalItem := s.gal.items.find? fun i => decide (i.ident = ident)

/-- The oldest pre-record frame by sealing order. -/
def oldestPreRec (s : State) : Option GalItem :=
  (s.gal.items.filter (·.preRec)).foldl (fun b i => match b with
    | none => some i
    | some j => if i.sealNo < j.sealNo then some i else some j) none

/-- Pre-record frames released, oldest first, until `n` units are free; whether any was (R220). -/
def trimPreRec : Nat → State → Nat → Bool → State × Bool
  | 0, s, _, t => (s, t)
  | k + 1, s, n, t =>
    if galFree s ≥ n then (s, t)
    else match oldestPreRec s with
    | some i => trimPreRec k (freeItem s i.ident) n true
    | none => (s, t)

/-- An item entered. -/
def addItem (s : State) (i : GalItem) : State :=
  { s with gal := { s.gal with items := s.gal.items ++ [{ i with ident := s.gal.nextIdent }],
                               nextIdent := s.gal.nextIdent + 1 } }

def blankItem (s : State) (k : GalKind) (ord : Word) (units : Nat) : GalItem where
  ident := 0
  kind := k
  ord := ord
  units := units
  ready := false
  sealNo := 0
  data := []
  fr := none
  take := none
  gap := false
  corrupt := false
  fset := s.gal.fset
  unit := none

/-- A reservation of `bytes` (R219, R220): the item's identifier, or none when the space is short after every
pre-record frame has been released; PREREC_TRIMMED when one was. -/
def reserveGal (s : State) (k : GalKind) (ord : Word) (bytes slot : Nat) : Option Nat × State :=
  let n := units4k bytes
  let (s1, trimmed) := trimPreRec (s.gal.items.length + 1) s n false
  let s2 := if trimmed then galEvent s1 5 0x06 .info slot ord else s1
  if galFree s2 ≥ n then (some s2.gal.nextIdent, addItem s2 (blankItem s2 k ord n)) else (none, s2)

/-- An item with no content, an index entry with GAP (R250, R268, R336): ready at once, holding nothing. -/
def addGap (s : State) (k : GalKind) (ord : Word) (take : Option Nat) (fr : Option FrameRec) : State :=
  if take.isNone then s
  else
    let i := { blankItem s k ord 0 with ready := true, gap := true, take := take, fr := fr, sealNo := s.gal.nextSeal }
    addItem { s with gal := { s.gal with nextSeal := s.gal.nextSeal + 1 } } i

/-! ### Takes, as the galley sees them (R221) -/

/-- The take that a slot's frame of an ordinal belongs to. -/
def takeOf (s : State) (slot : Nat) (ord : Word) : Option Nat :=
  (s.mag.takeSlots.find? fun t => decide (t.slot = slot) && (match t.last with
    | none => true
    | some l => !later ord l)).map (·.take)

/-- A slot is in a take and goes on. -/
def inTake (s : State) (slot : Nat) : Bool := s.mag.takeSlots.any fun t => decide (t.slot = slot) && t.last.isNone

/-- A take is open. -/
def takeOpen (s : State) : Bool := match s.mag.vol with
  | some v => v.takes.any fun t => decide (t.state = 0)
  | none => false

/-- An item waits to be written to a take. -/
def GalItem.waitsTake (i : GalItem) : Bool := i.ready && i.take.isSome && !i.isHost

/-- A frame or stream unit that cannot be committed: one failure record MAG_LOST, and its space is released (R27, R236). -/
def loseItem (s : State) (i : GalItem) : State :=
  let slot := match i.kind with
    | .frame k => k.val
    | .stream _ k => k
    | .host .. => 0
  let s := if i.gap then s
    else record s 0x0F 0x0F .itemFailed (ctxFrame slot 1 slot 0 i.ord ((i.fr.map (·.tag)).getD 0) 0) 0
  freeItem s i.ident

/-- On a volume that is READ_ONLY no unit begins any more: what waits for one is lost (R27). (DEDUCED, log 28) -/
def loseStuck (s : State) : State :=
  if s.mag.st = .readOnly then (s.gal.items.filter fun i => i.waitsTake && i.unit.isNone).foldl loseItem s else s

/-- The clock of R224's W runs while take units wait to be written. -/
def syncWait (s : State) : State :=
  let s := loseStuck s
  let waits := s.gal.items.any fun i => i.waitsTake && !i.gap
  match s.gal.waitFrom, waits with
  | none, true => { s with gal := { s.gal with waitFrom := some s.now } }
  | some t, false => { s with gal := { s.gal with waitFrom := none, waited := s.gal.waited + (s.now - t) } }
  | _, _ => s

/-- Waiting time so far, in ns. -/
def waitClock (s : State) : Nat := s.gal.waited + (match s.gal.waitFrom with
  | some t => s.now - t
  | none => 0)

/-- Bytes of a take unit's strip programmed (R224's W). -/
def noteWritten (s : State) (bytes : Nat) : State :=
  let c := waitClock s
  { s with gal := { s.gal with written := ((c, bytes) :: s.gal.written).filter fun p => decide (c < p.1 + 250000000) } }

/-! ### Pre-record (R221) -/

/-- Frames of a slot outside any take that fall out of the pre-record span of its newest sealed frame are released;
with MS 0, all of them. -/
def preRecRelease (s : State) (slot : Fin 8) : State :=
  let ms := regField s 0xD0004 15 0
  let mine := s.gal.items.filter fun i => i.preRec && decide (i.kind = .frame slot)
  let newest := (mine.map fun i => (i.fr.map (·.ptp)).getD 0).foldl max 0
  setItems s (s.gal.items.filter fun i =>
    !(i.preRec && decide (i.kind = .frame slot))
      || (decide (ms ≠ 0) && decide (newest ≤ (i.fr.map (·.ptp)).getD 0 + ms * 1000000 * 65536)))

/-! ### Cap and target (R214) -/

def trbCtl (m : SMap Word) (n : Nat) : Word := rmGet m (0xE0000 + 0x40 * n)
def trbRatio (m : SMap Word) (n : Nat) : Word := rmGet m (0xE0004 + 0x40 * n)
def trbOn (m : SMap Word) (n : Nat) : Bool := bit (trbCtl m n) 31
def ratioReg (n : Nat) : Nat := 0xD0080 + 4 * n

/-- Sample bits of a FORMAT code (Table ING-1). -/
def sampleBits (code : Nat) : Nat := 10 + 2 * code

/-! ### The governor (R224, R225) -/

/-- The nominal frame period of a slot in ns under its fields (R39). -/
def nominalPeriod (s : State) (m : SMap Word) (n : Nat) : ℚ :=
  match cadSource m n with
  | 2 => ((rmGet m (expPeriodReg 0)).toNat : ℚ) * (cadDiv m n : ℚ) / (cadMul m n : ℚ)
  | 4 => ((rmGet m (expPeriodReg 2)).toNat : ℚ) * (cadDiv m n : ℚ) / (cadMul m n : ℚ)
  | 3 => ((rmGet m (expPeriodReg 1)).toNat : ℚ) / (1 + (encFpr s : ℚ))
  | _ => nominalNco m n

/-- A slot's frame width, lines and sample depth b′ under its fields (R214). -/
def slotWidth (m : SMap Word) (n : Nat) : Nat := field (rmGet m (0x60000 + 0x200 * n)) 15 0
def slotLines (m : SMap Word) (n : Nat) : Nat := field (rmGet m (0x60000 + 0x200 * n)) 31 16
def slotBits (m : SMap Word) (n : Nat) : Nat := sampleBits (field (rmGet m (0x60004 + 0x200 * n)) 1 0)

/-- T of a slot at a ratio. -/
def slotTarget (s : State) (n : Nat) (ratio : Nat) : Nat :=
  let merge := if bit (rmGet s.regs (0x80000 + 0x1000 * n)) 4 then 4 else 0
  trbTarget (trbNominal (slotWidth s.regs n) (slotLines s.regs n) (slotBits s.regs n + merge)) ratio

/-- a_s: TRB_BYTES over T of the last 8 frames (R224). -/
def govScale (g : GovSlot) : ℚ :=
  let t := (g.last8.map (·.2)).sum
  if t = 0 then 1 else ((g.last8.map (·.1)).sum : ℚ) / (t : ℚ)

/-- I in bytes per second with slot `n` at ratio `r`, the others at theirs. -/
def govInput (s : State) (n : Fin 8) (r : Nat) : ℚ :=
  let slots := (List.finRange 8).filter fun (k : Fin 8) => inTake s k
  let per := slots.map fun (k : Fin 8) =>
    let ratio := if k = n then r else regField s (ratioReg k) 15 0
    let p := nominalPeriod s s.regs k
    if p ≤ 0 then 0 else 1000000000 / p * (slotTarget s k ratio : ℚ) * govScale s.gal.gov[k]
  let recent := s.gal.streamed.filter fun e => decide (s.now < e.1 + 250000000)
  per.sum + 4 * ((recent.map (·.2)).sum : ℚ)

/-- W_g and R_g in units of 1/4 MB/s (R256), with D as the power state allows. -/
def guarDies (s : State) : Nat := if s.mag.power = 1 then min s.mag.dies 4 else s.mag.dies
def guarWrite4 (s : State) : Nat := if s.mag.power ≥ 2 then 0 else 375 * s.mag.chans * guarDies s
def guarRead4 (s : State) : Nat :=
  if s.mag.power ≥ 2 then 0
  else min ((if s.mag.power = 1 then 5000 else 11250) * s.mag.chans) (2800 * s.mag.chans * guarDies s)

/-- W in bytes per second (R224). -/
def govWrite (s : State) : ℚ :=
  let c := waitClock s
  if c < 250000000 then (guarWrite4 s : ℚ) * 250000
  else 4 * (((s.gal.written.filter fun e => decide (c < e.1 + 250000000)).map (·.2)).sum : ℚ)

/-- The ratio in force at a frame boundary after a forme's fields have taken effect: not below BASE, not above RATIO_MAX
(R225). A lossless ratio stays while BASE is lossless. -/
def clampRatio (base rmax r : Nat) : Nat :=
  if r = 0 then (if base = 0 then 0 else base) else if r > rmax then rmax else if base ≠ 0 ∧ r < base then base else r

def setRatio (s : State) (n : Nat) (r : Nat) : State := regSet s (ratioReg n) (BitVec.ofNat 32 r)

def modGov (s : State) (n : Nat) (f : GovSlot → GovSlot) : State :=
  { s with gal := { s.gal with gov := vMod s.gal.gov n f } }

/-- HOLD frames have passed since the last raise; so they have when there was none. (DEDUCED, log 27) -/
def heldLong (g : GovSlot) (hold : Nat) : Bool := match g.sinceRaise with
  | none => true
  | some k => decide (k ≥ hold)

/-- R224's decision for a slot. (DEDUCED, log 27) -/
def governor (s : State) (n : Fin 8) : State :=
  let ord := BitVec.ofNat 32 ((s.ref.slots[n]).issued - 1)
  let base := field (trbRatio s.regs n) 15 0
  let rmax := field (trbRatio s.regs n) 31 16
  let g : ℚ := (galBytes s : ℚ)
  let high : ℚ := g * (regField s 0xD0008 23 16 : ℚ) / 256
  let low : ℚ := g * (regField s 0xD0008 7 0 : ℚ) / 256
  let hold := regField s 0xD000C 31 16
  let down := regField s 0xD000C 15 8
  let up := regField s 0xD000C 7 0
  let horizon : ℚ := (regField s 0xD0010 15 0 : ℚ) / 1000
  let start := regField s 0xD0014 15 0
  let f : ℚ := (galFill s * 4096 : Nat)
  let r := regField s (ratioReg n) 15 0
  let w := govWrite s
  if f + (govInput s n r - w) * horizon ≥ high then
    let s := modGov s n fun x => { x with sinceRaise := some 0 }
    if r = rmax then galEvent s 2 0x03 .degraded n ord
    else
      let r1 := if r = 0 then start else min (r + up) rmax
      galEvent (count (setRatio s n r1) 0xD0054) 0 0x01 .info n ord
  else if f < low ∧ heldLong s.gal.gov[n] hold then
    let rl := if base = 0 ∧ r < start + down then 0 else if r < base + down then base else r - down
    if f + (govInput s n rl - w) * horizon < low ∧ rl ≠ r then
      galEvent (count (setRatio s n rl) 0xD0058) 1 0x02 .info n ord
    else s
  else s

end Sys2Proof.Machine
end

