-- ==== Sys2Proof/Machine/DspOps.lean ====
section
/-! DEFINITION. Display heads and their outputs: latching, planes, composition, locking, eDP and SDI (R287 to R303). -/

namespace Sys2Proof.Machine
open Sys2Proof

def modHead (s : State) (h : Nat) (f : Head → Head) : State :=
  let heads := vMod s.dsp.heads h f
  { s with dsp := { s.dsp with heads := heads } }

def edpReg (p : Nat) : Nat := 0x128000 + 8 * p
def edpStateReg (p : Nat) : Nat := 0x128004 + 8 * p
def sdiReg (q : Nat) : Nat := 0x128020 + 4 * q
def planeReg (h q off : Nat) : Nat := headReg h (0x100 + 0x20 * q + off)

/-! ### The raster (R287) -/

def Head.enabled (x : Head) (h : Nat) : Bool := bit (x.word h 0) 31
def Head.source (x : Head) (h : Nat) : Nat := field (x.word h 0) 30 28
def Head.width (x : Head) (h : Nat) : Nat := field (x.word h 4) 31 16
def Head.height (x : Head) (h : Nat) : Nat := field (x.word h 0xC) 31 16
def Head.hTot (x : Head) (h : Nat) : Nat :=
  x.width h + field (x.word h 4) 15 0 + field (x.word h 8) 31 16 + field (x.word h 8) 15 0
/-- Lines from the frame start to the first active line, and to the vertical front porch. -/
def Head.topLines (x : Head) (h : Nat) : Nat := field (x.word h 0x10) 31 16 + field (x.word h 0x10) 15 0
def Head.vTot (x : Head) (h : Nat) : Nat := x.topLines h + x.height h + field (x.word h 0xC) 15 0

/-- T under the offset in force, in ns (R290, R291). -/
def Head.period (x : Head) (h : Nat) : ℚ := frameNs (x.word h) / (1 + x.d / 1000000)

/-- The instant a number of lines after the frame start. -/
def Head.lineAt (x : Head) (h n : Nat) : ℚ :=
  if x.vTot h = 0 then x.startAt else x.startAt + x.period h * (n : ℚ) / (x.vTot h : ℚ)

/-- The head clock period, in ns: four pixels (R287). -/
def Head.clockNs (x : Head) (h : Nat) : ℚ :=
  if x.hTot h * x.vTot h = 0 then 0 else 4 * x.period h / ((x.hTot h * x.vTot h : Nat) : ℚ)

/-! ### Reference instants (R290) -/

/-- PHASE_OFS. -/
def Head.phase (x : Head) (h : Nat) : ℚ := (sword (x.word h 0x1C) : ℚ)

/-- The spacing of the reference instants on their own axis. -/
def Head.refStep (s : State) (x : Head) (h : Nat) : ℚ :=
  let mul : ℚ := (field (x.word h 0) 19 16 : ℚ)
  if x.source h = 2 then mul * frameNs (x.word h)
  else match headRefPeriod s x h with
    | some p => p * (field (x.word h 0) 15 12 : ℚ)
    | none => mul * frameNs (x.word h)

/-- The first reference instant at or after `t`, in ns of the device time base; none where the source has given none yet. -/
def Head.refAfter (s : State) (x : Head) (h : Nat) (t : ℚ) : Option ℚ :=
  match x.source h with
  | 0 => some t
  | 2 =>
    let skew := axisNow s true - axisNow s false
    some (gridFrom (t + skew) (x.phase h) (x.refStep s h) - skew)
  | _ => x.align.map fun a => gridFrom t ((a : ℚ) + x.phase h) (x.refStep s h)

/-- The reference is there: the genlock input is locked, the PTP servo is locked, the slot is unmasked (R292). -/
def Head.refGood (s : State) (x : Head) (h : Nat) : Bool :=
  match x.source h with
  | 1 => decide (s.ref.inputs[0].st = .locked)
  | 2 => decide (regField s 0x15003C 31 30 = 2)
  | 3 => unmasked s (field (x.word h 0) 25 23)
  | _ => false

/-! ### Planes (R293 to R297) -/

/-- Bytes per pixel of a plane format (Table DSP-4). -/
def planeBytes : Nat → Nat
  | 0x01 => 4 | 0x02 => 4 | 0x03 => 8 | 0x30 => 2 | 0x31 => 2 | 0x32 => 3
  | _ => 0

/-- The buffer a plane's rectangle needs (R197, R294). -/
def planeNeed (fmt w h : Nat) : Nat := pageUp (4096 + strideOf (w * planeBytes fmt) * h)

/-- A code of `n` bits as a colour value (R296). -/
def codeVal (n k : Nat) : ℚ := r32 ((k : ℚ) / ((2 ^ n - 1 : Nat) : ℚ))

/-- A binary16 channel clamped to 0 to 1; a NaN's value is free (notes/assumptions/3.md). -/
def halfVal (k : Nat) : ℚ :=
  let b := BitVec.ofNat 16 k
  if f16Bad b then (if k % 1024 ≠ 0 then ((Config.freeNat k % 1025 : Nat) : ℚ) / 1024 else if k ≥ 32768 then 0 else 1)
  else clampQ (f16 b) 0 1

/-- Colour and alpha of a pixel of a plane format, from its bytes (Table DSP-4, R296). -/
def planePixel (fmt : Nat) (l : List Byte) : List ℚ × ℚ :=
  let v := ofLe l
  let at_ := fun lo n => v / 2 ^ lo % 2 ^ n
  match fmt with
  | 0x01 => ([codeVal 10 (at_ 20 10), codeVal 10 (at_ 10 10), codeVal 10 (at_ 0 10)], codeVal 2 (at_ 30 2))
  | 0x02 => ([codeVal 8 (at_ 16 8), codeVal 8 (at_ 8 8), codeVal 8 (at_ 0 8)], codeVal 8 (at_ 24 8))
  | 0x03 => ([halfVal (at_ 0 16), halfVal (at_ 16 16), halfVal (at_ 32 16)], halfVal (at_ 48 16))
  | 0x30 => ([codeVal 5 (at_ 11 5), codeVal 6 (at_ 5 6), codeVal 5 (at_ 0 5)], 1)
  | 0x31 => ([codeVal 5 (at_ 10 5), codeVal 5 (at_ 5 5), codeVal 5 (at_ 0 5)], codeVal 1 (at_ 15 1))
  | _ => ([codeVal 8 (at_ 16 8), codeVal 8 (at_ 8 8), codeVal 8 (at_ 0 8)], 1)

/-- A plane over a colour at an active-area pixel: c = a × s + (1 − a) × c, in binary32 (R296). -/
def overPlane (s : State) (x : Head) (h : Nat) (q : Fin 4) (px py : Nat) (c : List ℚ) : List ℚ :=
  let pl := x.planes[q]
  let cfg := rmGet x.cfg (planeReg h q.val 0)
  let pos := rmGet x.cfg (planeReg h q.val 4)
  let x0 := field pos 15 0
  let y0 := field pos 31 16
  if ¬ bit cfg 31 ∨ pl.shown = 0 ∨ px < x0 ∨ py < y0 ∨ px ≥ x0 + pl.w ∨ py ≥ y0 + pl.h ∨ py ∈ pl.clear then c
  else
    let bpp := planeBytes pl.fmt
    let off := 4096 + strideOf (pl.w * bpp) * (py - y0) + bpp * (px - x0)
    let (col, al) := planePixel pl.fmt (bufferBytes s pl.shown off bpp)
    let a := r32 (r32 (al * (field cfg 7 0 : ℚ)) / 255)
    let b := r32 (1 - a)
    (List.range 3).map fun k => r32 (r32 (a * col.getD k 0) + r32 (b * c.getD k 0))

/-- The composed colour of an active pixel (R296); a pixel that was not delivered takes the background (R297). -/
def composeAt (s : State) (x : Head) (h : Nat) (late : List (Nat × Nat × Nat)) (px py : Nat) : List ℚ :=
  let bg := x.word h 0x24
  let c := [codeVal 10 (field bg 29 20), codeVal 10 (field bg 19 10), codeVal 10 (field bg 9 0)]
  if late.any fun l => decide (l.1 = py) && decide (l.2.1 ≤ px) && decide (px < l.2.1 + l.2.2) then c
  else (List.finRange 4).foldl (fun c q => overPlane s x h q px py c) c

/-- The composed picture of a head. -/
def composeHead (s : State) (h : Nat) (x : Head) (late : List (Nat × Nat × Nat)) : Plane (List ℚ) :=
  tabulate (x.width h) (x.height h) (composeAt s x h late)

/-- A handle written: of those of earlier cycles that no latch has taken, the last one stays (R293). -/
def PlaneSt.wrote (x : PlaneSt) (tick n : Nat) : PlaneSt :=
  { x with writes := (tick, n) :: (x.writes.find? fun w => decide (w.1 ≠ tick)).toList }

/-- A plane that shows no handle any more keeps no reference; the handle last written is checked anew when it comes to show one again.
(DEDUCED, log 32) -/
def PlaneSt.letGo (x : PlaneSt) (reg : Nat) : PlaneSt :=
  if x.kept = 0 then x else { x with kept := 0, writes := if x.writes = [] then [(0, reg)] else x.writes }

/-- A plane latches (R293, R294): the latest complete buffer of its surface, or the handle last written unless it is refused. -/
def latchPlane (s : State) (h : Fin 6) (q : Fin 4) : State :=
  let x := s.dsp.heads[h]
  let cfg := rmGet x.cfg (planeReg h.val q.val 0)
  let size := rmGet x.cfg (planeReg h.val q.val 8)
  let old := x.planes[q]
  let put := fun (s : State) (n : PlaneSt) =>
    let s := modHead s h fun x => { x with planes := x.planes.set q n }
    regSet s (planeReg h.val q.val 0x10) (packFields [(31, if n.shown = 0 then 0 else 1), (0, n.shown)])
  let reg := regField s (planeReg h.val q.val 0xC) 15 0
  if ¬ bit cfg 31 ∨ ¬ x.enabled h.val then put s { old.letGo reg with shown := 0, clear := [] }
  else if ¬ bit cfg 30 then
    let k := field cfg 28 24
    let s := settleSurface s ⟨k % 32, Nat.mod_lt k (by decide)⟩
    let n := s.imp.latest.toList.getD k 0
    put s { old.letGo reg with
      shown := n, w := regField s (surfReg k 0xC) 15 0, h := regField s (surfReg k 0xC) 31 16,
      fmt := regField s (surfReg k 0) 23 16 }
  else
    let w := field size 15 0
    let hh := field size 31 16
    let fmt := field cfg 23 16
    let rest := old.writes.filter fun w => decide (w.1 = s.now)
    match old.writes.find? fun w => decide (w.1 ≠ s.now) with
    | none => put s { old with shown := old.kept, w := w, h := hh, fmt := fmt }
    | some (_, n) =>
      let old : PlaneSt := { old with w := w, h := hh, fmt := fmt, writes := rest }
      if n = 0 ∨ (isAllocated s n ∧ planeNeed fmt w hh ≤ ((handleOf s n).map (·.size)).getD 0) then
        put s { old with shown := n, kept := n }
      else
        let s := count s (headReg h.val 0x3C)
        let s := event s .dsp 5 0x06 .info (ctxUnit 4 h.val q.val n) 0
        put s { old with shown := old.kept }

/-! ### Outputs (R298 to R302) -/

/-- A port's state put into place, with DSP.EDPp_STATE. -/
def setEdp (s : State) (p : Nat) (x : EdpPort) : State :=
  let ports := vMod s.dsp.ports p fun _ => x
  regSet { s with dsp := { s.dsp with ports := ports } } (edpStateReg p)
    (packFields [(29, x.st), (27, x.lanes), (25, x.rate), (21, x.setup)])

/-- A forme's fields latch on an eDP port: a port that is enabled trains, and a failed one trains again (R299); a port that is disabled,
or whose head is, goes quiet (R298). -/
def latchEdp (s : State) (p : Fin 2) : State :=
  let x := s.dsp.ports[p]
  let w := regGet s (edpReg p.val)
  let headOn := (s.dsp.heads.toList[field w 30 28]?).any fun h => h.enabled (field w 30 28)
  if ¬ bit w 31 ∨ headOn = false then
    if x.st = 0 ∧ x.cfg = w then s else setEdp s p { x with st := 0, unchanged := 0, wake := 0, cfg := w }
  else if x.st = 0 ∨ (x.cfg ≠ w ∧ (x.st = 4 ∨ field x.cfg 30 22 ≠ field w 30 22)) then
    setEdp s p { x with st := 1, unchanged := 0, wake := 0, cfg := w }
  else setEdp s p { x with cfg := w }

/-- The outputs of a head latch (Table FRM-9): those that name it in the fields in force or in the fields to come. -/
def latchOutputs (s : State) (h : Nat) : State :=
  let s := (List.finRange 2).foldl (fun s (p : Fin 2) =>
    if field s.dsp.ports[p].cfg 30 28 = h ∨ regField s (edpReg p.val) 30 28 = h then latchEdp s p else s) s
  (List.finRange 4).foldl (fun s (q : Fin 4) =>
    if field s.dsp.sdi[q] 30 28 = h ∨ regField s (sdiReg q.val) 30 28 = h then
      let sdi := s.dsp.sdi.set q (regGet s (sdiReg q.val))
      { s with dsp := { s.dsp with sdi := sdi } }
    else s) s

/-- A surface of 4:2:2 narrow range, for R194's conversion of a width under a matrix. -/
def ycSurf (w : Nat) (narrow : Bool) (m : Nat) : Surf where
  rd := fun off => if off = 0 then packFields [(12, if narrow then 1 else 0), (10, m)]
    else if off = 0xC then BitVec.ofNat 32 w else 0

/-- A line as 4:2:2 codes, Cb Y Cr Y by pixel pair (R194, R302). -/
def ycLine (n w : Nat) (narrow : Bool) (m : Nat) (l : List (List ℚ)) : List Nat :=
  let f := ycSurf w narrow m
  let y := l.map fun p => codeYc f n false (lumaOf m p)
  let cb := (chromaLine f (cbOf m) l).map (codeYc f n true)
  let cr := (chromaLine f (crOf m) l).map (codeYc f n true)
  (List.range (w / 2)).flatMap fun i => [cb.getD i 0, y.getD (2 * i) 0, cr.getD i 0, y.getD (2 * i + 1) 0]

/-- Output `q`'s image of an 8K picture in two-sample interleave (R302). -/
def quadPart (q : Nat) (pic : Plane (List ℚ)) : Plane (List ℚ) :=
  ((List.range (pic.length / 2)).map fun j => pic.getD (2 * j + q / 2) []).map fun l =>
    (List.range (l.length / 2)).map fun i => l.getD (4 * (i / 2) + 2 * (q % 2) + i % 2) []

/-- An SDI output's matrix: 0 BT.709, 1 BT.2020. -/
def sdiLines (w : Word) (pic : Plane (List ℚ)) : List (List Nat) :=
  pic.map fun l => ycLine 10 l.length true (field w 26 25) l

/-- A picture in the codes of an eDP port's BPC (R184, R296). -/
def edpLines (w : Word) (pic : Plane (List ℚ)) : List (List Nat) :=
  let n := match field w 23 22 with
    | 0 => 6 | 1 => 8 | _ => 10
  pic.map fun l => l.flatMap fun p => (List.range 3).map fun k => codeCh n (p.getD k 0)

/-- A frame scanned out to the outputs that carry the head (R298, R301, R302); a panel whose sink sets up after self-refresh goes on showing its
own frame (R300). (DEDUCED, log 32) -/
def scanOut (s : State) (h : Nat) (pic : Plane (List ℚ)) : State :=
  let s := (List.finRange 2).foldl (fun s (p : Fin 2) =>
    let x := s.dsp.ports[p]
    if x.st ≠ 2 ∨ field x.cfg 30 28 ≠ h then s
    else if x.wake = 0 then emit s (.scan p.val (edpLines x.cfg pic))
    else setEdp s p { x with wake := x.wake - 1 }) s
  let c0 := s.dsp.sdi[0]
  if bit c0 31 ∧ bit c0 27 then
    if field c0 30 28 = h then
      (List.range 4).foldl (fun s q => emit s (.scan (2 + q) (sdiLines c0 (quadPart q pic)))) s
    else s
  else (List.finRange 4).foldl (fun s (q : Fin 4) =>
    let c := s.dsp.sdi[q]
    if bit c 31 ∧ field c 30 28 = h then emit s (.scan (2 + q.val) (sdiLines c pic)) else s) s

/-! ### Latching a forme (R289) -/

/-- The forme fields of a head and its planes (Tables DSP-2 and DSP-3). -/
def headSlice (s : State) (h : Nat) : SMap Word :=
  (rmSlice s.regs (headReg h 0) (headReg h 0x180)).filter fun p =>
    decide (p.1 < headReg h 0x28) || (decide (headReg h 0x100 ≤ p.1) && decide (p.1 % 0x20 < 0xC))

/-- What restarts a raster when a forme changes it: enable, clock source, MUL and DIV, timing and pixel rate (R289). -/
def rasterKey (rd : Nat → Word) : List Word :=
  let ctl := rd 0
  [ctl &&& (if field ctl 30 28 = 3 then 0xFF8FF000#32 else 0xF00FF000#32), rd 4, rd 8, rd 0xC, rd 0x10, rd 0x14, rd 0x18]

/-- The clock fields: what restarts the raster, with PHASE_OFS and PULL (R292). -/
def clockKey (rd : Nat → Word) : List Word := rasterKey rd ++ [rd 0x1C, rd 0x20]

/-- A head's fields latch. A new raster may start once the front porch in progress has ended; a head with nothing to follow starts at
once. A head that is disabled goes off. -/
def latchHead (s : State) (h : Fin 6) : State :=
  let x := s.dsp.heads[h]
  let cfg := headSlice s h.val
  if cfg = x.cfg then s
  else
    let rd := fun off => rmGet cfg (headReg h.val off)
    let restart : Bool := decide (rasterKey rd ≠ rasterKey (x.word h.val))
    let clock : Bool := decide (clockKey rd ≠ clockKey (x.word h.val))
    let free := if x.raster then x.startAt + x.period h.val else (s.now : ℚ)
    let s := modHead s h fun x =>
      let x := { x with cfg := cfg, formed := true }
      let x := if clock then { x with offRange := false, good := 0, atPull := 0 } else x
      if restart then { x with raster := false, waitFrom := free, frame := 0, d := 0, edges := 0, align := none } else x
    if ¬ bit (rd 0) 31 then
      regSet (setHeadSt s h .off) (headReg h.val 0x30) 0
    else if restart then regSet (setHeadSt s h .seeking) (headReg h.val 0x30) 0
    else if clock ∧ x.offRange then setHeadSt s h .seeking else s

/-- A head that scans nothing latches at once: it has no latch instant to wait for (notes/assumptions/11.md). (DEDUCED, log 11) -/
def latchIdleHead (s : State) (h : Fin 6) : State :=
  if s.dsp.heads[h].raster then s
  else
    let s := latchOutputs (latchHead s h) h.val
    (List.finRange 4).foldl (fun s q => latchPlane s h q) s

end Sys2Proof.Machine
end

