-- ==== Sys2Proof/Machine/PtpOps.lean ====
section
/-! DEFINITION. The PTP clock: its advance, steps, servo and their effect on the slots and heads that follow it (R48, R315 to
R318), and the idle tick of the block. -/

namespace Sys2Proof.Machine
open Sys2Proof

def ptpStateReg : Nat := 0x15003C
def ptpEvent (s : State) (i code : Nat) (sev : Severity) (ctx : Ctx) : State := event s .ptp i code sev ctx 0

/-- INC: round(f × 2³² / 10⁹), in 2⁻³² ns (R315). (DEDUCED, log 12) -/
def ptpInc (f : ℚ) : Int := (f * 4294967296 / 1000000000 + 1 / 2).floor

/-- One tick of domain 33: 1 ns of device time, and 1 ns + INC × 2⁻³² ns of the PTP clock (R31, R315). -/
def tick (s : State) : State :=
  let total : Int := (s.ptpNow * 65536 + s.net.sub : Nat) + 4294967296 + ptpInc s.net.f
  let t := total.toNat
  { s with now := s.now + 1, ptpNow := t / 65536, net := { s.net with sub := t % 65536 } }

/-- What the block does on an empty queue: one tick passes, while its core runs; else only the device time base of the always-on domain
does (notes/assumptions/1.md). (DESIGN CHOICE, log 1) -/
def idle (s : State) : State := if s.live then tick s else { s with now := s.now + 1 }

/-! ### Master audio ports, whose word clock is the PTP clock's (R328) -/

def audReg (a off : Nat) : Nat := 0x160000 + 0x100 * a + off
def AudPort.word (x : AudPort) (a off : Nat) : Word := rmGet x.cfg (audReg a off)
def AudPort.enabled (x : AudPort) (a : Nat) : Bool := bit (x.word a 0) 31
def AudPort.master (x : AudPort) (a : Nat) : Bool := bit (x.word a 0) 30
def AudPort.rate (x : AudPort) (a : Nat) : Nat := field (x.word a 4) 17 0

/-- The latest sample of a master port whose instant has come. -/
def masterNow (s : State) (x : AudPort) (a : Nat) : Nat :=
  (((ptpTime s : Int) - sword (x.word a 8) * 65536).toNat * x.rate a) / (1000000000 * 65536)

/-- The word clock of the master ports follows a step to the time `t`: the next sample is the first one due after it (R328). -/
def stepAudio (s : State) (t : Nat) : State :=
  let at_ : State := { s with ptpNow := t, net := { s.net with stepped := none } }
  { s with aud := Vector.ofFn fun (a : Fin 8) =>
    let x := s.aud[a]
    if x.master a.val ∧ x.sample.isSome then { x with sample := some (masterNow at_ x a.val + 1) } else x }

/-- A step of the clock by `d`, in 2⁻¹⁶ ns: samples taken in its tick read the old time (R317). A cadence counted on the PTP axis is not
stepped: its next instant moves with the clock (R48). (DEDUCED, log 33) -/
def stepPtp (s : State) (d : Int) : State :=
  let t := ((s.ptpNow : Int) + d).toNat
  let net := { s.net with stepped := some (s.now, (t : Int) - (ptpTime s : Int)) }
  let s := { stepAudio s t with ptpNow := t, net := net }
  let slots := s.ref.slots.map fun c =>
    if c.ptpAxis then { c with next := c.next.map fun t => t + (d : ℚ) / 65536 } else c
  { s with ref := { s.ref with slots := slots } }

/-- A slot issues frames from the PTP source. -/
def onPtp (s : State) (n : Fin 8) : Bool := (s.ref.slots[n]).on && decide (sourceNow s n = 1)

/-- The servo is no longer locked: PTP slots enter holdover (R48), and so do PTP heads (R292). -/
def ptpUnlocked (s : State) : State :=
  let s := forSlots s fun s n =>
    if onPtp s n then
      let p := fixedPeriod s n ((s.ref.slots[n]).issued - 1)
      modCad s n fun c => { c with st := .holdover, hold := some p }
    else s
  headsLose s 2 0

/-- The servo is locked: PTP slots slew when their phase error is 1/256 line time or more, and are locked at once otherwise (R48). -/
def ptpLocked (s : State) : State :=
  let s := forSlots s fun s n =>
    if ¬ onPtp s n then s
    else
      let c := s.ref.slots[n]
      let m := tagRegs s n (expectedTag s n c.issued)
      let e := (phaseError s n m (c.next.getD 0) (nominalNco m n)).getD 0
      let l := lineTimeOf m n
      let big : Bool := decide (e ≥ l / 256) || decide (-e ≥ l / 256)
      modCad s n fun c => { c with st := if big then .slewing else .locked, hold := none, err := e }
  headsRegain s 2 0

/-- PTP.STATE: servo state and consecutive offsets within LOCK_THRESH. -/
def setServo (s : State) (st : Nat) : State := regSet s ptpStateReg (packFields [(30, st), (0, min 255 s.net.small)])

/-- PTP.FREQ: f in 1/256 ppb. -/
def showFreq (s : State) : State := regSet s 0x150038 (wordOfInt (s.net.f * 256).floor)

/-- The servo on a measured offset of `o` units of 2⁻¹⁶ ns (R317, R318), in exact arithmetic (notes/assumptions/12.md). (DEDUCED, log 12) -/
def servo (s : State) (units : Int) : State :=
  let o : ℚ := (units : ℚ) / 65536
  let fmax : ℚ := (regField s 0x15001C 18 0 : ℚ)
  let st := regField s ptpStateReg 31 30
  let clampF := fun (x : ℚ) => max (-fmax) (min x fmax)
  let big : Bool := decide (absQ o > ((regGet s 0x150020).toNat : ℚ))
  let small := if absQ o < ((regGet s 0x150024).toNat : ℚ) then s.net.small + 1 else 0
  let isLocked : Bool := decide (st = 2)
  let s := { s with net := { s.net with lastOfs := some s.now, small := small } }
  let s := if big = true ∧ isLocked = false ∧ s.net.prevBig = true ∧ regBit s 0x150010 30 = true then
      ptpEvent (stepPtp s (-units)) 3 0x04 .degraded (ctxUnit 0 0 0 0)
    else
      let integ := clampF (s.net.integ + f32 (regGet s 0x150018) * o)
      let f := -(clampF (f32 (regGet s 0x150014) * o + integ))
      let lim := if f = fmax ∨ f = -fmax then s.net.atLimit + 1 else 0
      let s := showFreq { s with net := { s.net with integ := integ, f := f, atLimit := lim } }
      if lim = 64 then ptpEvent s 4 0x05 .degraded (ctxUnit 0 0 0 0) else s
  let s := { s with net := { s.net with prevBig := big } }
  if isLocked then
    if big then
      let s := setServo s 1
      ptpEvent (ptpUnlocked s) 1 0x02 .degraded (ctxUnit 0 0 0 0)
    else setServo s 2
  else if small ≥ 16 then
    let s := setServo s 2
    ptpEvent (ptpLocked s) 0 0x01 .info (ctxUnit 0 0 0 0)
  else setServo s 1

/-- The servo is switched off: f is 0 and the clock runs free (R318). -/
def servoOff (s : State) : State :=
  let was := regField s ptpStateReg 31 30
  let net := { s.net with f := 0, integ := 0, prevBig := false, small := 0, atLimit := 0, lastOfs := none }
  let s := showFreq (setServo { s with net := net } 0)
  if was = 2 then ptpUnlocked s else s

end Sys2Proof.Machine
end

