-- ==== Sys2Proof/Machine/NetOps.lean ====
section
/-! DEFINITION. ST 2110 packets and the interfaces they leave on (R304 to R314). -/

namespace Sys2Proof.Machine
open Sys2Proof

def portReg (p off : Nat) : Nat := 0x140000 + 0x400 * p + off
def sndReg (i off : Nat) : Nat := 0x141000 + 0x80 * i + off
def netEvent (s : State) (i code : Nat) (sev : Severity) (ctx : Ctx) : State := event s .net i code sev ctx 0

def modSnd (s : State) (i : Nat) (f : Sender → Sender) : State :=
  let snds := vMod s.net.snds i f
  { s with net := { s.net with snds := snds } }

def sndSlice (s : State) (i : Nat) : SMap Word := rmSlice s.regs (sndReg i 0) (sndReg i 0x38)
def Sender.word (x : Sender) (i off : Nat) : Word := rmGet x.cfg (sndReg i off)

/-- A port is enabled, and has an interface `f` in its mode (R304). -/
def hasIface (w : Word) (f : Nat) : Bool := bit w 31 && (bit w 30 || decide (f = 0))

/-- LINK_UP of an interface. -/
def ifUp (s : State) (p f : Nat) : Bool := regBit s (portReg p 0x80) f

/-- An interface's link drops (R306). -/
def ifDown (s : State) (p f : Nat) : State :=
  if ¬ ifUp s p f then s
  else
    let s := regSet s (portReg p 0x80) (clrBit (clrBit (regGet s (portReg p 0x80)) f) (4 + f))
    netEvent (count s (portReg p 0x9C)) 1 0x02 .degraded (ctxUnit 5 p f 0)

/-- A forme's port fields latch: a change of MODE or FEC, or a disable, takes the port's links down (R306). -/
def latchPorts (s : State) : State :=
  (List.finRange 2).foldl (fun s (p : Fin 2) =>
    let w := regGet s (portReg p.val 0)
    if w = s.net.ports[p] then s
    else
      let s := (List.range 4).foldl (fun s f => ifDown s p.val f) s
      let ports := s.net.ports.set p w
      { s with net := { s.net with ports := ports } }) s

/-! ### Packets (R307) -/

/-- A ones'-complement sum of 16-bit words, folded. -/
def onesSum (l : List Byte) : Nat :=
  let t := ((List.range (ceilDiv l.length 2)).map fun i => (byteAt l (2 * i)).toNat * 256 + (byteAt l (2 * i + 1)).toNat).sum
  let t := t % 65536 + t / 65536
  t % 65536 + t / 65536

/-- Which of a sender's two paths: register offsets of its destination. -/
def pathOff (b : Bool) : Nat := if b then 0x10 else 0

/-- An Ethernet frame without its FCS: addresses, VLAN tag, IPv4 with DF set and identification 0, UDP with checksum 0 (R307). -/
def sndFrame (s : State) (i : Nat) (x : Sender) (port iface : Nat) (b : Bool) (pay : List Byte) : List Byte :=
  let o := pathOff b
  let dst := (x.word i (0x10 + o)).toNat + field (x.word i (0x14 + o)) 15 0 * 2 ^ 32
  let src := (regGet s (portReg port (0x14 + 0x10 * iface))).toNat
    + field (regGet s (portReg port (0x18 + 0x10 * iface))) 15 0 * 2 ^ 32
  let vlan := x.word i 0x30
  let tag := if bit vlan 31 then beBytes 2 0x8100 ++ beBytes 2 (field vlan 14 12 * 8192 + field vlan 11 0) else []
  let rtp := x.word i 0x28
  let udp := x.word i (0xC + o)
  let ipHead := fun (sum : Nat) => [0x45, BitVec.ofNat 8 (4 * field rtp 7 2)] ++ beBytes 2 (28 + pay.length)
    ++ [0, 0, 0x40, 0, BitVec.ofNat 8 (field rtp 15 8), 17] ++ beBytes 2 sum
    ++ beBytes 4 (regGet s (portReg port (0x10 + 0x10 * iface))).toNat ++ beBytes 4 (x.word i (0x8 + o)).toNat
  let ip := ipHead (65535 - onesSum (ipHead 0))
  beBytes 6 dst ++ beBytes 6 src ++ tag ++ [0x08, 0x00] ++ ip
    ++ beBytes 2 (field udp 15 0) ++ beBytes 2 (field udp 31 16) ++ beBytes 2 (8 + pay.length) ++ [0, 0] ++ pay

/-- The RTP header (R307): version 2, marker, payload type, sequence number, time-stamp, SSRC. -/
def rtpHead (x : Sender) (i seq ts : Nat) (marker : Bool) : List Byte :=
  [0x80, BitVec.ofNat 8 ((if marker then 128 else 0) + field (x.word i 0x28) 22 16)] ++ beBytes 2 seq ++ beBytes 4 ts
    ++ beBytes 4 (x.word i 0x2C).toNat

/-! ### Frames and packet times that senders take up (R307, R309 to R311) -/

def Sender.on (x : Sender) (i : Nat) : Bool := bit (x.word i 0) 31
/-- KIND: 0 video, 1 audio, 2 timecode. -/
def Sender.kind (x : Sender) (i : Nat) : Nat := field (x.word i 0) 30 29

/-- A sender's head, with its number. -/
def sndHead (s : State) (x : Sender) (i : Nat) : Option (Nat × Head) :=
  let h := field (x.word i 4) 26 24
  (s.dsp.heads.toList[h]?).map fun y => (h, y)

/-- Packet time in ns. -/
def groupNs (ctl : Word) : Nat := if bit ctl 21 then 125000 else 1000000

/-- An audio sender's fields latch: the first packet is that of the first packet time to begin, and another one than before where the format
of its packets changes. (DEDUCED, log 33) -/
def latchAudio (s : State) (x : Sender) (i : Nat) : Sender :=
  let fresh : Sender := { x with cfg := sndSlice s i, frame := none }
  let p := groupNs (fresh.word i 0) * 65536
  let key := fun (y : Sender) => (y.on i, y.kind i, field (y.word i 0) 21 20)
  if key x = key fresh ∧ x.group.isSome then fresh else { fresh with group := some (ceilDiv (ptpTime s) p), got := [] }

/-- More packets than any frame has: a sender that comes to a head within a frame sends none of it. -/
def allPackets : Nat := 2 ^ 32

/-- A sender with the frame of its head that it sends. Its fields latch between frames, and at once where it sends none, and an audio sender's
between packets; one that comes to another head begins with that head's next frame (R307, R309). (DEDUCED, log 33) -/
def takeFrame (s : State) (i : Nat) (x : Sender) : Sender :=
  let fresh : Sender := { x with cfg := sndSlice s i, group := none, got := [] }
  let busy : Bool := x.on i && (match x.kind i with
    | 1 => x.group.isSome
    | _ => (sndHead s x i).any fun y => y.2.raster && decide (x.frame = some y.2.startAt))
  if busy then x
  else if ¬ fresh.on i then { fresh with frame := none, next := 0 }
  else if fresh.kind i = 1 then latchAudio s x i
  else
    let same := x.on i && decide (x.kind i ≠ 1) && decide (field (x.word i 4) 26 24 = field (fresh.word i 4) 26 24)
    let start := (sndHead s fresh i).bind fun y => if y.2.raster then some y.2.startAt else none
    { fresh with frame := start, next := if same ∨ start = none then 0 else allPackets }

/-- A sender's fields latch where they may. -/
def latchSnd (s : State) (i : Fin 48) : State := modSnd s i fun x => takeFrame s i.val x

/-! ### Sending (R306, R307, R313, R314) -/

/-- One copy of a packet on one path: sent, or discarded and counted while the link is down (R306); a copy more than 1 µs after its
scheduled instant is late (R314). -/
def sendCopy (s : State) (i : Nat) (x : Sender) (port iface : Nat) (b late : Bool) (pay : List Byte) : State :=
  if ifUp s port iface then
    let s := emit s (.netTx port iface (sndFrame s i x port iface b pay))
    let s := count (count s (portReg port 0x84)) (sndReg i 0x38)
    if late then netEvent (count s (portReg port 0x8C)) 3 0x04 .degraded (ctxUnit 5 port iface i) else s
  else count (count s (portReg port 0x88)) (sndReg i 0x3C)

/-- A packet leaves on its path or on both (R313), and the sequence number advances (R306, R307). -/
def sendPacket (s : State) (i : Nat) (x : Sender) (late : Bool) (pay : List Byte) : State :=
  let ctl := x.word i 0
  let port := field ctl 28 28
  let iface := field ctl 27 26
  let s := sendCopy s i x port iface false late pay
  let s := if bit ctl 25 then sendCopy s i x (1 - port) iface true late pay else s
  let s := regSet s (sndReg i 0x44) (packFields [(0, x.seq % 65536)])
  modSnd s i fun x => { x with seq := (x.seq + 1) % 2 ^ 32 }

/-! ### Video (R308 to R310) -/

/-- Octets of a pgroup of two pixels. (PRESUMED, log 15) -/
def pgBytes (ten : Bool) : Nat := if ten then 5 else 4

/-- pgroups of a line and the most that a packet carries; packets of a line (R308). -/
def pgLine (w : Nat) : Nat := ceilDiv w 2
def pgMax (ctl : Word) : Nat := max 1 (field ctl 10 0 / pgBytes (bit ctl 24))
def linePackets (ctl : Word) (w : Nat) : Nat := ceilDiv (pgLine w) (pgMax ctl)

/-- Codes of 4:2:2 pgroups as octets: bytes at 8 bits, 10-bit fields packed from the most significant bit. -/
def packCodes (ten : Bool) (l : List Nat) : List Byte :=
  if ten then (List.range (l.length / 4)).flatMap fun g =>
    beBytes 5 ((List.range 4).foldl (fun v k => v * 1024 + l.getD (4 * g + k) 0) 0)
  else l.map (BitVec.ofNat 8)

/-- The payload of packet `n` of a frame: extended sequence number, one sample row data header, whole pgroups of one line (R308). -/
def videoPayload (pic : Plane (List ℚ)) (w : Nat) (ctl : Word) (seq n : Nat) : List Byte :=
  let per := linePackets ctl w
  let line := n / per
  let first := n % per * pgMax ctl
  let cnt := min (pgMax ctl) (pgLine w - first)
  let ten := bit ctl 24
  let codes := ycLine (if ten then 10 else 8) w (!bit ctl 23) (field ctl 22 22) (pic.getD line [])
  beBytes 2 (seq / 65536) ++ beBytes 2 (cnt * pgBytes ten) ++ beBytes 2 line ++ beBytes 2 (2 * first)
    ++ packCodes ten ((codes.drop (4 * first)).take (4 * cnt))

/-- TRO of R310, in ns. -/
def troNs (x : Sender) (i : Nat) (hd : Head) (h : Nat) : ℚ :=
  let t := (x.word i 0x34).toNat
  let vt := hd.vTot h
  if t ≠ 0 then (t : ℚ) else if vt = 0 then 0 else ((hd.topLines h + 2 : Nat) : ℚ) * frameNs (hd.word h) / (vt : ℚ)

/-- The instant at which packet `n` of the frame in progress leaves (R310), in ns of the device time base. -/
def packetAt (x : Sender) (i : Nat) (hd : Head) (h n : Nat) : ℚ :=
  let np := linePackets (x.word i 0) (hd.width h) * hd.height h
  let vt := hd.vTot h
  if np * vt = 0 then hd.startAt
  else hd.startAt + troNs x i hd h + (n : ℚ) * (frameNs (hd.word h) * (hd.height h : ℚ) / ((vt * np : Nat) : ℚ))

/-- floor(t × 90,000) mod 2³² of a PTP time in ns (R309). -/
def rtpVideo (t : ℚ) : Nat := ((t * 90000 / 1000000000).floor % 4294967296).toNat

/-! ### Timecode (R312): ST 291-1 words of ST 12-2 ancillary time code -/

/-- A 10-bit ancillary word: 8 bits, even parity, and its complement. (PRESUMED, log 15) -/
def ancWord (v : Nat) : Nat :=
  let par := ((List.range 8).filter fun i => v.testBit i).length % 2
  v % 256 + 256 * par + 512 * (1 - par)

/-- The sixteen user data words: nibbles of the time code and of the binary groups, alternately, in bits 7 to 4; the distinction bits are
those of LTC, all zero. -/
def ancTime (tc user : Word) : List Nat :=
  let n := fun hi lo => field tc hi lo
  let df := if bit tc 31 then 4 else 0
  let t := [n 3 0, n 7 4 + df, n 11 8, n 15 12, n 19 16, n 23 20, n 27 24, n 29 28]
  (List.range 8).flatMap fun k => [ancWord (16 * t.getD k 0), ancWord (16 * field user (4 * k + 3) (4 * k))]

/-- A list of 10-bit words as octets, padded to 32 bits. -/
def packTens (l : List Nat) : List Byte :=
  let bits := l.flatMap fun v => (List.range 10).map fun i => v.testBit (9 - i)
  let n := 4 * ceilDiv bits.length 32
  (List.range n).map fun k => BitVec.ofNat 8 ((List.range 8).foldl (fun v i => 2 * v + (if bits.getD (8 * k + i) false then 1 else 0)) 0)

/-- The ancillary packet: DID, SDID, data count, user words and the 9-bit checksum. -/
def ancWords (tc user : Word) : List Nat :=
  let body := [ancWord 0x60, ancWord 0x60, ancWord 16] ++ ancTime tc user
  let sum := (body.map (· % 512)).sum % 512
  body ++ [sum + (if sum < 256 then 512 else 0)]

/-- The RTP payload of ST 2110-40 with one ancillary packet: extended sequence number, length, count, then line number and offset that name
no place. -/
def ancPayload (seq : Nat) (tc user : Word) : List Byte :=
  let data := beBytes 4 (0x7FF * 2 ^ 20 + 0xFFF * 2 ^ 8) ++ packTens (ancWords tc user)
  beBytes 2 (seq / 65536) ++ beBytes 2 data.length ++ [1] ++ zeros 3 ++ data

/-! ### Audio (R311) -/

/-- Samples per packet. -/
def groupSamples (ctl : Word) : Nat := (if bit ctl 20 then 96 else 48) / (if bit ctl 21 then 8 else 1)

/-- The PTP time at which the packet of packet time `k` leaves (R311). -/
def groupDue (x : Sender) (i k : Nat) : Nat := (k + 1) * (groupNs (x.word i 0) * 65536) + (x.word i 0x34).toNat * 1000 * 65536

/-! ### The order of packets on an interface (R314) -/

/-- The scheduled instant of a sender's next packet, in ns of the device time base. -/
def sndDue (s : State) (i : Nat) (y : Sender) : Option ℚ :=
  let x := takeFrame s i y
  if ¬ x.on i then none
  else if x.kind i = 1 then x.group.map fun k => (s.now : ℚ) + ((groupDue x i k : ℚ) - (ptpTime s : ℚ)) / 65536
  else match sndHead s x i with
  | none => none
  | some (h, z) =>
    let np := if x.kind i = 0 then linePackets (x.word i 0) (z.width h) * z.height h else 1
    if ¬ z.raster ∨ z.st = .off ∨ x.next ≥ np then none
    else if x.kind i = 0 then some (packetAt x i z h x.next) else some (z.startAt + 50000)

/-- The interfaces that a sender's packets leave on. -/
def sndIfaces (x : Sender) (i : Nat) : List (Nat × Nat) :=
  let ctl := x.word i 0
  let f := field ctl 27 26
  (field ctl 28 28, f) :: if bit ctl 25 then [(1 - field ctl 28 28, f)] else []

/-- Packets of an interface leave in the order of their scheduled instants, ties going to the lower sender number (R314). -/
def sndTurn (s : State) (i : Fin 48) : Bool :=
  let x := takeFrame s i.val s.net.snds[i]
  match sndDue s i.val x with
  | none => true
  | some t => (List.finRange 48).all fun (j : Fin 48) =>
    let y := takeFrame s j.val s.net.snds[j]
    decide (j = i) || !((sndIfaces x i.val).any fun f => (sndIfaces y j.val).contains f) || (match sndDue s j.val y with
      | none => true
      | some u => decide (t < u) || (decide (t = u) && decide (i < j)))

/-- NET.SNDi_STATE[31:30]: 0 idle, 1 waiting for its source, 2 sending. (DEDUCED, log 33) -/
def sndState (s : State) (i : Nat) (x : Sender) : Nat :=
  if ¬ x.on i then 0
  else if x.kind i = 1 then (if x.silent ∨ x.group = none then 1 else 2)
  else if (sndHead s x i).any fun y => y.2.raster && decide (y.2.st ≠ .off) then 2 else 1

/-- The channels of a sender, ascending: port and channel. -/
def sndChannels (mask : Nat) : List (Nat × Nat) := ((List.range 16).filter fun b => mask.testBit b).map fun b => (b / 2, b % 2)

/-- A sample found for a port at an instant. -/
def gotAt (l : List (Nat × Nat × Int × Int)) (a m : Nat) : Option (Int × Int) :=
  (l.find? fun e => decide (e.1 = a) && decide (e.2.1 = m)).map fun e => e.2.2

/-- A sample in L24, or in L16 as its upper 16 bits, most significant byte first. (DEDUCED, log 34) -/
def audioBytes (l24 : Bool) (v : Int) : List Byte :=
  if l24 then beBytes 3 (unsigned 24 v) else beBytes 2 (unsigned 24 v / 256)

/-- A real sample of a port assigned to the instants of every enabled audio sender that names the port (R334): the first of two on one
instant is kept, and the other counts as a slip. (DEDUCED, log 34) -/
def feedSenders (s : State) (a : Nat) (tau : Nat) (l r : Int) : State :=
  (List.range 48).foldl (fun s i =>
    match s.net.snds.toList[i]? with
    | none => s
    | some x =>
      let ctl := x.word i 0
      if ¬ bit ctl 31 ∨ field ctl 30 29 ≠ 1 ∨ ¬ (sndChannels (field (x.word i 4) 15 0)).any (fun c => decide (c.1 = a)) then s
      else
        let rate := if bit ctl 20 then 96000 else 48000
        let m := (2 * tau * rate + 65536 * 1000000000) / (2 * 65536 * 1000000000)
        if (gotAt x.got a m).isSome then
          event (count s (0x160038 + 0x100 * a)) .aud 4 0x05 .info (ctxUnit 12 a 0 ((s.aud.toList[a]?).elim 0 (·.seq))) 0
        else modSnd s i fun x => { x with got := x.got ++ [(a, m, l, r)] }) s

/-! ### PTP messages (R305, R319, R320) -/

/-- A received frame is a PTP message for the interface: EtherType 0x88F7, or IPv4 UDP port 319 or 320 to its own or a group address. (PRESUMED, log 15) -/
def isPtp (s : State) (p f : Nat) (l : List Byte) : Bool :=
  let l := if beAt l 12 2 = 0x8100 then l.take 12 ++ l.drop 16 else l
  let mine := beAt l 0 6 % 2 ^ 48 =
      (regGet s (portReg p (0x14 + 0x10 * f))).toNat + field (regGet s (portReg p (0x18 + 0x10 * f))) 15 0 * 2 ^ 32
    ∨ beAt l 0 1 % 2 = 1
  if ¬ mine then false
  else if beAt l 12 2 = 0x88F7 then true
  else
    let ihl := 4 * (beAt l 14 1 % 16)
    let dst := beAt l 30 4
    let port := beAt l (14 + ihl + 2) 2
    decide (beAt l 12 2 = 0x0800) && decide (beAt l 14 1 / 16 = 4) && decide (beAt l 23 1 = 17)
      && (decide (port = 319) || decide (port = 320))
      && (decide (dst = (regGet s (portReg p (0x10 + 0x10 * f))).toNat) || decide (dst / 2 ^ 28 = 14))

/-- The words of a time-stamp: nanoseconds, seconds [31:0], fraction and seconds [47:32] (Table PTP-1). -/
def stampWords (t : Nat) : List Word :=
  [BitVec.ofNat 32 (ptpNs t), BitVec.ofNat 32 (ptpSec t % 2 ^ 32),
   packFields [(16, ptpFrac t), (0, ptpSec t / 2 ^ 32 % 65536)]]

/-- A period lies within ±2 % of the window centre: EXP_PERIOD while seeking, the running mean while locked (R43). -/
def inWindow (exp : ℚ) (periods : List Nat) (run per : Nat) : Bool :=
  let c : ℚ := if run < 8 ∨ periods = [] then exp else (periods.sum : ℚ) / (periods.length : ℚ)
  decide (c * 98 / 100 ≤ (per : ℚ)) && decide ((per : ℚ) ≤ c * 102 / 100)

end Sys2Proof.Machine
end

