-- ==== Sys2Proof/Machine/AudOps.lean ====
section
/-! DEFINITION. Audio ports: latching, blocks and their rate, frame sets and recorded units (R327 to R337). -/

namespace Sys2Proof.Machine
open Sys2Proof

def audEvent (s : State) (i code : Nat) (sev : Severity) (a v : Nat) : State := event s .aud i code sev (ctxUnit 12 a 0 v) 0

def modAud (s : State) (a : Nat) (f : AudPort → AudPort) : State := { s with aud := vMod s.aud a f }

/-- Bit clocks per channel. -/
def AudPort.slotBits (x : AudPort) (a : Nat) : Nat := 16 + 8 * field (x.word a 0) 27 26

def AudSt.code : AudSt → Nat
  | .disabled => 0
  | .seeking => 1
  | .locked => 2
  | .lost => 3

/-- AUD.Aa_STATE. -/
def showAud (s : State) (a : Fin 8) : State :=
  regSet s (audReg a.val 0x20) (packFields [(30, (s.aud[a]).st.code), (0, min 255 (s.aud[a]).run)])

/-- The fields that make a port seek anew (R337). -/
def audKey (m : SMap Word) (a : Nat) : Word × Word := (rmGet m (audReg a 0) &&& 0x6E000000#32, rmGet m (audReg a 4))

/-- A forme's fields latch on a port between blocks (R337): a slave port seeks anew under R332 and R333, a master port is locked at once
(R328). -/
def latchAud (s : State) (a : Fin 8) : State :=
  let x := s.aud[a]
  let cfg := rmSlice s.regs (audReg a.val 0) (audReg a.val 0x20)
  if x.cur.isSome ∨ x.cfg = cfg then s
  else
    let y := { x with cfg := cfg }
    let anew : Bool := decide (audKey cfg a.val ≠ audKey x.cfg a.val) || !x.enabled a.val
    let y : AudPort :=
      if ¬ y.enabled a.val then { y with st := .disabled, run := 0, silent := false, cur := none, sample := none, lastEdge := none }
      else if anew = false then y
      -- a port that samples anew has no measurement yet (R331)
      else if y.master a.val then { y with st := .locked, silent := false, cur := none, sample := none, stamps := [], discont := x.enabled a.val }
      else { y with
        st := .seeking, run := 0, periods := [], lastEdge := none, since := s.now, stamps := [], sample := none,
        silent := x.enabled a.val }
    let s := if anew ∧ y.master a.val then regSet s (audReg a.val 0x24) 0 else s
    showAud (modAud s a fun _ => y) a

/-! ### Recorded units (R335, R336) -/

/-- A block as recorded (Table AUD-3). -/
def AudBlock.bytes (b : AudBlock) (a : Nat) : List Byte :=
  leBytes 4 b.seq ++ [BitVec.ofNat 8 ((if b.silence then 1 else 0) + (if b.discont then 2 else 0)), BitVec.ofNat 8 a] ++ zeros 2
    ++ ptpBytes b.start ++ leBytes 4 b.rate ++ zeros 8
    ++ b.samples.flatMap fun p => leBytes 4 (unsigned 32 p.1) ++ leBytes 4 (unsigned 32 p.2)

/-- The head of a unit and its blocks. -/
def audUnit (a : Nat) (u : AudSet) (l : List AudBlock) : List Byte :=
  [0x41, 0x55, 0x44, 0x31, 0x01, BitVec.ofNat 8 a] ++ leBytes 2 l.length ++ leBytes 4 u.ord.toNat ++ zeros 20
    ++ l.flatMap fun b => b.bytes a

/-- One unit of a frame set formed in the galley. -/
def formUnit (s : State) (a : Nat) (u : AudSet) (l : List AudBlock) : State :=
  match u.item, u.take with
  | some it, some t =>
    let data := audUnit a u l
    let n := s.gal.nextSeal
    let s := { s with gal := { s.gal with nextSeal := n + 1 } }
    syncWait (modItem s it fun i => { i with
      ready := true, sealNo := n, data := data, units := units4k data.length, take := some t })
  | some it, none => freeItem s it
  | none, _ => s

/-- Units whose following frame set has a completed block are formed, oldest first. -/
def formUnits : Nat → State → Fin 8 → State
  | 0, s, _ => s
  | n + 1, s, a =>
    let x := s.aud[a]
    match x.sets with
    | u :: v :: r =>
      if x.blocks.any fun b => decide (b.start ≥ v.issue) then
        let mine := x.blocks.filter fun b => decide (u.issue ≤ b.start) && decide (b.start < v.issue)
        let s := formUnit s a.val u mine
        formUnits n (modAud s a fun x => { x with
          sets := v :: r, blocks := x.blocks.filter fun b => decide (v.issue ≤ b.start) }) a
      else s
    | _ => s

/-- A port that is recorded no more, or disabled, has no block to come: the units of its frame sets are formed of the blocks it has.
(DEDUCED, log 34) -/
def formLast : Nat → State → Fin 8 → State
  | 0, s, _ => s
  | n + 1, s, a =>
    let x := s.aud[a]
    match x.sets with
    | [] => modAud s a fun x => { x with blocks := [] }
    | u :: r =>
      let mine := x.blocks.filter fun b => decide (u.issue ≤ b.start) && r.all fun v => decide (b.start < v.issue)
      formLast n (modAud (formUnit s a.val u mine) a fun x => { x with sets := r }) a

/-- A frame of the timing-master slot is issued: every recorded port begins a frame set and, in a take, reserves its unit for the blocks of
one frame period at the nominal rate and two more (R335, R336). (DEDUCED, log 33) -/
def audFrameSet (s : State) (slot : Nat) (ord : Word) (periodNs : ℚ) : State :=
  (List.finRange 8).foldl (fun s (a : Fin 8) =>
    let x := s.aud[a]
    if ¬ x.enabled a.val ∨ ¬ bit (x.word a.val 0) 28 then formLast (x.sets.length + 1) s a
    else
      let take := takeOf s slot ord
      let (item, s) := match take with
        | none => (none, s)
        | some _ =>
          let n := (periodNs * (x.rate a.val : ℚ) / 64000000000).ceil.toNat
          reserveGal s (.stream (0xC0 + a.val) slot) ord (32 + 544 * (n + 2)) slot
      let s := if take.isSome ∧ item.isNone then
          addGap (audEvent s 5 0x06 .itemFailed a.val ord.toNat) (.stream (0xC0 + a.val) slot) ord take none
        else s
      let u : AudSet := { ord := ord, issue := ptpTime s, take := take, item := item }
      modAud s a fun x => { x with sets := x.sets ++ [u] }) s

/-! ### Blocks (R330, R331) -/

/-- RATE_MHZ of a block that starts at `start`: over 64 blocks (R331). -/
def rateOf (stamps : List Nat) (start : Nat) : Nat :=
  match stamps[63]? with
  | some t => if start ≤ t then 0 else roundDiv (4096 * 1000000000000 * 65536) (start - t)
  | none => 0

/-- The rate measurement after a real block, with RATE_CHANGE when it drifts past the threshold (R331). -/
def measureRate (s : State) (a : Fin 8) (start : Nat) : State :=
  let x := s.aud[a]
  let m := rateOf x.stamps start
  let s := modAud s a fun x => { x with stamps := (start :: x.stamps).take 65, lastRate := if m = 0 then x.lastRate else m }
  let s := regSet s (audReg a.val 0x24) (BitVec.ofNat 32 m)
  if m = 0 then s
  else if ¬ x.refSet then
    regSet (modAud s a fun x => { x with refSet := true }) (audReg a.val 0x28) (BitVec.ofNat 32 m)
  else
    let r := regField s (audReg a.val 0x28) 27 0
    if max m r - min m r > field (x.word a.val 0x10) 27 0 then
      audEvent (regSet s (audReg a.val 0x28) (BitVec.ofNat 32 m)) 2 0x03 .info a.val x.seq
    else s

/-- A block completes: padded with zero samples, time-stamped, measured, counted when it is silent, and kept for its unit (R330 to
R332, R335). The port's fields latch before the next one (R337). -/
def endBlock (s : State) (a : Fin 8) (b : AudBlock) : State :=
  let b := { b with samples := (b.samples ++ List.replicate 64 ((0 : Int), (0 : Int))).take 64 }
  let s := if b.silence then count s (audReg a.val 0x34) else measureRate s a b.start
  let rate := if b.silence then 0 else regField s (audReg a.val 0x24) 27 0
  let s := regSetWide s (audReg a.val 0x40) (BitVec.ofNat 32 b.seq :: stampWords b.start)
  let s := modAud s a fun x => { x with
    cur := none, seq := (b.seq + 1) % 2 ^ 32,
    blocks := if bit (x.word a.val 0) 28 then x.blocks ++ [{ b with rate := rate }] else [] }
  latchAud (formUnits ((s.aud[a]).sets.length) s a) a

/-- A block begins. -/
def newBlock (x : AudPort) (start : Nat) (silence : Bool) : AudBlock where
  seq := x.seq
  silence := silence
  discont := x.discont && !silence
  start := start
  rate := 0
  samples := []

/-- A sample is taken into the block in progress, which it may begin or end (R330), and goes to the senders (R334). (DEDUCED, log 34) -/
def takeSample (s : State) (a : Fin 8) (tau : Nat) (l r : Int) : State :=
  let s := feedSenders s a.val tau l r
  let x := s.aud[a]
  let b := x.cur.getD (newBlock x tau false)
  let b := { b with samples := b.samples ++ [(l, r)] }
  let s := modAud s a fun x => { x with
    cur := some b, lastStart := b.start, discont := if b.discont then false else x.discont }
  if b.samples.length ≥ 64 then endBlock s a b else s

/-- A channel's sample: DEPTH bits, most significant first, one bit clock after the edge in I²S, in 24 bits (R327, Table AUD-3). (DEDUCED, log 34) -/
def audSample (cfg : Word) (v : BitVec 33) : Int :=
  let w := if bit cfg 29 then v.toNat / 2 else v.toNat % 2 ^ 32
  if bit cfg 25 then signed 24 (w / 256) else 256 * signed 16 (w / 65536)

/-- The length of a block at a rate in mHz, in 2⁻¹⁶ ns. -/
def blockLen (mhz : Nat) : Nat := if mhz = 0 then 0 else 64 * 1000000000000 * 65536 / mhz

/-- The rate a lost port's silent blocks run at: the last valid RATE_MHZ, or RATE (R332). -/
def silentRate (x : AudPort) (a : Nat) : Nat := if x.lastRate = 0 then 1000 * x.rate a else x.lastRate

end Sys2Proof.Machine
end

