-- ==== Sys2Proof/Machine/MbxOps.lean ====
section
/-! DEFINITION. Mailbox operations that every command shares: slots and their registers, the checks that R381 orders,
responses, and which request may run (R377 to R388). -/

namespace Sys2Proof.Machine
open Sys2Proof

/-! ### Status codes (Table SYS-5) -/

def stSuccess : Nat := 0x00
def stInvalidOpcode : Nat := 0x01
def stInvalidField : Nat := 0x02
def stExhausted : Nat := 0x03
def stAborted : Nat := 0x04
def stFailedSw : Nat := 0x05
def stMediaError : Nat := 0x06
def stDataCorrupt : Nat := 0x07
def stInService : Nat := 0x08
def stNotReady : Nat := 0x09
def stRejected : Nat := 0x0A
def stReadOnly : Nat := 0x0B
def stDeferred : Nat := 0x0C
def stBudget : Nat := 0x0D
def stConcealed : Nat := 0x0E
def stThermal : Nat := 0x0F

/-! ### Slots (R377, Table MBX-2) -/

/-- Number of slots of a party: 32 for a function, 4 for a user core, none for the others. -/
def mbxSlots : Party → Nat
  | .pf => 32
  | .vf _ => 32
  | .user _ => 4
  | _ => 0

/-- Register key of a slot's base. -/
def mbxBase : Party → Nat → Nat
  | .pf, s => 0x10000 + 0x400 * s
  | .user u, s => 0x18000 + 0x1000 * u.val + 0x400 * s
  | p, s => regKey p (0x400 * s)

def mbxState (s : State) (p : Party) (slot : Nat) : Nat := regField s (mbxBase p slot + 4) 31 30
def setMbxState (s : State) (p : Party) (slot st : Nat) : State := regPut s (mbxBase p slot + 4) 31 30 st

/-- The 256 request bytes of a slot. -/
def mbxReq (s : State) (p : Party) (slot : Nat) : List Byte := bytesOf (regWords s (mbxBase p slot + 0x100) 64)

/-- The request's cookie. -/
def mbxCookie (s : State) (p : Party) (slot : Nat) : Nat := leAt (mbxReq s p slot) 4 4

/-- A checkpoint begins; it covers the journal as it stands (R425). -/
def beginCheckpoint (s : State) : State :=
  { s with flt := { s.flt with ckpt := some s.flt.journal, lastCkpt := s.now } }

/-- A commit is recorded in the checkpoint SRAM; 15,360 journal entries make a checkpoint begin (R386, R425). -/
def journalCommit (s : State) : State :=
  let s := { s with flt := { s.flt with journal := s.flt.journal + 1 } }
  if s.flt.journal ≥ 15360 ∧ s.flt.ckpt.isNone then beginCheckpoint s else s

/-- A frame boundary of the timing master: a checkpoint begins, or the boundary is counted where one is being written or a gap lasts
(R425, R426). -/
def checkpointBoundary (s : State) : State :=
  if s.flt.controlLost then s
  else if s.flt.gap.isSome ∨ s.flt.ckpt.isSome then count s 0x1A0030
  else beginCheckpoint s

/-- The owner is told that a slot is DONE (R378). -/
def mbxNotify (s : State) (p : Party) (slot : Nat) : State :=
  match p with
  | .user u => sourceEdge s (96 + 4 * u.val + slot)
  | p => msixSend s (partyFn p) 0

/-- A response: header and data, written whole, then DONE (R378, R380, Table MBX-4). -/
def mbxDone (s : State) (p : Party) (slot status detail r0 r1 : Nat) (data : List Byte) : State :=
  let req := mbxReq s p slot
  let rsp := req.take 2 ++ [BitVec.ofNat 8 status, BitVec.ofNat 8 detail] ++ (req.drop 4).take 4
    ++ leBytes 4 r0 ++ leBytes 4 r1 ++ padTo 0x1F0 data
  let s := regSetWide s (mbxBase p slot + 0x200) (wordsOf 128 rsp)
  let s := setMbxState s p slot 3
  let s := { s with mbx := { s.mbx with running := s.mbx.running.filter fun r => !(r.party = p && r.slot = slot) } }
  mbxNotify (count s 0x1C004) p slot

/-- A response with no data. -/
def mbxReply (s : State) (p : Party) (slot status detail r0 r1 : Nat) : State := mbxDone s p slot status detail r0 r1 []

/-- A failure with INVALID_FIELD at a request offset (R381). -/
def mbxBadField (s : State) (p : Party) (slot off : Nat) : State := mbxReply s p slot stInvalidField 0 0 off

/-! ### Opcodes and parties (Table MBX-7) -/

/-- The commands of Table MBX-7: code, parties (functions P and V, user cores U), and the request bytes beyond the header
that the command defines, as ranges (offset, length). -/
structure MbxCmd where
  code : Nat
  pf : Bool
  vf : Bool
  user : Bool
  fields : List (Nat × Nat)

def mbxCmds : List MbxCmd := [
  ⟨0x0001, true, true, true, []⟩,
  ⟨0x0002, true, false, false, [(0x10, 12)]⟩,
  ⟨0x0003, true, true, false, [(0x10, 32)]⟩,
  ⟨0x0004, true, true, false, [(0x10, 2)]⟩,
  ⟨0x0101, true, false, true, [(0x10, 1)]⟩,
  ⟨0x0102, true, false, true, [(0x10, 1), (0x14, 4), (0x20, 16)]⟩,
  ⟨0x0103, true, false, true, [(0x10, 3), (0x20, 16)]⟩,
  ⟨0x0104, true, false, true, [(0x10, 1), (0x14, 8)]⟩,
  ⟨0x0105, true, false, true, [(0x10, 1)]⟩,
  ⟨0x0106, true, false, true, [(0x10, 1)]⟩]
  ++ [
  ⟨0x0201, true, false, true, [(0x10, 16)]⟩,
  ⟨0x0202, true, false, true, [(0x10, 6), (0x18, 4)]⟩,
  ⟨0x0203, true, true, true, []⟩,
  ⟨0x0301, true, false, true, [(0x10, 1)]⟩,
  ⟨0x0302, true, false, true, [(0x10, 1), (0x14, 4), (0x20, 16), (0x30, 16)]⟩,
  ⟨0x0401, true, true, true, [(0x10, 4)]⟩,
  ⟨0x0402, true, true, true, [(0x10, 2)]⟩,
  ⟨0x0403, true, true, true, [(0x10, 2)]⟩,
  ⟨0x0501, true, false, true, [(0x10, 1), (0x20, 32)]⟩,
  ⟨0x0502, true, false, true, [(0x10, 4)]⟩,
  ⟨0x0503, true, true, true, [(0x10, 12), (0x20, 16)]⟩]
  ++ [
  ⟨0x0504, true, false, true, []⟩,
  ⟨0x0505, true, false, true, [(0x10, 1)]⟩,
  ⟨0x0506, true, false, true, []⟩,
  ⟨0x0601, true, false, true, [(0x10, 3), (0x20, 200)]⟩,
  ⟨0x0602, true, true, true, [(0x10, 1), (0x20, 16)]⟩,
  ⟨0x0701, true, false, true, [(0x10, 2), (0x14, 5), (0x20, 16)]⟩,
  ⟨0x0801, true, true, true, [(0x10, 1), (0x20, 16)]⟩,
  ⟨0x0901, true, false, true, [(0x10, 3), (0x14, 4)]⟩,
  ⟨0x0902, true, false, true, [(0x10, 16)]⟩,
  ⟨0x0903, true, false, true, [(0x10, 4), (0x20, 16)]⟩]
  ++ [
  ⟨0x0A01, true, true, true, [(0x10, 2), (0x14, 8), (0x20, 16)]⟩,
  ⟨0x0B01, true, false, false, [(0x20, 16)]⟩,
  ⟨0x0B02, true, false, false, [(0x10, 4)]⟩,
  ⟨0x0B03, true, false, true, [(0x10, 4)]⟩,
  ⟨0x0B04, true, false, true, []⟩]

def mbxCmdOf (op : Nat) : Option MbxCmd := mbxCmds.find? fun c => decide (c.code = op)

/-- A party may issue a command. -/
def MbxCmd.permits (c : MbxCmd) : Party → Bool
  | .pf => c.pf
  | .vf _ => c.vf
  | .user _ => c.user
  | _ => false

/-- A request byte is one that its command defines: the header's opcode, FLAGS bit 0 and COOKIE, and the fields. -/
def MbxCmd.defines (c : MbxCmd) (i : Nat) : Bool :=
  decide (i < 3) || (decide (4 ≤ i) && decide (i < 8)) || c.fields.any fun f => decide (f.1 ≤ i) && decide (i < f.1 + f.2)

/-- The first non-zero byte that the command leaves undefined; FLAGS [7:1] are undefined (R380, R381). -/
def MbxCmd.badByte (c : MbxCmd) (req : List Byte) : Option Nat :=
  (List.range 256).find? fun i =>
    if i = 2 then decide ((byteAt req 2).toNat ≥ 2) else !c.defines i && decide (byteAt req i ≠ 0)

/-- MSI-X vectors of a function: 128 for the physical one, 64 for a virtual one (R341). -/
def vectorsOf (fn : Nat) : Nat := if fn = 0 then 128 else 64

def isPow2 (n : Nat) : Bool := decide (n ≠ 0) && decide (2 ^ n.log2 = n)

/-- Kinds of bulk object that are loaded for a slot. -/
def slotKind (k : Nat) : Bool := decide (k = 0x10) || decide (k = 0x11) || decide (k = 0x14)

/-- A number outside a range. -/
def outOf (lo hi n : Nat) : Bool := decide (n < lo) || decide (hi < n)

/-- The fields of a descriptor at a request offset, and whether each is out of range: at most 2³⁰ bytes, FLAGS [31:1] zero (R385). -/
def descRanges (req : List Byte) (off : Nat) : List (Nat × Bool) :=
  [(off + 8, outOf 0 1073741824 (leAt req (off + 8) 4)), (off + 12, outOf 0 1 (leAt req (off + 12) 4))]

/-- The parameters of a command by request offset, and whether each is outside the range that Tables HQ-4 and MBX-7, R75, R392 and R394
give it (R381). -/
def mbxRanges (p : Party) (op : Nat) (req : List Byte) : List (Nat × Bool) :=
  let b := fun (off : Nat) => (byteAt req off).toNat
  let w := fun (off : Nat) => leAt req off 4
  let sb := fun (off : Nat) => signed 8 (b off)
  match op with
  | 0x0002 => [(0x10, outOf 1 63 (leAt req 0x10 2)), (0x14, decide (w 0x14 ≠ 0) && !isPow2 (w 0x14))]
  | 0x0003 => [
    (0x10, decide (leAt req 0x10 8 % 4096 ≠ 0)), (0x18, decide (leAt req 0x18 8 % 4096 ≠ 0)),
    (0x20, outOf 2 65536 (w 0x20)), (0x24, outOf 2 65536 (w 0x24)), (0x28, !isPow2 (w 0x28) || outOf 0 65536 (w 0x28)),
    (0x2C, outOf 1 (vectorsOf (partyNo p) - 1) (b 0x2C)), (0x2D, outOf 0 7 (b 0x2D) || decide (b 0x2D % 4 = 0) && decide (p ≠ .pf))]
  | 0x0004 => [(0x11, outOf 0 15 (b 0x11))]
  | 0x0101 => [(0x10, outOf 1 255 (b 0x10))]
  | 0x0102 => [(0x10, outOf 1 255 (b 0x10)), (0x14, outOf 1 4096 (w 0x14))] ++ descRanges req 0x20
  | 0x0103 => [
    (0x10, outOf 1 255 (b 0x10)), (0x11, outOf 0x10 0x14 (b 0x11)), (0x12, outOf 0 (if slotKind (b 0x11) then 7 else 0) (b 0x12))]
    ++ descRanges req 0x20
  | 0x0104 => [
    (0x10, outOf 1 255 (b 0x10)), (0x14, outOf 0 7 (b 0x14)), (0x15, outOf 0 0 (b 0x15)), (0x16, outOf 0 0 (b 0x16)),
    (0x17, decide (b 0x17 % 32 ≠ 0))]
  | 0x0105 => [(0x10, outOf 1 255 (b 0x10))]
  | 0x0106 => [(0x10, outOf 1 255 (b 0x10))]
  | 0x0201 => [
    (0x10, outOf 0 3 (b 0x10)), (0x11, outOf 0 127 (b 0x11)), (0x14, decide (sb 0x14 < -7) || decide (sb 0x14 > -1)),
    (0x15, decide (sb 0x15 < -3) || decide (sb 0x15 > 1)), (0x16, decide (sb 0x16 < sb 0x14) || decide (sb 0x16 > sb 0x14 + 5)),
    (0x17, outOf 2 10 (b 0x17))]
  | 0x0202 => [(0x18, outOf 0 999999999 (w 0x18))]
  | 0x0301 => [(0x10, outOf 0 7 (b 0x10))]
  | 0x0302 => [(0x10, outOf 0 7 (b 0x10)), (0x14, outOf 1 512 (w 0x14))] ++ descRanges req 0x20 ++ descRanges req 0x30
  | 0x0401 => [(0x10, outOf 4096 1073741824 (w 0x10))]
  | 0x0503 => [(0x18, outOf 0 1048576 (w 0x18))] ++ descRanges req 0x20
  | 0x0505 => [(0x10, outOf 0 3 (b 0x10))]
  | 0x0601 => [(0x10, outOf 0 63 (b 0x10)), (0x11, decide (b 0x11 ≠ 137) && decide (b 0x11 ≠ 144)), (0x12, outOf 0 200 (b 0x12))]
  | 0x0602 => [(0x10, outOf 0 63 (b 0x10))] ++ descRanges req 0x20
  | 0x0701 => [
    (0x10, outOf 0 1 (b 0x10)), (0x11, outOf 0 1 (b 0x11)), (0x14, outOf 0 0xFFFFF (w 0x14)), (0x18, outOf 1 16 (b 0x18))]
  | 0x0801 => [(0x10, outOf 0 47 (b 0x10))] ++ descRanges req 0x20
  | 0x0901 => [
    (0x10, outOf 0 31 (b 0x10)), (0x11, outOf 1 4 (b 0x11)), (0x12, outOf 0 3 (b 0x12)), (0x14, outOf 1 60000 (w 0x14))]
  | 0x0902 => [(0x10, decide (leAt req 0x10 8 % 64 ≠ 0)), (0x18, decide (leAt req 0x18 8 % 64 ≠ 0))]
  | 0x0903 => [(0x10, outOf 0 7 (b 0x10)), (0x11, outOf 0 1 (b 0x11)), (0x12, outOf 1 256 (leAt req 0x12 2))]
    ++ descRanges req 0x20
  | 0x0A01 => [(0x10, !([0x01, 0x02, 0x21].contains (b 0x10))), (0x11, outOf 0 1 (b 0x11))] ++ descRanges req 0x20
  | 0x0B01 => descRanges req 0x20
  | 0x0B02 => [(0x10, outOf 1 10000 (w 0x10))]
  | 0x0B03 => [(0x10, outOf 1 10000 (w 0x10))]
  | _ => []

/-- The request offset of the first parameter outside its range. -/
def badRange (p : Party) (op : Nat) (req : List Byte) : Option Nat := ((mbxRanges p op req).find? (·.2)).map (·.1)

/-- The request offset of the first offending byte: one that the command leaves undefined, or a field outside its range (R381). -/
def MbxCmd.badAt (c : MbxCmd) (p : Party) (req : List Byte) : Option Nat :=
  match c.badByte req, badRange p c.code req with
  | some i, some j => some (min i j)
  | some i, none => some i
  | none, r => r

/-- A log page that is refused to a virtual function as an opcode is (R394). -/
def pageBarred (p : Party) (op : Nat) (req : List Byte) : Bool := match p with
  | .vf _ => decide (op = 0x0A01) && [0x01, 0x02].contains (byteAt req 0x10).toNat
  | _ => false

/-- The target of a request (R382). The commands of the PTP clock share a target of their own, and IDENTIFY, VF_QUOTA, QUEUE_CREATE, the
handle commands and FW_DOWNLOAD have none. (DEDUCED, log 37) -/
def mbxTarget (op : Nat) (req : List Byte) : MbxTarget :=
  let b := (byteAt req 0x10).toNat
  match op / 256 with
  | 0x00 => if op = 4 then .queue (leAt req 0x10 2) else .none
  | 0x01 => .forme b
  | 0x02 => .ptp
  | 0x03 => .slot b
  | 0x05 => .magazine
  | 0x06 => .stream b
  | 0x07 => .edp b
  | 0x08 => .sender b
  | 0x09 => if op = 0x0901 then .lane b else if op = 0x0902 then .mem (leAt req 0x10 8) (leAt req 0x18 8) else .slot b
  | 0x0A => .logPage b
  | 0x0B => if op = 0x0B01 then .none else .control
  | _ => .none

/-- Control service is interrupted (R28): by the gap of a switch-over, or for good (R426, R429). -/
def interrupted (s : State) : Bool := s.flt.controlLost || s.flt.gap.isSome

/-- Control service is running: mailbox requests are taken (R386, R387, R477). -/
def serviceOn (s : State) : Bool := s.sys.ready && s.mbx.drain.isNone && !interrupted s

/-- ALLOW_DISRUPT of a request. -/
def allowDisrupt (req : List Byte) : Bool := (byteAt req 2).getLsbD 0

/-- Two targets are the same thing; memory ranges are where they overlap. -/
def sameTarget : MbxTarget → MbxTarget → Bool
  | .mem a n, .mem b m => decide (a < b + m) && decide (b < a + n)
  | a, b => decide (a = b) && decide (a ≠ .none)

/-- An earlier request holds the target: a running one, or one posted before (R382). -/
def targetHeld (s : State) (p : Party) (slot : Nat) (t : MbxTarget) : Bool :=
  s.mbx.running.any (fun r => sameTarget r.target t)
    || (s.mbx.posted.takeWhile fun e => decide (e ≠ (p, slot))).any fun e =>
        let req := mbxReq s e.1 e.2
        sameTarget (mbxTarget (leAt req 0 2) req) t

/-- The requests that count as running (R382). -/
def runCount (s : State) : Nat := (s.mbx.running.filter fun r => !r.onHardware).length

/-- A posted request is taken: no longer POSTED, RUNNING (R378). -/
def mbxTake (s : State) (p : Party) (slot : Nat) : State :=
  setMbxState { s with mbx := { s.mbx with posted := s.mbx.posted.filter fun e => decide (e ≠ (p, slot)) } } p slot 2

/-- A RUNNING request that stays running: it is listed until its response is written. -/
def mbxRun (s : State) (p : Party) (slot op : Nat) (t : MbxTarget) (onHardware : Bool) (a b : Nat) : State :=
  let r : RunReq := {
    party := p, slot := slot, op := op, target := t, since := s.now, onHardware := onHardware, a := a, b := b }
  { s with mbx := { s.mbx with running := s.mbx.running ++ [r] } }

/-- The request posted in a slot is taken and served by `f`, which sees the request bytes, when its opcode is `op`, its
turn has come and service runs; the checks of R381 come first. -/
def serve (s : State) (p : Party) (slot op : Nat) (f : State → List Byte → State) : State :=
  let req := mbxReq s p slot
  if mbxState s p slot ≠ 1 ∨ slot ≥ mbxSlots p ∨ leAt req 0 2 ≠ op ∨ ¬ serviceOn s
      ∨ targetHeld s p slot (mbxTarget op req) ∨ runCount s ≥ 16 then s
  else
    let s := mbxTake s p slot
    match mbxCmdOf op with
    | none => mbxReply s p slot stInvalidOpcode 0 0 0
    | some c =>
      if ¬ c.permits p ∨ pageBarred p op req then mbxReply s p slot stInvalidOpcode 0 0 0
      else match c.badAt p req with
      | some i => mbxBadField s p slot i
      | none => f s req

/-- A request whose opcode is absent from Table MBX-7, or not permitted to the party, is answered when it is taken. -/
def serveInvalid (s : State) (p : Party) (slot : Nat) : State :=
  let req := mbxReq s p slot
  let bad : Bool := match mbxCmdOf (leAt req 0 2) with
    | none => true
    | some c => !c.permits p
  if mbxState s p slot = 1 ∧ bad = true ∧ serviceOn s ∧ runCount s < 16 then
    mbxReply (mbxTake s p slot) p slot stInvalidOpcode 0 0 0
  else s

/-- Every posted request with an invalid opcode is answered, once service runs. -/
def sweepInvalid (s : State) : State := s.mbx.posted.foldl (fun s e => serveInvalid s e.1 e.2) s

/-- A descriptor of a request (R385): address, length, scatter list. -/
structure Desc where
  addr : Nat
  len : Nat
  sgl : Bool
  deriving DecidableEq, Repr

def descAt (req : List Byte) (off : Nat) : Desc :=
  { addr := leAt req off 8, len := leAt req (off + 8) 4, sgl := (byteAt req (off + 12)).getLsbD 0 }

/-- The party's Bus Master Enable (R385); user cores reach their own memory. -/
def busMaster (s : State) : Party → Bool
  | .user _ => true
  | p => s.hq.bme.toList.getD (partyFn p) false

/-- A DMA read error ends a request with DATA_CORRUPT, counted in HQ.DMA_ERR (R385). -/
def mbxDmaErr (s : State) (p : Party) (slot : Nat) : State :=
  mbxReply (count s 0x181010) p slot stDataCorrupt 0 0 0

/-- Scatter-list segments: 16 bytes each, address and length (R347). -/
def sglSegs : Nat → List Byte → List (Nat × Nat)
  | 0, _ => []
  | n + 1, l => (leAt l 0 8, leAt l 8 4) :: sglSegs n (l.drop 16)

/-- A scatter list is well formed: 1 to 4,096 entries, 4-byte aligned addresses, lengths of at least 1, zero bytes 12 to
15, and an aligned address of its own (R347). -/
def sglOk (addr n : Nat) (l : List Byte) : Bool :=
  decide (1 ≤ n) && decide (n ≤ 4096) && decide (addr % 4 = 0)
    && (List.range n).all fun i =>
      decide (leAt l (16 * i) 8 % 4 = 0) && decide (leAt l (16 * i + 8) 4 ≥ 1) && decide (leAt l (16 * i + 12) 4 = 0)

/-- Bytes put out to consecutive segments. -/
def scatter (s : State) (fn : Nat) : List (Nat × Nat) → List Byte → State
  | [], _ => s
  | (a, n) :: r, l => if l = [] then s else scatter (emit s (.hostWrite fn a (l.take n))) fn r (l.drop n)

/-- The segments a descriptor names: none when its scatter list cannot be read, and whether they are well formed. -/
def descSegs (d : Desc) (buf : HostBuf) : Option (List (Nat × Nat) × Bool) :=
  if d.sgl then buf.sgl.map fun l => (sglSegs d.len l, sglOk d.addr d.len l)
  else some ([(d.addr, d.len)], true)

def segTotal (l : List (Nat × Nat)) : Nat := (l.map (·.2)).sum

/-! ### Clearing a party's slots (R388) -/

/-- What waits for an answer in one of a party's slots no longer answers: a lock-up is abandoned and its forme is Staged again, sensor
accesses, calibrations and a drain end, and what the hardware goes on with has no slot to answer (R386, R388). -/
def detachParty (s : State) (p : Party) : State :=
  let locks := s.frm.checking.filter fun c => decide (c.party = p)
  let formes := locks.foldl (fun m c => mMod m c.forme fun f => { f with st := .staged }) s.frm.formes
  let frm := { s.frm with formes := formes, checking := s.frm.checking.filter fun c => decide (c.party ≠ p) }
  let keep := s.mbx.running.filterMap fun r => if r.party ≠ p then some r
    else if r.op = 0x0901 then some { r with op := 0, slot := 255, onHardware := true } else none
  let mbx := { s.mbx with
    posted := s.mbx.posted.filter fun e => decide (e.1 ≠ p), running := keep,
    calib := s.mbx.calib.filter fun c => decide (c.party ≠ p),
    -- a switch-over under way goes on without a slot to answer in
    drain := if s.flt.gap.isSome then s.mbx.drain.map fun d => (if d.party = p then { d with slot := 255 } else d)
      else s.mbx.drain.filter fun d => decide (d.party ≠ p) }
  let mine := fun (e : Party × Nat) => decide (e.1 ≠ p)
  let mag := { s.mag with
    transition := s.mag.transition.map fun t => (t.1, t.2.filter mine), eject := s.mag.eject.map fun e => e.filter mine,
    stopping := s.mag.stopping.filter fun x => decide (x.2.1 ≠ p) }
  let lnk := { s.lnk with regWaits := s.lnk.regWaits.filter fun w => decide (w.party ≠ p) }
  { s with frm := frm, mbx := mbx, mag := mag, lnk := lnk }

/-- One slot cleared: a record and a count for a request that was posted or running, and IDLE (R388). -/
def clearSlot (s : State) (p : Party) (slot : Nat) : State :=
  let st := mbxState s p slot
  let s := if st = 1 ∨ st = 2 then
      let c := ctxMbx (partyNo p) slot (leAt (mbxReq s p slot) 0 2) (mbxCookie s p slot)
      count (record s 0x01 0x01 .itemFailed c stAborted) 0x1C00C
    else s
  regSet s (mbxBase p slot + 4) 0

/-- Every slot of a party cleared (R388). -/
def clearSlots (s : State) (p : Party) : State :=
  (List.range (mbxSlots p)).foldl (fun s k => clearSlot s p k) (detachParty s p)

end Sys2Proof.Machine
end

