-- ==== Sys2Proof/Machine/CoreSpace.lean ====
section
/-! DEFINITION. The address space of a user core (R395, R398, R399), and the transfers by descriptor of a party's mailbox requests: to and
from host memory, or a core's own TCM and handle windows (R385, R400). -/

namespace Sys2Proof.Machine
open Sys2Proof

def userReg (u off : Nat) : Nat := 0x1D0000 + 0x100 * u + off

def modCore (s : State) (u : Nat) (f : UserCore → UserCore) : State :=
  let cores := vMod s.per.cores u f
  { s with per := { s.per with cores := cores } }

/-- PER.Uu_STATE.RUNNING. -/
def userRuns (s : State) (u : Nat) : Bool := regBit s (userReg u 4) 31

/-! ### The address space (Table PER-1) -/

/-- What lies at a range of core addresses: TCM from an offset on, the BAR0 map, a slot's statistics ring, a handle's buffer through its
window, or nothing that the core may reach. -/
inductive CoreAt where
  | tcm (off : Nat)
  | bar0 (off : Nat)
  | stats (slot off : Nat)
  | window (h off : Nat)
  | none
  deriving DecidableEq, Repr

/-- The handle that a window of a core maps (R399). -/
def windowHandle (s : State) (u w : Nat) : Option Nat :=
  let x := regGet s (userReg u (0x40 + 4 * w))
  if bit x 31 then some (field x 15 0) else none

/-- What lies at `n` bytes from a core address on. -/
def coreAt (s : State) (u addr n : Nat) : CoreAt :=
  if addr + n ≤ 0x80000 then .tcm addr
  else if 0x40000000 ≤ addr ∧ addr + n ≤ 0x44000000 then .bar0 (addr - 0x40000000)
  else if 0x100000000 ≤ addr ∧ addr + n ≤ 0x101000000 then
    let o := addr - 0x100000000
    if o / 0x200000 = (o + n - 1) / 0x200000 then .stats (o / 0x200000) (o % 0x200000) else .none
  else if 0x200000000 ≤ addr ∧ addr + n ≤ 0x600000000 then
    let o := (addr - 0x200000000) % 0x40000000
    match windowHandle s u ((addr - 0x200000000) / 0x40000000) with
    | some h => if o + n ≤ ((handleOf s h).map (·.size)).getD 0 then .window h o else .none
    | none => .none
  else .none

/-- TCM bytes from an offset on. -/
def tcmBytes (s : State) (u off n : Nat) : List Byte :=
  padTo n (((s.per.cores.toList[u]?).map fun c => c.tcm.drop off).getD [])

/-- Bytes stored in TCM. -/
def putTcm (s : State) (u off : Nat) (l : List Byte) : State :=
  modCore s u fun c => { c with tcm := padTo off c.tcm ++ l ++ c.tcm.drop (off + l.length) }

/-- The record that a place of a slot's statistics ring holds: the newest whose SEQ it takes (R398). -/
def ringAt (s : State) (n k : Nat) : Option StatRec :=
  (((s.rfe.toList[n]?).map (·.ring)).getD []).reverse.find? fun r => decide (r.seq % 64 = k)

/-- A handle holds a reference beside that of the window a store goes through: the store faults (R399). -/
def storeBarred (s : State) (h : Nat) : Bool := inPool s h || isWriting s h || isLatest s h || decide (1 < consumerRefs s h)

/-! ### Transfers by descriptor (R385, R400) -/

/-- A user core may name a range in a descriptor: in its own TCM or in a mapped handle window (R400). -/
def coreDma (s : State) (u addr n : Nat) : Bool := match coreAt s u addr n with
  | .tcm _ => true
  | .window _ _ => true
  | _ => false

/-- Bytes that a transfer reads at a core address. -/
def coreBytes (s : State) (u addr n : Nat) : List Byte := match coreAt s u addr n with
  | .tcm o => tcmBytes s u o n
  | .window h o => bufferBytes s h o n
  | _ => zeros n

/-- Bytes that a transfer writes at a core address. -/
def coreWrite (s : State) (u addr : Nat) (l : List Byte) : State := match coreAt s u addr l.length with
  | .tcm o => putTcm s u o l
  | .window h o => writeBuffer s h o l
  | _ => s

def coreScatter (s : State) (u : Nat) : List (Nat × Nat) → List Byte → State
  | [], _ => s
  | (a, n) :: r, l => if l = [] then s else coreScatter (coreWrite s u a (l.take n)) u r (l.drop n)

/-- Bytes put out to a party's segments. -/
def putOut (s : State) (p : Party) (segs : List (Nat × Nat)) (l : List Byte) : State := match p with
  | .user u => coreScatter s u segs l
  | _ => scatter s (partyNo p) segs l

/-- The segments that a party's descriptor names (R385): none when its scatter list cannot be read, and whether they are well formed and
lie where the party may reach. -/
def partySegs (s : State) (p : Party) (d : Desc) (buf : HostBuf) : Option (List (Nat × Nat) × Bool) := match p with
  | .user u =>
    if ¬ d.sgl then some ([(d.addr, d.len)], coreDma s u d.addr d.len)
    else if ¬ coreDma s u d.addr (16 * d.len) then some ([], false)
    else
      let l := coreBytes s u d.addr (16 * d.len)
      let segs := sglSegs d.len l
      some (segs, sglOk d.addr d.len l && segs.all fun x => coreDma s u x.1 x.2)
  | _ => descSegs d buf

/-- The data at a party's segments; none when host memory cannot be read. -/
def partyData (s : State) (p : Party) (segs : List (Nat × Nat)) (buf : HostBuf) : Option (List Byte) := match p with
  | .user u => some (segs.flatMap fun x => coreBytes s u x.1 x.2)
  | _ => buf.data

/-- An outgoing transfer by the descriptor at a request offset (R385): `k` goes on with its segments, which hold `n` bytes; too small a LEN
writes nothing and fails with the bytes needed. -/
def mbxRoom (s : State) (p : Party) (slot off : Nat) (d : Desc) (buf : HostBuf) (n : Nat) (k : State → List (Nat × Nat) → State) :
    State :=
  if ¬ busMaster s p then mbxReply s p slot stNotReady 0 0 0
  else match partySegs s p d buf with
  | none => mbxDmaErr s p slot
  | some (segs, ok) =>
    if ¬ ok then mbxBadField s p slot off
    else if segTotal segs < n then mbxReply s p slot stInvalidField 0 n 0
    else k s segs

/-- An outgoing transfer of bytes by descriptor, written at once. -/
def mbxSend (s : State) (p : Party) (slot : Nat) (d : Desc) (buf : HostBuf) (bytes : List Byte) (k : State → State) : State :=
  mbxRoom s p slot 0x20 d buf bytes.length fun s segs => k (putOut s p segs bytes)

/-- An incoming transfer by descriptor of `want` bytes (R385): its data, or the failure answered. -/
def mbxFetch (s : State) (p : Party) (slot : Nat) (d : Desc) (buf : HostBuf) (want : Option Nat)
    (k : State → List Byte → State) : State :=
  if ¬ busMaster s p then mbxReply s p slot stNotReady 0 0 0
  else match partySegs s p d buf with
  | none => mbxDmaErr s p slot
  | some (segs, ok) =>
    let total := segTotal segs
    if ¬ ok ∨ total > 1073741824 ∨ want.any (fun n => decide (total < n)) then mbxBadField s p slot 0x28
    else match partyData s p segs buf with
    | none => mbxDmaErr s p slot
    | some l => k s (padTo (want.getD total) l)

end Sys2Proof.Machine
end

