-- ==== Sys2Proof/Machine/HqOps.lean ====
section
/-! DEFINITION. Operations of the host queues that every opcode shares: completion entries and their messages (R348,
R351, R361), field checks (R345, R346), scatter lists (R347), and events (R376). -/

namespace Sys2Proof.Machine
open Sys2Proof

def modQ (s : State) (q : Nat) (f : Queue → Queue) : State :=
  { s with hq := { s.hq with queues := mMod s.hq.queues q f } }

def modCmd (s : State) (q tag : Nat) (f : Cmd → Cmd) : State :=
  modQ s q fun x => { x with cmds := mMod x.cmds tag f }

def queueOf (s : State) (q : Nat) : Option Queue := mGet s.hq.queues q

def cmdOf (s : State) (q tag : Nat) : Option Cmd := (queueOf s q).bind fun x => mGet x.cmds tag

/-- The offset of a register of a function's window (Table HQ-11), keyed by function. -/
def fnReg (fn off : Nat) : Nat := if fn = 0 then 0x180000 + off else 0x80008000 + 0x10000 * fn + off

/-- An event of the HQ block: the function's EVENTS bit, the block's source, and a record (R376). -/
def hqEvent (s : State) (fn i code : Nat) (sev : Severity) (ctx : Ctx) (status : Nat) : State :=
  let s := record s 0x18 code sev ctx status
  let s := regSet s (fnReg fn 0x1C) (setBit (regGet s (fnReg fn 0x1C)) i)
  sourceEdge s (16 + 0x18)

/-- BAD_DOORBELL (R342, R349). -/
def badDoorbell (s : State) (fn q : Nat) : State :=
  hqEvent (count s (fnReg fn 0x14)) fn 0 0x01 .info (ctxCommand fn q 0 0 0) 0

def Queue.fn (q : Queue) : Nat := partyNo q.owner

/-- One more entry would make the tail equal the head (R348). -/
def Queue.full (q : Queue) : Bool := decide ((q.cqTail + 1) % q.cqDepth = q.cqHead)

/-- The failure statuses of Table SYS-5. -/
def isFailure (st : Nat) : Bool := (1 ≤ st && st ≤ 11) || st == 15

/-- The message of a queue is sent now (R351). -/
def signalQ (s : State) (q : Nat) : State :=
  match queueOf s q with
  | some x => msixSend (modQ s q fun x => { x with unsignalled := 0 }) x.fn x.vector
  | none => s

/-- A CQ entry written by one 16-byte write (R348), with its PHASE and any pending deferred errors (R361), then the
message that R351 asks for. An entry that ends a flight frees the tag and the command's handles. -/
def writeEntry (s : State) (q : Nat) (e : Cqe) : State :=
  match queueOf s q with
  | none => s
  | some x =>
    let flags := e.flags + (if x.phase then 1 else 0) + (if x.attached > 0 then 2 else 0)
    let bytes := leBytes 4 e.result.toNat ++ leBytes 4 e.tag ++ leBytes 2 e.sqHead
      ++ [BitVec.ofNat 8 e.status, BitVec.ofNat 8 e.detail] ++ leBytes 2 flags ++ [BitVec.ofNat 8 e.op, 0]
    let s := emit s (.hostWrite x.fn (x.cqBase + 16 * x.cqTail) bytes)
    let wrap := decide (x.cqTail + 1 = x.cqDepth)
    let s := modQ s q fun x => { x with
      cqTail := (x.cqTail + 1) % x.cqDepth, phase := if wrap then !x.phase else x.phase, attached := 0,
      unsignalled := x.unsignalled + 1, firstAt := if x.unsignalled = 0 then s.now else x.firstAt,
      cmds := if e.ends then mDel x.cmds e.tag else x.cmds }
    let s := if e.ends then { s with fetchBad := s.fetchBad.filter fun c => match c with
      | .command q1 t _ => !(decide (q1 = q) && decide (t = e.tag))
      | .jobDefects q1 t _ => !(decide (q1 = q) && decide (t = e.tag))
      | .jobFlat q1 t _ _ _ => !(decide (q1 = q) && decide (t = e.tag))
      | .jobColumns q1 t _ _ => !(decide (q1 = q) && decide (t = e.tag))
      | .jobMesh q1 t _ _ _ => !(decide (q1 = q) && decide (t = e.tag))
      | _ => true } else s
    let now_ := isFailure e.status || bit (BitVec.ofNat 32 e.flags) 2 || e.irqNow
    if now_ ∨ x.unsignalled + 1 ≥ max 1 x.aggCount then signalQ s q else s

/-- An entry posted: written, or held until a head doorbell makes room (R348). -/
def postEntry (s : State) (q : Nat) (e : Cqe) : State :=
  match queueOf s q with
  | none => s
  | some x =>
    if x.full ∨ x.backlog ≠ [] then modQ s q fun x => { x with backlog := x.backlog ++ [e] }
    else writeEntry s q e

/-- Held entries written while there is room. -/
def drainBacklog : Nat → State → Nat → State
  | 0, s, _ => s
  | n + 1, s, q =>
    match queueOf s q with
    | none => s
    | some x =>
      match x.backlog with
      | [] => s
      | e :: r => if x.full then s else drainBacklog n (writeEntry (modQ s q fun x => { x with backlog := r }) q e) q

/-- A command's single completion. A tag marked for abort, or already completed, gets no other (R371). -/
def complete (s : State) (q tag status detail : Nat) (result : Word) (flags : Nat) : State :=
  match cmdOf s q tag with
  | none => s
  | some c =>
    if c.aborted ∨ c.finished then s
    else
      let e : Cqe := {
        result := result, tag := tag, sqHead := c.sqHead, status := status, detail := detail, flags := flags,
        op := c.op, irqNow := bit (BitVec.ofNat 32 c.flags) 1, ends := true }
      postEntry (modCmd s q tag fun c => { c with finished := true, waiting := false }) q e

/-- A completion with no detail, flags or result. -/
def completeSt (s : State) (q tag status : Nat) : State := complete s q tag status 0 0 0

/-- INVALID_FIELD at a byte of the SQ entry, the job descriptor (1) or the rendition set (2) (Table HQ-6). -/
def completeField (s : State) (q tag where_ off detail : Nat) : State :=
  complete s q tag stInvalidField detail (packFields [(30, where_), (0, off)]) 0

/-- A failed host memory read: DATA_CORRUPT, HQ.DMA_ERR, DMA_READ_ERR (R353). -/
def dmaReadErr (s : State) (fn q tag op : Nat) : State :=
  hqEvent (count s 0x181010) fn 2 0x03 .degraded (ctxCommand fn q tag op 0) 0

def completeDma (s : State) (q tag : Nat) : State :=
  match queueOf s q, cmdOf s q tag with
  | some x, some c => completeSt (dmaReadErr s x.fn q tag c.op) q tag stDataCorrupt
  | _, _ => s

/-- The command in flight under a tag that an opcode row executes: fetched, its opcode that row's, not yet executed. -/
def asCommand (s : State) (q tag op : Nat) (f : State → Queue → Cmd → State) : State :=
  match queueOf s q, cmdOf s q tag with
  | some x, some c => if c.op = op ∧ ¬ c.waiting ∧ ¬ c.finished ∧ ¬ c.aborted then f s x c else s
  | _, _ => s

/-- The command in flight under a tag that waits. -/
def asWaiting (s : State) (q tag op : Nat) (f : State → Queue → Cmd → State) : State :=
  match queueOf s q, cmdOf s q tag with
  | some x, some c => if c.op = op ∧ c.waiting ∧ ¬ c.finished ∧ ¬ c.aborted then f s x c else s
  | _, _ => s

/-- Byte offset of a non-zero byte of an argument above its `n` defined bits; the argument lies at `off`. -/
def argHigh (v off n : Nat) : Option Nat :=
  if v < 2 ^ n then none
  else (List.range 8).findSome? fun i =>
    if v / 2 ^ max n (8 * i) % 2 ^ (8 * (i + 1) - max n (8 * i)) ≠ 0 ∧ n < 8 * (i + 1) then some (off + i) else none

/-- The data segments of a command (R347): the failure offset, a failed read, or the segments. `size` is the opcode's
transfer size; without SGL, LEN itself. -/
inductive SegRes where
  | bad (off : Nat)
  | dma
  | ok (l : List (Nat × Nat))

def dataSegs (c : Cmd) (buf : HostBuf) : SegRes :=
  if bit (BitVec.ofNat 32 c.flags) 3 then
    if c.addr % 4 ≠ 0 then .bad 0x08
    else if c.len = 0 ∨ c.len > 4096 then .bad 0x10
    else match buf.sgl with
    | none => .dma
    | some l => if sglOk c.addr c.len l then .ok (sglSegs c.len l) else .bad 0x08
  else .ok [(c.addr, c.len)]

/-- The data segments when their sum must equal `size`. -/
def segsFor (c : Cmd) (buf : HostBuf) (size : Nat) : SegRes :=
  match dataSegs c buf with
  | .ok l => if segTotal l = size then .ok l else .bad (if bit (BitVec.ofNat 32 c.flags) 3 then 0x08 else 0x10)
  | r => r

/-- The first byte of a command's data that met an uncorrectable error (R357, R368, R369). -/
def badByteOf (s : State) (q tag : Nat) : Option Nat :=
  s.fetchBad.foldl (fun b c => match c with
    | .command q1 t off => if q1 = q ∧ t = tag then some (min off (b.getD off)) else b
    | _ => b) none

/-- An outgoing command's segments (R347) for its transfer size, or the failure completed. -/
def cmdSend (s : State) (q tag : Nat) (c : Cmd) (buf : HostBuf) (size : Nat) (k : State → List (Nat × Nat) → State) : State :=
  match segsFor c buf size with
  | .bad off => completeField s q tag 0 off 0
  | .dma => completeDma s q tag
  | .ok l => k s l

/-- An incoming command's data (R347, R353): with a transfer size, exactly it; a read that fails completes the command. -/
def cmdFetch (s : State) (q tag : Nat) (c : Cmd) (buf : HostBuf) (size : Option Nat) (k : State → List Byte → State) : State :=
  match (match size with
    | some n => segsFor c buf n
    | none => dataSegs c buf) with
  | .bad off => completeField s q tag 0 off 0
  | .dma => completeDma s q tag
  | .ok l => match buf.data with
    | none => completeDma s q tag
    | some d => k s (padTo (segTotal l) d)

/-- The commands in flight that a test takes, by queue and tag. -/
def findCmds (s : State) (f : Nat → Cmd → Bool) : List (Nat × Nat) :=
  s.hq.queues.flatMap fun x => (x.2.cmds.filter fun p => f x.1 p.2).map fun p => (x.1, p.1)

/-- A handle is held by a command until its completion is posted. (DEDUCED, log 36) -/
def holdHandle (s : State) (q tag h : Nat) : State :=
  modCmd s q tag fun c => { c with holds := c.holds ++ [h] }

/-- The smallest unused tag run aligned to its length (R343). -/
def tagRunFree (s : State) (base n : Nat) : Bool :=
  s.hq.queues.all fun p => decide (base + n ≤ p.2.tagBase) || decide (p.2.tagBase + p.2.tagCount ≤ base)

def tagRunFrom (s : State) (n : Nat) : Nat → Nat → Option Nat
  | 0, _ => none
  | k + 1, i => if tagRunFree s (i * n) n then some (i * n) else tagRunFrom s n k (i + 1)

def lowestTagRun (s : State) (n : Nat) : Option Nat := if n = 0 then none else tagRunFrom s n (262144 / n) 0

/-- Tags of queues; queues of a party. -/
def tagsTotal (s : State) : Nat := (s.hq.queues.map fun p => p.2.tagCount).sum
def tagsOf (s : State) (p : Party) : Nat :=
  ((s.hq.queues.filter fun x => decide (x.2.owner = p)).map fun x => x.2.tagCount).sum
def queuesOf (s : State) (p : Party) : Nat := (s.hq.queues.filter fun x => decide (x.2.owner = p)).length

/-- Fetching pauses device-wide: an activation drains, or the control complex is lost (R350, R374). -/
def fetchPaused (s : State) : Bool := s.mbx.drain.isSome || interrupted s

/-! ### Host jobs (R366) -/

def modJob (s : State) (q tag : Nat) (f : Job → Job) : State := modCmd s q tag fun c => { c with job := c.job.map f }

/-- A header field of a job's descriptor (Table HQ-8). -/
def Job.at (j : Job) (off n : Nat) : Nat := leAt j.desc off n

def Job.frames (j : Job) : Nat := j.at 6 2

/-- A job whose frames have left, and whose pictures are written or abandoned, has its results written and completes (R366). (DEDUCED, log 31) -/
def settleJob (s : State) (q tag : Nat) : State :=
  match queueOf s q, cmdOf s q tag with
  | some x, some c =>
    match c.job with
    | none => s
    | some j =>
      if c.aborted ∨ c.finished ∨ j.left < j.frames ∨ j.pics ≠ [] then s
      else
        let s := j.recs.zipIdx.foldl (fun s p => emit s (.hostWrite x.fn (j.at 0x20 8 + 256 * p.2) (recBytes p.1))) s
        let st := if j.corrupt then stDataCorrupt else if j.budget then stBudget else stSuccess
        complete s q tag st 0 (BitVec.ofNat 32 j.frames) 0
  | _, _ => s

/-- A picture of a job's frame is written or abandoned: its own STATUS bits join the frame's (R366). -/
def noteJobPic (s : State) (q tag f e k : Nat) (budget corrupt : Bool) : State :=
  let own : Word := (if budget then 0x40000#32 else 0) ||| (if corrupt then 0x100000#32 else 0)
  let s := modJob s q tag fun j => { j with
    pics := j.pics.filter fun p => decide (p ≠ (f, e, k)), budget := j.budget || budget, corrupt := j.corrupt || corrupt,
    recs := j.recs.zipIdx.map fun p => if p.2 = f then (let r := p.1; { r with status := r.status ||| own }) else p.1 }
  settleJob s q tag

/-- Every queue bound to the volume has one more attachment to report (R251, R361). -/
def attachAll (s : State) : State :=
  { s with hq := { s.hq with queues := s.hq.queues.map fun p =>
      (p.1, if p.2.bindMag then { p.2 with attached := p.2.attached + 1 } else p.2) } }

end Sys2Proof.Machine
end

