-- ==== Sys2Proof/Machine/HevOps.lean ====
section
/-! DEFINITION. The encoder streams: their fields, picture order, rate control, budget, assembly and output units
(R258 to R281). What the coding of a CTU costs is an operand of CTU_ROW; H.265 payloads that ITU-T H.265 alone
defines are free bytes (notes/assumptions/3.md). -/

namespace Sys2Proof.Machine
open Sys2Proof

/-! ### Fields and registers -/

def encReg (e k off : Nat) : Nat := 0x100000 + 0x4000 * e + 0x100 * k + off

def modEnc (s : State) (e k : Nat) (f : EncStream → EncStream) : State :=
  { s with hev := { s.hev with streams := vMod s.hev.streams e fun v => vMod v k f } }

/-- A stream's fields in force in the registers. -/
def encSlice (s : State) (e k : Nat) : SMap Word := rmSlice s.regs (encReg e k 0) (encReg e k 0x2C)

/-- A field word of a stream as last latched. -/
def EncStream.word (st : EncStream) (e k off : Nat) : Word := rmGet st.cfg (encReg e k off)

/-- A stream's configuration, read once. -/
structure EncCfg where
  on : Bool
  hostJob : Bool
  mag : Bool
  gop : Nat
  nref : Nat
  frameDiv : Nat
  surf : Nat
  w : Nat
  h : Nat
  cra : Bool
  period : Nat
  rate : Nat
  maxBr : Nat
  cpb : Nat
  qpMax : Nat
  qpMin : Nat
  qpInit : Nat
  picCap : Nat
  rc : Nat
  aud : Bool
  recSei : Bool
  tcSei : Bool
  sliceRows : Nat
  ringMib : Nat

def encCfgOf (rd : Nat → Word) : EncCfg where
  on := bit (rd 0) 31
  hostJob := bit (rd 0) 30
  mag := bit (rd 0) 26
  gop := field (rd 0) 25 23
  nref := field (rd 0) 22 21
  frameDiv := field (rd 0) 20 17 + 1
  surf := field (rd 4) 4 0
  w := field (rd 8) 13 0
  h := field (rd 8) 29 16
  cra := bit (rd 0xC) 31
  period := field (rd 0xC) 15 0
  rate := (rd 0x10).toNat
  maxBr := (rd 0x14).toNat
  cpb := (rd 0x18).toNat
  qpMax := field (rd 0x1C) 21 16
  qpMin := field (rd 0x1C) 13 8
  qpInit := field (rd 0x1C) 5 0
  picCap := (rd 0x20).toNat
  rc := field (rd 0x24) 17 16
  aud := bit (rd 0x24) 14
  recSei := bit (rd 0x24) 13
  tcSei := bit (rd 0x24) 12
  sliceRows := field (rd 0x24) 7 0
  ringMib := field (rd 0x28) 15 0

/-- The configuration that a stream last latched. -/
def EncStream.conf (st : EncStream) (e k : Nat) : EncCfg := encCfgOf (st.word e k)

/-- The configuration that a picture is coded under (R258). -/
def EncPic.conf (p : EncPic) (e k : Nat) : EncCfg := encCfgOf fun off => rmGet p.cfg (encReg e k off)

/-- The configuration in force in the registers. -/
def encCfgNow (s : State) (e k : Nat) : EncCfg := encCfgOf fun off => regGet s (encReg e k off)

/-- The slot that a surface's rendition serves (R177, R188), where surface and rendition are enabled. -/
def surfSlot (s : State) (surf : Nat) : Option Nat :=
  let ctl := regGet s (surfReg surf 0)
  let rend := regGet s (0xA8000 + 0x100 * field ctl 28 24)
  if bit ctl 31 ∧ bit rend 31 then some (field rend 26 24) else none

/-- The STREAM byte of a stream (Tables MAG-5 and HEV-7). -/
def encByte (e k : Nat) : Nat := e + 4 * k

/-- Words whose change gives new parameter sets (R265): profile, tier, level, GOP, NREF, FRAME_DIV; size; IRAP; the coding tools with SLICE_ROWS;
and rate control turned on or off, with which the HRD parameters come and go. -/
def seqKey (rd : Nat → Word) : List Word :=
  [rd 0 &&& 0x3BFE00FF#32, rd 8, rd 0xC, rd 0x24 &&& 0x00000FFF#32, if field (rd 0x24) 17 16 = 0 then 0 else 1]

/-- The source format of a stream. -/
def encFormat (s : State) (e k : Nat) (c : EncCfg) : Nat :=
  if c.hostJob then regField s (encReg e k 4) 31 24 else regField s (surfReg c.surf 0) 23 16

/-- What a stream's header set carries beside its fields: the source format, and for a surface source the nominal period of its slot and
whether the slot ramps (R264, R265). -/
def headerSource (s : State) (e k : Nat) : Nat × ℚ × Bool :=
  let c := encCfgNow s e k
  match (if c.hostJob then none else surfSlot s c.surf) with
  | some n => (encFormat s e k c, nominalPeriod s s.regs n, decide (cadSource s.regs n ≤ 1) && decide (rampStep s.regs n ≠ 0))
  | none => (encFormat s e k c, 0, false)

/-- HEV events (R286): context FRAME with the slot and ordinal, the core as index, the stream as sub-index. -/
def hevEvent (s : State) (i code : Nat) (sev : Severity) (e k : Nat) (p : EncPic) : State :=
  event s .hev i code sev (ctxFrame p.slot 3 e k p.ord ((p.fr.map (·.tag)).getD 0) 0) 0

/-! ### Latching (R258, R264, R265) -/

/-- A lock-up that changes a stream's header set takes the static SEI staged for it; `a` and `b` are the configurations before and under the
forme (R264). -/
def lockSei (a b : State) (no : Nat) (s : State) : State :=
  { s with hev := { s.hev with streams := Vector.ofFn fun (e : Fin 4) => Vector.ofFn fun (k : Fin 16) =>
    let st := s.hev.streams[e][k]
    let cf := encCfgNow b e k
    if cf.on ∧ (encSlice a e k ≠ encSlice b e k ∨ headerSource a e k ≠ headerSource b e k) then
      { st with seiSets := st.seiSets ++ [(no, st.seiNext)] }
    else st } }

/-- The header sets of a Locked forme that is discarded are gone. -/
def unlockSei (no : Nat) (s : State) : State :=
  { s with hev := { s.hev with streams := s.hev.streams.map fun v => v.map fun st =>
    { st with seiSets := st.seiSets.filter fun x => decide (x.1 ≠ no) } } }

/-- The header sets of the formes that apply, up to a commit number. -/
def applySei (no : Nat) (s : State) : State :=
  { s with hev := { s.hev with streams := s.hev.streams.map fun v => v.map fun st => { st with
      seiSet := (((st.seiSets.filter fun x => decide (x.1 ≤ no)).getLast?).map (·.2)).getD st.seiSet,
      seiSets := st.seiSets.filter fun x => decide (no < x.1) } } }

/-- A new header set: parameter sets that ITU-T H.265 defines, and the static SEI that its lock-up took (R264). -/
def newHeaders (s : State) (e k : Nat) : State :=
  let (n, s) := freeNat s
  let (b, s) := freeBytes s n
  modEnc s e k fun st => { st with headers := b, sei := st.seiSet }

/-- A stream latches its fields before its next picture: with the stream enabled anew, or a field of the parameter sets changed, the next
picture is the first under new ones, and the picture cadence counts anew (R264 to R266). Pictures bound before keep their fields.
(DEDUCED, log 29) -/
def latchStream (s : State) (e : Fin 4) (k : Fin 16) : State :=
  let st := s.hev.streams[e][k]
  let now_ := encSlice s e k
  let src := headerSource s e k
  if st.cfg = now_ ∧ st.source = src then s
  else
    let a := st.conf e k
    let b := encCfgNow s e k
    let key : Bool := decide (seqKey (st.word e k) ≠ seqKey fun off => regGet s (encReg e k off)) || decide (st.source ≠ src)
    let s := if b.on then newHeaders s e k else s
    let anew := b.on && !a.on
    modEnc s e k fun st => { st with
      cfg := now_, source := src, firings := 0, wantIrap := st.wantIrap || anew || (b.on && key), anew := st.anew || anew }

/-- A stream with no picture waiting or in progress latches at once, the others before their next picture (Table FRM-9). (DEDUCED, log 11) -/
def latchIdleStream (s : State) (e : Fin 4) (k : Fin 16) : State :=
  let st := s.hev.streams[e][k]
  if st.waiting = [] ∧ st.cur.isNone then latchStream s e k else s

/-! ### Pictures not coded (R268, R279) -/

/-- The first picture under new parameter sets is not coded: the next one is the first (R265). -/
def EncStream.passFirst (st : EncStream) (p : EncPic) : EncStream :=
  if ¬ p.first then st
  else match st.waiting with
    | [] => { st with wantIrap := true, anew := st.anew || p.anew }
    | q :: r => { st with waiting := { q with first := true, anew := q.anew || p.anew } :: r }

/-- The picture being coded is abandoned: references and rate state as before it (R268). -/
def EncStream.abandon (st : EncStream) : EncStream :=
  match st.before with
  | none => { st with cur := none }
  | some b => { st with
    cur := none, before := none, lastIdr := b.lastIdr, base := b.base, anchor := b.anchor, forceIrap := b.forceIrap, group := b.group,
    prevQp := b.prevQp, prevTarget := b.prevTarget, debt := b.debt, last := b.last, hrd := b.hrd }

/-- A bound picture is not coded: counted, reported, a GAP entry for the magazine, and in structure 3 the next picture an
IRAP. A host job hears of its own (R366). -/
def dropPicWith (s : State) (e k : Nat) (cf : EncCfg) (p : EncPic) (report : State → State) : State :=
  let s := report (count s (encReg e k 0x54))
  let s := if cf.mag ∧ p.job.isNone then
      let s := match p.item with
        | some it => freeItem s it
        | none => s
      addGap s (.stream (encByte e k) p.slot) p.ord (takeOf s p.slot p.ord) p.fr
    else s
  let s := modEnc s e k fun st =>
    let st := EncStream.passFirst { st with waiting := st.waiting.filter fun q => decide (q.bound ≠ p.bound) } p
    if cf.gop = 3 then { st with forceIrap := true, group := [] } else st
  match p.job with
  | some (q, tag, f) => noteJobPic s q tag f e k false false
  | none => s

def dropPic (s : State) (e k : Nat) (cf : EncCfg) (p : EncPic) (i code : Nat) (sev : Severity) : State :=
  dropPicWith s e k cf p fun s => hevEvent s i code sev e k p

/-! ### Starting a picture (R266, R267) -/

def blankPic (slot : Nat) (ord : Word) (bound at_ pos : Nat) : EncPic where
  slot := slot
  ord := ord
  job := none
  handle := none
  bound := bound
  boundAt := at_
  cfg := []
  headers := []
  sei := []
  first := false
  anew := false
  pos := pos
  ready := false
  lines := 0
  started := false
  ty := 1
  poc := 0
  irap := false
  forced := false
  qpBase := 0
  qp := 0
  qpMin := 63
  qpMax := 0
  target := 0
  cap := none
  capBytes := 0
  head := []
  sliceHdr := 0
  rows := 0
  bits := 0
  clamped := false
  skipping := false
  corrupt := false
  data := []
  fr := none
  item := none

/-- How many pictures may wait behind the one that occupies the core: one, and in structure 3 the group that its
reordering needs. (DEDUCED, log 29) -/
def waitLimit (gop : Nat) : Nat := if gop = 3 then 4 else 1

/-- A picture bound to a stream: a picture that waits behind another is overrun by it (R268). -/
def bindPic (s : State) (e : Fin 4) (k : Fin 16) (p : EncPic) : State :=
  let cf := (s.hev.streams[e][k]).conf e k
  let st := s.hev.streams[e][k]
  let p : EncPic := { p with cfg := st.cfg, headers := st.headers, sei := st.sei, first := st.wantIrap, anew := st.anew }
  let s := modEnc { s with hev := { s.hev with bindings := s.hev.bindings + 1 } } e k fun st =>
    { st with nextPos := st.nextPos + 1, lastBound := some (p.slot, p.ord), wantIrap := false, anew := false }
  let busy := st.cur.isSome
  let limit := if busy then waitLimit cf.gop else waitLimit cf.gop + 1
  let s := if p.job.isNone ∧ st.waiting.length ≥ limit then
      match st.waiting.getLast? with
      | some old => dropPic s e k (old.conf e k) old 1 0x02 .itemFailed
      | none => s
    else s
  -- a first picture overrun leaves its place to this one
  modEnc s e k fun st => { st with
    waiting := st.waiting ++ [{ p with first := p.first || st.wantIrap, anew := p.anew || st.anew }], wantIrap := false, anew := false }

/-- An ENC_START firing of a slot (R266). -/
def encFire (s : State) (slot : Fin 8) (e : Fin 4) (k : Fin 16) : State :=
  let cf := encCfgNow s e k
  let ok := cf.on && !cf.hostJob && decide (surfSlot s cf.surf = some slot.val)
  if ¬ ok then count s (encReg e k 0x5C)
  else
    let s := latchStream s e k
    let st := s.hev.streams[e][k]
    let ord := BitVec.ofNat 32 ((s.ref.slots[slot]).issued - 1)
    let s1 := modEnc s e k fun st => { st with firings := (st.firings + 1) % cf.frameDiv }
    if st.firings ≠ 0 then s1
    else if st.lastBound = some (slot.val, ord) then count s (encReg e k 0x5C)
    else bindPic s1 e k (blankPic slot ord s.hev.bindings s.now st.nextPos)

/-! ### Which picture is next (R269, R270) -/

/-- The picture that the stream codes next: in structure 3 the group in decode order, then the next anchor; pictures that new parameter sets
leave without their anchor are coded in output order. (DEDUCED, log 29) -/
def EncStream.next (st : EncStream) (e k : Nat) : Option EncPic :=
  match st.waiting with
  | [] => none
  | h :: r =>
    let run := h :: r.takeWhile fun q => !q.first
    let at_ := fun (x : Nat) => run.find? fun q => decide (q.pos = x)
    if (h.conf e k).gop ≠ 3 ∨ h.first ∨ st.forceIrap then some h
    else match st.group.findSome? at_ with
    | some p => some p
    | none => (at_ (st.anchor + 4)).orElse fun _ => if run.length ≤ r.length then some h else none

/-- Whether the picture at a position is an IRAP by the period (R269). -/
def EncStream.periodic (st : EncStream) (cf : EncCfg) (pos : Nat) : Bool :=
  decide (cf.period ≠ 0) && decide ((pos - st.base) % cf.period = 0) && decide (st.base ≤ pos)

/-- The type of the picture coded next at a position: 0 I, 1 P, LOW_DELAY_B or anchor, 2 B, 3 b. (DEDUCED, log 29) -/
def EncStream.typeAt (st : EncStream) (cf : EncCfg) (first : Bool) (pos : Nat) : Nat :=
  if first ∨ st.forceIrap ∨ st.periodic cf pos ∨ cf.gop = 0 then 0
  else if cf.gop = 3 ∧ pos < st.anchor then (if (st.anchor - pos) = 2 then 2 else 3) else 1

/-! ### Rate control (R271, R272) -/

/-- The weight of a picture type. -/
def encWeight (gop ty : Nat) : ℚ :=
  match ty with
  | 0 => 4
  | 1 => if gop = 3 then 2 else 1
  | 2 => 1
  | _ => 1 / 2

/-- N / W_N: pictures of one IRAP period over their weights. -/
def encShare (cf : EncCfg) : ℚ :=
  let n := if cf.period = 0 then 60 else cf.period
  let w : ℚ := match cf.gop with
    | 0 => 4 * (n : ℚ)
    | 3 => 4 + 2 * ((n / 4 - 1 : Nat) : ℚ) + ((n / 4 : Nat) : ℚ) + ((n / 2 : Nat) : ℚ) / 2
    | _ => 4 + ((n - 1 : Nat) : ℚ)
  if w = 0 then 1 else (n : ℚ) / w

/-- rate_pp in bits. A host-job stream has no frame period: its value is free. (DEDUCED, log 29) -/
def ratePp (s : State) (cf : EncCfg) : ℚ × State :=
  if cf.hostJob then
    let (n, s) := freeNat s
    ((n : ℚ), s)
  else
    let p := match surfSlot s cf.surf with
      | some n => nominalPeriod s s.regs n
      | none => 0
    ((cf.rate : ℚ) * 1000 * (p * (cf.frameDiv : ℚ) / 1000000000) * encShare cf, s)

/-- round(6 × log2(x)) limited to −4 to 4: the n with 2^(2n − 1) ≤ x¹² < 2^(2n + 1). -/
def sixLog (x : ℚ) : Int :=
  let y := x ^ 12
  if y ≥ 2 ^ 7 then 4 else if y ≥ 2 ^ 5 then 3 else if y ≥ 2 ^ 3 then 2 else if y ≥ 2 then 1
  else if y * 2 ≥ 1 then 0 else if y * 2 ^ 3 ≥ 1 then -1 else if y * 2 ^ 5 ≥ 1 then -2
  else if y * 2 ^ 7 ≥ 1 then -3 else -4

def clampNat (x : Int) (lo hi : Nat) : Nat := (max (lo : Int) (min x (hi : Int))).toNat

/-- The rate decision for a picture of a type (R271): base QP and target in bits. (DEDUCED, log 29) -/
def rateDecision (cf : EncCfg) (st : EncStream) (pp : ℚ) (ty : Nat) : Nat × ℚ :=
  let w := encWeight cf.gop ty
  let target := max (pp * w - st.debt / 8) (pp * w / 4)
  let qp : Int := match st.last.toList.getD ty none with
    | some (q, bits, tgt) => (q : Int) + (if tgt = 0 then 4 else sixLog ((bits : ℚ) / (tgt : ℚ)))
    | none => (cf.qpInit : Int)
  (clampNat qp cf.qpMin cf.qpMax, target)

/-- Base QP and target in bytes of a picture that starts (R271, R272). -/
def startRate (s : State) (e : Fin 4) (k : Fin 16) (cf : EncCfg) : (Nat × Nat) × State :=
  let st := s.hev.streams[e][k]
  let w := regGet s (encReg e k 0x40)
  if cf.rc = 0 then ((cf.qpInit, 0), s)
  else if bit w 31 then
    ((field w 5 0, (regGet s (encReg e k 0x44)).toNat), regSet s (encReg e k 0x40) (clrBit w 31))
  else match st.prevQp with
    | some q => ((q, st.prevTarget), s)
    | none =>
      let (pp, s) := ratePp s cf
      ((cf.qpInit, (pp / 8).floor.toNat), s)

/-! ### HRD and cap (R273) -/

/-- HRD fullness in bits at the removal of the next picture: it fills at MAXBR for one picture interval, up to CPB. What it
holds before the first picture, and over a host-job interval, is free. (DEDUCED, log 29) -/
def hrdNow (s : State) (cf : EncCfg) (st : EncStream) : ℚ × State :=
  let full : ℚ := (cf.cpb : ℚ) * 1000
  match st.hrd with
  | none =>
    let (n, s) := freeNat s
    (min (n : ℚ) full, s)
  | some f =>
    if cf.hostJob then
      let (n, s) := freeNat s
      (min (f + (n : ℚ)) full, s)
    else
      let p := match surfSlot s cf.surf with
        | some n => nominalPeriod s s.regs n
        | none => 0
      (min (f + (cf.maxBr : ℚ) * 1000 * (p * (cf.frameDiv : ℚ) / 1000000000)) full, s)

/-- B_cap in bits; none when unbounded (R273). (DEDUCED, log 29) -/
def capBits (cf : EncCfg) (hrd : ℚ) : Option Nat :=
  let f := (hrd / 8).floor.toNat
  if cf.rc = 0 then (if cf.picCap = 0 then none else some (8 * cf.picCap))
  else some (8 * (if cf.picCap = 0 then f else min cf.picCap f))

/-! ### NAL units (R264) -/

/-- Emulation prevention: 0x03 after two zero bytes before a byte of at most 3. -/
def emulate : Nat → List Byte → List Byte
  | _, [] => []
  | z, b :: r =>
    if z ≥ 2 ∧ b.toNat ≤ 3 then 3#8 :: b :: emulate (if b = 0 then 1 else 0) r
    else b :: emulate (if b = 0 then z + 1 else 0) r

/-- An Annex B NAL unit of a type with a four-byte start code. -/
def nalUnit (ty : Nat) (body : List Byte) : List Byte :=
  [0, 0, 0, 1#8, BitVec.ofNat 8 (2 * ty), 1#8] ++ emulate 0 body

/-- A number coded as 0xFF bytes and a last byte. -/
def ffCode : Nat → Nat → List Byte
  | 0, _ => []
  | f + 1, n => if n ≥ 255 then 0xFF#8 :: ffCode f (n - 255) else [BitVec.ofNat 8 n]

/-- A prefix SEI message. -/
def seiNal (ty : Nat) (payload : List Byte) : List Byte :=
  nalUnit 39 (ffCode 8 ty ++ ffCode (payload.length + 1) payload.length ++ payload ++ [0x80#8])

/-- The access unit delimiter: pic_type 0 for I slices, 1 for P, 2 with B slices. -/
def audNal (sliceTy : Nat) : List Byte := nalUnit 35 [BitVec.ofNat 8 (32 * sliceTy + 16)]

/-- The identifier of the frame-record SEI. -/
def recSeiId : List Byte := beBytes 4 0x5448524D ++ beBytes 4 0x45563936 ++ beBytes 4 0x34304652 ++ beBytes 4 0x45430001

/-- Filler data NAL units of at least `n` bytes (R273). -/
def fillerNal (n : Nat) : List Byte :=
  if n = 0 then [] else [0, 0, 0, 1#8, 76#8, 1#8] ++ List.replicate (n - 7) 0xFF#8 ++ [0x80#8]

/-- The slice type code of a picture: 0 I, 1 P, 2 B. -/
def sliceType (gop ty : Nat) : Nat := if ty = 0 then 0 else if gop = 2 ∨ ty ≥ 2 then 2 else 1

/-- The access unit up to its slice segments, but for the frame-record SEI: AUD, parameter sets, prefix SEI (R264). `n3` is
how many bytes the SEI messages that H.265 alone defines take. -/
def auHead (s : State) (cf : EncCfg) (p : EncPic) (ty : Nat) (irap : Bool) (n3 : Nat) : List Byte × State :=
  let (b, s) := freeBytes s (if cf.rc = 0 ∧ ¬ cf.tcSei then 0 else n3)
  ((if cf.aud then audNal (sliceType cf.gop ty) else []) ++ (if irap then p.headers else [])
    ++ b ++ (p.sei.flatMap fun p => seiNal p.1 p.2), s)

/-- The frame-record SEI of a record (R264). -/
def recSei (cf : EncCfg) (fr : List Byte) : List Byte := if cf.recSei then seiNal 5 (recSeiId ++ fr) else []

/-! ### Output units (R278 to R280) -/

/-- The stream's copy of the frame record: BUDGET_EXHAUSTED and OUT_CORRUPT. -/
def encRecord (p : EncPic) : List Byte := match p.fr with
  | none => zeros 256
  | some fr =>
    let st := if p.clamped || p.skipping then setBit fr.status 18 else fr.status
    recBytes { fr with status := if p.corrupt then setBit st 20 else st }

/-- POC of a picture that starts (R265). -/
def pocOf (origin pos : Nat) : Nat := (pos - origin) % 2 ^ 31

/-- The unit header (Table HEV-7). -/
def unitHeader (e k : Nat) (cf : EncCfg) (st : EncStream) (p : EncPic) : List Byte :=
  let b := fun (x : Bool) => if x then 1 else 0
  let flags := b p.irap + 2 * b p.irap + 4 * b (p.clamped || p.skipping) + 16 * b p.forced + 32 * b p.corrupt
    + 64 * b (cf.gop ≠ 0 && p.ty ≠ 3) + 128 * sliceType cf.gop p.ty
  [0x48#8, 0x56#8, 0x55#8, 0x31#8, 1#8, BitVec.ofNat 8 (encByte e k)] ++ leBytes 2 flags ++ leBytes 4 st.units
    ++ leBytes 4 p.poc ++ leBytes 4 p.data.length
    ++ [BitVec.ofNat 8 p.qpBase, BitVec.ofNat 8 p.qpMin, BitVec.ofNat 8 p.qpMax, 0] ++ leBytes 4 p.target
    ++ leBytes 4 p.capBytes ++ leBytes 4 ((p.job.map fun j => j.2.2).getD p.ord.toNat) ++ zeros 28

/-- Bytes that units take in a ring: they start on 64-byte boundaries. -/
def ringBytes (l : List RingUnit) : Nat := (l.map fun u => 64 * ceilDiv u.bytes.length 64).sum

/-- Room made in a ring: the oldest units overwritten until the new one fits; how many. -/
def ringRoom : Nat → List RingUnit → Nat → Nat → List RingUnit × Nat
  | 0, l, _, _ => (l, 0)
  | f + 1, l, need, cap =>
    if ringBytes l + need ≤ cap then (l, 0)
    else match l with
      | [] => ([], 0)
      | _ :: r => let (l1, n) := ringRoom f r need cap; (l1, n + 1)

/-- A unit written to the ring (R279, R280). -/
def toRing (s : State) (e : Fin 4) (k : Fin 16) (cf : EncCfg) (p : EncPic) (bytes : List Byte) : State :=
  let st := s.hev.streams[e][k]
  let (l, lost) := ringRoom (st.ring.length + 1) st.ring (64 * ceilDiv bytes.length 64) (cf.ringMib * 1048576)
  let s := modEnc s e k fun st => { st with ring := l ++ [{ bytes := bytes }] }
  if lost = 0 then s
  else
    let s := hevEvent (countN s (encReg e k 0x58) lost) 3 0x04 .degraded e k p
    modEnc s e k fun st => { st with discont := true, forceIrap := true, group := [] }

/-- The units that fit in a capacity, oldest first, at most 255 (R367). -/
def unitsThatFit : Nat → List RingUnit → Nat → List RingUnit
  | 0, _, _ => []
  | _, [], _ => []
  | n + 1, u :: r, room => if u.bytes.length ≤ room then u :: unitsThatFit n r (room - u.bytes.length) else []

/-- DISCONTINUITY of a unit's header (Table HEV-7). -/
def markDiscont (l : List Byte) : List Byte := l.take 6 ++ [byteAt l 6 ||| 8#8] ++ l.drop 7

/-- A pull copies from a stream with a unit ready (R280, R367); the units copied are released. (DEDUCED, log 36) -/
def pullUnits (s : State) (e k q tag fn : Nat) (segs : List (Nat × Nat)) (st : EncStream) : State :=
  match st.ring with
  | [] => s
  | u :: _ =>
    let cap := segTotal segs
    if u.bytes.length > cap then complete s q tag stInvalidField 0 (BitVec.ofNat 32 u.bytes.length) 32
    else
      let l := unitsThatFit 255 st.ring cap
      let bytes := (l.map (·.bytes)).flatten
      let s := scatter s fn segs (if st.discont then markDiscont bytes else bytes)
      let s := modEnc s e k fun st => { st with ring := st.ring.drop l.length, discont := false }
      complete s q tag stSuccess l.length (BitVec.ofNat 32 bytes.length) 0

/-- The STREAM_PULL of a stream that has waited longest. -/
def oldestPull (s : State) (e k : Nat) : Option (Nat × Nat × Cmd) :=
  let l := (findCmds s fun _ c => decide (c.op = 0x20) && decide (c.arg0 % 64 = e + 4 * k) && c.waiting && !c.finished && !c.aborted)
  l.foldl (fun b p => match cmdOf s p.1 p.2 with
    | none => b
    | some c => match b with
      | some (_, _, d) => if c.order < d.order then some (p.1, p.2, c) else b
      | none => some (p.1, p.2, c)) none

/-- Waiting pulls of a stream served while units are ready (R367). (DEDUCED, log 36) -/
def settlePulls : Nat → State → Fin 4 → Fin 16 → State
  | 0, s, _, _ => s
  | n + 1, s, e, k =>
    match oldestPull s e k, (s.hev.streams[e][k]).ring with
    | some (q, tag, c), _ :: _ =>
      let fn := ((queueOf s q).map (·.fn)).getD 0
      settlePulls n (pullUnits s e k q tag fn c.segs s.hev.streams[e][k]) e k
    | _, _ => s

/-- Commands in flight. -/
def cmdsInFlight (s : State) : Nat := (s.hq.queues.map fun x => x.2.cmds.length).sum

/-- A unit of a magazine-bound stream becomes ready in the galley, in its take; outside any take it is released. (DEDUCED, log 27) -/
def toGalley (s : State) (p : EncPic) (bytes : List Byte) : State :=
  match p.item with
  | none => s
  | some it =>
    match takeOf s p.slot p.ord with
    | none => freeItem s it
    | some t =>
      let n := s.gal.nextSeal
      let recent := ((s.now, bytes.length) :: s.gal.streamed).filter fun q => decide (s.now < q.1 + 250000000)
      let s := { s with gal := { s.gal with nextSeal := n + 1, streamed := recent } }
      let s := modItem s it fun i => { i with ready := true, sealNo := n, data := bytes, units := units4k bytes.length, take := some t, fr := p.fr }
      syncWait s

/-- The output unit of a coded picture whose record is sealed (R278, R279). -/
def emitUnit (s : State) (e : Fin 4) (k : Fin 16) (p : EncPic) : State :=
  let st := s.hev.streams[e][k]
  let cf := p.conf e k
  let fr := encRecord p
  -- the frame-record SEI stands between the other SEI and the slice segments
  let au := p.head ++ recSei cf fr ++ p.data.drop p.head.length
  let p := { p with data := au }
  let bytes := unitHeader e k cf st p ++ fr ++ au
  let s := regSet s (encReg e k 0x60) (BitVec.ofNat 32 au.length)
  let s := modEnc s e k fun st => { st with units := st.units + 1 }
  let s := if p.item.isSome then toGalley s p bytes else toRing s e k cf p bytes
  let s := settlePulls (cmdsInFlight s) s e k
  match p.job with
  | some (q, tag, f) => noteJobPic s q tag f e k (p.clamped || p.skipping) p.corrupt
  | none => s

/-- Coded pictures whose records are sealed are emitted, in decode order. -/
def emitReady : Nat → State → Fin 4 → Fin 16 → State
  | 0, s, _, _ => s
  | f + 1, s, e, k =>
    match (s.hev.streams[e][k]).coded with
    | p :: r =>
      if p.fr.isSome then
        emitReady f (emitUnit (modEnc s e k fun st => { st with coded := r }) e k p) e k
      else s
    | [] => s

/-! ### What other blocks tell the streams (R22, R267, R268) -/

/-- A change on every stream. -/
def forStreams (s : State) (f : State → Fin 4 → Fin 16 → State) : State :=
  (List.finRange 4).foldl (fun s e => (List.finRange 16).foldl (fun s k => f s e k) s) s

/-- A surface has a buffer for a frame with so many lines complete, and `whole` when all are: pictures bound to the frame read it (R267). -/
def encSource (s : State) (surf slot : Nat) (ord : Word) (h lines : Nat) (whole : Bool) : State :=
  forStreams s fun s e k =>
    let put := fun (p : EncPic) =>
      if p.slot = slot ∧ p.ord = ord ∧ p.job.isNone ∧ (p.conf e k).surf = surf then { p with handle := some h, lines := lines, ready := whole } else p
    modEnc s e k fun st => { st with waiting := st.waiting.map put, cur := st.cur.map put }

/-- A surface has skipped or dropped a frame: pictures bound to it are not coded. -/
def encNoSource (s : State) (surf slot : Nat) (ord : Word) : State :=
  forStreams s fun s e k =>
    let st := s.hev.streams[e][k]
    let hit := fun (p : EncPic) => decide (p.slot = slot) && decide (p.ord = ord) && p.job.isNone && decide ((p.conf e k).surf = surf)
    let s := match st.cur with
      | some p => if hit p then dropPic (modEnc s e k EncStream.abandon) e k (p.conf e k) p 2 0x03 .info else s
      | none => s
    (st.waiting.filter hit).foldl (fun s p => dropPic s e k (p.conf e k) p 2 0x03 .info) s

/-- A picture has been bound to a frame that the imposition has begun already: it reads the buffer that the surface chose, or has no source
(R267, R268). -/
def encLate (s : State) (e : Fin 4) (k : Fin 16) (slot : Nat) (ord : Word) : State :=
  let surf := ((s.hev.streams[e][k]).conf e k).surf
  let awaited := (s.ing.frames.toList.getD slot []).any fun f => decide (f.fr.ord = ord) && !f.closed && !f.gone.contains surf
  let bound := (s.hev.streams[e][k]).waiting.any fun p => decide (p.slot = slot) && decide (p.ord = ord) && p.job.isNone && !p.ready
  if bound = false then s
  else
    let put := fun (h lines : Nat) (whole : Bool) (fr : Option FrameRec) => modEnc s e k fun st => { st with
      waiting := st.waiting.map fun p => if p.slot = slot ∧ p.ord = ord ∧ p.job.isNone then
        { p with handle := some h, lines := lines, ready := whole, fr := fr } else p }
    match s.imp.writing.find? fun w => decide (w.surf = surf) && decide (w.slot = slot) && decide (w.ord = ord) with
    | some w => put w.handle w.lines w.written w.fr
    | none =>
      if awaited then s
      else match s.imp.lastFr.toList.getD surf none with
      | some r => if r.slot = slot ∧ r.ord = ord then put (s.imp.latest.toList.getD surf 0) 0 true (some r) else encNoSource s surf slot ord
      | none => encNoSource s surf slot ord

/-- A frame's record is sealed: its pictures take their copies, and coded ones are emitted. -/
def encSealed (s : State) (slot : Nat) (fr : FrameRec) : State :=
  forStreams s fun s e k =>
    let put := fun (p : EncPic) =>
      if p.job.isNone ∧ p.slot = slot ∧ p.ord = fr.ord then { p with fr := some fr } else p
    let s := modEnc s e k fun st =>
      { st with waiting := st.waiting.map put, cur := st.cur.map put, coded := st.coded.map put }
    emitReady ((s.hev.streams[e][k]).coded.length) s e k

/-- A stream's fetch has met an uncorrectable error (R277): a reference forces the next picture to an IRAP. -/
def encFetchError (s : State) (e : Fin 4) (k : Fin 16) (isRef : Bool) : State :=
  match (s.hev.streams[e][k]).cur with
  | none => s
  | some p =>
    let s := modEnc s e k fun st => { st with cur := some { p with corrupt := true } }
    let s := hevEvent s 5 0x06 .degraded e k p
    if isRef then modEnc s e k fun st => { st with forceIrap := true, group := [] } else s

/-! ### Pictures (R267, R270, R274, R279) -/

/-- A picture starts: type, cap, base QP, galley space. None when the galley cannot reserve space. -/
def startPic (s : State) (e : Fin 4) (k : Fin 16) (p : EncPic) (n3 sh : Nat) : State :=
  let st := s.hev.streams[e][k]
  let cf := p.conf e k
  let ty := st.typeAt cf p.first p.pos
  let irap := p.first || st.forceIrap || st.periodic cf p.pos
  let forced := irap && st.forceIrap
  let before : EncBefore := {
    lastIdr := st.lastIdr, base := st.base, anchor := st.anchor, forceIrap := st.forceIrap, group := st.group, prevQp := st.prevQp,
    prevTarget := st.prevTarget, debt := st.debt, last := st.last, hrd := st.hrd }
  -- a stream enabled anew has no history
  let s := if p.anew then modEnc s e k fun st => { st with prevQp := none, prevTarget := 0, debt := 0, last := Vector.replicate 4 none, hrd := none }
    else s
  let st := s.hev.streams[e][k]
  let (hrd, s) := hrdNow s cf st
  let cap := capBits cf hrd
  let (capB, s) := match cap with
    | some b => (b / 8, s)
    | none => let (n, s) := freeNat s; (n % 2 ^ 32, s)
  let (item, s) := if cf.mag ∧ p.job.isNone then
      (let r := reserveGal s (.stream (encByte e k) p.slot) p.ord (capB + 320) p.slot; (r.1, r.2))
    else (some 0, s)
  match item with
  | none =>
    let s := dropPic s e k cf p 4 0x05 .itemFailed
    modEnc s e k fun st => { st with forceIrap := true, group := [] }
  | some it =>
    let ((qp, target), s) := startRate s e k cf
    let idr := irap && !cf.cra
    let origin := if idr || p.anew then p.pos else st.lastIdr
    let (head, s) := auHead s cf p ty irap n3
    let slices := if cf.sliceRows = 0 then 1 else ceilDiv (ceilDiv cf.h 64) cf.sliceRows
    let p := { p with
      started := true, ty := ty, poc := pocOf origin p.pos, irap := irap, forced := forced, qpBase := qp, qp := qp, target := target, cap := cap,
      capBytes := capB, head := head, sliceHdr := sh * slices, item := if cf.mag ∧ p.job.isNone then some it else none }
    modEnc s e k fun st => { st with
      waiting := st.waiting.filter fun q => decide (q.bound ≠ p.bound), cur := some p, hrd := some hrd,
      prevQp := some qp, prevTarget := target,
      before := some before, lastIdr := origin,
      base := if idr || p.anew || (irap && cf.gop = 3) then p.pos else st.base,
      anchor := if cf.gop = 3 ∧ (irap ∨ p.pos > st.anchor) then p.pos else st.anchor,
      group := if cf.gop = 3 ∧ ¬ irap ∧ p.pos > st.anchor then [p.pos - 2, p.pos - 3, p.pos - 1]
        else if cf.gop = 3 ∧ irap ∧ st.periodic cf p.pos ∧ ¬ p.first ∧ ¬ st.forceIrap then
          [p.pos - 2, p.pos - 3, p.pos - 1]
        else if irap then [] else st.group.filter fun x => decide (x ≠ p.pos),
      forceIrap := st.forceIrap && !irap }

/-- The slice-data budget B of a picture (R273); `recLen` bytes are the frame-record SEI's. -/
def sliceBudget (cf : EncCfg) (p : EncPic) : Option Nat :=
  p.cap.map fun b => b - (8 * (p.head.length + (recSei cf (zeros 256)).length) + p.sliceHdr)

/-- The CTUs of a row before any of the picture is skipped (R274 stage 2), from each CTU's bits as coded, with `after` CTUs after the row, `h`
header bits of slices not begun and the bits used so far: the bits of those coded as they are, and how many are coded again as skip. -/
def codeCtus (b : Option Nat) (h after : Nat) : List Nat → Nat → Nat × Nat
  | [], u => (u, 0)
  | c :: r, u =>
    if b.any fun b => decide (u + c + 32 * (r.length + after) + h > b) then (u, r.length + 1)
    else codeCtus b h after r (u + c)

/-- The row loop (R272): the QP of the next row. -/
def rowLoop (cf : EncCfg) (target j rows u qp : Nat) : Nat :=
  let t : ℚ := 8 * (target : ℚ) * ((j + 1 : Nat) : ℚ) / (rows : ℚ)
  let x : ℚ := (u : ℚ)
  let q : Int := if x > t + t / 4 then (qp : Int) + 2 else if x > t + t / 16 then (qp : Int) + 1
    else if x < t - t / 16 then (qp : Int) - 1 else (qp : Int)
  clampNat q cf.qpMin cf.qpMax

/-- The picture has its last row: it joins the coded ones, and the rate and HRD models take its size. (DEDUCED, log 29) -/
def finishPic (s : State) (e : Fin 4) (k : Fin 16) (p : EncPic) : State :=
  let st := s.hev.streams[e][k]
  let cf := p.conf e k
  let (slices, s) := freeBytes s (ceilDiv (p.bits + p.sliceHdr) 8)
  let auLen := p.head.length + (recSei cf (zeros 256)).length + slices.length
  let bits := 8 * auLen
  let full : ℚ := (cf.cpb : ℚ) * 1000
  let left := (st.hrd.getD 0) - (bits : ℚ)
  let inflow : ℚ := match (if cf.hostJob then none else surfSlot s cf.surf) with
    | some n => (cf.maxBr : ℚ) * 1000 * (nominalPeriod s s.regs n * (cf.frameDiv : ℚ) / 1000000000)
    | none => 0
  let over_ := left + inflow - full
  let fill := if cf.rc = 1 ∧ over_ > 0 then fillerNal (max 7 (over_ / 8).ceil.toNat) else []
  let p := { p with data := p.head ++ slices ++ fill }
  let (pp, s) := if cf.rc = 0 then (0, s) else ratePp s cf
  let debt := st.debt - st.debt / 8 + ((bits : ℚ) - 8 * (p.target : ℚ))
  let debt := if cf.rc = 2 then max debt (-4 * pp) else debt
  let s := count s (encReg e k 0x4C)
  let spent := p.clamped || p.skipping
  let s := if spent then hevEvent (count s (encReg e k 0x50)) 0 0x01 .info e k p else s
  let s := modEnc s e k fun st => { st with
    cur := none, before := none, coded := st.coded ++ [p], debt := if cf.rc = 0 then st.debt else debt,
    last := vMod st.last p.ty fun _ => some (p.qpBase, bits, 8 * p.target),
    hrd := some (left - (8 * fill.length : Nat)) }
  let s := regSet s (encReg e k 0x48) (packFields [(24, p.qpBase), (0, p.poc % 65536)])
  emitReady ((s.hev.streams[e][k]).coded.length) s e k

/-- One CTU row of a picture that has started (R270, R272, R274). The bits of CTUs coded again, at most 32 each, are free. (DEDUCED, log 29) -/
def codeRow (s : State) (e : Fin 4) (k : Fin 16) (p : EncPic) (ctus : List Nat) (sh : Nat) : State :=
  let cf := p.conf e k
  let across := ceilDiv cf.w 64
  let rows := ceilDiv cf.h 64
  let cs := (ctus ++ List.replicate across 0).take across
  let b := sliceBudget cf p
  let begun := if cf.sliceRows = 0 then 1 else p.rows / cf.sliceRows + 1
  let slices := if cf.sliceRows = 0 then 1 else ceilDiv rows cf.sliceRows
  let (u, skipped) := if p.skipping then (p.bits, cs.length) else codeCtus b (sh * (slices - begun)) (across * (rows - 1 - p.rows)) cs p.bits
  let skip := decide (0 < skipped)
  let (x, s) := if skip then freeNat s else (0, s)
  let u := u + x % (32 * skipped + 1)
  let a := u - p.bits
  let left := rows - 1 - p.rows
  let clamp := p.clamped || (b.any fun b => decide (u + left * a > b) && decide (left > 0))
  let qp := if clamp then cf.qpMax else if cf.rc = 0 then p.qp else rowLoop cf p.target p.rows rows u p.qp
  let p := { p with
    rows := p.rows + 1, bits := u, skipping := skip, clamped := clamp, qp := qp,
    qpMin := min p.qpMin p.qp, qpMax := max p.qpMax p.qp }
  let s := count s (0x110008 + 0x40 * e.val)
  let s := regSet s (0x110000 + 0x40 * e.val) (packFields [(0, k.val)])
  if p.rows ≥ rows then finishPic s e k p
  else modEnc s e k fun st => { st with cur := some p }

/-- The source has the lines of a picture's next CTU row (R267). -/
def EncPic.rowReady (p : EncPic) (e k : Nat) : Bool := p.ready || decide (min (64 * (p.rows + 1)) (p.conf e k).h ≤ p.lines)

/-- The picture that a stream would code a row of: the one in progress, else the next one, once its source has the row's lines (R267). (DEDUCED, log 29) -/
def rowPic (s : State) (e : Fin 4) (k : Fin 16) : Option EncPic :=
  let st := s.hev.streams[e][k]
  (st.cur.orElse fun _ => st.next e k).filter fun p => p.rowReady e k

/-- The stream that a core serves in the next row slot (R270): earliest bound, surface sources before host jobs. -/
def rowStream (s : State) (e : Fin 4) : Option (Fin 16) :=
  let pick := fun (job : Bool) => (List.finRange 16).foldl (fun (b : Option (Fin 16 × Nat)) (k : Fin 16) =>
    match rowPic s e k with
    | some p =>
      if p.job.isSome ≠ job then b
      else match b with
        | some (_, n) => if p.boundAt < n then some (k, p.boundAt) else b
        | none => some (k, p.boundAt)
    | none => b) none
  match pick false with
  | some (k, _) => some k
  | none => (pick true).map (·.1)

/-- HEV.Ee_Sk_STATE[31:30] (Table HEV-1): 0 idle, 1 waiting for rows, 2 coding. (DEDUCED, log 29) -/
def streamState (s : State) (e : Fin 4) (k : Fin 16) : Nat :=
  let st := s.hev.streams[e][k]
  if st.cur.isNone ∧ st.waiting = [] then 0 else if (rowPic s e k).isSome then 2 else 1

end Sys2Proof.Machine
end

