-- ==== Sys2Proof/Machine/LatchOps.lean ====
section
/-! DEFINITION. When every domain has latched a strobe's formes (R78, Table FRM-9): FRM.STATE.IN_FORCE and FRM.EVENTS.APPLIED. -/

namespace Sys2Proof.Machine
open Sys2Proof

/-- A head shows the fields in force; one without a raster latches at once. -/
def headLatched (s : State) (h : Fin 6) : Bool := let x := s.dsp.heads[h]; !x.raster || decide (x.cfg = headSlice s h.val)

/-- A stream has the fields in force. -/
def streamLatched (s : State) (e : Fin 4) (k : Fin 16) : Bool :=
  let st := s.hev.streams[e][k]
  decide (st.cfg = encSlice s e k) && decide (st.source = headerSource s e k)

/-- A sender has the fields in force. -/
def sndLatched (s : State) (i : Fin 48) : Bool := decide ((s.net.snds[i]).cfg = sndSlice s i.val)

/-- An audio port has the fields in force. -/
def audLatched (s : State) (a : Fin 8) : Bool := decide ((s.aud[a]).cfg = rmSlice s.regs (audReg a.val 0) (audReg a.val 0x20))

/-- Every domain has latched the formes applied (R78). -/
def allLatched (s : State) : Bool :=
  s.frm.latchSlots.isEmpty && (List.finRange 6).all (headLatched s)
    && ((List.finRange 4).all fun e => (List.finRange 16).all fun k => streamLatched s e k)
    && (List.finRange 48).all (sndLatched s) && (List.finRange 8).all (audLatched s)

/-- IN_FORCE takes the last forme applied, and APPLIED is set, once every domain has latched (R78). (DEDUCED, log 18) -/
def settleApplied (s : State) : State :=
  if s.frm.latching ∧ allLatched s then
    raise { s with frm := { s.frm with latching := false, shown := s.frm.inForce } } .frm 0
  else s

/-- A unit has latched: nothing further where its fields have not changed. -/
def settleIf (changed : Bool) (s : State) : State := if changed then settleApplied s else s

/-- A slot's courses and links have met a frame issued after the strobe: frame `j`, or none (Table FRM-9). -/
def slotLatched (s : State) (n : Fin 8) (j : Option Nat) : State :=
  let keep := fun (x : Nat × Nat) => decide (x.1 ≠ n.val) || j.any fun k => decide (k < x.2)
  settleApplied { s with frm := { s.frm with latchSlots := s.frm.latchSlots.filter keep } }

end Sys2Proof.Machine
end

