-- ==== Sys2Proof/Machine/Audio.lean ====
section
/-! DEFINITION. The audio commands (R328 to R333). -/

namespace Sys2Proof.Machine
open Sys2Proof

/-- The scheduled instant of a master port's sample, in 2⁻¹⁶ ns from the PTP epoch (R328). -/
def masterInstant (x : AudPort) (a m : Nat) : Int :=
  let r := x.rate a
  if r = 0 then 0 else sword (x.word a 8) * 65536 + ((m * 1000000000 * 65536 / r : Nat) : Int)

/-- A frame of a master port (R328). -/
def masterFrame (s : State) (a : Fin 8) (l r : Int) : State :=
  let x := s.aud[a]
  let m := x.sample.getD (masterNow s x a.val)
  let t := masterInstant x a.val m
  if (ptpTime s : Int) < t then s
  else takeSample (modAud s a fun x => { x with sample := some (m + 1) }) a t.toNat l r

/-- The capture of a slave port's word-select edge: within 4 ns of the clock (R330). (DEDUCED, log 3) -/
def captureStamp (s : State) : Nat × State :=
  let (n, s) := freeNat s
  (ptpTime s + n % (8 * 65536 + 1) - 4 * 65536, s)

/-- A frame of a slave port (R329, R333): its period is checked; the eighth valid one locks the port, and a port that was lost completes its
synthetic block. Samples are taken of the frames that begin while it is locked. -/
def slaveFrame (s : State) (a : Fin 8) (l r : Int) (bclk : Nat) : State :=
  let x := s.aud[a]
  let per := x.lastEdge.map (s.now - ·)
  let exp : ℚ := 1000000000 / (x.rate a.val : ℚ)
  if per.any fun p => !inWindow exp x.periods (if x.st = .locked then 8 else 0) p then
    audEvent (count s (audReg a.val 0x2C)) 3 0x04 .info a.val x.seq
  else
    let run := if per.isSome then x.run + 1 else x.run
    let was := x.st
    let locks : Bool := decide (was ≠ .locked) && decide (run ≥ 8)
    let s := modAud s a fun x => { x with
      lastEdge := some s.now, periods := (per.toList ++ x.periods).take 8, run := run,
      st := if locks then .locked else if was = .lost then .seeking else was }
    let s := showAud s a
    let s := if locks then
        let s := regSet (modAud s a fun x => { x with stamps := [] }) (audReg a.val 0x24) 0
        if x.silent then
          let s := modAud s a fun x => { x with silent := false, discont := true }
          let s := audEvent s 1 0x02 .info a.val x.seq
          match x.cur with
          | some b => endBlock s a b
          | none => s
        else s
      else s
    if bclk ≠ 2 * x.slotBits a.val then count s (audReg a.val 0x3C)
    else if was ≠ .locked then s
    else
      let (tau, s) := captureStamp s
      takeSample s a tau l r

/-- What waited for a port's fields follows once they have latched (R78, R337). -/
def settleAud (a : Fin 8) (f : State → State) (s : State) : State :=
  let t := f s
  settleIf (decide ((t.aud[a]).cfg ≠ (s.aud[a]).cfg)) t

/-- AUDIO_FRAME (R327 to R331, R333): a slave port ignores one that a pulse shorter than MIN_PULSE begins. -/
def execAudioFrame (a : Fin 8) (low high : BitVec 33) (bclk width : Nat) (s : State) : Host.Outcome State Fault Refusal :=
  inCore s <| settleAud a fun s =>
    let s := latchAud s a
    let x := s.aud[a]
    let cfg := x.word a.val 0
    let l := audSample cfg (if bit cfg 29 then high else low)
    let r := audSample cfg (if bit cfg 29 then low else high)
    if ¬ x.enabled a.val then s
    else if x.master a.val then masterFrame s a l r
    else if width < 4 * field (x.word a.val 0xC) 15 0 then s
    else slaveFrame s a l r bclk

/-- AUDIO_PORT_LOST (R329, R332). -/
def execAudioPortLost (a : Fin 8) (s : State) : Host.Outcome State Fault Refusal := inCore s <| settleAud a fun s =>
  let x := s.aud[a]
  if ¬ x.enabled a.val ∨ x.master a.val ∨ x.st = .lost
      ∨ (s.now - x.lastEdge.getD x.since) * x.rate a.val < 3000000000 then s
  else
    let s := modAud s a fun x => { x with
      st := .lost, run := 0, periods := [], lastEdge := none, since := s.now, silent := true,
      lastStart := if x.lastStart = 0 then ptpTime s - blockLen (silentRate x a.val) else x.lastStart }
    let s := showAud s a
    let s := audEvent (count s (audReg a.val 0x30)) 0 0x01 .degraded a.val x.seq
    match x.cur with
    -- the synthetic block of an earlier loss runs on
    | some b => if x.silent then s else endBlock s a { b with silence := true }
    | none => s

/-- SYNTHETIC_BLOCK (R332): the block in progress completes with zeros, and the next begins at the extrapolated instant. -/
def execSyntheticBlock (a : Fin 8) (s : State) : Host.Outcome State Fault Refusal := inCore s <| settleAud a fun s =>
  let x := s.aud[a]
  let t := x.lastStart + blockLen (silentRate x a.val)
  if x.silent = false ∨ ptpTime s < t then s
  else
    let s := match x.cur with
      | some b => endBlock s a { b with silence := true }
      | none => s
    let y := s.aud[a]
    if y.silent then modAud s a fun y => { y with cur := some (newBlock y t true), lastStart := t } else s

end Sys2Proof.Machine
end

