-- ==== Sys2Proof/Machine/Access.lean ====
section
/-! DEFINITION. Which party may write which register (R341, R377, R397). -/

namespace Sys2Proof.Machine
open Sys2Proof

/-- A user core's write is refused (R397): SYS, HQ and MGT; another party's mailbox slots or staging window; PER.Uu_CTL and
PER.Uu_BOOT_HANDLE of any core; PER.Uu_HWINw and IRQ.Uu_* of another core. -/
def userRefused (u off : Nat) : Bool :=
  let blk := off / 65536
  blk == 0x00 || blk == 0x18 || blk == 0x1C
    || (blk == 0x01 && off < 0x1C000 && !(0x18000 + 0x1000 * u ≤ off && off < 0x19000 + 0x1000 * u))
    || (0x20100 ≤ off && off < 0x201A0 && (off - 0x20100) / 0x20 != u + 1)
    || (0x1D0000 ≤ off && off < 0x1D0400 && (off % 0x100 == 0 || off % 0x100 == 8))
    || (0x1D0000 ≤ off && off < 0x1D0400 && 0x40 ≤ off % 0x100 && off % 0x100 < 0x80 && (off - 0x1D0000) / 0x100 != u)
    || (0x192000 ≤ off && off < 0x192400 && (off - 0x192000) / 0x100 != u)

/-- A write that only the PF makes (Table PER-2). -/
def pfOnly (off : Nat) : Bool :=
  0x1D0000 ≤ off && off < 0x1D0400 && (off % 0x100 == 0 || off % 0x100 == 8)

/-- Whether a party reaches a register of the PF's map with a write. (DEDUCED, log 7) -/
def mayWrite (p : Party) (off : Nat) : Bool :=
  match p with
  | .pf => true
  | .fjarera => !pfOnly off
  | .user u => !userRefused u.val off
  | _ => false

/-- A register write by a party: `f` when the party may write the register; a user core's refused write is counted (R397), and any
other's is ignored. -/
def writeBy (s : State) (p : Party) (off : Nat) (f : State → State) : State :=
  if mayWrite p off then f s
  else match p with
  | .user _ => badAccess s
  | _ => s

/-- The parties that read the PF's register map: every party but a virtual function and a side-band controller (R341, R397, R463). (DEDUCED, log 7) -/
def mayRead (p : Party) : Bool := match p with
  | .pf => true
  | .user _ => true
  | .fjarera => true
  | _ => false

end Sys2Proof.Machine
end

