-- ==== Sys2Proof/Machine/CheckBlk.lean ====
section
/-! DEFINITION. The lock-up checks of the raw front end, the colour engine, renditions, surfaces and bulk objects (R136 to R197), stated
on one block's fields, so that a forme's slots and a host job's rendition set (R363, R364) share them. -/

namespace Sys2Proof.Machine
open Sys2Proof

/-- A failing check (R73, R391): its code of Table FRM-8, the offset of the offending field (none where the check concerns no single
field), and the unit's kind and index. -/
structure Reject where
  detail : Nat
  off : Option Nat
  kind : Nat
  unit : Nat
  deriving DecidableEq, Repr

/-- A rejection when a condition holds. -/
def rej (c : Bool) (r : Reject) : List Reject := if c then [r] else []

/-- The order of R73 among the failures of one check: the lowest offset, then the lowest unit index. -/
def Reject.before (a b : Reject) : Bool :=
  let x := a.off.getD 0xFFFFFFFF
  let y := b.off.getD 0xFFFFFFFF
  decide (x < y) || (decide (x = y) && decide (a.unit ≤ b.unit))

/-- The failure that is reported among those of one check (R73). -/
def firstOf : List Reject → Option Reject
  | [] => none
  | r :: l => match firstOf l with
    | some q => if r.before q then some r else some q
    | none => some r

/-! ### Single fields (R72 stage 1), by offset within the block -/

/-- A binary32 field is outside what it may hold. -/
def f32Out (w : Word) (ok : ℚ → Bool) : Bool := f32Bad w || !ok (f32 w)

def rfeFieldBad (o : Nat) (w : Word) : Bool :=
  if o = 0x04 then decide (field w 10 8 > 5)
  else if o = 0x1C then f32Out w fun g => decide (1 ≤ g) && decide (g ≤ 16)
  else if 0x40 ≤ o ∧ o < 0x60 then f32Bad w
  else false

/-- Every binary32 field of a slot's colour engine (R163). -/
def clrIsF32 (o : Nat) : Bool :=
  decide (o = 4) || (decide (0x10 ≤ o) && decide (o < 0x28)) || (decide (0x30 ≤ o) && decide (o < 0x48))
    || (decide (0x80 ≤ o) && decide (o < 0x110)) || (decide (0x120 ≤ o) && decide (o < 0x138))
    || (decide (0x140 ≤ o) && decide (o < 0x160)) || decide (o = 0x1C0) || decide (o = 0x1C4)

def clrFieldBad (o : Nat) (w : Word) : Bool :=
  if o = 0 then decide (field w 18 16 > 5) || decide (field w 1 0 > 1) || decide (field w 9 8 = 3)
  else if clrIsF32 o ∧ f32Bad w then true
  else if o = 0x140 then decide (f32 w < 0)
  else if o = 0x144 then decide (f32 w ≤ 0)
  else if 0x148 ≤ o ∧ o < 0x160 then decide (f32 w < 0) || decide (f32 w > 1)
  else false

def rendFieldBad (o : Nat) (w : Word) : Bool :=
  if o = 0 then decide (field w 21 20 = 3) else if 0x10 ≤ o ∧ o < 0x6C then f32Bad w else false

/-- The format code of a surface that is not in use is not checked: its reset value is no code of Table IMP-4. -/
def surfFieldBad (o : Nat) (w : Word) : Bool :=
  if o = 0 then
    (bit w 31 && (planeDims (field w 23 16) 16 16).isNone) || decide (field w 15 14 = 3) || decide (field w 11 10 = 3)
      || decide (field w 9 7 > 4) || decide (field w 6 4 > 4)
  else if o = 8 then
    decide (field w 31 16 = 0) || decide (field w 31 16 > 16384) || decide (field w 15 0 = 0) || decide (field w 15 0 > 32768)
  else if o = 0xC then
    decide (field w 31 16 < 16) || decide (field w 31 16 > 16384) || decide (field w 15 0 < 16) || decide (field w 15 0 > 16384)
  else if o = 0x14 then f32Out w fun g => decide (0 < g)
  else false

/-! ### A block in its configuration -/

/-- A slot's, or a rendition set's, raw front end and colour engine as they are checked: registers by offset, where they lie and what
unit they belong to, geometry, and the bulk objects in force, empty for none. -/
structure BlkCfg where
  rfe : Nat → Word
  clr : Nat → Word
  rfeBase : Nat
  clrBase : Nat
  kind : Nat
  unit : Nat
  width : Nat
  height : Nat
  dual : Bool
  courses : Nat
  defects : List Byte
  flat : List Byte
  mesh : List Byte

def BlkCfg.nclass (c : BlkCfg) : Nat := field (c.rfe 4) 10 8 + 1
def BlkCfg.px (c : BlkCfg) : Nat := field (c.rfe 4) 2 0 + 1
def BlkCfg.py (c : BlkCfg) : Nat := field (c.rfe 4) 6 4 + 1
def BlkCfg.ctl (c : BlkCfg) (i : Nat) : Bool := bit (c.rfe 0) i
def BlkCfg.atRfe (c : BlkCfg) (detail o : Nat) : Reject := { detail := detail, off := some (c.rfeBase + o), kind := c.kind, unit := c.unit }
def BlkCfg.atClr (c : BlkCfg) (detail o : Nat) : Reject := { detail := detail, off := some (c.clrBase + o), kind := c.kind, unit := c.unit }
def BlkCfg.whole (c : BlkCfg) (detail : Nat) : Reject := { detail := detail, off := none, kind := c.kind, unit := c.unit }

/-- The CFA entry of a site within the period. -/
def BlkCfg.cfa (c : BlkCfg) (i j : Nat) : Nat := field (c.rfe (0x60 + 4 * j)) (4 * i + 3) (4 * i)

/-- The sites of the period. -/
def BlkCfg.sites (c : BlkCfg) : List (Nat × Nat) := (List.range c.py).flatMap fun j => (List.range c.px).map fun i => (i, j)

/-- FIELD_RANGE of a CFA description (R139). -/
def BlkCfg.cfaRange (c : BlkCfg) : List Reject :=
  ((c.sites.filter fun s => decide (c.cfa s.1 s.2 ≠ 15) && decide (c.cfa s.1 s.2 ≥ c.nclass)).map
      fun s => c.atRfe 0x01 (0x60 + 4 * s.2))
    ++ rej ((List.range c.nclass).any fun k => !c.sites.any fun s => decide (c.cfa s.1 s.2 = k)) (c.atRfe 0x01 0x60)
    ++ rej (c.sites.all fun s => decide (c.cfa s.1 s.2 = 15)) (c.atRfe 0x01 0x60)

/-! ### Bulk objects -/

/-- A defect table's entry, as one number that rises with (y, x). -/
def defectKey (l : List Byte) (i : Nat) : Nat := leAt l (16 + 4 * i) 4 % 536870912

/-- R146: a METHOD of 4 to 7, an unsorted or repeated entry, or too many. -/
def defectsBad (l : List Byte) : Bool :=
  let n := leAt l 4 4
  decide (n > 1048576)
    || (List.range n).any fun i => decide (leAt l (16 + 4 * i) 4 / 536870912 ≥ 4)
      || (decide (i + 1 < n) && decide (defectKey l (i + 1) ≤ defectKey l i))

/-- R148: a map of another NCLASS or DUAL. -/
def flatRangeBad (c : BlkCfg) (l : List Byte) : Bool :=
  decide ((byteAt l 2).toNat ≠ c.nclass) || decide ((byteAt l 3).getLsbD 1 ≠ c.dual)

/-- The header of a map or a mesh gives another geometry, nodes being `step` pixels apart (R148, R168). -/
def nodesBad (c : BlkCfg) (l : List Byte) (step : Nat) : Bool :=
  decide (leAt l 8 2 ≠ c.width) || decide (leAt l 10 2 ≠ c.height)
    || decide (leAt l 4 2 ≠ ceilDiv (c.width - 1) step + 1) || decide (leAt l 6 2 ≠ ceilDiv (c.height - 1) step + 1)

/-- DX and DY of a mesh, node by node. -/
def meshNodes (l : List Byte) : List (Int × Int) :=
  (List.range ((byteAt l 2).toNat * leAt l 4 2 * leAt l 6 2)).map fun i =>
    (signed 16 (leAt l (32 + 4 * i) 2), signed 16 (leAt l (34 + 4 * i) 2))

/-- The greatest |DX| of a mesh, in 1/256 pixel. -/
def meshReach (l : List Byte) : Nat := ((meshNodes l).map fun d => d.1.natAbs).foldl max 0

/-- R168: NCLASS, |DY| above 16,384, and on one course |DX| above 32,768. -/
def meshRangeBad (c : BlkCfg) (l : List Byte) : Bool :=
  decide ((byteAt l 2).toNat ≠ c.nclass) || ((meshNodes l).any fun d => decide (d.2.natAbs > 16384))
    || (decide (c.courses ≤ 1) && decide (meshReach l > 32768))

/-- The apron budget of a striped slot (R175). -/
def apronBad (c : BlkCfg) : Bool :=
  let ctl := c.clr 0
  let d := if field ctl 1 0 = 1 then 2 * c.px else c.px
  let m := if bit ctl 10 then ceilDiv (meshReach c.mesh) 256 + 1 else 0
  let n := if bit ctl 11 then field ctl 23 20 else 0
  decide (c.courses > 1) && decide (2 * c.px + d + m + n > 32)

/-! ### Checks on several fields -/

/-- FIELD_RANGE of the raw front end but for its CFA description (R143, R145, R146, R148, R157). A map in force is checked whether or
not a field uses it. -/
def BlkCfg.rfeRange (c : BlkCfg) : List Reject :=
  let ob := c.rfe 0xC
  let t := c.rfe 0x20
  rej (c.ctl 1 && decide (field ob 15 8 + field ob 23 16 < 8)) (c.atRfe 0x01 0xC)
    ++ rej (c.ctl 2 && decide (field ob 7 0 = 0)) (c.atRfe 0x01 0xC)
    ++ rej (c.ctl 0 && (decide (c.flat = []) || !(byteAt c.flat 3).getLsbD 0)) (c.atRfe 0x01 0)
    ++ rej (c.ctl 4 && !c.dual) (c.atRfe 0x01 0)
    ++ rej (decide (field t 31 16 ≤ field t 15 0)) (c.atRfe 0x01 0x20)
    ++ rej (c.ctl 5 && decide (c.defects = [])) (c.atRfe 0x01 0)
    ++ rej (c.ctl 7 && decide (c.flat = [])) (c.atRfe 0x01 0)
    ++ rej (decide (c.flat ≠ []) && flatRangeBad c c.flat) (c.whole 0x01)
    ++ (List.range 16).flatMap fun w =>
        let g := c.rfe (0x408 + 0x20 * w)
        rej (bit g 0 && (decide (field g 6 2 > 20) || decide (field g 18 16 > 3))) (c.atRfe 0x01 (0x408 + 0x20 * w))

/-- FRAME_GEOMETRY of the raw front end (R148, R157). -/
def BlkCfg.rfeGeom (c : BlkCfg) : List Reject :=
  rej (decide (c.flat ≠ []) && nodesBad c c.flat 16) (c.whole 0x06)
    ++ (List.range 16).flatMap fun w =>
        let x := c.rfe (0x400 + 0x20 * w)
        let y := c.rfe (0x404 + 0x20 * w)
        if bit (c.rfe (0x408 + 0x20 * w)) 0 then
          rej (decide (field x 31 16 < field x 15 0) || decide (field x 31 16 ≥ c.width)) (c.atRfe 0x06 (0x400 + 0x20 * w))
            ++ rej (decide (field y 29 16 < field y 13 0) || decide (field y 29 16 ≥ c.height)) (c.atRfe 0x06 (0x404 + 0x20 * w))
        else []

/-- FIELD_RANGE of the colour engine (R166, R168, R171, R172, R175). -/
def BlkCfg.clrRange (c : BlkCfg) : List Reject :=
  let ctl := c.clr 0
  rej (decide (field ctl 1 0 = 1) && decide (field ctl 6 4 ≥ c.nclass)) (c.atClr 0x01 0)
    ++ rej (bit ctl 10 && decide (c.mesh = [])) (c.atClr 0x01 0)
    ++ rej (decide (c.mesh ≠ []) && meshRangeBad c c.mesh) (c.whole 0x01)
    ++ rej (bit ctl 11 && (decide (field ctl 23 20 = 0) || decide (field ctl 23 20 > 8))) (c.atClr 0x01 0)
    ++ rej (bit ctl 12 && (decide (f32 (c.clr 0x1C0) < 1 / 16) || decide (f32 (c.clr 0x1C0) > 1))) (c.atClr 0x01 0x1C0)
    ++ rej (bit ctl 12 && decide (f32 (c.clr 0x1C4) ≤ 0)) (c.atClr 0x01 0x1C4)
    ++ rej (apronBad c) (c.whole 0x01)

/-- FRAME_GEOMETRY of the colour engine (R168). -/
def BlkCfg.clrGeom (c : BlkCfg) : List Reject :=
  rej (decide (c.mesh ≠ []) && nodesBad c c.mesh 64) (c.whole 0x06)

/-- FIELD_RANGE of a rendition whose registers lie at a base (R178, R179). -/
def rendRange (rd : Nat → Word) (base : Nat) : List Reject :=
  let ctl := rd 0
  let k := f32 (rd 0x64)
  let p := f32 (rd 0x68)
  let log := fun (o : Nat) => bit (rd o) 6 || bit (rd o) 14 || bit (rd o) 22
  let uses := (bit ctl 19 && log 4) || (bit ctl 17 && log 8)
  let r := rd 0xC
  rej ((decide (field ctl 21 20 = 1) || decide (field ctl 21 20 = 2)) && !(decide (0 < k) && decide (k < p)))
      { detail := 0x01, off := some (base + 0x64), kind := 0, unit := 0 }
    ++ rej (uses && decide (signed 8 (field r 15 8) ≤ signed 8 (field r 7 0)))
      { detail := 0x01, off := some (base + 0xC), kind := 0, unit := 0 }

/-- The taps of a filter at a ratio `a / b` exceed 64, or the ratio lies outside 1/8 to 16 (R191). -/
def axisBad (filt a b : Nat) : Bool :=
  let tooMany : Bool := match filt with
    | 1 => decide (2 * max b a > 64 * b)
    | 2 => decide (4 * max b a > 64 * b)
    | 3 => decide (6 * max b a > 64 * b)
    | 4 => decide (ceilDiv a b + 1 > 64)
    | _ => false
  decide (b = 0) || tooMany || decide (8 * a < b) || decide (a > 16 * b)

/-- A surface format whose chroma is halved across; down as well. -/
def fmt42x (f : Nat) : Bool := decide (f = 0x10) || decide (f = 0x11) || decide (f = 0x12) || decide (f = 0x13)
def fmt420 (f : Nat) : Bool := decide (f = 0x10) || decide (f = 0x11)

/-- FIELD_RANGE of a surface: scaling and odd sizes (R191, R194); the pool is for sensor surfaces (R203). -/
def surfRange (f : Surf) (base : Nat) (pool : Bool) : List Reject :=
  let at_ := fun (o : Nat) => ({ detail := 0x01, off := some (base + o), kind := 0, unit := 0 } : Reject)
  rej (axisBad (field (f.rd 0) 9 7) f.cropW f.outW || axisBad (field (f.rd 0) 6 4) f.cropH f.outH) (at_ 0xC)
    ++ rej ((fmt42x f.format && decide (f.outW % 2 = 1)) || (fmt420 f.format && decide (f.outH % 2 = 1))) (at_ 0xC)
    ++ rej (pool && decide (f.pool.length < 2)) (at_ 0x18)

/-- FRAME_GEOMETRY of a surface: a crop window beyond the frame (R191). -/
def surfGeom (f : Surf) (base width height : Nat) : List Reject :=
  rej (decide (f.cropX + f.cropW > width) || decide (f.cropY + f.cropH > height))
    { detail := 0x06, off := some (base + 4), kind := 0, unit := 0 }

/-! ### LUT objects (R182) -/

/-- The binary16 entries of a LUT object. -/
def lutEntries (l : List Byte) : List (BitVec 16) :=
  (List.range ((l.length - 16) / 2)).map fun i => BitVec.ofNat 16 (leAt l (16 + 2 * i) 2)

/-- A LUT object holds a NaN or an infinity, or names a slot outside the memory. -/
def lutRangeBad (kind : Nat) (l : List Byte) : Bool :=
  decide ((byteAt l 2).toNat ≥ (if kind = 0x12 then 16 else 64)) || (lutEntries l).any f16Bad

/-- A LUT object's N or entry count does not match its target slot. -/
def lutKindBad (kind : Nat) (l : List Byte) : Bool :=
  let n := lutN (byteAt l 2).toNat
  if kind = 0x12 then decide ((byteAt l 3).toNat ≠ n) || decide (leAt l 4 4 ≠ n * n * n)
  else decide (leAt l 4 4 ≠ 4096)

end Sys2Proof.Machine
end

