-- ==== Sys2Proof/Machine/CheckFld.lean ====
section
/-! DEFINITION. The single-field checks of lock-up (R72 stage 1, first part; FIELD_RANGE and MAINS_PERIOD of Table FRM-8): whether a
register's merged value lies in the range that its table states. Registers without a stated range, and fields whose range depends on
other fields, are not checked here. -/

namespace Sys2Proof.Machine
open Sys2Proof

/-- The unit that a register belongs to: kind and index of R391; none for registers of no listed unit. -/
def fieldUnit (off : Nat) : Nat × Nat :=
  let at_ := fun (k base step : Nat) => (k, (off - base) / step)
  if 0x30000 ≤ off ∧ off < 0x34000 then at_ 1 0x30000 0x800
  else if 0x40100 ≤ off ∧ off < 0x40300 then at_ 1 0x40100 0x40
  else if 0x41000 ≤ off ∧ off < 0x41800 then at_ 1 0x41000 0x100
  else if 0x60000 ≤ off ∧ off < 0x61000 then at_ 1 0x60000 0x200
  else if 0x80000 ≤ off ∧ off < 0x88000 then at_ 1 0x80000 0x1000
  else if 0xA0000 ≤ off ∧ off < 0xA8000 then at_ 1 0xA0000 0x1000
  else if 0xE0000 ≤ off ∧ off < 0xE0200 then at_ 1 0xE0000 0x40
  else if 0x100000 ≤ off ∧ off < 0x110000 then at_ 3 0x100000 0x4000
  else if 0x120000 ≤ off ∧ off < 0x126000 then at_ 4 0x120000 0x1000
  else if 0x140000 ≤ off ∧ off < 0x140800 then at_ 5 0x140000 0x400
  else if 0x1B0010 ≤ off ∧ off < 0x1B0020 then at_ 2 0x1B0010 4
  else (0, 0)

/-- A field lies outside a closed range. -/
def outside (w : Word) (hi lo a b : Nat) : Bool := decide (field w hi lo < a) || decide (field w hi lo > b)

/-- Cadence and exposure fields (Tables REF-2, REF-3, REF-13, FRM-8). -/
def cadFieldBad (o : Nat) (w : Word) : Bool :=
  if o = 0 then outside w 31 29 0 4 || outside w 27 20 1 255 || outside w 19 12 1 255
  else if o = 4 then decide (w = 0#32)
  else if o = 8 then decide (field w 15 0 = 0)
  else if o = 0x14 then outside w 15 0 0 36000
  else false

/-- The LO word of a fret (R55, Table FRM-8). -/
def fretFieldBad (w : Word) : Bool := bit w 31 && (decide (field w 30 29 = 3) || decide (field w 28 24 ≥ 0x0B))

/-- Levels of Table HEV-2. -/
def levelKnown (l : Nat) : Bool := [30, 60, 63, 90, 93, 120, 123, 150, 153, 156, 180, 183, 186].contains l

/-- Stream fields (Tables HEV-1 to HEV-3). -/
def encFieldBad (o : Nat) (w : Word) : Bool :=
  if o = 0 then
    decide (field w 29 28 = 3) || decide (field w 25 23 > 3) || outside w 22 21 1 2 || !levelKnown (field w 7 0)
  else if o = 8 then
    outside w 29 16 64 8192 || outside w 13 0 64 8192 || decide (field w 29 16 % 2 = 1) || decide (field w 13 0 % 2 = 1)
  else if o = 0x1C then outside w 21 16 0 51 || outside w 13 8 0 51 || outside w 5 0 0 51
  else if o = 0x24 then decide (field w 17 16 = 3)
  else if o = 0x28 then outside w 15 0 1 4096
  else false

/-- Head fields (Tables DSP-1, DSP-2). -/
def headFieldBad (o : Nat) (w : Word) : Bool :=
  if o = 0 then outside w 30 28 0 3 || outside w 19 16 1 15 || outside w 15 12 1 15
  else if o = 0x20 then outside w 7 0 1 200
  else false

/-- Fields of the galley and its governor (Tables GAL-1 to GAL-3, R222). -/
def galFieldBad (o : Nat) (w : Word) : Bool :=
  if o = 0 then outside w 7 0 4 178
  else if o = 4 then outside w 15 0 0 60000
  else if o = 8 then decide (field w 23 16 > 224)
  else if o = 0x10 then outside w 15 0 100 60000
  else if o = 0x14 then outside w 15 0 256 4608
  else false

/-- Fields of a slot's TRB configuration (R216). -/
def trbFieldBad (o : Nat) (w : Word) : Bool :=
  if o = 0 then decide (field w 5 0 > 62)
  else if o = 4 then outside w 31 16 256 4608 || (decide (field w 15 0 ≠ 0) && outside w 15 0 256 4608)
  else false

/-- Reference inputs and the encoder (Tables REF-1, REF-6, R52): FIELD_RANGE, or MAINS_PERIOD for the mains period. -/
def refFieldCode (off : Nat) (w : Word) : Option Nat :=
  if off = 0x40024 then (if w.toNat < 15384616 ∨ w.toNat > 22222222 then some 0x03 else none)
  else if off = 0x40030 then
    (if outside w 22 16 1 64 ∨ outside w 15 0 64 65532 ∨ field w 15 0 % 4 ≠ 0 then some 0x01 else none)
  else if 0x40100 ≤ off ∧ off < 0x40300 then (if cadFieldBad ((off - 0x40100) % 0x40) w then some 0x01 else none)
  else if 0x41000 ≤ off ∧ off < 0x41800 ∧ (off - 0x41000) % 0x100 = 8 then (if field w 4 0 > 24 then some 0x01 else none)
  else none

/-- Display outputs (Table DSP-5). -/
def outFieldBad (off : Nat) (w : Word) : Bool :=
  decide (field w 30 28 > 5) || if off < 0x128010 then
    decide (field w 27 26 = 3) || decide (field w 25 24 = 3) || decide (field w 23 22 = 3) || decide (field w 15 8 < 2)
  else decide (field w 26 25 > 1)

/-- The check of one write's merged value: the detail code it fails with. -/
def fieldCheck (off : Nat) (w : Word) : Option Nat :=
  let code := fun (b : Bool) => if b then some 0x01 else none
  if 0x30000 ≤ off ∧ off < 0x34000 then code (off % 8 == 0 && fretFieldBad w)
  else if 0x40000 ≤ off ∧ off < 0x50000 then refFieldCode off w
  else if 0x50000 ≤ off ∧ off < 0x50400 then
    code (off % 0x100 == 0 && (outside w 14 0 2500 32000 || decide (field w 30 28 > 5)))
  else if 0x60000 ≤ off ∧ off < 0x61000 then
    code (off % 0x200 == 0 && (outside w 15 0 1 32768 || outside w 31 16 1 16384))
  else if 0x80000 ≤ off ∧ off < 0x88000 then code (rfeFieldBad (off % 0x1000) w)
  else if 0xA0000 ≤ off ∧ off < 0xA8000 then code (clrFieldBad (off % 0x1000) w)
  else if 0xA8000 ≤ off ∧ off < 0xAA000 then code (rendFieldBad (off % 0x100) w)
  else if 0xC0000 ≤ off ∧ off < 0xC0800 then code (surfFieldBad (off % 0x40) w)
  else if 0xD0000 ≤ off ∧ off < 0xD0018 then code (galFieldBad (off % 0x100) w)
  else if 0xE0000 ≤ off ∧ off < 0xE0200 then code (trbFieldBad (off % 0x40) w)
  else if 0x100000 ≤ off ∧ off < 0x110000 then code (encFieldBad (off % 0x100) w)
  else if 0x120000 ≤ off ∧ off < 0x126000 then code (headFieldBad (off % 0x1000) w)
  else if 0x128000 ≤ off ∧ off < 0x128030 then code (outFieldBad off w)
  else if 0x140000 ≤ off ∧ off < 0x140800 then code (off % 0x400 == 0 && decide (field w 29 28 = 3))
  else if 0x141000 ≤ off ∧ off < 0x142800 then
    code ((off % 0x80 == 0 && decide (field w 30 29 = 3)) || (off % 0x80 == 0x28 && outside w 22 16 96 127))
  else if off = 0x170040 then code (outside w 7 0 1 64)
  else if off = 0x170044 ∨ off = 0x170048 then code (bit w 0)
  else if 0x1B0010 ≤ off ∧ off < 0x1B0020 then code (outside w 4 0 8 16)
  else none

end Sys2Proof.Machine
end

