-- ==== Sys2Proof/Machine/CourseOps.lean ====
section
/-! DEFINITION. Courses: the source that a forme gives each (R3, R18, Table FRM-4), and the stripes of a wide frame (R130, R131). -/

namespace Sys2Proof.Machine
open Sys2Proof

/-- A course's source: 0 unassigned, 1 sole course, 2 stripe member, 3 host job path. -/
def courseKind (s : State) (c : Nat) : Nat := regField s courseReg (4 + 8 * c) (3 + 8 * c)

/-- The slot that a sole course or a stripe member serves. -/
def courseSlot (s : State) (c : Nat) : Nat := regField s courseReg (2 + 8 * c) (8 * c)

/-- A course serves a slot. -/
def servesSlot (s : State) (c n : Nat) : Bool :=
  (decide (courseKind s c = 1) || decide (courseKind s c = 2)) && decide (courseSlot s c = n)

/-- The courses that serve a slot, ascending. -/
def slotCourses (s : State) (n : Nat) : List Nat := (List.range 4).filter fun c => servesSlot s c n

/-- The courses on the host job path. -/
def hostCourses (s : State) : List Nat := (List.range 4).filter fun c => decide (courseKind s c = 3)

/-- A sensor frame that is still open on a course: its last line has not left it (R20). -/
def sensorOn (s : State) (c : Nat) : Bool :=
  s.ing.frames.toList.any fun l => l.any fun f => !f.closed && f.fr.courses.testBit c

/-- A course of a slot's frame still carries an earlier frame of another slot, from which a forme has moved it (R20). (DEDUCED, log 24) -/
def courseTaken (s : State) (n : Fin 8) (f : Frame) : Bool :=
  (List.range 4).any fun c => f.fr.courses.testBit c && (List.finRange 8).any fun (m : Fin 8) =>
    decide (m ≠ n) && (s.ing.frames[m]).any fun g => !g.closed && g.fr.courses.testBit c
      && (decide (g.issueTick < f.issueTick) || (decide (g.issueTick = f.issueTick) && !servesSlot s c m.val))

/-- COURSES of a frame record: a bit for each course. -/
def courseMask (l : List Nat) : Nat := (l.map fun c => 2 ^ c).sum

/-- Seam `k` of a line of width `w` on `n` courses (R130). -/
def seamAt (w n k : Nat) : Nat := if k = 0 then 0 else if k ≥ n then w else 64 * (k * w / (64 * n))

/-- Pixels of a line that stripe `k` of `n` receives, aprons included (R131). -/
def stripePixels (w n k : Nat) : Nat :=
  if n ≤ 1 then w else min w (seamAt w n (k + 1) + (if k + 1 < n then 32 else 0)) - (seamAt w n k - (if k = 0 then 0 else 32))

/-- The core of stripe `k` of `n`. -/
def corePixels (w n k : Nat) : Nat := seamAt w n (k + 1) - seamAt w n k

/-! ### Frames of a slot -/

def modFrames (s : State) (n : Fin 8) (f : List Frame → List Frame) : State :=
  { s with ing := { s.ing with frames := vMod s.ing.frames n f } }

/-- The frame of a slot with an ordinal. -/
def frameOf (s : State) (n : Fin 8) (ord : Word) : Option Frame := (s.ing.frames[n]).find? fun f => decide (f.fr.ord = ord)

def modFrame (s : State) (n : Fin 8) (ord : Word) (f : Frame → Frame) : State :=
  modFrames s n fun l => l.map fun x => if x.fr.ord = ord then f x else x

/-- The ordinal of the slot's most recent issued frame start. -/
def newestOrd (s : State) (n : Fin 8) : Word := BitVec.ofNat 32 ((s.ref.slots[n]).issued - 1)

/-! ### The current frame (R124) -/

def ingReg (n off : Nat) : Nat := 0x60000 + 0x200 * n + off

/-- The oldest issued frame of a slot that has not closed. -/
def currentFrame (s : State) (n : Fin 8) : Option Frame := (s.ing.frames[n]).find? fun f => !f.closed

/-- ING.SLOTn_CUR_ORD and _CUR_STATE: with no frame current only CURRENT is cleared, and the ordinal and line count stay those of the last one
(R124 is silent). (DEDUCED, log 24) -/
def showCurrent (s : State) (n : Fin 8) : State := match currentFrame s n with
  | some f => regSet (regSet s (ingReg n 0xC) f.fr.ord) (ingReg n 0x10) (packFields [(31, 1), (0, f.fr.linesReceived)])
  | none => regPut s (ingReg n 0x10) 31 31 0

end Sys2Proof.Machine
end

