-- ==== Sys2Proof/Machine/FrameOps.lean ====
section
/-! DEFINITION. The pixel path of one sensor frame (chapters 06 to 09): raw front end, statistics, TRB, colour engine and
imposition, which follow the frame's lines down as they come and end when it closes; the release of tag banks (R81) and forme identifiers (R69). -/

namespace Sys2Proof.Machine
open Sys2Proof

/-! ### Frames -/

/-- A frame's field that is tag-bound: that of the bank chosen for it (R82). -/
def Frame.bank (f : Frame) (off : Nat) : Word := rmGet f.bankRegs off

/-- A frame's field that is boundary-bound: that in force at its issue tick (R124). -/
def Frame.reg (f : Frame) (off : Nat) : Word := rmGet f.cfg off

def Frame.width (f : Frame) : Nat := slotWidth f.cfg f.fr.slot
def Frame.height (f : Frame) : Nat := slotLines f.cfg f.fr.slot
def Frame.fmt (f : Frame) : Word := f.reg (0x60004 + 0x200 * f.fr.slot)

/-- The bytes of a bulk object of a kind in the frame's bank. -/
def Frame.obj (f : Frame) (kind : Nat) : List Byte :=
  ((f.bankObjs.find? fun o => decide (o.kind = kind)).map (·.bytes)).getD []

/-- A frame whose tag is not chosen yet, with the bank of its expected tag (R80, R82). -/
def Frame.banked (f : Frame) (s : State) (n : Fin 8) : Frame :=
  if f.tagKnown then f
  else
    let fr := f.fr
    { f with
      fr := { fr with tag := f.expTag }, bankRegs := tagRegs s n f.expTag, bankObjs := ((bankOf s n f.expTag).map (·.objs)).getD [] }

/-- The frame with a STATUS bit set (R24, R25). -/
def Frame.mark (f : Frame) (b : Nat) : Frame :=
  let fr := f.fr
  { f with fr := { fr with status := setBit fr.status b } }

/-- The context of a frame's record: the frame, with the unit concerned (Table FLT-3). -/
def Frame.ctx (f : Frame) (kind idx : Nat) : Ctx := ctxFrame f.fr.slot kind idx 0 f.fr.ord f.fr.tag 0

def Frame.slotCtx (f : Frame) : Ctx := f.ctx 1 f.fr.slot

/-- The last line accepted into a frame. -/
def Frame.lastLine (f : Frame) : Option Nat := f.lines.getLast?.map (·.1)

/-- Leading lines of a frame that have left a stage which reads `reach` lines ahead: each line it spans has been accepted or found missing, or
the frame has closed (R22, R154, R207). -/
def Frame.past (f : Frame) (reach : Nat) : Nat := if f.closed then f.height else f.lastLine.elim 0 (· + 1) - reach

/-- The numbers of the courses in a mask. -/
def coursesIn (mask : Nat) : List Nat := (List.range 4).filter fun c => mask.testBit c

/-- A change made `n` times. -/
def repeatN : Nat → (State → State) → State → State
  | 0, _, s => s
  | n + 1, f, s => repeatN n f (f s)

/-! ### Raw front end -/

def rfeReg (n off : Nat) : Nat := 0x80000 + 0x1000 * n + off
def winCfgReg (n w : Nat) : Nat := rfeReg n (0x408 + 0x20 * w)
def clrReg (n off : Nat) : Nat := 0xA0000 + 0x1000 * n + off
def rendReg (r off : Nat) : Nat := 0xA8000 + 0x100 * r + off

/-- Fetches of a slot's frame that failed. -/
def badOf (s : State) (f : Client → Option (Nat × Nat × Nat)) : List (Nat × Nat × Nat) := s.fetchBad.filterMap f

/-- What the raw front end processes for a sensor frame. -/
def rawOf (s : State) (n : Fin 8) (f : Frame) : RawIn where
  rd := fun off => f.bank (rfeReg n off)
  width := f.width
  height := f.height
  bits := sampleBits (field f.fmt 1 0)
  dual := bit f.fmt 2
  host := false
  lines := f.lines
  defects := f.obj 0x10
  flat := f.obj 0x11
  prevH := s.rfe[n].blackH
  prevL := s.rfe[n].blackL
  expNs := f.fr.expNs
  band := f.fr.tempBand
  badDefects := s.fetchBad.filterMap fun c => match c with
    | .defects k y => if k = n then some y else none
    | _ => none
  badNodes := s.fetchBad.filterMap fun c => match c with
    | .flat k c i j => if k = n then some (c, i, j) else none
    | _ => none
  badColumns := s.fetchBad.filterMap fun c => match c with
    | .columns k g x => if k = n then some (g, x, signed 16 (Config.badColumn n f.fr.ord.toNat g x).toNat) else none
    | _ => none

def modRfe (s : State) (n : Nat) (f : RfeSlot → RfeSlot) : State := { s with rfe := vMod s.rfe n f }

def rfeEvent (s : State) (i code : Nat) (sev : Severity) (f : Frame) : State := event s .rfe i code sev f.slotCtx 0

/-- A measured black kept and shown (R142): signed values are shown in 20 bits. -/
def measuredReg (s : State) (off : Nat) (v : Option Int) : State := match v with
  | some b => regSet s off (BitVec.ofNat 32 (unsigned 20 b))
  | none => s

/-- Failed fetches of the tables in use are reported once for a frame, as soon as its lines meet them (R152). (DEDUCED, log 25) -/
def rfeFetch (s : State) (f : Frame) (r : RawIn) : State × Frame :=
  if f.fetchFailed || !r.fetchFailed then (s, f) else (rfeEvent s 3 0x04 .degraded f, { f.mark 5 with fetchFailed := true })

/-- What the raw front end leaves in the slot's registers (R136, R142, R146, R147, R152). (DEDUCED, log 25) -/
def rfeEffects (s : State) (n : Fin 8) (f : Frame) (r : RawIn) (o : RawOut) : State × Frame :=
  let s := countN s (rfeReg n 0x114) o.clippedN
  let s := countN s (rfeReg n 0x110) o.unfixed
  let s := regSet s (rfeReg n 0x108) (BitVec.ofNat 32 o.staticN)
  let s := regSet s (rfeReg n 0x10C) (BitVec.ofNat 32 o.dynN)
  let s := measuredReg (measuredReg s (rfeReg n 0x100) o.blackH) (rfeReg n 0x104) o.blackL
  let s := modRfe s n fun x => { x with
    blackH := o.blackH.orElse fun _ => x.blackH, blackL := o.blackL.orElse fun _ => x.blackL }
  let missing := r.frameMeas && (o.blackH.isNone || (r.dual && o.blackL.isNone))
  let s := if missing then rfeEvent (count s (rfeReg n 0x118)) 1 0x02 .degraded f else s
  rfeFetch s f r

/-! ### Statistics (R153 to R159) -/

/-- Where a sequence number of 32 bits lies (R158, R368): ahead of the next record; at a position still in the ring, with the record; or
behind the records the ring holds. -/
inductive StatAt where
  | ahead
  | held (x : StatRec)
  | gone
  deriving DecidableEq, Repr

def statAt (x : RfeSlot) (seq : Nat) : StatAt :=
  let d := (x.nextStat + 2 ^ 32 - seq) % 2 ^ 32
  if d = 0 ∨ d > 2 ^ 31 ∨ d > x.nextStat then .ahead
  else match x.ring.find? fun y => decide (y.seq + d = x.nextStat) with
  | some y => .held y
  | none => .gone

/-- The oldest sequence number held. -/
def oldestStat (x : RfeSlot) : Nat := (x.ring.head?.map (·.seq)).getD x.nextStat

/-- A record counts as pulled (R158). -/
def pullStat (s : State) (n : Fin 8) (seq : Nat) : State :=
  modRfe s n fun x => { x with ring := x.ring.map fun y => if y.seq = seq then { y with pulled := true } else y }

/-- A STATS_PULL of a record that has been sealed (R368); an uncorrectable error of the copy is reported with the record. (DEDUCED, log 36) -/
def copyStat (s : State) (n : Fin 8) (q tag fn : Nat) (segs : List (Nat × Nat)) (x : StatRec) : State :=
  let st := if (badByteOf s q tag).isSome then stDataCorrupt else stSuccess
  complete (pullStat (scatter s fn segs x.bytes) n x.seq) q tag st 0 (BitVec.ofNat 32 x.seq) 0

/-- A STATS_PULL served, once its record is sealed or gone (R368). -/
def serveStat (s : State) (n : Fin 8) (q tag fn : Nat) (segs : List (Nat × Nat)) (seq : Nat) : State :=
  match statAt s.rfe[n] seq with
  | .ahead => s
  | .held x => copyStat s n q tag fn segs x
  | .gone => complete s q tag stInvalidField 0 (BitVec.ofNat 32 (oldestStat s.rfe[n])) 32

/-- The pulls of a slot that wait are served if they can be. -/
def settleStats (s : State) (n : Fin 8) : State :=
  (findCmds s fun _ c => decide (c.op = 0x21) && decide (c.arg0 % 8 = n.val) && c.waiting && !c.finished && !c.aborted).foldl
    (fun s p => match cmdOf s p.1 p.2, queueOf s p.1 with
      | some c, some x => serveStat s n p.1 p.2 x.fn c.segs (c.arg1 % 2 ^ 32)
      | _, _ => s) s

/-- A window's record sealed into the slot's ring; a window disabled in the frame's bank gathers nothing (R157, R158). -/
def sealWindow (s : State) (n : Fin 8) (f : Frame) (r : RawIn) (o : RawOut) (w : Win) : State :=
  if ¬ bit (winCfg r w.win) 0 then s
  else
    let k := s.rfe[n].nextStat
    let x : StatRec := { seq := k, bytes := statBytes r o f.fr w k, pulled := false }
    let lost := s.rfe[n].ring.any fun y => decide (y.seq + 64 = k) && !y.pulled
    let s := if lost then rfeEvent (count s (rfeReg n 0x120)) 0 0x01 .info f else s
    let s := modRfe s n fun b => { b with
      nextStat := k + 1, ring := (b.ring.filter fun y => decide (k < y.seq + 64)) ++ [x] }
    settleStats (sourceEdge (raise (regSet s (rfeReg n 0x11C) (BitVec.ofNat 32 k)) .rfe (8 + n)) (80 + n)) n

/-- The last line that a window counts has passed step 7 (R154). -/
def winPassed (f : Frame) (r : RawIn) (w : Win) : Bool :=
  w.last.any fun y => decide (min y (field (winY r w.win) 29 16) < f.past r.reach)

/-- Windows that have closed on a frame, or that close with it at its last accepted line (R155), are sealed once their counted lines have passed
step 7 (R154), in the order they opened. (DEDUCED, log 21) -/
def sealPassed (s : State) (n : Fin 8) (f : Frame) (r : RawIn) : State × Frame :=
  let wins := if f.closed then
      f.wins.map fun w => if w.last.isNone then { w with last := some (f.lastLine.getD 0), cause := 1 } else w
    else f.wins
  let done := wins.filter fun w => f.closed || winPassed f r w
  if done = [] then (s, f)
  else
    let o := r.run
    (done.foldl (fun s w => sealWindow s n f r o w) s, { f with wins := wins.filter fun w => !done.contains w })

/-- A window of a frame that has just closed is sealed at once, with the lines at hand (R155). (DEDUCED, log 21) -/
def sealNow (s : State) (n : Fin 8) (f : Frame) (w : Nat) : State :=
  let g := f.banked s n
  let r := rawOf s n g
  let mine := fun (x : Win) => decide (x.win = w) && decide (x.cause = 2) && x.last.isSome
  let s := (f.wins.filter mine).foldl (fun s x => sealWindow s n g r r.run x) s
  modFrame s n f.fr.ord fun _ => { f with wins := f.wins.filter fun x => !mine x }

/-! ### TRB (R206 to R217) -/

/-- What the engines code of a sensor frame. -/
def trbOf (s : State) (n : Fin 8) (f : Frame) (r : RawIn) (o : RawOut) (cap target : Nat) : TrbIn :=
  let cs := coursesIn f.fr.courses
  { r20 := o.r20, missing := fun y => !r.has y, width := r.width, height := r.height, px := r.px, py := r.py,
    ped := r.ped, edges := seams r.width cs.length, courses := cs, ratio := f.fr.ratio, cap := cap, target := target,
    q0 := cs.map fun c => ((s.gal.qi.toList.getD c (Vector.replicate 8 none))[n]).getD (field (trbCtl f.cfg n) 5 0),
    format := field f.fmt 1 0 + (if r.ctl 4 then 4 else 0), slot := n, ord := f.fr.ord, tag := f.fr.tag,
    cfaRows := (List.range 8).map fun i => r.rd (0x60 + 4 * i),
    faults := f.engineBad.map fun p => (p.1, p.2 / (8 * r.py)) }

def trbReg (t off : Nat) : Nat := 0xE1000 + 0x40 * t + off

/-- What the block rows that a section has coded since leave in its engine's registers (R207, R215): BUSY and the QI in force, the fall to QI 63
with its event, and the blocks coded there. -/
def secProgress (s : State) (ctx : Ctx) (slot course : Nat) (a b : SecSt) : State :=
  let s := if b.fell && !a.fell then event (count s (trbReg course 8)) .trb 0 0x01 .degraded ctx 0 else s
  regSet (countN s (trbReg course 0xC) (b.maxN - a.maxN)) (trbReg course 0) (packFields [(31, 1), (24, slot), (0, b.qi)])

/-- What a section leaves when it is complete. -/
def secEffects (s : State) (slot : Nat) (x : Sec) : State :=
  let s := count s (trbReg x.course 4)
  let s := regSet s (trbReg x.course 0x10) (BitVec.ofNat 32 x.bytes.length)
  let s := regSet s (trbReg x.course 0) (packFields [(24, slot), (0, x.qi)])
  { s with gal := { s.gal with qi := vMod s.gal.qi x.course fun v => vMod v slot fun _ => some x.qi } }

/-- After a lossless frame of a slot every engine starts the slot's next lossy frame at QI_INIT (R217). -/
def clearQi (s : State) (n : Fin 8) : State := { s with gal := { s.gal with qi := s.gal.qi.map fun v => vMod v n.val fun _ => none } }

/-- Block rows whose lines have all been accepted or found missing (R207). -/
def rowsReady (f : Frame) (r : RawIn) : Nat :=
  let rows := ceilDiv (ceilDiv r.height r.py) 8
  if f.past r.reach ≥ r.height then rows else min rows (f.past r.reach / (8 * r.py))

/-- The sections of a frame coded as far as its lines go (R207, R215); an engine whose state is lost sets DATA_CORRUPT (R420). (DEDUCED, log 27) -/
def codeTo (s : State) (f : Frame) (t : TrbIn) (m : Nat) : State × Frame :=
  let secs := (List.range t.courses.length).map fun k => (t.courses.getD k 0, secAfter t k f.trbRows, secAfter t k m)
  let s := secs.foldl (fun s x => secProgress s f.slotCtx t.slot x.1 x.2.1 x.2.2) s
  let f := { f with trbRows := m }
  let f := if t.faults = [] then f else f.mark 5
  (s, if secs.any fun x => x.2.2.fell then f.mark 9 else f)

/-- Block rows that have become ready are coded (R207); a frame that is not recorded is not coded (R220). -/
def codePassed (s : State) (n : Fin 8) (f : Frame) (r : RawIn) : State × Frame :=
  match f.hold with
  | .held cap target => if rowsReady f r > f.trbRows then codeTo s f (trbOf s n f r r.run cap target) (rowsReady f r) else (s, f)
  | _ => (s, f)

/-- A closed frame is coded to its end (R207, R212): its bytes and TRB_BYTES. A frame that is not recorded is not coded (R220). (DEDUCED, log 27) -/
def trbStep (s : State) (n : Fin 8) (f : Frame) (r : RawIn) (o : RawOut) : State × Frame :=
  let done := match f.hold with
    | .held cap target =>
      let t := trbOf s n f r o cap target
      let (s, f) := codeTo s f t (rowsReady f r)
      let secs := trbSections t
      let bytes := trbFrame t false secs
      let fr := f.fr
      (secs.foldl (fun s x => secEffects s n x) s, { f with trb := bytes, fr := { fr with trbBytes := bytes.length } })
    | _ => (s, f)
  (if f.fr.ratio = 0 ∧ f.hold ≠ .none then clearQi done.1 n else done.1, done.2)

/-! ### Colour engine (R161 to R187) -/

/-- A slot's key for its noise history: tag, TNR, NBANDS, geometry and courses (R173). -/
def historyKey (c : ClrIn) (f : Frame) : Nat × Bool × Nat × Nat × Nat × Nat :=
  (f.fr.tag, c.ctl 12, c.nbands, c.width, c.height, f.fr.courses)

/-- The bank of a frame's tag, by tag and commit. -/
def tagKey (s : State) (n : Fin 8) (f : Frame) : Nat × Nat := (f.fr.tag, ((bankOf s n f.fr.tag).map (·.commitNo)).getD 0)

/-- A frame starts a new history (R173): `first` tells that it is the first of its tag. (DEDUCED, log 25) -/
def startsHistory (c : ClrIn) (prev : Option (Nat × Bool × Nat × Nat × Nat × Nat)) (first : Bool) (f : Frame) : Bool :=
  match prev with
  | none => true
  | some (_, tnr, rest) =>
    !tnr || (first && c.ctl 13) || decide (rest ≠ (c.nbands, c.width, c.height, f.fr.courses))

def clrOf (s : State) (n : Fin 8) (f : Frame) (r : RawIn) (o : RawOut) (hist : Option History) : ClrIn where
  rd := fun off => f.bank (clrReg n off)
  raw := r
  samples := o.work.map fun l => l.map r.lf24
  mesh := f.obj 0x14
  badMesh := s.fetchBad.filterMap fun c => match c with
    | .mesh k c i j => if k = n then some (c, i, j) else none
    | _ => none
  hist := hist
  badHist := s.fetchBad.filterMap fun c => match c with
    | .history k x y => if k = n then some (x, y) else none
    | _ => none

def clrEvent (s : State) (i code : Nat) (sev : Severity) (ctx : Ctx) : State := event s .clr i code sev ctx 0

/-- The working bands of a frame, what they leave in the slot's registers, and its noise history. (DEDUCED, log 25) -/
def clrStep (s : State) (n : Fin 8) (f : Frame) (r : RawIn) (o : RawOut) : State × Frame × ClrIn × ClrOut :=
  let c0 := clrOf s n f r o none
  let key := tagKey s n f
  let fresh := startsHistory c0 s.clr[n].prev (!s.clr[n].seen.contains key) f
  let tnr := c0.ctl 12
  let c := clrOf s n f r o (if tnr && !fresh then s.clr[n].hist else none)
  let out := c.run tnr
  let s := countN s (clrReg n 0x200) out.voids
  let s := repeatN out.voids (fun s => clrEvent s 2 0x03 .info f.slotCtx) s
  let s := regSet s (clrReg n 0x204) (BitVec.ofNat 32 out.hlPixels)
  let s := countN s (clrReg n 0x208) out.clamps
  let s := if tnr && fresh then count s (clrReg n 0x20C) else s
  let hist : History := {
    nbands := c.nbands, width := c.width, height := c.height, courses := f.fr.courses, lines := out.lines }
  let s := { s with clr := vMod s.clr n fun x => { x with
    prev := some (historyKey c f), hist := if tnr then some hist else x.hist, seen := key :: x.seen.filter fun k => decide (k ≠ key) } }
  if (decide (c.badMesh ≠ []) && c.ctl 10) || (decide (c.badHist ≠ []) && tnr && !fresh) then
    (clrEvent s 0 0x01 .degraded f.slotCtx, f.mark 5, c, out)
  else (s, f, c, out)

/-- The LUT slot of a 64-bit word of the LUT memory, as an error record gives it: unit kind 6 or 7, and its number. -/
def lutUnit (word : Nat) : Ctx :=
  let a := 8 * word
  if a < 0x680000 then ctxUnit 6 (a / 0x1A0000) 0 0
  else if a < 0x980000 then ctxUnit 6 (4 + (a - 0x680000) / 0x40000) 0 0
  else ctxUnit 7 ((a - 0x980000) / 0x2000) 0 0

/-- Words read uncorrectable by a rendition (R183). -/
def lutBadRead (s : State) (bad : List Nat) : State :=
  bad.foldl (fun s w => clrEvent (count s 0xB0008) 1 0x02 .degraded (lutUnit w)) s

/-! ### Imposition (R188 to R205) -/

def impEvent (s : State) (i code : Nat) (sev : Severity) (k : Nat) (f : Frame) : State :=
  event s .imp i code sev (f.ctx 22 k) 0

/-- The handle that a surface writes next (R201): a never-written one first, else the one completed longest ago. (DEDUCED, log 26) -/
def chooseHandle (s : State) (pool : List Nat) (latest : Nat) : Option Nat :=
  let l := pool.filter fun h => isAllocated s h && !heldOutsidePool s h && decide (h ≠ latest)
  match l.find? fun h => ((handleOf s h).map (·.doneAt)) == some none with
  | some h => some h
  | none => (l.foldl (fun (b : Option (Nat × Nat)) h =>
      let t := ((handleOf s h).bind (·.doneAt)).getD 0
      match b with
      | some (_, u) => if t < u then some (h, t) else b
      | none => some (h, t)) none).map (·.1)

/-- A surface's planes filled (R198): plane bytes from offset 4,096, and whether lines were copied, black or unreadable. -/
def fillSurface (f : Surf) (sc : Scaled) (src : FillFrom) : List Byte × Bool × Bool × Bool :=
  let dims := (planeDims f.format f.outW f.outH).getD []
  let starts := planeStarts 4096 dims
  let aff := f.affectedLines sc.affected
  let done := ((f.planes sc).zipIdx).map fun p =>
    f.fillPlane src p.2 (starts.getD p.2 4096) (strideOf (dims.getD p.2 (0, 0)).1) p.1 (aff.getD p.2 [])
  (layPlanes 4096 dims (done.map (·.1)), done.any (·.2.1), done.any (·.2.2.1), done.any (·.2.2.2))

/-- A frame that a surface does not receive: dropped (R199) or skipped (R201). -/
def surfNone (s : State) (k : Nat) (f : Frame) (off i code : Nat) (sev : Severity) : State :=
  encNoSource (impEvent (count s (surfReg k off)) i code sev k f) k f.fr.slot f.fr.ord

/-- An enabled surface of a frame, its descriptor, whether its rendition is enabled, and the output lines that are complete. -/
structure SurfPart where
  k : Nat
  su : Surf
  on : Bool
  lines : Nat

/-- Lines below a line that stages 2 to 6 read for it (R165, R169, R171). -/
def Frame.clrReach (f : Frame) (r : RawIn) : Nat :=
  let rd := fun off => f.bank (clrReg f.fr.slot off)
  let mesh := f.obj 0x14
  let nodes := (byteAt mesh 2).toNat * leAt mesh 4 2 * leAt mesh 6 2
  let dy := ((List.range nodes).map fun i => (signed 16 (leAt mesh (34 + 4 * i) 2)).natAbs).foldl max 0
  (if field (rd 0) 1 0 = 1 then 2 * r.py else r.py) + (if bit (rd 0) 10 then ceilDiv dy 256 + 1 else 0)
    + (if bit (rd 0) 11 then field (rd 0) 23 20 else 0)

/-- The enabled surfaces of a frame (R188) with the lines complete so far. -/
def surfParts (f : Frame) (r : RawIn) : List SurfPart :=
  let passed := f.past (r.reach + f.clrReach r)
  (List.range 32).filterMap fun k =>
    let su : Surf := { rd := fun off => f.reg (surfReg k off) }
    let rend := f.bank (rendReg su.rend 0)
    if su.on ∧ field rend 26 24 = f.fr.slot then
      some { k := k, su := su, on := bit rend 31, lines := su.linesDone f.height passed }
    else none

/-- An output line is affected (R198); every line of a rendition that is disabled is. -/
def SurfPart.affected (p : SurfPart) (f : Frame) (r : RawIn) (y : Nat) : Bool := !p.on || (p.su.vTaps f.height y).any fun t => !r.has t.1

/-- The buffer that a surface is writing for a frame. -/
def writingOf (s : State) (k : Nat) (f : Frame) : Option Writing :=
  s.imp.writing.find? fun w => decide (w.surf = k) && decide (w.slot = f.fr.slot) && decide (w.ord = f.fr.ord)

/-- A surface does not receive a frame, and a buffer it has begun for it holds nothing. -/
def surfGone (s : State) (k : Nat) (f : Frame) (off i code : Nat) (sev : Severity) : State × Frame :=
  let mine := fun (w : Writing) => decide (w.surf = k) && decide (w.slot = f.fr.slot) && decide (w.ord = f.fr.ord)
  let s := { s with imp := { s.imp with writing := s.imp.writing.filter fun w => !mine w } }
  (surfNone s k f off i code sev, { f with gone := k :: f.gone })

/-- A surface chooses its buffer at the first line written for a frame, or skips the frame (R201). -/
def openSurface (s : State) (f : Frame) (p : SurfPart) : State × Frame :=
  match chooseHandle s p.su.pool (s.imp.latest.toList.getD p.k 0) with
  | none => surfGone s p.k f 0x34 1 0x02 .degraded
  | some h =>
    let w : Writing := {
      surf := p.k, slot := f.fr.slot, ord := f.fr.ord, handle := h, lines := 0, written := false, own := 0, fr := none }
    ({ s with imp := { s.imp with writing := s.imp.writing ++ [w] } }, f)

/-- A surface follows a frame (R198, R199, R201, R267): it chooses its buffer at the first line, drops the frame at an affected line when FILL is
DROP, and the streams bound to the frame see the lines that are complete. (DEDUCED, log 26) -/
def advanceSurf (s : State) (f : Frame) (r : RawIn) (p : SurfPart) : State × Frame :=
  if f.gone.contains p.k ∨ p.lines = 0 then (s, f)
  else
    let drops := fun (l : List Nat) => decide (p.su.fill = 2) && l.any (p.affected f r)
    let (s, f) := if (writingOf s p.k f).isSome ∨ drops [0] then (s, f) else openSurface s f p
    if f.gone.contains p.k then (s, f)
    else if drops (List.range p.lines) then surfGone s p.k f 0x30 0 0x01 .info
    else match writingOf s p.k f with
      | none => (s, f)
      | some w =>
        let put := fun (x : Writing) => if x = w then { x with lines := p.lines } else x
        let s := { s with imp := { s.imp with writing := s.imp.writing.map put } }
        (encSource s p.k f.fr.slot f.fr.ord w.handle p.lines false, f)

/-- A change of a state and a frame for each of a list. -/
def forParts (l : List SurfPart) (s : State) (f : Frame) (g : State → Frame → SurfPart → State × Frame) : State × Frame :=
  l.foldl (fun a p => g a.1 a.2 p) (s, f)

/-- A closed frame's surface whose rendition's pixels are given (R188 to R201). (DEDUCED, log 26) -/
def imposeOne (s : State) (f : Frame) (r : RawIn) (p : SurfPart) (px : Plane (List ℚ)) (lutBad : Bool) : State × Frame :=
  let (s, f) := advanceSurf s f r p
  match writingOf s p.k f with
  | none => (s, f)
  | some w =>
    if p.su.corruptDrop && (bit f.fr.status 5 || lutBad) then surfGone s p.k f 0x30 0 0x01 .info
    else
      let k := p.k
      let su := p.su
      let sc := su.scale f.width f.height (fun y => p.on && r.has y) px
      let latest := s.imp.latest.toList.getD k 0
      let badLines := s.fetchBad.filterMap fun c => match c with
        | .repeatLine j q y => if j.val = k then some (q, y) else none
        | _ => none
      let src := if su.fill = 0 ∧ latest ≠ 0 then FillFrom.copy (bufferBytes s latest 0 su.size) badLines else FillFrom.black
      let (bytes, copied, black, unread) := fillSurface su sc src
      let own := (if copied then 0x10000#32 else 0) ||| (if black then 0x20000#32 else 0)
        ||| (if unread || lutBad then 0x100000#32 else 0)
      let s := if sc.affected.any id then count s (surfReg k 0x38) else s
      let s := if unread then impEvent s 2 0x03 .degraded k f else s
      let put := fun (x : Writing) => if x = w then { x with lines := su.outH, written := true, own := own } else x
      let s := writeBuffer { s with imp := { s.imp with writing := s.imp.writing.map put } } w.handle 4096 bytes
      (encSource s k f.fr.slot f.fr.ord w.handle su.outH true, f)

/-- The renditions and surfaces of a closed frame (R177, R188). -/
def imposeAll (s : State) (n : Fin 8) (f : Frame) (c : ClrIn) (o : ClrOut) : State × Frame :=
  let rends := (List.range 32).filter fun r => bit (f.bank (rendReg r 0)) 31 && decide (field (f.bank (rendReg r 0)) 26 24 = n)
  let outs := rends.map fun r => (r, renderFrame s.lut (fun off => f.bank (rendReg r off)) c o)
  let s := outs.foldl (fun s x => lutBadRead s x.2.bad) s
  forParts (surfParts f c.raw) s f fun s f p =>
    match outs.find? fun x => decide (x.1 = p.su.rend) with
    | some x => imposeOne s f c.raw p x.2.px (decide (x.2.bad ≠ []))
    | none => imposeOne s f c.raw p [] false

/-- Fetch errors of a slot's frame are spent once its processing has met them. (DEDUCED, log 25) -/
def spendFetches (s : State) (n : Fin 8) (surfs : List Nat) : State :=
  { s with fetchBad := s.fetchBad.filter fun c => match c with
    | .defects k _ => decide (k ≠ n)
    | .flat k _ _ _ => decide (k ≠ n)
    | .columns k _ _ => decide (k ≠ n)
    | .mesh k _ _ _ => decide (k ≠ n)
    | .history k _ _ => decide (k ≠ n)
    | .repeatLine k _ _ => !surfs.contains k.val
    | .command _ _ _ => true
    | .jobDefects _ _ _ => true
    | .jobFlat _ _ _ _ _ => true
    | .jobMesh _ _ _ _ _ => true
    | .jobColumns _ _ _ _ => true
    | _ => false }

/-- A closed frame through its courses: raw front end, statistics, TRB, colour engine, imposition. -/
def processFrame (s : State) (n : Fin 8) (f : Frame) : State × Frame :=
  let r := rawOf s n f
  let o := r.run
  let (s, f) := rfeEffects s n f r o
  let (s, f) := sealPassed s n f r
  let (s, f) := trbStep s n f r o
  let (s, f, c, out) := clrStep s n f r o
  let (s, f) := imposeAll s n f c out
  (spendFetches s n ((surfParts f r).map (·.k)), f)

/-- What follows the lines of an open frame down (R22, R152, R154, R201, R207, R267): failed fetches, statistics records, TRB block rows, and the
lines that its surfaces have. -/
def advanceFrame (s : State) (n : Fin 8) (ord : Word) : State :=
  match frameOf s n ord with
  | none => s
  | some f =>
    if f.closed || !f.tagKnown then s
    else
      let r := rawOf s n f
      let (s, f) := rfeFetch s f r
      let (s, f) := sealPassed s n f r
      let (s, f) := codePassed s n f r
      let (s, f) := forParts (surfParts f r) s f fun s f p => advanceSurf s f r p
      modFrame s n ord fun _ => f

/-! ### Release of tag banks and identifiers (R69, R76, R81) -/

/-- Banks that are neither held nor can be again are gone. -/
def releaseBanks (s : State) : State :=
  let banks := Vector.ofFn fun (n : Fin 8) => (s.frm.banks[n]).filter (bankKept s n)
  { s with frm := { s.frm with banks := banks } }

/-- Identifiers that become Free: discarded, or Applied and superseded, with no bank held. -/
def releaseFormes (s : State) : State :=
  let held := fun (i : Nat) => (List.finRange 8).any fun n => (heldBanks s n).any fun b => decide (b.forme = i)
  let keep := fun (p : Nat × Forme) => held p.1 || (match p.2.st with
    | .discarded => false
    | .applied => decide (p.1 = s.frm.inForce)
    | _ => true)
  { s with frm := { s.frm with formes := s.frm.formes.filter keep } }

end Sys2Proof.Machine
end

