-- ==== Sys2Proof/Machine/BcOps.lean ====
section
/-! DEFINITION. The back-channel transmitter (R89, R91 to R95, R106): the 66-bit blocks of what a link sends, their places on the block grid,
markers and FILLERs between them, and the scrambled payloads that the lanes carry. -/

namespace Sys2Proof.Machine
open Sys2Proof

/-! ### Blocks (R91, R93, R94) -/

/-- A payload from its eight bytes, byte 0 first; bytes not given are 0. -/
def payloadOf (b : List Byte) : BitVec 64 := BitVec.ofNat 64 (leAt b 0 8)

/-- The blocks of a packet: START, its bytes eight by eight, the last block padded with zeros, and TERM. -/
def packetBlocks (ty stream : Nat) (bytes : List Byte) : List (Bool × BitVec 64) :=
  let len := leBytes 4 bytes.length
  [(true, payloadOf ([0x33#8, BitVec.ofNat 8 ty, BitVec.ofNat 8 stream, 0] ++ len))]
    ++ ((List.range (ceilDiv bytes.length 8)).map fun i => (false, BitVec.ofNat 64 (leAt bytes (8 * i) 8)))
    ++ [(true, payloadOf ([0x87#8, 0, 0, 0] ++ len))]

/-- The blocks of what is sent (Table LNK-5): whether each is a control block, and its payload. -/
def Bc.blocks : Bc → List (Bool × BitVec 64)
  | .linkConfig b => [(true, payloadOf b)]
  | .frameStart st ofs ord => [(true, payloadOf ([0xC3#8, BitVec.ofNat 8 st] ++ leBytes 2 ofs ++ leBytes 4 ord.toNat))]
  | .ping q => [(true, payloadOf [0xCC#8, BitVec.ofNat 8 q])]
  | .capRequest st => [(true, payloadOf [0xA9#8, BitVec.ofNat 8 st])]
  | .test mode pat mask => [(true, payloadOf [0xD2#8, BitVec.ofNat 8 mode, BitVec.ofNat 8 pat, BitVec.ofNat 8 mask])]
  | .packet ty st bytes => packetBlocks ty st bytes

/-- The FILLER block's payload. -/
def fillerPayload : BitVec 64 := 0x1E#64

/-- A marker's eight bytes (Table LNK-6). -/
def markerBytes (lane width seq : Nat) : List Byte :=
  let b1 := BitVec.ofNat 8 (lane + 8 * (width - 1))
  [0x4B#8, b1, BitVec.ofNat 8 seq, b1 ^^^ 0xFF#8, 0x6E#8, 0x3C#8, 0x91#8, 0xD4#8]

/-! ### The block grid (R95, R106) -/

/-- The time of a block in ps at a BC_RATE code (Table LNK-1): 66 unit intervals. -/
def bcPs : Nat → Nat
  | 0 => 52800
  | 1 => 26400
  | 2 => 21120
  | 3 => 13200
  | 4 => 10560
  | _ => 6400

/-- A back-channel that begins at a tick, with the marker as its first block. -/
def BcTx.start (at_ rate : Nat) (dup : Bool) (seq0 : Nat) (seed : BitVec 58) : BcTx :=
  { origin := some at_, rate := rate, dup := dup, seq0 := seq0, seed := seed, placed := [], nextPkt := 1, pattern := none }

/-- A marker's place: the first block and every 16,384th after it. -/
def markerAt (i : Nat) : Bool := decide (i % 16384 = 0)

/-- An index that holds a marker or a placed block; a marker or an inline one. -/
def BcTx.taken (t : BcTx) (i : Nat) : Bool := markerAt i || t.placed.any fun b => decide (b.idx = i)
def BcTx.takenInline (t : BcTx) (i : Nat) : Bool := markerAt i || t.placed.any fun b => decide (b.idx = i) && b.inl

/-- The first index from `i` on that a test finds free, looking at no more than the given number. -/
def firstFree (held : Nat → Bool) : Nat → Nat → Nat
  | 0, i => i
  | n + 1, i => if held i then firstFree held n (i + 1) else i

def BcTx.freeFrom (t : BcTx) (i : Nat) : Nat := firstFree t.taken (2 * t.placed.length + 2) i

/-- The first block boundary at or after a tick. -/
def BcTx.boundary (t : BcTx) (now : Nat) : Nat := ceilDiv (1000 * (now - t.origin.getD now)) (bcPs t.rate)

/-- Blocks of types that are not inline, placed in order from an index on. -/
def BcTx.putRun : List (Bool × BitVec 64) → BcTx → Nat → BcTx
  | [], t, i => { t with nextPkt := i }
  | (ctl, p) :: r, t, i =>
    let j := t.freeFrom i
    BcTx.putRun r { t with placed := { idx := j, inl := false, ctl := ctl, payload := p } :: t.placed } (j + 1)

/-- Blocks that gave way are placed again behind an index, in their order. -/
def BcTx.putAgain : List TxBlk → BcTx → Nat → BcTx
  | [], t, _ => t
  | b :: r, t, i =>
    let j := t.freeFrom (max i b.idx)
    BcTx.putAgain r { t with placed := { b with idx := j } :: t.placed, nextPkt := max t.nextPkt (j + 1) } (j + 1)

/-- An inline block placed at an index: an open packet's blocks from there on give way (R106). -/
def BcTx.putInline (t : BcTx) (j : Nat) (p : BitVec 64) : BcTx :=
  let moved := (t.placed.filter fun b => !b.inl && decide (j ≤ b.idx)).reverse
  let kept := t.placed.filter fun b => b.inl || decide (b.idx < j)
  BcTx.putAgain moved { t with placed := { idx := j, inl := true, ctl := true, payload := p } :: kept } j

/-- The first boundary from a tick on that no marker and no inline block holds. -/
def BcTx.inlineFrom (t : BcTx) (now : Nat) : Nat := firstFree t.takenInline (2 * t.placed.length + 2) (t.boundary now)

/-- A PING placed at or after a tick. -/
def BcTx.putPing (t : BcTx) (now : Nat) (q : Nat) : BcTx :=
  t.putInline (t.inlineFrom now) (payloadOf [0xCC#8, BitVec.ofNat 8 q])

/-- What is not inline, placed behind what is already being sent (R94: packets never overlap). -/
def BcTx.send (t : BcTx) (now : Nat) (b : Bc) : BcTx := BcTx.putRun b.blocks t (max t.nextPkt (t.boundary now))

/-- The latest boundary from `i` back that no marker and no inline block holds: each step back adds one block time to OFFSET (R106). -/
def BcTx.stepBack (t : BcTx) : Nat → Nat → Option (Nat × Nat)
  | 0, _ => none
  | i + 1, ofs => if t.takenInline (i + 1) then t.stepBack i (ofs + 66) else some (i + 1, ofs)

/-- Where a FRAME_START goes whose reference point lies at a tick, and its OFFSET (R106): the latest boundary whose block ends at the tick
less the delay in ps, or before it; where the back-channel has not run so long, the next boundary. -/
def BcTx.frameStartAt (t : BcTx) (tick delay : Nat) : Nat × Nat :=
  let ps := bcPs t.rate
  let span := 1000 * (tick - t.origin.getD tick) - delay
  let i := span / ps
  let late := (t.inlineFrom tick, 0)
  match i with
  | 0 => late
  | i + 1 => (t.stepBack i ((span - (i + 1) * ps) * 66 / ps)).getD late

/-! ### What the lanes carry (R89, R92) -/

/-- Payload bits scrambled one by one: s(n) = d(n) xor s(n − 39) xor s(n − 58). -/
def scramble (payload : BitVec 64) : Nat → BitVec 58 → BitVec 64 → BitVec 58 × BitVec 64
  | 0, h, acc => (h, acc)
  | n + 1, h, acc =>
    let i := 64 - (n + 1)
    let b := xor (payload.getLsbD i) (xor (h.getLsbD 38) (h.getLsbD 57))
    scramble payload n ((h <<< 1) ||| (if b then 1 else 0)) (if b then acc ||| (1#64 <<< i) else acc)

/-- The block at an index as it is before the scrambler, on BC0 or BC1: a control block or not, and its payload. -/
def BcTx.plain (t : BcTx) (lane i : Nat) : Bool × BitVec 64 :=
  if markerAt i then (true, payloadOf (markerBytes lane (if t.dup then 2 else 1) ((t.seq0 + i / 16384) % 256)))
  else match t.placed.find? fun b => decide (b.idx = i) with
    | some b => (b.ctl, b.payload)
    | none => (true, fillerPayload)

/-- The scrambler's state before an index; a marker is not shifted into it. -/
def BcTx.scrambler (t : BcTx) (lane : Nat) : Nat → BitVec 58
  | 0 => t.seed
  | i + 1 => if markerAt i then t.scrambler lane i else (scramble (t.plain lane i).2 64 (t.scrambler lane i) 0).1

/-- The 66-bit block at an index of a lane: the sync header, bit 0 sent first (10 for a control block), and the payload, scrambled but for a marker. -/
def BcTx.wire (t : BcTx) (lane i : Nat) : BitVec 2 × BitVec 64 :=
  let (ctl, p) := t.plain lane i
  let hdr := if ctl then 1#2 else 2#2
  (hdr, if markerAt i then p else (scramble p 64 (t.scrambler lane i) 0).2)

/-- BC1 carries the block stream as BC0 does: BC_MODE 1, and no MODE 4 test on the link (R89, R112). -/
def BcTx.onBc1 (t : BcTx) : Bool := t.dup && t.pattern.isNone

/-- The block at an index of a back-channel lane, 2k for BC0 and 2k + 1 for BC1 of link k; none at electrical idle and while BC1 carries a
test pattern. -/
def bcBlock (s : State) (lane : Fin 8) (i : Nat) : Option (BitVec 2 × BitVec 64) :=
  let t := (s.lnk.links[Fin.ofNat 4 (lane.val / 2)]).tx
  if t.origin.isSome ∧ (lane.val % 2 = 0 ∨ t.onBc1 = true) then some (t.wire (lane.val % 2) i) else none

end Sys2Proof.Machine
end

