-- ==== Sys2Proof/Machine/LinkOps.lean ====
section
/-! DEFINITION. Link operations that other families share: which link serves a slot, back-channel blocks, exposure
messages (R80, R106, R108), and the start of a bring-up (R103). -/

namespace Sys2Proof.Machine
open Sys2Proof

def lkReg (k off : Nat) : Nat := 0x50000 + 0x100 * k + off
def laneReg (j off : Nat) : Nat := 0x51000 + 0x40 * j + off
def testRefusedReg : Nat := 0x52004

def modLink (s : State) (k : Nat) (f : Link → Link) : State :=
  { s with lnk := { s.lnk with links := vMod s.lnk.links k f } }

def modLane (s : State) (j : Nat) (f : Lane → Lane) : State :=
  { s with lnk := { s.lnk with lanes := vMod s.lnk.lanes j f } }

/-- What a link keeps while a forme's change or disable of it waits (R105). -/
def heldLink (s : State) (k : Nat) : Option HeldLink := (s.lnk.links.toList[k]?).bind (·.held)

/-- A link's configuration, lanes and slots as it runs under them. -/
def linkCfg (s : State) (k : Nat) : Word := (heldLink s k).elim (regGet s (lkReg k 0)) (·.cfg)
def linkLanes (s : State) (k : Nat) : Word := (heldLink s k).elim (regGet s (lkReg k 4)) (·.lanes)
def linkSlots (s : State) (k : Nat) : Word := (heldLink s k).elim (regGet s (lkReg k 8)) (·.slots)

/-- A link is in use: its back-channel transmits and its lanes are received. -/
def linkEnabled (s : State) (k : Nat) : Bool := bit (linkCfg s k) 31

/-- ENABLE of a link in the forme in force. -/
def linkOn (s : State) (k : Nat) : Bool := regBit s (lkReg k 0) 31

/-- Set bits of a word below a bit. -/
def popBelow (w : Word) : Nat → Nat
  | 0 => 0
  | n + 1 => popBelow w n + (if bit w n then 1 else 0)

/-- Set bits of a word. -/
def popCount (w : Word) : Nat := popBelow w 32

/-- The position of the `i`-th set bit of a word, looking at bits from `b` up, `fuel` of them. -/
def nthBit (w : Word) : Nat → Nat → Nat → Option Nat
  | 0, _, _ => none
  | fuel + 1, b, i =>
    if bit w b then (match i with
      | 0 => some b
      | j + 1 => nthBit w fuel (b + 1) j)
    else nthBit w fuel (b + 1) i

/-- The slot that a stream index of a link names (Table LNK-2). -/
def streamSlot (s : State) (k stream : Nat) : Option Nat := nthBit (linkSlots s k) 8 0 stream

/-- The enabled link that carries a slot in the forme in force, with the slot's stream index. -/
def slotLink (s : State) (n : Nat) : Option (Fin 4 × Nat) :=
  ((List.finRange 4).find? fun (k : Fin 4) => linkOn s k && regBit s (lkReg k 8) n).map
    fun k => (k, popBelow (regGet s (lkReg k 8)) n)

/-- The enabled link that a lane is assigned to in the forme in force (R111, Table LNK-13). -/
def laneAssigned (s : State) (j : Nat) : Option (Fin 4) :=
  (List.finRange 4).find? fun (k : Fin 4) => linkOn s k && regBit s (lkReg k 4) j

/-- The link that receives a lane. -/
def laneLink (s : State) (j : Nat) : Option (Fin 4) :=
  (List.finRange 4).find? fun (k : Fin 4) => linkEnabled s k && bit (linkLanes s k) j

/-- The lanes of a link, lowest first. -/
def lanesOf (s : State) (k : Nat) : List (Fin 32) :=
  (List.finRange 32).filter fun j => bit (linkLanes s k) j

/-- The slots of a link, lowest first. -/
def slotsOf (s : State) (k : Nat) : List (Fin 8) :=
  (List.finRange 8).filter fun n => bit (linkSlots s k) n

/-- A link carries an unmasked slot. -/
def carriesUnmasked (s : State) (k : Nat) : Bool := (slotsOf s k).any fun n => unmasked s n

/-- LNK event with the link in its record's context (R114). -/
def lnkEvent (s : State) (i code : Nat) (sev : Severity) (k sub : Nat) : State :=
  event s .lnk i code sev (ctxUnit 8 k sub 0) 0

/-- LNK event of a lane, with the lane and its link in its record's context (R114). (DEDUCED, log 23) -/
def laneEvent (s : State) (i code : Nat) (k j : Nat) : State := event s .lnk i code .degraded (ctxUnit 9 j k 0) 0

/-- LANE_LOCK_LOSS (Table LNK-16). -/
def lockLoss (s : State) (k j : Nat) : State := laneEvent s 7 0x08 k j

/-- Sent on a link's back-channel behind what is already being sent (R93, R94). -/
def sendBc (s : State) (k : Fin 4) (b : Bc) : State :=
  modLink (emit s (.bc k b)) k fun l => { l with tx := l.tx.send s.now b }

/-- The delay that a slot's frame starts compensate: what it took at its last frame boundary, 0 with DELAY_COMP = 0 (R107, Table LNK-3). -/
def startDelay (s : State) (k : Nat) (n : Fin 8) : Nat := if regBit s (lkReg k 0xC) 16 then (s.ref.slots[n]).bcDelay else 0

/-- The delay in force on a slot's link is used by the slot's frame starts from now (R107). -/
def takeDelay (s : State) (n : Fin 8) : State :=
  let d := match slotLink s n with
    | some (k, _) => if s.lnk.links[k].delayValid then (regGet s (lkReg k 0x14)).toNat else 0
    | none => 0
  modCad s n fun c => { c with bcDelay := d }

/-- FRAME_START of a frame whose issue tick is now, placed so that its reference point reaches the sensor at that tick (R106). -/
def sendFrameStart (s : State) (n : Fin 8) (ord : Word) : State :=
  match slotLink s n with
  | none => s
  | some (k, stream) =>
    let at_ := (s.lnk.links[k]).tx.frameStartAt s.now (startDelay s k n)
    let b : Bc := .frameStart stream at_.2 ord
    modLink (emit s (.bc k b)) k fun l => { l with tx := l.tx.putInline at_.1 ((b.blocks.map (·.2)).headD 0) }

/-- The bytes of a LINK_CONFIG block (Table LNK-5). -/
def linkConfigBytes (s : State) (k : Nat) : List Byte :=
  let cfg := linkCfg s k
  let rate := field cfg 14 0
  [0xE1#8, BitVec.ofNat 8 ((popCount (linkLanes s k) + 7) % 8), BitVec.ofNat 8 rate, BitVec.ofNat 8 (rate / 256),
   BitVec.ofNat 8 ((popCount (linkSlots s k) + 7) % 8 + field cfg 30 28 * 16 + field cfg 27 27 * 128), 0, 0, 0]

/-- LINK_CONFIG sent (R103). -/
def sendLinkConfig (s : State) (k : Fin 4) : State :=
  modLink (sendBc s k (.linkConfig (linkConfigBytes s k))) k fun l => { l with lastCfg := some s.now }

/-- A lane's receive state started again at a rate in kb/s; INVERT stands (R96), as does the mapping it once had (R112). -/
def laneRestart (rate : Nat) (l : Lane) : Lane :=
  { Lane.reset with mapped := l.mapped, prbs := l.prbs, eqPrev := l.eqPrev, errPrev := l.errPrev, errCur := l.errCur, skew := l.skew,
                    invert := l.invert, gen := l.gen, rate := rate }

/-- The receive state of every lane of a link started again. -/
def restartLanes (s : State) (k : Nat) : State :=
  (lanesOf s k).foldl (fun s j => modLane s j (laneRestart (1000 * field (linkCfg s k) 14 0))) s

/-- INVERT of every lane of a link cleared: the link goes DOWN or DISABLED (R96). -/
def clearInvert (s : State) (k : Nat) : State :=
  (lanesOf s k).foldl (fun s j => modLane s j fun l => { l with invert := false }) s

/-- The back-channel begins anew: its first block is a marker (R95). The first sequence count and the scrambler's state are free. -/
def startTx (s : State) (k : Fin 4) : State :=
  let (q, s) := freeNat s
  let (h, s) := freeNat s
  let cfg := linkCfg s k
  let t := BcTx.start s.now (field cfg 30 28) (bit cfg 27) (q % 256) (BitVec.ofNat 58 h)
  modLink s k fun l => { l with tx := t }

/-- Step 1 of R103 under the running timeout: CONFIG, with a first LINK_CONFIG. -/
def toConfig (s : State) (k : Fin 4) : State :=
  sendLinkConfig (startTx (modLink (restartLanes s k) k fun l =>
    { l with st := .config, mapOk := false, rr := 0, pkt := none, dropping := false, capsDue := false, pings := [], samples := [],
             dropped := 0 }) k) k

/-- A start of R103 with a new timeout; a change that waited takes effect (R105). While LNK_REFCLK is lost (R485) or a lane of the link is under
test (R111) the link stays DOWN. -/
def startBringup (s : State) (k : Fin 4) : State :=
  let s := modLink (restartLanes s k) k fun l => { l with reconfig := false, held := if l.disabling then l.held else none }
  if (s.sys.clocks[3]).lost || (s.lnk.links[k]).testing then modLink s k fun l => { l with st := .down, mapOk := false, rr := 0 }
  else modLink (toConfig s k) k fun l => { l with start := s.now }

/-- A link comes into use through a forme (R103): no back-channel delay is in force yet (R107). -/
def enableLink (s : State) (k : Fin 4) : State :=
  startBringup (modLink s k fun l => { l with delayValid := false, disabling := false, testing := false }) k

/-- A slot's link is UP and no forme change is taking it down (R104, R105). -/
def slotLinkUp (s : State) (n : Nat) : Bool :=
  match slotLink s n with
  | some (k, _) => let l := s.lnk.links[k]; l.st == .up && !l.reconfig && !l.disabling
  | none => false

/-! ### Exposure messages (R80, R108) -/

/-- The payload of an EXPOSURE packet (Table LNK-9). -/
def exposureBytes (m : SMap Word) (n tag stream : Nat) (ord : Word) (expNs periodNs : Nat) : List Byte :=
  let words := field (rmGet m (expReg n 8)) 4 0
  [BitVec.ofNat 8 tag, BitVec.ofNat 8 stream] ++ leBytes 2 words ++ leBytes 4 ord.toNat ++ leBytes 4 expNs
    ++ leBytes 4 periodNs ++ leBytes 2 (field (rmGet m (expReg n 4)) 15 0) ++ [0, 0]
    ++ ((List.range words).flatMap fun i => leBytes 4 (rmGet m (expReg n (0x20 + 4 * i))).toNat)

/-- The exposure message of frame `j` of a slot (R80, R108), unless it has been sent, the slot's link is not UP, or
no capability record is in force (R121): its period and tag are fixed with it (R34, R80). -/
def sendExposureFor (s : State) (n : Fin 8) (j : Nat) : State :=
  if (s.ref.slots[n]).sent.any (fun e => decide (e.ord = j)) then s
  else match slotLink s n with
  | none => s
  | some (k, stream) =>
    if s.lnk.links[k].st ≠ .up ∨ field (regGet s (0x601C0 + 0x200 * n)) 31 30 < 2 then s
    else
      let s := fixUpTo s n j
      let tag := expectedTag s n j
      let m := tagRegs s n tag
      let per := if cadSource m n = 3 then shutterPeriod s n else fixedPeriod s n j
      let pNs := roundHalfUp per
      let eNs := exposureNs m n per
      let s := sendBc s k (.packet 0x81 stream (exposureBytes m n tag stream (BitVec.ofNat 32 j) eNs pNs))
      let no := commitNoOf s tag
      modCad s n fun c => { c with sent := c.sent ++ [{ ord := j, tag := tag, expNs := eNs, periodNs := pNs }], msgNo := no }

/-- The messages of the first frames of a slot being unmasked: max(1, L) of them (R80). -/
def sendFirstExposures : Nat → State → Fin 8 → Nat → State
  | 0, s, _, _ => s
  | i + 1, s, n, j => sendFirstExposures i (sendExposureFor s n j) n (j + 1)

end Sys2Proof.Machine
end

