-- ==== Sys2Proof/Machine/CheckCfg.lean ====
section
/-! DEFINITION. The hardware checks of lock-up on the merged configuration (R72 stage 1, second part), in the order of Table FRM-8. The
readings taken are those of notes/assumptions/13.md. -/

namespace Sys2Proof.Machine
open Sys2Proof

/-! ### The merged configuration (R72) -/

/-- Registers with a forme's writes applied (R63). -/
def overlayRegs (m : SMap Word) (l : List Triple) : SMap Word :=
  l.foldl (fun m t => rmSet m t.off (overlayWord (rmGet m t.off) t.data t.mask &&& maskOf t.off)) m

/-- The state with registers as they will be. -/
def State.withRegs (s : State) (m : SMap Word) : State := { s with regs := m }

/-- The projected configuration: the one in force with every Locked forme applied in application order (R72). -/
def projected (s : State) : State := s.withRegs ((lockedFormes s).foldl (fun m f => overlayRegs m f.writes) s.regs)

/-- Objects of a slot's newest bank that has not been discarded (R65). (DEDUCED, log 17) -/
def newestObjs (s : State) (n : Fin 8) : List BulkObj :=
  ((s.frm.banks[n]).reverse.find? fun b => !b.discarded).elim [] (·.objs)

/-- A slot's objects under a forme: those it loads for the slot replace their kinds, the last of a kind first (R65). (DEDUCED, log 17) -/
def objsUnder (old : List BulkObj) (f : Forme) (n : Nat) : List BulkObj :=
  let mine := f.objs.reverse.filter fun o => decide (o.kind ≠ 0x12) && decide (o.kind ≠ 0x13) && decide (o.slot = n)
  (old.filter fun o => !mine.any fun x => decide (x.kind = o.kind)) ++ mine

/-- What the checks of one forme read: the state in force, the projected configuration without the forme and with it, and the forme. -/
structure Proj where
  now : State
  ahead : State
  st : State
  ident : Nat
  f : Forme

/-- The forme merged onto the projected configuration. -/
def projOf (s : State) (ident : Nat) (f : Forme) : Proj :=
  let a := projected s
  { now := s, ahead := a, st := a.withRegs (overlayRegs a.regs f.writes), ident := ident, f := f }

def Proj.objs (p : Proj) (n : Fin 8) : List BulkObj := objsUnder (newestObjs p.now n) p.f n
def Proj.reg (p : Proj) (off : Nat) : Word := regGet p.st off
def Proj.fld (p : Proj) (off hi lo : Nat) : Nat := field (p.reg off) hi lo
def Proj.has (p : Proj) (off i : Nat) : Bool := bit (p.reg off) i

/-- The slots unmasked in the merged configuration: the checks of R84, R123, R177, R216 and codes 0x13 and 0x14 name them. -/
def Proj.live (p : Proj) : List (Fin 8) := (List.finRange 8).filter fun n => unmasked p.st n.val

/-- A rejection on a field, or on none. -/
def rejAt (detail off : Nat) (u : Nat × Nat) : Reject := { detail := detail, off := some off, kind := u.1, unit := u.2 }
def rejNo (detail : Nat) (u : Nat × Nat) : Reject := { detail := detail, off := none, kind := u.1, unit := u.2 }

/-! ### Stage 1: writes in staging order -/

/-- The first write that fails its single-field check (R73). (DEDUCED, log 13) -/
def Proj.writes (p : Proj) : Option Reject :=
  p.f.writes.findSome? fun t => (fieldCheck t.off (p.reg t.off)).map fun d => rejAt d t.off (fieldUnit t.off)

/-! ### FIELD_RANGE -/

/-- A slot's raw front end and colour engine as they are checked. -/
def Proj.blk (p : Proj) (n : Fin 8) : BlkCfg :=
  let obj := fun (k : Nat) => (((p.objs n).find? fun o => decide (o.kind = k)).map (·.bytes)).getD []
  { rfe := fun o => p.reg (rfeReg n o), clr := fun o => p.reg (clrReg n o), rfeBase := rfeReg n 0, clrBase := clrReg n 0,
    kind := 1, unit := n, width := slotWidth p.st.regs n, height := slotLines p.st.regs n,
    dual := p.has (0x60004 + 0x200 * n.val) 2, courses := (slotCourses p.st n).length,
    defects := obj 0x10, flat := obj 0x11, mesh := obj 0x14 }

/-- Links without lanes, or with more than 8 (R88). -/
def Proj.lanes (p : Proj) : List Reject :=
  (List.range 4).flatMap fun k =>
    let n := popCount (p.reg (lkReg k 4))
    rej (p.has (lkReg k 0) 31 && (decide (n = 0) || decide (n > 8))) (rejAt 0x01 (lkReg k 4) (0, 0))

/-- The block of the slot that an object names. -/
def Proj.blkAt (p : Proj) (n : Nat) : BlkCfg := p.blk (Fin.ofNat 8 n)

/-- Geometry of the forme's own maps and meshes (R148, R168). -/
def Proj.objGeometry (p : Proj) : List Reject :=
  p.f.objs.flatMap fun o =>
    let step := if o.kind = 0x11 then 16 else 64
    rej ((decide (o.kind = 0x11) || decide (o.kind = 0x14)) && nodesBad (p.blkAt o.slot) o.bytes step) (rejNo 0x06 (1, o.slot))

/-- Contents of the forme's own objects (R146, R148, R168, R182). -/
def Proj.contents (p : Proj) : List Reject :=
  p.f.objs.flatMap fun o =>
    if o.kind = 0x10 then rej (defectsBad o.bytes) (rejNo 0x01 (1, o.slot))
    else if o.kind = 0x11 then rej (flatRangeBad (p.blkAt o.slot) o.bytes) (rejNo 0x01 (1, o.slot))
    else if o.kind = 0x14 then rej (meshRangeBad (p.blkAt o.slot) o.bytes) (rejNo 0x01 (1, o.slot))
    else if o.kind = 0x12 then rej (lutRangeBad o.kind o.bytes) (rejNo 0x01 (6, (byteAt o.bytes 2).toNat))
    else if o.kind = 0x13 then rej (lutRangeBad o.kind o.bytes) (rejNo 0x01 (7, (byteAt o.bytes 2).toNat))
    else []

/-- A surface of the merged configuration. -/
def Proj.surf (p : Proj) (k : Nat) : Surf := { rd := fun o => p.reg (surfReg k o) }

/-- A surface is enabled, and the rendition it reads is too: the slot it serves. -/
def Proj.surfSlot (p : Proj) (k : Nat) : Option Nat := Sys2Proof.Machine.surfSlot p.st k

def Proj.surfs (p : Proj) : List Nat := (List.range 32).filter fun k => (p.surf k).on

/-- Renditions and surfaces (R178, R179, R191, R194), and the pools of enabled surfaces (R203). -/
def Proj.images (p : Proj) : List Reject :=
  ((List.range 32).flatMap fun r => rendRange (fun o => p.reg (rendReg r o)) (rendReg r 0))
    ++ (List.range 32).flatMap fun k => surfRange (p.surf k) (surfReg k 0) (p.surf k).on

/-- TRB limits (R216). -/
def Proj.trb (p : Proj) : List Reject :=
  (List.finRange 8).flatMap fun (n : Fin 8) =>
    let base := field (trbRatio p.st.regs n) 15 0
    let rmax := field (trbRatio p.st.regs n) 31 16
    let w := slotWidth p.st.regs n
    let h := slotLines p.st.regs n
    let px := p.fld (rfeReg n 4) 2 0 + 1
    let py := p.fld (rfeReg n 4) 6 4 + 1
    let cs := slotCourses p.st n
    let bits := slotBits p.st.regs n + if p.has (rfeReg n 0) 4 then 4 else 0
    let cap := trbCap (trbTarget (trbNominal w h bits) rmax) (field (trbCtl p.st.regs n) 15 8)
    let tight := fun (k : Nat) =>
      let a := seamAt w cs.length k
      let b := seamAt w cs.length (k + 1)
      let blocks := ((List.range py).map fun j => ((List.range px).map fun i =>
        ceilDiv (planeCols px a b i).length 32 * ceilDiv (planeRows py h j) 8).sum).sum
      decide (26 * blocks > 8 * secBudget cap h w (b - a) cs.length)
    rej (decide (base ≠ 0) && decide (rmax < base)) (rejAt 0x01 (0xE0004 + 0x40 * n.val) (1, n))
      ++ (if unmasked p.st n.val ∧ trbOn p.st.regs n then
            cs.zipIdx.flatMap fun (c, k) => rej (tight k) (rejNo 0x01 (2, c))
          else [])

/-- The pre-record span at BASE, and LOW below HIGH (R222). -/
def Proj.gal (p : Proj) : List Reject :=
  let ms := p.fld 0xD0004 15 0
  let low := p.fld 0xD0008 7 0
  let need := (((List.finRange 8).filter fun n => trbOn p.st.regs n).map fun n =>
    let per := nominalPeriod p.st p.st.regs n
    let frames := if per ≤ 0 then 0 else ((ms : ℚ) * 1000000 / per).ceil.toNat
    frames * trbCap (slotTarget p.st n (field (trbRatio p.st.regs n) 15 0)) (field (trbCtl p.st.regs n) 15 8)).sum
  rej (decide (low ≥ p.fld 0xD0008 23 16)) (rejAt 0x01 0xD0008 (0, 0))
    ++ rej (decide (need * 256 > galBytes p.st * low)) (rejNo 0x01 (0, 0))

def Proj.enc (p : Proj) (e k : Nat) : EncCfg := encCfgNow p.st e k

/-- The encoder streams in use. -/
def Proj.streams (p : Proj) : List (Nat × Nat) :=
  (List.range 4).flatMap fun e => ((List.range 16).filter fun k => (p.enc e k).on).map fun k => (e, k)

/-- FIELD_RANGE of a stream (R262). -/
def Proj.encRange (p : Proj) : List Reject :=
  p.streams.flatMap fun (e, k) =>
    let c := p.enc e k
    let at_ := fun (o : Nat) => rejAt 0x01 (encReg e k o) (3, e)
    let su := p.surf c.surf
    rej (decide (c.qpMin > c.qpMax) || decide (c.qpInit < c.qpMin) || decide (c.qpInit > c.qpMax)) (at_ 0x1C)
      ++ rej (decide (c.gop = 3) && (decide (c.nref ≠ 2) || decide (c.period % 4 ≠ 0))) (rejNo 0x01 (3, e))
      ++ rej (decide (c.rc ≠ 0) && (decide (c.rate = 0) || decide (c.maxBr = 0) || decide (c.cpb = 0) || decide (c.rate > c.maxBr)))
          (rejNo 0x01 (3, e))
      ++ rej (!c.hostJob && !su.on) (at_ 4)
      ++ rej (!c.hostJob && su.on && (decide (c.w ≠ su.outW) || decide (c.h ≠ su.outH))) (at_ 8)

/-- A plane of a head, enabled. -/
def Proj.planes (p : Proj) : List (Nat × Nat) :=
  (List.range 6).flatMap fun h => if p.has (headReg h 0) 31 then
    ((List.range 4).filter fun q => p.has (planeReg h q 0) 31).map fun q => (h, q) else []

/-- Plane formats (R295, Table DSP-4): allowed on a plane. -/
def planeFormatOk (q fmt : Nat) : Bool :=
  decide (fmt = 1) || decide (fmt = 2) || (decide (fmt = 3) && decide (q = 0))
    || ((decide (fmt = 0x30) || decide (fmt = 0x31) || decide (fmt = 0x32)) && decide (q ≠ 0))

/-- FIELD_RANGE of planes (R295, Table DSP-3). -/
def Proj.planeRange (p : Proj) : List Reject :=
  p.planes.flatMap fun (h, q) =>
    let cfg := p.reg (planeReg h q 0)
    let fmt := field cfg 23 16
    let handle := bit cfg 30
    let size := p.reg (planeReg h q 8)
    let pos := p.reg (planeReg h q 4)
    rej (!planeFormatOk q fmt || (!handle && decide ((p.surf (field cfg 28 24)).format ≠ fmt))) (rejAt 0x01 (planeReg h q 0) (4, h))
      ++ rej (decide (field pos 15 0 ≥ p.fld (headReg h 4) 31 16) || decide (field pos 31 16 ≥ p.fld (headReg h 0xC) 31 16))
          (rejAt 0x01 (planeReg h q 4) (4, h))
      ++ rej (handle && (outside size 15 0 1 8192 || outside size 31 16 1 8192)) (rejAt 0x01 (planeReg h q 8) (4, h))

def Proj.snd (p : Proj) (i : Nat) : Sender :=
  { cfg := sndSlice p.st i, seq := 0, frame := none, next := 0, group := none, got := [], silent := false }

/-- A head of the merged configuration. -/
def Proj.head (p : Proj) (h : Nat) : Option Head :=
  (p.st.dsp.heads.toList[h]?).map fun x => { x with cfg := rmSlice p.st.regs (headReg h 0) (headReg h 0x28) }

/-- The senders in use. -/
def Proj.sndsOn (p : Proj) : List Nat := (List.range 48).filter fun i => p.has (sndReg i 0) 31

/-- A video sender's timing (R310). -/
def Proj.videoBad (p : Proj) (i h : Nat) : Bool := match p.head h with
  | none => true
  | some x =>
    let t := frameNs (x.word h)
    let vt := x.vTot h
    let tro := troNs (p.snd i) i x h
    let set := (p.reg (sndReg i 0x34)).toNat
    !bit (x.word h 0) 31 || decide (vt = 0)
      || (decide (set ≠ 0) && decide ((set : ℚ) * (vt : ℚ) < ((x.topLines h + 1 : Nat) : ℚ) * t))
      || decide (tro * (vt : ℚ) + t * (x.height h : ℚ) > t * (vt : ℚ))

/-- An audio port is configured for a sender's rate: a nominal rate of 48 or 96 kHz. -/
def Proj.audRateOk (p : Proj) (a rate : Nat) : Bool :=
  p.has (0x160000 + 0x100 * a) 31 && decide (p.fld (0x160004 + 0x100 * a) 17 0 = rate)

/-- An audio sender's fields (R311). -/
def Proj.audioBad (p : Proj) (i : Nat) : Bool :=
  let ctl := p.reg (sndReg i 0)
  let ch := sndChannels (p.fld (sndReg i 4) 15 0)
  let rate := if bit ctl 20 then 96000 else 48000
  decide (ch = []) || decide (groupSamples ctl * ch.length * (if bit ctl 24 then 3 else 2) > 1440)
    || outside (p.reg (sndReg i 0x34)) 31 0 250 10000 || !ch.all fun c => p.audRateOk c.1 rate

/-- FIELD_RANGE of senders (Table NET-3, R5, R310, R311, R313): what is asked of enabled ones is asked of those only. -/
def Proj.sndRange (p : Proj) : List Reject :=
  (List.range 48).flatMap fun i =>
    let ctl := p.reg (sndReg i 0)
    let port := field ctl 28 28
    let mine := p.reg (portReg port 0)
    let other := p.reg (portReg (1 - port) 0)
    let u := (5, port)
    let on := bit ctl 31
    rej (decide (field ctl 27 26 ≠ 0) && !bit mine 30) (rejAt 0x01 (sndReg i 0) u)
      ++ rej (on && decide (field ctl 30 29 = 0) && (outside ctl 10 0 180 1420 || decide (field ctl 10 0 % 20 ≠ 0))) (rejAt 0x01 (sndReg i 0) u)
      ++ rej (decide (field ctl 30 29 ≠ 1) && decide (p.fld (sndReg i 4) 26 24 > 5)) (rejAt 0x01 (sndReg i 4) u)
      ++ rej (on && decide (field ctl 30 29 = 0) && p.videoBad i (p.fld (sndReg i 4) 26 24)) (rejNo 0x01 u)
      ++ rej (on && decide (field ctl 30 29 = 1) && p.audioBad i) (rejNo 0x01 u)
      ++ rej (bit ctl 25 && (!bit other 31 || decide (bit other 30 ≠ bit mine 30))) (rejAt 0x01 (sndReg i 0) u)

/-- FIELD_RANGE of audio ports (R327). -/
def Proj.audRange (p : Proj) : List Reject :=
  (List.range 8).flatMap fun a =>
    let r := fun (o : Nat) => 0x160000 + 0x100 * a + o
    let cfg := p.reg (r 0)
    let rate := p.fld (r 4) 17 0
    let slot := field cfg 27 26
    if ¬ bit cfg 31 then []
    else
      rej (decide (slot = 3) || decide (16 + 8 * slot < (if bit cfg 25 then 24 else 16))) (rejAt 0x01 (r 0) (0, 0))
        ++ rej (!([32000, 44100, 48000, 88200, 96000, 176400, 192000].contains rate)) (rejAt 0x01 (r 4) (0, 0))
        ++ rej (decide (p.fld (r 0xC) 15 0 * 4 ≥ 20) && decide (rate > 96000)) (rejAt 0x01 (r 0xC) (0, 0))

/-- APPLY of FORME_LOCK names KIND 3 (R75). -/
def Proj.applyKind (p : Proj) : Nat := field p.f.apply 31 30
def Proj.applySlot (p : Proj) : Nat := field p.f.apply 2 0

/-- FIELD_RANGE on the merged configuration. The CFA descriptions (R139), whose reset values hold no class, are those of unmasked slots.
(DEDUCED, log 13) -/
def Proj.ranges (p : Proj) : List Reject :=
  rej (decide (p.applyKind = 3)) (rejNo 0x01 (0, 0)) ++ p.lanes ++ p.contents
    ++ (p.live.flatMap fun (n : Fin 8) => (p.blk n).cfaRange)
    ++ ((List.finRange 8).flatMap fun (n : Fin 8) => (p.blk n).rfeRange ++ (p.blk n).clrRange)
    ++ p.images ++ p.trb ++ p.gal ++ p.encRange ++ p.planeRange ++ p.sndRange ++ p.audRange

/-! ### FRET_TABLE (R55) -/

/-- The argument of a fret names a unit that the configuration does not have, or a pulse has no width (R55, R494). -/
def Proj.fretArgBad (p : Proj) (n : Fin 8) (action arg : Nat) : Bool :=
  if action = 3 ∨ action = 4 then !p.has (0x80408 + 0x1000 * n.val + 0x20 * (arg % 16)) 0
  else if action = 7 then !(p.enc (arg % 4) (arg / 4 % 16)).on
  else if action = 0x0A then decide (arg / 256 % 256 = 0)
  else false

/-- Entries of a slot's table that hold an action. -/
def Proj.fretsOf (p : Proj) (n : Fin 8) (action : Nat) : Nat :=
  ((List.range 256).filter fun k => p.has (fretLoReg n k) 31 && decide (p.fld (fretLoReg n k) 28 24 = action)).length

/-- (DEDUCED, log 13) -/
def Proj.frets (p : Proj) : List Reject :=
  (List.finRange 8).flatMap fun (n : Fin 8) =>
    let src := cadSource p.st.regs n
    ((List.range 256).flatMap fun k =>
      let lo := p.reg (fretLoReg n k)
      let kind := field lo 30 29
      if ¬ bit lo 31 then []
      else
        rej ((decide (kind = 2) && !(decide (src = 3) || decide (src = 4))) || (decide (kind = 1) && decide (field lo 15 0 > 16383)))
            (rejAt 0x02 (fretLoReg n k) (1, n))
          ++ rej (p.fretArgBad n (field lo 28 24) (p.reg (fretHiReg n k)).toNat) (rejAt 0x02 (fretHiReg n k) (1, n)))
      ++ rej (decide (p.fretsOf n 1 > 1) || decide (p.fretsOf n 9 > 1)) (rejNo 0x02 (1, n))

/-! ### COURSE_GROUPING, TIMING_MASTER, FRAME_GEOMETRY -/

/-- R18, and an unmasked recorded slot that no course serves (R216). -/
def Proj.courses (p : Proj) : List Reject :=
  (List.finRange 8).flatMap fun (n : Fin 8) =>
    let cs := slotCourses p.st n
    let kinds := cs.map fun c => courseKind p.st c
    let ok := decide (cs = []) || (decide (kinds = [1]))
      || (kinds.all (· == 2) && (decide (cs = [0, 1]) || decide (cs = [2, 3]) || decide (cs = [0, 1, 2, 3])))
    rej (!ok || (unmasked p.st n.val && trbOn p.st.regs n && decide (cs = []))) (rejAt 0x04 courseReg (1, n))

/-- R75 and R84. (DEDUCED, log 13) -/
def Proj.timing (p : Proj) : List Reject :=
  let any := decide (p.live ≠ [])
  let was := decide (regField p.ahead slotMaskReg 7 0 ≠ 0)
  let kind := p.applyKind
  rej (any && !unmasked p.st (timingMaster p.st)) (rejAt 0x05 timingMasterReg (1, timingMaster p.st))
    ++ rej ((decide (kind = 2) && was) || (decide (kind < 2) && (!was || decide (p.applySlot ≠ timingMaster p.ahead))))
        (rejNo 0x05 (1, p.applySlot))

/-- Word `i` of a slot's capability record. -/
def Proj.cap (p : Proj) (n i hi lo : Nat) : Nat := regField p.now (capReg n i) hi lo

/-- A capability record is in force for a slot: ING.SLOTn_CAP_STATE names one accepted. -/
def recordInForce (s : State) (n : Nat) : Bool := decide (regField s (0x601C0 + 0x200 * n) 31 30 ≥ 2)

/-- R123. (DEDUCED, log 13) -/
def Proj.geometry (p : Proj) : List Reject :=
  p.live.flatMap fun (n : Fin 8) =>
    let w := slotWidth p.st.regs n
    let h := slotLines p.st.regs n
    let g := 0x60000 + 0x200 * n.val
    let u := (1, n.val)
    let fmt := p.reg (g + 4)
    let cs := (slotCourses p.st n).length
    (if recordInForce p.now n then
        rej (decide (w > p.cap n 4 15 0) || decide (h > p.cap n 4 31 16)) (rejAt 0x06 g u)
          ++ rej (!(p.cap n 3 7 0).testBit (field fmt 1 0) || (bit fmt 2 && !(p.cap n 0 23 16).testBit 1)) (rejAt 0x06 (g + 4) u)
          ++ rej (decide ((p.reg (slotReg n 0x10)).toNat < (regGet p.now (capReg n 6)).toNat)) (rejAt 0x06 (slotReg n 0x10) u)
      else [])
      ++ rej (decide (p.fld (g + 8) 23 0 < h)) (rejAt 0x06 (g + 8) u)
      ++ rej ((List.range cs).any fun k => decide (stripePixels w cs k > 16448)) (rejAt 0x06 g u)

/-- Maps, windows and meshes of every slot against its geometry (R148, R157, R168). -/
def Proj.objects (p : Proj) : List Reject :=
  p.objGeometry ++ (List.finRange 8).flatMap fun (n : Fin 8) => (p.blk n).rfeGeom ++ (p.blk n).clrGeom

/-- The slot of a surface's rendition (R177, R188). -/
def Proj.rendOf (p : Proj) (k : Nat) : Nat := p.fld (rendReg (p.surf k).rend 0) 26 24

/-- Crop windows of enabled surfaces (R191). (DEDUCED, log 13) -/
def Proj.crops (p : Proj) : List Reject :=
  p.surfs.flatMap fun k =>
    surfGeom (p.surf k) (surfReg k 0) (slotWidth p.st.regs (p.rendOf k)) (slotLines p.st.regs (p.rendOf k))

/-- The first failing check of the hardware stage (R72, R73). (DEDUCED, log 13) -/
def Proj.hardware (p : Proj) : Option Reject :=
  p.writes <|> firstOf p.ranges <|> firstOf p.frets <|> firstOf p.courses <|> firstOf p.timing <|> firstOf (p.geometry ++ p.objects ++ p.crops)

end Sys2Proof.Machine
end

