-- ==== Sys2Proof/Machine/CheckRes.lean ====
section
/-! DEFINITION. The resource checks that Fjarera makes at lock-up (R72 stage 2, Table FRM-8 codes 0x10 to 0x20). The readings taken are
those of notes/assumptions/13.md. -/

namespace Sys2Proof.Machine
open Sys2Proof

/-! ### Cadence and sensors -/

/-- The nominal frame period of a slot; for a ramp the shorter of its start and target periods (R39, R260). -/
def Proj.period (p : Proj) (n : Nat) : ℚ := nominalPeriod p.st p.st.regs n

/-- (DEDUCED, log 13) -/
def Proj.ramps (p : Proj) (n : Nat) : Bool := decide (cadSource p.st.regs n ≤ 1) && decide (rampStep p.st.regs n ≠ 0)

def Proj.shortest (p : Proj) (n : Nat) : ℚ :=
  if p.ramps n then min (p.period n) ((rampNum p.st.regs n : ℚ) / (perDen p.st.regs n : ℚ)) else p.period n

/-- Frames per second of a period in ns. -/
def perSecond (t : ℚ) : ℚ := if t ≤ 0 then 0 else 1000000000 / t

/-- R39, first and second condition. (DEDUCED, log 13) -/
def Proj.periods (p : Proj) : List Reject :=
  (List.range 8).flatMap fun n =>
    let least : ℚ := (minPeriod p.now n : ℚ)
    rej (decide (p.period n < least)) (rejNo 0x10 (1, n))
      ++ rej (p.ramps n && decide ((rampNum p.st.regs n : ℚ) / (perDen p.st.regs n : ℚ) < least)) (rejAt 0x10 (slotReg n 0x18) (1, n))

/-- R39, third condition, for slots with a capability record. (DEDUCED, log 13) -/
def Proj.exposures (p : Proj) : List Reject :=
  (List.range 8).flatMap fun n =>
    let margin : ℚ := ((regGet p.now (capReg n 8)).toNat : ℚ)
    let reg := if angleOf p.st.regs n ≠ 0 then slotReg n 0x14 else expReg n 0
    if recordInForce p.now n then
      rej (decide ((exposureNs p.st.regs n (p.period n) : ℚ) > p.period n - margin)) (rejAt 0x11 reg (1, n))
        ++ rej (decide (p.fld (expReg n 4) 15 0 > p.cap n 10 15 0)) (rejAt 0x11 (expReg n 4) (1, n))
    else []

/-- R39, fourth condition. -/
def Proj.inputsOff (p : Proj) : List Reject :=
  (List.range 8).flatMap fun n => match inputOf (cadSource p.st.regs n) with
    | some i => rej (!p.has (filtReg i.val) 31) (rejAt 0x12 (slotReg n 0) (1, n))
    | none => []

/-- SENSOR_LATENCY. -/
def Proj.sensors (p : Proj) : List Reject :=
  p.live.flatMap fun (n : Fin 8) => rej (!(p.now.ing.caps[n]).broughtUp || decide (latency p.now n > 3)) (rejNo 0x13 (1, n))

/-! ### Links and courses -/

/-- Bytes a slot's line packet takes on its link: payload, header and CRC in whole blocks, and two control blocks (R90). -/
def lineBytes (m : SMap Word) (n : Nat) : Nat :=
  let dual := if bit (rmGet m (0x60004 + 0x200 * n)) 2 then 2 else 1
  8 * (ceilDiv (16 + ceilDiv (slotWidth m n * dual * slotBits m n) 8 + 4) 8 + 2)

/-- Bits per second that a slot demands of its link. -/
def Proj.demand (p : Proj) (n : Nat) : ℚ :=
  8 * (lineBytes p.st.regs n : ℚ) * (slotLines p.st.regs n : ℚ) * perSecond (p.shortest n)

/-- A link's payload capacity in bit/s (R90). -/
def Proj.linkRate (p : Proj) (k : Nat) : ℚ :=
  (popCount (p.reg (lkReg k 4)) : ℚ) * (p.fld (lkReg k 0) 14 0 : ℚ) * 1000000 * (64 / 66) * (16383 / 16384) * (1023 / 1024)

def Proj.linksOn (p : Proj) : List Nat := (List.range 4).filter fun k => p.has (lkReg k 0) 31

/-- LINK_CAPACITY (R88, R90, and a slot that no enabled link carries): lanes, slots and demand of every link, enabled or not. -/
def Proj.links (p : Proj) : List Reject :=
  let twice := fun (o i : Nat) => decide (((List.range 4).filter fun k => p.has (lkReg k o) i).length > 1)
  rej ((List.range 32).any fun j => twice 4 j) (rejNo 0x14 (0, 0))
    ++ ((List.range 8).flatMap fun n => rej (twice 8 n) (rejNo 0x14 (1, n)))
    ++ ((List.range 4).flatMap fun k =>
        let mine := (List.range 8).filter fun n => p.has (lkReg k 8) n
        rej (decide ((mine.map p.demand).sum > p.linkRate k)) (rejNo 0x14 (0, 0)))
    ++ p.live.flatMap fun (n : Fin 8) => rej (!p.linksOn.any fun k => p.has (lkReg k 8) n.val) (rejNo 0x14 (1, n.val))

/-- COURSE_RATE (R131, R456). -/
def Proj.rates (p : Proj) : List Reject :=
  (List.finRange 8).flatMap fun (n : Fin 8) =>
    let cs := slotCourses p.st n.val
    cs.zipIdx.flatMap fun (c, k) =>
      let load : ℚ := (stripePixels (slotWidth p.st.regs n) cs.length k : ℚ) * (slotLines p.st.regs n : ℚ) * perSecond (p.shortest n)
      rej (decide (load * 16 > 5000000000 * (p.fld (0x1B0010 + 4 * c) 4 0 : ℚ))) (rejNo 0x15 (2, c))

/-! ### Renditions, surfaces and LUT slots -/

/-- The slot that a register map's rendition serves. -/
def rendSlot (m : SMap Word) (r : Nat) : Option Nat :=
  let w := rmGet m (rendReg r 0)
  if bit w 31 then some (field w 26 24) else none

/-- Every register map that renditions are counted in: the merged one and those of the held banks (R177). -/
def Proj.rendMaps (p : Proj) : List (SMap Word) := p.st.regs :: (List.finRange 8).flatMap fun n => (heldBanks p.now n).map (·.regs)

/-- A course carries an unmasked slot. -/
def Proj.carries (p : Proj) (c : Nat) (n : Nat) : Bool := unmasked p.st n && servesSlot p.st c n

/-- SURFACE_COUNT (R21, R177). -/
def Proj.counts (p : Proj) : List Reject :=
  (List.range 4).flatMap fun c =>
    let surfs := p.surfs.filter fun k => (p.surfSlot k).any (p.carries c)
    let rends := (List.range 32).filter fun r => p.rendMaps.any fun m => (rendSlot m r).any (p.carries c)
    rej (decide (surfs.length > 16) || decide (rends.length > 16)) (rejNo 0x16 (2, c))

/-- The LUT slots that a rendition's registers name, as unit kind (6 3D, 7 shaper) and number (Tables CLR-6, R178). -/
def rendLuts (rd : Nat → Word) : List (Nat × Nat) :=
  let ctl := rd 0
  let shapers : Bool → Word → List (Nat × Nat) := fun on w => if on then (List.range 3).map fun k => (7, field w (8 * k + 5) (8 * k)) else []
  (if bit ctl 18 then [(6, field ctl 15 12)] else []) ++ shapers (bit ctl 19) (rd 4) ++ shapers (bit ctl 17) (rd 8)

/-- The LUT slot that an object targets. -/
def lutTarget (o : BulkObj) : Option (Nat × Nat) :=
  if o.kind = 0x12 then some (6, (byteAt o.bytes 2).toNat) else if o.kind = 0x13 then some (7, (byteAt o.bytes 2).toNat) else none

/-- Words of a buffer's register image from an offset (Table HQ-10). -/
def imageWord (l : List Byte) (off : Nat) : Word := BitVec.ofNat 32 (leAt l off 4)

/-- Bytes of a rendition set. -/
def setBytes : Nat := 5888

/-- LUT slots that an admitted host job's renditions name (R365). -/
def jobLuts (s : State) (j : Job) : List (Nat × Nat) :=
  if ¬ j.admitted then []
  else
    let set_ := bufferBytes s (leAt j.desc 0xA 2) 0 setBytes
    (List.range (byteAt j.desc 5).toNat).flatMap fun k =>
      rendLuts fun o => imageWord set_ (0x300 + 0x100 * (field (imageWord set_ (0x1300 + 0x40 * k)) 28 24 % 16) + o)

/-- LUT slots that are busy (R81, R365): referenced by a held tag bank's rendition, loaded by a Locked forme, or named by an
admitted job. -/
def busyLuts (s : State) : List (Nat × Nat) :=
  ((List.finRange 8).flatMap fun n => (heldBanks s n).flatMap fun b => (List.range 32).flatMap fun r =>
      if bit (rmGet b.regs (rendReg r 0)) 31 then rendLuts fun o => rmGet b.regs (rendReg r o) else [])
    ++ ((lockedFormes s).flatMap fun f => f.objs.filterMap lutTarget)
    ++ s.hq.queues.flatMap fun q => q.2.cmds.flatMap fun c => c.2.job.elim [] (jobLuts s)

/-- LUT_SLOT_BUSY and LUT_SLOT_KIND. -/
def Proj.lutBusy (p : Proj) : List Reject :=
  (p.f.objs.filterMap lutTarget).flatMap fun t => rej ((busyLuts p.now).contains t) (rejNo 0x17 t)

def Proj.lutKinds (p : Proj) : List Reject :=
  p.f.objs.flatMap fun o => match lutTarget o with
    | some t => rej (lutKindBad o.kind o.bytes) (rejNo 0x18 t)
    | none => []

/-! ### Memory -/

/-- Bytes of a surface's picture. -/
def picBytes (f : Surf) : Nat := (((planeDims f.format f.outW f.outH).getD []).map fun d => d.1 * d.2).sum

/-- Frames per second that a surface, or a stream's source surface, takes. -/
def Proj.surfRate (p : Proj) (k : Nat) : ℚ := match p.surfSlot k with
  | some n => if unmasked p.st n then perSecond (p.shortest n) else 0
  | none => 0

/-- The nominal frame rate of a surface's slot, whether or not the slot is unmasked (R260, R262). -/
def Proj.loadRate (p : Proj) (k : Nat) : ℚ := perSecond (p.shortest (p.rendOf k))

/-- NBANDS of a slot, and the bytes of its noise history (R174); 0 with temporal noise reduction off. -/
def Proj.histBytes (p : Proj) (n : Fin 8) : Nat :=
  if p.has (clrReg n 0) 12 then slotWidth p.st.regs n * slotLines p.st.regs n * (p.fld (clrReg n 0) 18 16 + 1) * 2 else 0

/-- GDDR6 demand in bytes per second (R30, Table SYS-12). The buffers of host jobs and of streams without rate control have no declared
rate: their demand is the implementation's (log 13). -/
def Proj.traffic (p : Proj) : ℚ :=
  let gal := p.live.map fun (n : Fin 8) =>
    if trbOn p.st.regs n then 2 * (slotTarget p.st n (field (trbRatio p.st.regs n) 15 0) : ℚ) * perSecond (p.shortest n) else 0
  let writes := p.surfs.map fun k => (picBytes (p.surf k) : ℚ) * p.surfRate k
  let scans := p.planes.map fun (h, q) =>
    let cfg := p.reg (planeReg h q 0)
    let size := p.reg (planeReg h q 8)
    let su := p.surf (field cfg 28 24)
    let px := if bit cfg 30 then field size 31 16 * field size 15 0 else su.outW * su.outH
    match p.head h with
    | some x => ((px * planeBytes (field cfg 23 16) : Nat) : ℚ) * perSecond (frameNs (x.word h))
    | none => 0
  let encs := p.streams.map fun (e, k) =>
    let c := p.enc e k
    let refs := if c.gop = 0 then 0 else 1 + c.nref
    let pics := if c.hostJob then 0 else ((1 + refs : Nat) : ℚ) * (picBytes (p.surf c.surf) : ℚ) * p.surfRate c.surf / (c.frameDiv : ℚ)
    pics + if c.rc = 0 then (Config.cqpTraffic (e + 4 * k) : ℚ) else 2 * (c.rate : ℚ) * 125
  let hist := p.live.map fun (n : Fin 8) => 2 * (p.histBytes n : ℚ) * perSecond (p.shortest n)
  let onHost := (hostCourses p.st).length
  let jobs : ℚ := if onHost = 0 then 0 else (Config.jobTraffic onHost : ℚ)
  gal.sum + writes.sum + scans.sum + encs.sum + hist.sum + jobs

/-- The schedulable figure: 75 % of 48 bytes times the pin rate (R30, Table MEM-1). -/
def schedulable (s : State) : ℚ := 36 * 1000000000 * (12 + 2 * (regField s 0x170000 29 27 : ℚ))

/-- (DEDUCED, log 13) -/
def Proj.bandwidth (p : Proj) : List Reject := rej (decide (p.traffic > schedulable p.now)) (rejNo 0x19 (0, 0))

/-- One reference buffer of a stream (R276), and the buffers its GOP holds (Table HEV-6). -/
def refBytes (w h q : Nat) (c422 : Bool) : Nat :=
  let hc := if c422 then h else h / 2
  pageUp (ceilDiv w 64 * ceilDiv h 4 * (q + 1) + ceilDiv w 64 * ceilDiv hc 4 * (q + 1) + ceilDiv w 16 * ceilDiv h 16 * 16)

def gopBuffers (c : EncCfg) : Nat := if c.gop = 0 then 0 else if c.gop = 3 then 4 else c.nref + 1

/-- Bytes that a configuration's streams hold in the encoder partition. -/
def encBytes (s : State) : Nat :=
  ((List.range 4).flatMap fun e => (List.range 16).map fun k =>
    let c := encCfgNow s e k
    let f := encFormat s e k c
    let ten := decide (f = 0x11) || decide (f = 0x13)
    if c.on then gopBuffers c * refBytes c.w c.h (if ten then 320 else 256) (decide (f = 0x12) || decide (f = 0x13)) + c.ringMib * mebi
    else 0).sum

/-- Bytes that noise histories take. -/
def Proj.histories (p : Proj) : Nat := ((List.finRange 8).map fun n => p.histBytes n).sum

/-- The same forme read against the configuration in force, for what is in use. -/
def Proj.inForce (p : Proj) : Proj := { p with st := p.now }

/-- MEM_CAPACITY (R450). (DEDUCED, log 13) -/
def Proj.capacity (p : Proj) : List Reject :=
  let gal := p.fld 0xD0000 7 0 * 256 * mebi
  let enc := p.fld 0x170044 15 0 * mebi
  let nr := p.fld 0x170048 15 0 * mebi
  let taken := fixedBytes + gal + enc + nr
  rej (decide (taken > usableBytes p.now) || decide (encBytes p.st > enc) || decide (p.histories > nr)
      || decide ((galFill p.now + hostFill p.now) * 4096 > gal) || decide (encBytes p.now > enc)
      || decide (p.inForce.histories > nr) || decide (taken + handleBytes p.now > usableBytes p.now)) (rejNo 0x1A (0, 0))

/-! ### Encoders -/

/-- The load of a core's enabled surface-source streams in luma pixels per second (R260). -/
def Proj.coreLoad (p : Proj) (e : Nat) : ℚ :=
  let l := (p.streams.filter fun x => decide (x.1 = e)).map fun x =>
    let c := p.enc x.1 x.2
    if c.hostJob then (0 : ℚ) else ((c.w * c.h : Nat) : ℚ) * p.loadRate c.surf / (c.frameDiv : ℚ)
  l.sum

/-- ENCODER_LOAD (R260). -/
def Proj.encLoad (p : Proj) : List Reject :=
  (List.range 4).flatMap fun e => rej (decide (p.coreLoad e > 2000000000)) (rejNo 0x1B (3, e))

/-- ITU-T H.265 Annex A by general_level_idc: MaxLumaPs, MaxLumaSr, MaxBR and MaxCPB of the Main and of the High tier in units of
CpbBrVclFactor bits, 0 where the level has no High tier (PRESUMED, notes/assumptions/13.md). (DEDUCED, log 13) -/
def levelLimits : Nat → Nat × Nat × Nat × Nat × Nat × Nat
  | 30 => (36864, 552960, 128, 350, 0, 0)
  | 60 => (122880, 3686400, 1500, 1500, 0, 0)
  | 63 => (245760, 7372800, 3000, 3000, 0, 0)
  | 90 => (552960, 16588800, 6000, 6000, 0, 0)
  | 93 => (983040, 33177600, 10000, 10000, 0, 0)
  | 120 => (2228224, 66846720, 12000, 12000, 30000, 30000)
  | 123 => (2228224, 133693440, 20000, 20000, 50000, 50000)
  | 150 => (8912896, 267386880, 25000, 25000, 100000, 100000)
  | 153 => (8912896, 534773760, 40000, 40000, 160000, 160000)
  | 156 => (8912896, 1069547520, 60000, 60000, 240000, 240000)
  | 180 => (35651584, 1069547520, 60000, 60000, 240000, 240000)
  | 183 => (35651584, 2139095040, 120000, 120000, 480000, 480000)
  | 186 => (35651584, 4278190080, 240000, 240000, 800000, 800000)
  | _ => (0, 0, 0, 0, 0, 0)

/-- Formats that a profile allows (Table HEV-4). (DEDUCED, log 13) -/
def profileTakes (profile fmt : Nat) : Bool :=
  decide (fmt = 0x10) || (decide (profile ≥ 1) && decide (fmt = 0x11))
    || (decide (profile = 2) && (decide (fmt = 0x12) || decide (fmt = 0x13)))

/-- A stream lies outside its profile or level (R262). -/
def Proj.levelBad (p : Proj) (e k : Nat) : Bool :=
  let c := p.enc e k
  let ctl := p.reg (encReg e k 0)
  let profile := field ctl 29 28
  let high := bit ctl 27
  let (ps, sr, br, cpb, hbr, hcpb) := levelLimits (field ctl 7 0)
  let w := 8 * ceilDiv c.w 8
  let h := 8 * ceilDiv c.h 8
  let factor : ℚ := if profile = 2 then 5 / 3 else 1
  let rate : ℚ := if c.hostJob then 0 else ((w * h : Nat) : ℚ) * p.loadRate c.surf / (c.frameDiv : ℚ)
  let maxBr : ℚ := factor * ((if high then hbr else br : Nat) : ℚ)
  let maxCpb : ℚ := factor * ((if high then hcpb else cpb : Nat) : ℚ)
  !profileTakes profile (encFormat p.st e k c) || (high && decide (hbr = 0)) || decide (w * h > ps) || decide (w * w > 8 * ps)
    || decide (h * h > 8 * ps) || decide (rate > (sr : ℚ))
    || decide ((c.maxBr : ℚ) > maxBr) || decide ((c.cpb : ℚ) > maxCpb)

/-- ENCODER_LEVEL. -/
def Proj.encLevel (p : Proj) : List Reject := p.streams.flatMap fun (e, k) => rej (p.levelBad e k) (rejNo 0x1C (3, e))

/-! ### Displays -/

/-- A head's timing fields (R288). -/
def headTimingBad (x : Head) (h : Nat) : List Reject :=
  let r := fun (o : Nat) => x.word h o
  let q4 := fun (o hi lo a b : Nat) => outside (r o) hi lo a b || decide (field (r o) hi lo % 4 ≠ 0)
  let at_ := fun (o : Nat) => rejAt 0x1D (headReg h o) (4, h)
  rej (q4 4 31 16 64 8192 || q4 4 15 0 4 4092) (at_ 4)
    ++ rej (q4 8 31 16 4 4092 || q4 8 15 0 4 4092) (at_ 8)
    ++ rej (outside (r 0xC) 31 16 64 4320 || outside (r 0xC) 15 0 1 255) (at_ 0xC)
    ++ rej (outside (r 0x10) 31 16 1 255 || outside (r 0x10) 15 0 1 1023) (at_ 0x10)
    ++ rej (decide (field (r 0x18) 15 0 = 0)) (at_ 0x18)
    ++ rej (decide ((r 0x14).toNat > 2400000 * field (r 0x18) 15 0)) (rejNo 0x1D (4, h))

/-- A head against its reference (R290). -/
def Proj.headRefBad (p : Proj) (x : Head) (h : Nat) : Bool :=
  let ctl := x.word h 0
  let want := frameNs (x.word h) * (field ctl 19 16 : ℚ) / (field ctl 15 12 : ℚ)
  let pull : ℚ := (field (x.word h 0x20) 7 0 : ℚ) / 1000000
  let off := fun (t : ℚ) => decide (want - t > want * pull) || decide (t - want > want * pull)
  match field ctl 30 28 with
  | 1 => off ((p.reg (expPeriodReg 0)).toNat : ℚ) || !p.has (filtReg 0) 31
  | 3 =>
    let n := field ctl 25 23
    off (p.period n) || decide (rampStep p.st.regs n ≠ 0)
  | _ => false

/-- The rasters of Table DSP-7: active size, totals, pixel rate in kHz, whether the 1/1.001 rates exist, and QUAD. -/
def sdiRasters : List (Nat × Nat × Nat × Nat × Nat × Bool × Bool) :=
  [(1920, 1080, 2640, 1125, 148500, false, false), (1920, 1080, 2200, 1125, 148500, true, false),
   (3840, 2160, 5500, 2250, 297000, true, false), (3840, 2160, 5280, 2250, 297000, false, false),
   (3840, 2160, 4400, 2250, 297000, true, false), (3840, 2160, 5280, 2250, 594000, false, false),
   (3840, 2160, 4400, 2250, 594000, true, false), (7680, 4320, 10560, 4500, 2376000, false, true),
   (7680, 4320, 8800, 4500, 2376000, true, true)]

/-- A head's raster is a row of Table DSP-7 for an output with or without QUAD. -/
def sdiOk (x : Head) (h : Nat) (quad : Bool) : Bool :=
  let num := (x.word h 0x14).toNat
  let den := field (x.word h 0x18) 15 0
  sdiRasters.any fun (w, v, ht, vt, rate, slow, q) =>
    decide (x.width h = w) && decide (x.height h = v) && decide (x.hTot h = ht) && decide (x.vTot h = vt) && (q == quad)
      && (decide (num = rate * den) || (slow && decide (num * 1001 = rate * 1000 * den)))

/-- Link rate of an eDP rate code, in kb/s. -/
def edpKbps (code : Nat) : Nat := if code = 0 then 2700000 else if code = 1 then 5400000 else 8100000

/-- Outputs against their heads (R298, R302). -/
def Proj.outputsBad (p : Proj) : List Reject :=
  let head := fun (h : Nat) => (p.head h).filter fun x => bit (x.word h 0) 31
  ((List.range 2).flatMap fun i =>
      let cfg := p.reg (edpReg i)
      let h := field cfg 30 28
      if ¬ bit cfg 31 then []
      else match head h with
        | none => rej true (rejAt 0x1D (edpReg i) (4, h))
        | some x =>
          let lanes := 2 ^ field cfg 27 26
          let bpc := 6 + 2 * field cfg 23 22
          rej (decide ((x.word h 0x14).toNat * 3 * bpc * 10 > lanes * edpKbps (field cfg 25 24) * 8 * field (x.word h 0x18) 15 0))
            (rejAt 0x1D (edpReg i) (4, h)))
    ++ (List.range 4).flatMap fun i =>
      let cfg := p.reg (sdiReg i)
      let quad0 := p.has (sdiReg 0) 31 && p.has (sdiReg 0) 27
      let h := field cfg 30 28
      if ¬ bit cfg 31 ∨ (i ≠ 0 ∧ quad0 = true) then []
      else match head h with
        | none => rej true (rejAt 0x1D (sdiReg i) (4, h))
        | some x => rej (!sdiOk x h (decide (i = 0) && bit cfg 27)) (rejAt 0x1D (sdiReg i) (4, h))

/-- DISPLAY_TIMING (R288, R290, R298). (DEDUCED, log 13) -/
def Proj.displays (p : Proj) : List Reject :=
  ((List.range 6).flatMap fun h => match p.head h with
    | some x => (if bit (x.word h 0) 31 then headTimingBad x h else []) ++ rej (p.headRefBad x h) (rejNo 0x1D (4, h))
    | none => []) ++ p.outputsBad

/-! ### Network -/

/-- Bytes of a packet on the wire: payload, RTP, UDP, IPv4, Ethernet with its VLAN tag, FCS, preamble and inter-packet gap. -/
def wireBytes (vlan : Bool) (payload : Nat) : Nat := payload + 12 + 8 + 20 + 14 + (if vlan then 4 else 0) + 4 + 8 + 12

/-- Bits per second of a sender on one path. -/
def Proj.sndRate (p : Proj) (i : Nat) : ℚ :=
  let ctl := p.reg (sndReg i 0)
  let vlan := p.has (sndReg i 0x30) 31
  let h := p.fld (sndReg i 4) 26 24
  let frame := (p.head h).elim 0 fun x => perSecond (frameNs (x.word h))
  match field ctl 30 29 with
  | 0 =>
    let w := (p.head h).elim 0 fun x => x.width h
    let v := (p.head h).elim 0 fun x => x.height h
    let n := linePackets ctl w
    let line := pgLine w * pgBytes (bit ctl 24) + n * (8 + wireBytes vlan 0)
    8 * ((line * v : Nat) : ℚ) * frame
  | 1 =>
    let body := groupSamples ctl * (sndChannels (p.fld (sndReg i 4) 15 0)).length * (if bit ctl 24 then 3 else 2)
    8 * (wireBytes vlan body : ℚ) * (if bit ctl 21 then 8000 else 1000)
  | _ => 8 * (wireBytes vlan (ancPayload 0 0 0).length : ℚ) * frame

/-- NET_CAPACITY: 90 % of an interface's line rate; paired senders count on both ports. -/
def Proj.network (p : Proj) : List Reject :=
  (List.range 2).flatMap fun port => (List.range 4).flatMap fun f =>
    let mine := p.sndsOn.filter fun i =>
      let ctl := p.reg (sndReg i 0)
      decide (field ctl 27 26 = f) && (decide (field ctl 28 28 = port) || bit ctl 25)
    let rate : ℚ := if p.has (portReg port 0) 30 then 25000000000 else 100000000000
    rej (decide ((mine.map p.sndRate).sum * 10 > rate * 9)) (rejNo 0x1E (5, port))

/-! ### Handles and banks -/

/-- HANDLE_INVALID (R203): the pools of all surfaces, enabled or not, and the planes that scan a handle. -/
def Proj.handles (p : Proj) : List Reject :=
  let named := fun (k : Nat) => (List.range 4).flatMap fun i =>
    [(surfReg k (0x18 + 4 * i), field (p.reg (surfReg k (0x18 + 4 * i))) 15 0),
     (surfReg k (0x18 + 4 * i), field (p.reg (surfReg k (0x18 + 4 * i))) 31 16)]
  ((List.range 32).flatMap fun k =>
      let others := (List.range 32).filter fun j => decide (j ≠ k)
      (named k).flatMap fun (off, h) =>
        rej (decide (h ≠ 0) && (!isAllocated p.now h
            || decide (((handleOf p.now h).map (·.size)).getD 0 < (p.surf k).size)
            || others.any fun j => (named j).any fun x => decide (x.2 = h))) (rejAt 0x1F off (0, 0)))
    ++ p.planes.flatMap fun (h, q) =>
      let hd := p.fld (planeReg h q 0xC) 15 0
      rej (p.has (planeReg h q 0) 30 && decide (hd ≠ 0) && !isAllocated p.now hd) (rejAt 0x1F (planeReg h q 0xC) (4, h))

/-- TAG_BANKS (R81). -/
def Proj.banks (p : Proj) : List Reject :=
  let s := releaseBanks p.now
  (List.finRange 8).flatMap fun (n : Fin 8) => rej (decide ((heldBanks s n).length ≥ 6)) (rejNo 0x20 (1, n.val))

/-- The first failing check of the resource stage (R72, R73). (DEDUCED, log 13) -/
def Proj.resources (p : Proj) : Option Reject :=
  firstOf p.periods <|> firstOf p.exposures <|> firstOf p.inputsOff <|> firstOf p.sensors <|> firstOf p.links <|> firstOf p.rates
    <|> firstOf p.counts <|> firstOf p.lutBusy <|> firstOf p.lutKinds <|> firstOf p.bandwidth <|> firstOf p.capacity
    <|> firstOf p.encLoad <|> firstOf p.encLevel <|> firstOf p.displays <|> firstOf p.network <|> firstOf p.handles <|> firstOf p.banks

end Sys2Proof.Machine
end

