-- ==== Sys2Proof/Machine/FormeOps.lean ====
section
/-! DEFINITION. The life of a forme (R67 to R70), its target frames and deadlines (R79), the tag banks it fills (R81), the commit checks
and the commit itself (R72 stage 3, R76). -/

namespace Sys2Proof.Machine
open Sys2Proof

def frmEvent (s : State) (i code : Nat) (sev : Severity) (ctx : Ctx) : State := event s .frm i code sev ctx 0

def formeOf (s : State) (i : Nat) : Option Forme := mGet s.frm.formes i
def modForme (s : State) (i : Nat) (f : Forme → Forme) : State := { s with frm := { s.frm with formes := mMod s.frm.formes i f } }
def modFrm (s : State) (f : FrmBlk → FrmBlk) : State := { s with frm := f s.frm }

/-- Formes Staged or Checking (R68). -/
def stagedCount (s : State) : Nat :=
  (s.frm.formes.filter fun p => decide (p.2.st = .staged) || decide (p.2.st = .checking)).length

/-- Bytes of the forme area in use: the bulk objects of formes Staged or Checking, and those that tag banks hold (R64, R65). A LUT is in its
slot once its forme is Locked. Each object takes whole 4 KiB pages. (DEDUCED, log 18) -/
def areaBytes (s : State) : Nat :=
  let own := (s.frm.formes.filter fun p => decide (p.2.st = .staged) || decide (p.2.st = .checking)).flatMap fun p => p.2.objs
  let kept := s.frm.banks.toList.flatMap fun l => l.flatMap fun b => b.objs
  ((own ++ kept.dedup).map fun o => pageUp o.bytes.length).sum

def formeArea : Nat := 512 * mebi

/-! ### Application points (R75) -/

/-- The slot that an application point names, and its KIND. -/
def Forme.slot (f : Forme) : Nat := field f.apply 2 0
def Forme.kind (f : Forme) : Nat := field f.apply 31 30
def Forme.strict (f : Forme) : Bool := bit f.apply 29

/-- The frame that a slot's next boundary precedes. A slot that is not running has its first boundary after its first frame. (DEDUCED, log 18) -/
def nextBoundary (c : Cad) : Nat := if c.boundary ∨ ¬ c.on then c.issued + 1 else c.issued

/-- The frame that an application point names, as a distance from frame 0: the ordinal is read nearest to the slot's present one (R5). -/
def pointOf (s : State) (f : Forme) : Int :=
  let nb := s.ref.slots.toList[f.slot]?.elim 0 nextBoundary
  if f.kind = 1 then (nb : Int) + sword (f.ordinal - BitVec.ofNat 32 nb) else (nb : Int)

/-! ### Scheduled frame starts (R79) -/

/-- The period of frame `j` as the schedule has it: the fixed one, or what the cadence fields give. -/
def schedPeriod (s : State) (n : Fin 8) (j : Nat) : ℚ := fixedPeriod (fixUpTo s n j) n j

/-- The periods of frames `j` to `j + k − 1`. -/
def schedSpan (s : State) (n : Fin 8) (j : Nat) : Nat → ℚ
  | 0 => 0
  | k + 1 => schedPeriod s n j + schedSpan s n (j + 1) k

/-- The first frame not yet issued of a running slot, with its scheduled start in ns of the device time base; for a slot that has not
started, the instant given. -/
def schedFirst (s : State) (n : Fin 8) (other : ℚ) : ℚ :=
  let c := s.ref.slots[n]
  if ¬ c.on then other
  else match c.lastIssue with
  | some t => if c.notBefore ≤ t then (t : ℚ) + schedPeriod s n (c.issued - 1) else other
  | none => other

/-- The first cadence instant of a slot that has been unmasked and has not started, in ns of the device time base (R84). -/
def firstStart (s : State) (n : Fin 8) : ℚ :=
  let c := s.ref.slots[n]
  match firstInstant s n with
  | some t => if cadSource (tagRegs s n (expectedTag s n c.issued)) n = 1 then t - axisNow s true + (s.now : ℚ) else t
  | none => (c.notBefore : ℚ)

/-- The scheduled start of a slot's frame `j`, in ns of the device time base. -/
def schedStart (s : State) (n : Fin 8) (j : Nat) (other : ℚ) : ℚ :=
  let c := s.ref.slots[n]
  if j < c.issued then (c.lastIssue.getD 0 : ℚ) else schedFirst s n other + schedSpan s n c.issued (j - c.issued)

/-- The first frame from `j`, which starts at `t`, that starts no earlier than `goal`. -/
def firstAfter (s : State) (n : Fin 8) (goal : ℚ) : Nat → Nat → ℚ → Nat
  | 0, j, _ => j
  | k + 1, j, t => if t ≥ goal then j else firstAfter s n goal k (j + 1) (t + schedPeriod s n j)

def slotOf (n : Nat) : Fin 8 := ⟨n % 8, Nat.mod_lt n (by decide)⟩

/-- The instant of the boundary of a slot that precedes frame `j`, by the schedule: its APPLY_FORME fret where that has a phase key, else no
later than the start of frame `j` (R58, R59). (DEDUCED, log 18) -/
def boundaryAt (s : State) (n : Fin 8) (j : Nat) : ℚ :=
  let start := schedStart s n j (s.now : ℚ)
  let key := (List.range 256).findSome? fun k =>
    let lo := regGet s (fretLoReg n k)
    if bit lo 31 ∧ field lo 30 29 = 0 ∧ field lo 28 24 = 1 then some (field lo 23 0) else none
  match key with
  | some k =>
    if j = 0 then start
    else min start (max (s.now : ℚ) (schedStart s n (j - 1) (s.now : ℚ) + (k : ℚ) / 256 * lineTimeOf (tagRegs s n (expectedTag s n (j - 1))) n))
  | none => start

/-- When a Locked forme that unmasks a slot applies, by the schedule of the slot it names; else the instant given. -/
def unmaskAt (s : State) (n : Nat) (own : ℚ) : ℚ :=
  match (lockedFormes s).find? fun f => f.writes.any fun t => decide (t.off = slotMaskReg) && bit (t.data &&& t.mask) n with
  | some f => boundaryAt s (slotOf f.slot) (f.due.getD 0)
  | none => own

/-- Target frame E of a forme on a slot, before any deadline (R79). A slot that has still to start takes its first frame start under R84 as
scheduled. On a slot that stays masked, for which R79 names no frame, it is the next one whose message is not sent. (DEDUCED, log 18) -/
def targetFrame (p : Proj) (due : Nat) (n : Fin 8) : Nat :=
  let s := p.now
  let c := s.ref.slots[n]
  if p.f.kind = 2 ∨ ¬ unmasked p.st n.val then nextMessage s n
  else if p.f.slot = n.val then due
  else
    let goal := schedStart s (slotOf p.f.slot) due (s.now : ℚ)
    let lead := unmaskAt s n.val (boundaryAt s (slotOf p.f.slot) due) + 200000
    let other := firstStart (if c.on then s else modCad s n fun c => { c with notBefore := lead.ceil.toNat }) n
    if (c.lastIssue.getD 0 : ℚ) ≥ goal ∧ c.on ∧ 0 < c.issued then c.issued - 1
    else
      let t := schedFirst s n other
      firstAfter s n goal ((goal - t).ceil.toNat + 1) c.issued t

/-- A forme writes a field that the slot's cadence follows: source, period, offset or ramp. -/
def writesCadence (f : Forme) (n : Nat) : Bool :=
  f.writes.any fun t => [0, 4, 8, 0xC, 0x18, 0x1C].any fun o => decide (t.off = slotReg n o)

/-- The first frame of a running slot whose deadline has not passed (R79). -/
def deadlineFrame (p : Proj) (n : Fin 8) : Nat :=
  let c := p.now.ref.slots[n]
  if ¬ c.on ∨ ¬ unmasked p.st n.val then 0
  else max (nextMessage p.now n) (if writesCadence p.f n.val then c.issued + latency p.now n.val + 1 else 0)

/-! ### Commit (R76, R77, R79, R81) -/

/-- Slots whose deadline has passed, with E as first chosen and the frame it moves to. -/
def lateSlots (p : Proj) (due : Nat) : List (Nat × Nat × Nat) :=
  (List.finRange 8).filterMap fun (n : Fin 8) =>
    let e := targetFrame p due n
    let d := deadlineFrame p n
    if e < d then some (n.val, e, d) else none

/-- The application point precedes that of a Locked forme; points on different slots are compared by their schedules. (DEDUCED, log 18) -/
def precedes (p : Proj) (point : Int) (g : Forme) : Bool := match g.due with
  | none => false
  | some d =>
    if g.slot = p.f.slot then decide (point < (d : Int))
    else decide (schedStart p.now (slotOf p.f.slot) point.toNat (p.now.now : ℚ) < schedStart p.now (slotOf g.slot) d (p.now.now : ℚ))

/-- The commit checks, in the order of Table FRM-8. -/
def Proj.commitCheck (p : Proj) : Option Reject :=
  let point := pointOf p.now p.f
  let timed := decide (p.f.kind < 2)
  let nb : Int := p.now.ref.slots.toList[p.f.slot]?.elim 0 fun c => (nextBoundary c : Int)
  let one := fun (b : Bool) (r : Reject) => if b then some r else none
  one (decide (p.now.frm.lockedList.length ≥ 4)) (rejNo 0x30 (0, 0))
    <|> one (timed && (lockedFormes p.now).any (precedes p point)) (rejNo 0x31 (0, 0))
    <|> one (decide (p.f.kind = 1) && decide (point < nb)) (rejNo 0x32 (0, 0))
    <|> (if p.f.strict then ((lateSlots p point.toNat).head?).map fun x => rejNo 0x33 (1, x.1) else none)

/-- The tag-bound register values of a slot (Table FRM-1): raw front end, colour engine with the renditions, cadence and exposure. -/
def tagSlice (m : SMap Word) (n : Nat) : SMap Word :=
  m.filter fun (k, _) =>
    (decide (slotReg n 0 ≤ k) && decide (k < slotReg n 0x20)) || (decide (expReg n 0 ≤ k) && decide (k < expReg n 0x100))
      || (decide (rfeReg n 0 ≤ k) && decide (k < rfeReg n 0x1000)) || (decide (clrReg n 0 ≤ k) && decide (k < clrReg n 0x1000))
      || (decide (0xA8000 ≤ k) && decide (k < 0xAA000))

/-- Targets without those that no frame to come can have: a later forme, which can no longer be discarded (R76), reaches every frame that
they reach. -/
def pruneTargets (issued : Nat) (locked : List Nat) : List Target → List Target
  | [] => []
  | t :: r =>
    if r.any fun u => decide (u.ord ≤ max t.ord issued) && !locked.contains u.commitNo then pruneTargets issued locked r
    else t :: pruneTargets issued locked r

/-- EXPOSURE_SLID of each late slot (R79). -/
def slideEvents (s : State) (ident : Nat) (l : List (Nat × Nat × Nat)) : State :=
  l.foldl (fun s x => frmEvent s 1 0x02 .info (ctxUnit 1 x.1 ident (x.2.1 % 2 ^ 32 + (x.2.2 % 2 ^ 32) * 2 ^ 32))) s

/-- The forme enters the Locked list; its banks are filled and its target frames fixed (R76, R79, R81). -/
def commit (p : Proj) (s : State) : State :=
  let point := (pointOf p.now p.f).toNat
  let no := s.frm.commits + 1
  let due := if p.f.kind = 2 then none else some point
  let late := lateSlots p point
  let bank := fun (n : Fin 8) => ({
    forme := p.ident, commitNo := no, regs := tagSlice p.st.regs n.val, objs := p.objs n, discarded := false } : Bank)
  let banks := Vector.ofFn fun (n : Fin 8) => s.frm.banks[n] ++ [bank n]
  let targets := Vector.ofFn fun (n : Fin 8) =>
    let e := max (targetFrame p point n) (deadlineFrame p n)
    pruneTargets (s.ref.slots[n]).issued (no :: lockedNos s) (s.frm.targets[n] ++ [{ forme := p.ident, commitNo := no, ord := e }])
  let s := modFrm s fun f => { f with
    formes := mMod f.formes p.ident fun x => { x with st := .locked, commitNo := no, due := due },
    lockedList := f.lockedList ++ [p.ident], commits := no, banks := banks, targets := targets }
  releaseFormes (releaseBanks (slideEvents (journalCommit (lockSei p.ahead p.st no s)) p.ident late))

/-! ### LUT objects (R65, R182, R183) -/

/-- Bytes of the LUT memory that an object's slot takes: first and number. -/
def lutSpan (t : Nat × Nat) : Nat × Nat :=
  if t.1 = 6 then (lut3Offset t.2, lutN t.2 * lutN t.2 * lutN t.2 * 6) else (shaperOffset t.2, 8192)

/-- An object copied into its slot: the slot's words are whole again (R183). -/
def copyLut (s : State) (o : BulkObj) : State := match lutTarget o with
  | none => s
  | some t =>
    let (a, n) := lutSpan t
    let l := s.lut
    let bad := l.bad.filter fun w => !(decide (a ≤ 8 * w) && decide (8 * w < a + n))
    if t.1 = 6 then { s with lut := { l with lut3 := mPut l.lut3 t.2 (lutEntries o.bytes), bad := bad } }
    else { s with lut := { l with shaper := mPut l.shaper t.2 (lutEntries o.bytes), bad := bad } }

def copyLuts (s : State) (f : Forme) : State := f.objs.foldl copyLut s

/-! ### Rejection (R73, R86, R391) -/

/-- The word that a rejection reports as its offset. (DEDUCED, log 13) -/
def Reject.offset (r : Reject) : Nat := r.off.getD 0xFFFFFFFF

/-- The forme returns to Staged, and the event says why. -/
def rejectForme (s : State) (ident : Nat) (r : Reject) : State :=
  frmEvent (modForme s ident fun f => { f with st := .staged }) 3 0x01 .info
    (ctxUnit r.kind r.unit 0 (ident + r.detail * 2 ^ 8 + r.offset * 2 ^ 32))

end Sys2Proof.Machine
end

