-- ==== Sys2Proof/Machine/MagFormat.lean ====
section
/-! DEFINITION. The Quire volume format (R237, R241 to R248): log positions, extents, superblock, commit units, journal
records, the take directory and frame indexes, and the recovery of a volume from its log. -/

namespace Sys2Proof.Machine
open Sys2Proof

/-! ### Log positions (R237) -/

/-- Sectors of a strip: planes × bits × 16,384 bytes. -/
def stripSectors (planes bits : Nat) : Nat := 4 * planes * bits

/-- Stripe groups of a population. -/
def groupsOf (chans dies : Nat) : Nat := max 1 (chans * dies / 16)

/-- Data columns of a log stripe: 15, or 14 from the stripe at which its group lost a die (R240). -/
def colsOf (short : SMap Nat) (groups l : Nat) : Nat :=
  match mGet short (l % groups) with
  | some from_ => if l ≥ from_ then 14 else 15
  | none => 15

/-- Where die position `k` sits on `chans` channels (R231, R237): channel k mod C, die floor(k / C) at its chip enable and LUN. -/
def dieAddr (chans k : Nat) : DieAddr where
  chan := k % max 1 chans
  ce := k / max 1 chans % 4
  lun := k / max 1 chans / 4

/-- The die index of a position (R231). -/
def dieIndex (chans k : Nat) : Nat := 16 * (k % max 1 chans) + k / max 1 chans

/-- The log geometry of a volume. -/
structure Geo where
  s : Nat
  groups : Nat
  short : SMap Nat
  failed : List Nat

/-- The columns of its group that a log stripe uses (R237, R240): all 16, or those left when a die of the group had failed before. -/
def Geo.cols (g : Geo) (l : Nat) : List Nat :=
  let lost := (g.failed.find? fun d => decide (d / 16 = l % g.groups)).map (· % 16)
  if colsOf g.short g.groups l = 14 then (List.range 16).filter fun c => decide (some c ≠ lost) else List.range 16

/-- The parity column of a log stripe: p = n mod 16, or the one numbered n mod 15 of those left (R237, R240). -/
def Geo.parityCol (g : Geo) (l : Nat) : Nat := let cs := g.cols l; cs.getD (l / g.groups % cs.length) 0

/-- The die position of a log stripe's parity strip, and of its data strip `d`: the other columns in ascending order. -/
def Geo.parityPos (g : Geo) (l : Nat) : Nat := 16 * (l % g.groups) + g.parityCol l
def Geo.dataPos (g : Geo) (l d : Nat) : Nat :=
  16 * (l % g.groups) + ((g.cols l).filter fun c => decide (c ≠ g.parityCol l)).getD d 0

/-- A log position moved on by `k` data strips. -/
def Geo.strips (g : Geo) : Nat → Nat → Nat → Nat × Nat
  | 0, l, d => (l, d)
  | k + 1, l, d => if d + 1 ≥ colsOf g.short g.groups l then g.strips k (l + 1) 0 else g.strips k l (d + 1)

/-- The position of data sector `i` after a data sector `j` of stripe `l`, as Table MAG-7 writes it. -/
def Geo.posAt (g : Geo) (l j i : Nat) : Nat :=
  let k := (j + i) / g.s
  let (l1, d1) := g.strips (k - j / g.s) l (j / g.s)
  l1 + (d1 * g.s + (j + i) % g.s) * 2 ^ 48

/-- A written position moved on by `i` data sectors. -/
def Geo.advance (g : Geo) (pos i : Nat) : Nat := g.posAt (pos % 2 ^ 48) (pos / 2 ^ 48) i

/-- The runs of `n` sectors from a written position on that each lie in one log stripe: stripe, first sector, sectors. -/
def Geo.runs (g : Geo) : Nat → Nat → Nat → Nat → List (Nat × Nat × Nat)
  | 0, _, _, _ => []
  | f + 1, pos, n, i =>
    let l := pos % 2 ^ 48
    let k := min n (colsOf g.short g.groups l * g.s - pos / 2 ^ 48)
    if n = 0 then [] else (l, i, k) :: g.runs f (l + 1) (n - k) (i + k)

/-- Byte-wise XOR; the shorter string counts as zeros beyond its end (R237). -/
def xorBytes : List Byte → List Byte → List Byte
  | [], l => l
  | l, [] => l
  | a :: r, b :: t => (a ^^^ b) :: xorBytes r t

/-- A strip program that waits. -/
def waitProg (kind : Strip) (die stripe : Nat) (bytes : List Byte) : Prog where
  kind := kind
  die := die
  stripe := stripe
  bytes := bytes
  issued := false
  done := false

/-- The programs of `k` data strips from a log position on, the last of them the commit record's, with the parity of each stripe that they close
(before the commit record's strip) and the XOR of the one left open (R237, R238): strip `i` of the unit's sectors comes first. -/
def Geo.programs (g : Geo) (ss : List (List Byte)) : Nat → Nat → Nat → Nat → List Byte → List Prog × List Byte
  | 0, _, _, _, acc => ([], acc)
  | k + 1, i, l, d, acc =>
    let b := padTo (4096 * g.s) ((ss.drop (i * g.s)).take g.s).flatten
    let sum := xorBytes acc b
    let p := waitProg (if k = 0 then .commit else .data) (g.dataPos l d) l b
    if d + 1 ≥ colsOf g.short g.groups l then
      let (r, a) := g.programs ss k (i + 1) (l + 1) 0 []
      let q := waitProg .parity (g.parityPos l) l sum
      (if k = 0 then [q, p] else p :: q :: r, a)
    else
      let (r, a) := g.programs ss k (i + 1) l (d + 1) sum
      (p :: r, a)

/-! ### Extents (R241) -/

/-- Extents with a range taken out. -/
def cutExts (g : Geo) (vsa n : Nat) (l : List Ext) : List Ext :=
  l.flatMap fun e =>
    let b := e.vsa + e.n
    if b ≤ vsa ∨ vsa + n ≤ e.vsa then [e]
    else
      (if e.vsa < vsa then [{ e with n := vsa - e.vsa }] else [])
        ++ (if vsa + n < b then
              [{ e with vsa := vsa + n, n := b - (vsa + n), pos := g.advance e.pos (vsa + n - e.vsa) }] else [])

def insertExt (e : Ext) : List Ext → List Ext
  | [] => [e]
  | x :: r => if e.vsa < x.vsa then e :: x :: r else x :: insertExt e r

/-- Extents with one put over them. -/
def putExt (g : Geo) (e : Ext) (l : List Ext) : List Ext := insertExt e (cutExts g e.vsa e.n l)

/-- A range as an extent, for counting. -/
def plainExt (vsa n : Nat) : Ext := { vsa := vsa, n := n, pos := 0, kind := 0, take := 0, frec := [], seq := 0, no := 0 }

/-- The ordinal and slot of a frame unit's extent; 0 for the other kinds (Table MAG-10). -/
def Ext.ord (e : Ext) : Word := if e.kind = 1 then BitVec.ofNat 32 (leAt e.frec 4 4) else 0
def Ext.slot (e : Ext) : Nat := if e.kind = 1 then (byteAt e.frec 1).toNat % 8 else 0

/-- Extents once the pending writes and trims have taken effect, in acceptance order. -/
def withOps (g : Geo) (l : List Ext) (ops : List HostOp) : List Ext :=
  ops.foldl (fun l o => if o.isTrim then cutExts g o.vsa o.n l else putExt g (plainExt o.vsa o.n) l) l

def extSectors (l : List Ext) : Nat := (l.map (·.n)).sum

/-- The lowest VSA from which `n` sectors are free. -/
def lowestFree (n : Nat) : List Ext → Nat → Nat
  | [], at_ => at_
  | e :: r, at_ => if at_ + n ≤ e.vsa then at_ else lowestFree n r (max at_ (e.vsa + e.n))

/-- A range less other ranges: the pieces left, as (VSA, sectors). -/
def minusRange (p : Nat × Nat) (vsa n : Nat) : List (Nat × Nat) :=
  if p.1 + p.2 ≤ vsa ∨ vsa + n ≤ p.1 then [p]
  else (if p.1 < vsa then [(p.1, vsa - p.1)] else [])
    ++ (if vsa + n < p.1 + p.2 then [(vsa + n, p.1 + p.2 - (vsa + n))] else [])

def minusRanges (l : List (Nat × Nat)) (cuts : List (Nat × Nat)) : List (Nat × Nat) :=
  cuts.foldl (fun l c => l.flatMap fun p => minusRange p c.1 c.2) l

/-! ### Sectors -/

/-- Bytes as sectors of 4,096, the last zero-padded. -/
def sectorsFrom : Nat → List Byte → List (List Byte)
  | 0, _ => []
  | n + 1, l => padTo 4096 (l.take 4096) :: sectorsFrom n (l.drop 4096)

def asSectors (l : List Byte) : List (List Byte) := sectorsFrom (ceilDiv l.length 4096) l

/-- A sector closed by its CRC over bytes 0 to 0xFFB (R117, R242). -/
def withCrc (l : List Byte) : List Byte :=
  let b := padTo 4092 l
  b ++ leBytes 4 (crc32 b)

def crcHolds (l : List Byte) : Bool := decide (l.length = 4096) && decide (leAt l 4092 4 = crc32 (l.take 4092))

/-! ### Journal records (Table MAG-7) -/

def jrec (ty : Nat) (body : List Byte) : List Byte :=
  [BitVec.ofNat 8 ty, 0] ++ leBytes 2 (4 + body.length) ++ body

def mapRec (vsa n pos : Nat) : List Byte := jrec 1 (leBytes 8 vsa ++ leBytes 4 n ++ leBytes 8 pos)
def trimRec (vsa n : Nat) : List Byte := jrec 2 (leBytes 8 vsa ++ leBytes 4 n)

/-- A take directory entry (Table MAG-8). -/
def takeBytes (t : Take) : List Byte :=
  leBytes 4 t.ident ++ [BitVec.ofNat 8 t.state, BitVec.ofNat 8 t.slots, BitVec.ofNat 8 t.cause, BitVec.ofNat 8 t.streams]
    ++ leBytes 4 t.startNs ++ leBytes 6 t.startSec ++ zeros 2 ++ leBytes 4 t.endNs ++ leBytes 6 t.endSec ++ zeros 2
    ++ (t.frames.toList.flatMap fun n => leBytes 4 n) ++ padTo 32 t.name ++ leBytes 4 t.timecode ++ zeros 28

def takeRec (t : Take) : List Byte := jrec 3 (takeBytes t)

/-- A frame index entry (Table MAG-9). -/
def idxBytes (e : IdxEntry) : List Byte :=
  leBytes 4 e.ord.toNat ++ leBytes 4 e.sectors ++ leBytes 8 e.vsa ++ leBytes 4 e.bytes ++ leBytes 2 e.status
    ++ [BitVec.ofNat 8 e.flags, BitVec.ofNat 8 e.source] ++ leBytes 4 e.ptpNs ++ leBytes 4 e.ptpSec

def indexRec (take : Nat) (e : IdxEntry) : List Byte := jrec 4 (leBytes 4 take ++ idxBytes e)

/-- A deferred-error entry (Table MAG-10). -/
def defBytes (d : DefErr) : List Byte :=
  leBytes 4 d.seq ++ [BitVec.ofNat 8 d.cause, BitVec.ofNat 8 d.kind, 0, 0] ++ leBytes 8 d.vsa ++ leBytes 4 d.n
    ++ leBytes 4 d.take ++ leBytes 4 d.ord.toNat ++ [BitVec.ofNat 8 d.slot, 0, 0, 0]

def deferRec (d : DefErr) : List Byte := jrec 5 (defBytes d)
def clearRec (seq : Nat) : List Byte := jrec 6 (leBytes 4 seq)
def dieRec (die : Nat) : List Byte := jrec 7 [BitVec.ofNat 8 die, 0, 0, 0]

/-- The records of a string, by type and body; a type of 0 ends them. -/
def parseRecs : Nat → List Byte → List (Nat × List Byte)
  | 0, _ => []
  | n + 1, l =>
    let ty := (byteAt l 0).toNat
    let len := leAt l 2 2
    if ty = 0 ∨ len < 4 then [] else (ty, (l.take len).drop 4) :: parseRecs n (l.drop len)

/-! ### Superblock (Table MAG-4) -/

/-- The superblock of a volume with flags, on its population. -/
def superBytes (v : Vol) (flags chans dies planes bits blocks : Nat) : List Byte :=
  let failed := (List.range 32).map fun b =>
    BitVec.ofNat 8 (((List.range 8).map fun i => if v.failed.contains (8 * b + i) then 2 ^ i else 0).sum)
  withCrc ([0x51#8, 0x55#8, 0x49#8, 0x52#8, 1#8, BitVec.ofNat 8 flags, 0, 0] ++ leBytes 8 v.superSeq ++ padTo 16 v.ident
    ++ leBytes 8 v.sectors ++ [BitVec.ofNat 8 chans, BitVec.ofNat 8 dies, BitVec.ofNat 8 planes, BitVec.ofNat 8 bits]
    ++ leBytes 4 blocks ++ leBytes 8 v.ckptPos ++ leBytes 8 v.ckptSeq ++ leBytes 6 v.formatSec ++ zeros 58 ++ failed)

def superValid (l : List Byte) : Bool :=
  crcHolds l && decide (l.take 5 = [0x51#8, 0x55#8, 0x49#8, 0x52#8, 1#8])

/-- The copy used at a mount: the valid one with the higher SUPER_SEQ (R242). -/
def superOf (m : Medium) : Option (List Byte) :=
  match superValid m.superA, superValid m.superB with
  | true, true => some (if leAt m.superA 8 8 ≥ leAt m.superB 8 8 then m.superA else m.superB)
  | true, false => some m.superA
  | false, true => some m.superB
  | false, false => none

/-- Failed die positions that a superblock lists. -/
def superFailed (l : List Byte) : List Nat := (List.range 256).filter fun i => (byteAt l (0x80 + i / 8)).getLsbD (i % 8)

/-! ### Commit units (R243, Tables MAG-5 and MAG-6) -/

/-- The trailer of a unit: its MAP records at its position, then its other records. -/
def MUnit.trailer (u : MUnit) (g : Geo) : List Byte :=
  (u.maps.flatMap fun m => mapRec m.1 m.2.1 (g.posAt u.stripe (u.strip * g.s) (1 + m.2.2))) ++ u.recs

/-- The sectors of a unit in log order. -/
def MUnit.sectors (u : MUnit) (g : Geo) : List (List Byte) :=
  let pay := asSectors u.body
  let tr := match asSectors (u.trailer g) with
    | [] => [zeros 4096]
    | l => l
  let head := withCrc ([0x51#8, 0x55#8, 0x4E#8, 0x54#8, 1#8, BitVec.ofNat 8 u.kind, BitVec.ofNat 8 u.flags,
      BitVec.ofNat 8 u.stream] ++ leBytes 8 u.seq ++ leBytes 4 pay.length ++ leBytes 4 tr.length
    ++ leBytes 4 u.body.length ++ leBytes 4 u.take ++ leBytes 8 u.vsa ++ zeros 216 ++ padTo 256 u.frec)
  let commit := withCrc ([0x51#8, 0x43#8, 0x4D#8, 0x54#8, 1#8, 0, 0, 0] ++ leBytes 8 u.seq
    ++ leBytes 4 (2 + pay.length + tr.length) ++ leBytes 4 (crc32 pay.flatten) ++ leBytes 4 (crc32 tr.flatten))
  head :: pay ++ tr ++ [commit]

/-! ### Recovery (R243, R248) -/

/-- The log key that follows a data sector: the next sector of the stripe where it is listed, else the next stripe. -/
def nextKey (log : SMap (List Byte)) (k : Nat) : Nat := if mHas log (k + 1) then k + 1 else (k / 65536 + 1) * 65536

/-- Sectors read on from a key, and the key after them. -/
def readLog (log : SMap (List Byte)) : Nat → Nat → List (List Byte) × Nat
  | 0, k => ([], k)
  | n + 1, k =>
    let (l, k1) := readLog log n (nextKey log k)
    ((mGet log k).getD [] :: l, k1)

/-- The next strip boundary at or after a key. -/
def stripUp (log : SMap (List Byte)) (s k : Nat) : Nat :=
  let j := k % 65536
  if s = 0 ∨ j % s = 0 then k
  else
    let up := k + (s - j % s)
    if mHas log up then up else (k / 65536 + 1) * 65536

/-- The unit at a key whose checks hold (R243): its sectors. Its SEQ has still to follow that of the present unit before. -/
def unitAt (log : SMap (List Byte)) (k : Nat) : Option (List (List Byte)) :=
  match mGet log k with
  | none => none
  | some h =>
    let pay := leAt h 0x10 4
    let tr := leAt h 0x14 4
    let n := 2 + pay + tr
    if crcHolds h ∧ h.take 4 = [0x51#8, 0x55#8, 0x4E#8, 0x54#8] ∧ n ≤ 262144 then
      let ss := (readLog log n k).1
      let c := ss.getLastD []
      if crcHolds c ∧ c.take 4 = [0x51#8, 0x43#8, 0x4D#8, 0x54#8] ∧ leAt c 8 8 = leAt h 8 8 ∧ leAt c 0x10 4 = n
          ∧ leAt c 0x14 4 = crc32 ((ss.drop 1).take pay).flatten
          ∧ leAt c 0x18 4 = crc32 ((ss.drop (1 + pay)).take tr).flatten then some ss
      else none
    else none

/-- The log sector that a written position names. -/
def keyOfPos (pos : Nat) : Nat := pos % 2 ^ 48 * 65536 + pos / 2 ^ 48

/-- Sectors stored from a VSA on. -/
def storeSectors (m : SMap (List Byte)) (vsa : Nat) : List (List Byte) → SMap (List Byte)
  | [] => m
  | x :: r => storeSectors (if allZero x then mDel m vsa else mPut m vsa x) (vsa + 1) r

def clearSectors (m : SMap (List Byte)) (vsa n : Nat) : SMap (List Byte) :=
  m.filter fun p => !(decide (vsa ≤ p.1) && decide (p.1 < vsa + n))

/-- An index entry of a frame, and one of a frame that is no gap (Table MAG-9). -/
def IdxEntry.isFrame (e : IdxEntry) : Bool := !(BitVec.ofNat 8 e.flags).getLsbD 3
def IdxEntry.recorded (e : IdxEntry) : Bool := e.isFrame && !(BitVec.ofNat 8 e.flags).getLsbD 0

/-- An index entry put into its place: the frames of a slot stand in ordinal order (R246). -/
def putEntry (l : List IdxEntry) (e : IdxEntry) : List IdxEntry :=
  let after := fun (x : IdxEntry) => e.isFrame && x.isFrame && decide (x.source = e.source) && later x.ord e.ord
  let a := l.takeWhile fun x => !after x
  a ++ e :: l.drop a.length

/-- A take with an index entry added (R245, R246); `tc` is the TIMECODE of the entry's frame record, where a unit carries one. The take keeps that
of its first recorded frame. (DEDUCED, log 28) -/
def Take.addEntry (t : Take) (e : IdxEntry) (tc : Option Nat) : Take :=
  let first := t.index.all fun x => !x.isFrame
  let named := t.index.all fun x => !x.recorded
  let t := { t with index := putEntry t.index e }
  if e.isFrame then
    let t := { t with frames := vMod t.frames (e.source % 8) (· + 1), endNs := e.ptpNs, endSec := e.ptpSec }
    let t := if first then { t with startNs := e.ptpNs, startSec := e.ptpSec } else t
    if named ∧ e.recorded then { t with timecode := tc.getD t.timecode } else t
  else t

/-- The takes with DEFERRED set in the index entries that a range touches (R251). -/
def touchDeferred (l : List Take) (vsa n : Nat) : List Take :=
  let touch := fun (e : IdxEntry) => if e.vsa < vsa + n ∧ vsa < e.vsa + e.sectors then { e with flags := e.flags ||| 4 } else e
  l.map fun t => { t with index := t.index.map touch }

def putTake (l : List Take) (t : Take) : List Take :=
  if l.any fun x => decide (x.ident = t.ident) then l.map fun x => if x.ident = t.ident then t else x else l ++ [t]

/-- A take read back from its directory entry, with the index it has, whose entries FRAMES counts (R245, R248). -/
def takeFrom (b : List Byte) (old : List IdxEntry) : Take where
  ident := leAt b 0 4
  state := (byteAt b 4).toNat
  slots := (byteAt b 5).toNat
  cause := (byteAt b 6).toNat
  streams := (byteAt b 7).toNat
  startNs := leAt b 8 4
  startSec := leAt b 0xC 6
  endNs := leAt b 0x14 4
  endSec := leAt b 0x18 6
  frames := Vector.ofFn fun i => (old.filter fun e => e.isFrame && decide (e.source % 8 = i.val)).length
  name := (b.drop 0x40).take 32
  timecode := leAt b 0x60 4
  index := old

def idxFrom (b : List Byte) : IdxEntry where
  ord := BitVec.ofNat 32 (leAt b 0 4)
  sectors := leAt b 4 4
  vsa := leAt b 8 8
  bytes := leAt b 0x10 4
  status := leAt b 0x14 2
  flags := (byteAt b 0x16).toNat
  source := (byteAt b 0x17).toNat
  ptpNs := leAt b 0x18 4
  ptpSec := leAt b 0x1C 4

def defFrom (b : List Byte) : DefErr where
  seq := leAt b 0 4
  cause := (byteAt b 4).toNat
  kind := (byteAt b 5).toNat
  vsa := leAt b 8 8
  n := leAt b 0x10 4
  take := leAt b 0x14 4
  ord := BitVec.ofNat 32 (leAt b 0x18 4)
  slot := (byteAt b 0x1C).toNat
  no := 0

/-- The unit that a journal record comes from (Table MAG-5): kind, TAKE_ID, FRAME_RECORD, SEQ. -/
structure UnitHead where
  kind : Nat
  take : Nat
  frec : List Byte
  seq : Nat
  deriving DecidableEq, Repr

/-- The head of a unit's sectors. -/
def headOf (ss : List (List Byte)) : UnitHead :=
  let h := ss.headD []
  { kind := (byteAt h 5).toNat, take := leAt h 0x1C 4, frec := (h.drop 0x100).take 256, seq := leAt h 8 8 }

/-- The units of a log whose checks hold, from a key on, with the key of each and the key after it. -/
def unitsFrom (log : SMap (List Byte)) (s : Nat) : Nat → Nat → List (Nat × Nat × List (List Byte))
  | 0, _ => []
  | fuel + 1, k =>
    match unitAt log k with
    | some ss =>
      let e := (readLog log ss.length k).2
      (k, e, ss) :: unitsFrom log s fuel (stripUp log s e)
    | none => if mHas log k then unitsFrom log s fuel (stripUp log s (k + 1)) else []

/-- The head of the unit that holds a log sector: a checkpoint's MAP records name sectors of earlier units. -/
def headAt (units : List (Nat × Nat × List (List Byte))) (key : Nat) (own : UnitHead) : UnitHead :=
  if own.kind = 4 then
    ((units.find? fun u => decide (u.1 ≤ key) && decide (key < u.2.1)).map fun u => headOf u.2.2).getD { own with kind := 3 }
  else own

/-- One journal record applied to a volume being recovered (Table MAG-7). -/
def applyRec (log : SMap (List Byte)) (g : Geo) (units : List (Nat × Nat × List (List Byte))) (h : UnitHead) (v : Vol) (r : Nat × List Byte) :
    Vol :=
  let b := r.2
  match r.1 with
  | 1 =>
    let vsa := leAt b 0 8
    let n := leAt b 8 4
    let pos := leAt b 12 8
    let o := headAt units (keyOfPos pos) h
    let e : Ext := { vsa := vsa, n := n, pos := pos, kind := o.kind, take := o.take, frec := o.frec, seq := o.seq, no := 0 }
    { v with exts := putExt g e v.exts, store := storeSectors v.store vsa (readLog log n (keyOfPos pos)).1 }
  | 2 => { v with exts := cutExts g (leAt b 0 8) (leAt b 8 4) v.exts,
                  store := clearSectors v.store (leAt b 0 8) (leAt b 8 4) }
  | 3 =>
    let old := ((v.takes.find? fun t => decide (t.ident = leAt b 0 4)).map (·.index)).getD []
    { v with takes := putTake v.takes (takeFrom b old), nextTake := max v.nextTake (leAt b 0 4 + 1) }
  | 4 =>
    let tc := if h.kind = 1 then some (leAt h.frec 0x14 4) else none
    { v with takes := v.takes.map fun t =>
      if t.ident = leAt b 0 4 then t.addEntry (idxFrom (b.drop 4)) tc else t }
  | 5 =>
    let d := defFrom b
    { v with
      defs := (v.defs.filter fun x => decide (x.seq ≠ d.seq)) ++ [d], attachments := max v.attachments d.seq,
      takes := touchDeferred v.takes d.vsa d.n }
  | 6 => { v with defs := v.defs.filter fun d => decide (leAt b 0 4 < d.seq), attachments := max v.attachments (leAt b 0 4) }
  | 7 => { v with failed := if v.failed.contains (byteAt b 0).toNat then v.failed else v.failed ++ [(byteAt b 0).toNat] }
  | _ => v

/-- A present unit applied: its trailer's records; a checkpoint's payload before them, which recreates the map, the take directory, the indexes and
the deferred errors outright (R244). -/
def applyUnit (log : SMap (List Byte)) (g : Geo) (units : List (Nat × Nat × List (List Byte))) (v : Vol) (ss : List (List Byte)) : Vol :=
  let b := ss.headD []
  let h := headOf ss
  let pay := leAt b 0x10 4
  let body := ((ss.drop 1).take pay).flatten
  let tr := (((ss.drop (1 + pay)).take (leAt b 0x14 4))).flatten
  let ap := fun (v : Vol) (l : List Byte) => (parseRecs (l.length + 1) l).foldl (applyRec log g units h) v
  let v := if h.kind = 4 then ap { v with exts := [], store := [], takes := [], defs := [] } (body.take (leAt b 0x18 4)) else v
  let v := ap v tr
  { v with nextSeq := h.seq + 1, durableSeq := h.seq,
           sinceUnits := if h.kind = 4 then 0 else v.sinceUnits + 1,
           sinceBytes := if h.kind = 4 then 0 else v.sinceBytes + leAt b 0x18 4 }

/-- Every present unit applied in SEQ order (R243, R248), wherever it stands in the log: a unit written again lies behind units of higher SEQ (R238). -/
def applyUnits (log : SMap (List Byte)) (g : Geo) (units : List (Nat × Nat × List (List Byte))) : Nat → Vol → Vol
  | 0, v => v
  | fuel + 1, v =>
    match units.find? fun u => decide ((headOf u.2.2).seq = v.nextSeq) with
    | some u => applyUnits log g units fuel (applyUnit log g units v u.2.2)
    | none => v

/-- Per stripe group, the first stripe with no sector beyond 14 columns, where the group holds a failed die. -/
def shortOf (log : SMap (List Byte)) (s groups : Nat) (failed : List Nat) : SMap Nat :=
  (List.range groups).filterMap fun g =>
    if failed.any fun d => decide (d / 16 = g) then
      some (g, ((log.filter fun p => decide (p.1 / 65536 % groups = g) && decide (p.1 % 65536 ≥ 14 * s)).map
        fun p => p.1 / 65536 + 1).foldl max 0)
    else none

/-- The volume that a superblock and a log give (R248). (DEDUCED, log 28) -/
def recoverVol (m : Medium) (sb : List Byte) : Vol :=
  let s := stripSectors m.planes m.bits
  let groups := groupsOf m.chans m.dies
  let failed := superFailed sb
  let g : Geo := {
    s := s, groups := groups, short := shortOf m.log s groups failed, failed := failed }
  let ckpt := leAt sb 0x38 8
  let v0 : Vol := {
    ident := (sb.drop 0x10).take 16, superSeq := leAt sb 8 8, sectors := leAt sb 0x20 8,
    superRo := (byteAt sb 5).getLsbD 0, failed := failed, formatSec := leAt sb 0x40 6,
    ckptPos := leAt sb 0x30 8, ckptSeq := ckpt, exts := [], store := [], bad := [], takes := [], nextTake := 1,
    defs := [], attachments := 0, nextSeq := if ckpt = 0 then 1 else ckpt, durableSeq := 0, stripe := 0, strip := 0,
    short := g.short, parity := [], moves := [], sinceUnits := 0, sinceBytes := 0, records := [], low := false }
  let units := unitsFrom m.log s (m.log.length + 1) 0
  let v := applyUnits m.log g units (units.length + 1) v0
  -- new units begin after every strip that has been written
  let top := m.log.foldl (fun a p => max a (p.1 + 1)) 0
  let key := stripUp m.log s top
  { v with stripe := key / 65536, strip := if s = 0 then 0 else key % 65536 / s }

end Sys2Proof.Machine
end

