-- ==== Sys2Proof/Machine/MagOps.lean ====
section
/-! DEFINITION. Operations of the quire that the magazine's commands share: events, space, host writes, deferred errors,
commit units from their start to durability, mounting, and the ends of takes (R234 to R257, R355 to R361). -/

namespace Sys2Proof.Machine
open Sys2Proof

def modMag (s : State) (f : MagBlk → MagBlk) : State := { s with mag := f s.mag }

def modVol (s : State) (f : Vol → Vol) : State := modMag s fun m => { m with vol := m.vol.map f }

/-- The mounted volume's geometry. -/
def geoOf (s : State) (v : Vol) : Geo where
  s := stripSectors s.mag.planes s.mag.bits
  groups := groupsOf s.mag.chans s.mag.dies
  short := v.short
  failed := v.failed

/-- An operation sent to a die position. -/
def flashTo (s : State) (op : FlashOp) (pos : Nat) (bytes : List Byte) : State := emit s (.flash op (dieAddr s.mag.chans pos) bytes)

/-- Operations sent to every die, in turn. -/
def flashAll (s : State) (ops : List FlashOp) : State :=
  (List.range (s.mag.chans * s.mag.dies)).foldl (fun s k => ops.foldl (fun s op => flashTo s op k []) s) s

/-- The rate of the channels in MT/s (Tables MAG-12 and MAG-14): RATE as the mount took it in MP0, 1,600 in MP1, stopped below. -/
def magRate (s : State) : Nat := match s.mag.power with
  | 0 => [3600, 3200, 2400, 1600].getD s.mag.rateSel 3600
  | 1 => 1600
  | _ => 0

/-- The dies are powered and calibrated: a mount has passed identification, in MP0 or MP1. -/
def diesActive (s : State) : Bool :=
  (s.mag.st == .mounted || s.mag.st == .readOnly || s.mag.st == .ejecting) && decide (s.mag.power ≤ 1)

/-- The channels set to a rate, calibrated and trained (Table MAG-1, R234 step 3). -/
def trainDies (s : State) : State := flashAll s [.features (magRate s), .zq, .train]

/-- MAG events (R257, Table MAG-17), with the context the event concerns. -/
def magEvent (s : State) (i code : Nat) (sev : Severity) (ctx : Ctx) : State := event s .mag i code sev ctx 0

def ctxDie (die : Nat) : Ctx := ctxUnit 16 die 0 0

/-- State codes of Table MAG-15. -/
def MagSt.code : MagSt → Nat
  | .empty => 0
  | .off => 1
  | .ident => 2
  | .mounting => 3
  | .mounted => 4
  | .readOnly => 5
  | .ejecting => 6
  | .unusable => 7

/-- MAG.STATE. -/
def magStateWord (s : State) : Word :=
  let m := s.mag
  let b := fun (x : Bool) => if x then 1 else 0
  packFields [(29, m.st.code), (27, m.power), (26, b m.locked), (25, b m.latch), (24, b m.wp), (23, b m.blank),
    (22, b m.degraded), (21, b m.rebuild), (15, m.chans), (0, m.chans * m.dies)]

/-- A volume is MOUNTED or READ_ONLY. -/
def isMounted (s : State) : Bool := s.mag.st == .mounted || s.mag.st == .readOnly

/-- Media commands are served (R355): a volume, not blank, in MP0 or MP1. -/
def magServed (s : State) : Bool := isMounted s && !s.mag.blank && decide (s.mag.power ≤ 1) && s.mag.vol.isSome

/-! ### Space (R241, R250) -/

/-- Sectors mapped, or covered by a pending host write. -/
def usedSectors (s : State) : Nat := match s.mag.vol with
  | some v => extSectors (withOps (geoOf s v) v.exts (s.mag.ops.filter fun o => o.begun.isNone))
  | none => 0

/-- MAG.FREE. -/
def freeSectors (s : State) : Nat := match s.mag.vol with
  | some v => v.sectors - usedSectors s
  | none => 0

/-- The ordinal of a slot's last issued frame. -/
def lastIssued (s : State) (n : Nat) : Word :=
  BitVec.ofNat 32 ((s.ref.slots.toList.map (·.issued)).getD n 0 + 2 ^ 32 - 1)

/-- LOW_SPACE and the end of takes on a full volume, at each slot's next frame boundary (R250); a slot that is masked has none, and its part
ends at once. (DEDUCED, log 28) -/
def checkSpace (s : State) : State :=
  match s.mag.vol with
  | none => s
  | some v =>
    let f := freeSectors s
    let low := decide (f * 50 < v.sectors)
    let s1 := if low && !v.low then magEvent s 10 0x0B .info (ctxVol 0 0 f) else s
    let s2 := modVol s1 fun v => { v with low := low }
    if f * 128 < v.sectors then
      let fill := fun (t : TakeSlot) =>
        if t.last.isSome then t
        else { t with full := true, last := if unmasked s2 t.slot then none else some (lastIssued s2 t.slot) }
      modMag s2 fun m => { m with takeSlots := m.takeSlots.map fill }
    else s2

/-! ### Host writes and trims (R356 to R359) -/

/-- The newest accepted content of a sector (R357): none of it when nothing was written; an accepted operation that
covers it decides, the last one first. -/
def opOver (ops : List HostOp) (vsa : Nat) : Option HostOp :=
  ops.reverse.find? fun o => decide (o.vsa ≤ vsa) && decide (vsa < o.vsa + o.n)

/-- A sector read: its bytes, or why it cannot be read. -/
inductive SectorRes where
  | data (l : List Byte)
  | media
  | galley

def readSector (s : State) (v : Vol) (vsa : Nat) : SectorRes :=
  match opOver s.mag.ops vsa with
  | some o =>
    if o.isTrim then .data (zeros 4096)
    else if o.corrupt ∧ ¬ o.durable then .galley
    else .data (padTo 4096 ((o.data.drop (4096 * (vsa - o.vsa))).take 4096))
  | none => if v.bad.contains vsa then .media else .data ((mGet v.store vsa).getD (zeros 4096))

/-- Sectors from a VSA on: those read before the first failure, and the failure. -/
def readRange (s : State) (v : Vol) : Nat → Nat → List (List Byte) × Option SectorRes
  | 0, _ => ([], none)
  | n + 1, vsa =>
    match readSector s v vsa with
    | .data l => let (r, e) := readRange s v n (vsa + 1); (l :: r, e)
    | e => ([], some e)

/-- Durable operations at the front of the acceptance order merge into the stored content. -/
def mergeOps : Nat → State → State
  | 0, s => s
  | k + 1, s =>
    match s.mag.ops, s.mag.vol with
    | o :: r, some v =>
      if ¬ o.durable then s
      else
        let bad := v.bad.filter fun x => !(decide (o.vsa ≤ x) && decide (x < o.vsa + o.n))
        let store := if o.isTrim then clearSectors v.store o.vsa o.n
          else storeSectors v.store o.vsa (sectorsFrom o.n o.data)
        mergeOps k (modVol (modMag s fun m => { m with ops := r }) fun v => { v with store := store, bad := bad })
    | _, _ => s

/-- A write or trim enters the acceptance order. -/
def acceptOp (s : State) (o : HostOp) : State :=
  modMag s fun m => { m with ops := m.ops ++ [{ o with no := m.nextOp }], nextOp := m.nextOp + 1 }

/-- Extents the map would hold with one more operation (R241). -/
def extentsWith (s : State) (vsa n : Nat) : Nat := match s.mag.vol with
  | some v => (withOps (geoOf s v) v.exts
      ((s.mag.ops.filter fun o => o.begun.isNone) ++ [{
        no := 0, vsa := vsa, n := n, isTrim := false, atomic := false, data := [], item := none, begun := none,
        durable := false, corrupt := false }])).length
  | none => 0

/-! ### Deferred errors (R251) -/

/-- A deferred error attached: its journal record, DEFERRED in the index entries it touches, MAG.DEFERRED,
DEFERRED_ERROR, and one more pending attachment on every bound queue. -/
def attachDeferred (s : State) (cause kind vsa n take : Nat) (ord : Word) (slot no : Nat) : State :=
  match s.mag.vol with
  | none => s
  | some v =>
    let d : DefErr := {
      seq := v.attachments + 1, cause := cause, kind := kind, vsa := vsa, n := n, take := take, ord := ord, slot := slot,
      no := no }
    let s := modVol s fun v => { v with
      defs := v.defs ++ [d], attachments := v.attachments + 1, records := v.records ++ [deferRec d],
      takes := touchDeferred v.takes vsa n }
    let s := attachAll (count s 0xF0054)
    magEvent s 9 0x0A .itemFailed (ctxVol take d.seq n)

/-- A durable range that has become unreadable: one attachment for every extent it touches; its sectors cannot be
read any more (R239, R251). -/
def loseRange (s : State) (cause vsa n : Nat) : State :=
  match s.mag.vol with
  | none => s
  | some v =>
    let hit := v.exts.filter fun e => decide (e.vsa < vsa + n) && decide (vsa < e.vsa + e.n)
    hit.foldl (fun s e =>
      let a := max e.vsa vsa
      let b := min (e.vsa + e.n) (vsa + n)
      let s := modVol s fun v => { v with bad := v.bad ++ (List.range (b - a)).map (a + ·) }
      attachDeferred s cause e.kind a (b - a) (if e.kind ≤ 2 then e.take else 0) e.ord e.slot e.no) s

/-! ### Superblock, read-only volume, failed dies (R240, R242) -/

/-- A superblock write, alternately to die positions 0 and 1. -/
def writeSuper (s : State) (clean : Bool) : State :=
  let s := modVol s fun v => { v with superSeq := v.superSeq + 1 }
  match s.mag.vol with
  | none => s
  | some v =>
    let flags := (if v.superRo then 1 else 0) + (if clean then 2 else 0)
    flashTo s .super (v.superSeq % 2) (superBytes v flags s.mag.chans s.mag.dies s.mag.planes s.mag.bits s.mag.blocks)

/-- The volume enters READ_ONLY; take content that no unit carries yet can no longer be committed (R27). -/
def toReadOnly (s : State) : State :=
  if s.mag.st = .mounted then loseStuck (magEvent (modMag s fun m => { m with st := .readOnly }) 8 0x09 .degraded ctxNone) else s

/-- Extents that lie in a stripe group. -/
def inGroup (g : Geo) (grp : Nat) (e : Ext) : Bool :=
  let a := e.pos % 2 ^ 48
  let b := g.advance e.pos (e.n - 1) % 2 ^ 48
  decide (b - a + 1 ≥ g.groups) || (List.range (b - a + 1)).any fun i => decide ((a + i) % g.groups = grp)

/-- A die is declared failed (R240): journalled, marked in the superblock, DIE_FAILED; new stripes of its group have 14
data columns; a second one in the group makes the volume READ_ONLY, and what cannot be rebuilt (`lost`) is attached. -/
def failDie (s : State) (die : Nat) (lost : List (Nat × Nat)) : State :=
  match s.mag.vol with
  | none => s
  | some v =>
    if v.failed.contains die then s
    else
      let g := geoOf s v
      let grp := die / 16
      let second := v.failed.any fun d => decide (d / 16 = grp)
      let from_ := v.stripe + (grp + g.groups - v.stripe % g.groups) % g.groups
      let from_ := if from_ = v.stripe ∧ v.strip ≠ 0 then from_ + g.groups else from_
      let s := modVol s fun v => { v with
        failed := v.failed ++ [die], records := v.records ++ [dieRec die],
        short := if mHas v.short grp then v.short else mPut v.short grp from_ }
      let s := modMag s fun m => { m with degraded := true, rebuild := true }
      let s := magEvent (writeSuper s false) 7 0x08 .degraded (ctxDie die)
      if second then (lost.foldl (fun s p => loseRange s 3 p.1 p.2) (toReadOnly s)) else s

/-- A failed program or erase on a die: more than 4 within 60 minutes declare it failed (R240). -/
def blockFailed (s : State) (die : Nat) (lost : List (Nat × Nat)) : State :=
  let l := s.now :: ((mGet s.mag.fails die).getD []).filter fun t => decide (s.now < t + 3600000000000)
  let s := modMag s fun m => { m with fails := mPut m.fails die l }
  if l.length > 4 then failDie s die lost else s

/-! ### Starting a unit (R243, R244, R247) -/

/-- Records that fit a trailer beside what a unit brings: 14 sectors in all. -/
def fitRecs : Nat → List (List Byte) → List (List Byte) × List (List Byte)
  | _, [] => ([], [])
  | room, r :: l =>
    if r.length ≤ room then let (a, b) := fitRecs (room - r.length) l; (r :: a, b) else ([], r :: l)

/-! ### Strip programs (R237, R238, R249, R255) -/

/-- Die positions with a program in progress. -/
def busyDies (s : State) : List Nat :=
  (s.mag.units.flatMap fun u => (u.progs.filter fun p => p.issued && !p.done).map (·.die)) ++ s.mag.stale.map (·.2.2)

/-- A die can take an array operation: it is idle, and in MP1 fewer than 4 dies of its channel are in one (Table MAG-12). -/
def dieIdle (s : State) (die : Nat) : Bool :=
  let busy := (busyDies s).eraseDups
  let chan := fun (d : Nat) => d % max 1 s.mag.chans
  !busy.contains die && (decide (s.mag.power = 0) || decide ((busy.filter fun d => decide (chan d = chan die)).length < 4))

/-- A program of a unit may be issued as far as the order of R238 goes: data and parity of a stripe as soon as they are full, the commit record's
strip after every other one of the unit has succeeded and the commit records of the units before, the partial parity after it. -/
def inOrder (s : State) (u : MUnit) (p : Prog) : Bool := match p.kind with
  | .data => true
  | .parity => true
  | .commit => (u.progs.all fun q => q.done || decide (q.kind = .commit) || decide (q.kind = .partialParity))
      && s.mag.units.all fun x => decide (u.seq ≤ x.seq) || x.commit
  | .partialParity => u.commit

/-- In a power failure only the commit record's strip and the partial parity of a unit are issued, whose other strips all have been (R249). -/
def powerLets (s : State) (u : MUnit) (p : Prog) : Bool :=
  !s.mag.pwrFail || ((decide (p.kind = .commit) || decide (p.kind = .partialParity))
    && u.progs.all fun q => q.issued || decide (q.kind = .commit) || decide (q.kind = .partialParity))

def setUnit (s : State) (u : MUnit) : State :=
  modMag s fun m => { m with units := m.units.map fun x => if x.seq = u.seq then u else x }

/-- Program `i` of a unit, as it stands, is issued if it may be. -/
def issueOne (s : State) (seq i : Nat) : State :=
  match s.mag.units.find? fun u => decide (u.seq = seq) with
  | none => s
  | some u => match u.progs[i]? with
    | none => s
    | some p =>
      if p.issued || !(inOrder s u p && powerLets s u p && dieIdle s p.die && diesActive s) then s
      else flashTo (setUnit s { u with progs := u.progs.set i { p with issued := true } }) (.program seq p.kind p.stripe) p.die p.bytes

/-- Every program that may be issued is, in the order of the units and of their programs. (DEDUCED, log 28) -/
def issueStrips (s : State) : State :=
  s.mag.units.foldl (fun s u => (List.range u.progs.length).foldl (fun s i => issueOne s u.seq i) s) s

/-- A unit laid at the next log position. -/
def layUnit (s : State) (v : Vol) (u : MUnit) : State :=
  let g := geoOf s v
  let u := { u with stripe := v.stripe, strip := v.strip }
  let ss := u.sectors g
  let n := ceilDiv ss.length (max 1 g.s)
  let (l1, d1) := g.strips n v.stripe v.strip
  let (progs, acc) := g.programs ss n 0 v.stripe v.strip v.parity
  let opens : Bool := decide (d1 ≠ 0)
  let u := { u with
    progs := progs ++ (if opens then [waitProg .partialParity (g.parityPos l1) l1 acc] else []), commit := false, opens := opens }
  let now_ := s.now
  let s := modMag s fun m => { m with units := m.units ++ [u], loadFrom := some (m.loadFrom.getD now_) }
  issueStrips (modVol s fun v => { v with stripe := l1, strip := d1, parity := acc })

/-- The trims that a unit carries, in acceptance order: no more than 1,024 may be under way, so that a trailer holds what they leave of a write
(R243). (DEDUCED, log 28) -/
def unitTrims (s : State) : List HostOp :=
  let under := (s.mag.ops.filter fun o => o.isTrim && o.begun.isSome).length
  (s.mag.ops.filter fun o => o.isTrim && o.begun.isNone).take (1024 - under)

/-- A unit begun (R247): it takes the next SEQ, of the journal records and trims that wait as many as its trailer holds (R243), and its extents
enter the map. -/
def beginUnit (s : State) (v : Vol) (u : MUnit) : State :=
  let own := u.recs ++ (u.entries.flatMap fun e => indexRec e.1 e.2)
  let room := 14 * 4096 - (own.length + 24 * u.maps.length)
  let (carried, left) := fitRecs room v.records
  let trims := (unitTrims s).take ((room - carried.flatten.length) / 16)
  let u := { u with
    seq := v.nextSeq, recs := carried.flatten ++ (trims.flatMap fun o => trimRec o.vsa o.n) ++ own,
    ops := u.ops ++ trims.map (·.no) }
  let ops := u.ops
  let s := modMag s fun m => { m with ops := m.ops.map fun o =>
    (if ops.contains o.no then { o with begun := some u.seq } else o) }
  let ids := u.items
  let s := setItems s (s.gal.items.map fun i => if ids.contains i.ident then { i with unit := some u.seq } else i)
  let g := geoOf s v
  let exts := trims.foldl (fun l o => cutExts g o.vsa o.n l) v.exts
  let exts := u.maps.foldl (fun l m =>
    putExt g {
      vsa := m.1, n := m.2.1, pos := g.posAt v.stripe (v.strip * g.s) (1 + m.2.2), kind := u.kind, take := u.take,
      frec := padTo 256 u.frec, seq := u.seq, no := u.no } l) exts
  let s := modVol s fun v => { v with
    nextSeq := v.nextSeq + 1, records := left, exts := exts,
    sinceUnits := if u.kind = 4 then 0 else v.sinceUnits + 1,
    sinceBytes := if u.kind = 4 then 0 else v.sinceBytes + u.body.length }
  checkSpace (layUnit s v u)

def blankUnit (kind : Nat) : MUnit where
  seq := 0
  kind := kind
  flags := 0
  stream := 0
  take := 0
  vsa := 0
  frec := []
  body := []
  maps := []
  recs := []
  stripe := 0
  strip := 0
  progs := []
  commit := false
  opens := false
  items := []
  ops := []
  entries := []
  stores := []
  no := 0

/-- The index entry of an item (Table MAG-9), with its payload's place. -/
def itemEntry (i : GalItem) (vsa n bytes : Nat) (corrupt : Bool) : IdxEntry :=
  let fr := i.fr
  let src := match i.kind with
    | .frame k => k.val
    | .stream b _ => b
    | .host .. => 0
  let st := match i.kind with
    | .stream .. => 8
    | _ => 0
  let t := (fr.map (·.ptp)).getD 0
  { ord := i.ord, sectors := n, vsa := vsa, bytes := bytes, status := ((fr.map FrameRec.status).getD 0#32).toNat % 65536,
    flags := (if i.gap then 1 else 0) + (if corrupt then 2 else 0) + st, source := src,
    ptpNs := ptpNs t, ptpSec := ptpSec t % 2 ^ 32 }

/-- The takes with the entries of the units under way, which a checkpoint follows (R244). -/
def takesWith (units : List MUnit) (l : List Take) : List Take :=
  units.foldl (fun l u => u.entries.foldl (fun l e => l.map fun t =>
    if t.ident = e.1 then t.addEntry e.2 (if u.kind = 1 then some (leAt u.frec 0x14 4) else none) else t) l) l

/-- The payload of a checkpoint (R244): records that recreate the map, takes, indexes and deferred errors, with the number of attachments that
have been cleared. (DEDUCED, log 28) -/
def ckptBody (s : State) (v : Vol) : List Byte :=
  (v.exts.flatMap fun e => mapRec e.vsa e.n e.pos) ++ ((takesWith s.mag.units v.takes).flatMap fun t => takeRec t ++
    t.index.flatMap fun e => indexRec t.ident e)
    ++ clearRec ((v.defs.head?.map fun d => d.seq - 1).getD v.attachments) ++ v.defs.flatMap deferRec

/-- A checkpoint is due (R244): after 65,536 units or 64 GiB of payload. -/
def ckptDue (v : Vol) : Bool := decide (v.sinceUnits ≥ 65536) || decide (v.sinceBytes ≥ 68719476736)

/-- Take items ready to be begun, in the order of R223: by sealing. -/
def readyItems (s : State) : List GalItem :=
  let l := s.gal.items.filter fun i => i.waitsTake && i.unit.isNone
  l.foldr (fun i r =>
    let a := r.takeWhile fun j => decide (j.sealNo < i.sealNo)
    a ++ i :: r.drop a.length) []

/-- A stream's units of one frame set are all formed: no later unit of the set can come (R247). -/
def setComplete (s : State) (i : GalItem) : Bool := match i.kind with
  | .stream src _ =>
    (decide (i.fset < s.gal.fset) || decide (src ≥ 0xC0)) &&
      !(s.gal.items.any fun j => decide (j.fset = i.fset) && !j.ready && (match j.kind with
        | .stream b _ => decide (b = src)
        | _ => false))
  | _ => true

/-- The gap entries that go with a unit, each an index entry (R250). -/
def gapEntries (l : List GalItem) : List (Nat × IdxEntry) :=
  l.filterMap fun i => i.take.map fun t => (t, itemEntry i 0 0 0 false)

/-- The take content that a unit carries: one frame, or a stream's items of one frame set. (DEDUCED, log 27) -/
def unitItems (s : State) (i : GalItem) : List GalItem := match i.kind with
  | .stream src _ => (readyItems s).filter fun j => !j.gap && decide (j.fset = i.fset) && decide (j.take = i.take)
      && (match j.kind with
        | .stream b _ => decide (b = src)
        | _ => false)
  | _ => [i]

/-- READ_CORRUPT: the quire's copy of the record carries OUT_CORRUPT (R223). -/
def corruptCopy (fr : FrameRec) : FrameRec := { fr with status := setBit fr.status 20 }

/-- A frame or stream unit begun (R246, R247, R250), with the gap entries that precede it; with no run of free sectors for it, its items fail. (DEDUCED, log 28) -/
def beginTakeUnit (s : State) (v : Vol) (gaps : List GalItem) (i : GalItem) : State :=
  let its := unitItems s i
  let body := (its.map (·.data)).flatten
  let n := units4k body.length
  let corrupt := its.any (·.corrupt)
  let g := geoOf s v
  let vsa := lowestFree n (withOps g v.exts (s.mag.ops.filter fun o => o.begun.isNone)) 0
  if vsa + n > v.sectors then
    -- no run of free sectors holds it: it cannot be committed (R27), and the index has a gap for it (R246)
    its.foldl (fun s j => addGap (loseItem s j) j.kind j.ord j.take j.fr) s
  else
    let fr := i.fr.map fun r => if corrupt then corruptCopy r else r
    let take := i.take.getD 0
    let (kind, stream, slot) := match i.kind with
      | .frame k => (1, 0, k.val)
      | .stream b k => (2, b, k)
      | .host .. => (3, 0, 0)
    let s := if corrupt then galEvent (count s 0xD0060) 4 0x05 .degraded slot i.ord else s
    let v := s.mag.vol.getD v
    let u := { blankUnit kind with
      flags := if corrupt then 2 else 0, stream := stream, take := take, vsa := vsa,
      frec := (fr.map recBytes).getD [], body := body, maps := [(vsa, n, 0)],
      items := (gaps ++ its).map (·.ident),
      entries := gapEntries gaps ++ [(take, itemEntry i vsa n body.length corrupt)], stores := [(vsa, body)] }
    beginUnit s v u

/-- Host writes that a unit may carry, in acceptance order (R247): the first not begun; with it the writes after it that
fit, up to `count`. -/
def hostBatch : Nat → Nat → List HostOp → List HostOp
  | 0, _, _ => []
  | _, _, [] => []
  | k + 1, room, o :: r => if o.n ≤ room then o :: hostBatch k (room - o.n) r else []

/-- The extents of host writes in a unit: the ranges of later trims that units already carry stay trimmed (R359). -/
def hostMaps (s : State) (batch : List HostOp) : List (Nat × Nat × Nat) :=
  let laterOps := fun (o : HostOp) =>
    ((s.mag.ops.filter fun x => x.isTrim && x.begun.isSome && decide (o.no < x.no)).map fun x => (x.vsa, x.n))
  (batch.foldl (fun (a : Nat × List (Nat × Nat × Nat)) o =>
    (a.1 + o.n, a.2 ++ (minusRanges [(o.vsa, o.n)] (laterOps o)).map fun p => (p.1, p.2, a.1 + (p.1 - o.vsa)))) (0, [])).2

/-- The longest start of a batch whose extents a trailer holds, at least one write (R243). -/
def fitBatch (s : State) : Nat → List HostOp → List HostOp
  | 0, l => l
  | k + 1, l => if (hostMaps s l).length ≤ 2048 then l else if k = 0 then l.take 1 else fitBatch s k (l.take k)

/-- A host-write unit begun. -/
def beginHostUnit (s : State) (_v : Vol) (batch : List HostOp) : State :=
  let batch := fitBatch s batch.length batch
  let maps := hostMaps s batch
  let s := batch.foldl (fun s o =>
    if o.corrupt then attachDeferred s 4 3 o.vsa o.n 0 0 0 o.no else s) s
  match s.mag.vol with
  | none => s
  | some v =>
    beginUnit s v { blankUnit 3 with
      flags := if batch.any (·.atomic) then 1 else 0, vsa := (batch.head?.map (·.vsa)).getD 0,
      body := (batch.map (·.data)).flatten, maps := maps, items := batch.filterMap (·.item), ops := batch.map (·.no),
      no := (batch.map (·.no)).headD 0 }

/-! ### The ends of takes -/

/-- Nothing of a take is still to come or to be written: every slot has had its last frame, and no item waits. -/
def takeSettled (s : State) (t : Nat) : Bool :=
  (s.mag.takeSlots.all fun x => decide (x.take ≠ t) || (match x.last with
    | none => false
    | some l => (s.ing.frames.toList.getD x.slot []).all fun f => later f.fr.ord l))
  && !(s.gal.items.any fun i => decide (i.take = some t))

/-- Index entries of a take that are frames' or streams' gaps. -/
def takeGaps (t : Take) : Nat := (t.index.filter fun e => (BitVec.ofNat 8 e.flags).getLsbD 0).length

/-- Every take that has settled closes: its directory record, TAKE_FULL for a full volume, its TAKE_STOP answered
(R245, R250, Table MBX-7). -/
def settleTakes (s : State) : State :=
  match s.mag.vol with
  | none => s
  | some v =>
    (v.takes.filter fun t => decide (t.state = 0)).foldl (fun s t =>
      if takeSettled s t.ident then
        let full := s.mag.takeSlots.any fun x => decide (x.take = t.ident) && x.full
        match s.mag.vol.bind fun v => v.takes.find? fun x => decide (x.ident = t.ident) with
        | none => s
        | some t =>
          let t1 := { t with state := 1, cause := if full then 3 else 0 }
          let s := modVol s fun v => { v with takes := putTake v.takes t1, records := v.records ++ [takeRec t1] }
          let waits := s.mag.stopping.filter fun x => decide (x.1 = t.ident)
          let s := modMag s fun m => { m with
            takeSlots := m.takeSlots.filter fun x => decide (x.take ≠ t.ident),
            stopping := m.stopping.filter fun x => decide (x.1 ≠ t.ident) }
          let s := if full then magEvent s 11 0x0C .degraded (ctxVol t.ident 0 0) else s
          waits.foldl (fun s w => mbxReply s w.2.1 w.2.2 stSuccess 0 (t1.index.length - takeGaps t1) (takeGaps t1)) s
      else s) s

/-- A slot's frame boundary: a take on a full volume ends there (R250). -/
def takeBoundary (s : State) (slot : Nat) : State :=
  if s.mag.takeSlots.any fun t => decide (t.slot = slot) && t.full && t.last.isNone then
    let o := lastIssued s slot
    settleTakes (modMag s fun m => { m with takeSlots := m.takeSlots.map fun t =>
      if t.slot = slot ∧ t.full ∧ t.last.isNone then { t with last := some o } else t })
  else s

/-! ### Flushes, power transitions and ejects -/

/-- Waiting flushes whose writes are all durable complete (R360). -/
def settleFlushes (s : State) : State :=
  s.hq.queues.foldl (fun s q =>
    if ¬ q.2.bindMag then s
    else q.2.cmds.foldl (fun s c =>
      if c.2.op = 0x03 ∧ c.2.waiting ∧ s.mag.ops.all (fun o => o.durable || decide (c.2.mark ≤ o.no)) then
        let hurt := (s.mag.vol.map fun v => v.defs.any fun d => decide (d.kind = 3) && decide (d.no < c.2.mark)).getD false
        let seq := (s.mag.vol.map (·.durableSeq)).getD 0
        complete s q.1 c.1 (if hurt then stMediaError else stSuccess) 0 (BitVec.ofNat 32 seq) 0
      else s) s) s

/-- Every accepted unit is durable: no unit in progress, no take item or host write waiting. -/
def allDurable (s : State) : Bool :=
  s.mag.units.isEmpty && !(s.gal.items.any (·.waitsTake)) && s.mag.ops.all (·.durable)

/-! ### Durability (R238, R250) -/

/-- A unit has become durable: its items leave the galley, its content is stored, its index entries enter their takes, and
what waited for it goes on. -/
def unitDurable (s : State) (u : MUnit) : State :=
  let s := modMag s fun m => { m with units := m.units.filter fun x => decide (x.seq ≠ u.seq) }
  let s := if s.mag.units = [] then modMag s fun m => { m with loadFrom := none, bgTime := [] } else s
  let s := count s 0xF0058
  let s := u.items.foldl freeItem s
  let s := modVol s fun v => { v with
    durableSeq := max v.durableSeq u.seq,
    store := u.stores.foldl (fun m p => storeSectors m p.1 (asSectors p.2)) v.store,
    takes := takesWith [u] v.takes }
  let ops := u.ops
  let s := modMag s fun m => { m with ops := m.ops.map fun o =>
    (if ops.contains o.no then { o with durable := true, item := none } else o) }
  let s := mergeOps (s.mag.ops.length + 1) s
  let s := if u.kind = 4 then
      let g := match s.mag.vol with
        | some v => geoOf s v
        | none => { s := 1, groups := 1, short := [], failed := [] }
      writeSuper (modVol s fun v => { v with ckptPos := g.posAt u.stripe (u.strip * g.s) 0, ckptSeq := u.seq }) false
    else s
  issueStrips (syncWait (settleTakes (settleFlushes (checkSpace s))))

/-- A program failure on a unit that is not durable: it is written again from its galley copy at the next log position
with the same SEQ, and what its first copy still programs is mapped no more (R238). -/
def rewriteUnit (s : State) (u : MUnit) : State :=
  let running := (u.progs.filter fun p => p.issued && !p.done).map fun p => (u.seq, p.kind, p.die)
  let s := modMag s fun m => { m with units := m.units.filter fun x => decide (x.seq ≠ u.seq), stale := m.stale ++ running }
  match s.mag.vol with
  | none => s
  | some v =>
    let g := geoOf s v
    let exts := u.maps.foldl (fun l m => l.map fun e =>
      if m.1 ≤ e.vsa ∧ e.vsa < m.1 + m.2.1 ∧ e.seq = u.seq then
        { e with pos := g.posAt v.stripe (v.strip * g.s) (1 + m.2.2 + (e.vsa - m.1)) } else e) v.exts
    let s := modVol s fun v => { v with exts := exts }
    let s := layUnit s v u
    -- units keep the order of their SEQ
    modMag s fun m => { m with units :=
      (m.units.filter fun x => decide (x.seq < u.seq)) ++ (m.units.filter fun x => decide (x.seq = u.seq))
        ++ (m.units.filter fun x => decide (x.seq > u.seq)) }

/-! ### Relocation (R239, R240, R253) -/

/-- The durable, readable pieces of ranges: extent, first VSA, sectors. -/
def piecesOf (v : Vol) (l : List (Nat × Nat)) : List (Ext × Nat × Nat) :=
  l.flatMap fun p => v.exts.flatMap fun e =>
    let a := max e.vsa p.1
    let b := min (e.vsa + e.n) (p.1 + p.2)
    if a < b ∧ e.seq ≤ v.durableSeq then
      (minusRanges [(a, b - a)] ((v.bad.filter fun x => decide (a ≤ x) && decide (x < b)).map fun x => (x, 1))).map fun q => (e, q.1, q.2)
    else []

/-- Ranges of the volume written again at the next log position, each piece as a unit of the kind it came in. (DEDUCED, log 28) -/
def relocate (s : State) (l : List (Nat × Nat)) : State :=
  match s.mag.vol with
  | none => s
  | some v => (piecesOf v l).foldl (fun s p => match s.mag.vol with
    | none => s
    | some v =>
      let body := ((List.range p.2.2).map fun i => (mGet v.store (p.2.1 + i)).getD (zeros 4096)).flatten
      beginUnit s v { blankUnit p.1.kind with
        take := p.1.take, vsa := p.2.1, frec := p.1.frec, body := body, maps := [(p.2.1, p.2.2, 0)], no := p.1.no }) s

/-- Pieces that lie in stripes which still use a failed die: VSA, sectors (R240). -/
def onFailed (g : Geo) (v : Vol) (die : Nat) : List (Nat × Nat) :=
  v.exts.flatMap fun e => (g.runs (e.n + 1) e.pos e.n 0).filterMap fun r =>
    if r.1 % g.groups = die / 16 ∧ colsOf g.short g.groups r.1 = 15 ∧ v.failed.contains die then some (e.vsa + r.2.1, r.2.2) else none

/-! ### Power and pins -/

/-- MAG_VCC_EN and MAG_LOCK driven. -/
def driveMag (s : State) (vcc lock : Bool) : State :=
  let s := if s.mag.vccEn = vcc then s else emit s (.pin .magVccEn vcc)
  let s := if s.mag.locked = lock then s else emit s (.pin .magLock lock)
  modMag s fun m => { m with vccEn := vcc, locked := lock }

/-- The magazine's volume is let go: nothing mounted, MP3. -/
def dropVolume (s : State) (st : MagSt) : State :=
  modMag s fun m => { m with
    st := st, power := 3, vol := none, blank := false, degraded := false, rebuild := false, wp := false, units := [],
    ops := [], transition := none, eject := none, chans := 0, dies := 0, pwrFail := false,
    rate := [], fails := [], retired := [], stale := [], loadFrom := none, bgTime := [], patrolled := [], serials := [],
    vccGood := false }

/-- R234 step 2: a mount starts for a power state. -/
def startMount (s : State) (wanted : Nat) : State :=
  if s.mag.st = .off then
    modMag (driveMag s true s.mag.locked) fun m => { m with st := .ident, wanted := wanted, vccAt := s.now }
  else s

/-- MOUNT_FAIL with the die's position and its index (R232, R234). -/
def mountFail (s : State) (chans die : Nat) : State := magEvent s 2 0x03 .degraded (ctxUnit 16 die 0 (dieIndex chans die))

/-- A take found recording at a mount closes as truncated, END_CAUSE power loss, or REMOVED where the device saw it end so (R236); TAKE_RECOVERED
once per slot with the last ordinal indexed (R248). (DEDUCED, log 28) -/
def recoverTakes (s : State) : State :=
  match s.mag.vol with
  | none => s
  | some v =>
    let cut := (s.mag.cutTakes.filter fun c => decide (c.1 = v.ident)).flatMap (·.2)
    let s := modMag s fun m => { m with cutTakes := m.cutTakes.filter fun c => decide (c.1 ≠ v.ident) }
    (v.takes.filter fun t => decide (t.state = 0)).foldl (fun s t =>
      let t1 := { t with state := 2, cause := if cut.contains t.ident then 2 else 1 }
      let s := modVol s fun v => { v with takes := putTake v.takes t1, records := v.records ++ [takeRec t1] }
      (List.finRange 8).foldl (fun s (n : Fin 8) =>
        if (BitVec.ofNat 8 t.slots).getLsbD n then
          let last := (t.index.filter fun e => decide (e.source = n.val) && !(BitVec.ofNat 8 e.flags).getLsbD 3).getLast?
          magEvent s 6 0x07 .degraded (ctxVol t.ident ((last.map (·.ord.toNat)).getD 0) n.val)
        else s) s) s

/-- Deferred errors held from a removal of the same VOLUME_ID join the list again (R251). -/
def rejoinHeld (s : State) : State :=
  match s.mag.vol with
  | none => s
  | some v =>
    let mine := (s.mag.held.filter fun h => decide (h.1 = v.ident)).flatMap (·.2)
    let s := modMag s fun m => { m with held := m.held.filter fun h => decide (h.1 ≠ v.ident) }
    modVol s fun v => { v with
      defs := v.defs ++ mine, records := v.records ++ mine.map deferRec,
      attachments := mine.foldl (fun a d => max a d.seq) v.attachments,
      takes := mine.foldl (fun l d => touchDeferred l d.vsa d.n) v.takes }

/-- A population that R231 allows. (DEDUCED, log 28) -/
def legalPop (m : Medium) : Bool :=
  [4, 8, 16].contains m.chans && [1, 2, 4, 8, 16].contains m.dies && decide (m.chans * m.dies ≥ 16)

/-- A rebuild has something left to relocate. -/
def rebuildLeft (s : State) : Bool := match s.mag.vol with
  | some v => v.failed.any fun d => decide (onFailed (geoOf s v) v d ≠ [])
  | none => false

/-- R234 steps 3 to 5 on what the dies hold: every die is reset and identified, the channels are set to RATE, calibrated and trained, and the volume
is recovered. A pack without a volume is READ_ONLY too while its write protection is set. (DEDUCED, log 28) -/
def mountMedium (s : State) (m : Medium) : State :=
  let sel := regField s 0xF0000 1 0
  let s := modMag s fun x => { x with chans := m.chans, dies := m.dies, rateSel := sel, serials := m.serials }
  let s := flashAll s [.reset, .readId, .uniqueId, .paramPage]
  let sb := superOf m
  let known := (sb.map superFailed).getD []
  match m.bad.find? fun d => !known.contains d with
  | some die =>
    mountFail (driveMag (dropVolume s .unusable) false false) m.chans die
  | none => if ¬ legalPop m then mountFail (driveMag (dropVolume s .unusable) false false) m.chans 0 else
    let s := modMag s fun x => { x with
      st := .mounting, planes := m.planes, bits := m.bits, blocks := m.blocks,
      total := m.total, wp := m.wp, power := min s.mag.wanted 1, lastZq := s.now }
    let s := driveMag (trainDies s) true (regBit s 0xF0000 30)
    match sb with
    | none =>
      let s := modMag s fun x => { x with st := if m.wp then .readOnly else .mounted, blank := true, vol := none }
      let s := magEvent s 1 0x02 .info ctxNone
      if m.wp then magEvent s 8 0x09 .degraded ctxNone else s
    | some b =>
      let v := recoverVol m b
      let s := modMag s fun x => { x with vol := some v, degraded := !v.failed.isEmpty }
      let pairs := (List.range 16).any fun g => decide ((v.failed.filter fun d => decide (d / 16 = g)).length ≥ 2)
      let ro := m.wp || v.superRo || pairs
      let s := rejoinHeld (recoverTakes s)
      let s := modMag s fun x => { x with st := if ro then .readOnly else .mounted, rebuild := !ro && rebuildLeft s }
      let s := magEvent s 1 0x02 .info ctxNone
      if ro then magEvent s 8 0x09 .degraded ctxNone else s

/-! ### Loss (R236, R360) -/

/-- Magazine commands in execution end: at a removal reads and writes not accepted with MEDIA_ERROR, flushes with
NOT_READY (R236); at an eject all of them with NOT_READY (R235, R360). -/
def endMagCommands (s : State) (forRemoval : Bool) : State :=
  s.hq.queues.foldl (fun s q =>
    q.2.cmds.foldl (fun s c =>
      if c.2.waiting then
        if c.2.op = 0x03 then completeSt s q.1 c.1 stNotReady
        else if c.2.op = 0x01 ∨ c.2.op = 0x02 then completeSt s q.1 c.1 (if forRemoval then stMediaError else stNotReady)
        else s
      else s) s) s

/-- Each frame or stream unit that is not durable gets one failure record MAG_LOST; its space is released (R236). -/
def loseItems (s : State) : State :=
  let s := (s.gal.items.filter fun i => i.take.isSome && i.ready && !i.isHost).foldl loseItem s
  setItems s (s.gal.items.filter fun i => !i.isHost)

/-- Accepted host writes not yet durable are attached under REMOVED and held for the volume (R236, R251). -/
def holdRemoved (s : State) : State :=
  match s.mag.vol with
  | none => s
  | some v =>
    let s := (s.mag.ops.filter fun o => !o.isTrim && !o.durable).foldl (fun s o =>
      attachDeferred s 5 3 o.vsa o.n 0 0 0 o.no) s
    match s.mag.vol with
    | none => s
    | some v1 =>
      let made := v1.defs.drop v.defs.length
      if made = [] then s else modMag s fun m => { m with held := m.held ++ [(v.ident, made)] }

/-- Open takes end with END_CAUSE REMOVED, which the device keeps for the volume's next mount; their slots leave, their stops are answered (R236).
(DEDUCED, log 28) -/
def endTakes (s : State) : State :=
  let s := match s.mag.vol with
    | none => s
    | some v =>
      let open_ := v.takes.filter fun t => decide (t.state = 0)
      let s := modMag s fun m => { m with
        cutTakes := if open_ = [] then m.cutTakes else m.cutTakes ++ [(v.ident, open_.map (·.ident))] }
      open_.foldl (fun s t =>
        s.mag.stopping.foldl (fun s w => if w.1 = t.ident then
          mbxReply s w.2.1 w.2.2 stSuccess 0 (t.index.length - takeGaps t) (takeGaps t) else s) s) s
  modMag s fun m => { m with takeSlots := [], stopping := [] }

/-- A surprise removal of a magazine that is not OFF (R236). -/
def removal (s : State) (present : Bool) : State :=
  let s := driveMag s false false
  let s := magEvent s 3 0x04 .degraded ctxNone
  let s := endMagCommands s true
  let s := loseItems (holdRemoved s)
  let s := endTakes s
  let s := match s.mag.transition with
    | some (_, some w) => mbxReply s w.1 w.2 stNotReady 0 0 0
    | _ => s
  let s := match s.mag.eject with
    | some (some w) => mbxReply s w.1 w.2 stNotReady 0 0 0
    | _ => s
  let s := dropVolume s (if present then .off else .empty)
  syncWait { s with gal := { s.gal with items := s.gal.items.map fun i => { i with take := none, unit := none } } }

end Sys2Proof.Machine
end

