-- ==== Sys2Proof/Machine/MemOps.lean ====
section
/-! DEFINITION. The GDDR6 controller (chapter 19): the address map (R434), retraining steps and windows (R437, R438), refresh (R439),
the row-hammer layers (R440, R441), link retries (R443), and what a requester of an uncorrectable granule gets (R419, R445). -/

namespace Sys2Proof.Machine
open Sys2Proof

def memReg (off : Nat) : Nat := 0x170000 + off
def chanReg (c off : Nat) : Nat := 0x171000 + 0x40 * c + off

def memRun (s : State) : Bool := regBit s (memReg 0) 31

def modChan (s : State) (c : Nat) (f : MemChan → MemChan) : State :=
  { s with mem := { s.mem with chans := vMod s.mem.chans c f } }

/-- An event of the MEM block: its record names the channel and, where a granule is concerned, its address (R451). -/
def memEvent (s : State) (i : Nat) (sev : Severity) (c addr : Nat) : State := event s .mem i (i + 1) sev (ctxMem 18 c addr) 0

/-! ### Addresses (R434) -/

/-- The parity of the low 19 bits of a number. -/
def parity19 (n : Nat) : Bool := (List.range 19).foldl (fun b i => xor b (n.testBit i)) false

/-- A select bit: its base bit of v, and the parity of v[24:6] under a mask. -/
def mapBit (s : State) (v i off : Nat) : Nat :=
  if xor (v.testBit i) (parity19 ((v / 64 % 524288) &&& (regField s off 18 0))) then 1 else 0

/-- The channel of a usable address. -/
def chanOf (s : State) (a : Nat) : Nat :=
  let q := a / 256
  let v := q / 6
  4 * (q % 6) + mapBit s v 0 (memReg 0x10) + 2 * mapBit s v 1 (memReg 0x14)

/-- The bank of a usable address. -/
def bankNo (s : State) (a : Nat) : Nat :=
  let v := a / 256 / 6
  ((List.range 4).map fun j => 2 ^ j * mapBit s v (2 + j) (memReg (0x18 + 4 * j))).sum

/-- Usable memory in bytes. -/
def usable (s : State) : Nat := regField s (memReg 0) 15 0 * 1048576

/-! ### Retraining (R437, R438) -/

/-- One retraining step of a channel, from now on: it accepts no request for 1,000 ns. -/
def stepChan (s : State) (c : Nat) : State :=
  modChan (count s (chanReg c 0x10)) c fun x => { x with lastStep := s.now, stepEnd := s.now + 1000, drift := false }

/-- A retraining window of `w` ns opens (R437). -/
def openWindow (s : State) (w : Nat) : State :=
  if w < 1000 ∨ ¬ memRun s then s
  else { s with mem := { s.mem with windows := s.mem.windows ++ [(s.now, w, w / 1000)] } }

/-- Windows that have no step left, or none that could end within them. -/
def liveWindows (now : Nat) (l : List (Nat × Nat × Nat)) : List (Nat × Nat × Nat) :=
  l.filter fun x => decide (x.2.2 > 0) && decide (now + 1000 ≤ x.1 + x.2.1)

/-- INTERVAL in ns: 100 to 10,000 ms. -/
def retrainNs (s : State) : Nat := clampNat (regField s (memReg 0x30) 15 0) 100 10000 * 1000000

/-! ### Refresh (R439) -/

/-- The interval and the refresh window of a temperature band. -/
def refreshInterval (band : Nat) : ℚ := if band ≥ 2 then 950 else 1900
def refreshWindow (band : Nat) : Nat := if band ≥ 2 then 16000000 else 32000000

/-- A refresh of a channel is owed beyond 8 intervals. -/
def owesLate (s : State) (c : Nat) : Bool := (s.mem.chans.toList[c]?).any fun x => x.owed.toList.any fun q => decide (q > 8)

/-- The refresh owed up to now, reckoned at the interval of the band in force; the row-hammer table is cleared at the end of each refresh
window (R439, R441). (DEDUCED, log 38) -/
def addOwed (s : State) (c : Nat) : State :=
  modChan s c fun x =>
    let owed := x.owed.map fun q => q + ((s.now - x.owedAt : Nat) : ℚ) / refreshInterval s.thm.band
    let w := refreshWindow s.thm.band
    let ended := (s.now - x.winAt) / w
    { x with owed := owed, owedAt := s.now, winAt := x.winAt + ended * w, table := if ended > 0 then [] else x.table }

/-- The same, with REFRESH_LATE as a channel comes to owe more than 8 intervals on a bank (R439); before training nothing is owed.
(DEDUCED, log 38) -/
def reckon (s : State) (c : Nat) : State :=
  if ¬ memRun s then s
  else
    let t := addOwed s c
    if owesLate t c ∧ ¬ owesLate s c then memEvent t 5 .degraded c 0 else t

/-- A band change at a TEMP_BAND fret: what every channel owes up to now is reckoned at the old interval (R439). -/
def bandReckon (s : State) : State := (List.range 24).foldl reckon s

/-! ### Row hammer (R440, R441) -/

def rhThresh (s : State) : Nat := clampNat (regField s (memReg 0x34) 31 16) 256 65535
def rhProb (s : State) : Nat := clampNat (regField s (memReg 0x34) 4 0) 8 20
def rhDist (s : State) : Nat := clampNat (regField s (memReg 0x34) 9 8) 1 2

/-- Rows of a bank (Table MEM-1). -/
def bankRows (s : State) : Nat := if regBit s (memReg 0) 30 then 65536 else 32768

/-- The neighbours of a row that a refresh takes, within the bank (R440). -/
def neighbours (s : State) (r : Nat) : List Nat :=
  (List.range (rhDist s)).flatMap fun i =>
    (if i < r then [r - (i + 1)] else []) ++ (if r + (i + 1) < bankRows s then [r + (i + 1)] else [])

/-- A row's neighbour refresh is triggered: counted, and it waits for a slot of the channel (R440, R441, R447). -/
def hammer (s : State) (c b r : Nat) : State :=
  modChan (count s (chanReg c 0xC)) c fun x => { x with hammer := x.hammer ++ [(b, r)] }

/-- Position of the first entry with the lowest count. -/
def lowestEntry : List (Nat × Nat × Nat) → Nat
  | l => ((l.zipIdx).foldl (fun (b : Option (Nat × Nat)) p => match b with
      | some (n, i) => if p.1.2.2 < n then some (p.1.2.2, p.2) else some (n, i)
      | none => some (p.1.2.2, p.2)) none).elim 0 (·.2)

/-- The table after an ACTIVATE of a row, and the row's count. -/
def tableHit (l : List (Nat × Nat × Nat)) (b r : Nat) : List (Nat × Nat × Nat) × Nat :=
  match l.find? fun e => decide (e.1 = b) && decide (e.2.1 = r) with
  | some e => (l.map fun x => if x.1 = b ∧ x.2.1 = r then (b, r, e.2.2 + 1) else x, e.2.2 + 1)
  | none =>
    if l.length < 512 then (l ++ [(b, r, 1)], 1)
    else
      let i := lowestEntry l
      let n := (l.getD i (0, 0, 0)).2.2 + 1
      (l.set i (b, r, n), n)

/-! ### Classes of service (R446, R447) -/

/-- The class of a requester (Table MEM-2). -/
def memClass : MemUser → MemClass
  | .plane => .realTime
  | .sensorCourse => .realTime
  | .audio => .realTime
  | .encoder => .isochronous
  | .quire => .isochronous
  | .stats => .isochronous
  | .decoder => .isochronous
  | .hostQueue => .bulk
  | .hostCourse => .bulk
  | .core => .bulk
  | .lutCopy => .bulk
  | .scrub => .bulk
  | .memTest => .bulk

/-- The column unit of a usable address (R434). -/
def memColumn (a : Nat) : Nat := a / 256 / 6 / 64 % 8

/-- The row of a usable address (R434). -/
def memRow (a : Nat) : Nat := a / 256 / 6 / 512 % 65536

/-- The arbiter's window with a further slot given, of 1,024 (R447). (DEDUCED, log 38) -/
def MemChan.giveSlot (x : MemChan) (cls : Option MemClass) : MemChan :=
  let fresh := decide (x.slots ≥ 1024)
  let old := fun (n : Nat) => if fresh then 0 else n
  { x with
    slots := old x.slots + 1,
    spare := old x.spare + (if cls = some .realTime then 0 else 1),
    bulk := old x.bulk + (if cls = some .bulk then 1 else 0) }

/-- Bulk would fall below BULK_MIN / 256 of the slots that real-time leaves, did it not get the next of them. (DEDUCED, log 38) -/
def bulkTurn (s : State) (x : MemChan) : Bool :=
  let y := x.giveSlot (some .isochronous)
  decide (y.bulk * 256 < regField s (memReg 0x40) 7 0 * y.spare)

/-- Row-hammer refreshes that wait take the slots that real-time leaves first, each row by an ACTIVATE and a PRECHARGE (R440, R447). -/
def takeHammer (s : State) (c : Nat) : State :=
  let l := ((s.mem.chans.toList[c]?).map (·.hammer)).getD []
  let s := l.foldl (fun s p => (neighbours s p.2).foldl (fun s r => emit s (.rowRefresh c p.1 r)) s) s
  modChan s c fun x => l.foldl (fun x p =>
    { x.giveSlot none with openRow := vMod x.openRow p.1 fun _ => none }) { x with hammer := [] }

/-- A request of a class has the channel's next slot (R447). -/
def granted (s : State) (x : MemChan) (cls : MemClass) (w : MemWait) : Bool := match cls with
  | .realTime => true
  | .isochronous => !w.realTime && !(w.bulk && bulkTurn s x)
  | .bulk => !w.realTime && (!w.isochronous || bulkTurn s x)

/-- A request is the oldest of its class, or goes to an open row past at most 16 older ones (R447). -/
def inTurn (x : MemChan) (b r : Nat) (w : MemWait) : Bool :=
  decide (w.older = 0) || (decide (w.older ≤ 16) && decide (x.openRow.toList[b]? = some (some r)))

/-- The channel of an address takes requests to its bank: no retraining step keeps it, and no refresh owed for 8 intervals comes first
(R437, R439). (DEDUCED, log 38) -/
def takesRequests (s : State) (x : MemChan) (b : Nat) : Bool :=
  decide (x.stepEnd ≤ s.now) && x.owed.toList[b]?.all fun q => decide (q < 8)

/-- A request at its slot: served by `f` where the arbiter gives it the slot; it waits otherwise (R446, R447). A slot that finds no real-time
request takes the step that a phase drift asks for (R438). -/
def arbitrate (s : State) (a : Nat) (u : MemUser) (w : MemWait) (f : State → State) : State :=
  let c := chanOf s a
  let b := bankNo s a
  let s := reckon s c
  let quiet := decide (memClass u ≠ .realTime) && !w.realTime
  let s := if quiet then takeHammer s c else s
  let s := if quiet ∧ (s.mem.chans.toList[c]?).any (·.drift) then stepChan s c else s
  match s.mem.chans.toList[c]? with
  | none => s
  | some x =>
    if takesRequests s x b && granted s x (memClass u) w && inTurn x b (memRow a) w then
      f (modChan s c fun x => { x.giveSlot (some (memClass u)) with openRow := vMod x.openRow b fun _ => some (memRow a) })
    else s

/-! ### Errors (R443 to R445) -/

/-- An uncorrectable error delivered to a requester (R419, R445). -/
def deliver (s : State) (who : Option Client) : State :=
  match who with
  | none => s
  | some c => match c with
    | .plane h q line => { s with dsp := { s.dsp with heads := vMod s.dsp.heads h fun x =>
        { x with planes := vMod x.planes q fun pl => { pl with clear := line :: pl.clear } } } }
    | .galley i => modItem s i fun g => { g with corrupt := true }
    | .encSource e k => encFetchError s e k false
    | .encRef e k => encFetchError s e k true
    | c => { s with fetchBad := c :: s.fetchBad }

/-- An uncorrectable granule: counted, reported and delivered (R445). -/
def uncorrectable (s : State) (a : Nat) (who : Option Client) : State :=
  let c := chanOf s a
  deliver (memEvent (count s (chanReg c 4)) 3 .degraded c (a / 64 * 64)) who

/-- A granule's check bytes become a poison code, or good again. (DEDUCED, log 38) -/
def setPoison (s : State) (a : Nat) (bad : Bool) : State :=
  let l := s.mem.poison.filter fun g => decide (g ≠ a / 64)
  { s with mem := { s.mem with poison := if bad then (a / 64) :: l else l } }

/-- (DEDUCED, log 38) -/
def isPoison (s : State) (a : Nat) : Bool := s.mem.poison.contains (a / 64)

/-- A request whose link CRC has failed so many times (R443): at most three retries, then a retraining step and one more attempt; whether
that fails too. -/
def retries (s : State) (a fails : Nat) : State × Bool :=
  let c := chanOf s a
  let s := countN s (chanReg c 8) (min fails 3)
  let s := if fails ≥ 4 then stepChan s c else s
  if fails ≥ 5 then (memEvent s 2 .degraded c (a / 64 * 64), true) else (s, false)

end Sys2Proof.Machine
end

