-- ==== Sys2Proof/Machine/MgtOps.lean ====
section
/-! DEFINITION. Colophon (R460 to R470): the persistent event log, firmware images and slots, the restart of its processor, and the
data windows. -/

namespace Sys2Proof.Machine
open Sys2Proof

def modMgt (s : State) (f : MgtBlk → MgtBlk) : State := { s with mgt := f s.mgt }
def mgtReg (off : Nat) : Nat := 0x1C0000 + off

/-- An event of the MGT block (R469). While the core is off there is no interrupt controller and no record. -/
def mgtEvent (s : State) (i : Nat) (sev : Severity) : State :=
  if s.live then event s .mgt i (i + 1) sev ctxNone 0
  else regSet s (mgtReg 0x40) (setBit (regGet s (mgtReg 0x40)) i)

/-! ### The log (R460, R461) -/

/-- A log entry as it stands in the flash (Table THM-5). -/
def LogEnt.bytes (e : LogEnt) : List Byte :=
  let b := [BitVec.ofNat 8 e.ty, 1, 0, 0] ++ leBytes 4 e.seq ++ leBytes 4 e.boot ++ leBytes 4 e.uptime ++ padTo 44 e.payload
  b ++ leBytes 4 (crc32 b)

/-- An entry read back: none when it is torn (R460). -/
def logFrom (l : List Byte) : Option LogEnt :=
  if l.length = 64 ∧ leAt l 60 4 = crc32 (l.take 60) then
    some { ty := leAt l 0 1, seq := leAt l 4 4, boot := leAt l 8 4, uptime := leAt l 12 4, payload := (l.drop 16).take 44 }
  else none

/-- How many entries the ring of nine sectors keeps when the newest has this number: eight full sectors and what the ninth holds. (DEDUCED, log 40) -/
def logKept (seq : Nat) : Nat := 8192 + seq % 1024

/-- An entry written to the log (R460). -/
def putLogAt (s : State) (ty up : Nat) (payload : List Byte) : State :=
  let seq := s.mgt.logSeq + 1
  let e : LogEnt := { ty := ty, seq := seq, boot := s.mgt.bootCount, uptime := up, payload := payload }
  let l := s.mgt.log ++ [e]
  modMgt s fun m => { m with log := l.drop (l.length - logKept seq), logSeq := seq }

/-- Milliseconds since this boot's core power-on. -/
def uptime (s : State) (at_ : Nat) : Nat := (at_ - s.mgt.powerAt) / 1000000 % 2 ^ 32

/-- (DEDUCED, log 40) -/
def putLog (s : State) (ty : Nat) (payload : List Byte) : State := putLogAt s ty (uptime s s.now) payload

/-- An entry that Colophon writes now, or once its processor runs again. (DEDUCED, log 40) -/
def addLog (s : State) (ty : Nat) (payload : List Byte) : State :=
  if s.mgt.restart.isSome then modMgt s fun m => { m with waiting := m.waiting ++ [(ty, payload)] } else putLog s ty payload

/-- An ERROR entry of Colophon itself (R472, R475): the spec states no record for it, so its bytes are free. -/
def addErrorLog (s : State) : State :=
  let (l, s) := freeBytes s 32
  addLog s 0x01 l

/-! ### Restart of the processor (R470) -/

/-- The restart ends once its time is over: entries that waited are written, THERMAL_SHUTDOWN ahead of the rest (R457), and
COLOPHON_RESTART. -/
def endRestart (s : State) : State :=
  match s.mgt.restart with
  | none => s
  | some (til, cause) =>
    if s.now < til then s
    else
      let (hot, rest) := s.mgt.waiting.partition fun e => decide (e.1 = 0x03)
      let lost := s.mgt.lost
      let s := modMgt s fun m => { m with restart := none, waiting := [], lost := 0, fifo := 0 }
      let s := hot.foldl (fun s e => putLog s e.1 e.2) s
      let s := putLog s 0x07 ([BitVec.ofNat 8 cause, 0, 0, 0] ++ leBytes 4 lost)
      rest.foldl (fun s e => putLog s e.1 e.2) s

/-- Colophon's processor serves: its firmware runs and does not restart. -/
def colServes (s : State) : Bool := s.sys.aon && !s.mgt.dead && s.mgt.restart.isNone

/-- The two MCTP bindings: SMBus, and the PCIe VDM while the PF's link is up (R464). -/
def mctpPath (s : State) (pcie : Bool) : Bool := !pcie || (s.live && s.sys.pcieUp)

/-- What Colophon's firmware does on a command: nothing while it does not run. (DEDUCED, log 4) -/
def inCol (s : State) (f : State → State) : Host.Outcome State Fault Refusal :=
  inAon s fun s =>
    let s := endRestart s
    if colServes s then f s else s

/-- An image transfer is open on some path (R465). -/
def transferOpen (s : State) : Bool := s.mgt.wins.toList.any (fun w => decide (w.op = 2)) || s.mgt.pldm.isSome

/-- An open image transfer is aborted (R470). -/
def abortTransfers (s : State) : State :=
  let wins := s.mgt.wins.map fun w => if w.op = 2 then { w with op := 0, state := 0, data := [] } else w
  modMgt s fun m => { m with wins := wins, pldm := none }

/-- The processor restarts from its active slot, within 200 ms (R470). (DEDUCED, log 40) -/
def startRestart (s : State) (cause : Nat) : State :=
  let (k, s) := freeNat s
  let s := modMgt (abortTransfers s) fun m => { m with restart := some (s.now + k % 200000001, cause), fifo := 0, lost := 0 }
  mgtEvent s 2 .degraded

/-! ### Records (R418) -/

def Severity.rank : Severity → Nat
  | .fatal => 3
  | .itemFailed => 2
  | .degraded => 1
  | .info => 0

/-- A record put before those of lower priority, and of the same priority with a later SEQ. -/
def insertRec (r : ErrRec) : List ErrRec → List ErrRec
  | [] => [r]
  | x :: l =>
    if x.sev.rank < r.sev.rank ∨ (x.sev.rank = r.sev.rank ∧ later x.seq r.seq = true) then r :: x :: l
    else x :: insertRec r l

/-- Occurrences counted by pair. -/
def tallyPair (l : List ((Nat × Nat) × Nat)) (p : Nat × Nat) (n : Nat) : List ((Nat × Nat) × Nat) :=
  if l.any fun x => decide (x.1 = p) then l.map fun x => if x.1 = p then (p, x.2 + n) else x else l ++ [(p, n)]

def tallyRecs (l : List ((Nat × Nat) × Nat)) (rs : List ErrRec) : List ((Nat × Nat) × Nat) :=
  rs.foldl (fun l r => tallyPair l (r.block, r.code) 1) l

/-- A SUMMARY payload. (DEDUCED, log 40) -/
def summary (block code n up : Nat) : List Byte :=
  [BitVec.ofNat 8 block, BitVec.ofNat 8 code, 0, 0] ++ leBytes 4 n ++ leBytes 4 up

/-- One second of Colophon time ends (R418, R461). -/
def logSecond (s : State) : State :=
  let start := s.mgt.secondAt
  let fresh := (s.mgt.incoming.filter fun c => !c.merged).map (·.err)
  let merged := (s.mgt.incoming.filter fun c => c.merged).map (·.err)
  let sorted := fresh.foldl (fun l r => insertRec r l) []
  let s := (sorted.take 16).foldl (fun s r => putLog s 0x01 (errBytes r)) s
  let carry := tallyRecs s.mgt.carry merged
  let s := modMgt s fun m => { m with incoming := [], secondAt := s.now, carry := carry }
  if fresh.length ≤ 16 then s
  else
    let all := tallyRecs carry (sorted.drop 16)
    let up := uptime s start
    let s := (all.take 64).foldl (fun s x => putLog s 0x02 (summary x.1.1 x.1.2 x.2 up)) s
    let rest := ((all.drop 64).map (·.2)).sum
    let s := if all.length > 64 then putLog s 0x02 (summary 0xFF 0 rest up) else s
    modMgt s fun m => { m with carry := [] }

/-! ### Firmware images (R466 to R468) -/

def imgComp (l : List Byte) : Nat := leAt l 4 2
def imgSvn (l : List Byte) : Nat := leAt l 7 1
def imgVersion (l : List Byte) : Nat := leAt l 8 4
def imgLength (l : List Byte) : Nat := leAt l 12 4

/-- LENGTH's limit of a component: 1 Colophon, 2 Fjarera. -/
def imgLimit (comp : Nat) : Nat := if comp = 1 then 393216 else 16777216

/-- The component's fuse counter. -/
def fuseOf (s : State) (comp : Nat) : Nat := s.mgt.fuses.toList.getD (comp - 1) 0

/-- An image as R466 lays it out for a component. -/
def imgForm (comp : Nat) (l : List Byte) : Bool :=
  decide (l.take 4 = [0x54#8, 0x46#8, 0x57#8, 0x31#8]) && decide (imgComp l = comp) && decide (leAt l 6 1 ≤ 3)
    && decide (imgSvn l ≤ 63) && allZero ((l.drop 16).take 48) && allZero ((l.drop 0x101).take 255)
    && decide (512 + imgLength l ≤ l.length)

/-- Colophon accepts an image (R467). -/
def imgAccepted (s : State) (comp : Nat) (l : List Byte) : Bool :=
  imgForm comp l && decide (imgLength l ≤ imgLimit comp) && decide (fuseOf s comp ≤ imgSvn l)
    && Config.imageSigned (l.take (512 + imgLength l))

/-- The slot of a component that is marked active, A when none is. -/
def activeSlot (s : State) (comp : Nat) : Nat :=
  if ((s.mgt.slots.toList[2 * (comp - 1) + 1]?).map (·.active)).getD false then 1 else 0

def slotIdx (comp k : Nat) : Nat := 2 * (comp - 1) + k

def slotAt (s : State) (comp k : Nat) : FwSlot :=
  s.mgt.slots.toList.getD (slotIdx comp k)
    { image := [], valid := false, active := false, pending := false, starts := 0, healthy := false }

def modSlot (s : State) (comp k : Nat) (f : FwSlot → FwSlot) : State :=
  modMgt s fun m => { m with slots := vMod m.slots (slotIdx comp k) f }

/-- FW_UPDATE (Table THM-6). -/
def fwLog (s : State) (comp outcome : Nat) (l : List Byte) : State :=
  addLog s 0x06 (leBytes 2 comp ++ [BitVec.ofNat 8 (imgSvn l), BitVec.ofNat 8 outcome] ++ leBytes 4 (imgVersion l))

/-- An image that has come by some path is checked: written to the inactive slot and marked valid, or the slot left invalid (R467). -/
def takeImage (s : State) (comp : Nat) (l : List Byte) : State × Bool :=
  let k := 1 - activeSlot s comp
  if (comp = 1 ∨ comp = 2) ∧ imgAccepted s comp l = true then
    let s := modSlot s comp k fun x => { x with image := l, valid := true, pending := false, starts := 0, healthy := false }
    (mgtEvent (fwLog s comp 0 l) 0 .info, true)
  else
    let s := if comp = 1 ∨ comp = 2 then modSlot s comp k fun x => { x with valid := false, pending := false } else s
    (mgtEvent (fwLog s comp 1 l) 1 .degraded, false)

/-- The active mark moves to a slot. -/
def markActive (s : State) (comp k : Nat) : State :=
  modSlot (modSlot s comp k fun x => { x with active := true, pending := false }) comp (1 - k) fun x =>
    { x with active := false, pending := false }

/-- A start of an image that has not yet been healthy: one of its three (R468). -/
def noteStart (s : State) (comp k : Nat) : State :=
  let s := modMgt s fun m => { m with booted := vMod m.booted (comp - 1) fun _ => k }
  if (slotAt s comp k).healthy then s
  else
    let s := modSlot s comp k fun x => { x with starts := x.starts + 1 }
    modMgt s fun m => { m with health := vMod m.health (comp - 1) fun _ => some s.now }

/-- An image in the inactive slot is activated (R468). -/
def activateSlot (s : State) (comp k : Nat) : State :=
  let s := modSlot s comp k fun x => { x with starts := 0, healthy := false }
  noteStart (fwLog (markActive s comp k) comp 2 (slotAt s comp k).image) comp k

/-- A slot passes its check at start. -/
def slotPasses (s : State) (comp k : Nat) : Bool := imgAccepted s comp (slotAt s comp k).image

/-- The slot that a component boots from (R473, R476): a pending image becomes active first (R468); the other slot when the check fails. -/
def bootSlot (s : State) (comp : Nat) (alt : Bool) : State × Option Nat :=
  let other := 1 - activeSlot s comp
  let s := if (slotAt s comp other).pending then
      markActive (modSlot s comp other fun x => { x with starts := 0, healthy := false }) comp other
    else s
  let k := if alt then 1 - activeSlot s comp else activeSlot s comp
  if slotPasses s comp k then (noteStart s comp k, some k)
  else
    let img := (slotAt s comp k).image
    let s := fwLog (modSlot s comp k fun x => { x with valid := false }) comp 3 img
    if slotPasses s comp (1 - k) then (noteStart (if alt then s else markActive s comp (1 - k)) comp (1 - k), some (1 - k))
    else (s, none)

/-- An image on trial has been healthy: its start count ends, and at its first healthy start the fuse counter rises to its SVN (R468). -/
def imageHealthy (s : State) (comp : Nat) : State :=
  let k := s.mgt.booted.toList.getD (comp - 1) 0
  let svn := imgSvn (slotAt s comp k).image
  let s := modSlot s comp k fun x => { x with starts := 0, healthy := true }
  modMgt s fun m => { m with
    health := vMod m.health (comp - 1) fun _ => none, fuses := vMod m.fuses (comp - 1) fun f => max f svn }

/-- A start of an image on trial has failed: another start, or after three the other slot (R468). (DEDUCED, log 40) -/
def imageUnhealthy (s : State) (comp : Nat) : State :=
  let k := s.mgt.booted.toList.getD (comp - 1) 0
  let x := slotAt s comp k
  let s := modMgt s fun m => { m with health := vMod m.health (comp - 1) fun _ => none }
  let s := if x.starts < 3 then noteStart s comp k
    else noteStart (fwLog (markActive s comp (1 - k)) comp 3 x.image) comp (1 - k)
  if comp = 1 then startRestart s 0 else s

/-! ### Views (Tables MGT-1, THM-7) -/

/-- MGT.SLOTS. -/
def slotsWord (s : State) : Word :=
  packFields ((s.mgt.slots.toList.zipIdx.map fun p =>
    (8 * p.2, (if p.1.valid then 128 else 0) + (if p.1.active then 64 else 0) + if p.1.pending then 32 else 0)))

def winOf : Party → Fin 3
  | .smbus => 1
  | .i3c => 2
  | _ => 0

def modWin (s : State) (w : Fin 3) (f : DwWin → DwWin) : State := modMgt s fun m => { m with wins := vMod m.wins w f }

/-- MGT.DW_STATUS of a window. -/
def dwStatus (x : DwWin) : Word := packFields [(30, x.state), (24, x.code), (0, x.moved % 16777216)]

/-! ### The data window (R465) -/

/-- A refused access: counted, and STATE 3 with its code. -/
def dwRefuse (s : State) (w : Fin 3) (code : Nat) : State :=
  modWin s w fun x => { x with state := 3, code := code, refused := min 0xFFFFFFFF (x.refused + 1) }

/-- The window's operation ends. -/
def dwIdle (s : State) (w : Fin 3) : State := modWin s w fun x => { x with state := 0, code := 0, op := 0, data := [] }

/-- The oldest retained entry's LOG_SEQ. -/
def oldestLog (s : State) : Nat := ((s.mgt.log.head?).map (·.seq)).getD (s.mgt.logSeq + 1)

/-- GO with OP 1 (READ_LOG). (DEDUCED, log 40) -/
def dwReadLog (s : State) (w : Fin 3) : State :=
  modWin s w fun x => { x with
    state := 2, code := 0, op := 1, data := [], moved := 0, first := max x.arg.toNat (oldestLog s) }

/-- GO with OP 2 (WRITE_IMAGE): refused while an image transfer is open on another path. -/
def dwWriteImage (s : State) (w : Fin 3) : State :=
  let elsewhere : Bool := ((List.finRange 3).any fun (k : Fin 3) => decide (k ≠ w) && decide ((s.mgt.wins[k]).op = 2))
    || s.mgt.pldm.isSome
  if elsewhere then dwRefuse s w 3
  else modWin s w fun x => { x with state := 2, code := 0, op := 2, data := [], moved := 0 }

/-- GO with OP 3 (FINISH): the image is closed and verified. The outcome is in the events and the log; the spec gives the window no code
for a failed check. (DEDUCED, log 40) -/
def dwFinish (s : State) (w : Fin 3) : State :=
  let x := s.mgt.wins[w]
  if x.op = 2 then (takeImage (dwIdle s w) (field x.arg 15 0) x.data).1 else s

/-- A GO of a window with an operation: refused while STATE is 1. -/
def dwGo (s : State) (w : Fin 3) (op : Nat) : State :=
  if (s.mgt.wins[w]).state = 1 then dwRefuse s w 1
  else match op with
  | 1 => dwReadLog s w
  | 2 => dwWriteImage s w
  | 3 => dwFinish s w
  | 4 => dwIdle s w
  | _ => s

/-- A write of MGT.DW_CMD; without GO it does nothing. -/
def dwCmd (s : State) (w : Fin 3) (v : Word) : State := if bit v 31 then dwGo s w (field v 27 24) else s

/-- A write of MGT.DW_DATA: the next word of an image. -/
def dwWrite (s : State) (w : Fin 3) (v : Word) : State :=
  match (s.mgt.wins[w]).op with
  | 2 => modWin s w fun x => { x with data := x.data ++ leBytes 4 v.toNat, moved := x.moved + 1 }
  | 1 => dwRefuse s w 2
  | _ => s

/-- A read of MGT.DW_DATA: the next word of the log. A word that the log does not hold is a free value. -/
def dwRead (s : State) (w : Fin 3) : Word × State :=
  let x := s.mgt.wins[w]
  match x.op with
  | 1 =>
    match s.mgt.log.find? fun e => decide (e.seq = x.first + x.moved / 16) with
    | some e =>
      (BitVec.ofNat 32 (leAt e.bytes (4 * (x.moved % 16)) 4), modWin s w fun x => { x with moved := x.moved + 1 })
    | none => if x.first + x.moved / 16 ≤ s.mgt.logSeq then
        let (v, s) := freeWord s
        (v, modWin s w fun x => { x with moved := x.moved + 1 })
      else freeWord s
  | 2 => (0, dwRefuse s w 2)
  | _ => (0, s)

end Sys2Proof.Machine
end

