-- ==== Sys2Proof/Machine/ThmOps.lean ====
section
/-! DEFINITION. The comparators of domain 49 (R452 to R459): sensors and monitors, thermal conditions, bands, and shutdown. Values are
in 1/16 °C and rates in 1/16 °C/s. -/

namespace Sys2Proof.Machine
open Sys2Proof

def thmReg (off : Nat) : Nat := 0x1B0000 + off
def modThm (s : State) (f : ThmBlk → ThmBlk) : State := { s with thm := f s.thm }

/-- A PlatformEventMessage to the receiver that SetEventReceiver named (R464); its bytes follow the receiver's address. -/
def platformEvent (s : State) (i : Nat) : State :=
  match s.mgt.receiver with
  | some (p, a) => if colServes s ∧ mctpPath s (decide (p = .pf)) then emit s (.sideband p (a ++ [BitVec.ofNat 8 i])) else s
  | none => s

/-- An event of the THM block (R469), with its PLDM message where it has one. -/
def thmEvent (s : State) (i : Nat) (sev : Severity) : State :=
  let s := if s.live then event s .thm i (i + 1) sev ctxNone 0
    else regSet s (thmReg 0x40) (setBit (regGet s (thmReg 0x40)) i)
  if i = 0 ∨ i = 1 ∨ i = 3 then platformEvent s i else s

/-- An interval of domain 49 has passed: its length holds to ±5 % while the crystal is lost (Table SYS-25). -/
def aonDue (s : State) (since ns : Nat) : Bool :=
  decide (s.now ≥ since + if (s.sys.clocks[0]).lost then ns * 100 / 105 else ns)

/-! ### Values -/

/-- A conversion that failed or that reads outside −55 to 150 °C (R452). -/
def badReading : Option Int → Bool
  | none => true
  | some t => decide (t < -880) || decide (t > 2400)

/-- The value of the newest conversion at or before the `k`th newest. -/
def tempAt (x : Sensor) (k : Nat) : Option Int := (x.hist.drop k).findSome? id

/-- The rate of a sensor over 100 ms (R454). (DEDUCED, log 39) -/
def rateOfSensor (x : Sensor) : Option Int :=
  if x.hist.length < 101 then none
  else match tempAt x 0, tempAt x 100 with
  | some a, some b => some ((a - b) * 10)
  | _, _ => none

/-- The highest current value over the sensors that are not excluded, with its sensor (R452). (DEDUCED, log 39) -/
def hottest (s : State) : Option (Nat × Int) :=
  (List.finRange 28).foldl (fun (b : Option (Nat × Int)) (i : Fin 28) =>
    let x := s.thm.sensors[i]
    if x.excluded then b
    else match tempAt x 0, b with
    | some t, some (j, m) => if t > m then some (i.val, t) else some (j, m)
    | some t, none => some (i.val, t)
    | none, b => b) none

/-- The band of a temperature (R455). -/
def bandOf (t : Int) : Nat := if t < 0 then 0 else if t < 1360 then 1 else if t ≤ 1600 then 2 else 3

/-- The lower bound of a band. -/
def bandLow : Nat → Int
  | 1 => 0
  | 2 => 1360
  | _ => 1600

/-- The measured band after two consecutive values of TMAX (R455). (DEDUCED, log 39) -/
def nextBand (b : Nat) (t0 t1 : Int) : Nat :=
  if bandOf t0 > b ∧ bandOf t1 > b then min (bandOf t0) (bandOf t1)
  else if b > 0 ∧ t0 ≤ bandLow b - 48 ∧ t1 ≤ bandLow b - 48 then max (bandOf t0) (bandOf t1)
  else b

/-! ### Bands (R60, R455) -/

/-- Frames whose exposure has still to start carry the new band (R23). -/
def bandFrames (s : State) (b : Nat) : State :=
  let mark := fun (f : Frame) =>
    let fr := f.fr
    if s.now < f.expAt then { f with fr := { fr with tempBand := b } } else f
  { s with ing := { s.ing with frames := s.ing.frames.map fun l => l.map mark } }

/-- The measured band is applied. Refreshes owed up to now are reckoned at the old interval (R439), and the magazine's channels are trained again
(Table MAG-1). -/
def applyBand (s : State) : State :=
  let s := modThm s fun t => { t with bandWaits := false }
  if s.thm.band = s.thm.measured then s
  else
    let s := if s.live then bandReckon s else s
    let s := thmEvent (bandFrames (modThm s fun t => { t with band := t.measured }) s.thm.measured) 2 .info
    if diesActive s then flashAll s [.train] else s

/-- Some slot is unmasked: a band change waits for its fret (R60). -/
def anyUnmasked (s : State) : Bool := (List.range 8).any fun n => unmasked s n

/-- A change of the measured band: held pending, or applied at once when no slot is unmasked (R60). -/
def measureBand (s : State) (b : Nat) : State :=
  if b = s.thm.measured then s
  else
    let s := modThm s fun t => { t with measured := b, bandWaits := true }
    if s.live ∧ anyUnmasked s then s else applyBand s

/-! ### Shutdown (R457) -/

/-- A shutdown condition sets: the latch, SYS_THERM_N, the quire as in a power failure, and the log entry. A condition that is met while
core power is off, or while a shutdown runs, acts no more. (DEDUCED, log 39) -/
def shutdown (s : State) (cause sensor : Nat) : State :=
  if s.thm.shutAt.isSome ∨ s.sys.pwrEn = false then s
  else
    let x := s.thm.sensors.toList.getD sensor { hist := [], excluded := false, fast := 0 }
    let temp := unsigned 16 ((tempAt x 0).getD 0)
    let (rate, s) := match rateOfSensor x with
      | some r => (unsigned 16 r, s)
      | none => let (k, s) := freeNat s; (k % 65536, s)
    let l0 := packFields [(31, 1), (28, cause), (23, sensor), (0, temp)]
    let l1 := packFields [(16, rate), (0, s.mgt.bootCount % 65536)]
    let s := emit (regSet (regSet s (thmReg 4) l0) (thmReg 8) l1) (.pin .sysThermN false)
    let s := if s.live then magEvent (modMag s fun m => { m with pwrFail := true }) 5 0x06 .degraded ctxNone else s
    let tmax := unsigned 16 (((hottest s).map (·.2)).getD 0)
    let s := addLog s 0x03 (leBytes 4 l0.toNat ++ leBytes 4 l1.toNat ++ leBytes 4 (ptpNs (ptpTime s)) ++ leBytes 6 (ptpSec (ptpTime s))
      ++ leBytes 2 tmax)
    modThm s fun t => { t with shutAt := some s.now }

/-! ### Conversions (R452, R454) -/

/-- One conversion of a sensor. -/
def convert (s : State) (i : Fin 28) (v : Option Int) : State :=
  let old := s.thm.sensors[i]
  let twice : Bool := badReading v && (match old.hist with
    | x :: _ => badReading x
    | [] => false)
  let fails : Bool := twice && !old.excluded
  let s := modThm s fun t => { t with sensors := vMod t.sensors i fun x =>
    { x with hist := (v :: x.hist).take 101, excluded := x.excluded || fails } }
  let s := match v with
    | none => s
    | some t =>
      let top := thmReg (0x104 + 8 * i.val)
      let s := regSet s (thmReg (0x100 + 8 * i.val)) (BitVec.ofNat 32 (unsigned 16 t))
      if t > signed 16 (regGet s top).toNat then regSet s top (BitVec.ofNat 32 (unsigned 16 t)) else s
  if fails then thmEvent (regSet s (thmReg 0xC) (setBit (regGet s (thmReg 0xC)) i)) 4 .degraded else s

/-- The conditions on two consecutive values of TMAX, the older first (Table THM-3, R455). -/
def tempConditions (s : State) (t0 t1 : Int) : State :=
  let s := if t0 > 1600 ∧ t1 > 1600 ∧ s.thm.warn = false then thmEvent (modThm s fun t => { t with warn := true }) 0 .degraded
    else if t0 < 1552 ∧ t1 < 1552 then modThm s fun t => { t with warn := false } else s
  let s := measureBand s (nextBand s.thm.measured t0 t1)
  if t0 > 2000 ∧ t1 > 2000 then shutdown s 1 (((hottest s).map (·.1)).getD 0) else s

/-- The 1 ms conversions of all sensors. -/
def conversions (s : State) (v : Vector (Option Int) 28) : State :=
  let s := modThm s fun t => { t with convAt := s.now }
  let s := (List.finRange 28).foldl (fun s (i : Fin 28) => convert s i v[i]) s
  let cool : Bool := (v[27]).any fun t => decide (t < 1440)
  let since : Option Nat := if cool = true then some (s.thm.coolSince.getD s.now) else none
  let s := modThm s fun t => { t with coolSince := since }
  let s : State := match hottest s with
    | none => s
    | some (_, t1) =>
      let s0 := modThm s fun t => { t with lastMax := some t1 }
      match s.thm.lastMax with
      | some t0 => tempConditions s0 t0 t1
      | none => s0
  if (s.thm.sensors.toList.filter fun x => x.excluded).length > 8 then shutdown s 3 0 else s

/-- The rates of the sensors that are not excluded (R454). -/
def rates (s : State) : State :=
  let s := modThm s fun t => { t with rateAt := s.now }
  let quick := fun (x : Sensor) => !x.excluded && (rateOfSensor x).any fun r => decide (r > 320)
  let s := modThm s fun t => { t with sensors := t.sensors.map fun x => { x with fast := if quick x then x.fast + 1 else 0 } }
  let live := s.thm.sensors.toList.filter fun x => !x.excluded
  let above := fun (lim : Int) => live.any fun x => (rateOfSensor x).any fun r => decide (r > lim)
  let s := if above 80 ∧ s.thm.rateWarn = false then thmEvent (modThm s fun t => { t with rateWarn := true, calmSince := none }) 1 .degraded
    else s
  let s := if above 64 then modThm s fun t => { t with calmSince := none }
    else match s.thm.calmSince with
    | none => modThm s fun t => { t with calmSince := some s.now }
    | some t0 => if aonDue s t0 1000000000 then modThm s fun t => { t with rateWarn := false } else s
  match (List.finRange 28).find? fun (i : Fin 28) => decide ((s.thm.sensors[i]).fast ≥ 2) with
  | some i => shutdown s 2 i
  | none => s

/-! ### Supplies (R453) -/

/-- A sample of a monitor. -/
def supplySample (s : State) (m : Fin 14) (v : Nat) : State :=
  let s := modThm s fun t => { t with sampleAt := vMod t.sampleAt m fun _ => s.now }
  let top := thmReg (0x204 + 8 * m.val)
  let s := regSet s (thmReg (0x200 + 8 * m.val)) (BitVec.ofNat 32 v)
  let s := if v > (regGet s top).toNat then regSet s top (BitVec.ofNat 32 v) else s
  let lim := regGet s (thmReg (0x300 + 4 * m.val))
  let out : Bool := decide (v > field lim 31 16) || (decide (field lim 15 0 ≠ 0) && decide (v < field lim 15 0))
  let x := s.thm.monitors[m]
  let put := fun (s : State) (x : Monitor) => modThm s fun t => { t with monitors := t.monitors.set m x }
  if out then
    let s := put s { x with outRun := x.outRun + 1, okSince := none, warned := x.warned || decide (x.outRun ≥ 1) }
    if x.outRun ≥ 1 ∧ x.warned = false then thmEvent s 3 .degraded else s
  else
    let since := x.okSince.getD s.now
    put s { x with outRun := 0, okSince := some since, warned := x.warned && !aonDue s since 1000000000 }

/-- THM.STATE (Table THM-7). -/
def thmState (s : State) : Word :=
  packFields [(30, s.thm.band), (28, s.thm.measured), (27, if s.thm.warn then 1 else 0), (26, if s.thm.rateWarn then 1 else 0),
    (0, unsigned 16 (s.thm.lastMax.getD 0))]

end Sys2Proof.Machine
end

