-- ==== Sys2Proof/Machine/ApplyOps.lean ====
section
/-! DEFINITION. Frame boundaries and the apply strobe: what applies, and what each block does as its fields change (R19, R59, R60, R77, R78,
R83, R84; Table FRM-9). -/

namespace Sys2Proof.Machine
open Sys2Proof

/-! ### Host-job frames on courses (R19, R365) -/

/-- A host-job frame is on a course. -/
def hostFrameOn (s : State) (c : Nat) : Bool :=
  s.hq.queues.any fun q => q.2.cmds.any fun x => x.2.job.any fun j => decide (j.course = some c)

/-- (DEDUCED, log 18) -/
def hostFrameAny (s : State) : Bool := (List.range 4).any (hostFrameOn s)

/-! ### What changes with the registers -/

/-- An input's STATE and VALID_RUN, and its mean of the last 8 valid periods, as the registers show them (Table REF-5). -/
def showInput (s : State) (i : Fin 3) : State :=
  let r := s.ref.inputs[i]
  let s := regSet s (inStateReg i.val) (packFields [(30, r.st.code), (29, if r.offRate then 1 else 0), (0, min 255 r.run)])
  match measured r with
  | some m => regSet s (measPeriodReg i.val) (BitVec.ofNat 32 (roundHalfUp m))
  | none => s

/-- Reference inputs: enabled ones seek, disabled ones stop; a forme that rewrites a rate's fields clears OFF_RATE (R43, R45). (DEDUCED, log 19; DEDUCED, log 20) -/
def latchInput (old s : State) (i : Fin 3) : State :=
  let was := regBit old (filtReg i.val) 31
  let now_ := regBit s (filtReg i.val) 31
  let fresh := fun (r : RefIn) => { r with
    st := if now_ then .seeking else .disabled, offRate := false, afterLoss := false, lastEdge := none, seek := [], run := 0,
    since := s.now, inForce := none }
  if was ≠ now_ then showInput (modInput s i fresh) i
  else if regGet old (filtReg i.val) ≠ regGet s (filtReg i.val) ∨ regGet old (expPeriodReg i.val) ≠ regGet s (expPeriodReg i.val) then
    showInput (modInput s i fun r => { r with offRate := false }) i
  else s

/-- A slot being unmasked starts with its first cadence instant at or after 200,000 ns from now; the exposure messages of its first frames
go out at once (R80, R84). (DEDUCED, log 18) -/
def unmaskSlot (s : State) (n : Fin 8) : State :=
  let src := sourceNow s n
  let s := modCad s n fun c => { c with
    on := true, notBefore := s.now + 200000, boundary := c.boundary || decide (c.issued = 0), st := startSt s src false, hold := none, err := 0, align := none,
    edges := 0, missed := false, ptpAxis := decide (src = 1), next := none,
    fixed := c.fixed.filter fun x => decide (x.ord < c.issued) || c.sent.any fun e => decide (e.ord = x.ord) }
  let s := modCad s n fun c => { c with lastPeriod := (c.fixed.getLast?.map (·.period)).orElse fun _ => c.lastPeriod }
  let s := takeDelay (modCad s n fun c => { c with next := firstInstant s n }) n
  let s := modRfe s n fun x => { x with blackH := none, blackL := none }
  let s := { s with clr := vMod s.clr n.val fun x => { x with prev := none } }
  let s := modGov s n fun g => { g with prev := none }
  headsRegain (sendFirstExposures (max 1 (latency s n.val)) s n (s.ref.slots[n]).issued) 3 n.val

/-- A slot being masked has no further frame start issued (R84); heads that follow it lose their reference (R292). -/
def maskSlot (s : State) (n : Fin 8) : State :=
  slotLatched (headsLose (modCad s n fun c => { c with on := false, next := none, st := .idle, hold := none }) 3 n.val) n none

def latchMask (old s : State) (n : Fin 8) : State :=
  match unmasked old n.val, unmasked s n.val with
  | false, true => unmaskSlot s n
  | true, false => maskSlot s n
  | _, _ => s

/-- Links: bring-up, disable, and new rates or lanes, which wait for the frames in progress (R103, R105). -/
def latchLink (old s : State) (k : Fin 4) : State :=
  let key := fun (x : State) => (regGet x (lkReg k.val 0), regGet x (lkReg k.val 4))
  let was : HeldLink := { cfg := regGet old (lkReg k 0), lanes := regGet old (lkReg k 4), slots := regGet old (lkReg k 8) }
  let wait := fun (off : Bool) => modLink s k fun l => { l with
    reconfig := !off, disabling := off, held := some (l.held.getD was) }
  match linkOn old k.val, linkOn s k.val with
  | false, true => if (s.lnk.links[k]).disabling then wait false else enableLink s k
  | true, false => wait true
  | true, true => if key old ≠ key s then wait false else s
  | false, false => s

/-- Recording: the ratio in force moves within its new limits (R225); an enabled slot's first frame has no previous ratio and its engines
start from QI_INIT (R217, R225). -/
def latchTrb (old s : State) (n : Fin 8) : State :=
  let r := trbRatio s.regs n
  let s := setRatio s n.val (clampRatio (field r 15 0) (field r 31 16) (regField s (ratioReg n.val) 15 0))
  if trbOn s.regs n ∧ ¬ trbOn old.regs n then
    let s := modGov s n fun g => { g with prev := none }
    { s with gal := { s.gal with qi := s.gal.qi.map fun v => vMod v n.val fun _ => none } }
  else s

/-- A slot whose capability record changed is ready again once a forme applies that was checked against the new record (R122). -/
def latchCap (commitNo : Nat) (s : State) (n : Fin 8) : State :=
  match (s.ing.caps[n]).awaits with
  | some k =>
    if k < commitNo then
      let s := { s with ing := { s.ing with caps := vMod s.ing.caps n.val fun c => { c with awaits := none } } }
      regPut s (0x601C0 + 0x200 * n.val) 31 30 2
    else s
  | none => s

/-- A waiting band change applies at once when no slot is unmasked (R60). -/
def bandIfIdle (s : State) : State := if s.thm.bandWaits ∧ ¬ anyUnmasked s then applyBand s else s

/-- A pre-record span that a forme has changed holds at once: frames beyond it are released (R221). (DEDUCED, log 18) -/
def latchPreRec (old : State) (s : State) : State :=
  if regField old 0xD0004 15 0 = regField s 0xD0004 15 0 then s else syncWait ((List.finRange 8).foldl preRecRelease s)

/-- Everything that latches with the registers (Table FRM-9): the rest latches at its own next frame, picture, packet or block. (DEDUCED, log 11) -/
def latchAll (old : State) (commitNo : Nat) (s : State) : State :=
  let s := (List.finRange 3).foldl (latchInput old) s
  let s := (List.finRange 4).foldl (latchLink old) s
  let s := forSlots s (latchMask old)
  let s := forSlots s (latchTrb old)
  let s := forSlots s (latchCap commitNo)
  let s := forStreams (applySei commitNo s) latchIdleStream
  let s := (List.finRange 6).foldl latchIdleHead s
  let s := (List.finRange 48).foldl latchSnd s
  let s := latchPorts s
  let s := (List.finRange 8).foldl latchAud s
  bandIfIdle (latchPreRec old s)

/-! ### The strobe (R77, R78) -/

/-- A forme writes a field that the courses or the links latch (Tables FRM-1 and FRM-9). -/
def writesCourses (f : Forme) : Bool :=
  f.writes.any fun t =>
    decide (t.off < 0x2000C) || (decide (0x50000 ≤ t.off) && decide (t.off < 0x80000)) || (decide (0xC0000 ≤ t.off) && decide (t.off < 0xF0000))

/-- The slots whose courses and links have still to latch a strobe's formes, each with its first frame issued after it: those unmasked
before it, and those that wait already. (DEDUCED, log 18) -/
def toLatch (s : State) (fs : List Forme) : List (Nat × Nat) :=
  if fs.any writesCourses then
    (List.finRange 8).filterMap fun (n : Fin 8) => if (s.ref.slots[n]).on then some (n.val, (s.ref.slots[n]).issued) else none
  else s.frm.latchSlots

/-- Formes applied at one instant, in order: their writes, their states and the count of strobes; IN_FORCE and APPLIED follow once every
domain has latched. (DEDUCED, log 18) -/
def strobe (s : State) (ids : List Nat) : State :=
  match ids.getLast? with
  | none => s
  | some last =>
    let fs := ids.filterMap fun i => formeOf s i
    let regs := fs.foldl (fun m f => overlayRegs m f.writes) s.regs
    let no := (ids.map (commitNoOf s)).foldl max 0
    let s1 := modFrm { s with regs := regs } fun f => { f with
      formes := ids.foldl (fun m i => mMod m i fun x => { x with st := .applied }) f.formes,
      lockedList := f.lockedList.filter fun i => !ids.contains i, inForce := last, latching := true, latchSlots := toLatch s fs }
    let s1 := latchAll s no (count s1 0x2001C)
    settleApplied (releaseFormes (releaseBanks s1))

/-- A forme moves a course off the host job path while a host-job frame is on it (R19). -/
def mustWait (s : State) (m : SMap Word) (f : Forme) : Bool :=
  (List.range 4).any fun c =>
    decide (courseKind (s.withRegs m) c = 3) && decide (courseKind (s.withRegs (overlayRegs m f.writes)) c ≠ 3) && hostFrameOn s c

/-- The formes of a list that apply now: those before the first that has to wait, which holds every later one (R19, R77). -/
def beforeHeld (s : State) : SMap Word → List Nat → List Nat
  | _, [] => []
  | m, i :: r => match formeOf s i with
    | none => []
    | some f => if mustWait s m f then [] else i :: beforeHeld s (overlayRegs m f.writes) r

/-- The formes at the head of the Locked list that are due at the boundary of a slot before frame `j` (R75, R77). -/
def dueList (s : State) (n j : Nat) : List Nat :=
  s.frm.lockedList.takeWhile fun i => (formeOf s i).any fun f => decide (f.slot = n) && f.due.any fun d => decide (d ≤ j)

/-- The registers once the formes that a boundary holds have applied; those in force where it holds none (R19). -/
def regsAfterHeld (s : State) : SMap Word := match s.frm.heldFor with
  | some (n, j) => ((dueList s n j).filterMap fun i => formeOf s i).foldl (fun m f => overlayRegs m f.writes) s.regs
  | none => s.regs

/-- A course remains on the host job path under the formes that a boundary holds (R19). -/
def staysOnPath (s : State) (c : Nat) : Bool := decide (courseKind (s.withRegs (regsAfterHeld s)) c = 3)

/-- KIND 2 formes at the head of the Locked list apply in a gap: with no host-job frame in progress (R75). (DEDUCED, log 18) -/
def gapApply (s : State) : State :=
  if hostFrameAny s ∨ s.frm.heldFor.isSome then s
  else
    let ids := s.frm.lockedList.takeWhile fun i => (formeOf s i).any fun f => decide (f.kind = 2)
    if ids = [] then s else modFrm (strobe s ids) fun f => { f with formeId := f.inForce }

/-- The boundary of a slot before frame `j`: the due formes apply, up to one that R19 holds. A boundary at which nothing is due leaves what an
earlier one holds. -/
def applyDue (s : State) (n j : Nat) : State :=
  let due := dueList s n j
  let go := beforeHeld s s.regs due
  let held := if go.length < due.length then some (n, j) else if due = [] then s.frm.heldFor else none
  gapApply (strobe (modFrm s fun f => { f with heldFor := held }) go)

/-- A course has finished a host-job frame: what the boundary held may apply now (R19), or a gap has come (R75). -/
def releaseHeld (s : State) : State := match s.frm.heldFor with
  | some (n, j) => applyDue s n j
  | none => gapApply s

/-! ### Frame boundaries (R59, R83, R224) -/

/-- The number of entries with an action in the table that a slot's frame runs under. -/
def hasFret (c : Cad) (n action : Nat) : Bool :=
  (List.range 256).any fun k =>
    let lo := rmGet c.cfg (fretLoReg n k)
    bit lo 31 && decide (field lo 28 24 = action)

/-- A slot's frame boundary: once per frame; `newest` says that the newest frame brings it. On the timing master it is also the boundary of the frame set, and a waiting band change
applies where the table has no TEMP_BAND entry (R59, R60, R83). (DEDUCED, log 18) -/
def frameBoundary (s : State) (n : Fin 8) (newest : Bool) : State :=
  let c := s.ref.slots[n]
  if newest && c.boundary ∨ c.issued = 0 then s
  else
    let s := takeDelay (if newest then modCad s n fun c => { c with boundary := true } else s) n
    let s := takeBoundary s n.val
    let s := if inTake s n.val then modGov s n fun g => { g with due := true } else s
    let master : Bool := decide (timingMaster s = n.val) && unmasked s n.val
    let s := if master then checkpointBoundary { s with gal := { s.gal with fset := s.gal.fset + 1 } } else s
    let s := if master ∧ s.thm.bandWaits ∧ ¬ hasFret c n 9 then applyBand s else s
    let s := applyDue s n.val c.issued
    if master then modFrm s fun f => { f with formeId := f.inForce } else s

end Sys2Proof.Machine
end

