-- ==== Sys2Proof/Machine/FretOps.lean ====
section
/-! DEFINITION. Fret entries, what their actions do, and when a phase or angle fret is due (R54 to R62, R153 to R155, R494). -/

namespace Sys2Proof.Machine
open Sys2Proof

/-! ### Entries (Table FRT-1) -/

/-- An entry of a fret table, of the registers a frame started under (R54). -/
structure Fret where
  idx : Nat
  kind : Nat
  action : Nat
  key : Nat
  arg : Word
  deriving DecidableEq, Repr

/-- Entry `k` of a slot's table, when it is in use. -/
def fretAt (m : SMap Word) (n k : Nat) : Option Fret :=
  let lo := rmGet m (fretLoReg n k)
  if bit lo 31 then some {
    idx := k, kind := field lo 30 29, action := field lo 28 24,
    key := if field lo 30 29 = 0 then field lo 23 0 else field lo 15 0, arg := rmGet m (fretHiReg n k) }
  else none

/-- The entries in use, ascending. (DEDUCED, log 21) -/
def frets (m : SMap Word) (n : Nat) : List Fret := (List.range 256).filterMap (fretAt m n)

/-- APPLY_FORME and TEMP_BAND, which fire late (R58). -/
def Fret.late (e : Fret) : Bool := decide (e.action = 1) || decide (e.action = 9)

/-! ### Statistics windows (R153 to R155) -/

/-- A window that is open on a frame closes there. -/
def Frame.closeWin (f : Frame) (w last cause : Nat) : Frame :=
  { f with wins := f.wins.map fun x => if x.win = w ∧ x.last.isNone then { x with last := some last, cause := cause } else x }

def Frame.winOpen (f : Frame) (w : Nat) : Bool := f.wins.any fun x => decide (x.win = w) && x.last.isNone

/-- A window is enabled in a frame's bank: that of its expected tag until its tag is fixed (R153, R157). (DEDUCED, log 21) -/
def winEnabled (s : State) (n : Fin 8) (f : Frame) (w : Nat) : Bool := bit ((f.banked s n).bank (winCfgReg n w)) 0

/-- STATS_OPEN on a frame; a window still open on an earlier frame, or on this one, is sealed at that instant as reopened (R155). A frame that
has closed opens none, and a window disabled in the frame's bank none either (R157). (DEDUCED, log 21) -/
def statsOpen (s : State) (n : Fin 8) (ord : Word) (w : Nat) (line : Option Nat) : State :=
  match frameOf s n ord with
  | none => s
  | some f =>
    if f.closed ∨ winEnabled s n f w = false then s
    else
      let s := ((s.ing.frames[n]).filter fun g => g.winOpen w).foldl (fun s g => sealNow s n (g.closeWin w (g.lastLine.getD 0) 2) w) s
      modFrame s n ord fun f =>
        let first := line.getD (match f.lastLine with
          | some y => y + 1
          | none => 0)
        { f with wins := f.wins ++ [{ win := w, first := first, last := none, cause := 0 }] }

/-- STATS_CLOSE on a frame: of a window that is not open there, it is ignored and counted (R155); of one disabled in the frame's bank, or in
force where the frame is sealed already, it has no effect (R157). (DEDUCED, log 21) -/
def statsClose (s : State) (n : Fin 8) (ord : Word) (w : Nat) (line : Option Nat) : State :=
  match frameOf s n ord with
  | some f =>
    if winEnabled s n f w = false then s
    else if f.winOpen w then advanceFrame (modFrame s n ord fun f => f.closeWin w (line.getD (f.lastLine.getD 0)) 0) n ord
    else rfeEvent (count s (rfeReg n 0x124)) 2 0x03 .info f
  | none =>
    if bit (regGet s (winCfgReg n w)) 0 then event (count s (rfeReg n 0x124)) .rfe 2 0x03 .info (ctxFrame n 1 n 0 ord 0 0) 0 else s

/-! ### Actions (Table FRT-2) -/

/-- TIMESTAMP (R61). -/
def timeStamp (s : State) (n : Fin 8) (ord : Word) (ident : Nat) : State :=
  if s.ref.tsFifo.length ≥ 64 then count s 0x34120
  else { s with ref := { s.ref with tsFifo := s.ref.tsFifo ++ [{ slot := n.val, ident := ident, ord := ord, time := ptpTime s }] } }

/-- EVENT_OUT (R494): a pulse of `us` µs from now on; on an output still high, the end moves. -/
def eventPulse (s : State) (o : Fin 16) (us : Nat) : State :=
  let high := (s.ref.pulses[o]).isSome
  let s := { s with ref := { s.ref with pulses := vMod s.ref.pulses o fun _ => some (s.now + us * 1000) } }
  if high then s else emit s (.pin (.eventOut o) true)

def fin16 (n : Nat) : Fin 16 := ⟨n % 16, Nat.mod_lt n (by decide)⟩
def fin4 (n : Nat) : Fin 4 := ⟨n % 4, Nat.mod_lt n (by decide)⟩

/-- What a fret does, for a frame of its slot; `line` is the line that fired a line fret. (DEDUCED, log 21) -/
def fretAct (s : State) (n : Fin 8) (ord : Word) (line : Option Nat) (e : Fret) : State :=
  match e.action with
  | 1 => frameBoundary s n true
  | 2 => releaseFormes (releaseBanks (sendExposureFor s n (nearOrd s n ord + latency s n.val)))
  | 3 => statsOpen s n ord (field e.arg 3 0) line
  | 4 => statsClose s n ord (field e.arg 3 0) line
  | 5 => timeStamp s n ord (field e.arg 15 0)
  | 6 => openWindow s (field e.arg 15 0)
  | 7 =>
    let c := fin4 (field e.arg 1 0)
    let k := fin16 (field e.arg 5 2)
    let t := encLate (encFire s n c k) c k n.val (newestOrd s n)
    settleIf (decide ((t.hev.streams[c][k]).cfg ≠ (s.hev.streams[c][k]).cfg)) t
  | 8 => sourceEdge s (64 + field e.arg 3 0)
  | 9 => if timingMaster s = n.val ∧ s.thm.bandWaits then applyBand s else s
  | 10 => eventPulse s (fin16 (field e.arg 3 0)) (field e.arg 15 8)
  | _ => s
where
  /-- The number of a frame from its ordinal, which lies at most 2³¹ before the newest. -/
  nearOrd (s : State) (n : Fin 8) (ord : Word) : Nat :=
    let last := (s.ref.slots[n]).issued - 1
    last - (BitVec.ofNat 32 last - ord).toNat

/-- A fret fires for the newest frame (R56, R58). -/
def fire (s : State) (n : Fin 8) (e : Fret) : State :=
  fretAct (modCad s n fun c => { c with fired := e.idx :: c.fired }) n (newestOrd s n) none e

/-- A line fret of a frame fires (R56, R58); when the frame is the newest, it has fired for it. -/
def fireLine (s : State) (n : Fin 8) (ord : Word) (line : Nat) (e : Fret) : State :=
  let newest : Bool := decide (ord = newestOrd s n)
  let s := modFrame s n ord fun f => { f with fired := e.idx :: f.fired }
  let s := if newest then modCad s n fun c => { c with fired := e.idx :: c.fired } else s
  fretAct s n ord (some line) e

/-! ### When a phase fret is due (R56 to R58) -/

/-- The first tick at which the cadence phase of the slot's frame reaches a key. -/
def keyTick (c : Cad) (key : Nat) : Nat := c.lastIssue.getD 0 + ((key : ℚ) / 256 * c.lineTime).ceil.toNat

/-- The slot's next frame start is due, on its own axis. -/
def startDue (s : State) (n : Fin 8) : Bool :=
  let c := s.ref.slots[n]
  c.on && (match c.next with
    | some t => decide (axisNow s c.ptpAxis ≥ t)
    | none => false)

/-- A phase fret can fire now: its key is reached, it has not fired for the frame, and no frame start takes this tick. -/
def phaseReady (s : State) (n : Fin 8) (e : Fret) : Bool :=
  let c := s.ref.slots[n]
  let t := keyTick c e.key
  decide (e.kind = 0) && decide (0 < c.issued) && decide (t ≤ s.now) && !c.fired.contains e.idx && !(startDue s n && decide (t = s.now))

/-! ### Mains phase (R52, R56) -/

/-- The last tick up to now at which the mains phase reached a key, since the last valid edge; it runs on through a loss. (DEDUCED, log 20; DEDUCED, log 21) -/
def mainsTick (s : State) (key : Nat) : Option Nat :=
  match (s.ref.inputs[(2 : Fin 3)]).phaseEdge with
  | none => none
  | some e =>
    let per : ℚ := ((regGet s (measPeriodReg 2)).toNat : ℚ)
    let first : ℚ := per * (key : ℚ) / 36000
    if per = 0 ∨ ((s.now - e : Nat) : ℚ) < first then none
    else
      let turns := ((((s.now - e : Nat) : ℚ) - first) / per).floor
      some (e + (first + per * (turns : ℚ)).ceil.toNat)

/-- An angle fret on the mains can fire now: a crossing of its key has come after the frame start, and no frame start takes its tick. -/
def mainsReady (s : State) (n : Fin 8) (e : Fret) : Bool :=
  let c := s.ref.slots[n]
  decide (e.kind = 2) && decide (cadSource c.cfg n = 4) && decide (0 < c.issued) && !c.fired.contains e.idx
    && (match mainsTick s e.key with
      | some t => decide (c.lastIssue.getD 0 < t) && decide (t ≤ s.now) && !(startDue s n && decide (t = s.now))
      | none => false)

/-! ### The order of frets that are ready (R57) -/

/-- The tick at which a phase or mains fret that can fire came due; none for one that cannot. -/
def readyTick (s : State) (n : Fin 8) (e : Fret) : Option Nat :=
  if phaseReady s n e then some (keyTick s.ref.slots[n] e.key) else if mainsReady s n e then mainsTick s e.key else none

/-- A phase or mains fret is the one that fires next: no other that is ready came due before it, or in its tick with a lower entry (R57). (DEDUCED, log 21) -/
def fretTurn (s : State) (n : Fin 8) (e : Fret) : Bool :=
  match readyTick s n e with
  | none => false
  | some t => !((frets (s.ref.slots[n]).cfg n).any fun x =>
      (readyTick s n x).any fun u => decide (u < t) || (decide (u = t) && decide (x.idx < e.idx)))

/-! ### Late frets (R58) -/

/-- APPLY_FORME and TEMP_BAND that have not fired fire immediately before the next frame start, in ascending order; a line fret among them
does not fire any more for its frame. (DEDUCED, log 21) -/
def lateFrets (s : State) (n : Fin 8) : State :=
  let c := s.ref.slots[n]
  if c.issued = 0 then s
  else ((frets c.cfg n).filter fun e => e.late && !c.fired.contains e.idx).foldl (fun s e =>
    fire (modFrame s n (newestOrd s n) fun f => { f with fired := e.idx :: f.fired }) n e) s

/-- Phase and angle frets that a frame leaves unfired, counted (R58). -/
def countUnfired (s : State) (n : Fin 8) : State :=
  let c := s.ref.slots[n]
  let l := (frets c.cfg n).filter fun e => decide (e.kind ≠ 1) && !e.late && !c.fired.contains e.idx
  if c.issued = 0 then s else countN s (unfiredReg n) l.length

end Sys2Proof.Machine
end

