-- ==== Sys2Proof/Machine/StartOps.lean ====
section
/-! DEFINITION. The frame start: readiness (R42, R104, R121), timecode (R323 to R325), the galley reservation (R214, R219, R220, R225), the
frame record, and the cadence of the frame that follows (R32 to R48). -/

namespace Sys2Proof.Machine
open Sys2Proof

/-! ### Readiness (R42) -/

def capStateReg (n : Nat) : Nat := 0x601C0 + 0x200 * n

/-- A capability record is in force for a slot. -/
def recordUp (s : State) (n : Nat) : Bool := decide (regField s (capStateReg n) 31 30 ≥ 2)

/-- A slot is ready for a frame start: its link is UP (R104, R105), it is brought up with a record in force that no forme has still to be
checked against (R121, R122), and its sensor's minimum period has passed (R42). -/
def slotReady (s : State) (n : Fin 8) : Bool :=
  slotLinkUp s n && recordUp s n && (s.ing.caps[n]).broughtUp && (s.ing.caps[n]).awaits.isNone
    && (match (s.ref.slots[n]).lastIssue with
      | some t => decide (t + minPeriod s n ≤ s.now)
      | none => true)

/-- A frame-start request that is skipped (R42). (DEDUCED, log 19) -/
def missTrigger (s : State) (n : Fin 8) : State :=
  let ord := BitVec.ofNat 32 (s.ref.slots[n]).issued
  let s := modCad s n fun c => { c with missed := true }
  event (count s (missedReg n)) .ref 11 0x06 .degraded (ctxFrame n 1 n 0 ord 0 0) 0

/-! ### Timecode (R323 to R325) -/

def tcReg (n off : Nat) : Nat := 0x150300 + 0x10 * n + off

/-- BASE; none for its invalid code. -/
def tcBase (w : Word) : Option Nat := match field w 18 17 with
  | 0 => some 24
  | 1 => some 25
  | 2 => some 30
  | _ => none

/-- A label in the TIMECODE layout (Table SYS-8), from a count of labels since midnight. (DEDUCED, log 33) -/
def tcLabel (df : Bool) (base c : Nat) : Word :=
  let bcd := fun (n : Nat) => n / 10 * 16 + n % 10
  packFields [(31, if df then 1 else 0), (24, bcd (c / (3600 * base) % 24)), (16, bcd (c / (60 * base) % 60)),
    (8, bcd (c / base % 60)), (0, bcd (c % base))]

/-- The drop-frame count of R324. -/
def tcDrop (c : Nat) : Nat :=
  let m := c % 17982
  c + 18 * (c / 17982) + (if m ≥ 2 then 2 * ((m - 2) / 1798) else 0)

/-- The label of an exposure start (R324). -/
def tcOfTime (s : State) (n : Nat) (w : Word) (base ptp : Nat) : Word :=
  let rate : ℚ := (base : ℚ) * (if bit w 29 then 1000 / 1001 else 1)
  let l : ℚ := (ptp : ℚ) / 65536000000000 - (regField s 0x150040 15 0 : ℚ) + (sword (regGet s (tcReg n 0xC)) : ℚ)
  let x : ℚ := l - (field w 16 0 : ℚ)
  let since : ℚ := x - 86400 * ((x / 86400).floor : ℚ)
  let c := (since * rate).floor.toNat
  tcLabel (bit w 30) base (if bit w 30 then tcDrop c else c)

/-- The label after a label: the next frame number, or the next second; labels 00 and 01 of a minute that is not a tenth one are dropped
under DF; it wraps at 24 hours (R325). -/
def tcNext (df : Bool) (base : Nat) (w : Word) : Word :=
  let num := fun (v : Nat) => v / 16 * 10 + v % 16
  let c := ((num (field w 29 24) * 60 + num (field w 23 16)) * 60 + num (field w 15 8)) * base + num (field w 7 0) + 1
  let skip : Bool := df && decide (c % (60 * base) = 0) && decide (c / (60 * base) % 10 ≠ 0)
  tcLabel df base ((if skip then c + 2 else c) % (86400 * base))

/-- TIMECODE of a frame with an exposure start, fixed at the issue tick (R323); in counting mode the label moves on. (DEDUCED, log 33) -/
def timecode (s : State) (n : Fin 8) (ptp : Nat) : Word × State :=
  let w := regGet s (tcReg n 0)
  match tcBase w with
  | none => (0, event s .ptp 9 0x0A .degraded (ctxUnit 1 n 0 0) 0)
  | some base =>
    if bit w 30 ∧ ¬ (base = 30 ∧ bit w 29) then (0, event s .ptp 9 0x0A .degraded (ctxUnit 1 n 0 0) 0)
    else if bit w 31 then
      let l := s.net.labels[n]
      let labels := vMod s.net.labels n fun l => tcNext (bit w 30) base l
      (putBit l 31 (bit w 30), { s with net := { s.net with labels := labels } })
    else (tcOfTime s n w base ptp, s)

/-! ### The galley (R214, R219, R220, R225) -/

/-- The ratio of the frame issued now, latched (R221, R225, R226): BASE outside a take or with the governor off. -/
def latchRatio (s : State) (n : Fin 8) : Nat × Nat × State :=
  let base := field (trbRatio s.regs n) 15 0
  let s := if inTake s n ∧ regBit s 0xD0000 31 then s else setRatio s n base
  let r := regField s (ratioReg n) 15 0
  let prev := (s.gal.gov[n]).prev.getD r
  (r, prev, modGov s n fun g => { g with prev := some r, sinceRaise := g.sinceRaise.map (· + 1) })

/-- The reservation of a recorded frame (R219, R220); MERGE comes from the bank of the expected tag (R214). -/
def reserveFrame (s : State) (n : Fin 8) (ord : Word) (m : SMap Word) (ratio : Nat) : Hold × State :=
  if ¬ trbOn s.regs n then (.none, s)
  else
    let merge := if bit (rmGet m (rfeReg n 0)) 4 then 4 else 0
    let t := trbTarget (trbNominal (slotWidth s.regs n) (slotLines s.regs n) (slotBits s.regs n + merge)) ratio
    let c := trbCap t (field (trbCtl s.regs n) 15 8)
    match reserveGal s (.frame n) ord c n with
    | (some _, s) => (.held c t, s)
    | (none, s) => (.failed, galEvent (count s 0xD005C) 3 0x04 .itemFailed n ord)

/-! ### The cadence at a frame start (R33, R34, R36, R38, R45, R47, R48) -/

/-- Where a frame start leaves the cadence: the slot's state, its phase error, the held period, whether slewing has just ended, and the
correction of the frame's period. -/
structure Phase where
  st : SlotSt
  err : Option ℚ
  hold : Option ℚ
  relocked : Bool
  corr : ℚ

/-- A phase error of less than 1/256 line time. -/
def settled (e line : ℚ) : Bool := decide (e < line / 256) && decide (-e < line / 256)

/-- The state in which a slot starts under changed cadence fields (R38, R45): a PTP slot away from its grid slews. (DEDUCED, log 19) -/
def changedSt (s : State) (src : Nat) (err : Option ℚ) (line : ℚ) : SlotSt :=
  let st := startSt s src true
  if src = 1 ∧ st = .locked ∧ (err.any fun e => !settled e line) then .slewing else st

/-- The cadence of the frame that starts at `t`, with the fields `m`, of which the frame has the period `per`. (DEDUCED, log 12) -/
def phaseAt (s : State) (n : Fin 8) (m : SMap Word) (t per : ℚ) (changed : Bool) : Phase :=
  let c := s.ref.slots[n]
  let src := cadSource m n
  let line := lineTimeOf m n
  let err := if src = 3 ∧ (if changed then startSt s src true else c.st) = .locked then some 0
    else if changed ∧ src ≠ 1 then none else phaseError s n m t per
  let st0 := if changed then changedSt s src err line else c.st
  let ends : Bool := decide (st0 = .slewing) && err.any fun e => settled e line
  let st := if ends then .locked else st0
  let follows : Bool := (decide (st = .locked) || decide (st = .slewing)) && !(decide (src = 3) && decide (st = .locked))
  { st := st, err := err, hold := if changed then none else c.hold, relocked := ends,
    corr := if follows then err.elim 0 fun e => slewStep e line per (minPeriod s n) else 0 }

/-- An instant of one axis on another (R35, R48). (DEDUCED, log 12) -/
def onAxis (s : State) (t : ℚ) (was is : Bool) : ℚ :=
  if was = is then t else t - axisNow s was + axisNow s is

/-- The geometry and format of the frame issued, kept for the lines that name it (R124). -/
def noteGeom (s : State) (n : Fin 8) (j : Nat) : State :=
  let g := (regGet s (0x60000 + 0x200 * n.val), regGet s (0x60004 + 0x200 * n.val))
  let l := s.ing.geoms[n]
  if l.getLast?.map (·.2) = some g then s
  else { s with ing := { s.ing with geoms := vMod s.ing.geoms n fun l => l ++ [(j, g)] } }

/-! ### The frame start (R32) -/

/-- The start of frame `issued` of a ready slot, whose exact instant on the slot's axis is `t`. (DEDUCED, log 19; DEDUCED, log 22) -/
def startFrame (s : State) (n : Fin 8) (t : ℚ) : State :=
  let s := lateFrets s n
  if ¬ (s.ref.slots[n]).on then s
  else
    let s := countUnfired s n
    let c := s.ref.slots[n]
    let j := c.issued
    let ord := BitVec.ofNat 32 j
    let s := fixUpTo s n (j + latency s n + 1)
    let tag := expectedTag s n j
    let m := tagRegs s n tag
    let src := cadSource m n
    let line := lineTimeOf m n
    let fixed := fixedPeriod s n j
    let changed : Bool := decide (c.key ≠ []) && decide (cadKey m n ≠ c.key)
    let ph := phaseAt s n m t fixed changed
    let per := match ph.st with
      | .holdover => ph.hold.getD fixed
      | _ => fixed
    let s := if ph.relocked then event s .ref 10 0x05 .info (ctxFrame n 1 n 0 ord 0 0) 0 else s
    let sentE := c.sent.find? fun e => decide (e.ord = j)
    -- the frame record
    let ptp := ptpTime s + (regGet s (capReg n 7)).toNat * 65536
    let (tc, s) := timecode s n ptp
    let (ratio, prev, s) := latchRatio s n
    let (hold, s) := reserveFrame s n ord m ratio
    let (measured, s) := match c.lastIssue with
      | some t => (s.now - t, s)
      | none => let (k, s) := freeNat s; (k % 2 ^ 32, s)
    let (phase, s) :=
      if src = 0 ∨ ph.st = .holdover ∨ (src = 1 ∧ rampStep m n ≠ 0) then (0x80000000#32, s)
      else match ph.err with
        | some e => (wordOfInt (toQ8 e line), s)
        | none => freeWord s
    let status := packFields [(6, if ph.st = .holdover then 1 else 0), (7, if ph.st = .slewing then 1 else 0),
      (8, if c.missed then 1 else 0), (10, if ratio = prev then 0 else 1)]
    let fr : FrameRec := {
      hostJob := false, slot := n.val, tag := 0, formeId := s.frm.formeId, ord := ord, ptp := ptp, timecode := tc,
      tcUser := regGet s (tcReg n 8), status := status, linesReceived := 0, linesExpected := slotLines s.regs n,
      linesCrc := 0, linesDiscarded := 0, ratio := ratio, ratioPrev := prev, trbBytes := 0, courses := courseMask (slotCourses s n),
      tempBand := s.thm.band, refSource := src + (if ph.st = .holdover then 128 else 0), hostContext := 0,
      expNs := sentE.elim (exposureNs m n per) (·.expNs), periodNs := measured, phase := phase, metadata := s.ing.metadata[n] }
    let f : Frame := {
      fr := fr, issueTick := s.now, expAt := s.now + (regGet s (capReg n 7)).toNat, lineTime := line, expTag := tag, echo := bit (regGet s (capReg n 0)) 16, cfg := s.regs,
      tagKnown := false, bankRegs := [], bankObjs := [], lines := [], frameLines := 0, engineBad := [], fired := [], hold := hold,
      wins := [], closed := false, trb := [], trbRows := 0, gone := [], fetchFailed := false }
    let s := showCurrent (noteGeom (modFrames s n fun l => l ++ [f]) n j) n
    -- the command
    let s := sendFrameStart s n ord
    -- the cadence
    let unclosed := ((s.ing.frames[n]).filter fun f => !f.closed).map fun f => j - (BitVec.ofNat 32 j - f.fr.ord).toNat
    let s := modCad s n fun c => { c with
      issued := j + 1, lastIssue := some s.now, lineTime := line, st := ph.st, hold := ph.hold, err := ph.err.getD 0,
      align := if changed then none else c.align, edges := if changed then 0 else c.edges, missed := false,
      sent := c.sent.filter fun e => decide (j ≤ e.ord) || unclosed.contains e.ord,
      fixed := c.fixed.filter fun x => decide (j ≤ x.ord), cfg := s.regs, fired := [], boundary := false, key := cadKey m n }
    let nsrc := sourceNow s n
    let timed : Bool := decide (nsrc ≠ 3) || decide (ph.st = .holdover) || decide (ph.st = .slewing)
    let next := onAxis s (t + per + ph.corr) c.ptpAxis (decide (nsrc = 1))
    let s := modCad s n fun c => { c with next := if timed then some next else none, ptpAxis := decide (nsrc = 1) }
    let s := regSet s (slotReg n 0x24) (wordOfInt (toQ8 (ph.err.getD 0) line))
    let s := if timingMaster s = n.val then audFrameSet s n ord per else s
    headsRange (headsRefEdge s 3 n) 3 n

/-- A frame-start request at `t` on the slot's axis (R42): the frame starts, or the trigger is missed and a timed cadence goes on one period
later. (DEDUCED, log 19) -/
def frameRequest (s : State) (n : Fin 8) (t : ℚ) : State :=
  if slotReady s n then startFrame s n t
  else
    let s := missTrigger s n
    let c := s.ref.slots[n]
    match c.next with
    | none => s
    | some _ =>
      let s := fixUpTo s n c.issued
      let per := match c.st with
        | .holdover => c.hold.getD (fixedPeriod s n c.issued)
        | _ => fixedPeriod s n c.issued
      modCad s n fun c => { c with next := some (t + per) }

end Sys2Proof.Machine
end

