-- ==== Sys2Proof/Machine/RefInput.lean ====
section
/-! DEFINITION. Reference inputs: valid edges, loss, return and rate (R43 to R46), alignment edges (R36), and the shutter encoder's position
(R37, R49 to R51). -/

namespace Sys2Proof.Machine
open Sys2Proof

/-! ### Edges (R36, R43 to R46) -/

/-- The REF.EVENTS bits of an input: lost, returned, off its rate (Table REF-7). -/
def lostBit (i : Nat) : Nat := [0, 3, 7].getD i 0
def returnBit (i : Nat) : Nat := lostBit i + 1
def rateBit (i : Nat) : Nat := lostBit i + 2

def refEvent (s : State) (b code : Nat) (sev : Severity) (i : Nat) : State := event s .ref b code sev (ctxUnit 10 i 0 0) 0

def expPeriod (s : State) (i : Nat) : Nat := (regGet s (expPeriodReg i)).toNat

/-- `x` lies within `num`/`den` of `centre`. (DEDUCED, log 12) -/
def within (x centre : ℚ) (num den : Nat) : Bool :=
  decide ((x - centre) * den ≤ centre * num) && decide ((centre - x) * den ≤ centre * num)

/-- A slot follows an input: it is running and its next frame's source is that input. -/
def follows (s : State) (n : Fin 8) (i : Fin 3) : Bool := (s.ref.slots[n]).on && decide (inputOf (sourceNow s n) = some i)

/-- The frame period of a slot for a period of its input (R36, R41). -/
def periodOn (s : State) (n : Fin 8) (i : Fin 3) (p : ℚ) : ℚ :=
  let m := tagRegs s n (expectedTag s n (s.ref.slots[n]).issued)
  if i = 1 then max (p / (1 + (encFpr s : ℚ))) (minPeriod s n : ℚ) else p * (cadDiv m n : ℚ) / (cadMul m n : ℚ)

/-- A slot enters holdover at a period. A shutter slot's cadence runs on from its newest frame start. -/
def holdSlot (s : State) (n : Fin 8) (p : ℚ) : State :=
  modCad s n fun c => { c with
    st := .holdover, hold := some p, next := c.next.orElse fun _ => c.lastIssue.map fun t => (t : ℚ) + p }

/-- The input's rate is off (R45, R46): its slots hold the last period in force within the window. -/
def offRate (s : State) (i : Fin 3) : State :=
  let s := modInput s i fun r => { r with offRate := true }
  let s := refEvent s (rateBit i) 0x03 .degraded i
  let p := ((s.ref.inputs[i]).inForce).getD (expPeriod s i : ℚ)
  forSlots s fun s n => if follows s n i ∧ (s.ref.slots[n]).st ≠ .holdover then holdSlot s n (periodOn s n i p) else s

/-- The comparison of a rate with EXP_PERIOD is skipped (Table REF-6). -/
def tracks (s : State) (i : Fin 3) : Bool := decide (i = 1) && regBit s encCfgReg 30

/-- The input has returned within the window (R45): its slots slew, and its heads regain their reference. (DEDUCED, log 20) -/
def returned (s : State) (i : Fin 3) : State :=
  let s := modInput s i fun r => { r with offRate := false }
  let s := refEvent s (returnBit i) 0x02 .info i
  let s := forSlots s fun s n =>
    if follows s n i then modCad s n fun c => { c with st := .slewing, hold := none, align := none } else s
  if i = 0 then headsRegain s 1 0 else s

/-- The mean of the last 8 valid periods is compared with EXP_PERIOD at a valid edge of a locked input (R46). (DEDUCED, log 20) -/
def checkRate (s : State) (i : Fin 3) : State :=
  let r := s.ref.inputs[i]
  match measured r with
  | none => s
  | some m =>
    if tracks s i ∨ within m (expPeriod s i : ℚ) 1 1000 = true then modInput s i fun r => { r with inForce := some m }
    else if r.offRate then s
    else offRate s i

/-- A valid edge for the slots that follow the input (R36): the first one after the cadence fields took effect, and every DIV-th from it, is an
alignment edge; a slot that waits for one gets its first cadence instant. -/
def alignSlots (s : State) (i : Fin 3) : State :=
  forSlots s fun s n =>
    if ¬ follows s n i then s
    else
      let c := s.ref.slots[n]
      let m := tagRegs s n (expectedTag s n c.issued)
      let div := if i = 1 then 1 else max 1 (cadDiv m n)
      if c.edges = 0 then
        let s := modCad s n fun c => { c with align := some s.now, edges := div - 1 }
        let first := firstInstant s n
        modCad s n fun c => { c with next := c.next.orElse fun _ => first }
      else modCad s n fun c => { c with edges := c.edges - 1 }

/-- What follows every valid edge. (DEDUCED, log 20) -/
def validEdge (s : State) (i : Fin 3) : State :=
  let t := s.now
  let s := alignSlots (modInput s i fun r => { r with phaseEdge := some t }) i
  showInput (if i = 0 then headsRange (headsRefEdge s 1 0) 1 0 else s) i

/-- An edge with the period `p` while the input is seeking or locked for the first time, or locked (R43). (DEDUCED, log 20) -/
def edgeNormal (s : State) (i : Fin 3) (p : Nat) : State :=
  let r := s.ref.inputs[i]
  let centre : ℚ := if r.st = .locked then (measured r).getD (expPeriod s i : ℚ) else (expPeriod s i : ℚ)
  if within (p : ℚ) centre 2 100 then
    let s := modInput s i fun r => { r with
      lastEdge := some s.now, periods := (p :: r.periods).take 8, run := r.run + 1,
      st := if r.run + 1 ≥ 8 then .locked else r.st }
    validEdge (if (s.ref.inputs[i]).st = .locked then checkRate s i else s) i
  else refEvent (count s (outliersReg i)) 12 0x07 .info i

/-- An edge with the period `p` after a loss (R45): eight periods in a row near their own mean end the search. (DEDUCED, log 20) -/
def edgeAfterLoss (s : State) (i : Fin 3) (p : Nat) : State :=
  let l := (p :: (s.ref.inputs[i]).seek).take 8
  let mean : ℚ := (l.sum : ℚ) / 8
  let back : Bool := decide (l.length = 8) && l.all fun q => within (q : ℚ) mean 2 100
  let s := modInput s i fun r => { r with lastEdge := some s.now, seek := l, run := r.run + 1 }
  if ¬ back then showInput s i
  else
    let s := modInput s i fun r => { r with st := .locked, afterLoss := false, periods := l, seek := [] }
    let s := if tracks s i ∨ within mean (expPeriod s i : ℚ) 1 1000 = true then
        returned (modInput s i fun r => { r with inForce := some mean }) i
      else offRate s i
    validEdge s i

/-- A filtered edge of an input (R43). (DEDUCED, log 20) -/
def refEdge (s : State) (i : Fin 3) : State :=
  let r := s.ref.inputs[i]
  match r.st, r.lastEdge with
  | .disabled, _ => s
  | _, none =>
    let s := modInput s i fun r => { r with lastEdge := some s.now, st := if r.st = .lost then .seeking else r.st }
    if r.afterLoss then showInput s i else validEdge s i
  | _, some t => if r.afterLoss then edgeAfterLoss s i (s.now - t) else edgeNormal s i (s.now - t)

/-! ### Loss (R44) -/

/-- Three expected periods have passed with no valid edge. -/
def lossDue (s : State) (i : Fin 3) : Bool :=
  let r := s.ref.inputs[i]
  (decide (r.st = .seeking) || decide (r.st = .locked)) && decide (s.now ≥ r.lastEdge.getD r.since + 3 * expPeriod s i)

/-- An input is lost; its measurement stands until it has returned: every slot that follows it enters holdover at the frame period in force, and so does every head (R44, R292). -/
def loseInput (s : State) (i : Fin 3) : State :=
  let s := forSlots s fun s n =>
    if ¬ follows s n i ∨ (s.ref.slots[n]).st = .holdover then s
    else if i = 1 then holdSlot s n (shutterPeriod s n)
    else holdSlot s n (fixedPeriod s n ((s.ref.slots[n]).issued - 1))
  let s := modInput s i fun r => { r with st := .lost, afterLoss := true, lastEdge := none, seek := [], run := 0, since := s.now }
  let s := refEvent (count (showInput s i) 0x40098) (lostBit i) 0x01 .degraded i
  if i = 0 then headsLose s 1 0 else s

/-! ### The encoder's position (R37, R49 to R51) -/

/-- Positions that the accepted position crosses on its way forward by `d` from `a`. -/
def crossed (cpr a d : Nat) : List Nat := (List.range d).map fun k => (a + k + 1) % cpr

/-- The angles at which a shutter slot's frame starts are requested (R37). -/
def startAngles (s : State) (n : Fin 8) : List Nat :=
  let m := tagRegs s n (expectedTag s n (s.ref.slots[n]).issued)
  let a := field (phaseOfs m n) 15 0
  if encFpr s = 1 then [a, (a + encCpr s / 2) % encCpr s] else [a]

/-- A frame-start request from the shutter: the slot is running on crossings, and past its lead (R37, R84). (DEDUCED, log 19) -/
def shutterRequest (s : State) (n : Fin 8) : State :=
  let c := s.ref.slots[n]
  if c.on ∧ sourceNow s n = 3 ∧ c.next.isNone ∧ c.notBefore ≤ s.now then frameRequest s n (s.now : ℚ) else s

/-- What a slot does as positions are crossed: the frame start takes the tick, and angle frets fire at the crossings after it (R56, R58). -/
def crossSlot (s : State) (ps : List Nat) (n : Fin 8) : State :=
  let was := (s.ref.slots[n]).issued
  let angles := startAngles s n
  let before := ps.takeWhile fun p => !angles.contains p
  let s := if before.length < ps.length then shutterRequest s n else s
  let rest := if (s.ref.slots[n]).issued = was then ps else ps.drop (before.length + 1)
  rest.foldl (fun s p =>
    let c := s.ref.slots[n]
    ((frets c.cfg n).filter fun e => decide (e.kind = 2) && decide (e.key = p) && decide (cadSource c.cfg n = 3)
      && decide (0 < c.issued)).foldl (fun s e => if (s.ref.slots[n]).fired.contains e.idx then s else fire s n e) s) s

def modRef (s : State) (f : RefBlk → RefBlk) : State := { s with ref := f s.ref }

/-- REF.ENC_POS. -/
def showPos (s : State) : State := regSet s encPosReg (packFields [(16, s.ref.revs % 65536), (0, s.ref.acc % 65536)])

/-- The accepted position moves to `p`: forward by `d`, with every crossing, or backward. The revolution count follows it over 0. (DEDUCED, log 20) -/
def moveTo (s : State) (p : Nat) (d : Int) : State :=
  let a := s.ref.acc
  let cpr := encCpr s
  let fwd := crossed cpr a d.toNat
  let back := crossed cpr p (-d).toNat
  let revs := (s.ref.revs + (if fwd.contains 0 then 1 else 0) + (if back.contains 0 then 65535 else 0)) % 65536
  let s := showPos (modRef s fun r => { r with acc := p, revs := revs })
  if fwd = [] then s else forSlots s fun s n => crossSlot s fwd n

/-- The difference of two positions, in −CPR/2 to CPR/2 − 1 (R50). -/
def posDiff (cpr a b : Nat) : Int :=
  let d := ((a : Int) - (b : Int)) % (cpr : Int)
  if d ≥ (cpr : Int) / 2 then d - (cpr : Int) else d

/-- The raw count has changed (R50). -/
def rawChange (s : State) : State :=
  let d := posDiff (encCpr s) s.ref.raw s.ref.acc
  let dir : Int := if s.ref.fwd then 1 else -1
  if d * dir > 0 then moveTo s s.ref.raw d
  else if -d * dir ≥ (encHyst s : Int) then moveTo (modRef s fun r => { r with fwd := !r.fwd }) s.ref.raw d
  else s

/-- The step of a legal transition: A leads B going forward. (DEDUCED, log 20) -/
def quadStep (a b a' b' : Bool) : Int :=
  if a ≠ a' then (if a' ≠ b then 1 else -1) else (if b' = a then 1 else -1)

/-- The encoder inputs change (R49, R50). -/
def quadrature (s : State) (a b : Bool) : State :=
  let oa := s.ref.encA
  let ob := s.ref.encB
  if ¬ regBit s (filtReg 1) 31 ∨ (a = oa ∧ b = ob) then s
  else
    let s := modRef s fun r => { r with encA := a, encB := b }
    if a ≠ oa ∧ b ≠ ob then count s 0x4008C
    else
      let cpr := encCpr s
      let step := quadStep oa ob a b
      let step := if regBit s encCfgReg 31 then -step else step
      rawChange (modRef s fun r => { r with raw := (((r.raw : Int) + step) % (cpr : Int)).toNat })

/-- The index pulse (R51): honoured going forward; the raw count and the position become 0. (DEDUCED, log 20) -/
def indexPulse (s : State) : State :=
  if ¬ regBit s (filtReg 1) 31 ∨ s.ref.fwd = false then s
  else
    let cpr := encCpr s
    let dist := min s.ref.raw (cpr - s.ref.raw)
    let s := if dist = 0 then s
      else if dist ≤ 8 then count s 0x40090
      else refEvent (count s 0x40094) 6 0x04 .degraded 1
    let d := posDiff cpr 0 s.ref.acc
    let s := modRef s fun r => { r with raw := 0 }
    if d > 0 then moveTo s 0 d else showPos (modRef s fun r => { r with acc := 0 })

end Sys2Proof.Machine
end

