-- ==== Sys2Proof/Machine/IngestOps.lean ====
section
/-! DEFINITION. Ingest: the current frame, line classification (R124, R125), tags (R82), the course buffers (R128, R129), closing (R126, R127),
capability records (R121, R122), and black calibration (R393). -/

namespace Sys2Proof.Machine
open Sys2Proof

def ingEvent (s : State) (i : Nat) (sev : Severity) (n : Nat) (ord : Word) (tag : Nat) : State :=
  event s .ing i (i + 1) sev (ctxFrame n 1 n 0 ord tag 0) 0

/-! ### Ordinals (R5, R124) -/

/-- The number of the issued frame that an ordinal names. -/
def issuedNo (s : State) (n : Fin 8) (ord : Word) : Option Nat :=
  let c := (s.ref.slots[n]).issued
  let back := (BitVec.ofNat 32 (c - 1) - ord).toNat
  if c = 0 ∨ back ≥ 2147483648 ∨ back ≥ c then none else some (c - 1 - back)

/-! ### Tags (R82) -/

/-- The frame with a tag chosen: its bank's registers and objects; those in force where no bank is held. -/
def Frame.withTag (f : Frame) (s : State) (n : Fin 8) (tag : Nat) (inferred : Bool) : Frame :=
  let fr := f.fr
  let f := { f with
    fr := { fr with tag := tag }, tagKnown := true, bankRegs := tagRegs s n tag, bankObjs := ((bankOf s n tag).map (·.objs)).getD [] }
  if inferred then f.mark 4 else f

def tagMismatchReg : Nat := 0x20018

/-- The tag of a frame from its first accepted line. -/
def chooseTag (s : State) (n : Fin 8) (f : Frame) (echo : Nat) : State × Frame :=
  if ¬ f.echo then (s, f.withTag s n f.expTag true)
  else if (heldBanks s n).any fun b => decide (b.forme = echo) then
    (if echo = f.expTag then s else count s tagMismatchReg, f.withTag s n echo false)
  else
    let s := event (count s tagMismatchReg) .frm 2 0x03 .degraded (ctxFrame n 1 n 0 f.fr.ord f.expTag 0) 0
    (s, f.withTag s n f.expTag true)

/-! ### Black calibration (R393) -/

/-- A frame's working values after step 2, with no column term, added to the sums of a calibration. -/
def BlackCal.add (c : BlackCal) (r : RawIn) : BlackCal :=
  let r0 : RawIn := { r with rd := fun off => (if off = 0 then clrBit (r.rd 0) 0 else r.rd off) }
  let gains := if r.dual then 2 else 1
  let mH := if r.frameMeas then r.measured 0 else none
  let mL := if r.frameMeas && r.dual then r.measured 1 else none
  let val := fun (g x y : Nat) => sat28 (16 * (r.sample g x y : Int) - r0.black (if g = 0 then mH else mL) g x y)
  let rows := (List.range r.height).filter r.has
  let one := fun (i : Nat) => ((rows.map fun y => val (i / r.width) (i % r.width) y).sum, rows.length)
  let l := (List.range (gains * r.width)).map one
  let sums := l.zipIdx.map fun p =>
    let old := c.sums.getD p.2 (0, 0)
    (old.1 + p.1.1, old.2 + p.1.2)
  { c with used := c.used + 1, sums := sums }

/-- The column offsets of a calibration: means rounded half up, 16 bits each. -/
def BlackCal.bytes (c : BlackCal) : List Byte :=
  c.sums.flatMap fun p => leBytes 2 (unsigned 16 (if p.2 = 0 then 0 else clampI (rhu p.1 p.2) (-32768) 32767))

/-- A calibration answers with the frames it used: its result goes to host memory first. -/
def endCal (s : State) (c : BlackCal) : State :=
  let s := putOut { s with mbx := { s.mbx with calib := s.mbx.calib.filter fun x => decide (x ≠ c) } } c.party c.segs c.bytes
  mbxReply s c.party c.mslot stSuccess 0 c.used 0

/-- Calibrations of a slot take a frame as it closes; one that has its frames answers. -/
def calFrame (s : State) (n : Fin 8) (r : RawIn) : State :=
  let step := fun (c : BlackCal) => if c.slot = n.val then c.add r else c
  let s := { s with mbx := { s.mbx with calib := s.mbx.calib.map step } }
  (s.mbx.calib.filter fun c => decide (c.used ≥ c.want)).foldl endCal s

/-! ### Closing (R126, R127) -/

/-- Line frets that close unfired with their frame (R58). -/
def unfiredLines (n : Nat) (f : Frame) : Nat :=
  ((frets f.cfg n).filter fun e => decide (e.kind = 1) && !e.late && !f.fired.contains e.idx).length

/-- A frame has an APPLY_FORME entry in its table (R59). -/
def appliesByFret (n : Nat) (f : Frame) : Bool := (frets f.cfg n).any fun e => decide (e.action = 1)

/-- The exposure message of a closing frame is forgotten, unless a SEND_EXPOSURE fret can still name the frame (R80). -/
def sentStays (ord : Word) (issued : Nat) (e : SentExp) : Bool :=
  decide (issued ≤ e.ord + 1) || decide (BitVec.ofNat 32 e.ord ≠ ord)

/-- A frame closes, with a cause of R126. -/
def closeFrame (s : State) (n : Fin 8) (ord : Word) (cause : Nat) : State :=
  match frameOf s n ord with
  | none => s
  | some f =>
    if f.closed then s
    else
      let f := if f.tagKnown then f else f.withTag s n f.expTag true
      let short : Bool := decide (1 ≤ cause) && decide (cause ≤ 3)
      let f : Frame := { (if short then f.mark 0 else if cause = 4 then f.mark 2 else f) with closed := true }
      let s := if cause = 4 then { s with ing := { s.ing with overflowed := vMod s.ing.overflowed n fun l => ord :: l } } else s
      let s := if short then ingEvent (count s (ingReg n 0x38)) 0 .degraded n ord f.fr.tag
        else if cause = 4 then ingEvent (count s (ingReg n 0x3C)) 2 .degraded n ord f.fr.tag else s
      let s := regSet s (ingReg n 0x14) (packFields [(29, cause), (0, f.fr.linesReceived)])
      let s := regSet s (ingReg n 0x18) ord
      let s := countN s (unfiredReg n) (unfiredLines n f)
      let s := modFrame s n ord fun _ => f
      let s := if appliesByFret n f then s else frameBoundary s n (decide (ord = newestOrd s n))
      let s := calFrame s n (rawOf s n f)
      let (s, f) := processFrame s n f
      let s := modFrame s n ord fun _ => f
      let s := modCad s n fun c => { c with sent := c.sent.filter (sentStays ord c.issued) }
      showCurrent (slotLatched (releaseFormes (releaseBanks s)) n (issuedNo s n ord)) n

/-- The open frames of a slot among those given, closed oldest first. -/
def closeWhere (s : State) (n : Fin 8) (p : Frame → Bool) (cause : Nat) : State :=
  ((s.ing.frames[n]).filter fun f => !f.closed && p f).foldl (fun s f => closeFrame s n f.fr.ord cause) s

/-- A frame's TIMEOUT has passed (R31, R126). -/
def timedOut (s : State) (n : Nat) (f : Frame) : Bool :=
  decide ((f.issueTick : ℚ) + (field (f.reg (ingReg n 8)) 23 0 : ℚ) * f.lineTime ≤ (s.now : ℚ))

/-! ### Lines (R115 to R118, R124, R125, R128, R129) -/

/-- A line packet's fields (Table ING-1). -/
structure LineHdr where
  tag : Nat
  ord : Word
  line : Nat
  frameLines : Nat

def lineHdr (b : List Byte) : LineHdr where
  tag := (byteAt b 2).toNat
  ord := BitVec.ofNat 32 (leAt b 4 4)
  line := leAt b 8 2
  frameLines := leAt b 10 2

/-- The payload length of a line (R116). -/
def linePayload (fmt : Word) (width : Nat) : Nat :=
  ceilDiv (width * (if bit fmt 2 then 2 else 1) * sampleBits (field fmt 1 0)) 8

/-- The geometry and format that a line of an ordinal is checked against (R124). (DEDUCED, log 24) -/
def geomFor (s : State) (n : Fin 8) (ord : Word) : Word × Word :=
  let live := (regGet s (ingReg n 0), regGet s (ingReg n 4))
  match issuedNo s n ord with
  | none => live
  | some j => (((s.ing.geoms[n]).filter fun g => decide (g.1 ≤ j)).getLast?.map (·.2)).getD live

/-- A failed line (Table ING-3, first row): its packet, header, CRC, length, format or width is bad. -/
def lineFails (s : State) (n : Fin 8) (p : OpenPkt) : Bool :=
  let b := p.bytes
  let (geom, fmt) := geomFor s n (lineHdr b).ord
  let size := 16 + linePayload fmt (field geom 15 0) + 4
  p.aborted || p.errored || decide (p.len ≠ size) || decide (b.length ≠ size)
    || decide (crcFrom 0xFFFFFFFF (b.take (size - 4)) ^^^ 0xFFFFFFFF ≠ leAt b (size - 4) 4)
    || decide (byteAt b 0 ≠ 1) || decide ((byteAt b 1).toNat ≠ p.stream) || decide ((byteAt b 3).toNat ≠ field fmt 2 0)
    || decide (leAt b 12 2 ≠ field geom 15 0)

/-- (DEDUCED, log 24) -/
def failLine (s : State) (n : Fin 8) : State :=
  let s := count s (ingReg n 0x24)
  match currentFrame s n with
  | none => ingEvent s 3 .degraded n 0 0
  | some f =>
    let s := modFrame s n f.fr.ord fun f =>
      let fr := f.fr
      ({ f with fr := { fr with linesCrc := fr.linesCrc + 1 } } : Frame).mark 3
    ingEvent s 3 .degraded n f.fr.ord f.fr.tag

def strayLine (s : State) (n : Fin 8) (ord : Word) : State :=
  let s := if (s.ing.overflowed[n]).contains ord then count s (ingReg n 0x34) else s
  ingEvent (count s (ingReg n 0x30)) 4 .info n ord 0

/-- Bytes of a frame's line in the input buffers of its courses: 16 bits for each sample of the stripe (R128, R131). -/
def stripeBytes (f : Frame) : List (Nat × Nat) :=
  let cs := coursesIn f.fr.courses
  cs.zipIdx.map fun p => (p.1, stripePixels f.width cs.length p.2 * (if bit f.fmt 2 then 4 else 2))

/-- The input buffers take a line: none when one of them lacks room (R128, R129). -/
def fillBuffers (s : State) (l : List (Nat × Nat)) : Option State :=
  if l.any fun x => decide ((s.ing.fill.toList.getD x.1 0) + x.2 > 1048576) then none
  else some (l.foldl (fun s x =>
    let s := { s with ing := { s.ing with fill := vMod s.ing.fill x.1 fun v => v + x.2 } }
    let v := s.ing.fill.toList.getD x.1 0
    regSet s (0x61010 + 4 * x.1) (BitVec.ofNat 32 (max v (regGet s (0x61010 + 4 * x.1)).toNat))) s)

/-- Bytes drained from the input buffers. -/
def drainBuffers (s : State) (d : Vector Nat 4) : State :=
  { s with ing := { s.ing with fill := Vector.ofFn fun i => s.ing.fill[i] - d[i] } }

/-- Frets that come due with an accepted line, in ascending order: its line frets, and the slot's phase and mains frets of the same tick when
there are any (R56, R57). (DEDUCED, log 21) -/
def lineFrets (s : State) (n : Fin 8) (f : Frame) (line : Nat) : State :=
  let due := (frets f.cfg n).filter fun e => decide (e.kind = 1) && decide (e.key ≤ line) && !f.fired.contains e.idx
  if due = [] then s
  else
    let c := s.ref.slots[n]
    let now_ := (frets c.cfg n).filter fun e =>
      (phaseReady s n e && decide (keyTick c e.key = s.now)) || (mainsReady s n e && decide (mainsTick s e.key = some s.now))
    (List.range 256).foldl (fun s i =>
      let s := match due.find? fun e => decide (e.idx = i) with
        | some e => fireLine s n f.fr.ord line e
        | none => s
      match now_.find? fun e => decide (e.idx = i) with
        | some e => if (s.ref.slots[n]).fired.contains e.idx then s else fire s n e
        | none => s) s

/-- A stage of a frame's courses has met an uncorrectable SRAM error (R419, R420): DATA_CORRUPT, and one record. Which stage it is, and the
record's code, are free: the spec gives the record no code. (DEDUCED, log 24) -/
def sramError (s : State) (n : Fin 8) (f : Frame) : State :=
  let (k, s) := freeNat s
  let (code, s) := freeNat s
  record (modFrame s n f.fr.ord fun f => f.mark 5) ([0x08, 0x0A, 0x0C].getD (k % 3) 0x08) (code % 256) .degraded f.slotCtx 0

/-- A line accepted into the current frame (R82, R124, R125); a LUT word that its renditions find uncorrectable stays so until it is reloaded
(R183). -/
def acceptLine (s : State) (n : Fin 8) (f : Frame) (h : LineHdr) (payload : List Byte) (fault : StageFault) : State :=
  let first : Bool := decide (f.lines = [])
  let (s, f) := if first then chooseTag s n f h.tag else (s, f)
  let e := f.fr.linesExpected
  let long : Bool := first && decide (h.frameLines > e)
  let f := if first then { f with frameLines := h.frameLines } else f
  let fr := f.fr
  let f := if long then ({ f with fr := { fr with linesDiscarded := h.frameLines - e } } : Frame).mark 1 else f
  let fr := f.fr
  let f := { f with lines := f.lines ++ [(h.line, payload)], fr := { fr with linesReceived := fr.linesReceived + 1 } }
  let s := count (modFrame s n f.fr.ord fun _ => f) (ingReg n 0x20)
  let s := if long then ingEvent s 1 .degraded n f.fr.ord f.fr.tag else s
  let s := if h.line ≥ f.frameLines then ingEvent (count s (ingReg n 0x40)) 8 .degraded n f.fr.ord f.fr.tag else s
  let s := match fault with
    | .none => s
    | .sram => sramError s n f
    | .engine c => modFrame s n f.fr.ord fun f => { f with engineBad := f.engineBad ++ [(c.val, h.line)] }
    | .lut w => { s with lut := { s.lut with bad := if s.lut.bad.contains w then s.lut.bad else s.lut.bad ++ [w] } }
    | .lutCorrected k => countN s 0xB0004 k
  let s := lineFrets (showCurrent (if first then slotLatched s n (issuedNo s n f.fr.ord) else s) n) n f h.line
  let s := advanceFrame s n f.fr.ord
  if h.line + 1 = e then closeFrame s n f.fr.ord 0 else s

/-- A line against the current frame, whose ordinal it carries. -/
def lineOf (s : State) (n : Fin 8) (f : Frame) (h : LineHdr) (payload : List Byte) (fault : StageFault) : State :=
  if h.line ≥ f.fr.linesExpected then count s (ingReg n 0x28)
  else if f.lastLine.any fun y => decide (h.line ≤ y) then
    ingEvent (count s (ingReg n 0x2C)) 5 .degraded n f.fr.ord f.fr.tag
  else match fillBuffers s (stripeBytes f) with
  | none => closeFrame s n f.fr.ord 4
  | some s => acceptLine s n f h payload fault

/-- A line packet delivered for a slot (Table ING-3). -/
def classify (s : State) (n : Fin 8) (p : OpenPkt) (fault : StageFault) : State :=
  if lineFails s n p then failLine s n
  else
    let h := lineHdr p.bytes
    let payload := (p.bytes.take (p.bytes.length - 4)).drop 16
    match currentFrame s n, issuedNo s n h.ord with
    | some c, some _ =>
      if later c.fr.ord h.ord then strayLine s n h.ord
      else
        let s := closeWhere s n (fun f => later h.ord f.fr.ord) 1
        match currentFrame s n with
        | some f => if f.fr.ord = h.ord then lineOf s n f h payload fault else strayLine s n h.ord
        | none => strayLine s n h.ord
    | _, _ => strayLine s n h.ord

/-! ### Capability records (R121, R122) -/

def modCap (s : State) (n : Nat) (f : CapSt → CapSt) : State := { s with ing := { s.ing with caps := vMod s.ing.caps n f } }

/-- A CAP_REQUEST sent for a slot: counted since LINK_UP, and awaited from now. -/
def sendCapRequest (s : State) (n : Fin 8) (total : Nat) : State :=
  match slotLink s n with
  | none => s
  | some (k, stream) =>
    let s := modCap (sendBc s k (.capRequest stream)) n fun c => { c with askedAt := some s.now }
    let w := regGet s (capStateReg n)
    regSet s (capStateReg n) (packFields [(30, max 1 (field w 31 30)), (0, min 255 total)])

/-- The first CAP_REQUEST of a slot, at LINK_UP. -/
def requestCap (s : State) (n : Fin 8) : State := sendCapRequest (modCap s n fun c => { c with fails := 0 }) n 1

/-- An acceptable record (R121): whole, its CRC, CAP_VER and STREAM right. -/
def capOk (p : OpenPkt) : Bool :=
  let b := p.bytes
  !p.aborted && !p.errored && decide (p.len = 68) && decide (b.length = 68)
    && decide (crcFrom 0xFFFFFFFF (b.take 64) ^^^ 0xFFFFFFFF = leAt b 64 4)
    && decide (byteAt b 0 = 1) && decide ((byteAt b 1).toNat = p.stream)

/-- A record comes into force: its words, and the sensor's minimum period (Table ING-2). -/
def putCap (s : State) (n : Fin 8) (b : List Byte) : State :=
  regSet (regSetWide s (capReg n 0) (wordsOf 16 b)) (slotReg n 0x28) (BitVec.ofNat 32 (leAt b 0x14 4))

/-- Bytes of two records that differ in a range. -/
def capDiffers (a b : List Byte) (lo hi : Nat) : Bool := decide ((a.take hi).drop lo ≠ (b.take hi).drop lo)

/-- An accepted record (R121, R122). (DEDUCED, log 22) -/
def acceptCap (s : State) (n : Fin 8) (b : List Byte) : State :=
  let old := bytesOf (regWords s (capReg n 0) 16)
  let st := regField s (capStateReg n) 31 30
  let s := modCap s n fun c => { c with askedAt := none, fails := 0, broughtUp := true }
  if st < 2 then regPut (putCap s n b) (capStateReg n) 31 30 2
  else if ¬ capDiffers old b 0x02 0x2A then putCap s n b
  else
    let s := ingEvent (putCap s n b) 7 .info n 0 0
    if (capDiffers old b 0x02 0x04 ∨ capDiffers old b 0x0C 0x2A) ∧ unmasked s n then
      let no := s.frm.commits
      regPut (modCap s n fun c => { c with awaits := some no }) (capStateReg n) 31 30 3
    else s

/-- A request of a slot has gone unanswered long enough on a link that is UP: 10 ms, and 100 ms from the third failure on. -/
def capDue (s : State) (n : Fin 8) : Bool :=
  let c := s.ing.caps[n]
  match c.askedAt with
  | some t => (slotLink s n).any (fun l => (s.lnk.links[l.1]).st == .up) && decide (s.now ≥ t + (if c.fails < 3 then 10000000 else 100000000))
  | none => false

/-- What follows an unanswered CAP_REQUEST: the third one raises CAP_FAIL, the others are followed by a new one. (DEDUCED, log 22) -/
def capTimeout (s : State) (n : Fin 8) : State :=
  let c := s.ing.caps[n]
  let s := modCap s n fun c => { c with fails := c.fails + 1 }
  if c.fails = 2 then
    let now_ := s.now
    ingEvent (modCap s n fun c => { c with askedAt := some now_ }) 6 .degraded n 0 0
  else sendCapRequest s n (regField s (capStateReg n) 7 0 + 1)

/-! ### Links that go DOWN (R104, R109, R121, R126) -/

/-- The slots of a link that leaves UP are no longer brought up, and no record is awaited from them (R121). (DEDUCED, log 22) -/
def forgetCaps (s : State) (k : Fin 4) : State :=
  (slotsOf s k).foldl (fun s (n : Fin 8) => modCap s n fun c => { c with askedAt := none, broughtUp := false }) s

/-- A line waits: a course of its frame has not yet been left by the frame that a forme moved it from (R20). (DEDUCED, log 24) -/
def lineWaits (s : State) (p : OpenPkt) : Bool :=
  p.slot.any fun n => (frameOf s (slotOf n) (lineHdr p.bytes).ord).any fun f => !f.closed && courseTaken s (slotOf n) f

/-- A received item is a line that ingest can take now. -/
def isLine (s : State) : RxItem → Bool
  | .packet p => decide (p.ty = 1) && !lineWaits s p
  | _ => false

/-- The lines that a link has delivered and ingest has not yet taken, classified in their order: what they close they close before the link's
DOWN does (R126). (DEDUCED, log 24) -/
def takeLines (s : State) (k : Fin 4) : State :=
  let l := (s.lnk.links[k]).rx
  let s1 := modLink s k fun x => { x with rx := l.filter fun i => !isLine s i }
  (l.filter (isLine s)).foldl (fun s i => match i with
    | .packet p => p.slot.elim s fun n => classify s (slotOf n) p .none
    | _ => s) s1

/-- A line of a slot waits for ingest: it is taken before a TIMEOUT of the same cycle (R126). -/
def slotLineWaiting (s : State) (n : Nat) : Bool :=
  s.lnk.links.toList.any fun l => l.rx.any fun i => isLine s i && (match i with
    | .packet p => decide (p.slot = some n)
    | _ => false)

/-- The slots of a link that has gone DOWN: delivered lines are taken, and then their open frames close. -/
def linkDownFrames (s : State) (k : Fin 4) : State :=
  (slotsOf s k).foldl (fun s (n : Fin 8) => closeWhere s n (fun _ => true) 3) (forgetCaps (takeLines s k) k)

end Sys2Proof.Machine
end

