-- ==== Sys2Proof/Machine/Ingest.lean ====
section
/-! DEFINITION. The commands of the ING block and of frames on their way through the courses: lines, timeouts, seals, capability records,
metadata, statistics acknowledgements, the LUT scrub and complete surfaces (chapters 05 to 08). -/

namespace Sys2Proof.Machine
open Sys2Proof

/-! ### What a link has received -/

/-- The first received item that a test takes, and the rest. -/
def takeItem (f : RxItem → Bool) : List RxItem → Option (RxItem × List RxItem)
  | [] => none
  | x :: r => if f x then some (x, r) else (takeItem f r).map fun p => (p.1, x :: p.2)

/-- The first received packet of a type that a test lets pass, and the rest. -/
def takePacketIf (ty : Nat) (ok : OpenPkt → Bool) (l : List RxItem) : Option (OpenPkt × List RxItem) :=
  match takeItem (fun x => match x with | .packet p => decide (p.ty = ty) && ok p | _ => false) l with
  | some (.packet p, r) => some (p, r)
  | _ => none

/-- The oldest packet of a type that a link has received and a test lets pass, taken and handed on with its slot. -/
def withPacketIf (s : State) (k : Fin 4) (ty : Nat) (ok : OpenPkt → Bool) (f : State → Fin 8 → OpenPkt → State) : State :=
  match takePacketIf ty ok (s.lnk.links[k]).rx with
  | none => s
  | some (p, r) =>
    let s := modLink s k fun l => { l with rx := r }
    match p.slot with
    | some n => f s (slotOf n) p
    | none => s

def takePacket (ty : Nat) (l : List RxItem) : Option (OpenPkt × List RxItem) := takePacketIf ty (fun _ => true) l

def withPacket (s : State) (k : Fin 4) (ty : Nat) (f : State → Fin 8 → OpenPkt → State) : State :=
  withPacketIf s k ty (fun _ => true) f

/-- LINE_PACKET (R20, R115 to R119, R124 to R132). -/
def execLinePacket (k : Fin 4) (drained : Vector Nat 4) (fault : StageFault) (s : State) : Host.Outcome State Fault Refusal :=
  inCore s fun s => withPacketIf s k 1 (fun p => !lineWaits s p) fun s n p => classify (drainBuffers s drained) n p fault

/-- CAPABILITY (R120 to R122). A record that no request awaits, or that is not acceptable, changes nothing. (DEDUCED, log 22) -/
def execCapability (k : Fin 4) (s : State) : Host.Outcome State Fault Refusal :=
  inCore s fun s => withPacket s k 2 fun s n p =>
    if (s.ing.caps[n]).askedAt.isSome ∧ capOk p then acceptCap s n (p.bytes.take 64) else s

/-- CAP_REQUEST_TIMEOUT (R121). -/
def execCapRequestTimeout (n : Fin 8) (s : State) : Host.Outcome State Fault Refusal :=
  inCore s fun s => if capDue s n then capTimeout s n else s

/-- FRAME_TIMEOUT (R126): the oldest frame of the slot that is open and whose TIMEOUT has passed closes, whether or not it is current; a line
of the slot that has been delivered is taken first. (DEDUCED, log 24) -/
def execFrameTimeout (n : Fin 8) (s : State) : Host.Outcome State Fault Refusal :=
  inCore s fun s => if slotLineWaiting s n then s else match (s.ing.frames[n]).find? fun f => !f.closed && timedOut s n f with
    | some f => closeFrame s n f.fr.ord 2
    | none => s

/-! ### Seals (R22, R25, R219, R221) -/

/-- The galley's part of a seal: the reservation shrinks to the frame, which is ready for the take it belongs to or kept for pre-record; a
frame that was not recorded leaves a gap in its take. -/
def sealGalley (s : State) (n : Fin 8) (f : Frame) : State :=
  let take := takeOf s n f.fr.ord
  match f.hold with
  | .none => s
  | .failed => syncWait (addGap s (.frame n) f.fr.ord take (some f.fr))
  | .held _ target =>
    match s.gal.items.find? fun i => decide (i.kind = .frame n) && decide (i.ord = f.fr.ord) && !i.ready with
    | none => s
    | some it =>
      let no := s.gal.nextSeal
      let s := modItem s it.ident fun i => { i with
        ready := true, sealNo := no, data := f.trb, fr := some f.fr, units := units4k f.trb.length, take := take }
      let s := { s with gal := { s.gal with nextSeal := no + 1 } }
      let s := modGov s n fun g => { g with last8 := ((f.trb.length, target) :: g.last8).take 8 }
      syncWait (preRecRelease s n)

/-- A frame's record is sealed: the galley, the surfaces and the encoder streams take their copies, and the frame is done. -/
def sealFrame (s : State) (n : Fin 8) (f : Frame) : State :=
  let s := sealGalley s n f
  let put := fun (w : Writing) => if w.slot = n.val ∧ w.ord = f.fr.ord then { w with fr := some f.fr } else w
  let s := { s with imp := { s.imp with writing := s.imp.writing.map put } }
  let s := modFrames s n fun l => l.filter fun x => decide (x.fr.ord ≠ f.fr.ord)
  encSealed s n f.fr

/-- FRAME_SEALED (R25): of a slot's frames the oldest first, so that its records and items stand in ordinal order (R223). (DEDUCED, log 24) -/
def execFrameSealed (n : Fin 8) (ord : Word) (s : State) : Host.Outcome State Fault Refusal :=
  inCore s fun s => match s.ing.frames[n].head? with
    | some f => if f.closed ∧ f.fr.ord = ord then settleTakes (sealFrame s n f) else s
    | none => s

/-! ### Surfaces (R22, R197, R201) -/

/-- SURFACE_COMPLETE (R22, R201): never before the frame's record is sealed. -/
def execSurfaceComplete (k : Fin 32) (s : State) : Host.Outcome State Fault Refusal := inCore s fun s => settleSurface s k

/-! ### Writes with an effect of their own -/

/-- META_COMMIT (R133): GO copies the staging buffer into the committed one. -/
def execMetaCommit (p : Party) (n : Fin 8) (v : Word) (s : State) : Host.Outcome State Fault Refusal :=
  inCore s fun s => writeBy s p (ingReg n 0x100) fun s =>
    if bit v 0 then
      let l := bytesOf (regWords s (ingReg n 0x80) 32)
      regSet { s with ing := { s.ing with metadata := s.ing.metadata.set n l } } (ingReg n 0x104) (regGet s (ingReg n 0x104) + 1)
    else s

/-- STATS_ACK (R398): record SEQ of the slot counts as pulled. -/
def execStatsAck (p : Party) (n : Fin 8) (v : Word) (s : State) : Host.Outcome State Fault Refusal :=
  inCore s fun s => writeBy s p (0x1D5000 + 4 * n) fun s =>
    match statAt s.rfe[n] v.toNat with
    | .held x => pullStat s n x.seq
    | _ => s

/-- LUT_SCRUB (R183). (DEDUCED, log 24) -/
def execLutScrub (corrected : Nat) (bad : List Nat) (s : State) : Host.Outcome State Fault Refusal :=
  inCore s fun s =>
    let s := countN s 0xB0004 corrected
    let s := { s with lut := { s.lut with bad := s.lut.bad ++ bad.filter fun w => !s.lut.bad.contains w } }
    lutBadRead s bad

end Sys2Proof.Machine
end

