-- ==== Sys2Proof/Machine/Link.lean ====
section
/-! DEFINITION. The Uaryn Link commands (chapter 04): bring-up, the receive path block by block, delay measurement,
equalisation and tests. Sensor packets other than lines are taken from the link here or in Ingest.lean. -/

namespace Sys2Proof.Machine
open Sys2Proof

/-! ### Packets handed on (R94) -/

/-- A received item handed on, packets counted in LNK.Lk_PKTS. -/
def deliverPkt (s : State) (k : Fin 4) (p : OpenPkt) : State :=
  let s := if p.aborted then count s (lkReg k 0x1C) else s
  modLink (count s (lkReg k 0x30)) k fun l => { l with rx := l.rx ++ [.packet p], pkt := none }

/-- The open packet, if any, delivered ABORTED. -/
def abortOpen (s : State) (k : Fin 4) : State :=
  match s.lnk.links[k].pkt with
  | some p => deliverPkt s k { p with aborted := true }
  | none => s

/-- A link leaves UP: its open packet is delivered ABORTED, and its sensors are no longer brought up (R94, R121). -/
def leaveUp (s : State) (k : Fin 4) : State := if s.lnk.links[k].st = .up then forgetCaps (abortOpen s k) k else s

/-! ### Faults of a link (R104) -/

/-- A fault of a link: DOWN from UP, with its open packet delivered ABORTED, the frames in progress closed, LINK_DOWN
and a new bring-up; before UP, the attempt ends under the running timeout (R104). -/
def linkFault (s : State) (k : Fin 4) : State :=
  match s.lnk.links[k].st with
  | .up =>
    let s := count (leaveUp s k) (lkReg k 0x28)
    let s := lnkEvent s 1 0x02 .degraded k 0
    let s := clearInvert (linkDownFrames s k) k
    if linkEnabled s k then startBringup s k
    else modLink (restartLanes s k) k fun l => { l with st := .down, mapOk := false, rr := 0 }
  | .locking => toConfig s k
  | .deskew => toConfig s k
  | .config => toConfig s k
  | _ => s

/-- A deskew failure (R100). -/
def deskewFail (s : State) (k : Fin 4) : State :=
  linkFault (count (lnkEvent s 4 0x05 .degraded k 0) (lkReg k 0x18)) k

/-! ### Block lock (R97) -/

/-- A header examined while block lock is sought: 64 consecutive valid ones gain it, an invalid one moves the candidate boundary one bit
later. (DEDUCED, log 23) -/
def seekHeader (s : State) (j : Fin 32) (ok : Bool) : State :=
  modLane s j fun l =>
    if ok then
      if l.goodRun + 1 ≥ 64 then { l with blockLock := true, goodRun := 0, winPos := 0, winBad := 0 }
      else { l with goodRun := l.goodRun + 1 }
    else { l with goodRun := 0, slip := (l.slip + 1) % 66 }

/-- Block lock lost: counted, LANE_LOCK_LOSS on an assigned lane, and the link's fault (R97, R104). -/
def loseBlockLock (s : State) (j : Fin 32) : State :=
  let s := count s (laneReg j 0x0C)
  let s := modLane s j fun l => { l with blockLock := false, goodRun := 0, winPos := 0, winBad := 0, amLock := false,
                                         sinceAm := none, amMiss := 0 }
  match laneLink s j with
  | some k => linkFault (lockLoss s k j) k
  | none => s

/-- A header examined in the windows of 64 of a locked lane: 16 invalid ones lose lock at the last header of their window (R97); an invalid one is
counted in HDR_ERR (R94). -/
def windowHeader (s : State) (j : Fin 32) (ok : Bool) : State :=
  let l := s.lnk.lanes[j]
  let s := if ok then s else modLane (count s (laneReg j 0x08)) j fun l => { l with errCur := l.errCur + 1 }
  let bad := l.winBad + (if ok then 0 else 1)
  if l.winPos + 1 ≥ 64 then (if bad ≥ 16 then loseBlockLock s j else modLane s j fun l => { l with winPos := 0, winBad := 0 })
  else modLane s j fun l => { l with winPos := l.winPos + 1, winBad := bad }

def headerBlk (s : State) (j : Fin 32) (ok : Bool) : State :=
  if s.lnk.lanes[j].blockLock then windowHeader s j ok else seekHeader s j ok

/-! ### PRBS checker (R113) -/

/-- The two taps of a pattern's polynomial (Table LNK-11). -/
def prbsTaps : Nat → Nat × Nat
  | 0 => (7, 6)
  | 1 => (15, 14)
  | 2 => (23, 18)
  | _ => (31, 28)

/-- One bit into the self-synchronising checker. -/
def prbsBit (taps : Nat × Nat) (p : Prbs) (b : Bool) : Prbs × Bool :=
  let want := xor (p.hist.getLsbD (taps.1 - 1)) (p.hist.getLsbD (taps.2 - 1))
  let err := b != want
  let p1 := { p with hist := (p.hist <<< 1) ||| (if b then 1 else 0), pos := p.pos + 1 }
  if p.locked then
    let errs := if err then (p.pos :: p.errs).take 64 else p.errs
    let lost := decide (errs.length = 64) && decide (p.pos < errs.getLastD 0 + 1024) && err
    ({ p1 with errs := if lost then [] else errs, locked := !lost, run := 0, bits := p.bits + 1 }, err)
  else
    let run := if err then 0 else p.run + 1
    ({ p1 with run := if run ≥ 64 then 0 else run, locked := decide (run ≥ 64), errs := [] }, false)

/-- Bits into the checker, lowest first; the errors counted while locked. -/
def prbsBits (taps : Nat × Nat) : List Bool → Prbs → Nat → Prbs × Nat
  | [], p, e => (p, e)
  | b :: r, p, e => let (p1, err) := prbsBit taps p b; prbsBits taps r p1 (if err then e + 1 else e)

/-- The bits of a block in the order they were received. -/
def blockBits (hdr : BitVec 2) (payload : BitVec 64) : List Bool :=
  [hdr.getLsbD 0, hdr.getLsbD 1] ++ (List.range 64).map fun i => payload.getLsbD i

/-- Bits of the on-die generator, lowest first (Table LNK-10). -/
def prbsGen (taps : Nat × Nat) : Nat → BitVec 31 → List Bool → List Bool × BitVec 31
  | 0, h, acc => (acc.reverse, h)
  | n + 1, h, acc =>
    let b := xor (h.getLsbD (taps.1 - 1)) (h.getLsbD (taps.2 - 1))
    prbsGen taps n ((h <<< 1) ||| (if b then 1 else 0)) (b :: acc)

/-- A block checked against the lane's pattern: PRBS_ERR, PRBS_MBITS and CHECK_LOCK (R113). -/
def prbsBlock (s : State) (j : Fin 32) (bits : List Bool) : State :=
  let taps := prbsTaps (regField s (laneReg j 4) 27 26)
  let (p, e) := prbsBits taps bits s.lnk.lanes[j].prbs 0
  let s := countN s (laneReg j 0x1C) e
  let s := countN s (laneReg j 0x20) (p.bits / 1048576)
  let s := modLane s j fun l => { l with prbs := { p with bits := p.bits % 1048576 } }
  regPut s (laneReg j 4) 25 25 (if p.locked then 1 else 0)

/-- The test mode of a lane (Table LNK-10). -/
def testMode (s : State) (j : Nat) : Nat := regField s (laneReg j 4) 30 28

/-- 66 bits on a lane under test: the received ones in MODE 1 and 4, in MODE 2 and 3 those of the on-die generator; INVERT complements
them once the lane has been mapped (R113). (DEDUCED, log 23) -/
def testBlock (s : State) (j : Fin 32) (hdr : BitVec 2) (payload : BitVec 64) : State :=
  let l := s.lnk.lanes[j]
  let own : Bool := decide (testMode s j = 2) || decide (testMode s j = 3)
  let (g, h) := prbsGen (prbsTaps (regField s (laneReg j 4) 27 26)) 66 l.gen []
  let bits := if own then g else blockBits hdr payload
  let s := if own then modLane s j fun l => { l with gen := h } else s
  prbsBlock s j (if l.invert && l.mapped.isSome then bits.map (!·) else bits)

/-! ### Descrambler (R92) -/

/-- Payload bits recovered one by one: d(n) = s(n) xor s(n − 39) xor s(n − 58). -/
def descramble (payload : BitVec 64) : Nat → BitVec 58 → BitVec 64 → BitVec 58 × BitVec 64
  | 0, h, acc => (h, acc)
  | n + 1, h, acc =>
    let i := 64 - (n + 1)
    let b := payload.getLsbD i
    let d := xor b (xor (h.getLsbD 38) (h.getLsbD 57))
    descramble payload n ((h <<< 1) ||| (if b then 1 else 0)) (if d then acc ||| (1#64 <<< i) else acc)

/-! ### Packets (R94) -/

def unknownCtl (s : State) (k : Fin 4) : State := count s (lkReg k 0x24)

/-- A forward packet type of Table LNK-7. -/
def knownType (ty : Nat) : Bool := 1 ≤ ty && ty ≤ 4

/-- A START block: the packet it opens, or its discard (R94). -/
def startBlock (s : State) (k : Fin 4) (b : List Byte) : State :=
  let ty := (byteAt b 1).toNat
  let stream := (byteAt b 2).toNat % 8
  if stream ≥ popCount (linkSlots s k) ∨ ¬ knownType ty then
    modLink (unknownCtl s k) k fun l => { l with dropping := true }
  else
    let pkt : OpenPkt := {
      ty := ty, stream := stream, slot := streamSlot s k stream, len := leAt b 4 4, bytes := [], errored := false, aborted := false }
    modLink s k fun l => { l with dropping := false, pkt := some pkt }

/-- A TERM block: the packet is delivered; a length that disagrees makes it ABORTED, padding is cut (R94). -/
def termBlock (s : State) (k : Fin 4) (b : List Byte) : State :=
  match s.lnk.links[k].pkt with
  | some p =>
    let ok := decide (leAt b 4 4 = p.len) && decide (p.bytes.length = 8 * ceilDiv p.len 8)
    deliverPkt s k { p with bytes := p.bytes.take p.len, aborted := p.aborted || !ok }
  | none => modLink s k fun l => { l with dropping := false }

/-- A stream block in reassembled order (R93, R94). A type that Table LNK-5 gives the back direction only is unknown here, and a block with
an invalid header brings no bytes. -/
def streamBlock (s : State) (k : Fin 4) : RxBlk → State
  | .filler => s
  | .marker _ => s
  | .bad => modLink s k fun l => { l with pkt := l.pkt.map fun p => { p with errored := true } }
  | .data b =>
    match s.lnk.links[k].pkt with
    | some _ => modLink s k fun l => { l with pkt := l.pkt.map fun p => { p with bytes := p.bytes ++ b } }
    | none => if s.lnk.links[k].dropping then s else count s (lkReg k 0x20)
  | .ctl b =>
    match (byteAt b 0).toNat with
    | 0x33 => startBlock (abortOpen s k) k b
    | 0x87 => termBlock s k b
    | 0x55 => modLink s k fun l => { l with rx := l.rx ++ [.status (b.drop 1)] }
    | 0x6A => modLink s k fun l => { l with rx := l.rx ++ [.echo (byteAt b 1).toNat] }
    | _ => modLink (unknownCtl s k) k fun l => { l with pkt := l.pkt.map fun p => { p with aborted := true } }

/-! ### Deskew and reassembly (R100, R101) -/

/-- The lane that carries a logical lane of a link. -/
def physicalOf (s : State) (k : Nat) (i : Nat) : Option (Fin 32) :=
  (lanesOf s k).find? fun (j : Fin 32) => decide (s.lnk.lanes[j].logical = i)

def headMarker (l : Lane) : Option Nat :=
  match l.fifo with
  | .marker q :: _ => some q
  | _ => none

/-- Reassembly as far as the FIFOs go (R101): the next logical lane's stream block; at a marker, every lane's marker
of one sequence count, then logical lane 0 again. -/
def reassemble : Nat → State → Fin 4 → State
  | 0, s, _ => s
  | fuel + 1, s, k =>
    let l := s.lnk.links[k]
    if l.st ≠ .up then s else
    match physicalOf s k l.rr with
    | none => s
    | some j =>
      match s.lnk.lanes[j].fifo with
      | [] => s
      | .filler :: r => reassemble fuel (modLane s j fun x => { x with fifo := r }) k
      | .marker q :: _ =>
        let ls := lanesOf s k
        if ls.all fun j => (headMarker s.lnk.lanes[j]).isSome then
          if ls.all fun j => headMarker s.lnk.lanes[j] == some q then
            let s := ls.foldl (fun s (j : Fin 32) => modLane s j fun x => { x with fifo := x.fifo.drop 1, marks := x.marks.drop 1 }) s
            reassemble fuel (modLink s k fun l => { l with rr := 0 }) k
          else deskewFail s k
        else s
      | b :: r =>
        let s := modLane s j fun x => { x with fifo := r }
        let s := modLink s k fun l => { l with rr := (l.rr + 1) % (lanesOf s k).length }
        reassemble fuel (streamBlock s k b) k

/-- Positions on the block clock of the markers that lanes have presented and no complete set has taken yet; the clock. -/
def firstMarks (s : State) (k : Nat) : List (Option Nat) := (lanesOf s k).map fun j => (s.lnk.lanes[j]).marks.head?.map (·.2)
def blockClock (s : State) (k : Nat) : Nat := ((lanesOf s k).map fun j => (s.lnk.lanes[j]).outPos).foldl max 0

/-- A deskew FIFO holds 80 blocks (R100). -/
def fifoFull (s : State) (k : Nat) : Bool := (lanesOf s k).any fun j => decide ((s.lnk.lanes[j]).fifo.length ≥ 80)

/-- A lane's marker of the next set comes 64 blocks or more after the earliest lane's, or has still not come then (R100). -/
def tooFarApart (s : State) (k : Nat) : Bool :=
  let marks := firstMarks s k
  let clock := blockClock s k
  match marks.filterMap id with
  | [] => false
  | p :: ps =>
    let e := ps.foldl min p
    marks.any fun m => decide ((m.getD clock) ≥ e + 64)

/-- PINGs 1 µs apart, the last of them so many µs from now as are still to be sent (R107). -/
def sendPings : Nat → State → Fin 4 → State
  | 0, s, _ => s
  | i + 1, s, k =>
    let l := s.lnk.links[k]
    let q := l.pingSeq % 256
    let at_ := s.now + 1000 * (8 - (i + 1))
    let s := emit s (.bc k (.ping q))
    sendPings i (modLink s k fun l => { l with
      pingSeq := q + 1, tx := l.tx.putPing at_ q, pings := l.pings ++ [{ id := q, sentAt := at_ }] }) k

def measureDelay (s : State) (k : Fin 4) : State :=
  sendPings 8 (modLink s k fun l => { l with lastMeas := s.now, pings := [], samples := [], dropped := 0 }) k

/-- The link goes UP (R103 step 5): LINK_UP, and the delay measurement that CAP_REQUEST follows. -/
def linkUp (s : State) (k : Fin 4) : State :=
  let s := modLink s k fun l => { l with st := .up, rr := 0, pkt := none, dropping := false, capsDue := true }
  measureDelay (lnkEvent s 0 0x01 .info k 0) k

/-- The sequence counts a lane has seen since the map was accepted. -/
def seqsOf (l : Lane) : List Nat := l.marks.map (·.1)

/-- FIFO contents behind the marker of a sequence count. -/
def behindMarker (q : Nat) : List RxBlk → List RxBlk
  | [] => []
  | .marker p :: r => if p = q then r else behindMarker q r
  | _ :: r => behindMarker q r

/-- Deskew on the first marker set that every lane has presented since the map was accepted (R100). -/
def tryDeskew (s : State) (k : Fin 4) : State :=
  let l := s.lnk.links[k]
  let ls := lanesOf s k
  if l.st ≠ .deskew then s else
  match ls with
  | [] => s
  | j0 :: _ =>
    match (seqsOf s.lnk.lanes[j0]).find? fun q => ls.all fun j => (seqsOf s.lnk.lanes[j]).contains q with
    | none => s
    | some q =>
      let pos := fun (j : Fin 32) => (s.lnk.lanes[j].marks.find? fun m => decide (m.1 = q)).elim 0 (·.2)
      let latest := ls.foldl (fun a (j : Fin 32) => max a (pos j)) 0
      let earliest := ls.foldl (fun a (j : Fin 32) => min a (pos j)) latest
      if latest - earliest > 64 then deskewFail s k
      else
        let s := ls.foldl (fun s (j : Fin 32) => modLane s j fun x => { x with
          skew := pos j - earliest, fifo := behindMarker q x.fifo,
          marks := (x.marks.dropWhile fun m => decide (m.1 ≠ q)).drop 1 }) s
        linkUp (modLink s k fun l => { l with maxSkew := latest - earliest }) k

/-- The lane map is formed and checked once every lane has marker lock (R99). -/
def tryMap (s : State) (k : Fin 4) : State :=
  let l := s.lnk.links[k]
  let ls := lanesOf s k
  if l.st ≠ .locking ∨ ls = [] ∨ ¬ ls.all (fun j => s.lnk.lanes[j].amLock) then s
  else
    let w := ls.length
    let widths := ls.all fun j => decide (s.lnk.lanes[j].width = w)
    let covered := (List.range w).all fun i =>
      decide ((ls.filter fun (j : Fin 32) => decide (s.lnk.lanes[j].logical = i)).length = 1)
    if widths && covered then
      let s := ls.foldl (fun s (j : Fin 32) => modLane s j fun x =>
        { x with fifo := [], outPos := 0, marks := [], mapped := some x.logical }) s
      modLink s k fun l => { l with st := .deskew, mapOk := true }
    else linkFault (lnkEvent s 3 0x04 .degraded k 0) k

/-! ### Elastic buffer (R102) -/

/-- A block taken from a lane's elastic buffer into its deskew FIFO, once the map has been accepted. Before the lanes are aligned the FIFO keeps
the latest 80 blocks. (DEDUCED, log 23) -/
def intoFifo (s : State) (j : Fin 32) (k : Fin 4) (b : RxBlk) : State :=
  if s.lnk.links[k].mapOk then
    let room := if s.lnk.links[k].st = .deskew then 79 else 80
    modLane s j fun l => { l with
      outPos := l.outPos + 1,
      marks := match b with | .marker q => l.marks ++ [(q, l.outPos)] | _ => l.marks,
      fifo := l.fifo.drop (l.fifo.length - room) ++ [b] }
  else s

/-- Reads of the elastic buffer by the block clock: at a fill of 12 or less a FILLER is presented without reading. -/
def ebRead : Nat → State → Fin 32 → Fin 4 → State
  | 0, s, _, _ => s
  | n + 1, s, j, k =>
    let l := s.lnk.lanes[j]
    if l.eb.length ≤ 12 then ebRead n (intoFifo (count s (laneReg j 0x14)) j k .filler) j k
    else match l.eb with
    | [] => s
    | b :: r => ebRead n (intoFifo (modLane s j fun l => { l with eb := r }) j k b) j k

/-- A block written into the elastic buffer: a FILLER at a fill of 20 or more is not; a buffer that reaches 32
blocks is EB_OVERFLOW. -/
def ebWrite (s : State) (j : Fin 32) (k : Fin 4) (b : RxBlk) : State :=
  let l := s.lnk.lanes[j]
  if b = .filler ∧ l.eb.length ≥ 20 then count s (laneReg j 0x18)
  else
    let s := modLane s j fun l => { l with eb := l.eb ++ [b] }
    if l.eb.length + 1 ≥ 32 then linkFault (laneEvent s 5 0x06 k j) k else s

/-- A block, where one is passed on, through rate matching, deskew and reassembly. -/
def throughLane (s : State) (j : Fin 32) (b : Option RxBlk) (reads : Nat) : State :=
  match laneLink s j with
  | none => s
  | some k =>
    if ¬ s.lnk.lanes[j].blockLock then s
    else
      let s := ebRead (min reads 64) s j k
      let s := b.elim s (ebWrite s j k)
      let s := tryDeskew s k
      let s := reassemble 256 s k
      if s.lnk.links[k].st = .up ∧ (tooFarApart s k ∨ fifoFull s k) then deskewFail s k else s

/-! ### Markers (R95, R96, R98) -/

/-- Marker lock lost (R98, R104). -/
def loseAmLock (s : State) (j : Fin 32) : State :=
  let s := modLane s j fun l => { l with amLock := false, sinceAm := none, amMiss := 0 }
  match laneLink s j with
  | some k => linkFault (lockLoss s k j) k
  | none => s

/-- A block that is no valid marker, for the marker grid: at an expected position it is counted in AM_MISS, and the
fourth in a row loses marker lock. -/
def notMarker (s : State) (j : Fin 32) : State :=
  let l := s.lnk.lanes[j]
  match l.sinceAm with
  | none => s
  | some d =>
    if d + 1 < 16384 then modLane s j fun l => { l with sinceAm := some (d + 1) }
    else if l.amLock then
      let s := count s (laneReg j 0x10)
      if l.amMiss + 1 ≥ 4 then loseAmLock s j
      else modLane s j fun l => { l with sinceAm := some 0, amMiss := l.amMiss + 1 }
    else modLane s j fun l => { l with sinceAm := none }

/-- The next block of a lane lies 16,384 blocks after the last marker of its grid. -/
def onGrid (l : Lane) : Bool := decide (l.sinceAm = some 16383)

/-- A valid marker, for the marker grid: the second 16,384 blocks after the first gains marker lock and names the
logical lane; one at any other position of a locked lane is counted in AM_MISS. -/
def onMarker (s : State) (j : Fin 32) (logical width : Nat) : State :=
  let l := s.lnk.lanes[j]
  if l.amLock then
    if onGrid l then modLane s j fun l => { l with sinceAm := some 0, amMiss := 0 }
    else notMarker (count s (laneReg j 0x10)) j
  else if onGrid l then
    modLane s j fun l => { l with amLock := true, sinceAm := some 0, amMiss := 0, logical := logical, width := width }
  else modLane s j fun l => { l with sinceAm := some 0 }

/-! ### The commands -/

/-- LINK_CONFIG_SEND (R103): every 10 µs in CONFIG, and on until every lane holds block lock. -/
def execLinkConfigSend (k : Fin 4) (s : State) : Host.Outcome State Fault Refusal :=
  inCore s fun s =>
    let l := s.lnk.links[k]
    let due := match l.lastCfg with
      | some t => decide (s.now ≥ t + 10000)
      | none => true
    let wanted := l.st == .config
      || (l.st == .locking && !((lanesOf s k).all fun j => s.lnk.lanes[j].blockLock))
    if due && wanted then sendLinkConfig s k else s

/-- CDR_LOCK (R103, R110): the lane's taps start from the start-point table of the band in force, whose entries the
spec does not give; a link in CONFIG enters LOCKING. -/
def execCdrLock (j : Fin 32) (s : State) : Host.Outcome State Fault Refusal :=
  inCore s fun s =>
    let (w, s) := freeWord s
    let s := regSet s (laneReg j 0x24) w
    let s := modLane s j fun l => { l with eqPrev := none, running := true, eqAt := s.now }
    match laneLink s j with
    | some k => if s.lnk.links[k].st = .config then modLink s k fun l => { l with st := .locking } else s
    | none => s

/-- Whether a payload is a valid marker's (Table LNK-6): its lane, width, sequence count. -/
def markerOf (b : List Byte) : Option (Nat × Nat × Nat) :=
  if byteAt b 0 = 0x4B ∧ b.drop 4 = [0x6E#8, 0x3C#8, 0x91#8, 0xD4#8] ∧ byteAt b 3 = byteAt b 1 ^^^ 0xFF#8 then
    some ((byteAt b 1).toNat % 8, (byteAt b 1).toNat / 8 % 8 + 1, (byteAt b 2).toNat)
  else none

/-- A marker arriving on a lane: polarity correction (R96), marker lock, then the lane's path; a valid one off the grid of a locked lane is
ignored (R98). -/
def markerBlk (s : State) (j : Fin 32) (inverted : Bool) (lane width seq reads : Nat) : State :=
  let s := headerBlk s j true
  if ¬ s.lnk.lanes[j].blockLock then s
  else if inverted then
    let locked := s.lnk.lanes[j].amLock
    let s := modLane s j fun l => { l with invert := true, sinceAm := if locked then l.sinceAm else none }
    throughLane (if locked then notMarker s j else s) j none reads
  else if s.lnk.lanes[j].amLock ∧ ¬ onGrid s.lnk.lanes[j] then throughLane (onMarker s j lane width) j none reads
  else
    let s := onMarker s j lane width
    let s := match laneLink s j with
      | some k => tryMap s k
      | none => s
    throughLane s j (some (.marker seq)) reads

/-- A block other than a marker on a lane: block lock, the marker grid, then descrambled into the lane's path. -/
def plainBlock (s : State) (j : Fin 32) (hdr : BitVec 2) (payload : BitVec 64) (reads : Nat) : State :=
  let ok := hdr = 1#2 || hdr = 2#2
  let s := headerBlk s j ok
  let s := notMarker s j
  let (h, d) := descramble payload 64 s.lnk.lanes[j].descr 0#64
  let s := modLane s j fun l => { l with descr := h }
  let bytes := leBytes 8 d.toNat
  let blk : RxBlk := if ¬ ok then .bad
    else if hdr = 2#2 then .data bytes
    else if byteAt bytes 0 = 0x1E then .filler else .ctl bytes
  throughLane s j (some blk) reads

/-- BLOCK_RECEIVED (R91 to R97, R101, R102, R113). Header 01 is sent 0 first, so it is `2` with bit 0 first on the
line. A lane under test checks the pattern and passes nothing on; INVERT complements every bit (R96). (DEDUCED, log 23) -/
def execBlockReceived (j : Fin 32) (hdr : BitVec 2) (payload : BitVec 64) (reads : Nat) (s : State) :
    Host.Outcome State Fault Refusal :=
  inCore s fun s =>
    let inv := s.lnk.lanes[j].invert
    let h := if inv then ~~~hdr else hdr
    let p := if inv then ~~~payload else payload
    if testMode s j ≠ 0 then testBlock s j hdr payload
    else match (if h = 1#2 then markerOf (leBytes 8 p.toNat) else none) with
    | some (lane, width, seq) => markerBlk s j false lane width seq reads
    | none => match (if h = 2#2 then markerOf (leBytes 8 (~~~p).toNat) else none) with
      | some (lane, width, seq) => markerBlk s j true lane width seq reads
      | none => plainBlock s j h p reads

/-- AM_RECEIVED (R95, R96, R98 to R100): the 66 bits of the marker of Table LNK-6, all complemented where the lane is inverted; a lane under
test checks them as any others (R113). -/
def execAmReceived (j : Fin 32) (inverted : Bool) (lane widthM1 : Fin 8) (seq : Byte) (reads : Nat) (s : State) :
    Host.Outcome State Fault Refusal :=
  inCore s fun s =>
    let p := payloadOf (markerBytes lane (widthM1 + 1) seq.toNat)
    if testMode s j ≠ 0 then (if inverted then testBlock s j 2#2 (~~~p) else testBlock s j 1#2 p)
    else markerBlk s j (xor inverted s.lnk.lanes[j].invert) lane (widthM1 + 1) seq.toNat reads

/-- The bring-up timeout in ns: 0 acts as 1 ms (Table LNK-3). -/
def bringupTimeout (s : State) (k : Nat) : Nat := max 1 (regField s (lkReg k 0xC) 15 0) * 1000000

/-- BRINGUP_FAIL (R103). -/
def execBringupFail (k : Fin 4) (s : State) : Host.Outcome State Fault Refusal :=
  inCore s fun s =>
    let l := s.lnk.links[k]
    let trying := l.st == .config || l.st == .locking || l.st == .deskew
    if trying && decide (s.now ≥ l.start + bringupTimeout s k) then
      startBringup (count (lnkEvent s 2 0x03 .degraded k 0) (lkReg k 0x2C)) k
    else s

/-- A write to LNK.Lk_CTL (R105): with RETRAIN it is ignored as a whole, and counted, on a link that carries an unmasked slot without
ALLOW_DISRUPT; else it takes its RW fields, and RETRAIN takes the link down and up again. -/
def writeLkCtl (s : State) (k : Fin 4) (v : Word) : State :=
  if bit v 30 ∧ carriesUnmasked s k ∧ ¬ bit v 31 then count s testRefusedReg
  else
    let s := regSet s (lkReg k 0xC) (v &&& 0x0001FFFF#32)
    if ¬ bit v 30 then s
    else if s.lnk.links[k].st = .up then linkFault s k
    else if linkEnabled s k then startBringup s k else s

/-- RETRAIN (R105): a write with RETRAIN = 1. -/
def execRetrain (p : Party) (k : Fin 4) (v : Word) (s : State) : Host.Outcome State Fault Refusal :=
  inCore s fun s => if bit v 30 then writeBy s p (lkReg k 0xC) fun s => writeLkCtl s k v else s

/-- LINK_RECONFIG (R105): once no slot of the link has a frame in progress. -/
def execLinkReconfig (k : Fin 4) (s : State) : Host.Outcome State Fault Refusal :=
  inCore s fun s =>
    if s.lnk.links[k].reconfig ∧ (slotsOf s k).all (fun n => (currentFrame s n).isNone) then startBringup (leaveUp s k) k else s

/-- LINK_DISABLE (R105): the link goes DISABLED once no slot it carried has a frame in progress; INVERT is cleared, and its back-channel goes
to electrical idle. -/
def execLinkDisable (k : Fin 4) (s : State) : Host.Outcome State Fault Refusal :=
  inCore s fun s =>
    if s.lnk.links[k].disabling ∧ (slotsOf s k).all (fun n => (currentFrame s n).isNone) then
      modLink (clearInvert (restartLanes (leaveUp s k) k) k) k fun l =>
        { l with st := .disabled, disabling := false, reconfig := false, mapOk := false, pkt := none, lastCfg := none, held := none,
                 capsDue := false, pings := [], tx := { l.tx with origin := none, pattern := none } }
    else s

/-- BC_DELAY_MEASURE (R107): every 1,000 ms while UP. -/
def execBcDelayMeasure (k : Fin 4) (s : State) : Host.Outcome State Fault Refusal :=
  inCore s fun s =>
    let l := s.lnk.links[k]
    if l.st = .up ∧ s.now ≥ l.lastMeas + 1000000000 then measureDelay s k else s

/-- Ascending insertion. -/
def insertSorted (x : Nat) : List Nat → List Nat
  | [] => [x]
  | y :: r => if x ≤ y then x :: y :: r else y :: insertSorted x r

def sortNats (l : List Nat) : List Nat := l.foldr insertSorted []

/-- The median; of an even number of values, the mean of the middle two (notes/assumptions/9.md). (DEDUCED, log 9) -/
def median (l : List Nat) : Nat :=
  let m := sortNats l
  if m.length % 2 = 1 then m.getD (m.length / 2) 0
  else (m.getD (m.length / 2 - 1) 0 + m.getD (m.length / 2) 0) / 2

/-- CAP_REQUEST for each stream index, once after LINK_UP (R103 step 5). -/
def askCaps (s : State) (k : Fin 4) : State :=
  if s.lnk.links[k].capsDue then
    (slotsOf s k).foldl (fun s n => requestCap s n) (modLink s k fun l => { l with capsDue := false })
  else s

/-- A measurement whose PINGs are all answered or dropped ends: the delay in force and BC_DELAY_CHANGE (R107). -/
def finishDelay (s : State) (k : Fin 4) : State :=
  let l := s.lnk.links[k]
  if l.pings ≠ [] ∨ l.samples.length + l.dropped = 0 then s
  else
    let s1 := modLink s k fun l => { l with samples := [], dropped := 0 }
    if l.samples = [] then askCaps (lnkEvent s1 6 0x07 .info k 0) k
    else
      let d := median l.samples / 2
      let old := (regGet s (lkReg k 0x14)).toNat
      let s2 := modLink (regSet s1 (lkReg k 0x14) (BitVec.ofNat 32 d)) k fun l => { l with delayValid := true }
      askCaps (if l.delayValid ∧ (d > old + 2000 ∨ old > d + 2000) then lnkEvent s2 6 0x07 .info k 0 else s2) k

/-- The turnaround that a link's sensor declares, in ps: of several slots' records, the lowest slot's (R107). (DEDUCED, log 23) -/
def turnaround (s : State) (k : Fin 4) : Nat := ((slotsOf s k).head?).elim 0 fun n => (regGet s (capReg n 9)).toNat

/-- An outstanding PING ends: with a round-trip sample, or dropped (R107). -/
def endPing (s : State) (k : Fin 4) (q : Nat) (sample : Option Nat) : State :=
  finishDelay (modLink s k fun l => { l with
    pings := l.pings.filter fun p => decide (p.id ≠ q), samples := l.samples ++ sample.toList,
    dropped := l.dropped + (if sample.isSome then 0 else 1) }) k

/-- ECHO (R107): one round-trip sample in ps, less the declared turnaround and the device's calibrated receive latency, which the spec leaves
to the device; one later than 10 µs leaves its PING dropped. -/
def execEcho (k : Fin 4) (rtt : Nat) (s : State) : Host.Outcome State Fault Refusal :=
  inCore s fun s =>
    match takeItem (fun x => match x with | .echo _ => true | _ => false) s.lnk.links[k].rx with
    | some (.echo q, r) =>
      let s := modLink s k fun l => { l with rx := r }
      match s.lnk.links[k].pings.find? fun p => decide (p.id = q) with
      | some p =>
        let late : Bool := decide (s.now > p.sentAt + 10000) || decide (rtt > 10000000)
        endPing s k q (if late then none else some (rtt - turnaround s k - Config.linkLatency k.val))
      | none => s
    | _ => s

/-- PING_TIMEOUT (R107): 10 µs without an ECHO. -/
def execPingTimeout (k : Fin 4) (seq : Nat) (s : State) : Host.Outcome State Fault Refusal :=
  inCore s fun s =>
    if (s.lnk.links[k].pings.any fun p => decide (p.id = seq) && decide (s.now ≥ p.sentAt + 10000)) then endPing s k seq none else s

/-- STATUS_BLOCK (R93). -/
def execStatusBlock (k : Fin 4) (s : State) : Host.Outcome State Fault Refusal :=
  inCore s fun s =>
    match takeItem (fun x => match x with | .status _ => true | _ => false) s.lnk.links[k].rx with
    | some (.status b, r) => modLink s k fun l => { l with rx := r, status := b }
    | _ => s

/-- SENSOR_EVENT (R495): one delivered ABORTED or ERRORED raises nothing. -/
def execSensorEvent (k : Fin 4) (s : State) : Host.Outcome State Fault Refusal :=
  inCore s fun s =>
    match takePacket 4 s.lnk.links[k].rx with
    | some (p, r) =>
      let s := modLink s k fun l => { l with rx := r }
      if p.aborted ∨ p.errored then s
      else event s .lnk 8 0x09 .info (ctxUnit 8 k p.stream (leAt p.bytes 0 8)) 0
    | none => s

/-! ### Register accesses (R109) -/

/-- A REG_ACCESS ends: its SENSOR_REG is answered, and no longer waits. -/
def endAccess (s : State) (w : RegWait) (f : State → State) : State :=
  f { s with lnk := { s.lnk with regWaits := s.lnk.regWaits.filter fun x => decide (x ≠ w) } }

/-- An access has waited for its answer longer than 10 ms (R109). -/
def accessLate (s : State) (w : RegWait) : Bool := decide (s.now > w.sentAt + 10000000)

/-- REG_RESPONSE (R109): the answers of the oldest access to the slot go where its SENSOR_REG named, as many as it asked for; later than 10 ms
the access ends with NOT_READY. A packet that was delivered ABORTED or ERRORED answers nothing (notes/assumptions/16.md). (DEDUCED, log 16) -/
def execRegResponse (k : Fin 4) (s : State) : Host.Outcome State Fault Refusal :=
  inCore s fun s => withPacket s k 3 fun s n p =>
    match s.lnk.regWaits.find? fun w => decide (w.slot = n.val) with
    | none => s
    | some w =>
      if p.aborted ∨ p.errored then s
      else if accessLate s w then endAccess s w fun s => mbxReply s w.party w.mslot stNotReady 0 0 0
      else
        let bytes := p.bytes.take (8 * w.entries)
        endAccess s w fun s => mbxReply (putOut s w.party w.segs bytes) w.party w.mslot stSuccess 0 (bytes.length / 8) 0

/-- REG_ACCESS_TIMEOUT (R109): 10 ms without an answer. -/
def execRegAccessTimeout (n : Fin 8) (s : State) : Host.Outcome State Fault Refusal :=
  inCore s fun s =>
    match s.lnk.regWaits.find? fun w => decide (w.slot = n.val) with
    | some w => if s.now ≥ w.sentAt + 10000000 then
        endAccess s w fun s => mbxReply s w.party w.mslot stNotReady 0 0 0 else s
    | none => s

/-! ### Tests (R111, R112) -/

/-- The logical lane mask of a lane that has been mapped. -/
def logicalMask (s : State) (j : Fin 32) : Option Nat := s.lnk.lanes[j].mapped.map fun i => 2 ^ i

/-- Back-channel rates by BC_RATE's code, in kb/s (Table LNK-1). -/
def bcKbps : Nat → Nat
  | 0 => 1250000
  | 1 => 2500000
  | 2 => 3125000
  | 3 => 5000000
  | 4 => 6250000
  | _ => 10312500

/-- The rate of a lane's receiver under test, in kb/s: BC_RATE in MODE 4, else its link's RATE, 10,000 Mb/s unassigned (R112). -/
def testRate (s : State) (j : Fin 32) (mode : Nat) : Nat :=
  match laneAssigned s j with
  | some k => if mode = 4 then bcKbps (field (linkCfg s k) 30 28) else 1000 * field (linkCfg s k) 14 0
  | none => 10000000

/-- TEST to the sensor for a lane's logical number, with its pattern (R112). -/
def sendTest (s : State) (j : Fin 32) (mode pattern : Nat) : State :=
  match laneAssigned s j, logicalMask s j with
  | some k, some m => sendBc s k (.test mode pattern m)
  | _, _ => s

/-- BC1 of a lane's link carries a pattern unencoded, or the block stream again (R112). -/
def setBc1 (s : State) (j : Fin 32) (pattern : Option Nat) : State :=
  match laneAssigned s j with
  | some k => modLink s k fun l => { l with tx := { l.tx with pattern := pattern } }
  | none => s

/-- An allowed test takes a link DOWN, and keeps it DOWN until its mode returns to 0 (R104, R111). -/
def takeForTest (s : State) (k : Fin 4) : State :=
  let s := modLink s k fun l => { l with testing := true }
  match s.lnk.links[k].st with
  | .up => linkFault s k
  | .disabled => s
  | _ => startBringup s k

/-- A test mode set on a lane; an assigned lane takes its link down. The generator starts at a free place of its sequence. -/
def setTestMode (s : State) (j : Fin 32) (v : Word) (mode : Nat) : State :=
  let s := match laneAssigned s j with
    | some k => takeForTest s k
    | none => s
  let s := regSet s (laneReg j 4) (v &&& 0x7C000000#32)
  let (g, s) := freeNat s
  let rate := testRate s j mode
  let s := modLane s j fun l => { l with prbs := Lane.reset.prbs, gen := BitVec.ofNat 31 (g % (2 ^ 31 - 1) + 1), rate := rate }
  match mode with
  | 1 => sendTest s j 1 (field v 27 26)
  | 4 => setBc1 (sendTest s j 2 (field v 27 26)) j (some (field v 27 26))
  | _ => s

/-- Whether a test write is refused (R111, R112): on an assigned lane without ALLOW_DISRUPT, and MODE 1 or 4 on a lane that has never been mapped,
or that no link serves, so that TEST has no back-channel to go out on. (DEDUCED, log 23) -/
def testRefused (s : State) (j : Fin 32) (v : Word) (mode : Nat) : Bool :=
  ((laneAssigned s j).isSome && !bit v 31)
    || ((mode == 1 || mode == 4) && (s.lnk.lanes[j].mapped.isNone || (laneAssigned s j).isNone))
    || (mode == 4 && (match laneAssigned s j with
      | some k => decide (regField s (lkReg k 0) 30 28 = 0)
      | none => true))

/-- Another lane of a link is under test. -/
def othersTested (s : State) (k : Nat) (j : Fin 32) : Bool := (lanesOf s k).any fun i => decide (i ≠ j) && decide (testMode s i ≠ 0)

/-- MODE 0 ends a test: the sensor returns to mode 0, and once no lane of an assigned lane's link is under test its bring-up restarts (R111,
R112). -/
def endTest (s : State) (j : Fin 32) (pattern : Nat) : State :=
  let mode := testMode s j
  let s := regSet s (laneReg j 4) (packFields [(26, pattern)])
  let s := if mode = 1 ∨ mode = 4 then sendTest s j 0 pattern else s
  let s := if mode = 4 then setBc1 s j none else s
  match laneAssigned s j with
  | some k => if mode = 0 ∨ othersTested s k j then s else startBringup (modLink s k fun l => { l with testing := false }) k
  | none => s

/-- A write to LNK.LANEj_TEST (R111, R112): MODE 0 is always accepted; a reserved mode and a refused one are ignored and counted. -/
def writeLaneTest (s : State) (j : Fin 32) (v : Word) : State :=
  let mode := field v 30 28
  if mode = 0 then endTest s j (field v 27 26)
  else if mode > 4 ∨ testRefused s j v mode then count s testRefusedReg
  else setTestMode s j v mode

/-- A party's write of one test mode to LNK.LANEj_TEST. -/
def testRow (s : State) (p : Party) (j : Fin 32) (v : Word) (mode : Nat) : State :=
  if field v 30 28 = mode then writeBy s p (laneReg j 4) fun s => writeLaneTest s j v else s

/-- PRBS_CHECK (R112, MODE 1). -/
def execPrbsCheck (p : Party) (j : Fin 32) (v : Word) (s : State) : Host.Outcome State Fault Refusal :=
  inCore s fun s => testRow s p j v 1

/-- NEAR_END_SERIAL (R111, MODE 2). -/
def execNearEndSerial (p : Party) (j : Fin 32) (v : Word) (s : State) : Host.Outcome State Fault Refusal :=
  inCore s fun s => testRow s p j v 2

/-- NEAR_END_PARALLEL (R111, MODE 3). -/
def execNearEndParallel (p : Party) (j : Fin 32) (v : Word) (s : State) : Host.Outcome State Fault Refusal :=
  inCore s fun s => testRow s p j v 3

/-- FAR_END_LOOPBACK (R112, MODE 4). -/
def execFarEndLoopback (p : Party) (j : Fin 32) (v : Word) (s : State) : Host.Outcome State Fault Refusal :=
  inCore s fun s => testRow s p j v 4

/-- TEST_OFF (R111, MODE 0): always accepted. -/
def execTestOff (p : Party) (j : Fin 32) (v : Word) (s : State) : Host.Outcome State Fault Refusal :=
  inCore s fun s => testRow s p j v 0

/-- One step of a tap field, wrapping in its width. -/
def stepTap (w : Word) (hi lo : Nat) (up : Bool) : Word :=
  putField w hi lo (if up then field w hi lo + 1 else field w hi lo + 2 ^ (hi - lo + 1) - 1)

/-- A lane adapts now: it runs, FREEZE is 0, and 1 ms has passed since its CDR lock or its last adaptation (R110). -/
def adaptDue (s : State) (j : Fin 32) : Bool :=
  let l := s.lnk.lanes[j]
  !regBit s 0x52008 0 && l.running && decide (s.now ≥ l.eqAt + 1000000)

/-- EQ_ADAPT (R110): the last step is reverted when HDR_ERR rose in the 1 ms after it; else one step on one tap, or none: which tap and
which way the spec leaves to the device. -/
def execEqAdapt (j : Fin 32) (s : State) : Host.Outcome State Fault Refusal :=
  inCore s fun s =>
    if ¬ adaptDue s j then s
    else
      let l := s.lnk.lanes[j]
      let eq := regGet s (laneReg j 0x24)
      let next := fun (l : Lane) => { l with errPrev := l.errCur, errCur := 0, eqAt := s.now }
      match l.eqPrev with
      | some old =>
        if l.errCur > l.errPrev then
          modLane (regSet s (laneReg j 0x24) old) j fun l => next { l with eqPrev := none }
        else modLane s j fun l => next { l with eqPrev := none }
      | none =>
        let (t, s) := freeNat s
        let (up, s) := freeBool s
        let w := match t % 5 with
          | 0 => stepTap eq 23 16 up
          | 1 => stepTap eq 15 10 up
          | 2 => stepTap eq 9 5 up
          | 3 => stepTap eq 4 0 up
          | _ => eq
        modLane (regSet s (laneReg j 0x24) w) j fun l => next { l with eqPrev := some eq }

end Sys2Proof.Machine
end

