-- ==== Sys2Proof/Machine/Decoder.lean ====
section
/-! DEFINITION. The decoder (R282 to R285, R370): its sessions, and what a decoded picture leaves. What ITU-T H.265 alone makes of an access
unit is the operand `Decoded`. -/

namespace Sys2Proof.Machine
open Sys2Proof

/-! ### Access units -/

/-- The NAL units of an Annex B byte stream: bytes between start codes; `skip` bytes belong to a start code already seen. -/
def annexB : List Byte → Nat → List Byte → Bool → List (List Byte)
  | [], _, cur, on => if on then [cur.reverse] else []
  | b :: r, skip, cur, on =>
    if skip > 0 then annexB r (skip - 1) cur on
    else if (b :: r).take 3 = [0#8, 0#8, 1#8] then (if on then [cur.reverse] else []) ++ annexB r 2 [] true
    else annexB r 0 (if on then b :: cur else []) on

/-- A NAL unit's type. -/
def nalType (l : List Byte) : Nat := (byteAt l 0).toNat / 2 % 64

/-- Emulation prevention bytes removed. -/
def unescape : Nat → List Byte → List Byte
  | _, [] => []
  | z, b :: r => if z ≥ 2 ∧ b = 3#8 then unescape 0 r else b :: unescape (if b = 0 then z + 1 else 0) r

/-- A number coded as 0xFF bytes and a last byte, and the rest. -/
def readFf : List Byte → Nat → Nat × List Byte
  | [], a => (a, [])
  | b :: r, a => if b = 0xFF#8 then readFf r (a + 255) else (a + b.toNat, r)

/-- The frame record of the frame-record SEI among an SEI body's messages (R264). -/
def seiRecord : Nat → List Byte → Option (List Byte)
  | 0, _ => none
  | f + 1, l =>
    if l.length < 3 then none
    else
      let (ty, l) := readFf l 0
      let (n, l) := readFf l 0
      let p := l.take n
      if ty = 5 ∧ p.take 16 = recSeiId ∧ p.length = 272 then some (p.drop 16) else seiRecord f (l.drop n)

/-- The frame record that an access unit carries (R285). -/
def auRecord (nals : List (List Byte)) : Option (List Byte) :=
  (nals.filter fun n => decide (nalType n = 39)).findSome? fun n =>
    let body := unescape 0 (n.drop 2)
    seiRecord body.length body

/-- The type of an access unit's slices; 1 where it has none. -/
def sliceNal (nals : List (List Byte)) : Nat := ((nals.map nalType).find? fun t => decide (t < 32)).getD 1

/-! ### Sessions -/

def modSession (s : State) (i : Nat) (f : Session → Session) : State :=
  { s with hev := { s.hev with sessions := mMod s.hev.sessions i f } }

/-- A session that a function has opened. -/
def sessionOf (s : State) (p : Party) (i : Nat) : Option Session :=
  (mGet s.hev.sessions i).filter fun x => decide (x.owner = p)

/-- An earlier picture of a session is still to complete (R370). -/
def picturesBefore (s : State) (i order : Nat) : Bool :=
  decide (findCmds s (fun _ c => decide (c.op = 0x41) && decide (c.arg0 % 16 = i) && decide (c.order < order) && !c.finished) ≠ [])

/-- A session closes: its DEC_CLOSE completes with the pictures decoded. -/
def closeSession (s : State) (q tag i : Nat) : State :=
  let n := ((mGet s.hev.sessions i).map (·.pictures)).getD 0
  complete { s with hev := { s.hev with sessions := mDel s.hev.sessions i } } q tag stSuccess 0 (BitVec.ofNat 32 n) 0

/-- A DEC_CLOSE whose earlier pictures have completed completes. -/
def settleCloses (s : State) (i : Nat) : State :=
  (findCmds s fun _ c => decide (c.op = 0x42) && decide (c.arg0 % 16 = i) && c.waiting && !c.finished && !c.aborted).foldl
    (fun s p => match cmdOf s p.1 p.2 with
      | some c => if picturesBefore s i c.order then s else closeSession s p.1 p.2 i
      | none => s) s

/-- A session is being closed by a command fetched before. -/
def closing (s : State) (i order : Nat) : Bool :=
  decide (findCmds s (fun _ c => decide (c.op = 0x42) && decide (c.arg0 % 16 = i) && c.waiting && decide (c.order < order)) ≠ [])

/-- DEC_OPEN (R282, R370, R375). Sixteen sessions are the decoder's sixteen contexts: one that is not open has a context. (DEDUCED, log 30) -/
def execDecOpen (q tag : Nat) (buf : HostBuf) (pic : Option (Nat × Nat × Nat)) (s : State) : Host.Outcome State Fault Refusal :=
  inCore s fun s => if interrupted s then s else asCommand s q tag 0x40 fun s x c =>
    cmdFetch s q tag c buf none fun s params =>
      let i := c.arg0 % 16
      if (mGet s.hev.sessions i).isSome then completeSt s q tag stNotReady
      else match pic with
      | none => completeField s q tag 0 0x08 0
      | some (fmt, w, h) =>
        let y : Session := {
          owner := x.owner, size := bufSize fmt w h, params := params, pictures := 0, dpb := [], fresh := true, todo := [] }
        completeSt { s with hev := { s.hev with sessions := mPut s.hev.sessions i y } } q tag stSuccess

/-- DEC_PICTURE (R370). (DEDUCED, log 30) -/
def execDecPicture (q tag : Nat) (buf : HostBuf) (s : State) : Host.Outcome State Fault Refusal :=
  inCore s fun s => asCommand s q tag 0x41 fun s x c =>
    let i := c.arg0 % 16
    let h := c.arg1 % 65536
    let s := match sessionOf s x.owner i with
      | none => completeSt s q tag stNotReady
      | some y =>
        let small : Bool := match handleOf s h with
          | some b => decide (b.size < y.size)
          | none => true
        if closing s i c.order then completeSt s q tag stNotReady
        else if ¬ allocatedTo s x.owner h ∨ referenced s h ∨ small then completeField s q tag 0 0x20 0
        else cmdFetch s q tag c buf none fun s au =>
          let s := modCmd (holdHandle s q tag h) q tag fun c => { c with waiting := true, data := au }
          modSession s i fun y => { y with todo := y.todo ++ [(q, tag)] }
    settleCloses s i

/-- DEC_CLOSE (R370). (DEDUCED, log 30) -/
def execDecClose (q tag : Nat) (s : State) : Host.Outcome State Fault Refusal :=
  inCore s fun s => asCommand s q tag 0x42 fun s x c =>
    let i := c.arg0 % 16
    if (sessionOf s x.owner i).isNone ∨ closing s i c.order then completeSt s q tag stNotReady
    else settleCloses (modCmd s q tag fun c => { c with waiting := true }) i

/-! ### Pictures -/

/-- The record of a decoded picture (R285): that of its SEI, or the one that the decoder builds. -/
def decodedRecord (sei : Option (List Byte)) (q tag index : Nat) (concealed corrupt : Bool) : List Byte :=
  let base := sei.getD ([1#8, 0x80#8, 0, 0] ++ leBytes 4 index ++ zeros 248)
  let st := leAt base 0x1C 2 + (if concealed then 2 ^ 19 else 0) + (if corrupt then 2 ^ 20 else 0)
  base.take 1 ++ [0x80#8] ++ (base.drop 2).take 0x1A ++ leBytes 4 st ++ (base.drop 0x20).take 0x14
    ++ leBytes 4 (q * 2 ^ 18 + tag) ++ base.drop 0x38

/-- An event of the decoder (R286). -/
def decEvent (s : State) (i code : Nat) (sev : Severity) (k : Nat) : State := event s .hev i code sev (ctxUnit 21 k 0 0) 0

/-- A picture decoded into its handle (R283, R284). (DEDUCED, log 30) -/
def decodePicture (s : State) (i : Fin 16) (y : Session) (q tag h : Nat) (nals : List (List Byte)) (d : Decoded) (fault : Bool) : State :=
  let ty := sliceNal nals
  let irap : Bool := decide (16 ≤ ty) && decide (ty ≤ 23)
  let used := if irap then [] else d.used.eraseDups
  let missing := used.filter fun p => !y.dpb.any fun x => decide (x.poc = p)
  let concealed := decide (missing ≠ []) || y.dpb.any fun x => used.contains x.poc && x.concealed
  let corrupt := d.corrupt || fault
  let keep := y.dpb.filter fun x => used.contains x.poc || d.kept.contains x.poc
  let dpb := keep ++ missing.map (fun p => { poc := p, concealed := true }) ++ [{ poc := d.poc, concealed := concealed || corrupt }]
  let s := countN s 0x111008 missing.length
  let s := count s 0x111004
  let s := if concealed ∨ corrupt then count s 0x11100C else s
  let s := if concealed then decEvent s 6 0x07 .info i else s
  let s := if corrupt then decEvent s 7 0x08 .degraded i else s
  let s := writeBuffer s h 0 (decodedRecord (auRecord nals) q tag y.pictures concealed corrupt)
  let s := writeBuffer s h 4096 d.planes
  let s := modSession s i fun y => { y with
    pictures := y.pictures + 1, dpb := dpb, fresh := if y.pictures = 0 then decide (ty = 21) else y.fresh && !irap }
  let st := if corrupt then stDataCorrupt else if concealed then stConcealed else stSuccess
  complete s q tag st 0 (BitVec.ofInt 32 d.poc) (if d.notOutput then 16 else 0)

/-- PICTURE_DECODED (R282 to R285): the oldest picture of the session; a RASL picture of a CRA that began it is not decoded. -/
def execPictureDecoded (i : Fin 16) (d : Decoded) (fault : Bool) (s : State) : Host.Outcome State Fault Refusal :=
  inCore s fun s => match mGet s.hev.sessions i.val with
    | none => s
    | some y => match y.todo with
      | [] => s
      | (q, tag) :: r =>
        let s := modSession s i fun y => { y with todo := r }
        let s := match cmdOf s q tag with
          | none => s
          | some c =>
            let nals := annexB c.data 0 [] false
            let rasl : Bool := decide (sliceNal nals = 8) || decide (sliceNal nals = 9)
            if c.aborted then s
            else if rasl ∧ y.pictures > 0 ∧ y.fresh then complete s q tag stSuccess 0 (BitVec.ofInt 32 d.poc) 16
            else decodePicture s i y q tag (c.arg1 % 65536) nals d fault
        settleCloses s i

end Sys2Proof.Machine
end

