-- ==== Sys2Proof/Machine/Frm.lean ====
section
/-! DEFINITION. Meanings of the forme commands, the staging windows and the end of a lock-up (chapter 03, Tables FRM-6, FRM-7, MBX-7). -/

namespace Sys2Proof.Machine
open Sys2Proof

/-- A party's staging window, which is also its number as an owner (R71, FORME_QUERY). -/
def windowOf : Party → Option Nat
  | .pf => some 0
  | .user u => some (u.val + 1)
  | _ => none

/-- A triple merged onto the writes of a forme (R63): a second write to an offset joins the first, in its place. -/
def mergeTriple (l : List Triple) (t : Triple) : List Triple :=
  if l.any fun x => decide (x.off = t.off) then
    l.map fun x => if x.off = t.off then { x with data := overlayWord x.data t.data t.mask, mask := x.mask ||| t.mask } else x
  else l ++ [t]

def maxWrites : Nat := 16384
def maxObjs : Nat := 16

/-- A forme that is Staged and owned by a party. -/
def stagedBy (s : State) (p : Party) (i : Nat) : Option Forme :=
  (formeOf s i).filter fun f => decide (f.st = .staged) && decide (f.owner = p)

/-- FORME_OPEN (R67 to R70). (DEDUCED, log 17) -/
def execFormeOpen (p : Party) (slot : Fin 32) (s : State) : Host.Outcome State Fault Refusal :=
  inCore s fun s => serve s p slot 0x0101 fun s req =>
    let i := (byteAt req 0x10).toNat
    if (formeOf s i).isSome then mbxReply s p slot stNotReady 0 0 0
    else if stagedCount s ≥ 8 then mbxReply s p slot stExhausted 0 0 0
    else
      let f : Forme := { st := .staged, owner := p, writes := [], objs := [], apply := 0, ordinal := 0, commitNo := 0, due := none }
      mbxReply (journalCommit (modFrm s fun x => { x with formes := mPut x.formes i f })) p slot stSuccess 0 0 0

/-- The triples of a FORME_WRITE. -/
def triplesOf (n : Nat) (l : List Byte) : List Triple :=
  (List.range n).map fun i =>
    { off := leAt l (12 * i) 4, data := BitVec.ofNat 32 (leAt l (12 * i + 4) 4), mask := BitVec.ofNat 32 (leAt l (12 * i + 8) 4) }

/-- FORME_WRITE (R63, R70): all triples appended together, or none. -/
def execFormeWrite (p : Party) (slot : Fin 32) (buf : HostBuf) (s : State) : Host.Outcome State Fault Refusal :=
  inCore s fun s => serve s p slot 0x0102 fun s req =>
    let i := (byteAt req 0x10).toNat
    let n := leAt req 0x14 4
    match stagedBy s p i with
    | none => mbxBadField s p slot 0x10
    | some f => mbxFetch s p slot (descAt req 0x20) buf (some (12 * n)) fun s l =>
        let ts := triplesOf n l
        match ts.findIdx? fun t => !isFs t.off with
        | some k => mbxReply s p slot stInvalidField 1 0 k
        | none =>
          let ws := ts.foldl mergeTriple f.writes
          if ws.length > maxWrites then mbxReply s p slot stExhausted 0 0 0
          else mbxReply (journalCommit (modForme s i fun f => { f with writes := ws })) p slot stSuccess 0 ws.length 0

/-- The size that an object's own header gives it (R146, R148, R168, R182). -/
def objSize (kind : Nat) (l : List Byte) : Nat :=
  let nodes := (byteAt l 2).toNat * leAt l 4 2 * leAt l 6 2
  if kind = 0x10 then 16 + 4 * leAt l 4 4
  else if kind = 0x11 then
    32 + 2 * nodes + (if (byteAt l 3).getLsbD 0 then 2 * leAt l 8 2 * (if (byteAt l 3).getLsbD 1 then 2 else 1) else 0)
  else if kind = 0x12 then 16 + 6 * leAt l 4 4
  else if kind = 0x13 then 16 + 2 * leAt l 4 4
  else 32 + 4 * nodes

/-- The bytes that an object's header gives as zero. -/
def objZeros (kind : Nat) (l : List Byte) : Bool :=
  let z := fun (a n : Nat) => allZero ((l.drop a).take n)
  if kind = 0x10 then z 2 2 && z 8 8
  else if kind = 0x11 then z 12 20
  else if kind = 0x12 then z 8 8
  else if kind = 0x13 then z 3 1 && z 8 8
  else z 3 1 && z 12 20

/-- An object's header passes the checks of FORME_LOAD (R64). -/
def headerOk (kind : Nat) (l : List Byte) : Bool :=
  decide ((byteAt l 1).toNat = 1) && objZeros kind l && decide (l.length = objSize kind l)

/-- FORME_LOAD (R63, R64, R70). -/
def execFormeLoad (p : Party) (slot : Fin 32) (buf : HostBuf) (s : State) : Host.Outcome State Fault Refusal :=
  inCore s fun s => serve s p slot 0x0103 fun s req =>
    let i := (byteAt req 0x10).toNat
    let kind := (byteAt req 0x11).toNat
    let n := (byteAt req 0x12).toNat
    match stagedBy s p i with
    | none => mbxBadField s p slot 0x10
    | some f =>
      if f.objs.length ≥ maxObjs ∨ areaBytes s + pageUp (leAt req 0x28 4) > formeArea ∧ ¬ (descAt req 0x20).sgl then
        mbxReply s p slot stExhausted 0 0 0
      else mbxFetch s p slot (descAt req 0x20) buf none fun s l =>
        if (byteAt l 0).toNat ≠ kind then mbxBadField s p slot 0x11
        else if ¬ headerOk kind l then mbxBadField s p slot 0x20
        else if areaBytes s + pageUp l.length > formeArea then mbxReply s p slot stExhausted 0 0 0
        else
          let o : BulkObj := { kind := kind, slot := n, bytes := l }
          let s := journalCommit (modForme s i fun f => { f with objs := f.objs ++ [o] })
          mbxReply s p slot stSuccess 0 (f.objs.length + 1) 0

/-- FORME_LOCK (R72, R75): the forme is Checking until LOCKUP_COMPLETE answers. -/
def execFormeLock (p : Party) (slot : Fin 32) (s : State) : Host.Outcome State Fault Refusal :=
  inCore s fun s => serve s p slot 0x0104 fun s req =>
    let i := (byteAt req 0x10).toNat
    match (formeOf s i).filter fun f => decide (f.owner = p) with
    | none => mbxBadField s p slot 0x10
    | some f =>
      if f.st = .checking then mbxReply s p slot stNotReady 0 0 0
      else if f.st ≠ .staged then mbxBadField s p slot 0x10
      else
        let a := BitVec.ofNat 32 (leAt req 0x14 4)
        let o := BitVec.ofNat 32 (leAt req 0x18 4)
        let s := modForme s i fun f => { f with st := .checking, apply := a, ordinal := o }
        let s := modFrm s fun x => { x with checking := x.checking ++ [{ forme := i, party := p, slot := slot.val }] }
        mbxRun s p slot 0x0104 (.forme i) false 0 0

/-- The answer to a rejected FORME_LOCK (R391). -/
def answerReject (s : State) (c : LockReq) (r : Reject) : State :=
  mbxReply (rejectForme s c.forme r) c.party c.slot stRejected r.detail r.offset (r.kind * 256 + r.unit)

/-- The staged checks of a forme end (R72, R73, R76): it is rejected, or committed. LUT objects are copied once the
resource checks have passed. A forme with an application point in a gap may apply at its commit (R75). (DEDUCED, log 18) -/
def lockupDone (s : State) (c : LockReq) (f : Forme) : State :=
  let p := projOf s c.forme f
  match p.hardware <|> p.resources with
  | some r => answerReject s c r
  | none =>
    let s := copyLuts s f
    match p.commitCheck with
    | some r => answerReject s c r
    | none => gapApply (mbxReply (commit p s) c.party c.slot stSuccess 0 0 0)

/-- LOCKUP_COMPLETE (R72 to R76): the forme's checks end. While control service is lost they wait (R85). (DEDUCED, log 18) -/
def execLockupComplete (f : Fin 256) (s : State) : Host.Outcome State Fault Refusal :=
  inCore s fun s =>
    match s.frm.checking.find? (fun c => decide (c.forme = f.val)), formeOf s f.val with
    | some c, some x =>
      if interrupted s then s
      else lockupDone (modFrm s fun y => { y with checking := y.checking.filter fun d => decide (d.forme ≠ f.val) }) c x
    | _, _ => s

/-- A Locked forme's boundary has begun to fire: R19 holds it there. -/
def hasFired (s : State) (f : Forme) : Bool := match s.frm.heldFor, f.due with
  | some (n, j), some d => decide (f.slot = n) && decide (d ≤ j)
  | _, _ => false

/-- A Locked forme leaves the list: its banks stay while frames need them, and messages carry the newest tag that is not discarded (R76,
R81). -/
def discardLocked (s : State) (i : Nat) : State :=
  let no := commitNoOf s i
  let banks := s.frm.banks.map fun l => l.map fun b => if b.forme = i then { b with discarded := true } else b
  let targets := s.frm.targets.map fun l => l.filter fun t => decide (t.forme ≠ i)
  let s := modFrm s fun x => { x with
    formes := mMod x.formes i fun f => { f with st := .discarded }, banks := banks, targets := targets,
    lockedList := x.lockedList.filter fun k => decide (k ≠ i) }
  let back := fun s (n : Fin 8) =>
    let no := commitNoOf s (expectedTag s n (nextMessage s n))
    modCad s n fun c => { c with msgNo := min c.msgNo no }
  releaseFormes (releaseBanks (unlockSei no (forSlots s back)))

/-- FORME_DISCARD (R76). -/
def execFormeDiscard (p : Party) (slot : Fin 32) (s : State) : Host.Outcome State Fault Refusal :=
  inCore s fun s => serve s p slot 0x0105 fun s req =>
    let i := (byteAt req 0x10).toNat
    match (formeOf s i).filter fun f => decide (f.owner = p) with
    | none => mbxBadField s p slot 0x10
    | some f =>
      match f.st with
      | .checking => mbxReply s p slot stNotReady 0 0 0
      | .staged =>
        mbxReply (journalCommit (modFrm s fun x => { x with formes := mDel x.formes i })) p slot stSuccess 0 0 0
      | .locked =>
        if s.frm.lockedList.getLast? = some i ∧ ¬ hasFired s f then
          mbxReply (journalCommit (discardLocked s i)) p slot stSuccess 0 0 0
        else mbxReply s p slot stNotReady 0 0 0
      | _ => mbxBadField s p slot 0x10

/-- State code of FORME_QUERY. A discarded forme that a bank still carries has no code of its own and reads as Free. (DEDUCED, log 17) -/
def FormeSt.code : FormeSt → Nat
  | .staged => 1
  | .checking => 2
  | .locked => 3
  | .applied => 4
  | .discarded => 0

/-- FORME_QUERY (Table MBX-7). -/
def execFormeQuery (p : Party) (slot : Fin 32) (s : State) : Host.Outcome State Fault Refusal :=
  inCore s fun s => serve s p slot 0x0106 fun s req =>
    let i := (byteAt req 0x10).toNat
    match formeOf s i with
    | none => mbxDone s p slot stSuccess 0 0 0 (zeros 8)
    | some f =>
      if f.owner ≠ p then mbxBadField s p slot 0x10
      else
        let r0 := f.st.code * 2 ^ 28 + (windowOf f.owner).getD 0 * 2 ^ 24 + f.writes.length
        mbxDone s p slot stSuccess 0 r0 f.objs.length (leBytes 4 f.apply.toNat ++ leBytes 4 f.ordinal.toNat)

/-! ### Staging windows (R71) -/

def stageReg (w off : Nat) : Nat := 0x20100 + 0x20 * w + off

/-- What a write of STAGE_DATA meets: LAST_ERR. -/
def stageErr (s : State) (p : Party) (i off : Nat) : Nat := match stagedBy s p i with
  | none => 1
  | some f => if ¬ isFs off then 2 else if f.writes.length ≥ maxWrites then 3 else 0

/-- A write of STAGE_DATA of window `w` (R71). (DEDUCED, log 17) -/
def execStageData (p : Party) (w : Fin 5) (data : Word) (s : State) : Host.Outcome State Fault Refusal :=
  inCore s fun s =>
    if windowOf p ≠ some w.val then badAccess s
    else
      let ctl := regGet s (stageReg w.val 0)
      let i := field ctl 7 0
      let off := (regGet s (stageReg w.val 4)).toNat
      let e := stageErr s p i off
      let t : Triple := { off := off, data := data, mask := regGet s (stageReg w.val 8) }
      let s := if e = 0 then modForme s i fun f => { f with writes := mergeTriple f.writes t } else s
      let errs := s.frm.stageErr.set w e
      let s := modFrm s fun x => { x with stageErr := errs }
      if bit ctl 8 then regSet s (stageReg w.val 4) (BitVec.ofNat 32 (off + 4)) else s

end Sys2Proof.Machine
end

