-- ==== Sys2Proof/Machine/JobOps.lean ====
section
/-! DEFINITION. Host jobs (R138, R186, R227, R362 to R366): what a descriptor and a rendition set say, the checks on them, and the pixel
path of one host-job frame. -/

namespace Sys2Proof.Machine
open Sys2Proof

/-! ### The descriptor (Tables HQ-8 and HQ-9) -/

def Job.nsurf (j : Job) : Nat := j.at 5 1
def Job.nstream (j : Job) : Nat := j.at 8 1
def Job.rawOut (j : Job) : Bool := (byteAt j.desc 9).getLsbD 0
def Job.rset (j : Job) : Nat := j.at 0xA 2
def Job.width (j : Job) : Nat := j.at 0xC 2
def Job.height (j : Job) : Nat := j.at 0xE 2
def Job.dual (j : Job) : Bool := (byteAt j.desc 0x10).getLsbD 2
def Job.bits (j : Job) : Nat := sampleBits (j.at 0x10 1 % 4)
def Job.ratio (j : Job) : Nat := j.at 0x18 2

/-- Where the stream entries end and the frame entries begin. -/
def Job.framesAt (j : Job) : Nat := 64 + 64 * ceilDiv (4 * j.nstream) 64

/-- Bytes that a descriptor takes. -/
def Job.need (j : Job) : Nat := j.framesAt + 64 * j.frames

/-- A stream entry: core, stream, surface. -/
def Job.stream (j : Job) (i : Nat) : Nat × Nat × Nat :=
  let w := BitVec.ofNat 32 (j.at (64 + 4 * i) 4)
  (field w 1 0, field w 5 2, field w 11 8)

/-- The streams that a job names, each once. -/
def Job.streams (j : Job) : List (Nat × Nat × Nat) :=
  ((List.range j.nstream).map j.stream).foldl (fun l x => if l.any fun y => decide (y.1 = x.1) && decide (y.2.1 = x.2.1) then l else l ++ [x]) []

/-- A field of a frame's entry. -/
def Job.fr (j : Job) (f off n : Nat) : Nat := j.at (j.framesAt + 64 * f + off) n

/-- The handle of a surface of a frame. -/
def Job.handle (j : Job) (f i : Nat) : Nat := j.fr f (0x20 + 2 * i) 2

/-- Bytes of a line's payload (R116), and of a line as the job's input pads it. -/
def Job.payload (j : Job) : Nat := ceilDiv (j.width * (if j.dual then 2 else 1) * j.bits) 8
def Job.lineBytes (j : Job) : Nat := 64 * ceilDiv j.payload 64

/-- The first byte of a header at fault (Table HQ-8). -/
def Job.headerBad (j : Job) : Option Nat :=
  let tests : List (Nat × Bool) := [
    (0, decide (j.desc.take 4 = [0x4A#8, 0x4F#8, 0x42#8, 0x31#8])), (4, decide (j.at 4 1 = 1)), (5, decide (j.nsurf ≤ 16)),
    (6, decide (1 ≤ j.frames) && decide (j.frames ≤ 1024)), (8, decide (j.nstream ≤ 64)), (9, decide (j.at 9 1 < 2)),
    (0xC, decide (1 ≤ j.width) && decide (j.width ≤ 16384)), (0xE, decide (1 ≤ j.height) && decide (j.height ≤ 16384)),
    (0x10, decide (j.at 0x10 1 < 8)), (0x11, decide (j.at 0x11 1 = 0)),
    (0x18, decide (j.ratio = 0) || (decide (256 ≤ j.ratio) && decide (j.ratio ≤ 4608))), (0x1B, decide (j.at 0x1B 1 ≤ 62)),
    (0x1C, decide (j.at 0x1C 4 = 0)), (0x28, allZero ((j.desc.drop 0x28).take 24))]
  (tests.find? fun t => !t.2).map (·.1)

/-- The first entry field at fault (R362, Table HQ-9). -/
def Job.entryBad (j : Job) : Option Nat :=
  let streams := (List.range j.nstream).findSome? fun i =>
    let w := BitVec.ofNat 32 (j.at (64 + 4 * i) 4)
    if field w 31 12 ≠ 0 ∨ field w 7 6 ≠ 0 then some (64 + 4 * i) else none
  let pad := (List.range (j.framesAt - 64 - 4 * j.nstream)).findSome? fun i =>
    if byteAt j.desc (64 + 4 * j.nstream + i) ≠ 0 then some (64 + 4 * j.nstream + i) else none
  let frames := (List.range j.frames).findSome? fun f =>
    if j.fr f 8 4 < j.height * j.lineBytes then some (j.framesAt + 64 * f + 8)
    else (List.range 16).findSome? fun i =>
      if i ≥ j.nsurf ∧ j.handle f i ≠ 0 then some (j.framesAt + 64 * f + 0x20 + 2 * i) else none
  (streams.orElse fun _ => pad).orElse fun _ => frames

/-! ### The rendition set (Table HQ-10) -/

/-- RFE.SLOTn_CTL of a set as a host-job frame reads it: ROW_BLACK, FRAME_MEAS and DARK act as 0 (R138). -/
def setRfe (l : List Byte) (off : Nat) : Word :=
  if off = 0 then imageWord l 0 &&& ~~~0xE#32 else if off < 0x100 then imageWord l off else 0

/-- CLR.SLOTn of a set: TNR is ignored (R186). -/
def setClr (l : List Byte) (off : Nat) : Word :=
  if off = 0 then clrBit (imageWord l 0x100) 12 else if off < 0x200 then imageWord l (0x100 + off) else 0

def setRend (l : List Byte) (r off : Nat) : Word := imageWord l (0x300 + 0x100 * r + off)

/-- A surface of a set: it is in use. -/
def setSurf (l : List Byte) (k off : Nat) : Word :=
  let w := imageWord l (0x1300 + 0x40 * k + off)
  if off = 0 then setBit w 31 else w

def setSurface (l : List Byte) (k : Nat) : Surf := { rd := setSurf l k }

/-- The rendition that a surface of a set reads. -/
def setRendOf (l : List Byte) (k : Nat) : Nat := (setSurface l k).rend

/-- The bulk object in a handle, as long as its own header says; empty for handle 0. -/
def jobObject (s : State) (kind h : Nat) : List Byte :=
  if h = 0 then [] else
    let head := bufferBytes s h 0 32
    bufferBytes s h 0 (objSize kind head)

/-- The job's block configuration as the lock-up checks take it. -/
def Job.blk (j : Job) (s : State) : BlkCfg :=
  let l := bufferBytes s j.rset 0 setBytes
  { rfe := setRfe l, clr := setClr l, rfeBase := 0, clrBase := 0x100, kind := 0, unit := 0, width := j.width, height := j.height,
    dual := j.dual, courses := 1, defects := jobObject s 0x10 (j.at 0x12 2), flat := jobObject s 0x11 (j.at 0x14 2),
    mesh := jobObject s 0x14 (j.at 0x16 2) }

/-- A failure of a job's check: where it lies (1 descriptor, 2 rendition set), its offset, DETAIL. -/
structure JobBad where
  place : Nat
  off : Nat
  detail : Nat

/-- The target and cap of the job's raw output (R214, R227). -/
def Job.target (j : Job) (s : State) : Nat :=
  let merge := if (j.blk s).ctl 4 then 4 else 0
  trbTarget (trbNominal j.width j.height (j.bits + merge)) j.ratio
def Job.cap (j : Job) (s : State) : Nat := trbCap (j.target s) (j.at 0x1A 1)

/-- The reserve of R216 does not fit the job's cap. -/
def Job.tight (j : Job) (s : State) : Bool :=
  let c := j.blk s
  let blocks := ((List.range c.py).map fun y => ((List.range c.px).map fun x =>
    ceilDiv (planeCols c.px 0 j.width x).length 32 * ceilDiv (planeRows c.py j.height y) 8).sum).sum
  decide (26 * blocks > 8 * secBudget (j.cap s) j.height j.width j.width 1)

/-- Single fields of the set outside their ranges: offsets in the set. -/
def setFields (l : List Byte) (nsurf : Nat) : List Nat :=
  let words := fun (n base : Nat) (bad : Nat → Word → Bool) (rd : Nat → Word) =>
    ((List.range n).filter fun i => bad (4 * i) (rd (4 * i))).map fun i => base + 4 * i
  let rends := ((List.range nsurf).map (setRendOf l)).filter (fun r => decide (r < 16))
  words 64 0 rfeFieldBad (setRfe l) ++ words 128 0x100 clrFieldBad (setClr l)
    ++ (rends.flatMap fun r => words 64 (0x300 + 0x100 * r) rendFieldBad (setRend l r))
    ++ ((List.range nsurf).flatMap fun k => words 16 (0x1300 + 0x40 * k) surfFieldBad (setSurf l k))
    ++ ((List.range nsurf).filter fun k => decide (setRendOf l k ≥ 16)).map fun k => 0x1300 + 0x40 * k

/-- The range checks on the set and the bulk objects (R364): the failures of the lock-up checker's order, single fields first. A failure
that concerns no field of the set lies in an object: the descriptor field that names it locates it. -/
def Job.setBad (j : Job) (s : State) : Option JobBad :=
  let l := bufferBytes s j.rset 0 setBytes
  let c := j.blk s
  let objs : List (Nat × Nat × List Byte) := [(0x10, 0x12, c.defects), (0x11, 0x14, c.flat), (0x14, 0x16, c.mesh)]
  let wrong := objs.find? fun o => decide (o.2.2 ≠ []) && (!(headerOk o.1 o.2.2) || decide ((byteAt o.2.2 0).toNat ≠ o.1))
  let surfs := List.range j.nsurf
  let rends := surfs.map (setRendOf l)
  let single := firstOf ((setFields l j.nsurf).map fun o => { detail := 0x01, off := some o, kind := 0, unit := 0 })
  let set1 := fun (r : Reject) (obj : Nat) => match r.off with
    | some o => ({ place := 2, off := o, detail := r.detail } : JobBad)
    | none => { place := 1, off := obj, detail := r.detail }
  let ranges := (c.cfaRange ++ c.rfeRange).map (set1 · 0x14) ++ (c.clrRange.map (set1 · 0x16))
    ++ (if c.defects ≠ [] ∧ defectsBad c.defects then [({ place := 1, off := 0x12, detail := 0x01 } : JobBad)] else [])
    ++ ((rends.flatMap fun r => rendRange (setRend l r) (0x300 + 0x100 * r)).map (set1 · 0))
    ++ ((surfs.flatMap fun k => surfRange (setSurface l k) (0x1300 + 0x40 * k) false).map (set1 · 0))
    ++ (if j.rawOut ∧ j.tight s then [({ place := 1, off := 0x18, detail := 0x01 } : JobBad)] else [])
  let geoms := c.rfeGeom.map (set1 · 0x14) ++ c.clrGeom.map (set1 · 0x16)
    ++ (surfs.flatMap fun k => surfGeom (setSurface l k) (0x1300 + 0x40 * k) j.width j.height).map (set1 · 0)
  match wrong with
  | some o => some { place := 1, off := o.2.1, detail := 0x01 }
  | none => match single with
    | some r => some (set1 r 0)
    | none => (ranges ++ geoms).head?

/-! ### Handles and streams (R364) -/

/-- Every handle that a job names, with the descriptor offset that names it. -/
def Job.named (j : Job) : List (Nat × Nat) :=
  (0xA, j.rset) :: ([0x12, 0x14, 0x16].map fun o => (o, j.at o 2)).filter (fun p => decide (p.2 ≠ 0))
    ++ (List.range j.frames).flatMap fun f => (List.range j.nsurf).map fun i => (j.framesAt + 64 * f + 0x20 + 2 * i, j.handle f i)

/-- The handles of the set and of its objects are not the function's, or the set does not fit its own. -/
def Job.sourceBad (j : Job) (s : State) (p : Party) : Option Nat :=
  if ((handleOf s j.rset).map (·.size)).getD 0 < setBytes then some 0xA
  else ((j.named.take 4).find? fun x => decide (x.1 < 0x18) && !allocatedTo s p x.2).map (·.1)

/-- The first handle at fault: not ALLOCATED to the function, named twice, in a pool or referenced, or too small. -/
def Job.handleBad (j : Job) (s : State) (p : Party) : Option Nat :=
  let l := bufferBytes s j.rset 0 setBytes
  let small := fun (off h : Nat) =>
    decide (off ≥ j.framesAt) && (handleOf s h).any fun b =>
      decide (b.size < (setSurface l ((off - j.framesAt) % 64 / 2 - 16)).size)
  let rec_ := j.named.find? fun x =>
    !allocatedTo s p x.2 || referenced s x.2 || decide ((j.named.filter fun y => decide (y.2 = x.2)).length > 1) || small x.1 x.2
  rec_.map (·.1)

/-- The first stream entry at fault. -/
def Job.streamBad (j : Job) (s : State) : Option Nat :=
  let l := bufferBytes s j.rset 0 setBytes
  (List.range j.nstream).findSome? fun i =>
    let (e, k, f) := j.stream i
    let ctl := regGet s (encReg e k 0)
    let su := setSurface l f
    let size := regGet s (encReg e k 8)
    if ¬ bit ctl 31 ∨ ¬ bit ctl 30 ∨ f ≥ j.nsurf ∨ regField s (encReg e k 4) 31 24 ≠ su.format
        ∨ field size 13 0 ≠ su.outW ∨ field size 29 16 ≠ su.outH then some (64 + 4 * i) else none

/-- The first frame entry whose raw output is smaller than the cap. -/
def Job.rawBad (j : Job) (s : State) : Option Nat :=
  if ¬ j.rawOut then none
  else (List.range j.frames).findSome? fun f => if j.fr f 0xC 4 < j.cap s then some (j.framesAt + 64 * f + 0xC) else none

/-- Every check of R364 in order; LEN is the length at hand. (DEDUCED, log 31) -/
def Job.check (j : Job) (s : State) (p : Party) (len : Nat) : Option JobBad :=
  let at_ := fun (o : Nat) => ({ place := 1, off := o, detail := 0 } : JobBad)
  if len < 64 then some { place := 0, off := 0x10, detail := 0 }
  else match j.headerBad with
  | some o => some (at_ o)
  | none =>
    if len < j.need then some { place := 0, off := 0x10, detail := 0 }
    else match j.entryBad.orElse (fun _ => j.sourceBad s p) with
    | some o => some (at_ o)
    | none => match j.setBad s with
      | some b => some b
      | none => ((j.handleBad s p).orElse fun _ => (j.streamBad s).orElse fun _ => j.rawBad s).map at_

/-! ### One frame's path (R138, R186, R227) -/

/-- What the raw front end processes for a host-job frame. -/
def Job.raw_ (j : Job) (s : State) (q tag : Nat) (fr : FrameRec) : RawIn :=
  let l := bufferBytes s j.rset 0 setBytes
  let c := j.blk s
  { rd := setRfe l, width := j.width, height := j.height, bits := j.bits, dual := j.dual, host := true,
    lines := (List.range j.height).map fun y => (y, (j.raw.drop (y * j.lineBytes)).take j.payload),
    defects := c.defects, flat := c.flat, prevH := none, prevL := none, expNs := 0, band := fr.tempBand,
    badDefects := s.fetchBad.filterMap fun x => match x with
      | .jobDefects a b y => if a = q ∧ b = tag then some y else none
      | _ => none
    badNodes := s.fetchBad.filterMap fun x => match x with
      | .jobFlat a b c i k => if a = q ∧ b = tag then some (c, i, k) else none
      | _ => none
    badColumns := s.fetchBad.filterMap fun x => match x with
      | .jobColumns a b g i =>
        if a = q ∧ b = tag then some (g, i, signed 16 (Config.badColumn 255 fr.ord.toNat g i).toNat) else none
      | _ => none }

/-- What the colour engine processes for it. -/
def Job.clr_ (j : Job) (s : State) (q tag : Nat) (r : RawIn) (o : RawOut) : ClrIn :=
  let l := bufferBytes s j.rset 0 setBytes
  { rd := setClr l, raw := r, samples := o.work.map fun x => x.map r.lf24, mesh := (j.blk s).mesh,
    badMesh := s.fetchBad.filterMap fun x => match x with
      | .jobMesh a b c i k => if a = q ∧ b = tag then some (c, i, k) else none
      | _ => none
    hist := none, badHist := [] }

/-- The raw output (R227): a single section on the course, written to the host; the record with TRB_BYTES and, on a fall, TRB_CAP.
The engine's state is lost at block row `bad`, if any (R420). -/
def Job.rawOutput (j : Job) (s : State) (fn c f : Nat) (bad : Option Nat) (r : RawIn) (o : RawOut) (fr : FrameRec) : State × FrameRec :=
  if ¬ j.rawOut then (s, fr)
  else
    let t : TrbIn := {
      r20 := o.r20, missing := fun _ => false, width := r.width, height := r.height, px := r.px, py := r.py, ped := r.ped,
      edges := seams r.width 1, courses := [c], ratio := j.ratio, cap := j.cap s, target := j.target s, q0 := [j.at 0x1B 1],
      format := j.at 0x10 1 % 4 + (if r.ctl 4 then 4 else 0), slot := 0, ord := fr.ord, tag := fr.tag,
      cfaRows := (List.range 8).map fun i => r.rd (0x60 + 4 * i), faults := (bad.map fun b => (c, b)).toList }
    let secs := trbSections t
    let bytes := trbFrame t true secs
    let qi := s.gal.qi
    let ctx := ctxFrame 255 2 c 0 fr.ord fr.tag 0
    let s := secProgress s ctx 0 c (secAfter t 0 0) (secAfter t 0 (blockRows t))
    let s := secs.foldl (fun s x => secEffects s 0 x) s
    let s := { s with gal := { s.gal with qi := qi } }
    let s := emit s (.hostWrite fn (j.fr f 0x10 8) bytes)
    let fr : FrameRec := { fr with trbBytes := bytes.length }
    let fr : FrameRec := if bad.isSome then { fr with status := setBit fr.status 5 } else fr
    (s, if secs.any (·.fell) then { fr with status := setBit fr.status 9 } else fr)

/-- The renditions that a job's surfaces read, each once (R177). -/
def Job.rends (j : Job) (l : List Byte) : List Nat := ((List.range j.nsurf).map (setRendOf l)).eraseDups

/-- One surface of a host-job frame written into its handle, from its rendition; its OUT_CORRUPT. -/
def Job.surface (j : Job) (s : State) (f k : Nat) (fr : FrameRec) (outs : List (Nat × Rendered)) : State × Bool :=
  let l := bufferBytes s j.rset 0 setBytes
  let su := setSurface l k
  let x := ((outs.find? fun x => decide (x.1 = su.rend)).map (·.2)).getD { px := [], bad := [] }
  let bad : Bool := decide (x.bad ≠ [])
  let (bytes, _, _, _) := fillSurface su (su.scale j.width j.height (fun _ => true) x.px) .black
  let own := if bad then setBit fr.status 20 else fr.status
  let h := j.handle f k
  (writeBuffer (writeBuffer s h 4096 bytes) h 0 (recBytes { fr with status := own }), bad)

/-- An error that a host-job frame meets in its course (R183, R419, R420): DATA_CORRUPT with a record, the block row from which its TRB engine's
state is lost, a LUT word found uncorrectable, or corrected reads. The record's code and the block row are free. (DEDUCED, log 31) -/
def Job.meet (s : State) (fault : StageFault) (ctx : Ctx) (fr : FrameRec) : State × FrameRec × Option Nat :=
  match fault with
  | .none => (s, fr, none)
  | .sram =>
    let (k, s) := freeNat s
    let (code, s) := freeNat s
    (record s ([0x08, 0x0A, 0x0C].getD (k % 3) 0x08) (code % 256) .degraded ctx 0, { fr with status := setBit fr.status 5 }, none)
  | .engine _ => let (row, s) := freeNat s; (s, fr, some (row % 2048))
  | .lut w => ({ s with lut := { s.lut with bad := if s.lut.bad.contains w then s.lut.bad else s.lut.bad ++ [w] } }, fr, none)
  | .lutCorrected k => (countN s 0xB0004 k, fr, none)

/-- A host-job frame through its course (R138, R186): the record as its outputs take it, and whether any output is corrupt. -/
def Job.process (j : Job) (s : State) (q tag fn c f : Nat) (fault : StageFault) (fr : FrameRec) : State × FrameRec × Bool :=
  let ctx := ctxFrame 255 2 c 0 fr.ord fr.tag 0
  let (s, fr, lost) := Job.meet s fault ctx fr
  let r := j.raw_ s q tag fr
  let o := r.run
  let s := if r.fetchFailed then event s .rfe 3 0x04 .degraded ctx 0 else s
  let cl := j.clr_ s q tag r o
  let out := cl.run false
  let s := repeatN out.voids (fun s => clrEvent s 2 0x03 .info ctx) s
  let badClr := decide (cl.badMesh ≠ []) && cl.ctl 10
  let s := if badClr then event s .clr 0 0x01 .degraded ctx 0 else s
  let fr : FrameRec := if r.fetchFailed || badClr then { fr with status := setBit fr.status 5 } else fr
  let (s, fr) := j.rawOutput s fn c f lost r o fr
  let l := bufferBytes s j.rset 0 setBytes
  let outs := (j.rends l).map fun x => (x, renderFrame s.lut (setRend l x) cl out)
  let s := outs.foldl (fun s x => lutBadRead s x.2.bad) s
  let (s, bad) := (List.range j.nsurf).foldl (fun (a : State × Bool) k =>
    let (s, b) := j.surface a.1 f k fr outs
    (s, a.2 || b)) (s, false)
  (s, fr, bad)

/-! ### Ends of a job -/

/-- The pictures of a job that are not coded are abandoned as under R268 (R372): counted, with PIC_NO_SOURCE. (DEDUCED, log 31) -/
def dropJobPics (s : State) (q tag : Nat) : State :=
  forStreams s fun s e k =>
    let st := s.hev.streams[e][k]
    let cf := st.conf e k
    let mine := fun (p : EncPic) => p.job.any fun x => decide (x.1 = q) && decide (x.2.1 = tag)
    let s := (st.waiting.filter mine).foldl (fun s p => dropPic s e k cf p 2 0x03 .info) s
    let s := match st.cur with
      | some p => if mine p then dropPic (modEnc s e k fun st => { st with cur := none }) e k cf p 2 0x03 .info else s
      | none => s
    modEnc s e k fun st => { st with coded := st.coded.filter fun p => !mine p }

/-- A failed host read of a job (R353): its pictures are abandoned, and it ends with the frames completed so far. -/
def jobDma (s : State) (q tag : Nat) : State :=
  match queueOf s q, cmdOf s q tag with
  | some x, some c =>
    let n := (c.job.map (·.left)).getD 0
    complete (dropJobPics (dmaReadErr s x.fn q tag c.op) q tag) q tag stDataCorrupt 0 (BitVec.ofNat 32 n) 0
  | _, _ => s

end Sys2Proof.Machine
end

