-- ==== Sys2Proof/Machine/QueueOps.lean ====
section
/-! DEFINITION. Operations of the queue machinery: the fetch arbiter (R350), the checks of a fetched entry (R345, R346), the fence of a queue
reset (R372), what an FLR ends (R373), and the MSI-X table (R341, R351). -/

namespace Sys2Proof.Machine
open Sys2Proof

/-! ### The arbiter (R350) -/

/-- A queue that may be fetched from: entries wait, no reset holds it, it is not halted, and its function masters the bus. (DEDUCED, log 35) -/
def fetchable (s : State) (x : Queue) : Bool :=
  decide (x.sqHead ≠ x.sqTail) && !x.halted && x.resetting.isNone && !x.fenced && s.hq.bme.toList.getD x.fn false

/-- A field of HQ.ARB; 0 acts as 1 (Table HQ-12). -/
def arbField (s : State) (hi lo : Nat) : Nat := max 1 (regField s 0x181000 hi lo)

def arbBurst (s : State) : Nat := arbField s 31 24

/-- The entries that a queue of a class fetches in its turn. -/
def arbTurn (s : State) (cls : Nat) : Nat :=
  let w := if cls = 1 then arbField s 23 16 else if cls = 2 then arbField s 15 8 else arbField s 7 0
  min w (arbBurst s)

/-- The least of a list of numbers. -/
def least (l : List Nat) : Option Nat := l.foldl (fun b x => some (min x (b.getD x))) none

/-- The first after `at_` of numbers taken in a circle. -/
def nextRound (l : List Nat) (at_ : Nat) : Option Nat :=
  match least (l.filter fun x => decide (at_ < x)) with
  | some x => some x
  | none => least l

/-- The queue that the arbiter fetches the next entry from, and the arbiter's state once it has. (DEDUCED, log 35) -/
def arbNext (s : State) : Option (Nat × Arb) :=
  let a := s.hq.arb
  let l := s.hq.queues.filter fun p => fetchable s p.2
  let urgent := (l.filter fun p => decide (p.2.cls = 0)).map (·.1)
  let others := (l.filter fun p => decide (p.2.cls ≠ 0)).map fun p => p.2.cls * 4096 + p.1
  if fetchPaused s then none
  else if urgent ≠ [] then
    if urgent.contains a.urgent ∧ a.urgentLeft > 0 then some (a.urgent, { a with urgentLeft := a.urgentLeft - 1 })
    else (nextRound urgent a.urgent).map fun q => (q, { a with urgent := q, urgentLeft := arbBurst s - 1 })
  else
    let key := a.cls * 4096 + a.lastQ
    if others.contains key ∧ a.left > 0 then some (a.lastQ, { a with left := a.left - 1 })
    else (nextRound others key).map fun k =>
      (k % 4096, { a with cls := k / 4096, lastQ := k % 4096, left := arbTurn s (k / 4096) - 1 })

/-! ### Entries (R345, R346) -/

/-- An opcode of Table HQ-7: whether it names data, and the bits that ARG0 and ARG1 define. -/
structure OpRow where
  code : Nat
  data : Bool
  arg0 : Nat
  arg1 : Nat

def opRows : List OpRow := [
  ⟨0x01, true, 48, 32⟩, ⟨0x02, true, 48, 32⟩, ⟨0x03, false, 0, 0⟩, ⟨0x04, false, 48, 32⟩,
  ⟨0x10, true, 0, 0⟩, ⟨0x20, true, 6, 0⟩, ⟨0x21, true, 3, 32⟩,
  ⟨0x30, false, 64, 0⟩, ⟨0x31, false, 16, 0⟩, ⟨0x32, true, 16, 64⟩, ⟨0x33, true, 16, 64⟩,
  ⟨0x40, true, 4, 0⟩, ⟨0x41, true, 4, 16⟩, ⟨0x42, false, 4, 0⟩]

def opRowOf (op : Nat) : Option OpRow := opRows.find? fun r => decide (r.code = op)

/-- The offset of the first field of an entry that its opcode leaves zero and that is not (R346, Tables HQ-5, HQ-7). (DEDUCED, log 35) -/
def OpRow.badField (r : OpRow) (e : List Byte) : Option Nat :=
  let arg := fun (off n : Nat) => decide (leAt e off 8 ≥ 2 ^ n)
  ([(0x01, decide (leAt e 1 1 ≥ 16)), (0x02, decide (leAt e 2 2 ≠ 0)), (0x04, decide (leAt e 4 4 ≥ 2 ^ 18)),
    (0x08, !r.data && decide (leAt e 8 8 ≠ 0)), (0x10, !r.data && decide (leAt e 0x10 4 ≠ 0)), (0x14, decide (leAt e 0x14 4 ≠ 0)),
    (0x18, arg 0x18 r.arg0), (0x20, arg 0x20 r.arg1), (0x28, decide (leAt e 0x28 8 ≠ 0)),
    (0x30, decide (leAt e 0x30 16 ≠ 0))].find? (·.2)).map (·.1)

/-- A command as its entry gives it. A read of a handle holds it from here on (R202, R369). -/
def newCmd (s : State) (p : Party) (e : List Byte) (sqHead : Nat) : Cmd :=
  let h := leAt e 0x18 8 % 65536
  { op := leAt e 0 1, flags := leAt e 1 1, addr := leAt e 8 8, len := leAt e 0x10 4, arg0 := leAt e 0x18 8, arg1 := leAt e 0x20 8,
    arg2 := leAt e 0x28 8, sqHead := sqHead, order := s.hq.fetched, mark := s.mag.nextOp, waiting := false, finished := false,
    holds := if leAt e 0 1 = 0x32 ∧ allocatedTo s p h then [h] else [], segs := [], data := [], job := none, aborted := false }

/-- A fetched entry checked in the order of R345: a tag outside the range or in flight is not held. -/
def takeEntry (s : State) (q : Nat) (x : Queue) (e : List Byte) : State :=
  let tag := leAt e 4 4 % 2 ^ 18
  let op := leAt e 0 1
  let head := (x.sqHead + 1) % x.sqDepth
  let refuse := fun (flags : Nat) => ({
    result := 4, tag := tag, sqHead := head, status := stInvalidField, detail := 0, flags := flags, op := op,
    irqNow := bit (BitVec.ofNat 32 (leAt e 1 1)) 1, ends := false } : Cqe)
  if tag < x.tagBase ∨ x.tagBase + x.tagCount ≤ tag then postEntry s q (refuse 0)
  else if (mGet x.cmds tag).isSome then
    postEntry (hqEvent (count s (fnReg x.fn 0x18)) x.fn 1 0x02 .info (ctxCommand x.fn q tag op 0) 0) q (refuse 8)
  else
    let c := newCmd s x.owner e head
    let s := modQ s q fun x => { x with cmds := mPut x.cmds tag c }
    match opRowOf op with
    | none => completeSt s q tag stInvalidOpcode
    | some r => match r.badField e with
      | some off => completeField s q tag 0 off 0
      | none => s

/-! ### Queue reset (R371, R372) -/

/-- The fence: every aborted completion has been posted. (DEDUCED, log 35) -/
def tryFence (s : State) (q : Nat) : State :=
  match queueOf s q with
  | none => s
  | some x => match x.resetting with
    | none => s
    | some n =>
      if x.cmds ≠ [] ∨ x.backlog ≠ [] ∨ x.full then s
      else
        let s := modQ s q fun x => { x with sqHead := x.sqTail, resetting := none, fenced := true, halted := false }
        let e : Cqe := {
          result := BitVec.ofNat 32 n, tag := 0, sqHead := x.sqTail, status := stSuccess, detail := 0, flags := 4, op := 0,
          irqNow := false, ends := false }
        postEntry s q e

/-- The hold instant (R371): every tag in flight is to be aborted; a completion made and not yet posted is withdrawn. -/
def holdQueue (s : State) (q : Nat) : State :=
  let s := modQ s q fun x => { x with
    resetting := some 0, backlog := x.backlog.filter fun e => !e.ends,
    cmds := x.cmds.map fun p => (p.1, { p.2 with aborted := true, finished := false }) }
  tryFence s q

/-- What a command leaves behind in the units that work for it: pictures of a job, an access unit of a session (R370, R372). -/
def stopWork (s : State) (q tag : Nat) (c : Cmd) : State :=
  let s := if c.job.isSome then dropJobPics s q tag else s
  if c.op = 0x41 then modSession s (c.arg0 % 16) fun y => { y with todo := y.todo.filter fun t => decide (t ≠ (q, tag)) } else s

/-! ### Function reset (R373) -/

/-- A queue of a function is deleted: each tag in flight gets one error record, the first of which raises FLR; `first` tells that none has. -/
def deleteQueue (s : State) (first : Bool) (q : Nat) (x : Queue) : State × Bool :=
  let (s, first) := x.cmds.foldl (fun (a : State × Bool) p =>
    let ctx := ctxCommand x.fn q p.1 p.2.op 0
    let s := stopWork a.1 q p.1 p.2
    (if a.2 then hqEvent s x.fn 3 0x04 .info ctx stAborted else record s 0x18 0x04 .itemFailed ctx stAborted, false)) (s, first)
  ({ s with
    fetchBad := s.fetchBad.filter fun c => (match c with
      | .command q1 _ _ => decide (q1 ≠ q)
      | .jobDefects q1 _ _ => decide (q1 ≠ q)
      | .jobFlat q1 _ _ _ _ => decide (q1 ≠ q)
      | .jobColumns q1 _ _ _ => decide (q1 ≠ q)
      | .jobMesh q1 _ _ _ _ => decide (q1 ≠ q)
      | _ => true),
    hq := { s.hq with queues := mDel s.hq.queues q, resetAsked := s.hq.resetAsked.filter fun k => decide (k ≠ q) } }, first)

/-- The party of a function. -/
def partyOf (f : Nat) : Party := match (List.finRange 63).find? fun (n : Fin 63) => decide (n.val + 1 = f) with
  | some n => .vf n
  | none => .pf

/-- A Function Level Reset of one function (R373, R388). (DEDUCED, log 35) -/
def flrOne (s : State) (f : Nat) : State :=
  let p := partyOf f
  let (s, _) := s.hq.queues.foldl (fun (a : State × Bool) x =>
    if x.2.owner = p then deleteQueue a.1 a.2 x.1 x.2 else a) (s, true)
  let s := { s with hev := { s.hev with sessions := s.hev.sessions.filter fun y => decide (y.2.owner ≠ p) } }
  let s := freeAllOf s p
  let s := releaseHeld s
  clearSlots s p

/-- An FLR of a function; that of the PF does the same for every VF (R373). (DEDUCED, log 35) -/
def flr (s : State) (f : Nat) : State := if f = 0 then (List.range 64).foldl flrOne s else flrOne s f

/-! ### MSI-X (R341, R351) -/

/-- The vectors of a function whose PBA bit is set and which are not masked send their messages. -/
def sendPending (s : State) (fn vec : Nat) : State :=
  if (mGet s.pba (fn * 128 + vec)).isSome ∧ ¬ vecMasked s fn vec then
    emit { s with pba := mDel s.pba (fn * 128 + vec) } (.msix fn vec)
  else s

/-- A write to a word of a function's MSI-X table; the control word holds the mask bit alone, and unmasking sends what waits. -/
def writeMsix (s : State) (fn off : Nat) (v : Word) : State :=
  if off % 4 ≠ 0 ∨ off ≥ 16 * vectorsOf fn then s
  else
    let w : Word := if off % 16 = 12 then v &&& 1 else if off % 16 = 0 then v &&& ~~~3#32 else v
    let dflt : Word := if off % 16 = 12 then 1 else 0
    let key := fn * 0x4000 + off
    sendPending { s with msix := if w = dflt then mDel s.msix key else mPut s.msix key w } fn (off / 16)

end Sys2Proof.Machine
end

