-- ==== Sys2Proof/Machine/Queue.lean ====
section
/-! DEFINITION. The commands of the queues themselves: doorbells, fetching, interrupts, resets and the PCIe endpoint (R339 to R353, R371 to
R373, R477, R479). -/

namespace Sys2Proof.Machine
open Sys2Proof

/-- The queue that a function's doorbell names, when the function owns it (R342). -/
def ownedQueue (s : State) (f : Fin 64) (q : Nat) : Option Queue := (queueOf s q).filter fun x => decide (x.fn = f.val)

/-- A write to an SQ tail doorbell (R342, R349); fetching resumes after a fence (R372). -/
def execSqTailDoorbell (f : Fin 64) (q : Nat) (v : Word) (s : State) : Host.Outcome State Fault Refusal :=
  inCore s fun s => match ownedQueue s f q with
    | none => badDoorbell s f q
    | some x =>
      let t := field v 15 0
      if t ≥ x.sqDepth then badDoorbell s f q
      else modQ s q fun x => { x with sqTail := t, fenced := false }

/-- A write to a CQ head doorbell (R342, R348, R349): held completions are posted, and a fence that waits for room. -/
def execCqHeadDoorbell (f : Fin 64) (q : Nat) (v : Word) (s : State) : Host.Outcome State Fault Refusal :=
  inCore s fun s => match ownedQueue s f q with
    | none => badDoorbell s f q
    | some x =>
      let h := field v 15 0
      let ahead := (h + x.cqDepth - x.cqHead) % x.cqDepth
      let posted := (x.cqTail + x.cqDepth - x.cqHead) % x.cqDepth
      if h ≥ x.cqDepth ∨ ahead > posted then badDoorbell s f q
      else tryFence (drainBacklog x.cqDepth (modQ s q fun x => { x with cqHead := h }) q) q

/-- FETCH (R345, R350, R353): the entry of the queue that the arbiter chooses; a read that fails halts the queue. -/
def execFetch (q : Nat) (entry : Option (List Byte)) (s : State) : Host.Outcome State Fault Refusal :=
  inCore s fun s => match arbNext s, queueOf s q with
    | some (k, a), some x =>
      if k ≠ q then s
      else
        let s := { s with hq := { s.hq with arb := a } }
        match entry with
        | none =>
          let s := modQ s q fun x => { x with halted := true }
          hqEvent (count s 0x181010) x.fn 2 0x03 .degraded (ctxCommand x.fn q 0 0 0) 0
        | some e =>
          let s := count { s with hq := { s.hq with fetched := s.hq.fetched + 1 } } 0x18100C
          takeEntry (modQ s q fun x => { x with sqHead := (x.sqHead + 1) % x.sqDepth }) q x (padTo 64 e)
    | _, _ => s

/-- AGG_TIME × 4 µs have passed since the first entry that no message has reported (R351). -/
def execAggTimeExpiry (q : Nat) (s : State) : Host.Outcome State Fault Refusal :=
  inCore s fun s => match queueOf s q with
    | none => s
    | some x => if x.aggTime > 0 ∧ x.unsignalled > 0 ∧ s.now ≥ x.firstAt + 4000 * x.aggTime then signalQ s q else s

/-- A write of a vector's control word (R351). -/
def execVectorUnmask (f : Fin 64) (vec : Fin 128) (v : Word) (s : State) : Host.Outcome State Fault Refusal :=
  inCore s fun s => writeMsix s f (16 * vec.val + 12) v

/-- A write of HQ.QRESET (R371): by the owning function; ignored while a reset of the queue is in progress. (DEDUCED, log 35) -/
def execQreset (f : Fin 64) (v : Word) (s : State) : Host.Outcome State Fault Refusal :=
  inCore s fun s =>
    let q := field v 11 0
    match ownedQueue s f q with
    | none => s
    | some x =>
      if ¬ bit v 31 ∨ x.resetting.isSome ∨ s.hq.resetAsked.contains q then s
      else { s with hq := { s.hq with resetAsked := s.hq.resetAsked ++ [q] } }

/-- The hold instant of a queue reset (R371). -/
def execResetHold (q : Nat) (s : State) : Host.Outcome State Fault Refusal :=
  inCore s fun s =>
    if s.hq.resetAsked.contains q then
      holdQueue { s with hq := { s.hq with resetAsked := s.hq.resetAsked.filter fun k => decide (k ≠ q) } } q
    else s

/-- An aborted command that waits, which stops at once (R372). -/
def Cmd.stopsAtOnce (c : Cmd) : Bool := c.aborted && c.waiting && !c.finished && c.job.isNone

/-- Aborted completions that become ready in the same cycle are posted in ascending tag order: those that stop at once become ready at the hold
instant, before any other (R372). -/
def abortTurn (x : Queue) (tag : Nat) (c : Cmd) : Bool :=
  x.cmds.all fun p => decide (p.1 = tag) || !p.2.stopsAtOnce || (c.stopsAtOnce && decide (tag < p.1))

/-- The work of an aborted command has stopped (R372): it completes with ABORTED_BY_RESET; a job once its frame has left the course. -/
def execAbortedCompletion (q tag : Nat) (s : State) : Host.Outcome State Fault Refusal :=
  inCore s fun s => match queueOf s q, cmdOf s q tag with
    | none, _ => s
    | _, none => s
    | some x, some c =>
      let onCourse : Bool := c.job.any fun j => j.course.isSome
      if ¬ c.aborted ∨ c.finished ∨ onCourse ∨ abortTurn x tag c = false then s
      else
        let s := stopWork s q tag c
        let e : Cqe := {
          result := BitVec.ofNat 32 ((c.job.map (·.left)).getD 0), tag := tag, sqHead := c.sqHead, status := stAborted, detail := 0,
          flags := 0, op := c.op, irqNow := bit (BitVec.ofNat 32 c.flags) 1, ends := true }
        let s := modQ s q fun x => { x with
          resetting := x.resetting.map (· + 1),
          cmds := mMod x.cmds tag fun c => { c with finished := true, waiting := false } }
        let s := tryFence (postEntry s q e) q
        if c.op = 0x41 then settleCloses s (c.arg0 % 16) else s

/-- FLR (R373). -/
def execFlr (f : Fin 64) (s : State) : Host.Outcome State Fault Refusal := inCore s fun s => flr s f

/-- A function's Bus Master Enable (R350). -/
def execBusMasterEnable (f : Fin 64) (on : Bool) (s : State) : Host.Outcome State Fault Refusal :=
  inCore s fun s => { s with hq := { s.hq with bme := s.hq.bme.set f on } }

/-- Registers of clock domains 44 and 45: the HQ block, in the PF's window and in those of the VFs. -/
def inPcie (off : Nat) : Bool :=
  (decide (0x180000 ≤ off) && decide (off < 0x190000)) || (decide (0x80000000 ≤ off) && decide (0x8000 ≤ off % 0x10000))

/-- PCIE_RESET (R479, Table SYS-18): PERST_N low, a hot reset or the link down. (PRESUMED, log 15; DEDUCED, log 35) -/
def pcieReset (s : State) (perst : Bool) : State :=
  let s := flr s 0
  let hq := { s.hq with bme := Vector.replicate 64 false, arb := State.reset.hq.arb, fetched := 0, resetAsked := [] }
  { s with
    hq := hq, regs := s.regs.filter fun p => !inPcie p.1, msix := [], pba := [],
    sys := { s.sys with pcieUp := false, perst := s.sys.perst && !perst } }

def execPcieReset (cause : PcieCause) (s : State) : Host.Outcome State Fault Refusal :=
  inCore s fun s => pcieReset s (decide (cause = .perst))

/-- PCIE_LINK_TRAINING (R339, R477): with PCIE_EN strapped high the link trains to a rate and width it supports; HQ.LINK shows them. (DEDUCED, log 35) -/
def execPcieLinkTraining (rate width : Nat) (flit l0p : Bool) (s : State) : Host.Outcome State Fault Refusal :=
  inCore s fun s =>
    if ¬ regBit s 0x18 4 ∨ (s.sys.clocks[2]).lost ∨ rate = 0 ∨ rate > 6 ∨ ¬ [1, 2, 4, 8, 16].contains width then s
    else
      let on : Bool := flit || decide (rate = 6)
      let s := regSet s 0x181014 (packFields [(31, if on then 1 else 0), (30, if on && l0p then 1 else 0), (8, width), (0, rate)])
      { s with sys := { s.sys with perst := true, pcieUp := true } }

end Sys2Proof.Machine
end

