-- ==== Sys2Proof/Machine/Irq.lean ====
section
/-! DEFINITION. The interrupt controller (R408 to R412). -/

namespace Sys2Proof.Machine
open Sys2Proof

/-- A source is pending and enabled. -/
def srcPending (s : State) (i : Nat) : Bool :=
  regBit s (pendingReg i) (i % 32) && bit (regGet s (srcCfgReg i)) 31

def srcPrio (s : State) (i : Nat) : Nat := field (regGet s (srcCfgReg i)) 3 0

/-- The core a source of priority `p` and target set `t` goes to: among the targets whose running priority is above `p`, the one with
the numerically highest, the lower core number on a tie (R410). -/
def routeTo (run : List Nat) (t p : Nat) : Option Nat :=
  (List.range 4).foldl (fun b u =>
    let r := run.getD u 0
    if t.testBit u ∧ p < r then
      match b with
      | none => some u
      | some v => if run.getD v 0 < r then some u else some v
    else b) none

/-- The core that a source is routed to (R410). -/
def routed (s : State) (i : Nat) : Option Nat :=
  if srcPending s i then routeTo s.irq.run.toList (field (regGet s (srcCfgReg i)) 11 8) (srcPrio s i) else none

/-- The source that a claim by a core returns: of those routed to it the lowest priority number, then the lowest identifier (R411). -/
def claimed (s : State) (u : Nat) : Option Nat :=
  (List.range 1024).foldl (fun b i =>
    if routed s i = some u then
      match b with
      | none => some i
      | some j => if srcPrio s i < srcPrio s j then some i else some j
    else b) none

/-- IRQ.Uu_RUNPRI of a core. -/
def runWord (s : State) (u : Fin 4) : Word := packFields [(16, s.irq.stack[u].length), (0, s.irq.run[u])]

def showRun (s : State) (u : Fin 4) : State := regSet s (0x192008 + 0x100 * u.val) (runWord s u)

/-- A claim that takes a source (R411). -/
def takeSource (s : State) (u : Fin 4) (i : Nat) : State :=
  let p := srcPrio s i
  let s := regSet s (pendingReg i) (clrBit (regGet s (pendingReg i)) (i % 32))
  let s := regSet s (activeReg i) (setBit (regGet s (activeReg i)) (i % 32))
  let irq := { s.irq with
    stack := s.irq.stack.set u ((s.irq.run[u], i) :: s.irq.stack[u]), run := s.irq.run.set u p }
  showRun { s with irq := irq } u

/-- SOURCE_EDGE (R409). -/
def execSourceEdge (i : Fin 1024) (s : State) : Host.Outcome State Fault Refusal := inCore s fun s => sourceEdge s i.val

/-- SWSET (R408): an edge on each named software source, in ascending order. -/
def execSwset (p : Party) (v : Word) (s : State) : Host.Outcome State Fault Refusal := inCore s fun s =>
  writeBy s p 0x191180 fun s =>
    (List.range 16).foldl (fun s k => if bit v k then sourceEdge s (256 + k) else s) s

/-- CLAIM (R411): a read by the core itself claims; another party's read returns zero and changes nothing (notes/assumptions/10.md). (DEDUCED, log 10) -/
def execClaim (p : Party) (u : Fin 4) (s : State) : Host.Outcome State Fault Refusal := inCore s fun s =>
  let off := 0x192000 + 0x100 * u.val
  if p = .user u then
    match claimed s u.val with
    | none => emit s (.readData p off 1023)
    | some i => emit (takeSource s u i) (.readData p off (BitVec.ofNat 32 i))
  else emit s (.readData p off 0)

/-- EOI (R412). (DEDUCED, log 10) -/
def execEoi (p : Party) (u : Fin 4) (v : Word) (s : State) : Host.Outcome State Fault Refusal := inCore s fun s =>
  let off := 0x192004 + 0x100 * u.val
  if p = .user u then
    match s.irq.stack[u] with
    | (run, i) :: rest =>
      if field v 9 0 = i then
        let irq := { s.irq with stack := s.irq.stack.set u rest, run := s.irq.run.set u run }
        let s := showRun { s with irq := irq } u
        regSet s (activeReg i) (clrBit (regGet s (activeReg i)) (i % 32))
      else count s (off + 8)
    | [] => count s (off + 8)
  else writeBy s p off id

end Sys2Proof.Machine
end

