-- ==== Sys2Proof/Machine/User.lean ====
section
/-! DEFINITION. User cores (R395 to R403). -/

namespace Sys2Proof.Machine
open Sys2Proof

/-- A core held in reset (R402): it stops, its interrupt state is cleared, its windows are unmapped and its mailbox slots cleared. (DEDUCED, log 10) -/
def resetCore (s : State) (u : Fin 4) : State :=
  if ¬ userRuns s u then s
  else
    let s := regPut s (userReg u 4) 31 31 0
    let s := s.irq.stack[u].foldl (fun s e =>
      regSet s (activeReg e.2) (clrBit (regGet s (activeReg e.2)) (e.2 % 32))) s
    let irq := { s.irq with stack := s.irq.stack.set u [], run := s.irq.run.set u 16 }
    let s := showRun { s with irq := irq } u
    let s := (List.range 16).foldl (fun s w => regSet s (userReg u (0x40 + 4 * w)) 0) s
    clearSlots s (.user u)

/-- LOAD (R401): ignored while a load is in progress. (DEDUCED, log 10) -/
def execLoad (p : Party) (u : Fin 4) (v : Word) (s : State) : Host.Outcome State Fault Refusal := inCore s fun s =>
  writeBy s p (userReg u 0) fun s =>
    if ¬ bit v 1 ∨ (s.per.cores[u].loading).isSome then s
    else
      let s := regSet (resetCore s u) (userReg u 0) 1
      let s := regPut s (userReg u 4) 2 0 1
      let h := regField s (userReg u 8) 15 0
      modCore s u fun c => { c with loading := some (if (handleOf s h).any fun x => !x.releasing then h else 0) }

/-- The outcome of checking a user image of `l`, of which `size` bytes are there: the code, and the image and entry of a good one
(Table PER-2). -/
def imageOutcome (l : List Byte) (size : Nat) : Nat × List Byte × Nat :=
  let hd := padTo 64 l
  let len := leAt hd 8 4
  let ent := leAt hd 12 4
  if hd.take 8 ≠ [0x55, 0x49, 0x4D, 0x47, 0x01, 0, 0, 0] ∨ len < 4 ∨ len > 524288 ∨ ent % 2 ≠ 0 ∨ ent ≥ len
      ∨ ¬ allZero (hd.drop 20) ∨ 64 + len > size then (4, [], 0)
  else
    let img := padTo len (l.drop 64)
    if crc32 img = leAt hd 16 4 then (2, img, ent) else (5, [], 0)

/-- The outcome of a load from a handle. -/
def loadOutcome (s : State) (h : Nat) (bad : Bool) : Nat × List Byte × Nat :=
  match handleOf s h with
  | none => (3, [], 0)
  | some x =>
    if bad then (6, [], 0)
    else imageOutcome (bufferBytes s h 0 524352) x.size

/-- LOAD_COMPLETE (R401): a failed load leaves TCM zeroed. -/
def execLoadComplete (u : Fin 4) (bad : Bool) (s : State) : Host.Outcome State Fault Refusal := inCore s fun s =>
  match (s.per.cores[u]).loading with
  | none => s
  | some h =>
    let (code, img, ent) := loadOutcome s h bad
    let s := regPut s (userReg u 4) 2 0 code
    modCore s u fun c => { c with loading := none, tcm := img, entry := if code = 2 then some ent else c.entry }

/-- CORE_RESET (R402): a write of RESET = 1 without LOAD. -/
def execCoreReset (p : Party) (u : Fin 4) (v : Word) (s : State) : Host.Outcome State Fault Refusal := inCore s fun s =>
  writeBy s p (userReg u 0) fun s => if bit v 0 ∧ ¬ bit v 1 then regSet (resetCore s u) (userReg u 0) 1 else s

/-- CORE_RELEASE (R402): at ENTRY of the last successful load; without one the core stays in reset and LOAD reads 5. A core that is
being loaded stays in reset too (notes/assumptions/10.md). -/
def execCoreRelease (p : Party) (u : Fin 4) (v : Word) (s : State) : Host.Outcome State Fault Refusal := inCore s fun s =>
  writeBy s p (userReg u 0) fun s =>
    if bit v 0 ∨ bit v 1 then s
    else if (s.per.cores[u].loading).isSome then s
    else if (s.per.cores[u].entry).isSome then regPut (regSet s (userReg u 0) 0) (userReg u 4) 31 31 1
    else regPut s (userReg u 4) 2 0 5

/-- HWIN_MAP (R399): only a handle ALLOCATED to the core is mapped. -/
def execHwinMap (p : Party) (u : Fin 4) (w : Fin 16) (v : Word) (s : State) : Host.Outcome State Fault Refusal :=
  inCore s fun s =>
    let off := userReg u (0x40 + 4 * w.val)
    writeBy s p off fun s =>
      let h := field v 15 0
      if h = 0 then regSet s off 0
      else if allocatedTo s (.user u) h then regSet s off (packFields [(31, 1), (0, h)])
      else badAccess (regSet s off 0)

/-- An access fault (R395, R396): the address recorded, and a record of severity degraded with block tag 0x21. -/
def accessFault (s : State) (u : Fin 4) (cause addr : Nat) (bad : Bool) : State :=
  let s := regSetWide s (userReg u 0x10) [BitVec.ofNat 32 addr, BitVec.ofNat 32 (addr / 2 ^ 32)]
  sourceEdge (record s 0x21 (if bad then 2 else 1) .degraded (ctxUnit 20 u 0 cause) 0) (16 + 0x21)

/-- An access of at most 8 bytes at an address faults (R395, R399): a fetch outside TCM, a load or a store outside every region, a store to
the statistics rings or through a window that bars it. -/
def faults (s : State) (u : Fin 4) (cause addr : Nat) : Bool := match cause, coreAt s u addr 8 with
  | 1, .tcm _ => false
  | 1, _ => true
  | 5, .none => true
  | 7, .none => true
  | 7, .stats _ _ => true
  | 7, .window h _ => storeBarred s h
  | _, _ => false

/-- ACCESS_FAULT (R395, R396), of a running core whose access faults or meets an uncorrectable word. -/
def execAccessFault (u : Fin 4) (cause addr : Nat) (bad : Bool) (s : State) : Host.Outcome State Fault Refusal :=
  inCore s fun s => if userRuns s u ∧ (bad ∧ [1, 5, 7].contains cause ∨ faults s u cause addr) then accessFault s u cause addr bad else s

/-- The TCM word of an access has been corrected (R396). -/
def tcmChecked (s : State) (u : Fin 4) (ecc : Ecc) : State := if ecc = .corrected then count s (userReg u 0x18) else s

/-- A load of a word by a user core's firmware, outside the BAR0 map (R395, R396, R398, R399). -/
def coreLoad (s : State) (u : Fin 4) (addr : Nat) (ecc : Ecc) : State :=
  if ecc = .uncorrectable then accessFault s u 5 addr true
  else
    let give := fun (s : State) (w : Word) => emit s (.barData (.user u) (.core ecc) addr w)
    match coreAt s u addr 4 with
    | .tcm o => give (tcmChecked s u ecc) (BitVec.ofNat 32 (leAt (tcmBytes s u o 4) 0 4))
    | .window h o => give s (BitVec.ofNat 32 (leAt (bufferBytes s h o 4) 0 4))
    | .stats n r =>
      match ringAt s n (r / 30976) with
      | some x => give s (BitVec.ofNat 32 (leAt x.bytes (r % 30976) 4))
      | none => let (w, s) := freeWord s; give s w
    | _ => accessFault s u 5 addr false

/-- A store of a word by a user core's firmware, outside the BAR0 map (R395, R396, R399). -/
def coreStore (s : State) (u : Fin 4) (addr : Nat) (v : Word) (ecc : Ecc) : State :=
  if ecc = .uncorrectable then accessFault s u 7 addr true
  else match coreAt s u addr 4 with
  | .tcm o => putTcm (tcmChecked s u ecc) u o (leBytes 4 v.toNat)
  | .window h o => if storeBarred s h then accessFault s u 7 addr false else writeBuffer s h o (leBytes 4 v.toNat)
  | _ => accessFault s u 7 addr false

/-- MACHINE_TIMER (R403): pending while MTIME is at or above MTIMECMP. (DEDUCED, log 10) -/
def execMachineTimer (u : Fin 4) (s : State) : Host.Outcome State Fault Refusal := inCore s fun s =>
  let cmp := (regGet s (userReg u 0x20)).toNat + (regGet s (userReg u 0x24)).toNat * 2 ^ 32
  if devTime s ≥ cmp then modCore s u fun c => { c with timer := true } else s

end Sys2Proof.Machine
end

