-- ==== Sys2Proof/Machine/SysOps.lean ====
section
/-! DEFINITION. Power and reset (R471 to R479): what each reset clears, CORE_PWR_EN, the release of the core, and the configuration area
of the boot flash. -/

namespace Sys2Proof.Machine
open Sys2Proof

def modSys (s : State) (f : SysBlk → SysBlk) : State := { s with sys := f s.sys }

/-- Registers that a core reset keeps: the straps, and those of Colophon and its comparators but for the course clock caps (Table
SYS-18). -/
def aonKeeps (off : Nat) : Bool :=
  decide (off = 0x18) || (decide (0x1B0000 ≤ off) && decide (off < 0x1D0000) && !(decide (0x1B0010 ≤ off) && decide (off < 0x1B0020)))

/-- Pins that a core reset drives (R479, R489). -/
def pinsDown (s : State) : State :=
  let s := driveMag s false false
  if s.sys.ready then emit s (.pin .sysReady false) else s

/-- Domains 0 to 48 are cleared; Colophon, the latch, the log and the straps are kept, and what the pins see of a magazine (R479). (DEDUCED, log 41) -/
def coreReset (s : State) : State :=
  let s := pinsDown s
  let z := State.reset
  let sys := { z.sys with
    aon := s.sys.aon, pwrEn := s.sys.pwrEn, enAt := s.sys.enAt, pg := s.sys.pg, pgAt := s.sys.pgAt, attempts := s.sys.attempts,
    gaveUp := s.sys.gaveUp, downAt := s.sys.downAt, cause := s.sys.cause, perst := s.sys.perst, config := s.sys.config }
  let mag := { z.mag with
    st := if s.mag.present then .off else .empty, present := s.mag.present, latch := s.mag.latch }
  let mgt := { s.mgt with health := vMod s.mgt.health 1 fun _ => none }
  { z with
    now := s.now, free := s.free, out := s.out, pending := s.pending, regs := s.regs.filter fun p => aonKeeps p.1, thm := s.thm,
    mgt := mgt, sys := sys, mag := mag }

/-- CORE_PWR_EN falls: a core power cycle (R457, R472), which ends a fatal state (R479). `again`: power returns after 100 ms. -/
def coreOff (s : State) (cause : Nat) (again : Bool) : State :=
  let s := if s.flt.fatal then emit s (.pin .sysFaultN true) else s
  let s := coreReset (emit s (.pin .corePwrEn false))
  let s := modThm s fun t => { t with hot := t.hot || t.shutAt.isSome, shutAt := none }
  modSys s fun y => { y with
    pwrEn := false, pg := false, cause := cause, downAt := if again then some s.now else none }

/-- CORE_PWR_EN rises: a start of the core domains (R472, R476, Table THM-5). -/
def powerOn (s : State) : State :=
  let s := emit (modSys s fun y => { y with pwrEn := true, enAt := s.now, downAt := none }) (.pin .corePwrEn true)
  modMgt s fun m => { m with bootCount := m.bootCount + 1, powerAt := s.now }

/-! ### The configuration area (R475) -/

/-- The header's MAGIC and CRC hold. (DEDUCED, log 41) -/
def configGood (l : List Byte) : Bool :=
  decide (l.take 4 = [0x54#8, 0x43#8, 0x46#8, 0x47#8]) && decide (l.length ≥ 256) && decide (leAt l 0xFC 4 = crc32 (l.take 0xFC))

/-- MEM_RATE; 0 by default and for values above 4. -/
def configRate (l : List Byte) : Nat :=
  if configGood l ∧ leAt l 5 1 ≤ 4 then leAt l 5 1 else 0

/-- The map registers, where MAP_CUSTOM is set. -/
def configMap (l : List Byte) : Option (List Word) :=
  if configGood l ∧ (byteAt l 6).getLsbD 0 then some (wordsOf 6 (l.drop 0x10)) else none

/-- The image of a user core, and whether it runs by itself; none where none is present. -/
def configUser (l : List Byte) (u : Nat) : Option (List Byte × Bool) :=
  let at_ := 0x40 + 16 * u
  if configGood l ∧ (byteAt l (at_ + 8)).getLsbD 0 then
    some ((l.drop (leAt l at_ 4)).take (leAt l (at_ + 4) 4), (byteAt l (at_ + 8)).getLsbD 1)
  else none

/-- MEM.CFG before training: CLAMSHELL from the strap, the pin rate, and usable memory (R432, Table MEM-4). -/
def memBoot (s : State) : State :=
  let clam := regBit s 0x18 0
  let s := regSet s 0x170000 (packFields [(30, if clam then 1 else 0), (27, configRate s.sys.config), (0, if clam then 46080 else 23040)])
  let s := match configMap s.sys.config with
    | some l => regSetWide s 0x170010 l
    | none => s
  if configGood s.sys.config then s else addErrorLog s

/-! ### Release (R476) -/

/-- The core reset is released: the band measured from TMAX is applied at once, and the map is written. -/
def releaseCore (s : State) : State :=
  let s := { s with live := true, coreAt := s.now, flt := { s.flt with lastSwitch := s.now, lastCkpt := s.now, ckpt := none } }
  let s := regSet (regSet s 0x10 1) 0x14 (BitVec.ofNat 32 s.sys.cause)
  let s := match hottest s with
    | some (_, t) => applyBand (modThm s fun x => { x with measured := bandOf t })
    | none => s
  memBoot s

/-! ### Colophon's start (R458, R460, R476) -/

/-- A log entry put before those with a later LOG_SEQ. -/
def insertLog (e : LogEnt) : List LogEnt → List LogEnt
  | [] => [e]
  | x :: l => if e.seq ≤ x.seq then e :: x :: l else x :: insertLog e l

/-- The log as found in the flash: entries whose CRC passes, by LOG_SEQ. -/
def logFound (l : List (List Byte)) : List LogEnt := (l.filterMap logFrom).foldl (fun l e => insertLog e l) []

/-- The newest entry of some types. -/
def newestOf (l : List LogEnt) (tys : List Nat) : Option LogEnt := (l.filter fun e => tys.contains e.ty).getLast?

/-- The latch restored from the newest THERMAL_SHUTDOWN that no THM_ACK follows (R458). (DEDUCED, log 39) -/
def restoreLatch (s : State) : State :=
  match newestOf s.mgt.log [0x03, 0x04] with
  | some e => if e.ty = 0x03 then
      regSetWide s (thmReg 4) (wordsOf 2 e.payload)
    else s
  | none => s

/-- The always-on domain starts (R476): straps, the Colophon slot, the latch, and core power, which is held low after a thermal shutdown
that no start has followed (R458). (DEDUCED, log 39) -/
def startAon (s : State) (groupA : Bool) (straps : Nat) (f : Flash) : State :=
  let s := if s.sys.pwrEn then emit s (.pin .corePwrEn false) else s
  let s := pinsDown (if s.flt.fatal then emit s (.pin .sysFaultN true) else s)
  let z := State.reset
  let log := logFound f.log
  let newest := log.getLast?
  let mgt := { z.mgt with
    log := log, logSeq := (newest.map (·.seq)).getD 0, bootCount := (newest.map (·.boot)).getD 0, slots := f.slots, fuses := f.fuses,
    secondAt := s.now, powerAt := s.now }
  let sys := { z.sys with aon := true, cause := if groupA then 1 else 2, config := f.config, perst := s.sys.perst }
  let mag := { z.mag with
    st := if s.mag.present then .off else .empty, present := s.mag.present, latch := s.mag.latch }
  let s := { z with now := s.now, free := s.free, out := s.out, pending := s.pending, mgt := mgt, sys := sys, mag := mag }
  let s := regSet s 0x18 (BitVec.ofNat 32 straps)
  let (s, k) := bootSlot s 1 (regBit s 0x18 5)
  match k with
  | none => modMgt s fun m => { m with dead := true }
  | some _ =>
    let s := restoreLatch s
    let held : Bool := match newestOf s.mgt.log [0x03, 0x05] with
      | some e => decide (e.ty = 0x03)
      | none => false
    if held then modThm s fun t => { t with hot := true } else powerOn s

/-! ### Readiness (R476, R478) -/

/-- The images of the user cores in the configuration area are loaded, and those with AUTO_RUN are released (R401, R476). -/
def loadUser (s : State) (u : Fin 4) : State :=
  match configUser s.sys.config u with
  | none => s
  | some (l, run) =>
    let (code, img, ent) := imageOutcome l l.length
    let s := regPut s (userReg u 4) 2 0 code
    let s := modCore s u fun c => { c with tcm := img, entry := if code = 2 then some ent else c.entry }
    if run ∧ code = 2 then regPut (regSet s (userReg u 0) 0) (userReg u 4) 31 31 1 else s

/-- The BOOT log entry (Table THM-6). -/
def bootEntry (s : State) (k : Nat) : List Byte :=
  let a := s.mgt.booted[0]
  [BitVec.ofNat 8 s.sys.cause, BitVec.ofNat 8 a, BitVec.ofNat 8 k, 0] ++ leBytes 4 (imgVersion (slotAt s 1 a).image)
    ++ leBytes 4 (imgVersion (slotAt s 2 k).image)

/-- Fjarera runs with forme 0 in force: SYS_READY, the BOOT entry, the first checkpoint, the mount of a magazine that is present, the
requests that waited, and the user images. (DEDUCED, log 39) -/
def becomeReady (s : State) (k : Nat) : State :=
  let s := emit (modSys (regSet s 0x10 3) fun y => { y with ready := true }) (.pin .sysReady true)
  let s := addLog s 0x05 (bootEntry s k)
  let s := regSet s 0x1A002C (regGet s 0x1A002C + 1)
  let s := { s with flt := { s.flt with lastCkpt := s.now, journal := 0, ckpt := none } }
  let s := if s.mag.present ∧ regBit s 0xF0000 31 then startMount s 0 else s
  (List.finRange 4).foldl loadUser (sweepInvalid s)

end Sys2Proof.Machine
end

