-- ==== Sys2Proof/Machine/Clock.lean ====
section
/-! DEFINITION. The reference-clock monitors (R485). -/

namespace Sys2Proof.Machine
open Sys2Proof

/-- The links in use. -/
def enabledLinks (s : State) : List (Fin 4) := (List.finRange 4).filter fun (k : Fin 4) => linkEnabled s k

/-- What the loss of a reference brings about (Table SYS-25); a link stays DOWN until the return. The internal oscillator that Colophon runs on is the interval's tolerance. -/
def clockLost (s : State) (i : Nat) : State :=
  match i with
  | 1 => fatal s 0x00 0x03 (ctxUnit 0 i 0 0)
  | 2 => pcieReset s false
  | 3 => (enabledLinks s).foldl (fun s k => startBringup (linkFault s k) k) s
  | 4 => (List.range 2).foldl (fun s p => (List.range 4).foldl (fun s f => ifDown s p f) s) s
  | _ => s

/-- What its return brings about: links restart R103; PCIe and Ethernet links come up by their own training. (DEDUCED, log 41) -/
def clockBack (s : State) (i : Nat) : State :=
  match i with
  | 3 => ((enabledLinks s).filter fun k => !(s.lnk.links[k]).testing).foldl startBringup s
  | _ => s

/-- One reference over one window: none for no edge, else its deviation in ppm. While AON_XTAL is lost the others are checked for edges only. -/
def clockWindow (s : State) (edgesOnly : Bool) (i : Nat) (v : Option Int) : State :=
  let m := s.sys.clocks.toList.getD i { bad := 0, good := 0, lost := false }
  let within := fun (n : Int) => match v with
    | none => false
    | some d => (edgesOnly && decide (i ≠ 0)) || (decide (-n ≤ d) && decide (d ≤ n))
  let bad := if within 1000 then 0 else m.bad + 1
  let good := if within 200 then m.good + 1 else 0
  let put := fun (s : State) (lost : Bool) =>
    let w := if lost then setBit (regGet s 0x20) i else clrBit (regGet s 0x20) i
    modSys (regSet s 0x20 w) fun y => { y with clocks := vMod y.clocks i fun _ => { bad := bad, good := good, lost := lost } }
  if ¬ m.lost ∧ bad ≥ 2 then
    let s := count (put s true) 0x24
    clockLost (event s .sys 0 0x01 .degraded (ctxUnit 0 i 0 0) 0) i
  else if m.lost ∧ good ≥ 10 then
    clockBack (event (put s false) .sys 1 0x02 .info (ctxUnit 0 i 0 0) 0) i
  else put s m.lost

/-- CLOCK_MONITOR_WINDOW (R485): 1 ms of each reference: AON_XTAL, SYS_REFCLK, PCIE_REFCLK, LNK_REFCLK, ETH_REFCLK. (DEDUCED, log 41) -/
def execClockMonitorWindow (v : Vector (Option Int) 5) (s : State) : Host.Outcome State Fault Refusal :=
  inCore s fun s =>
    if s.now < s.sys.clkAt + 1000000 then s
    else
      let edgesOnly := (s.sys.clocks[0]).lost
      v.toList.zipIdx.foldl (fun s p => clockWindow s edgesOnly p.2 p.1) (modSys s fun y => { y with clkAt := s.now })

end Sys2Proof.Machine
end

