-- ==== Sys2Proof/Machine/FltOps.lean ====
section
/-! DEFINITION. The control complex (R422 to R430): the core in each role, switch-over, and what it does to mailbox requests and host
jobs whose control step was in progress (R85, R375, R386). -/

namespace Sys2Proof.Machine
open Sys2Proof

def fltReg (off : Nat) : Nat := 0x1A0000 + off

/-- The role that a core fills, 0 to 3; none for the standby and for cores that are out of use. -/
def roleOf (s : State) (k : Nat) : Option (Fin 5) :=
  (List.finRange 5).find? fun (r : Fin 5) => decide (r.val < 4) && decide (s.flt.roles[r] = k)

/-- The standby core, when there is one: role 4 is held by a core that is neither FAILED nor in its self-test (R427). -/
def standby (s : State) : Option Nat :=
  let k := s.flt.roles[(4 : Fin 5)]
  if s.flt.selfTest.isSome ∨ s.flt.failed.toList.getD k true then none else some k

/-- FLT.ROLES. -/
def rolesWord (s : State) : Word :=
  packFields [(0, s.flt.roles[0]), (4, s.flt.roles[1]), (8, s.flt.roles[2]), (12, s.flt.roles[3]), (16, s.flt.roles[4]),
    (24, (s.flt.failed.toList.zipIdx.map fun p => if p.1 then 2 ^ p.2 else 0).sum)]

/-- An event of the FLT block with a record of its own (R431). -/
def fltEvent (s : State) (i : Nat) (sev : Severity) (ctx : Ctx) : State := event s .flt i i sev ctx 0

/-- A core is marked FAILED, and no standby is left (R427, R429). -/
def coreFailed (s : State) (k : Nat) : State :=
  let s := { s with flt := { s.flt with failed := vMod s.flt.failed k fun _ => true } }
  fltEvent s 4 .degraded (ctxUnit 19 k 0 0)

/-- The standby takes a role, and the core that held it takes role 4 (R426 step 7, R430). (DESIGN CHOICE, log 14) -/
def takeRole (s : State) (r : Fin 5) : State :=
  let old := s.flt.roles[r]
  let new := s.flt.roles[(4 : Fin 5)]
  { s with flt := { s.flt with
    roles := (s.flt.roles.set r new).set 4 old, leftStandby := vMod s.flt.leftStandby new fun _ => s.now,
    lastSwitch := s.now, overdueRaised := false } }

/-- Cycles of the 1.2 GHz control clock since the fence of the switch-over under way (R426). -/
def gapCycles (s : State) : Nat := match s.flt.gap with
  | some g => ceilDiv (6 * (s.now - g.since)) 5
  | none => 0

/-- Control service resumes: GAP cleared, the gap's length kept, SWITCHOVER raised with the core that has taken the role (R426). -/
def resume (s : State) (new before : Nat) : State :=
  let gap := min (before + gapCycles s) 600000
  let s := s.net.heard.foldl (fun s (p, f, stamp, l) => emit s (.ptpRx p f stamp l)) s
  let s := { s with flt := { s.flt with gap := none }, net := { s.net with heard := [] } }
  let s := regSet s (fltReg 0x18) (BitVec.ofNat 32 gap)
  let s := regSet s (fltReg 0x1C) (BitVec.ofNat 32 (max gap (regGet s (fltReg 0x1C)).toNat))
  fltEvent (count s (fltReg 0x20)) 2 .info (ctxUnit 19 new 0 gap)

/-! ### What a fault settles (R85, R375, R386) -/

/-- A RUNNING request fails at the switch-over with none of its effect. -/
def failRequest (s : State) (p : Party) (slot : Nat) : State := mbxReply (count s 0x1C008) p slot stFailedSw 0 0 0

/-- A FORME_LOCK in Checking: not committed, so it fails and its forme is Staged again (R85). -/
def settleLock (s : State) (p : Party) (slot : Nat) : State :=
  match s.frm.checking.find? fun c => decide (c.party = p) && decide (c.slot = slot) with
  | none => s
  | some c =>
    let formes := mMod s.frm.formes c.forme fun f => { f with st := .staged }
    let frm := { s.frm with formes := formes, checking := s.frm.checking.filter fun x => decide (x ≠ c) }
    failRequest { s with frm := frm } p slot

/-- A RUNNING request of the failed core: one that has made its commit goes on; a calibration or a drain has none (R386). -/
def settleRequest (s : State) (p : Party) (slot : Nat) : State :=
  let s := settleLock s p slot
  let calib := s.mbx.calib.any fun c => decide (c.party = p) && decide (c.mslot = slot)
  let drain := s.mbx.drain.any fun d => decide (d.party = p) && decide (d.slot = slot)
  if calib then
    failRequest { s with mbx := { s.mbx with
      calib := s.mbx.calib.filter fun c => !(decide (c.party = p) && decide (c.mslot = slot)) } } p slot
  else if drain then
    let s := { s with mbx := { s.mbx with drain := none } }
    if slot < mbxSlots p then failRequest s p slot else s
  else s

/-- A job whose admission, or a DEC_OPEN whose parsing, the failed core had begun (R375). -/
def settleJobAt (s : State) (q tag : Nat) : State :=
  match cmdOf s q tag with
  | some c =>
    let job : Bool := match c.job with
      | some j => !j.admitted
      | none => false
    if job ∨ c.op = 0x40 then completeSt s q tag stFailedSw else s
  | none => s

/-! ### Switch-over -/

/-- Control service cannot resume (R421, R429). -/
def loseControl (s : State) (k : Nat) : State :=
  fatal { s with flt := { s.flt with controlLost := true, gap := none } } 0x1A 0x05 (ctxUnit 19 k 0 0)

/-- A switch-over after a fault in a role's core ends (R426, R427, R429). (DESIGN CHOICE, log 14) -/
def faultSwitch (s : State) (r : Fin 5) (b : Standby) : State :=
  let k := s.flt.roles[r]
  match standby s with
  | none => loseControl s k
  | some new =>
    if ¬ b.ok then loseControl s new
    else
      let s := takeRole s r
      let s := { s with flt := { s.flt with selfTest := some k } }
      let s := b.served.foldl (fun s x => settleRequest s x.1 x.2) s
      let s := b.jobs.foldl (fun s x => settleJobAt s x.1 x.2) s
      sweepInvalid (resume s new b.gap)

/-- The fence of a switch-over: control service is interrupted, and a checkpoint being written is not completed (R426 step 2). The gap
is reckoned from the fault instant, `det` ns ago (R424). -/
def openGap (s : State) (core : Option Nat) (det : Nat) : State :=
  { s with flt := { s.flt with gap := some { core := core, since := s.now - det }, ckpt := none } }

/-- The gap of a fault lasts. -/
def faultGap (s : State) : Bool := s.flt.gap.any fun g => g.core.isSome

/-- A control-core fault detected `det` ns after its instant (R424): its record, and the switch-over, which the same command ends, or the one that names the core again. Another
core's fault within the gap finds no standby. (DESIGN CHOICE, log 14) -/
def coreFault (s : State) (k code det : Nat) (b : Option Standby) : State :=
  match roleOf s k with
  | none => s
  | some r =>
    if s.flt.controlLost then record s 0x20 code .degraded (ctxUnit 19 k 0 0) 0
    else match s.flt.gap with
    | some g =>
      if g.core = some k then (match b with
        | some b => faultSwitch s r b
        | none => s)
      else loseControl (record s 0x20 code .degraded (ctxUnit 19 k 0 0) 0) k
    | none =>
      let s := record s 0x20 code .degraded (ctxUnit 19 k 0 0) 0
      if (standby s).isNone then loseControl s k
      else match b with
      | some b => faultSwitch (openGap s (some k) det) r b
      | none => openGap s (some k) det

/-- The role that an activation or a drill displaces: the active role whose core has gone longest since it last held role 4 (R430). -/
def displaced (s : State) : Fin 5 :=
  ([1, 2, 3] : List (Fin 5)).foldl (fun (b r : Fin 5) =>
    if s.flt.leftStandby.toList.getD s.flt.roles[r] 0 < s.flt.leftStandby.toList.getD s.flt.roles[b] 0 then r else b) 0

/-- A planned switch-over (R429, R430): whether it took effect. (DESIGN CHOICE, log 14) -/
def plannedSwitch (s : State) (b : Standby) : State × Bool :=
  match standby s with
  | none => ({ s with flt := { s.flt with gap := none } }, false)
  | some new =>
    if b.ok then (resume (takeRole s (displaced s)) new b.gap, true)
    else (coreFailed (fltEvent { s with flt := { s.flt with gap := none } } 3 .degraded (ctxUnit 19 new 0 0)) new, false)

end Sys2Proof.Machine
end

