-- ==== Sys2Proof/Machine/Display.lean ====
section
/-! DEFINITION. The display commands (R291 to R300). -/

namespace Sys2Proof.Machine
open Sys2Proof

/-- The instant at which the next frame of a head starts (R289, R291). -/
def nextStart (s : State) (h : Nat) (x : Head) : Option ℚ :=
  if x.raster then (if x.latched then some (x.startAt + x.period h) else none)
  else if x.st = .seeking ∨ x.st = .holdover then
    (if x.source h = 0 ∨ x.refGood s h then x.refAfter s h x.waitFrom else none)
  else none

/-- The phase error at a frame start: from the start to the reference instant, wrapped into −T/2 to T/2 (R291). -/
def phaseErr (s : State) (h : Nat) (x : Head) (start : ℚ) : Option ℚ :=
  (x.refAfter s h start).map fun r => centred (r - start) (frameNs (x.word h))

/-- A measurement under a locked source (R291, R292): d moves by at most 1 ppm towards what removes e over 8 frames. -/
def measureHead (s : State) (h : Fin 6) (e : ℚ) : State :=
  let x := s.dsp.heads[h]
  let t := frameNs (x.word h.val)
  let pull : ℚ := (field (x.word h.val 0x20) 7 0 : ℚ)
  let want := if t = 0 then 0 else clampQ (e * 1000000 / (8 * t)) (-pull) pull
  let d := x.d + clampQ (want - x.d) (-1) 1
  let small : Bool := decide (e < x.clockNs h.val) && decide (-e < x.clockNs h.val)
  let good := if small then x.good + 1 else 0
  let edge := if want = pull ∨ want = -pull then x.atPull + 1 else 0
  let s := modHead s h fun x => { x with d := d, good := good, atPull := edge }
  let s := regSet s (headReg h.val 0x2C) (wordOfInt (if e ≥ 0 then (e + 1 / 2).floor else -(1 / 2 - e).floor))
  let s := regSet s (headReg h.val 0x30) (wordOfInt (d * 256).floor)
  let s := if x.st = .seeking ∧ good ≥ 8 then
      event (setHeadSt s h .locked) .dsp 0 0x01 .info (ctxUnit 4 h 0 0) 0 else s
  if edge ≥ 64 ∨ outOfPull s s.dsp.heads[h] h.val = true then headOffRange s h else s

/-- A frame start between measurements: want stays where the last one left it, and counts where that is ±PULL (R292). -/
def stillAtPull (s : State) (h : Fin 6) : State :=
  let x := s.dsp.heads[h]
  if x.atPull = 0 then s
  else
    let s := modHead s h fun x => { x with atPull := x.atPull + 1 }
    if x.atPull + 1 ≥ 64 then headOffRange s h else s

/-- HEAD_FRAME_START (R291): the frame starts, a frame that coincides with a reference instant is measured, and the composed picture
goes to the outputs; lines with pixels not delivered are counted (R297). -/
def execHeadFrameStart (h : Fin 6) (late : List (Nat × Nat × Nat)) (s : State) : Host.Outcome State Fault Refusal :=
  inCore s fun s =>
    let x := s.dsp.heads[h]
    match nextStart s h.val x with
    | none => s
    | some t =>
      if ¬ x.enabled h.val ∨ (s.now : ℚ) < t then s
      else
        let frame := if x.raster then x.frame + 1 else 0
        let first := !x.raster
        let s := modHead s h fun x => { x with
          raster := true, frame := frame, startAt := t, latched := false, startPtp := t + (axisNow s true - axisNow s false) }
        let s := if first ∧ x.source h.val = 0 then setHeadSt s h .locked else s
        let x := s.dsp.heads[h]
        let s := match x.st with
          | .off => s
          | .holdover => s
          | _ =>
            if x.source h.val = 0 then s
            else if frame % max 1 (field (x.word h.val 0) 19 16) ≠ 0 then stillAtPull s h
            else match phaseErr s h.val x t with
              | some e => measureHead s h e
              | none => s
        let bad := x.planes.toList.any fun p => !p.clear.isEmpty
        let s := (List.finRange 4).foldl (fun s (q : Fin 4) =>
          if (x.planes[q]).clear.isEmpty then s else event s .dsp 4 0x05 .degraded (ctxUnit 4 h q 0) 0) s
        let rows := (late.map (·.1)).dedup.filter fun y => decide (y < x.height h.val)
        let s := if rows = [] then s
          else event (countN s (headReg h.val 0x38) rows.length) .dsp 3 0x04 .degraded (ctxUnit 4 h 0 0) 0
        let pic := composeHead s h.val s.dsp.heads[h] late
        let s := modHead s h fun x => { x with
          picture := pic, disturbed := x.disturbed || bad || !rows.isEmpty,
          planes := x.planes.map fun p => { p with clear := [] } }
        scanOut s h.val pic

/-- One eDP port at a latch instant of its head: a run of unchanged frames enters PSR2, a changed one leaves it (R300). -/
def psrStep (s : State) (p : Fin 2) (changed : Bool) : State :=
  let x := s.dsp.ports[p]
  if changed then
    if x.st = 3 then event (setEdp s p { x with st := 2, unchanged := 0, wake := x.setup }) .dsp 8 0x09 .info (ctxUnit 14 p 0 0) 0
    else setEdp s p { x with unchanged := 0 }
  else
    let n := x.unchanged + 1
    if x.st = 2 ∧ bit x.cfg 21 = true ∧ x.psr2 = true ∧ n ≥ field x.cfg 15 8 then
      event (setEdp s p { x with st := 3, unchanged := n }) .dsp 8 0x09 .info (ctxUnit 14 p 0 1) 0
    else setEdp s p { x with unchanged := n }

/-- LATCH_INSTANT (R293): the frame has been scanned, formes and planes latch, and panel self-refresh follows (R289, R300). -/
def execLatchInstant (h : Fin 6) (s : State) : Host.Outcome State Fault Refusal := inCore s fun s =>
  let x := s.dsp.heads[h]
  if ¬ x.raster ∨ x.latched ∨ (s.now : ℚ) < x.lineAt h.val (x.topLines h.val + x.height h.val) then s
  else
    let before := x.planes.toList.map (·.shown)
    let s := modHead (count s (headReg h.val 0x34)) h fun x => { x with latched := true }
    let s := latchHead s h
    let s := latchOutputs s h.val
    let s := (List.finRange 4).foldl (fun s q => latchPlane s h q) s
    let y := s.dsp.heads[h]
    let changed : Bool := decide (y.planes.toList.map (·.shown) ≠ before) || y.formed || y.disturbed
    let s := settleIf (decide (y.cfg ≠ x.cfg)) (modHead s h fun x => { x with formed := false, disturbed := false })
    -- a forme that takes self-refresh from a port changes its frame too
    (List.finRange 2).foldl (fun s (p : Fin 2) =>
      let z := s.dsp.ports[p]
      if field z.cfg 30 28 = h.val then psrStep s p (changed || (decide (z.st = 3) && !bit z.cfg 21)) else s) s

/-- PLANE_HANDLE_WRITE (R293): the handle for the plane's next latch instant. (DEDUCED, log 32) -/
def execPlaneHandleWrite (p : Party) (h : Fin 6) (q : Fin 4) (v : Word) (s : State) : Host.Outcome State Fault Refusal :=
  inCore s fun s =>
    let off := planeReg h.val q.val 0xC
    writeBy s p off fun s =>
      modHead (regSet s off v) h fun x => { x with planes := x.planes.set q (x.planes[q].wrote s.now (field v 15 0)) }

/-- EDP_HPD (R299): every transition is reported; a pulse that reports loss of link status trains an active port, and any pulse a failed one. -/
def execEdpHpd (p : Fin 2) (high lost : Bool) (s : State) : Host.Outcome State Fault Refusal := inCore s fun s =>
  let x := { s.dsp.ports[p] with hpd := high }
  let train : Bool := high && ((lost && (decide (x.st = 2) || decide (x.st = 3))) || decide (x.st = 4))
  event (setEdp s p (if train then { x with st := 1, unchanged := 0, wake := 0 } else x)) .dsp 7 0x08 .info (ctxUnit 14 p 0 0) 0

/-- Training from lanes and rate on (R299 steps 3 and 4): each failed attempt lowers the rate one step, or halves the lanes at HBR. -/
def trainFrom : List Bool → Nat → Nat → Option (Nat × Nat)
  | [], _, _ => none
  | true :: _, lanes, rate => some (lanes, rate)
  | false :: r, lanes, rate =>
    if rate > 0 then trainFrom r lanes (rate - 1)
    else if lanes > 0 then trainFrom r (lanes - 1) rate else none

/-- Link rate in Mb/s by code: HBR, HBR2, HBR3. -/
def edpRate : Nat → Nat
  | 0 => 2700 | 1 => 5400 | _ => 8100

/-- A trained link carries its head: pixel rate × 3 × BPC within lanes × link rate × 0.8 (R298). -/
def edpFits (rd : Nat → Word) (w : Word) (lanes rate : Nat) : Bool :=
  let bpc := match field w 23 22 with
    | 0 => 6 | 1 => 8 | _ => 10
  decide ((rd 0x14).toNat * 3 * bpc * 10 ≤ 2 ^ lanes * edpRate rate * 1000 * 8 * field (rd 0x18) 15 0)

/-- LINK_TRAINING (R299). -/
def execLinkTraining (p : Fin 2) (lanes rate : Fin 3) (psr : Bool) (setup : Fin 16) (tries : List Bool) (s : State) :
    Host.Outcome State Fault Refusal := inCore s fun s =>
  let x := s.dsp.ports[p]
  if x.st ≠ 1 ∨ x.hpd = false then s
  else
    let x := { x with setup := setup.val, psr2 := psr }
    let h := field x.cfg 30 28
    let rd := fun off => match s.dsp.heads.toList[h]? with
      | some y => y.word h off
      | none => 0
    match trainFrom tries (min (field x.cfg 27 26) lanes.val) (min (field x.cfg 25 24) rate.val) with
    | some (l, r) =>
      if edpFits rd x.cfg l r then setEdp s p { x with st := 2, lanes := l, rate := r, unchanged := 0, wake := 0 }
      else event (setEdp s p { x with st := 4, lanes := l, rate := r }) .dsp 6 0x07 .degraded (ctxUnit 14 p 0 0) 0
    | none => event (setEdp s p { x with st := 4 }) .dsp 6 0x07 .degraded (ctxUnit 14 p 0 0) 0

end Sys2Proof.Machine
end

