-- ==== Sys2Proof/Machine/MbxDev.lean ====
section
/-! DEFINITION. The mailbox commands of sensors, lanes, ports, senders, memory tests and logs (R109, R111, R112, R252, R307, R389 to R394). -/

namespace Sys2Proof.Machine
open Sys2Proof

/-- A number below a bound as an index. -/
def idx8 (n : Nat) : Option (Fin 8) := (List.finRange 8).find? fun (k : Fin 8) => decide (k.val = n)
def idx32 (n : Nat) : Option (Fin 32) := (List.finRange 32).find? fun (k : Fin 32) => decide (k.val = n)

/-! ### Sensors -/

/-- SENSOR_CAP: the capability record in force. -/
def execSensorCap (p : Party) (slot : Fin 32) (s : State) : Host.Outcome State Fault Refusal :=
  inCore s fun s => serve s p slot 0x0301 fun s req =>
    match idx8 (byteAt req 0x10).toNat with
    | none => mbxBadField s p slot 0x10
    | some n =>
      if regField s (capStateReg n) 31 30 < 2 then mbxReply s p slot stNotReady 0 0 0
      else mbxDone s p slot stSuccess 0 0 0 (bytesOf (regWords s (capReg n 0) 16))

/-- Some entry of a REG_ACCESS is a write (R109). -/
def anyWrite (n : Nat) (l : List Byte) : Bool := (List.range n).any fun i => (byteAt l (12 * i + 8)).getLsbD 0

/-- The entries of a REG_ACCESS as they are sent: reserved bits of byte 8 and bytes 9 to 11 are 0 (R7, R109). -/
def accessBytes (n : Nat) (l : List Byte) : List Byte :=
  (List.range n).flatMap fun i => (l.drop (12 * i)).take 8 ++ [byteAt l (12 * i + 8) &&& 1#8, 0, 0, 0]

/-- SENSOR_REG (R109, R389): the entries go to the sensor in one REG_ACCESS; the answers go where the second descriptor says. (DEDUCED, log 37) -/
def execSensorReg (p : Party) (slot : Fin 32) (buf ans : HostBuf) (s : State) : Host.Outcome State Fault Refusal :=
  inCore s fun s => serve s p slot 0x0302 fun s req =>
    let n := leAt req 0x14 4
    match idx8 (byteAt req 0x10).toNat with
    | none => mbxBadField s p slot 0x10
    | some k => match slotLink s k with
      | none => mbxReply s p slot stNotReady 0 0 0
      | some (l, stream) =>
        if ¬ slotLinkUp s k then mbxReply s p slot stNotReady 0 0 0
        else mbxFetch s p slot (descAt req 0x20) buf (some (12 * n)) fun s bytes =>
          mbxRoom s p slot 0x30 (descAt req 0x30) ans (8 * n) fun s segs =>
            if anyWrite n bytes ∧ unmasked s k ∧ ¬ allowDisrupt req then mbxReply s p slot stInService 0 0 0
            else
              let s := sendBc s l (.packet 0x82 stream (accessBytes n bytes))
              let w : RegWait := { party := p, mslot := slot, slot := k, entries := n, sentAt := s.now, segs := segs }
              let s := { s with lnk := { s.lnk with regWaits := s.lnk.regWaits ++ [w] } }
              mbxRun (journalCommit s) p slot 0x0302 (.slot k) true 0 0

/-- BLACK_CAL (R389, R393): the result has WIDTH values for each gain. (DEDUCED, log 37) -/
def execBlackCal (p : Party) (slot : Fin 32) (buf : HostBuf) (s : State) : Host.Outcome State Fault Refusal :=
  inCore s fun s => serve s p slot 0x0903 fun s req =>
    let capped := (byteAt req 0x11).toNat
    let want := leAt req 0x12 2
    match idx8 (byteAt req 0x10).toNat with
    | none => mbxBadField s p slot 0x10
    | some n =>
      let bytes := 2 * regField s (ingReg n 0) 15 0 * (if regBit s (ingReg n 4) 2 then 2 else 1)
      if ¬ unmasked s n then mbxReply s p slot stNotReady 0 0 0
      else if inTake s n ∨ (capped = 0 ∧ ¬ allowDisrupt req) then mbxReply s p slot stInService 0 0 0
      else mbxRoom s p slot 0x20 (descAt req 0x20) buf bytes fun s segs =>
        let c : BlackCal := { party := p, mslot := slot, slot := n, want := want, used := 0, sums := [], segs := segs }
        mbxRun { s with mbx := { s.mbx with calib := s.mbx.calib ++ [c] } } p slot 0x0903 (.slot n) true 0 0

/-! ### Lanes (R111, R112, R389) -/

/-- LANE_TEST: the mode is set for a duration. (DEDUCED, log 23) -/
def execLaneTest (p : Party) (slot : Fin 32) (s : State) : Host.Outcome State Fault Refusal :=
  inCore s fun s => serve s p slot 0x0901 fun s req =>
    let mode := (byteAt req 0x11).toNat
    let pat := (byteAt req 0x12).toNat
    let ms := leAt req 0x14 4
    match idx32 (byteAt req 0x10).toNat with
    | none => mbxBadField s p slot 0x10
    | some j =>
      let v := packFields [(31, 1), (28, mode), (26, pat)]
      if testRefused s j v mode then mbxBadField s p slot 0x11
      else if (laneAssigned s j).isSome ∧ ¬ allowDisrupt req then mbxReply s p slot stInService 0 0 0
      else mbxRun (journalCommit (setTestMode s j v mode)) p slot 0x0901 (.lane j) true j (s.now + 1000000 * ms)

/-- A lane test ends: mode 0, and the counts to the request, when its slot still waits for them. -/
def finishLaneTest (s : State) (j : Fin 32) (r : RunReq) : State :=
  let err := (regGet s (laneReg j 0x1C)).toNat
  let mbits := (regGet s (laneReg j 0x20)).toNat
  let locked := s.lnk.lanes[j].prbs.locked
  let s := endTest s j (regField s (laneReg j 4) 27 26)
  if r.slot < mbxSlots r.party then mbxReply s r.party r.slot stSuccess (if locked then 1 else 0) err mbits
  else { s with mbx := { s.mbx with running := s.mbx.running.filter fun x => decide (x ≠ r) } }

/-- The duration of a lane's test has passed. -/
def execLaneTestDuration (j : Fin 32) (s : State) : Host.Outcome State Fault Refusal :=
  inCore s fun s =>
    match s.mbx.running.find? fun r => decide (r.target = .lane j.val) with
    | some r => if s.now ≥ r.b then finishLaneTest s j r else s
    | none => s

/-! ### Ports and senders -/

/-- EDP_AUX (R299, R389): what the sink answers, none for a NACK or a timeout after seven retries, and whether a write changes its link state,
are operands. (DEDUCED, log 32) -/
def execEdpAux (p : Party) (slot : Fin 32) (ack : Option (List Byte)) (relinks : Bool) (s : State) : Host.Outcome State Fault Refusal :=
  inCore s fun s => serve s p slot 0x0701 fun s req =>
    let wr := (byteAt req 0x11).getLsbD 0
    let addr := leAt req 0x14 4
    let n := (byteAt req 0x18).toNat
    match (List.finRange 2).find? fun (k : Fin 2) => decide (k.val = (byteAt req 0x10).toNat) with
    | none => mbxBadField s p slot 0x10
    | some k =>
      let x := s.dsp.ports[k]
      if wr ∧ (x.st = 1 ∨ x.st = 2 ∨ x.st = 3) ∧ ¬ allowDisrupt req then mbxReply s p slot stInService 0 0 0
      else if ¬ x.hpd then mbxReply s p slot stNotReady 0 0 0
      else
        let s := emit s (.aux k wr addr (if wr then (req.drop 0x20).take n else []))
        match ack with
        | none => mbxReply s p slot stNotReady 0 0 0
        | some l =>
          if wr then
            let s := journalCommit s
            let s := if relinks ∧ (x.st = 1 ∨ x.st = 2 ∨ x.st = 3) then setEdp s k { x with st := 1, unchanged := 0, wake := 0 } else s
            mbxReply s p slot stSuccess 0 0 0
          else mbxDone s p slot stSuccess 0 0 0 (padTo n l)

/-- SDP_GET (R307): the spec gives the text no form of its own, so it is free. -/
def execSdpGet (p : Party) (slot : Fin 32) (buf : HostBuf) (s : State) : Host.Outcome State Fault Refusal :=
  inCore s fun s => serve s p slot 0x0801 fun s req =>
    let i := (byteAt req 0x10).toNat
    if ¬ ((s.net.snds.toList[i]?).any fun x => bit (rmGet x.cfg (0x141000 + 0x80 * i)) 31) then mbxReply s p slot stNotReady 0 0 0
    else
      let (n, s) := freeNat s
      let (l, s) := freeBytes s n
      mbxSend s p slot (descAt req 0x20) buf l fun s => mbxReply s p slot stSuccess 0 n 0

/-! ### Memory (R389, R449) -/

/-- Whether any byte of a range is allocated. Below the surface partition everything is; within it the spec gives handles no addresses, so
only what their sizes decide is decided, and the rest is free. -/
def rangeTaken (s : State) (start len : Nat) : Bool × State :=
  if len = 0 then (false, s)
  else if start < usableBytes s - surfBytes s then (true, s)
  else if handleBytes s = 0 then (false, s)
  else if len > surfBytes s - handleBytes s then (true, s)
  else freeBool s

/-- MEM_TEST: the words that failed, and the first of them, as the test found them. (DEDUCED, log 37) -/
def execMemTest (p : Party) (slot : Fin 32) (failed first : Nat) (s : State) : Host.Outcome State Fault Refusal :=
  inCore s fun s => serve s p slot 0x0902 fun s req =>
    let start := leAt req 0x10 8
    let len := leAt req 0x18 8
    if start > usableBytes s then mbxBadField s p slot 0x10
    else if start + len > usableBytes s then mbxBadField s p slot 0x18
    else
      let (taken, s) := rangeTaken s start len
      if taken ∧ ¬ allowDisrupt req then mbxReply s p slot stInService 0 0 0
      else
        let mem := { s.mem with poison := s.mem.poison.filter fun g => !(decide (start ≤ 64 * g) && decide (64 * g < start + len)) }
        let s := if taken then s else { s with mem := mem }
        if failed = 0 then
          let (w, s) := freeWord s
          mbxReply s p slot stSuccess 0 0 w.toNat
        else mbxReply s p slot stSuccess 0 (failed % 2 ^ 32) (first % 2 ^ 32)

/-! ### Logs (R252, R394) -/

/-- LOG_GET page 0x01: the oldest error records leave the queue. -/
def logErrors (s : State) (p : Party) (slot : Nat) (d : Desc) (buf : HostBuf) (count_ : Nat) : State :=
  let n := min count_ s.flt.queue.length
  let (next, s) := freeWord s
  mbxSend s p slot d buf ((s.flt.queue.take n).flatMap errBytes) fun s =>
    let s := queueFell { s with flt := { s.flt with queue := s.flt.queue.drop n } }
    mbxReply (journalCommit s) p slot stSuccess 0 n next.toNat

/-- LOG_GET page 0x02: entries of the persistent log by LOG_SEQ, from the oldest retained one at the earliest (R461). -/
def logEvents (s : State) (p : Party) (slot : Nat) (d : Desc) (buf : HostBuf) (first count_ : Nat) : State :=
  let at_ := max first (oldestLog s)
  let l := (s.mgt.log.filter fun e => decide (at_ ≤ e.seq)).take count_
  let next := match l.getLast? with
    | some e => e.seq + 1
    | none => at_
  mbxSend s p slot d buf (l.flatMap LogEnt.bytes) fun s => mbxReply s p slot stSuccess 0 l.length next

/-- CLEAR_DEFERRED up to an entry: those entries leave the list of a volume that can be written. (DEDUCED, log 37) -/
def clearDeferred (s : State) (upTo : Nat) : State :=
  if s.mag.st = .mounted then
    modVol s fun v => { v with defs := v.defs.filter fun d => decide (d.seq > upTo), records := v.records ++ [clearRec upTo] }
  else s

/-- LOG_GET page 0x21 (R252): a head, and entries of the deferred-error list from an index of the list on. (DEDUCED, log 37) -/
def logDeferred (s : State) (p : Party) (slot : Nat) (d : Desc) (buf : HostBuf) (first count_ : Nat) (clear : Bool) : State :=
  let defs := (s.mag.vol.map (·.defs)).getD []
  let l := (defs.drop first).take (min count_ 1024)
  let total := min ((s.mag.vol.map (·.attachments)).getD 0) 0xFFFFFFFF
  let head : List Byte := [0x21, 0x01] ++ leBytes 2 l.length ++ leBytes 4 total ++ zeros 8
  mbxSend s p slot d buf (head ++ l.flatMap defBytes) fun s =>
    let s := match l.getLast?, clear with
      | some e, true => journalCommit (clearDeferred s e.seq)
      | _, _ => s
    mbxReply s p slot stSuccess 0 l.length (first + l.length)

/-- A VF reads page 0x21 for a volume that one of its queues is bound to (R394). -/
def boundVf (s : State) (p : Party) : Bool := match p with
  | .vf _ => s.hq.queues.any fun x => decide (x.2.owner = p) && x.2.bindMag
  | _ => true

/-- LOG_GET (R394). (DEDUCED, log 37) -/
def execLogGet (p : Party) (slot : Fin 32) (buf : HostBuf) (s : State) : Host.Outcome State Fault Refusal :=
  inCore s fun s => serve s p slot 0x0A01 fun s req =>
    let page := (byteAt req 0x10).toNat
    let first := leAt req 0x14 4
    let n := leAt req 0x18 4
    let d := descAt req 0x20
    if ¬ boundVf s p then mbxBadField s p slot 0x10
    else if page = 1 then logErrors s p slot d buf n
    else if page = 2 then logEvents s p slot d buf first n
    else logDeferred s p slot d buf first n ((byteAt req 0x11).getLsbD 0)

end Sys2Proof.Machine
end

