-- ==== Sys2Proof/Machine/Mgt.lean ====
section
/-! DEFINITION. The management family (R418, R462 to R470): the log, the side-band ports, MCTP and PLDM, the data window, and Colophon's
own restart. The bytes of MCTP and PLDM bodies are those of DSP0236, DSP0240 and DSP0248 (notes/assumptions/15.md). -/

namespace Sys2Proof.Machine
open Sys2Proof

/-- A second of Colophon time ends (R418). -/
def execLogSecond (s : State) : Host.Outcome State Fault Refusal :=
  inCol s fun s => if aonDue s s.mgt.secondAt 1000000000 then logSecond s else s

/-! ### The register protocol of the side-band ports (R463) -/

/-- The party and window of a side-band port. -/
def sideParty (i3c : Bool) : Party := if i3c then .i3c else .smbus

/-- A side-band transaction takes effect: its PEC is good (R462), and an I3C target has its dynamic address. -/
def sideOk (s : State) (i3c good : Bool) : Bool := good && (!i3c || s.mgt.i3cAddr.isSome)

/-- An access of a side-band port to an offset that is not aligned is without effect, reads zero, and is counted while the SYS block has
power (R6). -/
def sideBad (s : State) : State := if s.live then badAccess s else s

/-- A write of a register of the THM block or of the port's copy of the MGT window. The latch cannot be cleared (R459), and a write to a
forme-staged register is counted (R9). -/
def sideWrite (s : State) (p : Party) (blk off : Nat) (v : Word) : State :=
  let w := winOf p
  if blk = 0x1C then
    if off = 0 then dwCmd s w v
    else if off = 4 then modWin s w fun x => { x with arg := v }
    else if off = 8 then dwWrite s w v
    else if off = 0x40 then regSet s (mgtReg 0x40) (regGet s (mgtReg 0x40) &&& ~~~v)
    else s
  else if blk = 0x1B then
    if off = 0x40 then regSet s (thmReg 0x40) (regGet s (thmReg 0x40) &&& ~~~v)
    else if 0x300 ≤ off ∧ off < 0x338 ∧ off % 4 = 0 then regSet s (thmReg off) v
    else if s.live ∧ isFs (thmReg off) then count s 0x20014
    else s
  else s

/-- A register of the THM block that a read clears: Ti_MAX and Vm_MAX. -/
def thmReadClears (off : Nat) : Bool :=
  off % 8 = 4 && ((decide (0x100 ≤ off) && decide (off < 0x1E0)) || (decide (0x200 ≤ off) && decide (off < 0x270)))

/-- A read of a register of the THM block or of a copy of the MGT window (Tables THM-7, MGT-1). -/
def mgtRead (s : State) (w : Fin 3) (blk off meanwhile : Nat) : Word × State :=
  let x := s.mgt.wins[w]
  if blk = 0x1C then
    if off = 4 then (x.arg, s)
    else if off = 8 then dwRead s w
    else if off = 0xC then (dwStatus x, s)
    else if off = 0x10 then (slotsWord s, s)
    else if off = 0x14 then (BitVec.ofNat 32 s.mgt.logSeq, s)
    else if off = 0x18 then (BitVec.ofNat 32 x.refused, modWin s w fun x => { x with refused := min meanwhile 0xFFFFFFFF })
    else if off = 0x40 then (regGet s (mgtReg 0x40), s)
    else (0, s)
  else if blk = 0x1B ∧ off < 0x10000 then
    if off = 0 then (thmState s, s)
    else
      let v := regGet s (thmReg off)
      (v, if thmReadClears off then regSet s (thmReg off) (resetOf (thmReg off)) else s)
  else (0, s)

/-- Block Write, command 0x20 (R463). -/
def execSidebandWrite (i3c good : Bool) (blk : Byte) (off : BitVec 16) (v : Word) (s : State) : Host.Outcome State Fault Refusal :=
  inCol s fun s => 
    if ¬ sideOk s i3c good then s
    else if off.toNat % 4 = 0 then sideWrite s (sideParty i3c) blk.toNat off.toNat v else sideBad s

/-- Block Write, command 0x21 (R463). -/
def execSidebandReadAddress (i3c good : Bool) (blk : Byte) (off : BitVec 16) (s : State) : Host.Outcome State Fault Refusal :=
  inCol s fun s =>
    if sideOk s i3c good then modWin s (winOf (sideParty i3c)) fun x => { x with readAt := some (blk.toNat, off.toNat) } else s

/-- Block Read, command 0x22 (R463). -/
def execSidebandRead (i3c good : Bool) (s : State) : Host.Outcome State Fault Refusal :=
  inCol s fun s =>
    if ¬ sideOk s i3c good then s
    else
      let p := sideParty i3c
      match (s.mgt.wins[winOf p]).readAt with
      | none => s
      | some (blk, off) =>
        let (v, s) := if off % 4 = 0 then mgtRead s (winOf p) blk off 0 else (0, sideBad s)
        emit s (.sideband p (leBytes 4 v.toNat))

/-- The I3C target takes its dynamic address (R462). -/
def execEntdaa (addr : BitVec 7) (s : State) : Host.Outcome State Fault Refusal :=
  inAon s fun s => modMgt s fun m => { m with i3cAddr := some addr.toNat }

/-! ### MCTP and PLDM (R464) -/

def mctpParty (pcie : Bool) : Party := if pcie then .pf else .smbus

/-- A message body answered on a path; a transaction with a bad PEC, and one on a path that is down, is discarded (R462). (PRESUMED, log 15) -/
def onMctp (s : State) (pcie good : Bool) (f : State → State × List Byte) : State :=
  if good ∧ mctpPath s pcie then
    let (s, l) := f s
    emit s (.sideband (mctpParty pcie) l)
  else s

/-- Set Endpoint ID. The IDs 0 and 0xFF are no endpoint's. -/
def execSetEndpointId (pcie good : Bool) (eid : Byte) (s : State) : Host.Outcome State Fault Refusal :=
  inCol s fun s => onMctp s pcie good fun s =>
    if eid = 0 ∨ eid = 0xFF then (s, [0x02, 0, BitVec.ofNat 8 s.mgt.eid, 0])
    else (modMgt s fun m => { m with eid := eid.toNat }, [0, 0, eid, 0])

/-- Get Endpoint ID. -/
def execGetEndpointId (pcie good : Bool) (s : State) : Host.Outcome State Fault Refusal :=
  inCol s fun s => onMctp s pcie good fun s => (s, [0, BitVec.ofNat 8 s.mgt.eid, 0, 0])

/-- Get MCTP Version Support of a message type; the version numbers are free values. (PRESUMED, log 15) -/
def execGetMctpVersionSupport (pcie good : Bool) (ty : Byte) (s : State) : Host.Outcome State Fault Refusal :=
  inCol s fun s => onMctp s pcie good fun s =>
    if ty = 0 ∨ ty = 1 ∨ ty = 0xFF then
      let (l, s) := freeBytes s 4
      (s, [0, 1] ++ l)
    else (s, [0x80])

/-- Get Message Type Support: control and PLDM. -/
def execGetMessageTypeSupport (pcie good : Bool) (s : State) : Host.Outcome State Fault Refusal :=
  inCol s fun s => onMctp s pcie good fun s => (s, [0, 2, 0, 1])

/-- SetEventReceiver: the receiver's address on the path that the message came by, or none. -/
def execSetEventReceiver (pcie good : Bool) (addr : Option (List Byte)) (s : State) : Host.Outcome State Fault Refusal :=
  inCol s fun s => onMctp s pcie good fun s =>
    (modMgt s fun m => { m with receiver := addr.map fun a => (mctpParty pcie, a) }, [0])

/-- A PLDM numeric sensor's reading, or its warning and fatal thresholds: sensors 1 to 28 are temperature sensors 0 to 27, and 29 to 42
monitors 0 to 13. -/
def pldmSensor (s : State) (id : Nat) (thresholds : Bool) : List Byte :=
  if 1 ≤ id ∧ id ≤ 28 then
    if thresholds then [0] ++ leBytes 2 (100 * 16) ++ leBytes 2 (125 * 16)
    else [0] ++ leBytes 2 (regField s (thmReg (0x100 + 8 * (id - 1))) 15 0)
  else if 29 ≤ id ∧ id ≤ 42 ∧ thresholds = false then [0] ++ leBytes 2 (regField s (thmReg (0x200 + 8 * (id - 29))) 15 0)
  else [0x80]

/-- A PLDM monitoring request. (PRESUMED, log 15) -/
def execPldmPlatformMonitoring (pcie good : Bool) (id : Nat) (thresholds : Bool) (s : State) : Host.Outcome State Fault Refusal :=
  inCol s fun s => onMctp s pcie good fun s => (s, pldmSensor s id thresholds)

/-- A part of a PLDM firmware update (R464, R465): refused with RETRY_REQUEST while a window transfer is open; checked when the last part has
come. It is served on SMBus by the boot code too, when both Colophon slots have failed (R476). (PRESUMED, log 15) -/
def pldmUpdate (s : State) (comp : Nat) (part : List Byte) (last : Bool) : State × List Byte :=
  if s.mgt.wins.toList.any (fun w => decide (w.op = 2)) then (s, [0x8A])
  else
    let sofar := match s.mgt.pldm with
      | some (c, l) => if c = comp then l else []
      | none => []
    let l := sofar ++ part
    if last then
      let (s, ok) := takeImage (modMgt s fun m => { m with pldm := none }) comp l
      (s, [if ok then 0 else 1])
    else (modMgt s fun m => { m with pldm := some (comp, l) }, [0])

def execPldmFirmwareUpdate (pcie good : Bool) (comp : BitVec 16) (part : List Byte) (last : Bool) (s : State) :
    Host.Outcome State Fault Refusal :=
  inAon s fun s =>
    let s := endRestart s
    if colServes s ∨ (s.mgt.dead ∧ pcie = false) then onMctp s pcie good fun s => pldmUpdate s comp.toNat part last else s

/-! ### The PF's data window (R465) -/

/-- A write of MGT.DW_CMD by a party that reaches the window with the operation of this row. -/
def dwRow (s : State) (p : Party) (v : Word) (op : Nat) (f : State → State) : State :=
  if ¬ bit v 31 ∨ field v 27 24 ≠ op then s
  else match p with
  | .smbus => f s
  | .i3c => if s.mgt.i3cAddr.isSome then f s else s
  | p => if s.live then writeBy s p (mgtReg 0) f else s

/-- READ_LOG: GO with OP 1. -/
def execReadLog (p : Party) (v : Word) (s : State) : Host.Outcome State Fault Refusal :=
  inCol s fun s => dwRow s p v 1 fun s => dwCmd s (winOf p) v

/-- WRITE_IMAGE: GO with OP 2. -/
def execWriteImage (p : Party) (v : Word) (s : State) : Host.Outcome State Fault Refusal :=
  inCol s fun s => dwRow s p v 2 fun s => dwCmd s (winOf p) v

/-- FINISH: GO with OP 3. -/
def execFinish (p : Party) (v : Word) (s : State) : Host.Outcome State Fault Refusal :=
  inCol s fun s => dwRow s p v 3 fun s => dwCmd s (winOf p) v

/-- ABORT: GO with OP 4. -/
def execAbort (p : Party) (v : Word) (s : State) : Host.Outcome State Fault Refusal :=
  inCol s fun s => dwRow s p v 4 fun s => dwCmd s (winOf p) v

/-- An access to MGT.DW_DATA: a write of `v`, or a read. -/
def execDwData (p : Party) (v : Option Word) (s : State) : Host.Outcome State Fault Refusal :=
  inCol s fun s =>
    match v with
    | some x => dwRow s p (packFields [(31, 1)]) 0 fun s => dwWrite s (winOf p) x
    | none =>
      let (x, t) := dwRead s (winOf p)
      match p with
      | .vf _ => s
      | .smbus => emit t (.readData p (mgtReg 8) x)
      | .i3c => if s.mgt.i3cAddr.isSome then emit t (.readData p (mgtReg 8) x) else s
      | _ => if s.live then emit t (.readData p (mgtReg 8) x) else s

/-! ### Colophon's own images and restarts (R468, R470) -/

/-- The end of the 5 s in which an image on trial reports healthy: it has reported in them, or it has not (R468). (DEDUCED, log 40) -/
def execHealthTimeout (fjarera healthy : Bool) (s : State) : Host.Outcome State Fault Refusal :=
  inAon s fun s =>
    let comp := if fjarera then 2 else 1
    match s.mgt.health.toList.getD (comp - 1) none with
    | none => s
    | some t =>
      if healthy then imageHealthy s comp else if aonDue s t 5000000000 then imageUnhealthy s comp else s

/-- A watchdog timeout or a trap restarts the processor (R470). -/
def execWatchdog (trap : Bool) (s : State) : Host.Outcome State Fault Refusal :=
  inCol s fun s => startRestart s (if trap then 2 else 0)

end Sys2Proof.Machine
end

