-- ==== Sys2Proof/Machine/Control.lean ====
section
/-! DEFINITION. Firmware and the control complex: FW_DOWNLOAD, FW_ACTIVATE, DRILL, THM_ACK, PLDM activation, and the drain that an activation
or a drill makes (R374, R387, R429, R430, R459, R467, R468). -/

namespace Sys2Proof.Machine
open Sys2Proof

/-! ### The drain (R374, R387) -/

/-- A request that waits only on hardware completes with SUCCESS and its results so far. -/
def settleWait (s : State) (r : RunReq) : State :=
  let reply := fun (s : State) (a b : Nat) => mbxReply s r.party r.slot stSuccess 0 a b
  let mine := fun (e : Party × Nat) => decide (e ≠ (r.party, r.slot))
  match r.op, r.target with
  | 0x0901, .lane j => match idx32 j with
    | some j => finishLaneTest s j r
    | none => s
  | 0x0903, _ => match s.mbx.calib.find? fun c => decide (c.party = r.party) && decide (c.mslot = r.slot) with
    | some c => endCal s c
    | none => s
  | 0x0302, _ =>
    reply { s with lnk := { s.lnk with
      regWaits := s.lnk.regWaits.filter fun w => !(decide (w.party = r.party) && decide (w.mslot = r.slot)) } } 0 0
  | 0x0502, _ =>
    let t := s.mag.vol.bind fun v => v.takes.find? fun x => decide (x.ident = r.a)
    let gaps := (t.map takeGaps).getD 0
    let s := modMag s fun m => { m with stopping := m.stopping.filter fun x => decide ((x.2.1, x.2.2) ≠ (r.party, r.slot)) }
    reply s ((t.map (·.index.length)).getD 0 - gaps) gaps
  | 0x0505, _ => reply (modMag s fun m => { m with transition := m.transition.map fun t => (t.1, t.2.filter mine) }) 0 0
  | 0x0506, _ => reply (modMag s fun m => { m with eject := m.eject.map fun e => e.filter mine }) 0 0
  | _, _ => s

/-- Taking and fetching stop; requests that wait on hardware, and pulls that wait, complete at once. -/
def startDrain (s : State) (d : Drain) : State :=
  let s := { s with mbx := { s.mbx with drain := some d } }
  let s := (s.mbx.running.filter (·.onHardware)).foldl settleWait s
  (findCmds s fun _ c => (decide (c.op = 0x20) || decide (c.op = 0x21)) && c.waiting && !c.finished && !c.aborted).foldl
    (fun s p => completeSt s p.1 p.2 stSuccess) s

/-- Every other running request is DONE, and every fetched command has completed. -/
def drained (s : State) (d : Drain) : Bool :=
  s.mbx.running.all (fun r => (decide (r.party = d.party) && decide (r.slot = d.slot)) || decide (r.op = 0))
    && decide (findCmds s (fun _ c => !c.finished) = [])

/-- The drain is over: requests are taken again. -/
def endDrain (s : State) : State := { s with mbx := { s.mbx with drain := none } }

/-- The image that an activation would start: the inactive Fjarera slot, when it is valid. -/
def standbySlot (s : State) : Option Nat :=
  let k := 1 - activeSlot s 2
  if (slotAt s 2 k).valid then some k else none

/-- The switch-over of an activation (R430): the inactive image runs. -/
def activateSwitch (s : State) (b : Standby) : State × Bool :=
  let (s, ok) := plannedSwitch s b
  (if ok then activateSlot s 2 (1 - activeSlot s 2) else s, ok)

/-- A drain that no mailbox request made: that of a PLDM activation. -/
def pldmDrain (d : Drain) : Bool := decide (d.party = .fjarera)

/-- An activation or a drill answers where it still has a slot to answer in. -/
def drainReply (s : State) (d : Drain) (status r0 r1 : Nat) : State :=
  if d.slot < mbxSlots d.party then mbxReply s d.party d.slot status 0 r0 r1 else s

/-- The drain of a request has ended: the gap begins, and with it, or at the next command, the switch-over ends and the request is answered.
(DESIGN CHOICE, log 14) -/
def switchRow (s : State) (d : Drain) (b : Option Standby) : State :=
  if ¬ drained s d ∨ faultGap s then s
  else match b with
  | none => if s.flt.gap.isSome then s else openGap s none 0
  | some b =>
    let (s, ok) := if d.isDrill then plannedSwitch s b else activateSwitch s b
    let gap := (regGet s (fltReg 0x18)).toNat
    let s := endDrain s
    let s := if ok then drainReply (journalCommit s) d stSuccess gap (if d.isDrill then 0 else imgVersion (slotAt s 2 (activeSlot s 2)).image)
      else drainReply s d (if d.isDrill then stFailedSw else stNotReady) 0 0
    sweepInvalid s

/-- FW_ACTIVATE or DRILL: the request is taken and its drain starts; the same command again, once everything has drained, begins the gap or
ends the switch-over (notes/assumptions/14.md). (DESIGN CHOICE, log 14) -/
def drainRow (s : State) (p : Party) (slot op : Nat) (drill : Bool) (b : Option Standby) : State :=
  match s.mbx.drain with
  | some d => if (d.party = p ∧ d.slot = slot ∨ d.slot = 255) ∧ d.isDrill = drill ∧ ¬ pldmDrain d then switchRow s d b else s
  | none => serve s p slot op fun s req =>
    let ms := leAt req 0x10 4
    if ¬ drill ∧ (standbySlot s).isNone then mbxReply s p slot stNotReady 0 0 0
    else
      let d : Drain := { party := p, slot := slot, isDrill := drill, since := s.now, limitMs := ms }
      let s := mbxRun (startDrain s d) p slot op .control true 0 0
      switchRow s d b

/-- FW_ACTIVATE (R374, R387, R430). (DESIGN CHOICE, log 14) -/
def execFwActivate (p : Party) (slot : Fin 32) (b : Option Standby) (s : State) : Host.Outcome State Fault Refusal :=
  inCore s fun s => drainRow s p slot 0x0B02 false b

/-- DRILL (R429, R430). (DESIGN CHOICE, log 14) -/
def execDrill (p : Party) (slot : Fin 32) (b : Option Standby) (s : State) : Host.Outcome State Fault Refusal :=
  inCore s fun s => drainRow s p slot 0x0B03 true b

/-! ### PLDM activation (R464, R468) -/

/-- The image becomes active at the next reset. -/
def markPending (s : State) : State := modSlot s 2 (1 - activeSlot s 2) fun x => { x with pending := true }

/-- A PLDM answer to an activation; the path it came by answers. -/
def pldmAnswer (s : State) (pcie : Bool) (code : Byte) : State := emit s (.sideband (mctpParty pcie) [code])

/-- The FW_ACTIVATE path with DRAIN_MS = 2,000; without control service the image waits for the next reset. -/
def pldmFjarera (s : State) (pcie : Bool) (b : Option Standby) : State :=
  let finish := fun (s : State) (d : Drain) =>
    if ¬ drained s d ∨ faultGap s then s
    else match b with
    | none => if s.flt.gap.isSome then s else openGap s none 0
    | some b =>
      let (s, ok) := activateSwitch s b
      sweepInvalid (if ok then pldmAnswer (endDrain s) pcie 0 else pldmAnswer (markPending (endDrain s)) pcie 1)
  match s.mbx.drain with
  | some d => if pldmDrain d then finish s d else s
  | none =>
    if (standbySlot s).isNone then pldmAnswer s pcie 0x8B
    else if ¬ s.live ∨ ¬ serviceOn s then pldmAnswer (markPending s) pcie 1
    else
      let d : Drain := { party := .fjarera, slot := 0, isDrill := false, since := s.now, limitMs := 2000 }
      finish (startDrain s d) d

/-- ACTIVATE_FIRMWARE (R468): Colophon restarts into the new slot; Fjarera takes the FW_ACTIVATE path. -/
def execActivateFirmware (pcie good : Bool) (comp : BitVec 16) (b : Option Standby) (s : State) : Host.Outcome State Fault Refusal :=
  inCol s fun s =>
    if ¬ good ∨ ¬ mctpPath s pcie then s
    else match comp.toNat with
    | 1 =>
      let k := 1 - activeSlot s 1
      if (slotAt s 1 k).valid then startRestart (activateSlot (pldmAnswer s pcie 0) 1 k) 1 else pldmAnswer s pcie 0x8B
    | 2 => pldmFjarera s pcie b
    | _ => pldmAnswer s pcie 0x8B

/-- A drain that has not finished within DRAIN_MS: NOT_READY, and nothing is switched (R374, R387). -/
def execDrainTimeout (s : State) : Host.Outcome State Fault Refusal :=
  inCore s fun s => match s.mbx.drain with
    | none => s
    | some d =>
      if s.now < d.since + 1000000 * d.limitMs ∨ s.flt.gap.isSome then s
      else
        let s := endDrain s
        sweepInvalid (if pldmDrain d then markPending s else mbxReply s d.party d.slot stNotReady 0 0 0)

/-! ### Images and the latch -/

/-- FW_DOWNLOAD (R465, R467): a Fjarera image into the inactive slot. (DEDUCED, log 37) -/
def execFwDownload (p : Party) (slot : Fin 32) (buf : HostBuf) (s : State) : Host.Outcome State Fault Refusal :=
  inCore s fun s => serve s p slot 0x0B01 fun s req =>
    mbxFetch s p slot (descAt req 0x20) buf none fun s l =>
      if l.length > 33554432 ∨ transferOpen s then mbxReply s p slot stExhausted 0 0 0
      else
        let (s, ok) := takeImage s 2 l
        if ok then mbxReply (journalCommit s) p slot stSuccess 0 (imgVersion l) 0 else mbxBadField s p slot 0x20

/-- THM_ACK (R459): VALID of the latch is cleared. -/
def execThmAck (p : Party) (slot : Fin 32) (s : State) : Host.Outcome State Fault Refusal :=
  inCore s fun s => serve s p slot 0x0B04 fun s _ =>
    let w := regGet s (thmReg 4)
    if ¬ bit w 31 then mbxReply s p slot stNotReady 0 0 0
    else
      let s := regSet s (thmReg 4) (clrBit w 31)
      let s := addLog s 0x04 (leBytes 4 w.toNat ++ [BitVec.ofNat 8 (partyNo p)])
      mbxReply (journalCommit s) p slot stSuccess 0 w.toNat 0

end Sys2Proof.Machine
end

