-- ==== Sys2Proof/Machine/Flt.lean ====
section
/-! DEFINITION. The fault family (chapter 18): faults of control cores, self-tests, checkpoints, and FLT.THRESH. -/

namespace Sys2Proof.Machine
open Sys2Proof

/-- A write of FLT.THRESH: RECORDS is raised when the queued count comes to the new threshold from below the old one (R431). -/
def execThreshWrite (p : Party) (v : Word) (s : State) : Host.Outcome State Fault Refusal :=
  inCore s fun s => writeBy s p (fltReg 0x10) fun s =>
    let below := decide (s.flt.queue.length < recThresh s)
    let s := regSet s (fltReg 0x10) v
    if below ∧ recThresh s ≤ s.flt.queue.length then raise s .flt 0 else s

/-- A core fault by error or trap (R424). -/
def execControlCoreFault (k : Fin 5) (trap : Bool) (b : Option Standby) (s : State) : Host.Outcome State Fault Refusal :=
  inCore s fun s => coreFault s k (if trap then 0x03 else 0x02) 0 b

/-- FLT.HB_TIMEOUT in µs: values outside 10 to 50 act as 50. -/
def hbTimeout (s : State) : Nat :=
  let t := regField s (fltReg 0x28) 5 0
  if 10 ≤ t ∧ t ≤ 50 then t else 50

/-- A core fault by a missing heartbeat (R424): its instant is the last heartbeat. -/
def execHeartbeatTimeout (k : Fin 5) (b : Option Standby) (s : State) : Host.Outcome State Fault Refusal :=
  inCore s fun s => coreFault s k 0x01 (1000 * hbTimeout s) b

/-- The self-test of a faulted core ends (R427). -/
def execSelfTest (k : Fin 5) (pass : Bool) (s : State) : Host.Outcome State Fault Refusal :=
  inCore s fun s =>
    if s.flt.selfTest ≠ some k.val then s
    else
      let s := { s with flt := { s.flt with selfTest := none } }
      if pass then s else coreFailed s k

/-- A checkpoint falls due by time: 10 ms after the last one, while no slot is unmasked (R425). -/
def checkpointTime (s : State) : Bool :=
  (List.range 8).all (fun n => !unmasked s n) && decide (s.now ≥ s.flt.lastCkpt + 10000000) && s.sys.ready && !interrupted s

/-- The checkpoint being written is complete: its sequence number, and the journal entries that it covers released (R425). One that
falls due by time begins and is complete at once. -/
def execCheckpoint (s : State) : Host.Outcome State Fault Refusal :=
  inCore s fun s =>
    let s := if s.flt.ckpt.isNone ∧ checkpointTime s then beginCheckpoint s else s
    match s.flt.ckpt with
    | none => s
    | some j =>
      let s := regSet s (fltReg 0x2C) (regGet s (fltReg 0x2C) + 1)
      { s with flt := { s.flt with journal := s.flt.journal - j, ckpt := none } }

/-- More than 86,400,000 ms have passed since the last successful switch-over (R428). -/
def execDrillOverdue (s : State) : Host.Outcome State Fault Refusal :=
  inCore s fun s =>
    if s.flt.overdueRaised ∨ s.now ≤ s.flt.lastSwitch + 86400000 * 1000000 then s
    else fltEvent { s with flt := { s.flt with overdueRaised := true } } 6 .info ctxNone

end Sys2Proof.Machine
end

