-- ==== Sys2Proof/Machine/Frt.lean ====
section
/-! DEFINITION. The commands of the FRT block: frets that come due, each action, the end of an output pulse and the time-stamp FIFO (R54 to
R62, R494). -/

namespace Sys2Proof.Machine
open Sys2Proof

/-- A phase fret, or an angle fret at its mains crossing, fires when its turn has come (R57). -/
def fireDue (s : State) (n : Fin 8) (k : Nat) (ok : Fret → Bool) : State :=
  match fretAt (s.ref.slots[n]).cfg n k with
  | some e => if ok e ∧ fretTurn s n e then fire s n e else s
  | none => s

/-- Entry `k`, when its action is `a`, fires as it comes due. -/
def fireAction (s : State) (n : Fin 8) (k a : Nat) : State := fireDue s n k fun e => decide (e.action = a)

/-- PHASE_FRET_DUE (R56, R57). -/
def execPhaseFretDue (n : Fin 8) (k : Fin 256) (s : State) : Host.Outcome State Fault Refusal :=
  inCore s fun s => fireDue s n k fun e => decide (e.kind = 0)

/-- MAINS_PHASE_FRET (R52, R56). -/
def execMainsPhaseFret (n : Fin 8) (k : Fin 256) (s : State) : Host.Outcome State Fault Refusal :=
  inCore s fun s => fireDue s n k fun e => decide (e.kind = 2)

/-- NOP (Table FRT-2): nothing but that the entry has fired. -/
def execNop (n : Fin 8) (k : Fin 256) (s : State) : Host.Outcome State Fault Refusal := inCore s fun s => fireAction s n k 0

/-- APPLY_FORME (R59, R76, R78). -/
def execApplyForme (n : Fin 8) (k : Fin 256) (s : State) : Host.Outcome State Fault Refusal := inCore s fun s => fireAction s n k 1

/-- SEND_EXPOSURE (R80, R108). -/
def execSendExposure (n : Fin 8) (k : Fin 256) (s : State) : Host.Outcome State Fault Refusal :=
  inCore s fun s => fireAction s n k 2

/-- STATS_OPEN (R153 to R155). -/
def execStatsOpen (n : Fin 8) (k : Fin 256) (s : State) : Host.Outcome State Fault Refusal := inCore s fun s => fireAction s n k 3

/-- STATS_CLOSE (R153 to R155). -/
def execStatsClose (n : Fin 8) (k : Fin 256) (s : State) : Host.Outcome State Fault Refusal := inCore s fun s => fireAction s n k 4

/-- TIMESTAMP (R61). -/
def execTimestamp (n : Fin 8) (k : Fin 256) (s : State) : Host.Outcome State Fault Refusal := inCore s fun s => fireAction s n k 5

/-- MEM_RETRAIN (R437). -/
def execMemRetrain (n : Fin 8) (k : Fin 256) (s : State) : Host.Outcome State Fault Refusal := inCore s fun s => fireAction s n k 6

/-- ENC_START (R266). -/
def execEncStart (n : Fin 8) (k : Fin 256) (s : State) : Host.Outcome State Fault Refusal := inCore s fun s => fireAction s n k 7

/-- RAISE_IRQ (R408). -/
def execRaiseIrq (n : Fin 8) (k : Fin 256) (s : State) : Host.Outcome State Fault Refusal := inCore s fun s => fireAction s n k 8

/-- TEMP_BAND (R60). -/
def execTempBand (n : Fin 8) (k : Fin 256) (s : State) : Host.Outcome State Fault Refusal := inCore s fun s => fireAction s n k 9

/-- EVENT_OUT (R494). -/
def execEventOut (n : Fin 8) (k : Fin 256) (s : State) : Host.Outcome State Fault Refusal := inCore s fun s => fireAction s n k 10

/-- EVENT_OUT_END (R494). -/
def execEventOutEnd (o : Fin 16) (s : State) : Host.Outcome State Fault Refusal :=
  inCore s fun s => match s.ref.pulses[o] with
    | some t =>
      if t ≤ s.now then
        emit { s with ref := { s.ref with pulses := vMod s.ref.pulses o fun _ => none } } (.pin (.eventOut o) false)
      else s
    | none => s

/-- TS_READ (R8, R61): the words are captured for the party and the entry leaves the FIFO. -/
def execTsRead (p : Party) (s : State) : Host.Outcome State Fault Refusal :=
  inCore s fun s =>
    if ¬ mayRead p then s
    else match s.ref.tsFifo with
    | [] => capture s p 0x34100 [0, 0, 0, 0, 0]
    | e :: r =>
      let s := { s with ref := { s.ref with tsFifo := r } }
      capture s p 0x34100 (packFields [(31, 1), (16, e.slot), (0, e.ident)] :: e.ord :: stampWords e.time)

end Sys2Proof.Machine
end

