-- ==== Sys2Proof/Machine/Hev.lean ====
section
/-! DEFINITION. The commands of the encoder cores and of their streams' header sets (R264, R269 to R274). -/

namespace Sys2Proof.Machine
open Sys2Proof

/-! ### Rows -/

/-- A core's state is lost (R420): its current picture is abandoned as in R268, and every stream of the core codes its next picture as an
IRAP. The record has no code in the spec: it is free. -/
def coreLost (s : State) (e : Fin 4) : State :=
  (List.finRange 16).foldl (fun s (k : Fin 16) =>
    let st := s.hev.streams[e][k]
    let s := match st.cur with
      | some p =>
        let (code, s) := freeNat s
        let ctx := ctxFrame p.slot 3 e k p.ord ((p.fr.map (·.tag)).getD 0) 0
        dropPicWith (modEnc s e k EncStream.abandon) e k (p.conf e k) p fun s =>
          record s 0x10 (code % 256) .itemFailed ctx 0
      | none => s
    modEnc s e k fun st => { st with forceIrap := true, group := [] }) s

/-- The row slot of a stream: its picture starts with its first row. -/
def rowSlot (s : State) (e : Fin 4) (k : Fin 16) (ctus : List Nat) (sei hdr : Nat) : State :=
  match rowPic s e k with
  | none => s
  | some p =>
    let s := if p.started then s else startPic s e k p sei hdr
    match (s.hev.streams[e][k]).cur with
    | some p => codeRow s e k p ctus hdr
    | none => s

/-- Streams of a core that have become idle latch their fields (Table FRM-9). (DEDUCED, log 11) -/
def latchIdle (s : State) (e : Fin 4) : State := settleApplied ((List.finRange 16).foldl (fun s k => latchIdleStream s e k) s)

/-- CTU_ROW (R267, R270, R272 to R274, R277 to R280). -/
def execCtuRow (e : Fin 4) (ctus : List Nat) (sei hdr : Nat) (fault : Bool) (s : State) : Host.Outcome State Fault Refusal :=
  inCore s fun s =>
    if fault then coreLost s e
    else match rowStream s e with
      | some k => latchIdle (rowSlot s e k ctus sei hdr) e
      | none => latchIdle s e

/-! ### Rate decisions (R271) -/

/-- The position of the picture that a stream codes next. -/
def EncStream.nextPosition (st : EncStream) (e k : Nat) : Nat :=
  match st.next e k with
  | some p => p.pos
  | none => if (st.conf e k).gop ≠ 3 ∨ st.wantIrap ∨ st.forceIrap then st.nextPos else (st.group.head?).getD (st.anchor + 4)

/-- RATE_DECISION (R271): one decision per picture, made while control service runs and before the picture starts. -/
def execRateDecision (e : Fin 4) (k : Fin 16) (s : State) : Host.Outcome State Fault Refusal :=
  inCore s fun s =>
    let st := s.hev.streams[e][k]
    let next := st.next e k
    let cf := (next.map fun p => p.conf e k).getD (st.conf e k)
    let st := if (next.map (·.anew)).getD st.anew then { st with debt := 0, last := Vector.replicate 4 none } else st
    if ¬ cf.on ∨ cf.rc = 0 ∨ regBit s (encReg e k 0x40) 31 ∨ ¬ s.sys.ready ∨ interrupted s then s
    else
      let (pp, s) := ratePp s cf
      let (qp, target) := rateDecision cf st pp (st.typeAt cf ((next.map (·.first)).getD st.wantIrap) (st.nextPosition e k))
      let s := regSet s (encReg e k 0x44) (BitVec.ofNat 32 (target / 8).floor.toNat)
      regSet s (encReg e k 0x40) (packFields [(31, 1), (0, qp)])

/-! ### Header sets (R264, R390) -/

/-- The core and stream that a request's byte 0x10 names. -/
def reqStream (req : List Byte) : Nat × Nat := ((byteAt req 0x10).toNat % 4, (byteAt req 0x10).toNat / 4 % 16)

/-- STREAM_SEI (R264, R390): length 0 removes the payload. -/
def execStreamSei (p : Party) (slot : Fin 32) (s : State) : Host.Outcome State Fault Refusal :=
  inCore s fun s => serve s p slot 0x0601 fun s req =>
    let ty := (byteAt req 0x11).toNat
    let len := (byteAt req 0x12).toNat
    let (e, k) := reqStream req
    let put := fun (m : SMap (List Byte)) => if len = 0 then mDel m ty else mPut m ty ((req.drop 0x20).take len)
    mbxReply (journalCommit (modEnc s e k fun st => { st with seiNext := put st.seiNext })) p slot stSuccess 0 0 0

/-- STREAM_HEADERS (R390). -/
def execStreamHeaders (p : Party) (slot : Fin 32) (buf : HostBuf) (s : State) : Host.Outcome State Fault Refusal :=
  inCore s fun s => serve s p slot 0x0602 fun s req =>
    let (e, k) := reqStream req
    if ¬ regBit s (encReg e k 0) 31 then mbxReply s p slot stNotReady 0 0 0
    else
      let l := ((s.hev.streams.toList.getD e (Vector.replicate 16 EncStream.reset)).toList.getD k EncStream.reset).headers
      mbxSend s p slot (descAt req 0x20) buf l fun s => mbxReply s p slot stSuccess 0 l.length 0

end Sys2Proof.Machine
end

