-- ==== Sys2Proof/Machine/Jobs.lean ====
section
/-! DEFINITION. The commands of host jobs: submission, admission, and the start and end of a frame (R26, R83, R267, R362 to R366). -/

namespace Sys2Proof.Machine
open Sys2Proof

/-- A job as its descriptor gives it, before admission. -/
def Job.new (desc : List Byte) : Job where
  desc := desc
  admitted := false
  started := 0
  left := 0
  course := none
  raw := []
  cur := none
  recs := []
  pics := []
  corrupt := false
  budget := false

/-- JOB_SUBMIT (R362 to R364): the job holds its handles from here on. (DEDUCED, log 31) -/
def execJobSubmit (q tag : Nat) (buf : HostBuf) (s : State) : Host.Outcome State Fault Refusal :=
  inCore s fun s => asCommand s q tag 0x10 fun s x c =>
    cmdFetch s q tag c buf none fun s desc =>
      let j := Job.new desc
      match j.check s x.owner desc.length with
      | some b => completeField s q tag b.place b.off b.detail
      | none =>
        let hs := j.named.map (·.2)
        modCmd s q tag fun c => { c with job := some j, waiting := true, holds := c.holds ++ hs }

/-- JOB_ADMIT (R365): Fjarera admits a checked job, while control service runs. (DEDUCED, log 31) -/
def execJobAdmit (q tag : Nat) (s : State) : Host.Outcome State Fault Refusal :=
  inCore s fun s => asWaiting s q tag 0x10 fun s _ _ =>
    if s.sys.ready ∧ ¬ interrupted s then modJob s q tag fun j => { j with admitted := true } else s

/-- Another admitted job that was fetched before has not started: admitted jobs start in fetch order (R365). -/
def waitsForEarlier (s : State) (order : Nat) : Bool :=
  decide (findCmds s (fun _ c => decide (c.order < order) && !c.aborted && !c.finished
    && c.job.any fun j => j.admitted && decide (j.started = 0)) ≠ [])

/-- A job's next frame may enter a course: the job is admitted, its previous frame has left, its turn has come, the course is a free one
of the host path that stays on it under the formes a boundary holds, and no sensor frame is still on it (R19, R20, R138, R365). (DEDUCED, log 31) -/
def mayStart (s : State) (j : Job) (order c : Nat) : Bool :=
  j.admitted && decide (j.started = j.left) && decide (j.started < j.frames)
    && !(decide (j.started = 0) && waitsForEarlier s order)
    && decide (courseKind s c = 3) && !hostFrameOn s c && staysOnPath s c && !sensorOn s c

/-- The record of a host-job frame at its start (R23, R26, R83, R365). Fields that mean nothing for it are free. -/
def jobRecord (s : State) (j : Job) (q tag c : Nat) (info : List Byte) : FrameRec × State :=
  let (tg, s) := freeNat s
  let (ptp, s) := freeNat s
  let (tc, s) := freeWord s
  let (tu, s) := freeWord s
  let (rp, s) := freeNat s
  let (ref, s) := freeNat s
  let (ex, s) := freeNat s
  let (per, s) := freeNat s
  let (ph, s) := freeWord s
  ({ hostJob := true, slot := 0, tag := tg % 256, formeId := s.frm.inForce, ord := BitVec.ofNat 32 j.started, ptp := ptp % 2 ^ 96,
     timecode := tc, tcUser := tu, status := 0, linesReceived := j.height, linesExpected := j.height, linesCrc := 0,
     linesDiscarded := 0, ratio := j.ratio, ratioPrev := rp % 65536, trbBytes := 0, courses := 2 ^ c, tempBand := s.thm.band,
     refSource := ref % 256, hostContext := packFields [(18, q), (0, tag)], expNs := ex % 2 ^ 32, periodNs := per % 2 ^ 32,
     phase := ph, metadata := info }, s)

/-- Every stream of a job binds a picture of its frame `f`, which reads its surface's handle while the frame's course writes it (R267, R281): a
CTU_ROW of it says that the row's lines are there. (DEDUCED, log 31) -/
def bindJobPics (s : State) (j : Job) (q tag f : Nat) : State :=
  j.streams.foldl (fun s x =>
    match (List.finRange 4).find? (fun e => decide (e.val = x.1)), (List.finRange 16).find? (fun k => decide (k.val = x.2.1)) with
    | some e, some k =>
      let t := latchStream s e k
      let s := settleIf (decide ((t.hev.streams[e][k]).cfg ≠ (s.hev.streams[e][k]).cfg)) t
      let st := s.hev.streams[e][k]
      let p : EncPic := { blankPic 255 (BitVec.ofNat 32 f) s.hev.bindings s.now st.nextPos with
        job := some (q, tag, f), handle := some (j.handle f x.2.2), ready := true }
      bindPic s e k p
    | _, _ => s) s

/-- HOST_JOB_FRAME_START (R26, R138, R267, R353, R365). (DEDUCED, log 31) -/
def execHostJobFrameStart (q tag : Nat) (c : Fin 4) (raw info : Option (List Byte)) (s : State) : Host.Outcome State Fault Refusal :=
  inCore s fun s => asWaiting s q tag 0x10 fun s _ cmd =>
    match cmd.job with
    | none => s
    | some j =>
      if ¬ mayStart s j cmd.order c then s
      else
        let f := j.started
        let meta_ := if j.fr f 0x18 8 = 0 then some (zeros 128) else info.map (padTo 128)
        match raw, meta_ with
        | some bytes, some m =>
          let (fr, s) := jobRecord s j q tag c m
          let s := modJob s q tag fun j => { j with
            started := f + 1, course := some c.val, raw := padTo (j.height * j.lineBytes) bytes, cur := some fr,
            pics := j.pics ++ j.streams.map fun x => (f, x.1, x.2.1) }
          bindJobPics s j q tag f
        | _, _ => jobDma s q tag

/-- The pictures of a job's frame have its record, and coded ones are emitted (R22). -/
def sealJobPics (s : State) (q tag f : Nat) (fr : FrameRec) : State :=
  forStreams s fun s e k =>
    let put := fun (p : EncPic) => if p.job = some (q, tag, f) then { p with fr := some fr } else p
    let s := modEnc s e k fun st => { st with waiting := st.waiting.map put, cur := st.cur.map put, coded := st.coded.map put }
    emitReady ((s.hev.streams[e][k]).coded.length) s e k

/-- HOST_JOB_FRAME_DONE (R19, R75, R365, R366, R372): the frame's outputs are written, those of an aborted job discarded; the course is free. (DEDUCED, log 31) -/
def execHostJobFrameDone (q tag : Nat) (fault : StageFault) (s : State) : Host.Outcome State Fault Refusal :=
  inCore s fun s => match queueOf s q, cmdOf s q tag with
    | some x, some cmd =>
      match cmd.job with
      | none => s
      | some j => match j.course, j.cur with
        | some c, some fr =>
          let free := fun (s : State) => modJob s q tag fun j => { j with course := none, cur := none, raw := [] }
          if cmd.aborted then releaseHeld (free s)
          else
            let f := j.left
            let (s, fr, bad) := j.process s q tag x.fn c f fault fr
            let corrupt := bad || bit fr.status 5
            let shown : FrameRec := if bad then { fr with status := setBit fr.status 20 } else fr
            let s := modJob (free s) q tag fun j => { j with
              left := f + 1, recs := j.recs ++ [shown], corrupt := j.corrupt || corrupt }
            settleJob (releaseHeld (sealJobPics s q tag f fr)) q tag
        | _, _ => s
    | _, _ => s

end Sys2Proof.Machine
end

