-- ==== Sys2Proof/Machine/Mag.lean ====
section
/-! DEFINITION. The commands of the galley governor and of the quire (R224, R229 to R256). What a die, a pin or the
medium did is an operand. -/

namespace Sys2Proof.Machine
open Sys2Proof

/-! ### The governor -/

/-- GOVERNOR_DECISION (R224 to R226): once per frame boundary of a slot in a take, while control service runs. -/
def execGovernorDecision (n : Fin 8) (s : State) : Host.Outcome State Fault Refusal :=
  inCore s fun s =>
    if s.gal.gov[n].due ∧ ¬ interrupted s then
      let s := modGov s n fun g => { g with due := false }
      if regBit s 0xD0000 31 then governor s n else s
    else s

/-! ### Units (R247) -/

/-- The quire may begin a unit: a volume in MP0 or MP1 that takes writes, and no power-fail condition (R249, R255). -/
def canBegin (s : State) : Bool :=
  (s.mag.st == .mounted || s.mag.st == .ejecting) && !s.mag.blank && decide (s.mag.power ≤ 1) && !s.mag.pwrFail

/-- A checkpoint unit begun (R244). -/
def beginCkpt (s : State) (v : Vol) : State := beginUnit s v { blankUnit 4 with body := ckptBody s v }

/-- A take unit begun from the oldest item that is ready, with the gap entries before it; gap entries alone, or the first 512 of more, make a
journal unit (R223, R243, R247, R250). (DEDUCED, log 28) -/
def beginTake (s : State) (v : Vol) : State :=
  let l := (readyItems s).filter fun i => i.gap || setComplete s i
  let gaps := (l.takeWhile (·.gap)).take 512
  match (l.drop gaps.length).head?.filter fun i => !i.gap with
  | some i => beginTakeUnit s v gaps i
  | none => beginUnit s v { blankUnit 5 with items := gaps.map (·.ident), entries := gapEntries gaps }

/-- What the quire begins next: a checkpoint that is due, take content, host writes when no take unit waits, or a unit of
journal records alone (R244, R247, R356, R359). -/
def beginNext (s : State) (v : Vol) (batch : Nat) : State :=
  let takes := (readyItems s).filter fun i => i.gap || setComplete s i
  let waiting := s.mag.ops.filter fun o => !o.isTrim && o.begun.isNone
  if ckptDue v then beginCkpt s v
  else if takes ≠ [] then beginTake s v
  else if waiting ≠ [] then
    let b := hostBatch (max 1 batch) 262128 waiting
    if b = [] then s else beginHostUnit s v b
  else if v.records ≠ [] ∨ s.mag.ops.any (fun o => o.isTrim && o.begun.isNone) then beginUnit s v (blankUnit 5)
  else s

/-- UNIT_BEGIN (R247, R223, R244, R250). -/
def execUnitBegin (batch : Nat) (s : State) : Host.Outcome State Fault Refusal :=
  inCore s fun s => match s.mag.vol with
    | some v => if canBegin s then beginNext s v batch else s
    | none => s

/-! ### Strips (R238) -/

/-- The unit of a SEQ that is being programmed. -/
def unitOf (s : State) (seq : Nat) : Option MUnit := s.mag.units.find? fun u => decide (u.seq = seq)

/-- A strip of a take unit has been written: it counts in W and in MAG.WRITE_RATE (R224, Table MAG-16). -/
def countStrip (s : State) (u : MUnit) : State :=
  let bytes := 4096 * stripSectors s.mag.planes s.mag.bits
  let s := modMag s fun m => { m with
    rate := ((s.now, bytes) :: m.rate).filter fun p => decide (s.now < p.1 + 250000000) }
  if u.entries ≠ [] ∧ (u.kind = 1 ∨ u.kind = 2) then noteWritten s bytes else s

/-- The strip program of a kind that a die position has in progress for a unit. -/
def runningProg (u : MUnit) (kind : Strip) (die : Nat) : Option Nat :=
  u.progs.findIdx? fun p => decide (p.kind = kind) && decide (p.die = die) && p.issued && !p.done

/-- Program `i` of a unit has succeeded: with the commit-record strip the unit is durable where its last stripe is closed, with the partial parity
otherwise (R238). -/
def stripDone (s : State) (u : MUnit) (i : Nat) (kind : Strip) : State :=
  let u := { u with progs := match u.progs[i]? with
    | some p => u.progs.set i { p with done := true }
    | none => u.progs }
  match kind with
  | .data => issueStrips (setUnit (countStrip s u) u)
  | .parity => issueStrips (setUnit s u)
  | .commit =>
    let s := countStrip s u
    if u.opens then issueStrips (setUnit s { u with commit := true }) else unitDurable s u
  | .partialParity => unitDurable s u

/-- Durable ranges that a failed program or erase has damaged beyond repair (R251). -/
def damageRanges (s : State) (l : List (Nat × Nat)) : State := l.foldl (fun s p => loseRange s 1 p.1 p.2) s

/-- A block of a die position is retired (R238). -/
def retireBlock (s : State) (die : Nat) : State :=
  modMag s fun m => { m with retired := mPut m.retired die ((mGet m.retired die).getD 0 + 1) }

/-- A strip program has failed: counted, its block retired (R238). -/
def progFailed (s : State) (die : Nat) : State := retireBlock (magEvent (count s 0xF0040) 12 0x0D .info (ctxDie die)) die

/-- STRIP_PROGRAMMED (R238, R240, R250, R251). -/
def execStripProgrammed (seq : Nat) (kind : Strip) (ok : Bool) (die : Nat) (damage lost : List (Nat × Nat)) (s : State) :
    Host.Outcome State Fault Refusal :=
  inCore s fun s =>
    if s.mag.stale.contains (seq, kind, die) then
      let s := modMag s fun m => { m with stale := m.stale.erase (seq, kind, die) }
      let s := if ok then s else damageRanges (blockFailed (progFailed s die) die lost) damage
      issueStrips s
    else match unitOf s seq with
    | none => s
    | some u => match runningProg u kind die with
      | none => s
      | some i =>
        if ok then stripDone s u i kind
        else
          let u := { u with progs := u.progs.eraseIdx i }
          damageRanges (blockFailed (rewriteUnit (progFailed s die) u) die lost) damage

/-- BLOCK_ERASE (R240, R249, R251): none starts while a power failure lasts. -/
def execBlockErase (die : Nat) (ok : Bool) (damage lost : List (Nat × Nat)) (s : State) : Host.Outcome State Fault Refusal :=
  inCore s fun s =>
    if s.mag.vol.isNone ∨ s.mag.pwrFail then s
    else
      let s := flashTo s .erase die []
      if ok then s else damageRanges (blockFailed (retireBlock (count s 0xF0044) die) die lost) damage

/-! ### Reads (R239, R254) -/

/-- The levels of a retry: each once, in ascending order from the start level, wrapping round. -/
def retryLevels (start levels : Nat) : List Nat := (List.range levels).map fun i => (start + i) % max 1 levels

/-- SECTOR_READ of a mapped sector whose first read has failed: level number `good` of the retry succeeds, else the
rebuild by parity does when `rebuilt`, else the sector is unrecoverable (R239, R251, R254). -/
def execSectorRead (vsa die levels : Nat) (good : Option Nat) (rebuilt : Bool) (s : State) :
    Host.Outcome State Fault Refusal :=
  inCore s fun s => match s.mag.vol with
    | none => s
    | some v =>
      if ¬ (isMounted s ∨ s.mag.st = .ejecting) ∨ ¬ v.exts.any (fun e => decide (e.vsa ≤ vsa) && decide (vsa < e.vsa + e.n))
      then s
      else
        let start := regField s 0xF0024 (8 * (s.thm.band % 4) + 7) (8 * (s.thm.band % 4))
        let tried := match good with
          | some k => (retryLevels start levels).take (k + 1)
          | none => retryLevels start levels
        let s := tried.foldl (fun s l => flashTo s (.retry l) die []) s
        if good.any (fun k => decide (k < levels)) then count s 0xF0048
        else if rebuilt then
          modVol (count s 0xF004C) fun v => { v with moves := if v.moves.contains vsa then v.moves else v.moves ++ [vsa] }
        else loseRange (count s 0xF0050) 2 vsa 1

/-- DIE_SILENT: a die silent for 100 ms after a RESET (R240). -/
def execDieSilent (die : Nat) (lost : List (Nat × Nat)) (s : State) : Host.Outcome State Fault Refusal :=
  inCore s fun s => failDie s die lost

/-! ### Mount (R234) -/

/-- A power-state request ends: its mailbox slot is answered (R255). -/
def endTransition (s : State) (status : Nat) : State :=
  match s.mag.transition with
  | some (_, w) =>
    let s := modMag s fun m => { m with transition := none }
    match w with
    | some (p, slot) => mbxReply s p slot status 0 0 0
    | none => s
  | none => s

/-- INSERTED (R234 step 1 and, with AUTO_MOUNT, step 2), also of a pack that stayed in with its latch open. The mount waits for readiness (R478). -/
def execInserted (s : State) : Host.Outcome State Fault Refusal :=
  inCore s fun s =>
    if s.mag.st = .empty ∨ (s.mag.st = .off ∧ ¬ s.mag.latch) then
      let s := modMag s fun m => { m with st := .off, present := true, latch := true }
      let s := magEvent s 0 0x01 .info ctxNone
      if regBit s 0xF0000 31 ∧ s.sys.ready then startMount s 0 else s
    else s

/-- VCC_GOOD_TIMEOUT: MAG_VCC_GOOD not high within 50 ms of MAG_VCC_EN (R234 step 2). -/
def execVccGoodTimeout (s : State) : Host.Outcome State Fault Refusal :=
  inCore s fun s =>
    if s.mag.st = .ident ∧ ¬ s.mag.vccGood ∧ s.now ≥ s.mag.vccAt + 50000000 then
      let s := modMag (driveMag s false s.mag.locked) fun m => { m with st := .off }
      endTransition (magEvent s 2 0x03 .degraded ctxNone) stNotReady
    else s

/-- MAG_VCC_GOOD_RISE: the mount goes on with what the dies hold (R232, R234 steps 3 to 5, R248). -/
def execMagVccGoodRise (m : Medium) (s : State) : Host.Outcome State Fault Refusal :=
  inCore s fun s =>
    if s.mag.st = .ident then
      let s := mountMedium (modMag s fun x => { x with vccGood := true }) m
      endTransition s (if s.mag.st = .unusable then stNotReady else stSuccess)
    else s

/-! ### Eject and removal (R235, R236) -/

/-- STATE becomes EJECTING. -/
def requestEject (s : State) (w : Option (Party × Nat)) : State :=
  modMag s fun m => { m with st := .ejecting, eject := some w }

/-- EJECT_BUTTON: held low for 500 ms (R235). -/
def execEjectButton (s : State) : Host.Outcome State Fault Refusal :=
  inCore s fun s =>
    if ¬ regBit s 0xF0000 29 ∨ ¬ isMounted s then s
    else if takeOpen s then magEvent s 4 0x05 .info ctxNone
    else requestEject s none

/-- The checkpoint unit and the clean superblock of an eject, on a volume that takes writes (R235, R242, R244). -/
def finalWrites (s : State) : State :=
  match s.mag.vol with
  | none => s
  | some v =>
    if s.mag.wp ∨ v.superRo then s
    else
      let s := beginCkpt s v
      let s := match s.mag.units.getLast? with
        | some u => unitDurable s u
        | none => s
      writeSuper s true

/-- The mailbox slots that wait for an eject, or for MP3, are answered. -/
def answerEject (s : State) : State :=
  let s := match s.mag.eject with
    | some (some (p, slot)) => mbxReply s p slot stSuccess 0 0 0
    | _ => s
  endTransition s stSuccess

/-- EJECT_UNMOUNT: once every accepted unit is durable (R235). (DEDUCED, log 28) -/
def execEjectUnmount (s : State) : Host.Outcome State Fault Refusal :=
  inCore s fun s =>
    if s.mag.st = .ejecting ∧ allDurable s ∧ ¬ s.mag.pwrFail then
      let s := endMagCommands (finalWrites s) false
      dropVolume (driveMag (answerEject s) false false) .off
    else s

/-- PRESENCE_REMOVED: both presence inputs go high on a magazine that is OFF (R235). -/
def execPresenceRemoved (s : State) : Host.Outcome State Fault Refusal :=
  inCore s fun s =>
    if s.mag.st = .off then modMag s fun m => { m with st := .empty, present := false, latch := false } else s

/-- REMOVED: presence and latch as they are afterwards. A magazine that is not OFF is removed by surprise (R236); of one that is OFF the
inputs are followed, and without presence it is EMPTY (R235). -/
def execRemoved (present latch : Bool) (s : State) : Host.Outcome State Fault Refusal :=
  inCore s fun s =>
    let pins := fun (m : MagBlk) => { m with present := present, latch := latch }
    if s.mag.st = .empty then modMag s fun m => { m with latch := latch }
    else if s.mag.st = .off then
      modMag s fun m => { pins m with st := if present then .off else .empty }
    else modMag (removal s present) pins

/-! ### Power failure (R249) -/

/-- PWR_FAIL: MAG_PWR_FAIL_N falls. -/
def execPwrFail (s : State) : Host.Outcome State Fault Refusal :=
  inCore s fun s => magEvent (modMag s fun m => { m with pwrFail := true }) 5 0x06 .degraded ctxNone

/-- PWR_FAIL_CLEAR: high for 10 ms with MAG_VCC_GOOD high; a thermal shutdown keeps the quire stopped (R457). -/
def execPwrFailClear (s : State) : Host.Outcome State Fault Refusal :=
  inCore s fun s =>
    if s.mag.vccGood ∧ s.thm.shutAt.isNone then issueStrips (modMag s fun m => { m with pwrFail := false }) else s

/-! ### Work beneath the takes (R229, R253, R240) -/

/-- ZQ_CALIBRATION: every 100 ms in MP0 and MP1 (Table MAG-1). -/
def execZqCalibration (s : State) : Host.Outcome State Fault Refusal :=
  inCore s fun s =>
    if diesActive s ∧ s.now ≥ s.mag.lastZq + 100000000 then
      modMag (flashAll s [.zq]) fun m => { m with lastZq := s.now }
    else s

/-- Take content or host writes wait for a unit, or a unit for its programs: the magazine is under load (R253). (DEDUCED, log 28) -/
def underLoad (s : State) : Bool :=
  s.mag.loadFrom.isSome || s.gal.items.any (·.waitsTake) || s.mag.ops.any fun o => !o.isTrim && o.begun.isNone

/-- Time that background operations have taken of a die since the load began: of one activity, and of all. -/
def bgOf (s : State) (die row : Nat) : Nat := (mGet s.mag.bgTime (die * 8 + row)).getD 0
def bgAll (s : State) (die : Nat) : Nat := ((List.range 5).map (bgOf s die)).sum

/-- Under load an activity of Table MAG-11 keeps its share of a die's time, and all of them together 1/16. -/
def shareLeft (s : State) (row die ns : Nat) : Bool :=
  !underLoad s ||
    (let span := s.now - s.mag.loadFrom.getD s.now
     decide ((bgAll s die + ns) * 16 ≤ span) && (decide (row = 4) || decide ((bgOf s die row + ns) * 64 ≤ span)))

/-- A background operation may start on a die: not while the galley fill is at or above LOW, nor in a power failure; on a die with no foreground
strip queued, within its share, and within the limit of MP1 (R249, R253, Table MAG-12). -/
def bgAllowed (s : State) (row die ns : Nat) : Bool :=
  diesActive s && !s.mag.pwrFail && !s.mag.blank && decide (galFill s * 256 < regField s 0xD0008 7 0 * galUnits s)
    && !(s.mag.units.any fun u => u.progs.any fun p => decide (p.die = die) && !p.done) && dieIdle s die && shareLeft s row die ns

/-- A background operation of Table MAG-11 issued to dies, whose time it takes. -/
def background (s : State) (row ns : Nat) (dies : List Nat) : State :=
  dies.foldl (fun s die =>
    let t := bgOf s die row + ns
    modMag (flashTo s (.background row) die []) fun m => { m with bgTime := mPut m.bgTime (die * 8 + row) t }) (count s 0xF005C)

/-- Ranges are relocated on a volume that takes writes (R239, R253). -/
def relocateIf (s : State) (l : List (Nat × Nat)) : State := if canBegin s then relocate s l else s

/-- One activity run on a die when it is triggered. -/
def runActivity (s : State) (row die ns : Nat) (trigger : Bool) (moved : List (Nat × Nat)) : State :=
  if trigger && bgAllowed s row die ns then relocateIf (background s row ns [die]) moved else s

/-- Powered time after which the patrol scrub reads a block again: 168 hours, in ns (Table MAG-11). -/
def patrolSpan : Nat := 604800000000000

/-- Where the patrol scrub of a block is noted. -/
def patrolKey (die block : Nat) : Nat := die * 2 ^ 24 + block

/-- PATROL_SCRUB: of a block not read for 168 hours; what parity has rebuilt is relocated with it (R239, R253). -/
def execPatrolScrub (die block ns : Nat) (moved : List (Nat × Nat)) (s : State) : Host.Outcome State Fault Refusal :=
  inCore s fun s =>
    let key := patrolKey die block
    let now_ := s.now
    let due := (mGet s.mag.patrolled key).all fun t => decide (t + patrolSpan ≤ now_)
    if due && bgAllowed s 0 die ns then
      let s := modMag (background s 0 ns [die]) fun m => { m with patrolled := mPut m.patrolled key now_ }
      let again := ((s.mag.vol.map (·.moves)).getD []).map fun x => (x, 1)
      if canBegin s then modVol (relocate s (moved ++ again)) fun v => { v with moves := [] } else s
    else s

/-- READ_DISTURB_SCRUB: of a block that reached 50,000 reads since its last program (R253). -/
def execReadDisturbScrub (die reads ns : Nat) (moved : List (Nat × Nat)) (s : State) : Host.Outcome State Fault Refusal :=
  inCore s fun s => runActivity s 1 die ns (decide (reads ≥ 50000)) moved

/-- STATIC_WEAR_LEVELLING: of a die whose erase counts spread by more than 500 (R253). -/
def execStaticWearLevelling (die spread ns : Nat) (moved : List (Nat × Nat)) (s : State) : Host.Outcome State Fault Refusal :=
  inCore s fun s => runActivity s 2 die ns (decide (spread > 500)) moved

/-- RECLAMATION: of a die with fewer than 16 free erased blocks (R253). -/
def execReclamation (die free ns : Nat) (moved : List (Nat × Nat)) (s : State) : Host.Outcome State Fault Refusal :=
  inCore s fun s => runActivity s 3 die ns (decide (free < 16)) moved

/-- The die positions of a group that have not failed. -/
def groupRest (v : Vol) (die : Nat) : List Nat :=
  ((List.range 16).map (16 * (die / 16) + ·)).filter fun d => !v.failed.contains d

/-- PARITY_REBUILD: one operation of a rebuild that runs: the next piece of what lies in stripes of the failed die is relocated; once nothing
lies there, and what was relocated is durable, REBUILD_DONE (R240, R253). -/
def execParityRebuild (die ns : Nat) (s : State) : Host.Outcome State Fault Refusal :=
  inCore s fun s => match s.mag.vol with
    | none => s
    | some v =>
      let rest := groupRest v die
      if s.mag.rebuild && v.failed.contains die && rest.all (fun d => bgAllowed s 4 d ns) && canBegin s then
        match onFailed (geoOf s v) v die with
        | p :: _ => relocate (background s 4 ns rest) [p]
        | [] =>
          if rebuildLeft s || s.mag.units != [] then s
          else magEvent (modMag s fun m => { m with rebuild := false }) 13 0x0E .info (ctxDie die)
      else s

/-- POWER_TRANSITION: a requested MP0, MP1 or MP2 is entered, in MP0 and MP1 with the channels at their rate (Table MAG-12); MP2 once every accepted unit is durable. MP3 is entered by
EJECT_UNMOUNT, and a mount enters its state itself (R255). -/
def execPowerTransition (s : State) : Host.Outcome State Fault Refusal :=
  inCore s fun s => match s.mag.transition with
    | some (t, _) =>
      if isMounted s ∧ (t ≤ 1 ∨ (t = 2 ∧ allDurable s)) then
        let s := modMag s fun m => { m with power := t }
        issueStrips (endTransition (if t ≤ 1 then trainDies s else s) stSuccess)
      else s
    | none => s

end Sys2Proof.Machine
end

