-- ==== Sys2Proof/Machine/MagCmds.lean ====
section
/-! DEFINITION. The mailbox commands of the magazine and of takes (R221, R235, R250, R255, R389, R390). -/

namespace Sys2Proof.Machine
open Sys2Proof

/-! ### Takes -/

/-- The thermal latch holds (R459). -/
def thermalLatched (s : State) : Bool := regBit s 0x1B0004 31

/-- Slots of a mask, lowest first. -/
def maskSlots (m : Nat) : List (Fin 8) := (List.finRange 8).filter fun n => m.testBit n

/-- Magazine-bound streams in use. (DEDUCED, log 27) -/
def magStreams (s : State) : Nat :=
  ((List.range 4).map fun e => ((List.range 16).filter fun k => (encCfgNow s e k).on && (encCfgNow s e k).mag).length).sum

/-- A take opened on slots (R221): it takes in every retained frame. -/
def openTake (s : State) (v : Vol) (mask : Nat) (name : List Byte) : State :=
  let t : Take := {
    ident := v.nextTake, state := 0, slots := mask, cause := 0, streams := magStreams s, startNs := 0, startSec := 0, endNs := 0,
    endSec := 0, frames := Vector.replicate 8 0, name := name, timecode := 0, index := [] }
  let s := modVol s fun v => { v with takes := v.takes ++ [t], nextTake := v.nextTake + 1, records := v.records ++ [takeRec t] }
  let slots := maskSlots mask
  let s := modMag s fun m => { m with
    takeSlots := m.takeSlots ++ slots.map fun n => { slot := n.val, take := t.ident, last := none, full := false } }
  let mine := fun (i : GalItem) => i.preRec && slots.any fun n => decide (i.kind = .frame n)
  syncWait (setItems s (s.gal.items.map fun i => if mine i then { i with take := some t.ident } else i))

/-- TAKE_START (R221, R250, R390, R459). (DEDUCED, log 27) -/
def execTakeStart (p : Party) (slot : Fin 32) (s : State) : Host.Outcome State Fault Refusal :=
  inCore s fun s => serve s p slot 0x0501 fun s req =>
    let mask := (byteAt req 0x10).toNat
    let bad := decide (mask = 0) || (maskSlots mask).any fun n => !unmasked s n || !trbOn s.regs n || inTake s n
    if bad then mbxBadField s p slot 0x10
    else if thermalLatched s then mbxReply s p slot stThermal 0 0 0
    else if s.mag.st = .readOnly then mbxReply s p slot stReadOnly 0 0 0
    else match s.mag.vol with
    | none => mbxReply s p slot stNotReady 0 0 0
    | some v =>
      if s.mag.st ≠ .mounted ∨ s.mag.blank ∨ s.mag.power > 1 then mbxReply s p slot stNotReady 0 0 0
      else if freeSectors s * 128 < v.sectors then mbxReply s p slot stExhausted 0 0 0
      else mbxReply (journalCommit (openTake s v mask ((req.drop 0x20).take 32))) p slot stSuccess 0 v.nextTake 0

/-- TAKE_STOP (R390): the last frame of each slot issued before now is the take's last; the answer waits for its units. -/
def execTakeStop (p : Party) (slot : Fin 32) (s : State) : Host.Outcome State Fault Refusal :=
  inCore s fun s => serve s p slot 0x0502 fun s req =>
    let t := leAt req 0x10 4
    let rec_ := (s.mag.vol.bind fun v => v.takes.find? fun x => decide (x.ident = t)).any fun x => decide (x.state = 0)
    if ¬ rec_ ∨ s.mag.stopping.any (fun x => decide (x.1 = t)) then mbxBadField s p slot 0x10
    else
      let s := modMag (journalCommit s) fun m => { m with
        takeSlots := m.takeSlots.map fun x =>
          (if x.take = t ∧ x.last.isNone then { x with last := some (lastIssued s x.slot) } else x)
        stopping := m.stopping ++ [(t, p, slot.val)] }
      settleTakes (mbxRun s p slot 0x0502 .magazine true t 0)

/-- TAKE_INFO (R245, R390). -/
def execTakeInfo (p : Party) (slot : Fin 32) (buf : HostBuf) (s : State) : Host.Outcome State Fault Refusal :=
  inCore s fun s => serve s p slot 0x0503 fun s req =>
    let n := leAt req 0x18 4
    match s.mag.vol.bind fun v => v.takes.find? fun x => decide (x.ident = leAt req 0x10 4) with
    | none => mbxBadField s p slot 0x10
    | some t =>
      let done := fun (s : State) => mbxDone s p slot stSuccess 0 0 0 (takeBytes t)
      if n = 0 then done s
      else mbxSend s p slot (descAt req 0x20) buf (((t.index.drop (leAt req 0x14 4)).take n).flatMap idxBytes) done

/-! ### The volume and its power -/

/-- A fresh volume on the magazine (R241, R242, R245); `ident` is random. -/
def freshVol (s : State) (ident : List Byte) : Vol where
  ident := ident
  superSeq := (s.mag.vol.map (·.superSeq)).getD 0
  sectors := s.mag.total * 15 * 31 / (16 * 32)
  superRo := false
  failed := (s.mag.vol.map (·.failed)).getD []
  formatSec := ptpSec (ptpTime s)
  ckptPos := 0
  ckptSeq := 0
  exts := []
  store := []
  bad := []
  takes := []
  nextTake := 1
  defs := []
  attachments := 0
  nextSeq := 1
  durableSeq := 0
  stripe := 0
  strip := 0
  parity := []
  moves := []
  short := (s.mag.vol.map (·.short)).getD []
  sinceUnits := 0
  sinceBytes := 0
  records := []
  low := false

/-- The volume formatted: a new superblock; what the volume held, and what waited to be written to it, is lost. -/
def formatVolume (s : State) : State :=
  let (ident, s) := freeBytes s 16
  let v := freshVol s ident
  let s := setItems s (s.gal.items.filter fun i => !i.isHost)
  let s := modMag s fun m => { m with
    vol := some v, blank := false, units := [], ops := [], stale := [], loadFrom := none, bgTime := [] }
  settleFlushes (writeSuper s false)

/-- VOLUME_FORMAT (R389, R390). (DEDUCED, log 28) -/
def execVolumeFormat (p : Party) (slot : Fin 32) (s : State) : Host.Outcome State Fault Refusal :=
  inCore s fun s => serve s p slot 0x0504 fun s req =>
    let m := s.mag
    if ¬ (m.st = .mounted ∨ (m.st = .readOnly ∧ m.wp)) ∨ m.power > 1 then mbxReply s p slot stNotReady 0 0 0
    else if takeOpen s ∨ (¬ m.blank ∧ ¬ allowDisrupt req) then mbxReply s p slot stInService 0 0 0
    else
      let s := formatVolume s
      let n := (s.mag.vol.map (·.sectors)).getD 0
      mbxReply (journalCommit s) p slot stSuccess 0 (n % 2 ^ 32) (n / 2 ^ 32)

/-- A request for a power state of a mounted magazine, or one that will be (R255). (DEDUCED, log 28) -/
def requestPower (s : State) (p : Party) (slot t : Nat) (eject : Bool) : State :=
  let s := modMag s fun m => { m with transition := some (t, some (p, slot)) }
  let s := mbxRun (journalCommit s) p slot 0x0505 .magazine true t 0
  if eject then requestEject s none else s

/-- MAG_POWER (R234, R255, R389). (DEDUCED, log 28) -/
def execMagPower (p : Party) (slot : Fin 32) (s : State) : Host.Outcome State Fault Refusal :=
  inCore s fun s => serve s p slot 0x0505 fun s req =>
    let t := (byteAt req 0x10).toNat
    let answer := fun (st : Nat) => mbxReply s p slot st 0 0 0
    match s.mag.st with
    | .empty => answer stNotReady
    | .unusable => answer stNotReady
    | .ejecting => answer stNotReady
    | .off => if t = 3 then answer stSuccess
      else if t = 2 then answer stNotReady
      else startMount (requestPower s p slot t false) t
    | .ident => if t ≥ 2 then answer stNotReady
      else requestPower (modMag s fun m => { m with wanted := t }) p slot t false
    | .mounting => if t ≥ 2 then answer stNotReady else requestPower (modMag s fun m => { m with wanted := t }) p slot t false
    | .mounted => if t = s.mag.power then answer stSuccess
      else if t ≥ 2 ∧ takeOpen s then answer stInService
      else requestPower s p slot t (decide (t = 3))
    | .readOnly => if t = s.mag.power then answer stSuccess
      else if t ≥ 2 ∧ takeOpen s then answer stInService
      else requestPower s p slot t (decide (t = 3))

/-- MAG_EJECT (R235, R389). (DEDUCED, log 28) -/
def execMagEject (p : Party) (slot : Fin 32) (s : State) : Host.Outcome State Fault Refusal :=
  inCore s fun s => serve s p slot 0x0506 fun s _ =>
    if takeOpen s then mbxReply s p slot stInService 0 0 0
    else if ¬ isMounted s then mbxReply s p slot stNotReady 0 0 0
    else requestEject (mbxRun (journalCommit s) p slot 0x0506 .magazine true 0 0) (some (p, slot.val))

end Sys2Proof.Machine
end

