-- ==== Sys2Proof/Machine/MagQueue.lean ====
section
/-! DEFINITION. The magazine opcodes of the host queues (R355 to R360). -/

namespace Sys2Proof.Machine
open Sys2Proof

/-- A magazine opcode that may run (R355): on a bound queue, outside a power transition, on a volume that is served. -/
def onVolume (s : State) (q tag op : Nat) (f : State → Cmd → Vol → State) : State :=
  asCommand s q tag op fun s x c =>
    if ¬ x.bindMag then completeField s q tag 0 0 0
    else if s.mag.transition.isSome then s
    else match s.mag.vol with
    | some v => if magServed s then f s c v else completeSt s q tag stNotReady
    | none => completeSt s q tag stNotReady

/-- The VSA of a command, and a range of sectors beyond the volume. -/
def Cmd.vsa (c : Cmd) : Nat := c.arg0 % 2 ^ 48
def beyond (v : Vol) (vsa n : Nat) : Bool := decide (vsa + n > v.sectors)

/-- The sectors of a transfer, 1 to 262,144 (Table HQ-7). -/
def countBad (c : Cmd) : Bool := decide (c.arg1 = 0) || decide (c.arg1 > 262144)

/-- MAG_READ (R357): the newest accepted data; a read that fails transfers what comes before. (DEDUCED, log 35) -/
def execMagRead (q tag : Nat) (buf : HostBuf) (s : State) : Host.Outcome State Fault Refusal :=
  inCore s fun s => asCommand s q tag 0x01 fun s x c =>
    if x.bindMag ∧ countBad c then completeField s q tag 0 0x20 0
    else onVolume s q tag 0x01 fun s c v =>
      if beyond v c.vsa c.arg1 then completeField s q tag 0 0x18 0
      else cmdSend s q tag c buf (4096 * c.arg1) fun s segs =>
        let (l, e) := readRange s v c.arg1 c.vsa
        let (l, e) := match badByteOf s q tag with
          | some off => if off / 4096 < l.length then (l.take (off / 4096), some SectorRes.galley) else (l, e)
          | none => (l, e)
        let s := scatter s x.fn segs l.flatten
        let st := match e with
          | none => stSuccess
          | some .media => stMediaError
          | some _ => stDataCorrupt
        complete s q tag st 0 (BitVec.ofNat 32 l.length) 0

/-- The galley admits a host write (R356): F + H and its size stay below LOW. -/
def admits (s : State) (n : Nat) : Bool :=
  decide ((galFill s + hostFill s + n) * 256 < regField s 0xD0008 7 0 * galUnits s)

/-- A piece of a write enters the galley and the acceptance order. -/
def acceptPiece (s : State) (q vsa n : Nat) (atomic : Bool) (data : List Byte) : State :=
  let it := { blankItem s (.host q vsa n atomic s.mag.nextOp) 0 n with ready := true, sealNo := s.gal.nextSeal }
  let o : HostOp := {
    no := 0, vsa := vsa, n := n, isTrim := false, atomic := atomic, data := data, item := some s.gal.nextIdent, begun := none,
    durable := false, corrupt := false }
  acceptOp (addItem { s with gal := { s.gal with nextSeal := s.gal.nextSeal + 1 } } it) o

/-- A write accepted (R356): it completes with SUCCESS. A write larger than a unit is split at the unit's boundary (R247). -/
def acceptWrite (s : State) (q tag : Nat) (c : Cmd) (data : List Byte) : State :=
  let atomic := bit (BitVec.ofNat 32 c.flags) 0
  let n := c.arg1
  let s := if n ≤ 262128 then acceptPiece s q c.vsa n atomic data
    else acceptPiece (acceptPiece s q c.vsa 262128 false (data.take (4096 * 262128))) q (c.vsa + 262128) (n - 262128) false
      (data.drop (4096 * 262128))
  complete (checkSpace s) q tag stSuccess 0 (BitVec.ofNat 32 n) 0

/-- A write whose data has been read: refused on a read-only volume or for want of extents, accepted when admitted; else it waits. -/
def tryWrite (s : State) (q tag : Nat) (c : Cmd) (data : List Byte) : State :=
  if s.mag.st = .readOnly then completeSt s q tag stReadOnly
  else if extentsWith s c.vsa c.arg1 > 67108864 then completeSt s q tag stExhausted
  else if admits s c.arg1 then acceptWrite s q tag c data
  else modCmd s q tag fun c => { c with waiting := true, data := data }

/-- MAG_WRITE (R247, R355, R356, R358). -/
def execMagWrite (q tag : Nat) (buf : HostBuf) (s : State) : Host.Outcome State Fault Refusal :=
  inCore s fun s => asCommand s q tag 0x02 fun s x c =>
    if x.bindMag ∧ (countBad c ∨ (bit (BitVec.ofNat 32 c.flags) 0 ∧ c.arg1 > 262128)) then completeField s q tag 0 0x20 0
    else onVolume s q tag 0x02 fun s c v =>
      if s.mag.st = .readOnly then completeSt s q tag stReadOnly
      else if beyond v c.vsa c.arg1 then completeField s q tag 0 0x18 0
      else cmdFetch s q tag c buf (some (4096 * c.arg1)) fun s data => tryWrite s q tag c data

/-- WRITE_ACCEPTED (R356): a write that waited is admitted. -/
def execWriteAccepted (q tag : Nat) (s : State) : Host.Outcome State Fault Refusal :=
  inCore s fun s => asWaiting s q tag 0x02 fun s _ c => tryWrite s q tag c c.data

/-- MAG_FLUSH (R360): it waits for every operation accepted before its fetch. -/
def execMagFlush (q tag : Nat) (s : State) : Host.Outcome State Fault Refusal :=
  inCore s fun s => onVolume s q tag 0x03 fun s _ _ => settleFlushes (modCmd s q tag fun c => { c with waiting := true })

/-- MAG_TRIM (R355, R359). -/
def execMagTrim (q tag : Nat) (s : State) : Host.Outcome State Fault Refusal :=
  inCore s fun s => onVolume s q tag 0x04 fun s c v =>
    if s.mag.st = .readOnly then completeSt s q tag stReadOnly
    else if beyond v c.vsa c.arg1 then completeField s q tag 0 0x18 0
    else
      let o : HostOp := {
        no := 0, vsa := c.vsa, n := c.arg1, isTrim := true, atomic := false, data := [], item := none, begun := none,
        durable := false, corrupt := false }
      complete (acceptOp s o) q tag stSuccess 0 (BitVec.ofNat 32 c.arg1) 0

end Sys2Proof.Machine
end

