-- ==== Sys2Proof/Machine/Mbx.lean ====
section
/-! DEFINITION. The mailbox protocol, and the mailbox commands of functions, queues, handles and the PTP clock (R342 to R344, R369, R378, R379,
R390, R392). -/

namespace Sys2Proof.Machine
open Sys2Proof

/-! ### The slot protocol (R378, R379) -/

/-- A write of a slot's CTL word by its owner: ACK first, then GO; a write that is refused is counted once. -/
def mbxCtl (s : State) (p : Party) (slot : Nat) (v : Word) : State :=
  if slot ≥ mbxSlots p then s
  else
    let done : Bool := decide (mbxState s p slot = 3)
    let s1 := if bit v 30 ∧ done then setMbxState s p slot 0 else s
    let idle : Bool := decide (mbxState s1 p slot = 0)
    let s2 := if (bit v 30 ∧ ¬ done) ∨ (bit v 31 ∧ ¬ idle) then count s1 (mbxBase p slot + 8) else s1
    if bit v 31 ∧ idle then
      let n := regField s2 (mbxBase p slot + 4) 15 0
      let s := regSet s2 (mbxBase p slot + 4) (packFields [(30, 1), (0, (n + 1) % 65536)])
      sweepInvalid { s with mbx := { s.mbx with posted := s.mbx.posted ++ [(p, slot)] } }
    else s2

/-- GO (R378): a write with GO = 1. (DEDUCED, log 37) -/
def execGo (p : Party) (slot : Fin 32) (v : Word) (s : State) : Host.Outcome State Fault Refusal :=
  inCore s fun s => if bit v 31 then mbxCtl s p slot v else s

/-- ACK (R378): a write with ACK = 1. (DEDUCED, log 37) -/
def execAck (p : Party) (slot : Fin 32) (v : Word) (s : State) : Host.Outcome State Fault Refusal :=
  inCore s fun s => if bit v 30 then mbxCtl s p slot v else s

/-! ### The device and its functions -/

/-- The version of the image that a component booted from; 0 where none is. -/
def versionOf (s : State) (comp : Nat) : Nat := imgVersion (slotAt s comp (s.mgt.booted.toList.getD (comp - 1) 0)).image

/-- IDENTIFY. The device's serial number is the implementation's. (DEDUCED, log 37) -/
def execIdentify (p : Party) (slot : Fin 32) (s : State) : Host.Outcome State Fault Refusal :=
  inCore s fun s => serve s p slot 0x0001 fun s _ =>
    let data := (List.range 8).map Config.deviceSerial ++ leBytes 4 (regField s 0x170000 15 0) ++ leBytes 4 (versionOf s 1)
    mbxDone s p slot stSuccess 0 (regGet s 0).toNat (versionOf s 2) data

/-- VF_QUOTA (R342): the quotas of one VF, within what the device has and above what the VF uses. -/
def execVfQuota (p : Party) (slot : Fin 32) (s : State) : Host.Outcome State Fault Refusal :=
  inCore s fun s => serve s p slot 0x0002 fun s req =>
    let vf := leAt req 0x10 2
    let q : Quota := { queues := leAt req 0x12 2, tags := leAt req 0x14 4, handles := leAt req 0x18 4 }
    match (List.finRange 63).find? fun (n : Fin 63) => decide (n.val + 1 = vf) with
    | none => mbxBadField s p slot 0x10
    | some n =>
      if q.queues < queuesOf s (.vf n) ∨ q.tags < tagsOf s (.vf n) ∨ q.handles < handlesOf s (.vf n) then
        mbxReply s p slot stNotReady 0 0 0
      else
        let all := (s.hq.quotas.set n q).toList
        if (all.map (·.queues)).sum > 4096 ∨ (all.map (·.tags)).sum > 262144 ∨ (all.map (·.handles)).sum > 65535 then
          mbxReply s p slot stExhausted 0 0 0
        else mbxReply (journalCommit { s with hq := { s.hq with quotas := s.hq.quotas.set n q } }) p slot stSuccess 0 0 0

/-- A new queue as its parameter block gives it (R343). -/
def newQueue (p : Party) (req : List Byte) (base : Nat) : Queue where
  owner := p
  sqBase := leAt req 0x10 8
  cqBase := leAt req 0x18 8
  sqDepth := leAt req 0x20 4
  cqDepth := leAt req 0x24 4
  tagBase := base
  tagCount := leAt req 0x28 4
  vector := (byteAt req 0x2C).toNat
  cls := (byteAt req 0x2D).toNat % 4
  bindMag := (byteAt req 0x2D).getLsbD 2
  aggCount := (byteAt req 0x2E).toNat
  aggTime := (byteAt req 0x2F).toNat
  sqHead := 0
  sqTail := 0
  cqHead := 0
  cqTail := 0
  phase := true
  halted := false
  resetting := none
  fenced := false
  unsignalled := 0
  firstAt := 0
  attached := 0
  backlog := []
  cmds := []

/-- A party's quota has room for one more queue with `n` tags (R342). -/
def quotaRoom (s : State) (p : Party) (n : Nat) : Bool := match p with
  | .vf k => decide (queuesOf s p < s.hq.quotas[k].queues) && decide (tagsOf s p + n ≤ s.hq.quotas[k].tags)
  | _ => true

/-- QUEUE_CREATE (R342, R343). -/
def execQueueCreate (p : Party) (slot : Fin 32) (s : State) : Host.Outcome State Fault Refusal :=
  inCore s fun s => serve s p slot 0x0003 fun s req =>
    let n := leAt req 0x28 4
    match mFreeFrom s.hq.queues 4096 0, lowestTagRun s n with
    | some q, some base =>
      if quotaRoom s p n then
        let queues := mPut s.hq.queues q (newQueue p req base)
        mbxReply (journalCommit { s with hq := { s.hq with queues := queues } }) p slot stSuccess 0 q base
      else mbxReply s p slot stExhausted 0 0 0
    | _, _ => mbxReply s p slot stExhausted 0 0 0

/-- QUEUE_DELETE (R344). -/
def execQueueDelete (p : Party) (slot : Fin 32) (s : State) : Host.Outcome State Fault Refusal :=
  inCore s fun s => serve s p slot 0x0004 fun s req =>
    let q := leAt req 0x10 2
    match (queueOf s q).filter fun x => decide (x.owner = p) with
    | none => mbxBadField s p slot 0x10
    | some x =>
      if x.cmds ≠ [] ∨ x.resetting.isSome ∨ s.hq.resetAsked.contains q then mbxReply s p slot stNotReady 0 0 0
      else mbxReply (journalCommit { s with hq := { s.hq with queues := mDel s.hq.queues q } }) p slot stSuccess 0 0 0

/-! ### Handles (R203, R369) -/

/-- HANDLE_ALLOC. -/
def execHandleAlloc (p : Party) (slot : Fin 32) (s : State) : Host.Outcome State Fault Refusal :=
  inCore s fun s => serve s p slot 0x0401 fun s req =>
    match allocHandle s p (leAt req 0x10 4) with
    | none => mbxReply s p slot stExhausted 0 0 0
    | some (h, s) => mbxReply (journalCommit s) p slot stSuccess 0 h 0

/-- HANDLE_FREE. -/
def execHandleFree (p : Party) (slot : Fin 32) (s : State) : Host.Outcome State Fault Refusal :=
  inCore s fun s => serve s p slot 0x0402 fun s req =>
    match freeHandle s p (leAt req 0x10 2) with
    | none => mbxBadField s p slot 0x10
    | some (later, s) => mbxReply (journalCommit s) p slot (if later then stDeferred else stSuccess) 0 0 0

/-- HANDLE_QUERY: a FREE handle reads as such; a handle of another party is refused. (DEDUCED, log 26) -/
def execHandleQuery (p : Party) (slot : Fin 32) (s : State) : Host.Outcome State Fault Refusal :=
  inCore s fun s => serve s p slot 0x0403 fun s req =>
    let h := leAt req 0x10 2
    match handleOf s h with
    | none => mbxReply s p slot stSuccess 0 0 0
    | some x => if x.owner = p then mbxReply s p slot stSuccess 0 (handleWord s h).toNat x.size else mbxBadField s p slot 0x10

/-! ### The PTP clock (R317, R392) -/

/-- PTP_CONFIG (R392). -/
def execPtpConfig (p : Party) (slot : Fin 32) (s : State) : Host.Outcome State Fault Refusal :=
  inCore s fun s => serve s p slot 0x0201 fun s req =>
    let s := { s with net := { s.net with config := wordsOf 4 (req.drop 0x10) } }
    mbxReply (journalCommit s) p slot stSuccess 0 0 0

/-- PTP_SET_TIME (R317, R318): refused while the servo is on. (DEDUCED, log 33) -/
def execPtpSetTime (p : Party) (slot : Fin 32) (s : State) : Host.Outcome State Fault Refusal :=
  inCore s fun s => serve s p slot 0x0202 fun s req =>
    if regBit s 0x150010 31 then mbxReply s p slot stInService 0 0 0
    else
      let t : Nat := (leAt req 0x10 6 * 1000000000 + leAt req 0x18 4) * 65536
      let s := ptpEvent (stepPtp s ((t : Int) - (s.ptpNow : Int))) 3 0x04 .degraded (ctxUnit 0 0 0 0)
      mbxReply (journalCommit { s with net := { s.net with sub := 0 } }) p slot stSuccess 0 0 0

/-- PTP_STATUS. What the PTP protocol has found (identities, port states, steps, path delay) is free; the last offset is the one that the
servo was given. -/
def execPtpStatus (p : Party) (slot : Fin 32) (s : State) : Host.Outcome State Fault Refusal :=
  inCore s fun s => serve s p slot 0x0203 fun s _ =>
    let (a, s) := freeBytes s 21
    let (b, s) := freeBytes s 2
    let (d, s) := freeBytes s 8
    let ofs := leBytes 4 (regGet s 0x150030).toNat ++ leBytes 4 (regGet s 0x150034).toNat
    mbxDone s p slot stSuccess 0 0 0 (a ++ [0] ++ b ++ ofs ++ d)

end Sys2Proof.Machine
end

