-- ==== Sys2Proof/Machine/Mem.lean ====
section
/-! DEFINITION. The GDDR6 family (chapter 19): training, retraining, refresh, row hammer, reads, writes and patrol scrub. -/

namespace Sys2Proof.Machine
open Sys2Proof

/-- Training at start (R436): RUN, or a fatal record and the end of the boot. -/
def execTraining (failed : Option (Fin 24)) (s : State) : Host.Outcome State Fault Refusal :=
  inCore s fun s =>
    if memRun s ∨ s.flt.fatal ∨ regField s 0x10 2 0 = 4 then s
    else match failed with
    | some c => regSet (raise (fatal s 0x17 0x01 (ctxMem 18 c 0)) .mem 0) 0x10 4
    | none =>
      let s := regSet s (memReg 0) (setBit (regGet s (memReg 0)) 31)
      let s := regSet s 0x10 2
      let fresh := s.mem.chans.map fun x => { x with lastStep := s.now, owedAt := s.now, winAt := s.now }
      { s with mem := { s.mem with chans := fresh }, sys := { s.sys with trained := true } }

/-- A step of a retraining window (R437): the next channel in ascending order, when the step before has ended and this one can end within
its window. -/
def execRetrainingStep (s : State) : Host.Outcome State Fault Refusal :=
  inCore s fun s =>
    let s := { s with mem := { s.mem with windows := liveWindows s.now s.mem.windows } }
    match s.mem.windows with
    | [] => s
    | (at_, w, n) :: r =>
      if s.now < s.mem.busyUntil then s
      else
        let c := s.mem.next
        let s := stepChan s c
        { s with mem := { s.mem with windows := (at_, w, n - 1) :: r, next := (c + 1) % 24, busyUntil := s.now + 1000 } }

/-- A channel not retrained within INTERVAL is retrained at once (R438). -/
def execRetrainForced (c : Fin 24) (s : State) : Host.Outcome State Fault Refusal :=
  inCore s fun s =>
    if ¬ memRun s ∨ s.now < s.mem.chans[c].lastStep + retrainNs s then s
    else memEvent (stepChan (count s (chanReg c 0x14)) c) 1 .info c 0

/-- A drift of the EDC hold pattern brings the channel's next step forward to the first instant with no real-time request pending (R438). (DEDUCED, log 38) -/
def execPhaseDrift (c : Fin 24) (busy : Bool) (s : State) : Host.Outcome State Fault Refusal :=
  inCore s fun s =>
    if ¬ memRun s then s else if busy then modChan s c fun x => { x with drift := true } else stepChan s c

/-- A per-bank refresh (R439): issued, or postponed while real-time requests to the bank are pending and no more than 8 intervals are owed. -/
def execRefresh (c : Fin 24) (b : Fin 16) (busy : Bool) (s : State) : Host.Outcome State Fault Refusal :=
  inCore s fun s =>
    if ¬ memRun s then s
    else
      let s := reckon s c
      let owed := (s.mem.chans[c]).owed[b]
      if owed < 1 ∨ (busy ∧ owed < 8) then s
      else modChan s c fun x => { x with owed := vMod x.owed b fun q => q - 1, openRow := vMod x.openRow b fun _ => none }

/-- A row activated by a request (R440, R441): the random layer, whose source is free, and the counting layer. (DEDUCED, log 38) -/
def execActivate (c : Fin 24) (b : Fin 16) (r : Nat) (s : State) : Host.Outcome State Fault Refusal :=
  inCore s fun s =>
    if ¬ memRun s ∨ r ≥ bankRows s then s
    else
      let (k, s) := freeNat s
      let s := if k % 2 ^ rhProb s = 0 then hammer s c b r else s
      let s := modChan s c fun x => { x with openRow := vMod x.openRow b fun _ => some r }
      -- in the very cycle that clears the table the count is still tested first
      let s := if s.now = (s.mem.chans[c]).winAt + refreshWindow s.thm.band then s else reckon s c
      let (l, n) := tableHit (s.mem.chans[c]).table b.val r
      let s := if n ≥ rhThresh s then hammer s c b r else s
      let l := if n ≥ rhThresh s then l.map fun x => if x.1 = b.val ∧ x.2.1 = r then (b.val, r, 0) else x else l
      reckon (modChan s c fun x => { x with table := l }) c

/-- A read of a granule (R442, R443, R445, R446): link retries, then what the inline code says. (DEDUCED, log 38) -/
def execMemRead (a : Nat) (fails : Nat) (ecc : Ecc) (u : MemUser) (who : Option Client) (wait : MemWait) (s : State) :
    Host.Outcome State Fault Refusal :=
  inCore s fun s =>
    if a ≥ usable s then s
    else arbitrate s a ((who.map (·.user)).getD u) wait fun s =>
      let (s, dead) := retries s a fails
      if dead ∨ isPoison s a then uncorrectable s a who
      else match ecc with
      | .good => s
      | .corrected => count s (chanReg (chanOf s a) 0)
      | .uncorrectable => uncorrectable s a who

/-- A write to a granule (R442, R443, R446): a write that cannot be sent poisons it; a write of the whole granule makes a bad one good. (DEDUCED, log 38) -/
def execMemWrite (a : Nat) (whole : Bool) (fails : Nat) (u : MemUser) (wait : MemWait) (s : State) : Host.Outcome State Fault Refusal :=
  inCore s fun s =>
    if a ≥ usable s then s
    else arbitrate s a u wait fun s =>
      let (s, dead) := retries s a fails
      if dead then setPoison s a true else if whole then setPoison s a false else s

/-- Patrol scrub of a granule, in the bulk class (R444, R446): corrected, or counted and left as it is. -/
def execMemScrub (a : Nat) (ecc : Ecc) (wait : MemWait) (s : State) : Host.Outcome State Fault Refusal :=
  inCore s fun s =>
    if a ≥ usable s then s
    else arbitrate s a .scrub wait fun s =>
      let c := chanOf s a
      let bad := match ecc with
        | .uncorrectable => true
        | _ => isPoison s a
      if bad then memEvent (count s (chanReg c 4)) 4 .degraded c (a / 64 * 64)
      else match ecc with
      | .corrected => count s (chanReg c 0)
      | _ => s

end Sys2Proof.Machine
end

