-- ==== Sys2Proof/Machine/Net.lean ====
section
/-! DEFINITION. The network and PTP commands (R305 to R325). -/

namespace Sys2Proof.Machine
open Sys2Proof

/-- A sender takes up its frame or its first packet time, with the fields that latch there; what waited for them follows (R78, R307). -/
def sndReady (s : State) (i : Fin 48) : State :=
  let c := (s.net.snds[i]).cfg
  let s := latchSnd s i
  settleIf (decide ((s.net.snds[i]).cfg ≠ c)) s

/-- VIDEO_PACKET (R308 to R310). -/
def execVideoPacket (i : Fin 48) (s : State) : Host.Outcome State Fault Refusal := inCore s fun s =>
  let s := sndReady s i
  let x := s.net.snds[i]
  let ctl := x.word i.val 0
  if ¬ x.on i.val ∨ x.kind i.val ≠ 0 then s
  else match sndHead s x i.val with
  | none => s
  | some (h, y) =>
    let np := linePackets ctl (y.width h) * y.height h
    let at_ := packetAt x i.val y h x.next
    if ¬ y.raster ∨ y.st = .off ∨ x.next ≥ np ∨ (s.now : ℚ) < at_ ∨ sndTurn s i = false then s
    else
      let pay := rtpHead x i.val x.seq (rtpVideo y.startPtp) (decide (x.next + 1 = np))
        ++ videoPayload y.picture (y.width h) ctl x.seq x.next
      let s := sendPacket s i.val x (decide ((s.now : ℚ) > at_ + 1000)) pay
      modSnd s i fun x => { x with next := x.next + 1 }

/-- An audio sender's fields latch after a packet (R307). -/
def relatchAudio (s : State) (i : Fin 48) : State :=
  let x := s.net.snds[i]
  let c := sndSlice s i.val
  if x.cfg = c then s
  else
    let go := fun (y : Sender) => takeFrame s i.val (if bit (rmGet c (sndReg i.val 0)) 31 ∧ field (rmGet c (sndReg i.val 0)) 30 29 = 1
      then latchAudio s y i.val else { y with group := none })
    settleApplied (modSnd s i go)

/-- AUDIO_PACKET (R311): zero for an instant that has no sample; the packet is counted in SILENCE, and a loss raises AUDIO_SILENCE once. -/
def execAudioPacket (i : Fin 48) (s : State) : Host.Outcome State Fault Refusal := inCore s fun s =>
  let s := sndReady s i
  let x := s.net.snds[i]
  let ctl := x.word i.val 0
  if ¬ x.on i.val ∨ x.kind i.val ≠ 1 then s
  else match x.group with
  | none => s
  | some k =>
    let due := groupDue x i.val k
    if ptpTime s < due ∨ sndTurn s i = false then s
    else
      let n := groupSamples ctl
      let chans := sndChannels (field (x.word i.val 4) 15 0)
      let insts := (List.range n).map (k * n + ·)
      let missing := insts.any fun m => chans.any fun c => (gotAt x.got c.1 m).isNone
      let body := insts.flatMap fun m => chans.flatMap fun c =>
        let v := (gotAt x.got c.1 m).getD (0, 0)
        audioBytes (bit ctl 24) (if c.2 = 0 then v.1 else v.2)
      let s := sendPacket s i.val x (decide (ptpTime s > due + 1000 * 65536))
        (rtpHead x i.val x.seq (k * n % 2 ^ 32) false ++ body)
      let s := modSnd s i fun y => { y with
        group := some (k + 1), silent := missing, got := y.got.filter fun e => decide ((k + 1) * n ≤ e.2.1) }
      let s := if missing then
          let s := count s (sndReg i.val 0x40)
          if x.silent then s else netEvent s 4 0x05 .degraded (ctxUnit 13 i.val 0 0)
        else s
      relatchAudio s i

/-- TIMECODE_PACKET (R312): once for each frame of the head, from the record of the buffer that plane 0 scans. -/
def execTimecodePacket (i : Fin 48) (s : State) : Host.Outcome State Fault Refusal := inCore s fun s =>
  let s := sndReady s i
  let x := s.net.snds[i]
  if ¬ x.on i.val ∨ x.kind i.val ≠ 2 then s
  else match sndHead s x i.val with
  | none => s
  | some (_, y) =>
    if ¬ y.raster ∨ y.st = .off ∨ x.next > 0 ∨ (s.now : ℚ) < y.startAt + 50000 ∨ sndTurn s i = false then s
    else
      let s := modSnd s i fun x => { x with next := 1 }
      let h := y.planes[0].shown
      if h = 0 then
        netEvent (count s (sndReg i.val 0x3C)) 5 0x06 .info (ctxUnit 13 i.val 0 y.frame)
      else
        let r := bufferBytes s h 0 256
        let tc := BitVec.ofNat 32 (leAt r 0x14 4)
        let user := BitVec.ofNat 32 (leAt r 0x18 4)
        sendPacket s i.val x (decide ((s.now : ℚ) > y.startAt + 51000))
          (rtpHead x i.val x.seq (rtpVideo y.startPtp) true ++ ancPayload x.seq tc user)

/-- ETH_FRAME_RECEIVED (R305, R319): a PTP message goes to Fjarera with its ingress time-stamp, after the gap where one is in progress (R316). -/
def execEthFrameReceived (p : Fin 2) (f : Fin 4) (l : List Byte) (s : State) : Host.Outcome State Fault Refusal :=
  inCore s fun s =>
    if ¬ ifUp s p.val f.val then s
    else if isPtp s p.val f.val l then
      let lat : Int := (Config.portLatency (field s.net.ports[p] 30 30) : Int) + sword (regGet s (0x150080 + 0x20 * p.val))
      let stamp := (ptpTime s : Int) - lat
      let s := count s (portReg p.val 0x90)
      if interrupted s then { s with net := { s.net with heard := s.net.heard ++ [(p.val, f.val, stamp, l)] } }
      else emit s (.ptpRx p.val f.val stamp l)
    else count s (portReg p.val 0x94)

/-- ETH_LINK_DOWN (R306): senders' schedules run on. -/
def execEthLinkDown (p : Fin 2) (f : Fin 4) (s : State) : Host.Outcome State Fault Refusal := inCore s fun s => ifDown s p.val f.val

/-- ETH_LINK_UP (R306): on an interface that the port has, while ETH_REFCLK is not lost (R485). -/
def execEthLinkUp (p : Fin 2) (f : Fin 4) (fec : Bool) (s : State) : Host.Outcome State Fault Refusal := inCore s fun s =>
  if ¬ hasIface s.net.ports[p] f.val ∨ ifUp s p.val f.val ∨ (s.sys.clocks[4]).lost then s
  else
    let w := setBit (regGet s (portReg p.val 0x80)) f.val
    netEvent (regSet s (portReg p.val 0x80) (putBit w (4 + f.val) fec)) 0 0x01 .info (ctxUnit 5 p.val f.val 0)

/-- FEC_UNCORR (R304). -/
def execFecUncorr (p : Fin 2) (f : Fin 4) (s : State) : Host.Outcome State Fault Refusal := inCore s fun s =>
  if ifUp s p.val f.val then netEvent (count s (portReg p.val 0x98)) 2 0x03 .degraded (ctxUnit 5 p.val f.val 0) else s

/-- PTP_MESSAGE_SENT (R319, R320): the egress time-stamp goes into the port's queue; a message that falls due while the link is down is
discarded (R306), and none is sent within a switch-over gap (R316). -/
def execPtpMessageSent (p : Fin 2) (f : Fin 4) (ident : Nat) (l : List Byte) (s : State) :
    Host.Outcome State Fault Refusal := inCore s fun s =>
  if interrupted s then s
  else if ¬ ifUp s p.val f.val then count s (portReg p.val 0x88)
  else
    let s := count (emit s (.netTx p.val f.val l)) (portReg p.val 0x84)
    let lat : Int := (Config.portLatency (field s.net.ports[p] 30 30) : Int) + sword (regGet s (0x150084 + 0x20 * p.val))
    let t := ((ptpTime s : Int) + lat).toNat
    if s.net.txts[p].length ≥ 64 then
      ptpEvent (count s (0x150098 + 0x20 * p.val)) 5 0x06 .degraded (ctxUnit 5 p.val f.val 0)
    else
      let q := s.net.txts.set p (s.net.txts[p] ++ [(ident % 65536, t)])
      { s with net := { s.net with txts := q } }

/-- TXTS_READ (R320). -/
def execTxtsRead (p : Party) (k : Fin 2) (s : State) : Host.Outcome State Fault Refusal := inCore s fun s =>
  let off := 0x150088 + 0x20 * k.val
  if ¬ mayRead p then s
  else match s.net.txts[k] with
  | [] => capture s p off [0, 0, 0, 0]
  | (i, t) :: r =>
    let q := s.net.txts.set k r
    capture { s with net := { s.net with txts := q } } p off (packFields [(31, 1), (0, i)] :: stampWords t)

/-- OFFSET_WRITE (R316, R317), which no gap holds: Fjarera's write of the high word, with the low word it last wrote (R8). With SERVO_EN = 0 the offset only stands in
its registers (R318). -/
def execOffsetWrite (p : Party) (v : Word) (s : State) : Host.Outcome State Fault Refusal := inCore s fun s =>
  if p ≠ .fjarera ∨ interrupted s then s
  else
    let lo := stagedWord s p 0x150030
    let s := { s with regs := rmSet (rmSet s.regs 0x150030 lo) 0x150034 v }
    if regBit s 0x150010 31 then servo s (signed 64 (lo.toNat + v.toNat * 2 ^ 32)) else s

/-- OFS_TIMEOUT (R318): f is held at −integ. -/
def execOfsTimeout (s : State) : Host.Outcome State Fault Refusal := inCore s fun s =>
  let st := regField s ptpStateReg 31 30
  let due : Bool := match s.net.lastOfs with
    | some t => decide (s.now ≥ t + (regGet s 0x150028).toNat * 1000000)
    | none => false
  if ¬ regBit s 0x150010 31 ∨ (st ≠ 1 ∧ st ≠ 2) ∨ due = false then s
  else
    let net := { s.net with f := -s.net.integ, small := 0, prevBig := false }
    let s := showFreq (setServo { s with net := net } 3)
    let s := if st = 2 then ptpUnlocked s else s
    ptpEvent s 2 0x03 .degraded (ctxUnit 0 0 0 0)

def evtCfgReg (i : Nat) : Nat := 0x150200 + 8 * i

def modEvt (s : State) (i : Nat) (f : EvtIn → EvtIn) : State :=
  let inputs := vMod s.net.inputs i f
  { s with net := { s.net with inputs := inputs } }

/-- The time-stamp of an accepted edge: within 2 ns of the clock (R321). (DEDUCED, log 3) -/
def edgeStamp (s : State) : Nat × State :=
  let (n, s) := freeNat s
  (ptpTime s + n % (4 * 65536 + 1) - 2 * 65536, s)

/-- EVENT_EDGE (R321, R322): an edge of a pulse of `width` ns. -/
def execEventEdge (i : Fin 16) (rising : Bool) (width : Nat) (s : State) : Host.Outcome State Fault Refusal := inCore s fun s =>
  let cfg := regGet s (evtCfgReg i.val)
  let kind := field cfg 30 29
  let x := s.net.inputs[i]
  let exp := (regGet s (evtCfgReg i.val + 4)).toNat
  let per := x.lastEdge.map (s.now - ·)
  let bad : Bool := decide (exp ≠ 0) && per.any fun p => !inWindow (exp : ℚ) x.periods x.run p
  if ¬ bit cfg 31 ∨ width < 4 * field cfg 15 0 ∨ (kind = 0 ∧ rising = false) ∨ (kind = 1 ∧ rising = true) ∨ kind = 3 then s
  else if bad then ptpEvent (count s 0x150294) 7 0x08 .info (ctxUnit 11 i.val 0 0)
  else
    let s := modEvt s i fun x => { x with
      lastEdge := some s.now, periods := (per.toList ++ x.periods).take 8, run := if per.isSome then x.run + 1 else x.run,
      count := (x.count + 1) % 65536, lost := false }
    if s.net.evts.length ≥ 64 then ptpEvent (count s 0x150290) 6 0x07 .degraded (ctxUnit 11 i.val 0 0)
    else
      let (t, s) := edgeStamp s
      let e : EvtEntry := { rising := rising, input := i.val, count := (x.count + 1) % 65536, time := t }
      { s with net := { s.net with evts := s.net.evts ++ [e] } }

/-- EVT_INPUT_LOST (R321). -/
def execEvtInputLost (i : Fin 16) (s : State) : Host.Outcome State Fault Refusal := inCore s fun s =>
  let x := s.net.inputs[i]
  let exp := (regGet s (evtCfgReg i.val + 4)).toNat
  if ¬ regBit s (evtCfgReg i.val) 31 ∨ exp = 0 ∨ x.lost = true ∨ s.now < x.lastEdge.getD x.since + 3 * exp then s
  else
    let s := modEvt s i fun x => { x with lost := true, run := 0, periods := [], lastEdge := none, since := s.now }
    ptpEvent s 8 0x09 .degraded (ctxUnit 11 i.val 0 0)

/-- EVT_READ (R322). -/
def execEvtRead (p : Party) (s : State) : Host.Outcome State Fault Refusal := inCore s fun s =>
  if ¬ mayRead p then s
  else match s.net.evts with
  | [] => capture s p 0x150280 [0, 0, 0, 0]
  | e :: r =>
    let w0 := packFields [(31, 1), (20, if e.rising then 1 else 0), (16, e.input), (0, e.count)]
    capture { s with net := { s.net with evts := r } } p 0x150280 (w0 :: stampWords e.time)

/-- TC_JAM (R325). -/
def execTcJam (p : Party) (n : Fin 8) (v : Word) (s : State) : Host.Outcome State Fault Refusal := inCore s fun s =>
  let off := 0x150304 + 0x10 * n.val
  writeBy s p off fun s =>
    let labels := s.net.labels.set n v
    regSet { s with net := { s.net with labels := labels } } off v

end Sys2Proof.Machine
end

