-- ==== Sys2Proof/Machine/Per.lean ====
section
/-! DEFINITION. The peripherals: UART, SPI, I3C and GPIO (R404 to R407). -/

namespace Sys2Proof.Machine
open Sys2Proof

def uartReg (i off : Nat) : Nat := 0x1D1000 + 0x40 * i + off
def spiReg (i off : Nat) : Nat := 0x1D2000 + 0x40 * i + off
def i3cReg (i off : Nat) : Nat := 0x1D3000 + 0x100 * i + off

/-- An EVENTS bit of a peripheral set: its source receives an edge when the bit goes from 0 to 1 while its IRQ_EN bit is 1. -/
def perEvent (s : State) (en ev b src : Nat) : State :=
  if regBit s ev b then s
  else
    let s := regSet s ev (setBit (regGet s ev) b)
    if regBit s en b then sourceEdge s src else s

def uartEvent (s : State) (i b : Nat) : State := perEvent s (uartReg i 0x14) (uartReg i 0x18) b (128 + i)
def spiEvent (s : State) (i b : Nat) : State := perEvent s (spiReg i 0x14) (spiReg i 0x18) b (136 + i)
def i3cEvent (s : State) (i b : Nat) : State := perEvent s (i3cReg i 0x14) (i3cReg i 0x18) b (142 + i)

/-- A UART's FIFOs replaced, with STATUS. (DEDUCED, log 10) -/
def setUart (s : State) (i : Nat) (x : Uart) : State :=
  let uarts := vMod s.per.uarts i fun _ => x
  regSet { s with per := { s.per with uarts := uarts } } (uartReg i 0xC) (packFields [(16, x.rx.length), (8, x.tx.length)])

/-- (DEDUCED, log 10) -/
def setSpi (s : State) (i : Nat) (x : SpiPort) : State :=
  let spis := vMod s.per.spis i fun _ => x
  regSet { s with per := { s.per with spis := spis } } (spiReg i 0x10)
    (packFields [(31, if x.xfer.isSome then 1 else 0), (16, x.rx.length), (0, x.tx.length)])

/-- (DEDUCED, log 10) -/
def setI3c (s : State) (i : Nat) (x : I3cPort) : State :=
  let i3cs := vMod s.per.i3cs i fun _ => x
  { s with per := { s.per with i3cs := i3cs } }

/-- What a read of RXDATA returns: VALID with the oldest byte, or zero. -/
def rxWord : List Byte → Word
  | [] => 0
  | b :: _ => packFields [(8, 1), (0, b.toNat)]

/-- The low byte of a word. -/
def lowByte (v : Word) : Byte := v.setWidth 8

/-- UART_TXDATA (R404). -/
def execUartTxdata (p : Party) (i : Fin 8) (v : Word) (s : State) : Host.Outcome State Fault Refusal := inCore s fun s =>
  writeBy s p (uartReg i 4) fun s =>
    let x := s.per.uarts[i]
    if x.tx.length ≥ 64 then uartEvent s i 6 else setUart s i { x with tx := x.tx ++ [lowByte v] }

/-- UART_TX_BYTE (R404): the oldest byte is on the line; TX_EMPTY when none is left. -/
def execUartTxByte (i : Fin 8) (s : State) : Host.Outcome State Fault Refusal := inCore s fun s =>
  let x := s.per.uarts[i]
  match x.tx with
  | [] => s
  | b :: r =>
    if ¬ regBit s (uartReg i 0) 31 then s
    else
      let s := setUart (emit s (.bus 0 i (regGet s (uartReg i 0)) 0 [b])) i { x with tx := r }
      if r = [] then uartEvent s i 1 else s

/-- UART_RX_BYTE (R404): RX_THRESH when a byte is received and the level is then THRESH or more; a byte that meets a full FIFO is discarded; a
parity error needs parity. -/
def execUartRxByte (i : Fin 8) (b : Byte) (parity framing brk : Bool) (s : State) : Host.Outcome State Fault Refusal :=
  inCore s fun s =>
    if ¬ regBit s (uartReg i 0) 31 then s
    else
      let x := s.per.uarts[i]
      let s := if x.rx.length ≥ 64 then uartEvent s i 2
        else
          let s := setUart s i { x with rx := x.rx ++ [b] }
          if x.rx.length + 1 ≥ regField s (uartReg i 0x10) 6 0 then uartEvent s i 0 else s
      let s := if parity ∧ regField s (uartReg i 0) 23 22 ≠ 0 then uartEvent s i 3 else s
      let s := if framing then uartEvent s i 4 else s
      if brk then uartEvent s i 5 else s

/-- UART_RXDATA_READ (R404). -/
def execUartRxdataRead (p : Party) (i : Fin 8) (s : State) : Host.Outcome State Fault Refusal := inCore s fun s =>
  if ¬ mayRead p then s
  else
    let x := s.per.uarts[i]
    emit (setUart s i { x with rx := x.rx.drop 1 }) (.readData p (uartReg i 8) (rxWord x.rx))

/-- SPI_TXDATA (R405). -/
def execSpiTxdata (p : Party) (i : Fin 6) (v : Word) (s : State) : Host.Outcome State Fault Refusal := inCore s fun s =>
  writeBy s p (spiReg i 8) fun s =>
    let x := s.per.spis[i]
    if x.tx.length ≥ 256 then spiEvent s i 3 else setSpi s i { x with tx := x.tx ++ [lowByte v] }

/-- SPI_TRANSFER (R405): GO starts a transfer on an enabled port; GO while BUSY sets GO_REFUSED. -/
def execSpiTransfer (p : Party) (i : Fin 6) (v : Word) (s : State) : Host.Outcome State Fault Refusal := inCore s fun s =>
  writeBy s p (spiReg i 4) fun s =>
    let x := s.per.spis[i]
    if ¬ bit v 31 then s
    else if x.xfer.isSome then spiEvent s i 2
    else if ¬ regBit s (spiReg i 0) 31 then s
    else setSpi s i { x with xfer := some v }

/-- SPI_DONE (R405): LEN bytes went out, zero bytes once the TX FIFO had run empty, and LEN bytes came in. -/
def execSpiDone (i : Fin 6) (l : List Byte) (s : State) : Host.Outcome State Fault Refusal := inCore s fun s =>
  let x := s.per.spis[i]
  match x.xfer with
  | none => s
  | some v =>
    let n := field v 8 0
    let s := emit s (.bus 1 i (regGet s (spiReg i 0)) v (padTo n x.tx))
    let s := setSpi s i { tx := x.tx.drop n, rx := (x.rx ++ padTo n l).take 256, xfer := none }
    let s := if x.tx.length < n then spiEvent s i 1 else s
    spiEvent s i 0

/-- SPI_RXDATA_READ (R405). -/
def execSpiRxdataRead (p : Party) (i : Fin 6) (s : State) : Host.Outcome State Fault Refusal := inCore s fun s =>
  if ¬ mayRead p then s
  else
    let x := s.per.spis[i]
    emit (setSpi s i { x with rx := x.rx.drop 1 }) (.readData p (spiReg i 0xC) (rxWord x.rx))

/-- I3C_TXDATA (R406). -/
def execI3cTxdata (p : Party) (i : Fin 4) (v : Word) (s : State) : Host.Outcome State Fault Refusal := inCore s fun s =>
  writeBy s p (i3cReg i 8) fun s =>
    let x := s.per.i3cs[i]
    if x.tx.length ≥ 256 then i3cEvent s i 6 else setI3c s i { x with tx := x.tx ++ [lowByte v] }

/-- I3C_COMMAND (R406): GO starts a command on an enabled port; one that is running goes on (notes/assumptions/10.md). (DEDUCED, log 10) -/
def execI3cCommand (p : Party) (i : Fin 4) (v : Word) (s : State) : Host.Outcome State Fault Refusal := inCore s fun s =>
  writeBy s p (i3cReg i 4) fun s =>
    let x := s.per.i3cs[i]
    if ¬ bit v 31 ∨ x.cmd.isSome ∨ ¬ regBit s (i3cReg i 0) 31 then s else setI3c s i { x with cmd := some v }

/-- ENTDAA's code among the CCCs. -/
def ccEntdaa : Nat := 0x07

/-- I3C_DONE (R406): a write takes LEN bytes from TXDATA, a read puts what came in into RXDATA; ENTDAA does both. -/
def execI3cDone (i : Fin 4) (e : BusEnd) (l : List Byte) (s : State) : Host.Outcome State Fault Refusal := inCore s fun s =>
  let x := s.per.i3cs[i]
  match x.cmd with
  | none => s
  | some v =>
    let n := field v 8 0
    let daa : Bool := bit v 28 && decide (field v 20 13 = ccEntdaa)
    let out := if bit v 29 ∧ daa = false then [] else x.tx.take n
    let came := if bit v 29 ∨ daa = true then l else []
    let went := fun (s : State) (out : List Byte) => emit s (.bus 2 i (regGet s (i3cReg i 0)) v out)
    match e with
    | .nack => i3cEvent (setI3c (went s []) i { x with cmd := none }) i 1
    | .busError => i3cEvent (setI3c (went s []) i { x with cmd := none }) i 4
    | .done =>
      let s := went s out
      i3cEvent (setI3c s i { x with cmd := none, tx := x.tx.drop out.length, rx := x.rx ++ came }) i 0

/-- IBI (R406): queued with up to 8 payload bytes, or NACKed when the FIFO is full. -/
def execIbi (i : Fin 4) (addr : Nat) (l : List Byte) (s : State) : Host.Outcome State Fault Refusal := inCore s fun s =>
  let x := s.per.i3cs[i]
  if ¬ regBit s (i3cReg i 0) 31 then s
  else if x.ibi.length ≥ 8 then i3cEvent s i 5
  else i3cEvent (setI3c s i { x with ibi := x.ibi ++ [(addr % 128, l.take 8)] }) i 2

/-- HOT_JOIN (R406): acknowledged and reported. -/
def execHotJoin (i : Fin 4) (s : State) : Host.Outcome State Fault Refusal := inCore s fun s =>
  if regBit s (i3cReg i 0) 31 then i3cEvent s i 3 else s

/-- I3C_IBI_READ (R406, Table PER-5): the payload follows in RXDATA. -/
def execI3cIbiRead (p : Party) (i : Fin 4) (s : State) : Host.Outcome State Fault Refusal := inCore s fun s =>
  if ¬ mayRead p then s
  else
    let x := s.per.i3cs[i]
    match x.ibi with
    | [] => emit s (.readData p (i3cReg i 0x10) 0)
    | (a, l) :: r =>
      emit (setI3c s i { x with ibi := r, rx := x.rx ++ l })
        (.readData p (i3cReg i 0x10) (packFields [(31, 1), (24, a), (16, l.length)]))

/-- I3C_RXDATA_READ (R406). -/
def execI3cRxdataRead (p : Party) (i : Fin 4) (s : State) : Host.Outcome State Fault Refusal := inCore s fun s =>
  if ¬ mayRead p then s
  else
    let x := s.per.i3cs[i]
    emit (setI3c s i { x with rx := x.rx.drop 1 }) (.readData p (i3cReg i 0xC) (rxWord x.rx))

/-! ### GPIO (R407) -/

def gpioOut (hi : Bool) : Nat := if hi then 0x1D4004 else 0x1D4000
def gpioOe (hi : Bool) : Nat := if hi then 0x1D400C else 0x1D4008

/-- OUT and OE words put into place: the pins whose driven level changes are reported. -/
def setGpio (s : State) (hi : Bool) (out oe : Word) : State :=
  let was := regGet s (gpioOut hi)
  let drove := regGet s (gpioOe hi)
  let s := regSet (regSet s (gpioOut hi) out) (gpioOe hi) oe
  (List.finRange 32).foldl (fun s (b : Fin 32) =>
    if bit oe b.val ∧ (bit drove b.val = false ∨ bit out b.val ≠ bit was b.val) then
      emit s (.pin (.gpio (Fin.ofNat 64 (b.val + if hi then 32 else 0))) (bit out b.val))
    else s) s

/-- The OUT bits of a word of pins that OUT_CLR has cleared in this tick. -/
def clearedNow (s : State) (hi : Bool) : Word :=
  let c := s.per.gpioClr[if hi then (1 : Fin 2) else 0]
  if c.1 = s.now then c.2 else 0

/-- OUT_SET (R407): a bit that OUT_CLR names in the same tick stays clear. -/
def execOutSet (p : Party) (hi : Bool) (v : Word) (s : State) : Host.Outcome State Fault Refusal := inCore s fun s =>
  writeBy s p (if hi then 0x1D401C else 0x1D4018) fun s =>
    setGpio s hi (regGet s (gpioOut hi) ||| (v &&& ~~~clearedNow s hi)) (regGet s (gpioOe hi))

/-- OUT_CLR (R407). -/
def execOutClr (p : Party) (hi : Bool) (v : Word) (s : State) : Host.Outcome State Fault Refusal := inCore s fun s =>
  writeBy s p (if hi then 0x1D4024 else 0x1D4020) fun s =>
    let clr := vMod s.per.gpioClr (if hi then 1 else 0) fun _ => (s.now, clearedNow s hi ||| v)
    setGpio { s with per := { s.per with gpioClr := clr } } hi (regGet s (gpioOut hi) &&& ~~~v) (regGet s (gpioOe hi))

/-- GPIO_EDGE (R407): IN follows the pin when a pulse passes its filter; an edge of the kind EDGE selects raises the pin's source. -/
def execGpioEdge (i : Fin 64) (rising : Bool) (width : Nat) (s : State) : Host.Outcome State Fault Refusal := inCore s fun s =>
  let reg := if i.val < 32 then 0x1D4010 else 0x1D4014
  let cfg := regGet s (0x1D4100 + 4 * i.val)
  if width < 4 * field cfg 31 16 ∨ regBit s reg (i.val % 32) = rising then s
  else
    let s := regSet s reg (putBit (regGet s reg) (i.val % 32) rising)
    if bit cfg (if rising then 0 else 1) then sourceEdge s (192 + i.val) else s

end Sys2Proof.Machine
end

