-- ==== Sys2Proof/Machine/Pull.lean ====
section
/-! DEFINITION. The opcodes that pull units and records and work on surface handles (R367 to R369). -/

namespace Sys2Proof.Machine
open Sys2Proof

/-- WAIT of an entry (Table HQ-5). -/
def Cmd.wait (c : Cmd) : Bool := bit (BitVec.ofNat 32 c.flags) 2

/-- A command's segments of any total, or the failure completed (R347). -/
def cmdSpace (s : State) (q tag : Nat) (c : Cmd) (buf : HostBuf) (k : State → List (Nat × Nat) → State) : State :=
  match dataSegs c buf with
  | .bad off => completeField s q tag 0 off 0
  | .dma => completeDma s q tag
  | .ok l => k s l

/-- STREAM_PULL (R367). A pull that would wait during a drain completes at once (R374). (DEDUCED, log 36) -/
def execStreamPull (q tag : Nat) (buf : HostBuf) (s : State) : Host.Outcome State Fault Refusal :=
  inCore s fun s => asCommand s q tag 0x20 fun s x c =>
    cmdSpace s q tag c buf fun s segs =>
      match (List.finRange 4).find? (fun e => decide (e.val = c.arg0 % 4)),
          (List.finRange 16).find? (fun k => decide (k.val = c.arg0 / 4 % 16)) with
      | some e, some k =>
        let st := s.hev.streams[e][k]
        if st.ring ≠ [] ∧ (oldestPull s e k).isNone then pullUnits s e k q tag x.fn segs st
        else if c.wait ∧ s.mbx.drain.isNone then modCmd s q tag fun c => { c with waiting := true, segs := segs }
        else completeSt s q tag stSuccess
      | _, _ => s

/-- STATS_PULL (R368): room for at least one record. A pull that would wait during a drain completes at once (R374). (DEDUCED, log 36) -/
def execStatsPull (q tag : Nat) (buf : HostBuf) (s : State) : Host.Outcome State Fault Refusal :=
  inCore s fun s => asCommand s q tag 0x21 fun s x c =>
    cmdSpace s q tag c buf fun s segs =>
      let sgl := bit (BitVec.ofNat 32 c.flags) 3
      if segTotal segs < 30976 then completeField s q tag 0 (if sgl then 0x08 else 0x10) 0
      else match (List.finRange 8).find? fun n => decide (n.val = c.arg0 % 8) with
      | none => s
      | some n =>
        let seq := c.arg1 % 2 ^ 32
        match statAt s.rfe[n] seq with
        | .ahead =>
          if ¬ c.wait then completeSt s q tag stNotReady
          else if s.mbx.drain.isSome then completeSt s q tag stSuccess
          else modCmd s q tag fun c => { c with waiting := true, segs := segs }
        | _ => serveStat s n q tag x.fn segs seq

/-- SURF_ALLOC (R342, R369). -/
def execSurfAlloc (q tag : Nat) (s : State) : Host.Outcome State Fault Refusal :=
  inCore s fun s => asCommand s q tag 0x30 fun s x c =>
    if c.arg0 < 4096 ∨ c.arg0 > 1073741824 then completeField s q tag 0 0x18 0
    else match allocHandle s x.owner c.arg0 with
    | none => completeSt s q tag stExhausted
    | some (h, s) => complete s q tag stSuccess 0 (BitVec.ofNat 32 h) 0

/-- SURF_FREE (R203, R369). -/
def execSurfFree (q tag : Nat) (s : State) : Host.Outcome State Fault Refusal :=
  inCore s fun s => asCommand s q tag 0x31 fun s x c =>
    match freeHandle s x.owner (c.arg0 % 65536) with
    | none => completeField s q tag 0 0x18 0
    | some (later, s) => completeSt s q tag (if later then stDeferred else stSuccess)

/-- The bytes of a transfer from its length or its scatter list. -/
def spaceOf (s : State) (h off n : Nat) : Bool := match handleOf s h with
  | some x => decide (off + n ≤ x.size)
  | none => false

/-- SURF_READ (R202, R369): of a handle that the function held when the command was fetched. (DEDUCED, log 36) -/
def execSurfRead (q tag : Nat) (buf : HostBuf) (s : State) : Host.Outcome State Fault Refusal :=
  inCore s fun s => asCommand s q tag 0x32 fun s x c =>
    let h := c.arg0 % 65536
    if ¬ c.holds.contains h then completeField s q tag 0 0x18 0
    else cmdSpace s q tag c buf fun s segs =>
      let n := segTotal segs
      if ¬ spaceOf s h c.arg1 n then completeField s q tag 0 0x20 0
      else
        let s := scatter s x.fn segs (bufferBytes s h c.arg1 n)
        match badByteOf s q tag with
        | some off => complete s q tag stDataCorrupt 0 (BitVec.ofNat 32 (off / 64 * 64)) 0
        | none => complete s q tag stSuccess 0 (BitVec.ofNat 32 n) 0

/-- SURF_WRITE (R353, R369). -/
def execSurfWrite (q tag : Nat) (buf : HostBuf) (s : State) : Host.Outcome State Fault Refusal :=
  inCore s fun s => asCommand s q tag 0x33 fun s x c =>
    let h := c.arg0 % 65536
    if ¬ allocatedTo s x.owner h then completeField s q tag 0 0x18 0
    else cmdSpace s q tag c buf fun s segs =>
      let n := segTotal segs
      if ¬ spaceOf s h c.arg1 n then completeField s q tag 0 0x20 0
      else if referenced s h then completeSt s q tag stInService
      else match buf.data with
      | none => completeDma s q tag
      | some l => complete (writeBuffer s h c.arg1 (padTo n l)) q tag stSuccess 0 (BitVec.ofNat 32 n) 0

end Sys2Proof.Machine
end

