-- ==== Sys2Proof/Machine/Ref.lean ====
section
/-! DEFINITION. The commands of the REF block: frame starts, reference edges, loss, the shutter encoder (chapter 02). -/

namespace Sys2Proof.Machine
open Sys2Proof

/-- FRAME_START_ISSUE (R32, R42): a timed slot whose next cadence instant has come. -/
def execFrameStartIssue (n : Fin 8) (s : State) : Host.Outcome State Fault Refusal :=
  inCore s fun s => match (s.ref.slots[n]).next with
    | some t => if startDue s n then frameRequest s n t else s
    | none => s

/-- REF_EDGE (R43). -/
def execRefEdge (i : Fin 3) (s : State) : Host.Outcome State Fault Refusal := inCore s fun s => refEdge s i

/-- INPUT_LOST (R44). -/
def execInputLost (i : Fin 3) (s : State) : Host.Outcome State Fault Refusal :=
  inCore s fun s => if lossDue s i then loseInput s i else s

/-- QUADRATURE_TRANSITION (R49, R50). -/
def execQuadratureTransition (a b : Bool) (s : State) : Host.Outcome State Fault Refusal := inCore s fun s => quadrature s a b

/-- INDEX_PULSE (R51). -/
def execIndexPulse (s : State) : Host.Outcome State Fault Refusal := inCore s indexPulse

end Sys2Proof.Machine
end

