-- ==== Sys2Proof/Machine/PciCfg.lean ====
section
/-! DEFINITION. The PCIe configuration space of the functions (R339, R340) and reads of BAR4 (R341, R351). -/

namespace Sys2Proof.Machine
open Sys2Proof

/-- The identity of a function (Table HQ-1). -/
structure FnIdentity where
  vendor : Nat
  device : Nat
  revision : Nat
  classCode : Nat
  subsysVendor : Nat
  subsysId : Nat
  deriving DecidableEq, Repr

/-- A capability of a function's configuration space (Table HQ-2). -/
inductive Capability where
  /-- D0 and D3hot (R339). -/
  | powerManagement
  /-- An endpoint, with Function Level Reset, a largest payload of 512 bytes and a largest read request of 4,096 bytes. -/
  | pciExpress (flr : Bool) (maxPayload maxRead : Nat)
  | msix (vectors : Nat)
  | advancedErrorReporting
  | deviceSerialNumber
  | ari
  | srIov (totalVfs stride firstOffset : Nat)
  /-- Secondary PCIe, and the Physical Layer capabilities at 16.0, 32.0 and 64.0 GT/s. -/
  | secondaryPcie
  | physicalLayer (gts : Nat)
  /-- FLIT mode. -/
  | dataLinkFeature
  /-- The window pointers of Table HQ-3. -/
  | vendorSpecific
  deriving DecidableEq, Repr

/-- The identity of function `fn`: the subsystem IDs are those of the configuration area, or R475's defaults. -/
def identityOf (s : State) (fn : Nat) : FnIdentity :=
  let good := configGood s.sys.config
  { vendor := 0x1E7A, device := if fn = 0 then 0x9640 else 0x9641, revision := 1, classCode := 0x048000,
    subsysVendor := if good then leAt s.sys.config 8 2 else 0x1E7A, subsysId := if good then leAt s.sys.config 10 2 else 0 }

/-- The capabilities of function `fn` (Table HQ-2). -/
def capabilitiesOf (fn : Nat) : List Capability :=
  if fn = 0 then
    [.powerManagement, .pciExpress true 512 4096, .msix 128, .advancedErrorReporting, .deviceSerialNumber, .ari, .srIov 63 1 1,
      .secondaryPcie, .physicalLayer 16, .physicalLayer 32, .physicalLayer 64, .dataLinkFeature, .vendorSpecific]
  else [.pciExpress true 512 4096, .msix 64, .advancedErrorReporting, .ari, .vendorSpecific]

/-- A double word of a function's configuration space. The header has the layout of PCI Express; a word whose content
the spec does not state is a free value. (PRESUMED, log 44) -/
def configWord (s : State) (fn off : Nat) : Option Word :=
  let i := identityOf s fn
  if off = 0 then some (packFields [(16, i.device), (0, i.vendor)])
  else if off = 4 then some (packFields [(20, 1), (2, if s.hq.bme.toList.getD fn false then 1 else 0)])
  else if off = 8 then some (packFields [(8, i.classCode), (0, i.revision)])
  else if off = 0x2C then some (packFields [(16, i.subsysId), (0, i.subsysVendor)])
  else none

/-- A word of a function's PBA: bit `b` of word `w` is the pending bit of vector 32 w + b. -/
def pbaWord (s : State) (fn w : Nat) : Word :=
  BitVec.ofNat 32 (((List.range 32).map fun b =>
    if (mGet s.pba (fn * 128 + (32 * w + b))).getD false ∧ 32 * w + b < vectorsOf fn then 2 ^ b else 0).sum)

/-- A read of a function's MSI-X table or PBA in BAR4; the rest of BAR4 reads zero. -/
def readBar4 (s : State) (p : Party) (off : Nat) : State :=
  let fn := partyFn p
  emit s (.barData p .bar4 off
    (if off % 4 ≠ 0 then 0 else if off < 16 * vectorsOf fn then msixWord s fn off
     else if 0x2000 ≤ off ∧ off < 0x2000 + vectorsOf fn / 8 then pbaWord s fn ((off - 0x2000) / 4) else 0))

/-- A read of a function's configuration space, once the link is up (R477). (PRESUMED, log 44) -/
def readConfig (s : State) (p : Party) (off : Nat) : State :=
  if ¬ s.sys.pcieUp then s
  else match configWord s (partyFn p) off with
  | some w => emit s (.barData p .config off w)
  | none =>
    let (w, s) := freeWord s
    emit s (.barData p .config off w)

end Sys2Proof.Machine
end

