-- ==== Sys2Proof/Machine/Sys.lean ====
section
/-! DEFINITION. The start-up and reset family (R471 to R479). -/

namespace Sys2Proof.Machine
open Sys2Proof

/-- AON_RST_N rises: after group A power-on, or after the pin alone (R473, R476). (DEDUCED, log 40) -/
def execAonReset (groupA : Bool) (straps : BitVec 6) (f : Flash) (s : State) : Host.Outcome State Fault Refusal :=
  .next (endCycle s (startAon s groupA straps.toNat f))

/-- CORE_PG rises (R476). -/
def execCorePg (s : State) : Host.Outcome State Fault Refusal :=
  inAon s fun s =>
    if s.sys.pwrEn ∧ s.sys.pg = false then modSys s fun y => { y with pg := true, pgAt := s.now, attempts := 0 } else s

/-- Core reset is held 2 ms for PLL lock, then released (R476). -/
def execCoreResetRelease (s : State) : Host.Outcome State Fault Refusal :=
  inAon s fun s =>
    if s.sys.pwrEn ∧ s.sys.pg ∧ s.live = false ∧ s.now ≥ s.sys.pgAt + 2000000 then releaseCore s else s

/-- CORE_PG has not risen within 60 ms (R472). -/
def execCorePgTimeout (s : State) : Host.Outcome State Fault Refusal :=
  inCol s fun s =>
    if s.sys.pwrEn ∧ s.sys.pg = false ∧ aonDue s s.sys.enAt 60000000 then
      let n := s.sys.attempts + 1
      let s := addErrorLog (coreOff s s.sys.cause (decide (n < 3)))
      modSys s fun y => { y with attempts := n, gaveUp := decide (n ≥ 3) }
    else s

/-- CORE_PG falls while CORE_PWR_EN is high (R472). -/
def execCoreSupplyLoss (s : State) : Host.Outcome State Fault Refusal :=
  inAon s fun s => if s.sys.pwrEn ∧ s.sys.pg then coreOff s 5 true else s

/-- 100 ms after a core power drop, CORE_PWR_EN rises again (R472), unless it is held low (R458). -/
def execCoreRestart (s : State) : Host.Outcome State Fault Refusal :=
  inCol s fun s =>
    match s.sys.downAt with
    | some t => if aonDue s t 100000000 ∧ s.sys.gaveUp = false ∧ s.thm.hot = false then powerOn s else s
    | none => s

/-- Fjarera finishes boot (R476, R478): both of its slots bad end in BOOT_STATE 4. -/
def execReadiness (s : State) : Host.Outcome State Fault Refusal :=
  inCore s fun s =>
    if s.sys.trained = false ∨ s.sys.ready ∨ regField s 0x10 2 0 ≠ 2 then s
    else match bootSlot s 2 (regBit s 0x18 5) with
    | (s, some k) => becomeReady s k
    | (s, none) => regSet s 0x10 4

/-- A device reset (R479): domains 0 to 48, then the boot from the core's release on with core power kept. A fatal state does not end. (DEDUCED, log 41) -/
def deviceReset (s : State) : State :=
  let wasFatal := s.flt.fatal
  let s := coreReset s
  let s := releaseCore (modSys s fun y => { y with cause := 4 })
  { s with flt := { s.flt with fatal := wasFatal } }

/-- A write of SYS.RESET_CTL (Table SYS-19): by the PF with KEY and DEVICE_RESET; any other is ignored and counted. -/
def execDeviceReset (p : Party) (v : Word) (s : State) : Host.Outcome State Fault Refusal :=
  inCore s fun s =>
    match p with
    | .pf => if field v 31 16 = 0x5EC7 ∧ bit v 0 then deviceReset s else badAccess s
    | .vf _ => s
    | .smbus => s
    | .i3c => s
    | _ => badAccess s

end Sys2Proof.Machine
end

