-- ==== Sys2Proof/Machine/Views.lean ====
section
/-! DEFINITION. What the registers read that the model keeps as state of another form: read-only registers that follow the formes, links,
references, galley, magazine, encoders, queues, records, Colophon's window and the clocks. Every other register reads what `State.regs` holds. -/

namespace Sys2Proof.Machine
open Sys2Proof

/-- The index of an offset in a run of `n` registers, `stride` bytes apart from `base` on. -/
def idxAt (off base stride n : Nat) : Option Nat :=
  if off < base ∨ (off - base) % stride ≠ 0 ∨ (off - base) / stride ≥ n then none else some ((off - base) / stride)

/-- A flag as a number. -/
def flag (b : Bool) : Nat := if b then 1 else 0

/-- A rational rate in units of 10⁶, rounded down, as a word. -/
def mega (q : ℚ) : Word := BitVec.ofNat 32 (q / 1000000).floor.toNat

/-! ### FRM (Tables FRM-7, FRM-10) -/

/-- FRM.PENDINGi and its _ORD of the i-th Locked forme in application order. -/
def pendingWords (s : State) (i : Nat) : Word × Word :=
  match s.frm.lockedList[i]? with
  | none => (0, 0)
  | some n => match formeOf s n with
    | none => (0, 0)
    | some f => (packFields [(31, 1), (29, f.kind), (28, flag f.strict), (8, f.slot), (0, n)], f.ordinal)

def frmView (s : State) (off : Nat) : Option Word :=
  if off = 0x20010 then
    some (packFields [(24, s.frm.shown), (16, stagedCount s), (8, s.frm.lockedList.length), (0, flag (!s.frm.checking.isEmpty))])
  else if let some i := idxAt off 0x20040 8 4 then some (pendingWords s i).1
  else if let some i := idxAt off 0x20044 8 4 then some (pendingWords s i).2
  else if let some w := idxAt off 0x20110 0x20 5 then
    let held := ((formeOf s (regField s (stageReg w 0) 7 0)).map (·.writes.length)).getD 0
    some (packFields [(29, s.frm.stageErr.toList.getD w 0), (0, held)])
  else none

/-! ### REF (Table REF-5) -/

/-- REF.SLOTn_STATE: the slot's state, and OFF_RATE and VALID_RUN of the input that it follows. (DEDUCED, log 19) -/
def slotStateWord (s : State) (n : Fin 8) : Word :=
  let (off, run) := match inputOf (sourceNow s n) with
    | some i => ((s.ref.inputs[i]).offRate, (s.ref.inputs[i]).run)
    | none => (false, 0)
  packFields [(30, (s.ref.slots[n]).st.code), (29, flag off), (0, min 255 run)]

def refView (s : State) (off : Nat) : Option Word :=
  (idxAt off 0x40120 0x40 8).map fun n => slotStateWord s (slotOf n)

/-! ### LNK (Tables LNK-4, LNK-13) -/

def LinkSt.code : LinkSt → Nat
  | .disabled => 0
  | .config => 1
  | .locking => 2
  | .deskew => 3
  | .up => 4
  | .down => 5

/-- LNK.Lk_STATE: WIDTH_M1 and LOGICAL once the lane map is accepted. -/
def linkStateWord (s : State) (k : Fin 4) : Word :=
  let l := s.lnk.links[k]
  let lanes := if l.mapOk then lanesOf s k else []
  let width := (lanes.map fun (j : Fin 32) => (s.lnk.lanes[j]).width).foldl max 0
  let mask := ((List.range 8).filter fun i => lanes.any fun (j : Fin 32) => decide ((s.lnk.lanes[j]).logical = i)).map (2 ^ ·)
  packFields [(29, l.st.code), (24, (width - 1) % 8), (16, l.maxSkew % 256), (0, mask.sum)]

/-- LNK.LANEj_STATUS. -/
def laneStatusWord (s : State) (j : Fin 32) : Word :=
  let l := s.lnk.lanes[j]
  let k := laneAssigned s j
  packFields [(31, flag l.blockLock), (30, flag l.amLock), (29, flag l.invert), (28, flag k.isSome), (26, (k.map (·.val)).getD 0),
    (8, l.skew % 256), (0, l.logical % 8)]

def lnkView (s : State) (off : Nat) : Option Word :=
  if let some k := idxAt off 0x50010 0x100 4 then some (linkStateWord s (Fin.ofNat 4 k))
  else (idxAt off 0x51000 0x40 32).map fun j => laneStatusWord s (Fin.ofNat 32 j)

/-! ### IMP, GAL, MEM (Tables IMP-5, GAL-1, MEM-5) -/

/-- Handles in state FREE: handle 0 is none (R201). -/
def freeHandles (s : State) : Nat := 65535 - s.imp.handles.length

def impView (s : State) (off : Nat) : Option Word :=
  if off = 0xC1004 then some (BitVec.ofNat 32 (freeHandles s))
  else if off = 0xC100C then some (handleWord s (regField s 0xC1008 15 0))
  else none

/-- (DEDUCED, log 6) -/
def galView (s : State) (off : Nat) : Option Word :=
  if off = 0xD0040 then some (BitVec.ofNat 32 (galFill s))
  else if off = 0xD0044 then some (mega (govWrite s))
  else if off = 0xD0048 then some (mega (govInput s 0 (regField s (ratioReg 0) 15 0)))
  else if off = 0xD004C then some (BitVec.ofNat 32 (preRecFill s))
  else if off = 0xD0064 then some (BitVec.ofNat 32 (hostFill s))
  else none

def memView (s : State) (off : Nat) : Option Word :=
  if off = 0x17004C then some (BitVec.ofNat 32 (surfFreeMib s % 65536)) else none

/-! ### MAG (Table MAG-16) -/

/-- Data sectors of the mounted volume, and SEQ of its last durable unit. -/
def volSectors (s : State) : Nat := (s.mag.vol.map (·.sectors)).getD 0
def commitSeq (s : State) : Nat := (s.mag.vol.map (·.durableSeq)).getD 0

/-- MAG.WRITE_RATE: strips programmed in the last 250 ms, in MB/s. (DEDUCED, log 6; DEDUCED, log 27; DEDUCED, log 28) -/
def writeRate (s : State) : Word :=
  mega (4 * (((s.mag.rate.filter fun p => decide (s.now < p.1 + 250000000)).map (·.2)).sum : ℚ))

/-- (DEDUCED, log 6) -/
def magView (s : State) (off : Nat) : Option Word :=
  if off = 0xF0004 then some (magStateWord s)
  else if off = 0xF0018 then some (writeRate s)
  else if off = 0xF001C then some (BitVec.ofNat 32 (guarWrite4 s / 4))
  else if off = 0xF0020 then some (BitVec.ofNat 32 (guarRead4 s / 4))
  else none

/-! ### HEV (Table HEV-8) -/

/-- A forme that holds nothing: the configuration in force read as the checks read a forme's. -/
def emptyForme : Forme :=
  { st := .staged, owner := .fjarera, writes := [], objs := [], apply := 0, ordinal := 0, commitNo := 0, due := none }

def projNow (s : State) : Proj := { now := s, ahead := s, st := s, ident := 0, f := emptyForme }

/-- HEV.DEC_STATE: BUSY with the lowest session that has a picture to decode, and the open sessions. (DEDUCED, log 30) -/
def decWord (s : State) : Word :=
  let busy := (s.hev.sessions.filter fun p => !p.2.todo.isEmpty).head?.map (·.1)
  let mask := (s.hev.sessions.filter fun p => decide (p.1 < 16)).map fun p => 2 ^ p.1
  packFields [(31, flag busy.isSome), (16, busy.getD 0 % 16), (0, mask.sum % 65536)]

def hevView (s : State) (off : Nat) : Option Word :=
  if off = 0x111000 then some (decWord s)
  else match idxAt off 0x110004 0x40 4 with
  | some e => some (mega ((projNow s).coreLoad e))
  | none => match idxAt off 0x110000 0x40 4 with
  | some e => some (packFields [(31, flag (rowStream s ⟨e % 4, Nat.mod_lt e (by decide)⟩).isSome), (0, regField s off 3 0)])
  | none =>
    let r := off - 0x100000
    if 0x100000 ≤ off ∧ r < 0x10000 ∧ r % 0x4000 < 0x1000 ∧ r % 0x100 = 0x48 then
      some (packFields [(30, streamState s ⟨r / 0x4000 % 4, Nat.mod_lt _ (by decide)⟩ ⟨r % 0x4000 / 0x100 % 16, Nat.mod_lt _ (by decide)⟩),
        (0, regField s off 29 0)])
    else none

/-! ### NET (Table NET-2) -/

def netView (s : State) (off : Nat) : Option Word :=
  let i := (off - 0x141000) / 0x80
  if 0x141000 ≤ off ∧ off < 0x142800 ∧ off % 0x80 = 0x44 then
    (s.net.snds.toList[i]?).map fun x => packFields [(30, sndState s i x), (0, regField s off 15 0)]
  else none

/-! ### HQ, MBX (Tables HQ-11, HQ-12, MBX-8) -/

/-- The queue that a function has selected, when it owns it. -/
def selected (s : State) (fn : Nat) : Option Queue :=
  match queueOf s (regField s (fnReg fn 8) 11 0) with
  | some q => if q.fn = fn then some q else none
  | none => none

/-- The function window of a function: an offset in it. (DEDUCED, log 35) -/
def fnView (s : State) (fn r : Nat) : Option Word :=
  if r = 0 then
    let bme := s.hq.bme.toList.getD fn false
    let mine := (s.hq.queues.filter fun x => decide (x.2.fn = fn)).length
    some (packFields [(31, flag (bme && !fetchPaused s)), (30, flag (interrupted s)), (29, flag s.mbx.drain.isSome),
      (28, flag bme), (0, mine)])
  else if r = 0xC then
    some (match selected s fn with
      | none => 0
      | some q => packFields [(31, 1), (30, flag q.resetting.isSome), (29, flag q.halted), (27, q.cls), (26, flag q.bindMag),
          (0, q.sqHead)])
  else if r = 0x10 then some (BitVec.ofNat 32 (((selected s fn).map (·.cmds.length)).getD 0))
  else none

def hqView (s : State) (off : Nat) : Option Word :=
  if off = 0x181004 then some (BitVec.ofNat 32 (262144 - tagsTotal s))
  else if off = 0x181008 then some (BitVec.ofNat 32 (4096 - s.hq.queues.length))
  else if off < 0x180100 then fnView s 0 (off - 0x180000)
  else none

def mbxView (s : State) (off : Nat) : Option Word :=
  if off = 0x1C000 then some (packFields [(16, s.mbx.posted.length), (0, runCount s)]) else none

/-! ### FLT, THM (Tables FLT-8, THM-7) -/

/-- FLT.STATE. Control service is in its gap for good once it is lost (R429). -/
def fltStateWord (s : State) : Word :=
  packFields [(31, flag s.flt.fatal), (30, flag s.flt.controlLost), (29, flag (interrupted s)), (0, s.flt.queue.length)]

def fltView (s : State) (off : Nat) : Option Word :=
  if off = 0x1A0000 then some (fltStateWord s)
  else if off = 0x1A0014 then some (rolesWord s)
  else if off = 0x1A0024 then some (BitVec.ofNat 32 (min 0xFFFFFFFF ((s.now - s.flt.lastSwitch) / 1000000)))
  else none

def thmView (s : State) (off : Nat) : Option Word := if off = 0x1B0000 then some (thmState s) else none

/-! ### The value of a register -/

/-- What a register of the PF's map reads, but for the words of wide quantities and registers whose read has an effect. -/
def viewOf (s : State) (off : Nat) : Word :=
  let v := match off / 65536 with
    | 0x01 => mbxView s off
    | 0x02 => frmView s off
    | 0x04 => refView s off
    | 0x05 => lnkView s off
    | 0x0C => impView s off
    | 0x0D => galView s off
    | 0x0F => magView s off
    | 0x10 => hevView s off
    | 0x11 => hevView s off
    | 0x14 => netView s off
    | 0x17 => memView s off
    | 0x18 => hqView s off
    | 0x1A => fltView s off
    | 0x1B => thmView s off
    | _ => none
  v.getD (regGet s off)

/-! ### Wide quantities (R8) -/

/-- The wide quantity that a register is a word of: the offset of its lowest word, and its words. -/
def wideOf (off : Nat) : Option (Nat × Nat) :=
  let one := fun (base n : Nat) => if base ≤ off ∧ off < base + 4 * n ∧ off % 4 = 0 then some (base, n) else none
  let aud := 0x160040 + 0x100 * ((off - 0x160000) / 0x100)
  let per := 0x1D0000 + 0x100 * ((off - 0x1D0000) / 0x100)
  let txts := 0x150088 + 0x20 * ((off - 0x150080) / 0x20)
  if off < 0x40000 then one 0x34100 5
  else if off < 0x100000 then one 0xF0008 2 <|> one 0xF0010 2 <|> one 0xF0028 2
  else if off < 0x150000 then
    let snd := 0x141000 + 0x80 * ((off - 0x141000) / 0x80)
    if off < 0x140800 then
      let iface := 0x140014 + 0x400 * ((off - 0x140000) / 0x400) + 0x10 * ((off % 0x400 - 0x14) / 0x10)
      if 0x14 ≤ off % 0x400 ∧ off % 0x400 < 0x54 then one iface 2 else none
    else if 0x141000 ≤ off ∧ off < 0x142800 then one (snd + 0x10) 2 <|> one (snd + 0x20) 2
    else none
  else if off < 0x160000 then one 0x150000 4 <|> (if off < 0x1500C0 then one txts 4 else none) <|> one 0x150280 4
  else if off < 0x170000 then if off < 0x160800 then one aud 4 else none
  else if off < 0x1D0400 then (if 0x1D0000 ≤ off then one (per + 0x10) 2 <|> one (per + 0x20) 2 else none)
  else one 0x1D0800 2

/-- A number as two words. -/
def twoWords (n : Nat) : List Word := [BitVec.ofNat 32 n, BitVec.ofNat 32 (n / 2 ^ 32)]

/-- The words of a wide quantity now, for those that no FIFO holds. -/
def wideWords (s : State) (base n : Nat) : List Word :=
  if base = 0x150000 then
    [BitVec.ofNat 32 (ptpFrac (ptpTime s) * 65536), BitVec.ofNat 32 (ptpNs (ptpTime s)), BitVec.ofNat 32 (ptpSec (ptpTime s)),
      BitVec.ofNat 32 (ptpSec (ptpTime s) / 2 ^ 32 % 65536)]
  else if base = 0x1D0800 then twoWords (devTime s)
  else if base = 0xF0008 then twoWords (volSectors s)
  else if base = 0xF0010 then twoWords (freeSectors s)
  else if base = 0xF0028 then twoWords (commitSeq s)
  else regWords s base n

/-- A higher word of a party's capture; zero before its first (R8). -/
def captured (s : State) (p : Party) (base off : Nat) : Word :=
  (((mGet s.captures (wideKey p base)).getD [])[(off - base) / 4]?).getD 0

end Sys2Proof.Machine
end

