-- ==== Sys2Proof/Machine/Regs.lean ====
section
/-! DEFINITION. Register reads and writes (R6 to R9, R71, R261, R341, R377, R379, R397, R435): every register of the PF's map and of a VF's
window under its access code. A register with commands of its own does here what those commands do. -/

namespace Sys2Proof.Machine
open Sys2Proof

/-! ### Who reaches what -/

/-- An offset in the mailbox slots of the PF's map, and whose slot it is. -/
def slotOwner (off : Nat) : Option Party :=
  if 0x10000 ≤ off ∧ off < 0x18000 then some .pf
  else if 0x18000 ≤ off ∧ off < 0x1C000 then some (.user (Fin.ofNat 4 ((off - 0x18000) / 0x1000)))
  else none

/-- The staging window that an offset lies in. -/
def windowAt (off : Nat) : Option Nat := if 0x20100 ≤ off ∧ off < 0x201A0 then some ((off - 0x20100) / 0x20) else none

/-- A register of another party's mailbox slot (R377). -/
def foreignSlot (p : Party) (off : Nat) : Bool := (slotOwner off).any fun o => decide (o ≠ p)

/-- A register of another party's staging window (R71). (DEDUCED, log 7) -/
def foreignWindow (p : Party) (off : Nat) : Bool := (windowAt off).any fun w => decide (windowOf p ≠ some w)

/-- A read that is ignored and counted. A user core reads every register but other parties' mailbox slots (R397). (DEDUCED, log 7) -/
def readRefused (p : Party) (off : Nat) : Bool :=
  foreignSlot p off || (foreignWindow p off && match p with | .user _ => false | _ => true)

/-- Of the registers that only Fjarera writes, those whose other writes are counted: PIC_QP and PIC_TARGET (R261). -/
def fjareraCounted (off : Nat) : Bool := decide (off / 65536 = 0x10)

/-- The state a meaning answers with. -/
def after (o : Host.Outcome State Fault Refusal) (s : State) : State := match o with
  | .next t => t
  | _ => s

/-! ### Reads -/

/-- A register whose read takes an entry, or claims: its own command does so. (DEDUCED, log 7) -/
def readTakes (s : State) (p : Party) (off : Nat) : Option State :=
  if off = 0x34100 then some (after (execTsRead p s) s)
  else if off = 0x150280 then some (after (execEvtRead p s) s)
  else if let some k := idxAt off 0x150088 0x20 2 then some (after (execTxtsRead p (Fin.ofNat 2 k) s) s)
  else if let some i := idxAt off 0x1D1008 0x40 8 then some (after (execUartRxdataRead p (Fin.ofNat 8 i) s) s)
  else if let some i := idxAt off 0x1D200C 0x40 6 then some (after (execSpiRxdataRead p (Fin.ofNat 6 i) s) s)
  else if let some i := idxAt off 0x1D300C 0x100 4 then some (after (execI3cRxdataRead p (Fin.ofNat 4 i) s) s)
  else if let some i := idxAt off 0x1D3010 0x100 4 then some (after (execI3cIbiRead p (Fin.ofNat 4 i) s) s)
  else if let some u := idxAt off 0x192000 0x100 4 then some (after (execClaim p (Fin.ofNat 4 u) s) s)
  else none

/-- A read under the access code of the register at a key: WO and unassigned registers read zero; an RC register is cleared and keeps
what is counted in the cycle of the read; one whose reset value is not zero returns to it. -/
def readCode (s : State) (p : Party) (off key : Nat) (v : Word) (meanwhile : Nat) : State :=
  match rowOf key with
  | none => emit s (.readData p off 0)
  | some r => match r.acc with
    | .wo => emit s (.readData p off 0)
    | .woFj => emit s (.readData p off 0)
    | .rc => emit (regSet s key (if r.rst = 0 then satAdd 0 meanwhile else r.rst)) (.readData p off v)
    | _ => emit s (.readData p off v)

/-- A read by a virtual function of its own window (R341). (DEDUCED, log 7) -/
def readVf (s : State) (n : Fin 63) (off meanwhile : Nat) : State :=
  let p : Party := .vf n
  let key := regKey p off
  if off ≥ 0x10000 then s
  else
    let v := (if 0x8000 ≤ off then fnView s (n.val + 1) (off - 0x8000) else none).getD (regGet s key)
    readCode s p off key v meanwhile

/-- A read of a register by a party that reads the PF's map: the lowest word of a wide quantity captures it, the higher words are those of
the party's capture (R8). -/
def readMap (s : State) (p : Party) (off meanwhile : Nat) : State :=
  if readRefused p off then emit (badAccess s) (.readData p off 0)
  else if let some t := readTakes s p off then t
  else if let some (base, n) := wideOf off then
    if off = base then capture s p off (wideWords s base n) else emit s (.readData p off (captured s p base off))
  else if off / 65536 = 0x1C then
    let (v, t) := mgtRead s (winOf p) 0x1C (off % 65536) meanwhile
    emit t (.readData p off v)
  else readCode s p off off (viewOf s off) meanwhile

/-- A register read. The side-band copies read by Block Read (R463). (DEDUCED, log 7) -/
def readReg (s : State) (p : Party) (off meanwhile : Nat) : State :=
  match p with
  | .smbus => s
  | .i3c => s
  | .vf n => readVf s n off meanwhile
  | _ => readMap s p off meanwhile

/-! ### Writes -/

/-- A lower word of a wide quantity, held for the party until it writes the highest (R8). -/
def stageWord (s : State) (p : Party) (off : Nat) (v : Word) : State := { s with staged := mPut s.staged (wideKey p off) v }

/-- PER.Uu_MTIMECMP takes effect at its highest word; the machine timer interrupt follows it (R403). (DEDUCED, log 7) -/
def writeTimecmp (s : State) (p : Party) (u : Fin 4) (v : Word) : State :=
  let lo := stagedWord s p (userReg u 0x20)
  let s := regSet (regSet s (userReg u 0x20) lo) (userReg u 0x24) v
  modCore s u fun c => { c with timer := decide (devTime s ≥ lo.toNat + v.toNat * 2 ^ 32) }

/-- PTP.CTL: SERVO_EN going to 0 sets f to 0 (R318). (DEDUCED, log 7) -/
def writePtpCtl (s : State) (v : Word) : State :=
  let was := regBit s 0x150010 31
  let s := regSet s 0x150010 v
  if was ∧ ¬ bit v 31 then servoOff s else s

/-- PTP.EVTi_CFG: an input that is enabled starts afresh (R321). (DEDUCED, log 20) -/
def writeEvtCfg (s : State) (i : Nat) (v : Word) : State :=
  let was := regBit s (evtCfgReg i) 31
  let s := regSet s (evtCfgReg i) v
  if bit v 31 ∧ was = false then
    modEvt s i fun x => { x with lastEdge := none, since := s.now, periods := [], run := 0, lost := false }
  else s

/-- PER.Uu_CTL: LOAD, then RESET as written. -/
def writeUserCtl (s : State) (p : Party) (u : Fin 4) (v : Word) : State :=
  if bit v 1 then after (execLoad p u v s) s
  else if bit v 0 then after (execCoreReset p u v s) s
  else after (execCoreRelease p u v s) s

/-- A write to a mailbox slot by its owner: REQi only while the slot is IDLE (R379). -/
def writeSlot (s : State) (p : Party) (slot r : Nat) (v : Word) : State :=
  if r = 0 then mbxCtl s p slot v
  else if (idxAt r 0x100 4 64).isSome then
    if mbxState s p slot = 0 then regSet s (mbxBase p slot + r) v else count s (mbxBase p slot + 8)
  else s

/-- A write to a register of the blocks SYS to PTP that does more than hold the value. -/
def writeLow (s : State) (p : Party) (off : Nat) (v : Word) : Option State :=
  if off = 0x1C then some (after (execDeviceReset p v s) s)
  else if let some w := idxAt off 0x2010C 0x20 5 then some (after (execStageData p (Fin.ofNat 5 w) v s) s)
  else if let some k := idxAt off 0x5000C 0x100 4 then some (writeLkCtl s (Fin.ofNat 4 k) v)
  else if let some j := idxAt off 0x51004 0x40 32 then some (writeLaneTest s (Fin.ofNat 32 j) v)
  else if let some n := idxAt off 0x60100 0x200 8 then some (after (execMetaCommit p (Fin.ofNat 8 n) v s) s)
  else if off = 0x150010 then some (writePtpCtl s v)
  else if off = 0x150030 then some (stageWord s p off v)
  else if off = 0x150034 then some (after (execOffsetWrite p v s) s)
  else if let some i := idxAt off 0x150200 8 16 then some (writeEvtCfg s i v)
  else if let some n := idxAt off 0x150304 0x10 8 then some (after (execTcJam p (Fin.ofNat 8 n) v s) s)
  else if 0x120000 ≤ off ∧ off < 0x126000 then
    (idxAt (off % 0x1000) 0x10C 0x20 4).map fun q =>
      after (execPlaneHandleWrite p (Fin.ofNat 6 ((off - 0x120000) / 0x1000)) (Fin.ofNat 4 q) v s) s
  else none

/-- A write to a register of the blocks MEM to PER that does more than hold the value. -/
def writeHigh (s : State) (p : Party) (off : Nat) (v : Word) : Option State :=
  if 0x170010 ≤ off ∧ off < 0x170028 then some (if regBit s 0x170000 31 then badAccess s else regSet s off v)
  else if off = 0x180004 then some (after (execQreset 0 v s) s)
  else if off = 0x191180 then some (after (execSwset p v s) s)
  else if let some u := idxAt off 0x192004 0x100 4 then some (after (execEoi p (Fin.ofNat 4 u) v s) s)
  else if off = 0x1A0010 then some (after (execThreshWrite p v s) s)
  else if off / 65536 = 0x1C then some (if colServes s then sideWrite s p 0x1C (off % 65536) v else s)
  else if off < 0x1D0000 then none
  else if let some u := idxAt off 0x1D0000 0x100 4 then some (writeUserCtl s p (Fin.ofNat 4 u) v)
  else if (idxAt off 0x1D0020 0x100 4).isSome then some (stageWord s p off v)
  else if let some u := idxAt off 0x1D0024 0x100 4 then some (writeTimecmp s p (Fin.ofNat 4 u) v)
  else if off < 0x1D0400 then
    (idxAt (off % 0x100) 0x40 4 16).map fun w =>
      after (execHwinMap p (Fin.ofNat 4 ((off - 0x1D0000) / 0x100)) (Fin.ofNat 16 w) v s) s
  else if let some i := idxAt off 0x1D1004 0x40 8 then some (after (execUartTxdata p (Fin.ofNat 8 i) v s) s)
  else if let some i := idxAt off 0x1D2004 0x40 6 then some (after (execSpiTransfer p (Fin.ofNat 6 i) v s) s)
  else if let some i := idxAt off 0x1D2008 0x40 6 then some (after (execSpiTxdata p (Fin.ofNat 6 i) v s) s)
  else if let some i := idxAt off 0x1D3004 0x100 4 then some (after (execI3cCommand p (Fin.ofNat 4 i) v s) s)
  else if let some i := idxAt off 0x1D3008 0x100 4 then some (after (execI3cTxdata p (Fin.ofNat 4 i) v s) s)
  else if off = 0x1D4000 then some (setGpio s false v (regGet s (gpioOe false)))
  else if off = 0x1D4004 then some (setGpio s true v (regGet s (gpioOe true)))
  else if off = 0x1D4008 then some (setGpio s false (regGet s (gpioOut false)) v)
  else if off = 0x1D400C then some (setGpio s true (regGet s (gpioOut true)) v)
  else if off = 0x1D4018 then some (after (execOutSet p false v s) s)
  else if off = 0x1D401C then some (after (execOutSet p true v s) s)
  else if off = 0x1D4020 then some (after (execOutClr p false v s) s)
  else if off = 0x1D4024 then some (after (execOutClr p true v s) s)
  else (idxAt off 0x1D5000 4 8).map fun n => after (execStatsAck p (Fin.ofNat 8 n) v s) s

/-- A write that the register's party may make and whose register holds written values. -/
def writeHeld (s : State) (p : Party) (off : Nat) (v : Word) : State :=
  match slotOwner off with
  | some (.user u) => writeSlot s p ((off - 0x18000 - 0x1000 * u.val) / 0x400) (off % 0x400) v
  | some _ => writeSlot s p ((off - 0x10000) / 0x400) (off % 0x400) v
  | none => ((if off < 0x170000 then writeLow s p off v else writeHigh s p off v)).getD (regSet s off v)

/-- A write under the access code of a register, of a word whose bits `hw` hardware sets in the same cycle (R9). (DEDUCED, log 7) -/
def writeCode (s : State) (p : Party) (off : Nat) (v hw : Word) : State :=
  let acc : Option Acc := (rowOf off).map (·.acc)
  match acc with
  | none => s
  | some .ro => s
  | some .rc => s
  | some .fs => count s 0x20014
  | some .w1c => regSet s off ((regGet s off &&& ~~~v) ||| hw)
  | some .rwFj =>
    if p = .fjarera then regSet s off v else if fjareraCounted off then badAccess s else s
  | some .woFj => if p = .fjarera then (writeLow s p off v).getD s else s
  | _ => writeHeld s p off v

/-- A write to the PF's map (R9, R14): refused writes are ignored, and counted as their rules say. -/
def writeMap (s : State) (p : Party) (off : Nat) (v hw : Word) : State :=
  if foreignSlot p off ∨ foreignWindow p off then badAccess s
  else writeBy s p off fun s => writeCode s p off v hw

/-- A write by a virtual function to its own window (R341): its mailbox slots and its function window. (DEDUCED, log 7) -/
def writeVf (s : State) (n : Fin 63) (off : Nat) (v hw : Word) : State :=
  let p : Party := .vf n
  let key := regKey p off
  if off < 0x8000 then writeSlot s p (off / 0x400) (off % 0x400) v
  else if off = 0x8004 then after (execQreset (Fin.ofNat 64 (n.val + 1)) v s) s
  else if off = 0x8008 then regSet s key v
  else if off = 0x801C then regSet s key ((regGet s key &&& ~~~v) ||| hw)
  else s

/-- A register write. The side-band copies write by Block Write (R463). (DEDUCED, log 7) -/
def writeReg (s : State) (p : Party) (off : Nat) (v hw : Word) : State :=
  match p with
  | .smbus => s
  | .i3c => s
  | .vf n => writeVf s n off v hw
  | _ => writeMap s p off v hw

/-- A user core's store (R16, R395): the BAR0 map lies at 0x0_4000_0000 of its address space. -/
def storeCore (s : State) (u : Fin 4) (addr : Nat) (v : Word) (ecc : Ecc) : State :=
  if ¬ userRuns s u then s
  else match coreAt s u addr 4 with
  | .bar0 off => writeReg s (.user u) off v 0
  | _ => coreStore s u addr v ecc

/-- A user core's load (R16, R395). -/
def loadCore (s : State) (u : Fin 4) (addr : Nat) (ecc : Ecc) : State :=
  if ¬ userRuns s u then s
  else match coreAt s u addr 4 with
  | .bar0 off => readReg s (.user u) off 0
  | _ => coreLoad s u addr ecc

/-- REGISTER_WRITE (R7, R9, R14): to a register of BAR0, to a word of the function's MSI-X table in BAR4 (R341, R351), or by a user core's
firmware anywhere in its address space (R395). -/
def execRegisterWrite (p : Party) (bar : Bar) (off : Nat) (v : Word) (s : State) : Host.Outcome State Fault Refusal :=
  inCore s fun s => match bar, p with
    | .bar0, _ => writeReg s p off v 0
    | .bar4, .pf => writeMsix s 0 off v
    | .bar4, .vf n => writeMsix s (n.val + 1) off v
    | .core ecc, .user u => storeCore s u off v ecc
    | _, _ => s

/-- UNALIGNED_ACCESS (R6): counted, and a read returns zero; an aligned access of 32 bits is none. -/
def execUnalignedAccess (p : Party) (off bytes : Nat) (isRead : Bool) (s : State) : Host.Outcome State Fault Refusal :=
  inCore s fun s =>
    if off % 4 = 0 ∧ bytes = 4 then s
    else if isRead then emit (badAccess s) (.readData p off 0)
    else badAccess s

/-- LOWEST_WORD_READ (R8): of a register of BAR0, by a function of a word of its MSI-X table, its PBA or its configuration space
(R340, R341), or by a user core's firmware anywhere in its address space (R395). -/
def execLowestWordRead (p : Party) (bar : Bar) (off : Nat) (s : State) : Host.Outcome State Fault Refusal :=
  inCore s fun s => match bar, p with
    | .bar0, _ => readReg s p off 0
    | .bar4, .pf => readBar4 s p off
    | .bar4, .vf _ => readBar4 s p off
    | .config, .pf => readConfig s p off
    | .config, .vf _ => readConfig s p off
    | .core ecc, .user u => loadCore s u off ecc
    | _, _ => s

/-- HIGHEST_WORD_WRITE (R8): with the lower words that the party has staged. -/
def execHighestWordWrite (p : Party) (off : Nat) (v : Word) (s : State) : Host.Outcome State Fault Refusal :=
  inCore s fun s => writeReg s p off v 0

/-- RC_READ (R9); `meanwhile` events are counted in the cycle of the read. -/
def execRcRead (p : Party) (off meanwhile : Nat) (s : State) : Host.Outcome State Fault Refusal :=
  inCore s fun s => readReg s p off meanwhile

/-- W1C_WRITE (R9): to a W1C register; a bit that hardware sets in the same cycle stays set. -/
def execW1cWrite (p : Party) (off : Nat) (v hw : Word) (s : State) : Host.Outcome State Fault Refusal :=
  inCore s fun s =>
    if (rowOf (regKey p off)).any (fun r => decide (r.acc = .w1c)) then writeReg s p off v hw else s

/-- STRAY_WRITE (R9): to a forme-staged register outside a forme. -/
def execStrayWrite (p : Party) (off : Nat) (v : Word) (s : State) : Host.Outcome State Fault Refusal :=
  inCore s fun s => if isFs off then writeReg s p off v 0 else s

end Sys2Proof.Machine
end

