-- ==== Sys2Proof/Machine/Thm.lean ====
section
/-! DEFINITION. The thermal family (R452 to R458): conversions, rates, supplies, cooling down, and core power off. -/

namespace Sys2Proof.Machine
open Sys2Proof

/-- The conversions of one millisecond (R452, R454, R455). -/
def execTempConversion (v : Vector (Option Int) 28) (s : State) : Host.Outcome State Fault Refusal :=
  inAon s fun s => if aonDue s s.thm.convAt 1000000 then conversions s v else s

/-- The rates of ten milliseconds (R454). -/
def execRateEvaluation (s : State) : Host.Outcome State Fault Refusal :=
  inAon s fun s => if aonDue s s.thm.rateAt 10000000 then rates s else s

/-- A supply sample (R453). -/
def execSupplySample (m : Fin 14) (v : BitVec 16) (s : State) : Host.Outcome State Fault Refusal :=
  inAon s fun s => if aonDue s s.thm.sampleAt[m] 1000000 then supplySample s m v.toNat else s

/-- Sensor 27 has read below 90.0 °C for 10 s after a thermal shutdown: core power returns (R458). -/
def execCooldown (s : State) : Host.Outcome State Fault Refusal :=
  inCol s fun s =>
    match s.thm.coolSince with
    | some t =>
      if s.thm.hot ∧ aonDue s t 10000000000 ∧ s.sys.pwrEn = false ∧ s.sys.gaveUp = false then
        powerOn (modThm s fun x => { x with hot := false })
      else s
    | none => s

/-- 2 ms after a shutdown condition, CORE_PWR_EN goes low (R457). -/
def execThermalCorePowerOff (s : State) : Host.Outcome State Fault Refusal :=
  inAon s fun s =>
    match s.thm.shutAt with
    | some t => if aonDue s t 2000000 then coreOff s 3 false else s
    | none => s

end Sys2Proof.Machine
end

