-- ==== Sys2Proof/Machine/Dispatch.lean ====
section
/-! DEFINITION. Which meaning each command has: one arm per constructor of `Instr`. -/

namespace Sys2Proof.Machine
open Sys2Proof

def exec (i : Instr) (s : State) : Host.Outcome State Fault Refusal :=
  match i with
  | .registerWrite p bar off v => Sys2Proof.Machine.execRegisterWrite p bar off v s
  | .unalignedAccess p off bytes isRead => Sys2Proof.Machine.execUnalignedAccess p off bytes isRead s
  | .lowestWordRead p bar off => Sys2Proof.Machine.execLowestWordRead p bar off s
  | .highestWordWrite p off v => Sys2Proof.Machine.execHighestWordWrite p off v s
  | .rcRead p off meanwhile => Sys2Proof.Machine.execRcRead p off meanwhile s
  | .w1cWrite p off v hw => Sys2Proof.Machine.execW1cWrite p off v hw s
  | .strayWrite p off v => Sys2Proof.Machine.execStrayWrite p off v s
  | .frameStartIssue n => Sys2Proof.Machine.execFrameStartIssue n s
  | .refEdge i1 => Sys2Proof.Machine.execRefEdge i1 s
  | .inputLost i1 => Sys2Proof.Machine.execInputLost i1 s
  | .quadratureTransition a b => Sys2Proof.Machine.execQuadratureTransition a b s
  | .indexPulse => Sys2Proof.Machine.execIndexPulse s
  | .phaseFretDue n k => Sys2Proof.Machine.execPhaseFretDue n k s
  | .applyForme n k => Sys2Proof.Machine.execApplyForme n k s
  | .sendExposure n k => Sys2Proof.Machine.execSendExposure n k s
  | .statsOpen n k => Sys2Proof.Machine.execStatsOpen n k s
  | .statsClose n k => Sys2Proof.Machine.execStatsClose n k s
  | .timestamp n k => Sys2Proof.Machine.execTimestamp n k s
  | .memRetrain n k => Sys2Proof.Machine.execMemRetrain n k s
  | .encStart n k => Sys2Proof.Machine.execEncStart n k s
  | .raiseIrq n k => Sys2Proof.Machine.execRaiseIrq n k s
  | .tempBand n k => Sys2Proof.Machine.execTempBand n k s
  | .eventOut n k => Sys2Proof.Machine.execEventOut n k s
  | .nop n k => Sys2Proof.Machine.execNop n k s
  | .eventOutEnd o => Sys2Proof.Machine.execEventOutEnd o s
  | .tsRead p => Sys2Proof.Machine.execTsRead p s
  | .formeOpen p slot => Sys2Proof.Machine.execFormeOpen p slot s
  | .formeWrite p slot buf => Sys2Proof.Machine.execFormeWrite p slot buf s
  | .formeLoad p slot buf => Sys2Proof.Machine.execFormeLoad p slot buf s
  | .formeLock p slot => Sys2Proof.Machine.execFormeLock p slot s
  | .lockupComplete f => Sys2Proof.Machine.execLockupComplete f s
  | .formeDiscard p slot => Sys2Proof.Machine.execFormeDiscard p slot s
  | .formeQuery p slot => Sys2Proof.Machine.execFormeQuery p slot s
  | .stageData p w data => Sys2Proof.Machine.execStageData p w data s
  | .linkConfigSend k => Sys2Proof.Machine.execLinkConfigSend k s
  | .cdrLock j => Sys2Proof.Machine.execCdrLock j s
  | .blockReceived j hdr payload reads => Sys2Proof.Machine.execBlockReceived j hdr payload reads s
  | .amReceived j inverted lane widthM1 seq reads => Sys2Proof.Machine.execAmReceived j inverted lane widthM1 seq reads s
  | .bringupFail k => Sys2Proof.Machine.execBringupFail k s
  | .retrain p k v => Sys2Proof.Machine.execRetrain p k v s
  | .linkReconfig k => Sys2Proof.Machine.execLinkReconfig k s
  | .linkDisable k => Sys2Proof.Machine.execLinkDisable k s
  | .bcDelayMeasure k => Sys2Proof.Machine.execBcDelayMeasure k s
  | .echo k rtt => Sys2Proof.Machine.execEcho k rtt s
  | .pingTimeout k seq => Sys2Proof.Machine.execPingTimeout k seq s
  | .statusBlock k => Sys2Proof.Machine.execStatusBlock k s
  | .linePacket k drained fault => Sys2Proof.Machine.execLinePacket k drained fault s
  | .frameTimeout n => Sys2Proof.Machine.execFrameTimeout n s
  | .frameSealed n ord => Sys2Proof.Machine.execFrameSealed n ord s
  | .capability k => Sys2Proof.Machine.execCapability k s
  | .capRequestTimeout n => Sys2Proof.Machine.execCapRequestTimeout n s
  | .regResponse k => Sys2Proof.Machine.execRegResponse k s
  | .regAccessTimeout n => Sys2Proof.Machine.execRegAccessTimeout n s
  | .sensorEvent k => Sys2Proof.Machine.execSensorEvent k s
  | .prbsCheck p j v => Sys2Proof.Machine.execPrbsCheck p j v s
  | .nearEndSerial p j v => Sys2Proof.Machine.execNearEndSerial p j v s
  | .nearEndParallel p j v => Sys2Proof.Machine.execNearEndParallel p j v s
  | .farEndLoopback p j v => Sys2Proof.Machine.execFarEndLoopback p j v s
  | .testOff p j v => Sys2Proof.Machine.execTestOff p j v s
  | .eqAdapt j => Sys2Proof.Machine.execEqAdapt j s
  | .metaCommit p n v => Sys2Proof.Machine.execMetaCommit p n v s
  | .statsAck p n v => Sys2Proof.Machine.execStatsAck p n v s
  | .lutScrub corrected bad => Sys2Proof.Machine.execLutScrub corrected bad s
  | .surfaceComplete k => Sys2Proof.Machine.execSurfaceComplete k s
  | .governorDecision n => Sys2Proof.Machine.execGovernorDecision n s
  | .unitBegin batch => Sys2Proof.Machine.execUnitBegin batch s
  | .stripProgrammed seq kind ok die damage lost => Sys2Proof.Machine.execStripProgrammed seq kind ok die damage lost s
  | .blockErase die ok damage lost => Sys2Proof.Machine.execBlockErase die ok damage lost s
  | .sectorRead vsa die levels good rebuilt => Sys2Proof.Machine.execSectorRead vsa die levels good rebuilt s
  | .dieSilent die lost => Sys2Proof.Machine.execDieSilent die lost s
  | .inserted => Sys2Proof.Machine.execInserted s
  | .vccGoodTimeout => Sys2Proof.Machine.execVccGoodTimeout s
  | .ejectButton => Sys2Proof.Machine.execEjectButton s
  | .ejectUnmount => Sys2Proof.Machine.execEjectUnmount s
  | .presenceRemoved => Sys2Proof.Machine.execPresenceRemoved s
  | .removed present latch => Sys2Proof.Machine.execRemoved present latch s
  | .pwrFail => Sys2Proof.Machine.execPwrFail s
  | .pwrFailClear => Sys2Proof.Machine.execPwrFailClear s
  | .zqCalibration => Sys2Proof.Machine.execZqCalibration s
  | .patrolScrub die block ns moved => Sys2Proof.Machine.execPatrolScrub die block ns moved s
  | .readDisturbScrub die reads ns moved => Sys2Proof.Machine.execReadDisturbScrub die reads ns moved s
  | .staticWearLevelling die spread ns moved => Sys2Proof.Machine.execStaticWearLevelling die spread ns moved s
  | .reclamation die free ns moved => Sys2Proof.Machine.execReclamation die free ns moved s
  | .parityRebuild die ns => Sys2Proof.Machine.execParityRebuild die ns s
  | .powerTransition => Sys2Proof.Machine.execPowerTransition s
  | .ctuRow e ctus sei hdr fault => Sys2Proof.Machine.execCtuRow e ctus sei hdr fault s
  | .rateDecision e k => Sys2Proof.Machine.execRateDecision e k s
  | .pictureDecoded i1 d fault => Sys2Proof.Machine.execPictureDecoded i1 d fault s
  | .headFrameStart h late => Sys2Proof.Machine.execHeadFrameStart h late s
  | .latchInstant h => Sys2Proof.Machine.execLatchInstant h s
  | .planeHandleWrite p h q v => Sys2Proof.Machine.execPlaneHandleWrite p h q v s
  | .edpHpd p high lost => Sys2Proof.Machine.execEdpHpd p high lost s
  | .linkTraining p lanes rate psr setup tries => Sys2Proof.Machine.execLinkTraining p lanes rate psr setup tries s
  | .videoPacket i1 => Sys2Proof.Machine.execVideoPacket i1 s
  | .audioPacket i1 => Sys2Proof.Machine.execAudioPacket i1 s
  | .timecodePacket i1 => Sys2Proof.Machine.execTimecodePacket i1 s
  | .ethFrameReceived p f l => Sys2Proof.Machine.execEthFrameReceived p f l s
  | .ethLinkDown p f => Sys2Proof.Machine.execEthLinkDown p f s
  | .ethLinkUp p f fec => Sys2Proof.Machine.execEthLinkUp p f fec s
  | .fecUncorr p f => Sys2Proof.Machine.execFecUncorr p f s
  | .ptpMessageSent p f ident l => Sys2Proof.Machine.execPtpMessageSent p f ident l s
  | .txtsRead p k => Sys2Proof.Machine.execTxtsRead p k s
  | .offsetWrite p v => Sys2Proof.Machine.execOffsetWrite p v s
  | .ofsTimeout => Sys2Proof.Machine.execOfsTimeout s
  | .eventEdge i1 rising width => Sys2Proof.Machine.execEventEdge i1 rising width s
  | .evtInputLost i1 => Sys2Proof.Machine.execEvtInputLost i1 s
  | .evtRead p => Sys2Proof.Machine.execEvtRead p s
  | .tcJam p n v => Sys2Proof.Machine.execTcJam p n v s
  | .audioFrame a low high bclk width => Sys2Proof.Machine.execAudioFrame a low high bclk width s
  | .audioPortLost a => Sys2Proof.Machine.execAudioPortLost a s
  | .syntheticBlock a => Sys2Proof.Machine.execSyntheticBlock a s
  | .sqTailDoorbell f q v => Sys2Proof.Machine.execSqTailDoorbell f q v s
  | .cqHeadDoorbell f q v => Sys2Proof.Machine.execCqHeadDoorbell f q v s
  | .fetch q entry => Sys2Proof.Machine.execFetch q entry s
  | .magRead q tag buf => Sys2Proof.Machine.execMagRead q tag buf s
  | .magWrite q tag buf => Sys2Proof.Machine.execMagWrite q tag buf s
  | .writeAccepted q tag => Sys2Proof.Machine.execWriteAccepted q tag s
  | .magFlush q tag => Sys2Proof.Machine.execMagFlush q tag s
  | .magTrim q tag => Sys2Proof.Machine.execMagTrim q tag s
  | .jobSubmit q tag buf => Sys2Proof.Machine.execJobSubmit q tag buf s
  | .jobAdmit q tag => Sys2Proof.Machine.execJobAdmit q tag s
  | .hostJobFrameStart q tag c raw info => Sys2Proof.Machine.execHostJobFrameStart q tag c raw info s
  | .hostJobFrameDone q tag fault => Sys2Proof.Machine.execHostJobFrameDone q tag fault s
  | .streamPull q tag buf => Sys2Proof.Machine.execStreamPull q tag buf s
  | .statsPull q tag buf => Sys2Proof.Machine.execStatsPull q tag buf s
  | .surfAlloc q tag => Sys2Proof.Machine.execSurfAlloc q tag s
  | .surfFree q tag => Sys2Proof.Machine.execSurfFree q tag s
  | .surfRead q tag buf => Sys2Proof.Machine.execSurfRead q tag buf s
  | .surfWrite q tag buf => Sys2Proof.Machine.execSurfWrite q tag buf s
  | .decOpen q tag buf pic => Sys2Proof.Machine.execDecOpen q tag buf pic s
  | .decPicture q tag buf => Sys2Proof.Machine.execDecPicture q tag buf s
  | .decClose q tag => Sys2Proof.Machine.execDecClose q tag s
  | .aggTimeExpiry q => Sys2Proof.Machine.execAggTimeExpiry q s
  | .vectorUnmask f vec v => Sys2Proof.Machine.execVectorUnmask f vec v s
  | .qreset f v => Sys2Proof.Machine.execQreset f v s
  | .resetHold q => Sys2Proof.Machine.execResetHold q s
  | .abortedCompletion q tag => Sys2Proof.Machine.execAbortedCompletion q tag s
  | .flr f => Sys2Proof.Machine.execFlr f s
  | .pcieReset cause => Sys2Proof.Machine.execPcieReset cause s
  | .pcieLinkTraining rate width flit l0p => Sys2Proof.Machine.execPcieLinkTraining rate width flit l0p s
  | .go p slot v => Sys2Proof.Machine.execGo p slot v s
  | .ack p slot v => Sys2Proof.Machine.execAck p slot v s
  | .identify p slot => Sys2Proof.Machine.execIdentify p slot s
  | .vfQuota p slot => Sys2Proof.Machine.execVfQuota p slot s
  | .queueCreate p slot => Sys2Proof.Machine.execQueueCreate p slot s
  | .queueDelete p slot => Sys2Proof.Machine.execQueueDelete p slot s
  | .ptpConfig p slot => Sys2Proof.Machine.execPtpConfig p slot s
  | .ptpSetTime p slot => Sys2Proof.Machine.execPtpSetTime p slot s
  | .ptpStatus p slot => Sys2Proof.Machine.execPtpStatus p slot s
  | .sensorCap p slot => Sys2Proof.Machine.execSensorCap p slot s
  | .sensorReg p slot buf ans => Sys2Proof.Machine.execSensorReg p slot buf ans s
  | .handleAlloc p slot => Sys2Proof.Machine.execHandleAlloc p slot s
  | .handleFree p slot => Sys2Proof.Machine.execHandleFree p slot s
  | .handleQuery p slot => Sys2Proof.Machine.execHandleQuery p slot s
  | .takeStart p slot => Sys2Proof.Machine.execTakeStart p slot s
  | .takeStop p slot => Sys2Proof.Machine.execTakeStop p slot s
  | .takeInfo p slot buf => Sys2Proof.Machine.execTakeInfo p slot buf s
  | .volumeFormat p slot => Sys2Proof.Machine.execVolumeFormat p slot s
  | .magPower p slot => Sys2Proof.Machine.execMagPower p slot s
  | .magEject p slot => Sys2Proof.Machine.execMagEject p slot s
  | .streamSei p slot => Sys2Proof.Machine.execStreamSei p slot s
  | .streamHeaders p slot buf => Sys2Proof.Machine.execStreamHeaders p slot buf s
  | .edpAux p slot ack relinks => Sys2Proof.Machine.execEdpAux p slot ack relinks s
  | .sdpGet p slot buf => Sys2Proof.Machine.execSdpGet p slot buf s
  | .laneTest p slot => Sys2Proof.Machine.execLaneTest p slot s
  | .memTest p slot failed first => Sys2Proof.Machine.execMemTest p slot failed first s
  | .blackCal p slot buf => Sys2Proof.Machine.execBlackCal p slot buf s
  | .logGet p slot buf => Sys2Proof.Machine.execLogGet p slot buf s
  | .fwDownload p slot buf => Sys2Proof.Machine.execFwDownload p slot buf s
  | .fwActivate p slot b => Sys2Proof.Machine.execFwActivate p slot b s
  | .drill p slot b => Sys2Proof.Machine.execDrill p slot b s
  | .thmAck p slot => Sys2Proof.Machine.execThmAck p slot s
  | .drainTimeout => Sys2Proof.Machine.execDrainTimeout s
  | .load p u v => Sys2Proof.Machine.execLoad p u v s
  | .loadComplete u bad => Sys2Proof.Machine.execLoadComplete u bad s
  | .coreReset p u v => Sys2Proof.Machine.execCoreReset p u v s
  | .coreRelease p u v => Sys2Proof.Machine.execCoreRelease p u v s
  | .hwinMap p u w v => Sys2Proof.Machine.execHwinMap p u w v s
  | .accessFault u cause addr bad => Sys2Proof.Machine.execAccessFault u cause addr bad s
  | .machineTimer u => Sys2Proof.Machine.execMachineTimer u s
  | .uartTxdata p i1 v => Sys2Proof.Machine.execUartTxdata p i1 v s
  | .uartTxByte i1 => Sys2Proof.Machine.execUartTxByte i1 s
  | .uartRxByte i1 b parity framing brk => Sys2Proof.Machine.execUartRxByte i1 b parity framing brk s
  | .uartRxdataRead p i1 => Sys2Proof.Machine.execUartRxdataRead p i1 s
  | .spiTxdata p i1 v => Sys2Proof.Machine.execSpiTxdata p i1 v s
  | .spiTransfer p i1 v => Sys2Proof.Machine.execSpiTransfer p i1 v s
  | .spiDone i1 l => Sys2Proof.Machine.execSpiDone i1 l s
  | .spiRxdataRead p i1 => Sys2Proof.Machine.execSpiRxdataRead p i1 s
  | .i3cTxdata p i1 v => Sys2Proof.Machine.execI3cTxdata p i1 v s
  | .i3cCommand p i1 v => Sys2Proof.Machine.execI3cCommand p i1 v s
  | .i3cDone i1 e l => Sys2Proof.Machine.execI3cDone i1 e l s
  | .ibi i1 addr l => Sys2Proof.Machine.execIbi i1 addr l s
  | .hotJoin i1 => Sys2Proof.Machine.execHotJoin i1 s
  | .i3cIbiRead p i1 => Sys2Proof.Machine.execI3cIbiRead p i1 s
  | .i3cRxdataRead p i1 => Sys2Proof.Machine.execI3cRxdataRead p i1 s
  | .outSet p hi v => Sys2Proof.Machine.execOutSet p hi v s
  | .outClr p hi v => Sys2Proof.Machine.execOutClr p hi v s
  | .gpioEdge i1 rising width => Sys2Proof.Machine.execGpioEdge i1 rising width s
  | .sourceEdge i1 => Sys2Proof.Machine.execSourceEdge i1 s
  | .swset p v => Sys2Proof.Machine.execSwset p v s
  | .claim p u => Sys2Proof.Machine.execClaim p u s
  | .eoi p u v => Sys2Proof.Machine.execEoi p u v s
  | .threshWrite p v => Sys2Proof.Machine.execThreshWrite p v s
  | .controlCoreFault k trap b => Sys2Proof.Machine.execControlCoreFault k trap b s
  | .heartbeatTimeout k b => Sys2Proof.Machine.execHeartbeatTimeout k b s
  | .selfTest k pass => Sys2Proof.Machine.execSelfTest k pass s
  | .checkpoint => Sys2Proof.Machine.execCheckpoint s
  | .drillOverdue => Sys2Proof.Machine.execDrillOverdue s
  | .training failed => Sys2Proof.Machine.execTraining failed s
  | .retrainingStep => Sys2Proof.Machine.execRetrainingStep s
  | .retrainForced c => Sys2Proof.Machine.execRetrainForced c s
  | .refresh c b busy => Sys2Proof.Machine.execRefresh c b busy s
  | .activate c b r => Sys2Proof.Machine.execActivate c b r s
  | .memRead a fails ecc u who wait => Sys2Proof.Machine.execMemRead a fails ecc u who wait s
  | .memWrite a whole fails u wait => Sys2Proof.Machine.execMemWrite a whole fails u wait s
  | .memScrub a ecc wait => Sys2Proof.Machine.execMemScrub a ecc wait s
  | .tempConversion v => Sys2Proof.Machine.execTempConversion v s
  | .rateEvaluation => Sys2Proof.Machine.execRateEvaluation s
  | .cooldown => Sys2Proof.Machine.execCooldown s
  | .supplySample m v => Sys2Proof.Machine.execSupplySample m v s
  | .logSecond => Sys2Proof.Machine.execLogSecond s
  | .sidebandWrite i3c good blk off v => Sys2Proof.Machine.execSidebandWrite i3c good blk off v s
  | .sidebandReadAddress i3c good blk off => Sys2Proof.Machine.execSidebandReadAddress i3c good blk off s
  | .sidebandRead i3c good => Sys2Proof.Machine.execSidebandRead i3c good s
  | .setEndpointId pcie good eid => Sys2Proof.Machine.execSetEndpointId pcie good eid s
  | .getEndpointId pcie good => Sys2Proof.Machine.execGetEndpointId pcie good s
  | .getMctpVersionSupport pcie good ty => Sys2Proof.Machine.execGetMctpVersionSupport pcie good ty s
  | .getMessageTypeSupport pcie good => Sys2Proof.Machine.execGetMessageTypeSupport pcie good s
  | .setEventReceiver pcie good addr => Sys2Proof.Machine.execSetEventReceiver pcie good addr s
  | .pldmPlatformMonitoring pcie good id thresholds => Sys2Proof.Machine.execPldmPlatformMonitoring pcie good id thresholds s
  | .pldmFirmwareUpdate pcie good comp part last => Sys2Proof.Machine.execPldmFirmwareUpdate pcie good comp part last s
  | .activateFirmware pcie good comp b => Sys2Proof.Machine.execActivateFirmware pcie good comp b s
  | .readLog p v => Sys2Proof.Machine.execReadLog p v s
  | .writeImage p v => Sys2Proof.Machine.execWriteImage p v s
  | .finish p v => Sys2Proof.Machine.execFinish p v s
  | .abort p v => Sys2Proof.Machine.execAbort p v s
  | .dwData p v => Sys2Proof.Machine.execDwData p v s
  | .healthTimeout fjarera healthy => Sys2Proof.Machine.execHealthTimeout fjarera healthy s
  | .watchdog trap => Sys2Proof.Machine.execWatchdog trap s
  | .aonReset groupA straps f => Sys2Proof.Machine.execAonReset groupA straps f s
  | .corePg => Sys2Proof.Machine.execCorePg s
  | .coreResetRelease => Sys2Proof.Machine.execCoreResetRelease s
  | .corePgTimeout => Sys2Proof.Machine.execCorePgTimeout s
  | .coreSupplyLoss => Sys2Proof.Machine.execCoreSupplyLoss s
  | .coreRestart => Sys2Proof.Machine.execCoreRestart s
  | .readiness => Sys2Proof.Machine.execReadiness s
  | .deviceReset p v => Sys2Proof.Machine.execDeviceReset p v s
  | .clockMonitorWindow v => Sys2Proof.Machine.execClockMonitorWindow v s
  | .mainsPhaseFret n k => Sys2Proof.Machine.execMainsPhaseFret n k s
  | .magVccGoodRise m => Sys2Proof.Machine.execMagVccGoodRise m s
  | .busMasterEnable f on => Sys2Proof.Machine.execBusMasterEnable f on s
  | .laneTestDuration j => Sys2Proof.Machine.execLaneTestDuration j s
  | .thermalCorePowerOff => Sys2Proof.Machine.execThermalCorePowerOff s
  | .phaseDrift c busy => Sys2Proof.Machine.execPhaseDrift c busy s
  | .entdaa addr => Sys2Proof.Machine.execEntdaa addr s

end Sys2Proof.Machine
end

