-- ==== Sys2Proof/Safety.lean ====
section
/-! DEFINITION. What counts as a well-kept state, and what it means that a part of the state is left as it was: the terms the statements
use. -/

namespace Sys2Proof.Machine
open Sys2Proof

/-- The register map is in its canonical form: offsets strictly rising, and no register listed with its reset value. -/
def regsWf (m : SMap Word) : Bool := mRising none m && m.all fun p => decide (p.2 ≠ resetOf p.1)

/-- No handle is RELEASING without a reference (R203). -/
def handlesLive (s : State) : Prop := ∀ h ∈ s.imp.handles, h.2.releasing = true → referenced s h.1 = true

/-- The parts of the state, one for each field. -/
inductive Part where
  | now | free | out | pending | regs | captures | staged | msix | pba | flt | irq | ref | frm | lnk | ing | live | ptpNow | coreAt
  | rfe | fetchBad | clr | lut | imp | gal | mag | hev | dsp | net | aud | hq | mbx | per | mem | thm | mgt | sys
  deriving DecidableEq, Repr

/-- A part is the same in two states. -/
def Part.same : Part → State → State → Prop
  | .now, s, t => t.now = s.now
  | .free, s, t => t.free = s.free
  | .out, s, t => t.out = s.out
  | .pending, s, t => t.pending = s.pending
  | .regs, s, t => t.regs = s.regs
  | .captures, s, t => t.captures = s.captures
  | .staged, s, t => t.staged = s.staged
  | .msix, s, t => t.msix = s.msix
  | .pba, s, t => t.pba = s.pba
  | .flt, s, t => t.flt = s.flt
  | .irq, s, t => t.irq = s.irq
  | .ref, s, t => t.ref = s.ref
  | .frm, s, t => t.frm = s.frm
  | .lnk, s, t => t.lnk = s.lnk
  | .ing, s, t => t.ing = s.ing
  | .live, s, t => t.live = s.live
  | .ptpNow, s, t => t.ptpNow = s.ptpNow
  | .coreAt, s, t => t.coreAt = s.coreAt
  | .rfe, s, t => t.rfe = s.rfe
  | .fetchBad, s, t => t.fetchBad = s.fetchBad
  | .clr, s, t => t.clr = s.clr
  | .lut, s, t => t.lut = s.lut
  | .imp, s, t => t.imp = s.imp
  | .gal, s, t => t.gal = s.gal
  | .mag, s, t => t.mag = s.mag
  | .hev, s, t => t.hev = s.hev
  | .dsp, s, t => t.dsp = s.dsp
  | .net, s, t => t.net = s.net
  | .aud, s, t => t.aud = s.aud
  | .hq, s, t => t.hq = s.hq
  | .mbx, s, t => t.mbx = s.mbx
  | .per, s, t => t.per = s.per
  | .mem, s, t => t.mem = s.mem
  | .thm, s, t => t.thm = s.thm
  | .mgt, s, t => t.mgt = s.mgt
  | .sys, s, t => t.sys = s.sys

/-- Every part but those listed is the same from one state to the next. Where the handles are not listed, they too are the same, but for
RELEASING handles, which may become FREE at the end of any command's cycle (R203). -/
def onlyChanges (l : List Part) (s t : State) : Prop :=
  (∀ p : Part, p ∉ l → p ≠ .imp → p.same s t)
    ∧ (Part.imp ∉ l → (s.imp.handles.all fun h => !h.2.releasing) = true → t.imp = s.imp)

/-- An offset that neither the fault recorder nor the interrupt controller holds. -/
def outsideFlt (j : Nat) : Prop := j < 0x191000 ∨ (0x192000 ≤ j ∧ j < 0x1A0000) ∨ 0x1B0000 ≤ j

/-- Entry `k` of a slot's fret table, with action `a`, comes due now (R56 to R58). -/
abbrev comesDue (s : State) (n : Fin 8) (k : Fin 256) (a : Nat) (e : Fret) : Prop :=
  fretAt (s.ref.slots[n]).cfg n.val k.val = some e ∧ e.action = a ∧ fretTurn s n e = true

/-- A slot's cadence once entry `k` has fired for its frame. -/
def nowFired (s : State) (n : Fin 8) (k : Nat) : RefBlk :=
  { s.ref with slots := vMod s.ref.slots n.val fun c => { c with fired := k :: c.fired } }

/-- A request that waits in a slot of a party's mailbox, whose turn has come: service runs, its target is free, and the party may issue it
(R381, R382). -/
abbrev reaches (s : State) (p : Party) (slot op : Nat) (req : List Byte) : Prop :=
  mbxReq s p slot = req ∧ mbxState s p slot = 1 ∧ slot < mbxSlots p ∧ leAt req 0 2 = op ∧ serviceOn s = true
    ∧ targetHeld s p slot (mbxTarget op req) = false ∧ runCount s < 16 ∧ pageBarred p op req = false
    ∧ ((mbxCmdOf op).any fun c => c.permits p) = true

/-- The request offset of the first byte that a command leaves undefined and is not zero, or of the first field outside its range (R381). -/
abbrev firstBad (p : Party) (op : Nat) (req : List Byte) : Option Nat := (mbxCmdOf op).bind fun c => c.badAt p req

/-- Such a request that passes the checks of R381 on its bytes and ranges, which come before those of its own command. -/
abbrev asks (s : State) (p : Party) (slot op : Nat) (req : List Byte) : Prop :=
  reaches s p slot op req ∧ firstBad p op req = none

/-- Every posted request has an opcode that its party may issue, so that none is answered just because service resumes (R381). -/
abbrev postedValid (s : State) : Prop :=
  ∀ e ∈ s.mbx.posted, ((mbxCmdOf (leAt (mbxReq s e.1 e.2) 0 2)).any fun c => c.permits e.1) = true

/-- The requests that no operand of the world bears on, by opcode (Table MBX-7). -/
def plainRequests (p : Party) (k : Fin 32) : List (Nat × Instr) := [
  (0x0001, .identify p k), (0x0002, .vfQuota p k), (0x0003, .queueCreate p k), (0x0004, .queueDelete p k), (0x0201, .ptpConfig p k),
  (0x0202, .ptpSetTime p k), (0x0203, .ptpStatus p k), (0x0301, .sensorCap p k), (0x0401, .handleAlloc p k), (0x0402, .handleFree p k),
  (0x0403, .handleQuery p k), (0x0901, .laneTest p k)]

/-- A slot is DONE, with STATUS, RESULT0 and RESULT1 in its response (Table MBX-4). -/
abbrev answered (t : State) (p : Party) (slot status r0 r1 : Nat) : Prop :=
  mbxState t p slot = 3 ∧ field (regGet t (mbxBase p slot + 0x200)) 23 16 = status
    ∧ (regGet t (mbxBase p slot + 0x208)).toNat = r0 ∧ (regGet t (mbxBase p slot + 0x20C)).toNat = r1

/-- Of the registers outside the fault recorder and the interrupt controller, only those of a mailbox slot and the count of its responses
differ. -/
def onlySlot (p : Party) (slot : Nat) (s t : State) : Prop :=
  ∀ j, outsideFlt j → ¬ (mbxBase p slot ≤ j ∧ j < mbxBase p slot + 0x400) → j ≠ 0x1C004 → regGet t j = regGet s j

/-- The same, but for further registers that are listed. -/
def onlySlotAnd (l : List Nat) (p : Party) (slot : Nat) (s t : State) : Prop :=
  ∀ j, j ∉ l → outsideFlt j → ¬ (mbxBase p slot ≤ j ∧ j < mbxBase p slot + 0x400) → j ≠ 0x1C004 → regGet t j = regGet s j

/-- A command in flight under a tag of a queue, fetched with an opcode and not yet executed, while its CQ has room (R345, R348). -/
abbrev inFlight (s : State) (q tag op : Nat) (x : Queue) (c : Cmd) : Prop :=
  s.live = true ∧ queueOf s q = some x ∧ mGet x.cmds tag = some c ∧ c.op = op ∧ c.waiting = false ∧ c.finished = false
    ∧ c.aborted = false ∧ x.full = false ∧ x.backlog = []

/-- The bytes of a CQ entry (Table HQ-6), with PHASE and the deferred errors that its queue has to report. -/
def cqeBytes (x : Queue) (result : Word) (tag sqHead status detail flags op : Nat) : List Byte :=
  leBytes 4 result.toNat ++ leBytes 4 tag ++ leBytes 2 sqHead ++ [BitVec.ofNat 8 status, BitVec.ofNat 8 detail]
    ++ leBytes 2 (flags + (if x.phase then 1 else 0) + (if x.attached > 0 then 2 else 0)) ++ [BitVec.ofNat 8 op, 0]

/-- The completion of a command has been posted at its queue's CQ tail, and its tag is free (R345, R348). -/
abbrev completed (t : State) (q tag : Nat) (x : Queue) (c : Cmd) (status detail : Nat) (result : Word) (flags : Nat) : Prop :=
  .hostWrite x.fn (x.cqBase + 16 * x.cqTail) (cqeBytes x result tag c.sqHead status detail flags c.op) ∈ t.out
    ∧ cmdOf t q tag = none

/-- The parts that a completion reaches (R348, R351). -/
def completing : List Part := [.hq, .out, .pba, .fetchBad]

/-- One packet of a sender with one path has left in time: sent on its interface, counted at the port and at the sender, and the sequence
number has advanced (R306, R307, R313); `more` is what was put out after it. -/
abbrev packetLeft (s t : State) (i : Fin 48) (x : Sender) (pay : List Byte) (more : List Out) : Prop :=
  let port := field (x.word i.val 0) 28 28
  let iface := field (x.word i.val 0) 27 26
  t.out = more ++ .netTx port iface (sndFrame s i.val x port iface false pay) :: s.out
    ∧ regGet t (portReg port 0x84) = satInc (regGet s (portReg port 0x84))
    ∧ regGet t (sndReg i.val 0x38) = satInc (regGet s (sndReg i.val 0x38)) ∧ (t.net.snds[i]).seq = (x.seq + 1) % 2 ^ 32

/-- A sender whose fields are latched, enabled with a type, on one path, while its interface is up. -/
abbrev sends (s : State) (i : Fin 48) (x : Sender) (ty : Nat) : Prop :=
  s.live = true ∧ x = s.net.snds[i] ∧ x.cfg = sndSlice s i.val ∧ bit (x.word i.val 0) 31 = true ∧ field (x.word i.val 0) 30 29 = ty
    ∧ bit (x.word i.val 0) 25 = false ∧ ifUp s (field (x.word i.val 0) 28 28) (field (x.word i.val 0) 27 26) = true

/-- The parts that the answer to a mailbox request reaches (R378). -/
def answering : List Part := [.regs, .mbx, .pba, .out]

/-- A party's descriptor names segments that it may reach and that hold the bytes of an outgoing transfer (R385, R400). -/
abbrev mayReceive (s : State) (p : Party) (d : Desc) (buf : HostBuf) (segs : List (Nat × Nat)) (l : List Byte) : Prop :=
  busMaster s p = true ∧ partySegs s p d buf = some (segs, true) ∧ l.length ≤ segTotal segs

/-- The bytes have been put out to the party's segments: to host memory for a function, to TCM or handle windows for a user core. -/
abbrev delivered (s t : State) (p : Party) (segs : List (Nat × Nat)) (l : List Byte) : Prop :=
  t.per = (putOut s p segs l).per
    ∧ ((∀ u, p ≠ .user u) → ∀ a n, segs = [(a, n)] → l ≠ [] → .hostWrite (partyNo p) a l ∈ t.out)

/-- The parts that an answer with a transfer reaches: a user core's transfer writes its TCM or its handle windows. -/
def delivering : List Part := .per :: .imp :: answering

/-- The parts that an event, its record and their interrupts reach (R351, R408, R414, R418). -/
def reporting : List Part := [.regs, .out, .pba, .flt, .mgt]

/-- A bit of a block's EVENTS is set. -/
def raised (s : State) (b : Blk) (i : Nat) : Prop := ∃ off, b.events = some off ∧ regBit s off i = true

/-- What a channel's bank owes now: what it owed, and what has fallen due since at the interval of the band in force (R439). -/
abbrev owedNow (s : State) (x : MemChan) (b : Fin 16) : ℚ :=
  x.owed[b] + ((s.now - x.owedAt : Nat) : ℚ) / refreshInterval s.thm.band

/-- A channel that no retraining step keeps, that owes no refresh too long and has none of the row-hammer layers waiting (R437 to R440). -/
abbrev chanFree (s : State) (x : MemChan) : Prop :=
  x.stepEnd ≤ s.now ∧ (∀ b : Fin 16, owedNow s x b < 8) ∧ x.drift = false ∧ x.hammer = []

/-- The arbiter of a granule's channel gives a requester the next slot (R446, R447). -/
abbrev slotGiven (s : State) (a : Nat) (u : MemUser) (w : MemWait) : Prop :=
  ∃ x, s.mem.chans.toList[chanOf s a]? = some x ∧ chanFree s x ∧ granted s x (memClass u) w = true
    ∧ inTurn x (bankNo s a) (memRow a) w = true

/-- Of the registers outside the fault recorder and the interrupt controller, only those listed differ. -/
def onlyRegs (l : List Nat) (s t : State) : Prop := ∀ j, j ∉ l → outsideFlt j → regGet t j = regGet s j

/-- A background operation of the magazine has gone to a die and is counted; what it relocates enters new units (R253, Table MAG-11). -/
abbrev workedOn (s t : State) (row die : Nat) : Prop :=
  .flash (.background row) (dieAddr s.mag.chans die) [] ∈ t.out ∧ regGet t 0xF005C = satInc (regGet s 0xF005C)
    ∧ onlyRegs [0xF005C, 0xF0080] s t ∧ onlyChanges (.gal :: .mag :: reporting) s t

end Sys2Proof.Machine
end

