-- ==== Sys2Proof/Certificates/Slice0/Obligations.lean ====
section
/-! DEFINITION. The statements for the provers. Each docstring names the rules that its statement formalises. -/

open Sys2Proof Sys2Proof.Machine

/-- For every state and every command at the front of its queue, a step is that command's meaning on the state with the queue's
rest. The queue is the model's own way of taking commands (notes/assumptions/1.md). -/
def Obligations.StepRunsFrontCommand : Prop :=
  ∀ (s : State) (c : Instr) (rest : List Instr), s.pending = c :: rest → step s = exec c (s.withPending rest)

/-- Every command, whichever constructor of Instr it is and whatever its operands, answers a next state in every state: none ends
in a fault or a refusal. So does a step of any state with a command in front; its queue is the rest of the queue before, and its
device time is that before (notes/assumptions/1.md: time passes on an empty queue only). -/
def Obligations.QueueIsFirstInFirstOut : Prop :=
  (∀ (c : Instr) (s : State), ∃ t, exec c s = .next t) ∧
  ∀ (s : State) (c : Instr) (rest : List Instr), s.pending = c :: rest →
    ∃ t, step s = .next t ∧ t.pending = rest ∧ t.now = s.now

/-- On an empty queue a step answers the next state in which device time is one tick later and nothing but the two clocks has
changed. While the core runs, the PTP clock has advanced by 1 ns + INC × 2⁻³² ns, where INC = round(f × 2³² / 10⁹); while it does
not, the PTP clock stands still. That time passes on an empty queue is the model's choice (notes/assumptions/1.md). -/
def Obligations.EmptyQueueTicksTheClocks : Prop :=
  ∀ s : State, s.pending = [] → ∃ t, step s = .next t ∧ t.now = s.now + 1 ∧
    (∀ p : Part, p ∉ [.now, .ptpNow, .net] → p.same s t) ∧
    (s.live = true → ∀ total : Int,
      total = (s.ptpNow : Int) * 65536 + s.net.sub + 2 ^ 32 + (s.net.f * 2 ^ 32 / 10 ^ 9 + 1 / 2).floor → 0 ≤ total →
      (t.ptpNow : Int) * 65536 + t.net.sub = total ∧ t.net.sub < 65536) ∧
    (s.live = false → t.ptpNow = s.ptpNow ∧ t.net = s.net)

/-- In every state in which each RELEASING surface handle holds a reference of R202, any step that answers a next state leads to
one in which each does: a handle whose last reference has ended is FREE by the end of the command that ended it. -/
def Obligations.EveryReleasingHandleHoldsAReference : Prop :=
  ∀ s t : State, handlesLive s → step s = .next t → handlesLive t

/-- In the state after reset the register file holds every register at the reset value of its row, among them FLT.ROLES
0x00043210, the frame period numerator 50,000,000 of a slot, GAL.CFG 0x80000040 and the 0xFFFFFFFF mask of a staging window. Every
slot is masked; no link, head, sender or audio port has its enable bit set. The core is not released, control core n is in role n,
forme 0 is in force with no forme held, every tag bank is empty, no frame is issued, the time-stamp FIFO, the galley, the command
queue and the outputs are empty, the event outputs are low, no handle is allocated and every RELEASING handle holds a reference.
That the queue of waiting commands is empty is the model's (log 1). -/
def Obligations.ResetLeavesEveryRegisterAtItsResetValue : Prop :=
  (∀ off, regGet State.reset off = resetOf off) ∧ regGet State.reset 0x1A0014 = 0x43210 ∧
  (∀ n : Fin 8, regGet State.reset (0x40104 + 0x40 * n.val) = 50000000 ∧ unmasked State.reset n.val = false) ∧
  (∀ w : Fin 5, regGet State.reset (0x20108 + 0x20 * w.val) = 0xFFFFFFFF) ∧ regGet State.reset 0xD0000 = 0x80000040 ∧
  (∀ k : Fin 4, regBit State.reset (0x50000 + 0x100 * k.val) 31 = false) ∧
  (∀ h : Fin 6, regBit State.reset (headReg h.val 0) 31 = false) ∧
  (∀ i : Fin 48, regBit State.reset (sndReg i.val 0) 31 = false) ∧
  (∀ a : Fin 8, regBit State.reset (audReg a.val 0) 31 = false) ∧
  State.reset.live = false ∧ (∀ c : Fin 5, State.reset.flt.roles[c] = c.val) ∧
  State.reset.frm.inForce = 0 ∧ State.reset.frm.formes = [] ∧ State.reset.frm.lockedList = [] ∧
  (∀ n : Fin 8, (State.reset.frm.banks[n]).all (fun b => b.forme == 0 && b.regs.isEmpty && b.objs.isEmpty) = true) ∧
  (∀ n : Fin 8, (State.reset.ref.slots[n]).issued = 0) ∧ State.reset.ref.tsFifo = [] ∧
  (∀ o : Fin 16, State.reset.ref.pulses[o] = none) ∧ State.reset.gal.items = [] ∧ State.reset.out = [] ∧ State.reset.pending = [] ∧
  State.reset.imp.handles = [] ∧ handlesLive State.reset

/-- While the core runs: a write to one of the plain RW registers listed holds the written value, reserved bits zero; a write of
host software or firmware to a forme-staged register outside a forme leaves it as it is and counts in FRM.STRAY_WRITES,
saturating; a write to a W1C register clears the bits written as 1, and a bit that hardware sets in the same cycle stays set; an
access that is not an aligned one of 32 bits counts in SYS.BAD_ACCESS and a read returns zero. Every other register, and every
part of the state beside registers and outputs, is as before. -/
def Obligations.RegisterWritesFollowTheirAccessCode : Prop :=
  (∀ (s : State) (off : Nat) (v : Word), s.live = true →
    off ∈ [0x52008, 0xC1008, 0xF0000, 0xF0024, 0x150014, 0x150018, 0x15001C, 0x150020, 0x150024, 0x150028, 0x170030, 0x170034,
      0x170038, 0x180008, 0x181000, 0x1A0028] →
    ∃ t, exec (.registerWrite .pf .bar0 off v) s = .next t ∧ regGet t off = v &&& maskOf off ∧
      (∀ j, j ≠ off → regGet t j = regGet s j) ∧ onlyChanges [.regs] s t) ∧
  (∀ (s : State) (p : Party) (off : Nat) (v : Word), s.live = true → (p = .pf ∨ p = .fjarera ∨ ∃ u, p = .user u) → isFs off = true →
    ∃ t, exec (.strayWrite p off v) s = .next t ∧ regGet t off = regGet s off ∧
      regGet t 0x20014 = satInc (regGet s 0x20014) ∧ (∀ j, j ≠ 0x20014 → regGet t j = regGet s j) ∧ onlyChanges [.regs] s t) ∧
  (∀ (s : State) (off : Nat) (v hw : Word), s.live = true → off < 0x4000000 → (rowOf off).map (·.acc) = some .w1c →
    ∃ t, exec (.w1cWrite .pf off v hw) s = .next t ∧ regGet t off = (regGet s off &&& ~~~v ||| hw) &&& maskOf off ∧
      (∀ j, j ≠ off → regGet t j = regGet s j) ∧ onlyChanges [.regs] s t) ∧
  (∀ (s : State) (p : Party) (off bytes : Nat) (rd : Bool), s.live = true → ¬ (off % 4 = 0 ∧ bytes = 4) →
    ∃ t, exec (.unalignedAccess p off bytes rd) s = .next t ∧ regGet t 0x2C = satInc (regGet s 0x2C) ∧
      (∀ j, j ≠ 0x2C → regGet t j = regGet s j) ∧ t.out = (if rd then [.readData p off 0] else []) ++ s.out ∧
      onlyChanges [.regs, .out] s t)

/-- While the core runs: a read by the PF, a user core or Fjarera of the lowest word of the PTP time returns it and captures the
whole time for that party; a read of a higher word of a wide quantity returns that party's captured word, zero before its first
capture, and changes no register; a write of the high word of a core's MTIMECMP by the PF, Fjarera or a user core sets both words,
the low one as that party last staged it, and the timer interrupt follows the comparison; a read of one of the RC counters listed
returns its value and leaves what was counted in the cycle of the read; a function reads the IDs and the class of Table HQ-1 in
its configuration space once the link is up, and its MSI-X table and PBA in BAR4. That the IDs lie at the offsets of a PCI Express
header is the model's (PRESUMED, log 44). -/
def Obligations.WideQuantitiesAreCapturedPerParty : Prop :=
  (∀ (s : State) (p : Party), s.live = true → (p = .pf ∨ p = .fjarera ∨ ∃ u, p = .user u) →
    ∃ t, exec (.lowestWordRead p .bar0 0x150000) s = .next t ∧
      t.out = .readData p 0x150000 (BitVec.ofNat 32 (ptpFrac (ptpTime s) * 65536)) :: s.out ∧
      captured t p 0x150000 0x150004 = BitVec.ofNat 32 (ptpNs (ptpTime s)) ∧
      captured t p 0x150000 0x150008 = BitVec.ofNat 32 (ptpSec (ptpTime s)) ∧
      captured t p 0x150000 0x15000C = BitVec.ofNat 32 (ptpSec (ptpTime s) / 2 ^ 32 % 65536) ∧
      (∀ q base off, wideKey q base ≠ wideKey p 0x150000 → captured t q base off = captured s q base off) ∧
      onlyChanges [.captures, .out] s t) ∧
  (∀ (s : State) (p : Party) (base off m : Nat), s.live = true → (p = .pf ∨ p = .fjarera ∨ ∃ u, p = .user u) →
    (base, off) ∈ [(0x150000, 0x150004), (0x150000, 0x150008), (0x150000, 0x15000C), (0xF0008, 0xF000C), (0xF0010, 0xF0014),
      (0xF0028, 0xF002C), (0x1D0800, 0x1D0804)] →
    ∃ t, exec (.rcRead p off m) s = .next t ∧ t.out = .readData p off (captured s p base off) :: s.out ∧ onlyChanges [.out] s t) ∧
  (∀ (s : State) (p : Party) (u : Fin 4) (v : Word), s.live = true → (p = .pf ∨ p = .fjarera ∨ ∃ w, p = .user w) →
    ∃ t, exec (.highestWordWrite p (0x1D0024 + 0x100 * u.val) v) s = .next t ∧
      regGet t (0x1D0020 + 0x100 * u.val) = stagedWord s p (0x1D0020 + 0x100 * u.val) ∧
      regGet t (0x1D0024 + 0x100 * u.val) = v ∧
      (t.per.cores[u]).timer
        = decide (devTime s ≥ (stagedWord s p (0x1D0020 + 0x100 * u.val)).toNat + v.toNat * 2 ^ 32) ∧
      (∀ j, j ≠ 0x1D0020 + 0x100 * u.val → j ≠ 0x1D0024 + 0x100 * u.val → regGet t j = regGet s j) ∧
      onlyChanges [.regs, .per] s t) ∧
  (∀ (s : State) (off m : Nat), s.live = true →
    off ∈ [0x24, 0x2C, 0x20014, 0x20018, 0x2001C, 0x40080, 0x52004, 0xB0004, 0xD0054, 0xF0040, 0x110008, 0x140084, 0x150290,
      0x171000, 0x181010, 0x191184, 0x1A000C] →
    ∃ t, exec (.rcRead .pf off m) s = .next t ∧ t.out = .readData .pf off (regGet s off) :: s.out ∧ regGet t off = satAdd 0 m ∧
      (∀ j, j ≠ off → regGet t j = regGet s j) ∧ onlyChanges [.regs, .out] s t) ∧
  (∀ (s : State) (p : Party) (fn : Nat), s.live = true → s.sys.pcieUp = true → fn = partyFn p → (p = .pf ∨ ∃ n, p = .vf n) →
    (∀ off w, (off, w) ∈ [(0, if fn = 0 then 0x96401E7A else 0x96411E7A), (8, (0x04800001 : Word)),
        (0x2C, if configGood s.sys.config = true then packFields [(16, leAt s.sys.config 10 2), (0, leAt s.sys.config 8 2)] else 0x1E7A)] →
      ∃ t, exec (.lowestWordRead p .config off) s = .next t ∧ t.out = .barData p .config off w :: s.out ∧ onlyChanges [.out] s t) ∧
    (∀ off, off % 4 = 0 → off < 16 * vectorsOf fn →
      ∃ t, exec (.lowestWordRead p .bar4 off) s = .next t ∧ t.out = .barData p .bar4 off (msixWord s fn off) :: s.out ∧
        onlyChanges [.out] s t) ∧
    (∀ vec, vec < vectorsOf fn →
      ∃ t w, exec (.lowestWordRead p .bar4 (0x2000 + vec / 32 * 4)) s = .next t ∧
        t.out = .barData p .bar4 (0x2000 + vec / 32 * 4) w :: s.out ∧ bit w (vec % 32) = (mGet s.pba (fn * 128 + vec)).getD false ∧
        onlyChanges [.out] s t))

/-- While the core runs, an entry of a slot's fret table that comes due is marked as fired for the slot's frame. NOP does nothing
else. RAISE_IRQ latches its fret interrupt source where that source is enabled, and changes nothing else where it is not. A due
phase fret does what the command of its action does, and so does an angle fret on the mains. -/
def Obligations.FretsFireWhenTheyComeDue : Prop :=
  (∀ (s : State) (n : Fin 8) (k : Fin 256) (e : Fret), s.live = true → comesDue s n k 0 e →
    ∃ t, exec (.nop n k) s = .next t ∧ t.ref = nowFired s n k.val ∧ onlyChanges [.ref] s t) ∧
  (∀ (s : State) (n : Fin 8) (k : Fin 256) (e : Fret), s.live = true → comesDue s n k 8 e →
    ∃ t, exec (.raiseIrq n k) s = .next t ∧ t.ref = nowFired s n k.val ∧
      (regBit s (srcCfgReg (64 + field e.arg 3 0)) 31 = true → regBit t 0x191008 (field e.arg 3 0) = true ∧
        onlyChanges [.ref, .regs, .pba, .out] s t) ∧
      (regBit s (srcCfgReg (64 + field e.arg 3 0)) 31 = false → onlyChanges [.ref] s t)) ∧
  (∀ (s : State) (n : Fin 8) (k : Fin 256) (e : Fret) (c : Instr), s.live = true → fretAt (s.ref.slots[n]).cfg n.val k.val = some e →
    (e.action, c) ∈ [(0, .nop n k), (1, .applyForme n k), (2, .sendExposure n k), (3, .statsOpen n k), (4, .statsClose n k),
      (5, .timestamp n k), (6, .memRetrain n k), (7, .encStart n k), (8, .raiseIrq n k), (9, .tempBand n k), (10, .eventOut n k)] →
    (e.kind = 0 → ∃ t, exec (.phaseFretDue n k) s = .next t ∧ exec c s = .next t) ∧
    (e.kind = 2 → ∃ t, exec (.mainsPhaseFret n k) s = .next t ∧ exec c s = .next t))

/-- While the core runs and the entry comes due: APPLY_FORME takes the slot's frame boundary, and a Locked forme at the head of
the Locked list that is due there is then in force and no longer Locked, with APPLIED raised and FRM.STATE showing it once every
domain has latched; SEND_EXPOSURE sends, on the back-channel of the slot's link that is UP with a record in force, the exposure
message of the frame L later, with its expected tag and target ordinal, and no second message once it is sent; STATS_OPEN opens
its window on the newest frame from the line after the last accepted one, and where it was open there its record is sealed at once
as reopened; STATS_CLOSE closes an open window at the last accepted line, and of a window that is not open it is counted; both
have no effect for a window that the frame's bank disables; MEM_RETRAIN opens a retraining window of its length while the memory
runs; ENC_START of a stream that is not enabled is counted in its START_ERR, and of an enabled stream of the slot with FRAME_DIV 1
it binds the newest frame to the stream's next picture; TEMP_BAND of the timing master applies the waiting band. -/
def Obligations.FretActionsOnOtherBlocks : Prop :=
  (∀ (s : State) (n : Fin 8) (k : Fin 256) (e : Fret) (i d : Nat) (f : Forme), s.live = true → comesDue s n k 1 e →
    (s.ref.slots[n]).boundary = false → s.frm.lockedList = [i] → formeOf s i = some f → f.slot = n.val → f.due = some d →
    d ≤ (s.ref.slots[n]).issued → hostFrameAny s = false →
    ∃ t, exec (.applyForme n k) s = .next t ∧ (t.ref.slots[n]).boundary = true ∧ t.frm.inForce = i ∧ t.frm.lockedList = [] ∧
      (allLatched t = true → t.frm.latching = false) ∧ (t.frm.latching = false → raised t .frm 0 ∧ t.frm.shown = i)) ∧
  (∀ (s : State) (n : Fin 8) (k : Fin 256) (e : Fret) (l : Fin 4) (stream : Nat), s.live = true → comesDue s n k 2 e →
    slotLink s n.val = some (l, stream) → (s.lnk.links[l]).st = .up → recordUp s n.val = true →
    (s.ref.slots[n]).sent.any (fun x => decide (x.ord = (s.ref.slots[n]).issued - 1 + latency s n.val)) = false →
    ∃ t x, exec (.sendExposure n k) s = .next t ∧ (t.ref.slots[n]).sent = (s.ref.slots[n]).sent ++ [x] ∧
      x.ord = (s.ref.slots[n]).issued - 1 + latency s n.val ∧ x.tag = expectedTag s n x.ord ∧
      (angleOf (tagRegs s n x.tag) n.val = 0 → x.expNs = (rmGet (tagRegs s n x.tag) (expReg n.val 0)).toNat) ∧
      t.out = .bc l (.packet 0x81 stream
        (exposureBytes (tagRegs s n x.tag) n.val x.tag stream (BitVec.ofNat 32 x.ord) x.expNs x.periodNs)) :: s.out) ∧
  (∀ (s : State) (n : Fin 8) (k : Fin 256) (e : Fret), s.live = true → comesDue s n k 2 e →
    (s.ref.slots[n]).sent.any (fun x => decide (x.ord = (s.ref.slots[n]).issued - 1 + latency s n.val)) = true →
    ∃ t, exec (.sendExposure n k) s = .next t ∧ t.out = s.out ∧ (t.ref.slots[n]).sent = (s.ref.slots[n]).sent) ∧
  (∀ (s : State) (n : Fin 8) (k : Fin 256) (e : Fret) (f : Frame), s.live = true → comesDue s n k 3 e →
    s.ing.frames[n] = [f] → f.fr.ord = newestOrd s n → f.closed = false → winEnabled s n f (field e.arg 3 0) = true →
    ∃ t, exec (.statsOpen n k) s = .next t ∧ t.ref = nowFired s n k.val ∧
      (f.winOpen (field e.arg 3 0) = false → onlyChanges [.ref, .ing] s t ∧
        t.ing.frames[n] = [{ f with wins := f.wins ++
          [{ win := field e.arg 3 0, first := (f.lastLine.map (· + 1)).getD 0, last := none, cause := 0 }] }]) ∧
      (∀ a, f.wins = [{ win := field e.arg 3 0, first := a, last := none, cause := 0 }] →
        t.ing.frames[n] = [{ f with wins :=
          [{ win := field e.arg 3 0, first := (f.lastLine.map (· + 1)).getD 0, last := none, cause := 0 }] }] ∧
        (t.rfe[n]).nextStat = (s.rfe[n]).nextStat + 1 ∧
        ∃ y ∈ (t.rfe[n]).ring, y.seq = (s.rfe[n]).nextStat ∧ byteAt y.bytes 1 = BitVec.ofNat 8 (field e.arg 3 0) ∧ byteAt y.bytes 34 = 2)) ∧
  (∀ (s : State) (n : Fin 8) (k : Fin 256) (e : Fret) (f : Frame), s.live = true → comesDue s n k 4 e →
    s.ing.frames[n] = [f] → f.fr.ord = newestOrd s n → winEnabled s n f (field e.arg 3 0) = true →
    (f.winOpen (field e.arg 3 0) = true → ∃ t, exec (.statsClose n k) s = .next t ∧
      (∀ g ∈ t.ing.frames[n], g.winOpen (field e.arg 3 0) = false) ∧
      (f.tagKnown = false → t.ref = nowFired s n k.val ∧
        t.ing.frames[n] = [f.closeWin (field e.arg 3 0) (f.lastLine.getD 0) 0] ∧ onlyChanges [.ref, .ing] s t)) ∧
    (f.winOpen (field e.arg 3 0) = false → ∃ t, exec (.statsClose n k) s = .next t ∧ t.ing = s.ing ∧
      regGet t (rfeReg n.val 0x124) = satInc (regGet s (rfeReg n.val 0x124)) ∧ onlyChanges (.ref :: reporting) s t)) ∧
  (∀ (s : State) (n : Fin 8) (k : Fin 256) (e : Fret) (f : Frame) (a : Nat) (c : Instr), s.live = true →
    (a, c) ∈ [(3, .statsOpen n k), (4, .statsClose n k)] → comesDue s n k a e →
    s.ing.frames[n] = [f] → f.fr.ord = newestOrd s n → winEnabled s n f (field e.arg 3 0) = false →
    ∃ t, exec c s = .next t ∧ t.ref = nowFired s n k.val ∧ onlyChanges [.ref] s t) ∧
  (∀ (s : State) (n : Fin 8) (k : Fin 256) (e : Fret), s.live = true → comesDue s n k 4 e → s.ing.frames[n] = [] →
    regBit s (winCfgReg n.val (field e.arg 3 0)) 0 = true →
    ∃ t, exec (.statsClose n k) s = .next t ∧ t.ing = s.ing ∧ regGet t (rfeReg n.val 0x124) = satInc (regGet s (rfeReg n.val 0x124)) ∧
      onlyChanges (.ref :: reporting) s t) ∧
  (∀ (s : State) (n : Fin 8) (k : Fin 256) (e : Fret), s.live = true → comesDue s n k 6 e → memRun s = true → field e.arg 15 0 ≥ 1000 →
    ∃ t, exec (.memRetrain n k) s = .next t ∧ t.ref = nowFired s n k.val ∧
      t.mem = { s.mem with windows := s.mem.windows ++ [(s.now, field e.arg 15 0, field e.arg 15 0 / 1000)] } ∧
      onlyChanges [.ref, .mem] s t) ∧
  (∀ (s : State) (n : Fin 8) (k : Fin 256) (e : Fret) (c : Fin 4) (j : Fin 16), s.live = true → comesDue s n k 7 e →
    c.val = field e.arg 1 0 → j.val = field e.arg 5 2 → (encCfgNow s c j).on = false → (s.hev.streams[c][j]).waiting = [] →
    ∃ t, exec (.encStart n k) s = .next t ∧ t.ref = nowFired s n k.val ∧
      regGet t (encReg c j 0x5C) = satInc (regGet s (encReg c j 0x5C)) ∧ onlyChanges [.ref, .regs] s t) ∧
  (∀ (s : State) (n : Fin 8) (k : Fin 256) (e : Fret) (c : Fin 4) (j : Fin 16), s.live = true → comesDue s n k 7 e →
    c.val = field e.arg 1 0 → j.val = field e.arg 5 2 → (encCfgNow s c j).on = true → (encCfgNow s c j).hostJob = false →
    surfSlot s (encCfgNow s c j).surf = some n.val → (encCfgNow s c j).frameDiv = 1 → (s.hev.streams[c][j]).waiting = [] →
    (s.hev.streams[c][j]).lastBound = none → (s.hev.streams[c][j]).firings = 0 → (∃ f ∈ s.ing.frames[n], f.fr.ord = newestOrd s n ∧ f.closed = false ∧ f.gone.contains (encCfgNow s c j).surf = false) →
    ∃ t p, exec (.encStart n k) s = .next t ∧ (t.hev.streams[c][j]).waiting = [p] ∧ p.slot = n.val ∧ p.ord = newestOrd s n ∧
      (t.hev.streams[c][j]).lastBound = some (n.val, newestOrd s n)) ∧
  (∀ (s : State) (n : Fin 8) (k : Fin 256) (e : Fret), s.live = true → comesDue s n k 9 e → timingMaster s = n.val →
    s.thm.bandWaits = true → s.thm.band ≠ s.thm.measured →
    ∃ t, exec (.tempBand n k) s = .next t ∧ t.thm.band = s.thm.measured ∧ t.thm.bandWaits = false ∧ raised t .thm 2)

/-- TIMESTAMP, as it comes due while the core runs, puts one entry with slot, identifier, frame ordinal and PTP time at the end of
the FIFO while it holds fewer than 64; on a full FIFO the capture is discarded and counted in FRT.TS_LOST, which a read clears. A
read of FRT.TS_W0 by a party that may read returns VALID, slot and identifier of the oldest entry, captures the ordinal,
nanoseconds, seconds and sub-nanosecond fraction in TS_W1 to TS_W4 for that party under R8, and removes the entry; of an empty
FIFO all words are zero. -/
def Obligations.TimeStampFifo : Prop :=
  (∀ (s : State) (n : Fin 8) (k : Fin 256) (e : Fret), s.live = true → comesDue s n k 5 e → s.ref.tsFifo.length < 64 →
    ∃ t, exec (.timestamp n k) s = .next t ∧
      t.ref = { nowFired s n k.val with tsFifo := s.ref.tsFifo ++
        [{ slot := n.val, ident := field e.arg 15 0, ord := newestOrd s n, time := ptpTime s }] } ∧
      onlyChanges [.ref] s t) ∧
  (∀ (s : State) (n : Fin 8) (k : Fin 256) (e : Fret), s.live = true → comesDue s n k 5 e → 64 ≤ s.ref.tsFifo.length →
    ∃ t, exec (.timestamp n k) s = .next t ∧ t.ref = nowFired s n k.val ∧ regGet t 0x34120 = satInc (regGet s 0x34120) ∧
      onlyChanges [.ref, .regs] s t) ∧
  (rowOf 0x34120).map (·.acc) = some .rc ∧
  (∀ (s : State) (p : Party) (e : TsEntry) (r : List TsEntry), s.live = true → mayRead p = true → s.ref.tsFifo = e :: r →
    ∃ t, exec (.tsRead p) s = .next t ∧ t.ref = { s.ref with tsFifo := r } ∧
      t.out = .readData p 0x34100 (BitVec.ofNat 32 (2 ^ 31 + e.slot % 8 * 2 ^ 16 + e.ident % 65536)) :: s.out ∧
      captured t p 0x34100 0x34104 = e.ord ∧ captured t p 0x34100 0x34108 = BitVec.ofNat 32 (ptpNs e.time) ∧
      captured t p 0x34100 0x3410C = BitVec.ofNat 32 (ptpSec e.time) ∧
      captured t p 0x34100 0x34110 = BitVec.ofNat 32 (ptpFrac e.time * 65536 + ptpSec e.time / 2 ^ 32 % 65536) ∧
      onlyChanges [.ref, .captures, .out] s t) ∧
  (∀ (s : State) (p : Party), s.live = true → mayRead p = true → s.ref.tsFifo = [] →
    ∃ t, exec (.tsRead p) s = .next t ∧ t.out = .readData p 0x34100 0 :: s.out ∧
      (∀ i : Fin 4, captured t p 0x34100 (0x34104 + 4 * i.val) = 0) ∧ onlyChanges [.captures, .out] s t)

/-- While the core runs, an EVENT_OUT entry of any slot that comes due drives the pin of output ARG[3:0] high and sets its end
ARG[15:8] us later; on an output that is still high the pin is left high and its end moves to the new width after the new firing.
An output whose end has come is driven low, and nothing else changes; one whose end has not come, or that is low, stays as it is.
At reset every output is low. A forme whose merged configuration holds a valid EVENT_OUT entry of width 0 is rejected as its lock-
up completes: it is Staged again, its request answers an error, and the forme in force stays. -/
def Obligations.EventOutputPulses : Prop :=
  (∀ (s : State) (n : Fin 8) (k : Fin 256) (e : Fret) (o : Fin 16), s.live = true → comesDue s n k 10 e → o.val = field e.arg 3 0 →
    ∃ t, exec (.eventOut n k) s = .next t ∧
      t.ref = { nowFired s n k.val with pulses := vMod s.ref.pulses o.val fun _ => some (s.now + field e.arg 15 8 * 1000) } ∧
      t.out = (if (s.ref.pulses[o]).isSome then [] else [.pin (.eventOut o) true]) ++ s.out ∧ onlyChanges [.ref, .out] s t) ∧
  (∀ (s : State) (o : Fin 16), s.live = true →
    (∀ e, s.ref.pulses[o] = some e → e ≤ s.now →
      ∃ t, exec (.eventOutEnd o) s = .next t ∧ t.ref = { s.ref with pulses := vMod s.ref.pulses o.val fun _ => none } ∧
        t.out = .pin (.eventOut o) false :: s.out ∧ onlyChanges [.ref, .out] s t) ∧
    ((∀ e, s.ref.pulses[o] = some e → s.now < e) → ∃ t, exec (.eventOutEnd o) s = .next t ∧ onlyChanges [] s t)) ∧
  (∀ o : Fin 16, State.reset.ref.pulses[o] = none) ∧
  (∀ (s : State) (i : Fin 256) (c : LockReq) (f : Forme) (q : Proj) (n : Fin 8) (k : Fin 256), s.live = true →
    interrupted s = false → s.frm.checking = [c] → c.forme = i.val → c.slot < mbxSlots c.party → formeOf s i.val = some f →
    q = projOf (modFrm s (fun y => { y with checking := [] })) i.val f → bit (q.reg (fretLoReg n k)) 31 = true →
    field (q.reg (fretLoReg n k)) 28 24 = 10 → field (q.reg (fretHiReg n k)) 15 8 = 0 →
    ∃ t, exec (.lockupComplete i) s = .next t ∧ formeOf t i.val = some { f with st := .staged } ∧ t.frm.inForce = s.frm.inForce ∧
      t.frm.lockedList = s.frm.lockedList ∧ mbxState t c.party c.slot = 3)

/-- An entry that is marked as fired for the slot's newest frame changes nothing under any fret command, as long as that frame is
the newest. -/
def Obligations.AFretFiresAtMostOncePerFrame : Prop :=
  ∀ (s : State) (n : Fin 8) (k : Fin 256) (c : Instr), k.val ∈ (s.ref.slots[n]).fired →
    c ∈ [.phaseFretDue n k, .mainsPhaseFret n k, .nop n k, .applyForme n k, .sendExposure n k, .statsOpen n k, .statsClose n k,
      .timestamp n k, .memRetrain n k, .encStart n k, .raiseIrq n k, .tempBand n k, .eventOut n k] →
    ∃ t, exec c s = .next t ∧ onlyChanges [] s t

/-- While the core runs, at the first tick at or after a running slot's cadence instant: where the slot is ready and no
APPLY_FORME or TEMP_BAND entry is left to fire first, its next ordinal is issued on its link's back-channel, with the OFFSET of
the block that the delay in force places it in, a frame record of that ordinal opens with the PTP time of the issue tick plus the
declared exposure-start offset, and the issue tick is kept; where its sensor is not ready, no frame starts, the trigger is counted
in REF.MISSED_TRIGn, MISSED_TRIG is raised and the next frame will carry it; before the instant nothing changes. -/
def Obligations.FrameStartsAtTheCadenceInstant : Prop :=
  (∀ (s : State) (n : Fin 8) (l : Fin 4) (stream : Nat), s.live = true → startDue s n = true → slotReady s n = true →
    slotLink s n.val = some (l, stream) → (∀ e ∈ frets (s.ref.slots[n]).cfg n.val, e.late = true → e.idx ∈ (s.ref.slots[n]).fired) →
    ∃ t f ofs, exec (.frameStartIssue n) s = .next t ∧ (t.ref.slots[n]).issued = (s.ref.slots[n]).issued + 1 ∧
      (t.ref.slots[n]).lastIssue = some s.now ∧ (t.ref.slots[n]).fired = [] ∧ (t.ref.slots[n]).missed = false ∧
      t.ing.frames[n] = s.ing.frames[n] ++ [f] ∧ f.fr.ord = BitVec.ofNat 32 (s.ref.slots[n]).issued ∧ f.issueTick = s.now ∧
      f.fr.ptp = ptpTime s + (regGet s (capReg n.val 7)).toNat * 65536 ∧ f.lines = [] ∧ f.closed = false ∧
      bit f.fr.status 8 = (s.ref.slots[n]).missed ∧
      ofs = ((s.lnk.links[l]).tx.frameStartAt s.now (startDelay s l n)).2 ∧
      .bc l (.frameStart stream ofs (BitVec.ofNat 32 (s.ref.slots[n]).issued)) ∈ t.out) ∧
  (∀ (s : State) (n : Fin 8), s.live = true → startDue s n = true → slotReady s n = false →
    ∃ t, exec (.frameStartIssue n) s = .next t ∧ (t.ref.slots[n]).issued = (s.ref.slots[n]).issued ∧
      (t.ref.slots[n]).missed = true ∧ regGet t (missedReg n.val) = satInc (regGet s (missedReg n.val)) ∧ raised t .ref 11 ∧
      onlyRegs [missedReg n.val, 0x40040] s t ∧ onlyChanges (.ref :: reporting) s t) ∧
  (∀ (s : State) (n : Fin 8), startDue s n = false → ∃ t, exec (.frameStartIssue n) s = .next t ∧ onlyChanges [] s t)

/-- While the core runs: the first edge of an enabled input that has had none is kept as its last valid edge; of a seeking input
that has an edge, an edge whose period lies within 2 % of EXP_PERIOD is valid, counts in the run, keeps its period among the last
8 and locks the input when the run comes to 8; an edge outside is an outlier, counted, reported and otherwise ignored; of a locked
input the same is judged against the mean of its last 8 periods; an input that seeks after a loss locks again after 8 periods
within 2 % of their mean, and RETURN is raised where they equal EXP_PERIOD; an input of which 3 EXP_PERIOD pass with no valid edge
is lost, counted and reported, its measurement stands, and every slot that follows it is in holdover. An edge of a disabled input
changes nothing. -/
def Obligations.ReferenceEdgesAndLoss : Prop :=
  (∀ (s : State) (i : Fin 3), s.live = true → (s.ref.inputs[i]).st ≠ .disabled → (s.ref.inputs[i]).afterLoss = false →
    (s.ref.inputs[i]).lastEdge = none →
    ∃ t, exec (.refEdge i) s = .next t ∧ (t.ref.inputs[i]).lastEdge = some s.now ∧ (t.ref.inputs[i]).phaseEdge = some s.now ∧
      (t.ref.inputs[i]).periods = (s.ref.inputs[i]).periods ∧ (t.ref.inputs[i]).run = (s.ref.inputs[i]).run ∧
      ∀ j, j ≠ i → t.ref.inputs[j] = s.ref.inputs[j]) ∧
  (∀ (s : State) (i : Fin 3) (t0 : Nat) (m : ℚ), s.live = true → (s.ref.inputs[i]).st = .locked → (s.ref.inputs[i]).afterLoss = false →
    (s.ref.inputs[i]).lastEdge = some t0 → measured s.ref.inputs[i] = some m →
    (49 * m ≤ 50 * ((s.now - t0 : Nat) : ℚ) → 50 * ((s.now - t0 : Nat) : ℚ) ≤ 51 * m →
      ∃ t, exec (.refEdge i) s = .next t ∧ (t.ref.inputs[i]).lastEdge = some s.now ∧ (t.ref.inputs[i]).st = .locked ∧
        (t.ref.inputs[i]).periods = ((s.now - t0) :: (s.ref.inputs[i]).periods).take 8 ∧
        (t.ref.inputs[i]).run = (s.ref.inputs[i]).run + 1) ∧
    (50 * ((s.now - t0 : Nat) : ℚ) < 49 * m ∨ 51 * m < 50 * ((s.now - t0 : Nat) : ℚ) →
      ∃ t, exec (.refEdge i) s = .next t ∧ regGet t (outliersReg i.val) = satInc (regGet s (outliersReg i.val)) ∧ raised t .ref 12 ∧
        onlyRegs [outliersReg i.val, 0x40040] s t ∧ onlyChanges reporting s t)) ∧
  (∀ (s : State) (i : Fin 3) (t0 : Nat), s.live = true → (s.ref.inputs[i]).st = .seeking → (s.ref.inputs[i]).afterLoss = false →
    (s.ref.inputs[i]).lastEdge = some t0 →
    49 * (regGet s (expPeriodReg i.val)).toNat ≤ 50 * (s.now - t0) → 50 * (s.now - t0) ≤ 51 * (regGet s (expPeriodReg i.val)).toNat →
    ∃ t, exec (.refEdge i) s = .next t ∧ (t.ref.inputs[i]).lastEdge = some s.now ∧
      (t.ref.inputs[i]).periods = ((s.now - t0) :: (s.ref.inputs[i]).periods).take 8 ∧
      (t.ref.inputs[i]).run = (s.ref.inputs[i]).run + 1 ∧
      ((t.ref.inputs[i]).st = .locked ↔ 8 ≤ (s.ref.inputs[i]).run + 1) ∧
      ∀ j, j ≠ i → t.ref.inputs[j] = s.ref.inputs[j]) ∧
  (∀ (s : State) (i : Fin 3) (t0 : Nat), s.live = true → (s.ref.inputs[i]).st = .seeking → (s.ref.inputs[i]).afterLoss = false →
    (s.ref.inputs[i]).lastEdge = some t0 →
    (50 * (s.now - t0) < 49 * (regGet s (expPeriodReg i.val)).toNat ∨ 51 * (regGet s (expPeriodReg i.val)).toNat < 50 * (s.now - t0)) →
    ∃ t, exec (.refEdge i) s = .next t ∧ regGet t (outliersReg i.val) = satInc (regGet s (outliersReg i.val)) ∧ raised t .ref 12 ∧
      onlyRegs [outliersReg i.val, 0x40040] s t ∧ onlyChanges reporting s t) ∧
  (∀ (s : State) (i : Fin 3) (t0 p : Nat), s.live = true → (s.ref.inputs[i]).st = .seeking → (s.ref.inputs[i]).afterLoss = true →
    (s.ref.inputs[i]).lastEdge = some t0 → s.now - t0 = p → p = (regGet s (expPeriodReg i.val)).toNat →
    (s.ref.inputs[i]).seek = List.replicate 7 p →
    ∃ t, exec (.refEdge i) s = .next t ∧ (t.ref.inputs[i]).st = .locked ∧ (t.ref.inputs[i]).afterLoss = false ∧
      (t.ref.inputs[i]).inForce = some (p : ℚ) ∧ raised t .ref (returnBit i.val)) ∧
  (∀ (s : State) (i : Fin 3), s.live = true → lossDue s i = true →
    ∃ t, exec (.inputLost i) s = .next t ∧ (t.ref.inputs[i]).st = .lost ∧ (t.ref.inputs[i]).afterLoss = true ∧
      (t.ref.inputs[i]).periods = (s.ref.inputs[i]).periods ∧ (∀ n : Fin 8, follows s n i = true → (t.ref.slots[n]).st = .holdover) ∧
      regGet t 0x40098 = satInc (regGet s 0x40098) ∧ raised t .ref (lostBit i.val)) ∧
  (∀ (s : State) (i : Fin 3), (s.ref.inputs[i]).st = .disabled → ∃ t, exec (.refEdge i) s = .next t ∧ onlyChanges [] s t)

/-- While the core runs and the encoder input is enabled: a change of one of A and B moves the raw count by one step modulo CPR,
and the accepted position follows it where it moves on in the accepted direction, or turns back by at least HYST, and holds still
otherwise; the index pulse going forward counts an adjustment of 1 to 8 counts, or a mismatch beyond 8 which it also raises, and
makes both positions 0, and going backward it changes nothing. A running shutter slot that is ready starts a frame as the position
crosses PHASE_OFS. Statements about positions assume that no slot has the shutter as its source, the last clause that one has. -/
def Obligations.ShutterEncoderPosition : Prop :=
  (∀ (s : State) (a b : Bool) (step d dir : Int) (r : Nat), s.live = true → regBit s (filtReg 1) 31 = true →
    ((a ≠ s.ref.encA ∧ b = s.ref.encB) ∨ (a = s.ref.encA ∧ b ≠ s.ref.encB)) →
    (∀ n : Fin 8, sourceNow s n ≠ 3 ∧ cadSource (s.ref.slots[n]).cfg n.val ≠ 3) →
    step = (if regBit s encCfgReg 31 then -1 else 1) * quadStep s.ref.encA s.ref.encB a b →
    r = (((s.ref.raw : Int) + step) % (encCpr s : Int)).toNat → d = posDiff (encCpr s) r s.ref.acc →
    dir = (if s.ref.fwd then 1 else -1) →
    ∃ t, exec (.quadratureTransition a b) s = .next t ∧ t.ref.raw = r ∧ t.ref.encA = a ∧ t.ref.encB = b ∧
      (0 < d * dir → t.ref.acc = r ∧ t.ref.fwd = s.ref.fwd) ∧
      (d * dir ≤ 0 → (encHyst s : Int) ≤ -d * dir → t.ref.acc = r ∧ t.ref.fwd = !s.ref.fwd) ∧
      (d * dir ≤ 0 → -d * dir < (encHyst s : Int) → t.ref.acc = s.ref.acc ∧ t.ref.fwd = s.ref.fwd ∧ onlyChanges [.ref] s t) ∧
      onlyRegs [encPosReg] s t ∧ onlyChanges [.ref, .regs] s t) ∧
  (∀ (s : State), s.live = true → regBit s (filtReg 1) 31 = true → s.ref.fwd = true →
    (∀ n : Fin 8, sourceNow s n ≠ 3 ∧ cadSource (s.ref.slots[n]).cfg n.val ≠ 3) →
    ∃ t, exec .indexPulse s = .next t ∧ t.ref.raw = 0 ∧ t.ref.acc = 0 ∧
      (1 ≤ min s.ref.raw (encCpr s - s.ref.raw) → min s.ref.raw (encCpr s - s.ref.raw) ≤ 8 →
        regGet t 0x40090 = satInc (regGet s 0x40090) ∧ regGet t 0x40094 = regGet s 0x40094) ∧
      (8 < min s.ref.raw (encCpr s - s.ref.raw) →
        regGet t 0x40094 = satInc (regGet s 0x40094) ∧ regGet t 0x40090 = regGet s 0x40090 ∧ raised t .ref 6)) ∧
  (∀ (s : State), s.ref.fwd = false → ∃ t, exec .indexPulse s = .next t ∧ onlyChanges [] s t) ∧
  (∀ (s : State) (a b : Bool) (n : Fin 8), s.live = true → regBit s (filtReg 1) 31 = true → regBit s encCfgReg 31 = false →
    ((a ≠ s.ref.encA ∧ b = s.ref.encB) ∨ (a = s.ref.encA ∧ b ≠ s.ref.encB)) →
    quadStep s.ref.encA s.ref.encB a b = 1 → s.ref.fwd = true → s.ref.raw = s.ref.acc → 3 < encCpr s →
    (s.ref.acc + 1) % encCpr s ∈ startAngles s n → (s.ref.slots[n]).on = true → sourceNow s n = 3 → (s.ref.slots[n]).next = none →
    (s.ref.slots[n]).notBefore ≤ s.now → slotReady s n = true → frets (s.ref.slots[n]).cfg n.val = [] →
    (∀ m : Fin 8, m ≠ n → sourceNow s m ≠ 3 ∧ cadSource (s.ref.slots[m]).cfg m.val ≠ 3) →
    ∃ t, exec (.quadratureTransition a b) s = .next t ∧ (t.ref.slots[n]).issued = (s.ref.slots[n]).issued + 1)

/-- While the core runs and the encoder input is enabled, a sample of its filtered levels A and B takes both levels. Where both
differ from the sample before it, REF.ENC_ILLEGAL counts one and nothing else changes, so the raw count and the accepted position
stay; where at most one differs, REF.ENC_ILLEGAL keeps its value. A sample of a disabled encoder input changes nothing. (The
clause of legal samples assumes that no slot has the shutter as its source.) -/
def Obligations.IllegalEncoderTransitionsAreCounted : Prop :=
  (∀ (s : State) (a b : Bool), s.live = true → regBit s (filtReg 1) 31 = true → a ≠ s.ref.encA → b ≠ s.ref.encB →
    ∃ t, exec (.quadratureTransition a b) s = .next t ∧ t.ref = { s.ref with encA := a, encB := b } ∧
      regGet t 0x4008C = satInc (regGet s 0x4008C) ∧ onlyRegs [0x4008C] s t ∧ onlyChanges [.ref, .regs] s t) ∧
  (∀ (s : State) (a b : Bool), s.live = true → regBit s (filtReg 1) 31 = true → (a = s.ref.encA ∨ b = s.ref.encB) →
    (∀ n : Fin 8, sourceNow s n ≠ 3 ∧ cadSource (s.ref.slots[n]).cfg n.val ≠ 3) →
    ∃ t, exec (.quadratureTransition a b) s = .next t ∧ t.ref.encA = a ∧ t.ref.encB = b ∧
      regGet t 0x4008C = regGet s 0x4008C) ∧
  (∀ (s : State) (a b : Bool), regBit s (filtReg 1) 31 = false →
    ∃ t, exec (.quadratureTransition a b) s = .next t ∧ onlyChanges [] s t)

/-- For a request whose turn has come while the core runs: FORME_OPEN of a Free identifier other than 0, with fewer than 8 formes
Staged or Checking, makes it Staged for the party, empty; FORME_WRITE of triples that all name forme-staged registers appends
them, a second write to an offset joining the first, and answers the number of writes held; with one triple that names no forme-
staged register nothing is appended; FORME_LOAD of an object whose header passes its checks, with room for it, appends the object.
Each answers SUCCESS, and other formes and every register outside the slot are as before. -/
def Obligations.FormeCommandsStageWrites : Prop :=
  (∀ (s : State) (p : Party) (k : Fin 32) (req : List Byte) (i : Nat), s.live = true → asks s p k.val 0x0101 req →
    i = (byteAt req 0x10).toNat → formeOf s i = none → stagedCount s < 8 →
    ∃ t f, exec (.formeOpen p k) s = .next t ∧ answered t p k.val 0 0 0 ∧ formeOf t i = some f ∧ f.st = .staged ∧ f.owner = p ∧
      f.writes = [] ∧ f.objs = [] ∧ (∀ j, j ≠ i → formeOf t j = formeOf s j) ∧ onlySlot p k.val s t ∧
      onlyChanges (.frm :: .flt :: answering) s t) ∧
  (∀ (s : State) (p : Party) (k : Fin 32) (req l : List Byte) (buf : HostBuf) (i n : Nat) (f : Forme) (segs : List (Nat × Nat)),
    s.live = true → asks s p k.val 0x0102 req → i = (byteAt req 0x10).toNat → n = leAt req 0x14 4 → stagedBy s p i = some f →
    busMaster s p = true → partySegs s p (descAt req 0x20) buf = some (segs, true) →
    12 * n ≤ segTotal segs → segTotal segs ≤ 1073741824 → partyData s p segs buf = some l →
    ((∀ x ∈ triplesOf n (padTo (12 * n) l), isFs x.off = true) →
      ((triplesOf n (padTo (12 * n) l)).foldl mergeTriple f.writes).length ≤ 16384 →
      ∃ t, exec (.formeWrite p k buf) s = .next t ∧
        answered t p k.val 0 ((triplesOf n (padTo (12 * n) l)).foldl mergeTriple f.writes).length 0 ∧
        formeOf t i = some { f with writes := (triplesOf n (padTo (12 * n) l)).foldl mergeTriple f.writes } ∧
        (∀ j, j ≠ i → formeOf t j = formeOf s j) ∧ onlySlot p k.val s t ∧ onlyChanges (.frm :: .flt :: answering) s t) ∧
    ((∃ x ∈ triplesOf n (padTo (12 * n) l), isFs x.off = false) →
      ∃ t, exec (.formeWrite p k buf) s = .next t ∧ mbxState t p k.val = 3 ∧
        field (regGet t (mbxBase p k.val + 0x200)) 23 16 = stInvalidField ∧ onlyChanges answering s t)) ∧
  (∀ (s : State) (p : Party) (k : Fin 32) (req l : List Byte) (buf : HostBuf) (i kind n : Nat) (f : Forme) (segs : List (Nat × Nat)),
    s.live = true → asks s p k.val 0x0103 req → i = (byteAt req 0x10).toNat → kind = (byteAt req 0x11).toNat →
    n = (byteAt req 0x12).toNat → stagedBy s p i = some f → f.objs.length < 16 → busMaster s p = true →
    partySegs s p (descAt req 0x20) buf = some (segs, true) → segTotal segs ≤ 1073741824 → partyData s p segs buf = some l → l.length = segTotal segs →
    ((descAt req 0x20).sgl = false → areaBytes s + pageUp (leAt req 0x28 4) ≤ 536870912) →
    (byteAt l 0).toNat = kind → headerOk kind l = true → areaBytes s + pageUp l.length ≤ 536870912 →
    ∃ t, exec (.formeLoad p k buf) s = .next t ∧ answered t p k.val 0 (f.objs.length + 1) 0 ∧
      formeOf t i = some { f with objs := f.objs ++ [{ kind := kind, slot := n, bytes := l }] } ∧
      (∀ j, j ≠ i → formeOf t j = formeOf s j) ∧ onlySlot p k.val s t ∧ onlyChanges (.frm :: .flt :: answering) s t)

/-- While the core runs and the request's turn has come: FORME_LOCK of a Staged forme of the party with no reserved bit in APPLY
makes it Checking with its application point, and the request stays RUNNING; as its checks end, a forme that fails the hardware or
the resource checks is Staged again, REJECTED is answered with the stage's detail and raised, and one that passes every check and
does not apply in a gap is Locked with the next place in the commit order, at the end of an otherwise empty Locked list, the
newest target on every slot, and SUCCESS is answered; FORME_DISCARD frees a Staged forme, and takes the last Locked forme, whose
boundary has not begun to fire, off the Locked list; FORME_QUERY answers state, window, number of writes and objects of a forme of
the party and changes no forme. -/
def Obligations.FormeLockUpAndDiscard : Prop :=
  (∀ (s : State) (p : Party) (k : Fin 32) (req : List Byte) (i : Nat) (f : Forme), s.live = true → asks s p k.val 0x0104 req →
    i = (byteAt req 0x10).toNat → formeOf s i = some f → f.owner = p → f.st = .staged →
    ∃ t, exec (.formeLock p k) s = .next t ∧ mbxState t p k.val = 2 ∧
      formeOf t i = some { f with st := .checking, apply := BitVec.ofNat 32 (leAt req 0x14 4), ordinal := BitVec.ofNat 32 (leAt req 0x18 4) } ∧
      (∀ j, j ≠ i → formeOf t j = formeOf s j) ∧ t.frm.checking = s.frm.checking ++ [{ forme := i, party := p, slot := k.val }] ∧
      (∃ r ∈ t.mbx.running, r.party = p ∧ r.slot = k.val ∧ r.target = .forme i) ∧ onlySlot p k.val s t ∧
      onlyChanges [.frm, .mbx, .regs] s t) ∧
  (∀ (s s1 : State) (i : Fin 256) (c : LockReq) (f : Forme) (r : Reject), s.live = true → interrupted s = false →
    s.frm.checking = [c] → c.forme = i.val → c.slot < mbxSlots c.party → formeOf s i.val = some f → r.detail < 256 →
    s1 = modFrm s (fun y => { y with checking := [] }) →
    ((projOf s1 c.forme f).hardware <|> (projOf s1 c.forme f).resources) = some r →
    ∃ t, exec (.lockupComplete i) s = .next t ∧ formeOf t i.val = some { f with st := .staged } ∧ t.frm.checking = [] ∧
      mbxState t c.party c.slot = 3 ∧ field (regGet t (mbxBase c.party c.slot + 0x200)) 31 16 = r.detail * 256 + stRejected ∧
      raised t .frm 3) ∧
  (∀ (s s1 : State) (i : Fin 256) (c : LockReq) (f : Forme), s.live = true → interrupted s = false →
    s.frm.checking = [c] → c.forme = i.val → c.slot < mbxSlots c.party → formeOf s i.val = some f → f.kind < 2 →
    s.frm.lockedList = [] → s1 = modFrm s (fun y => { y with checking := [] }) →
    (projOf s1 c.forme f).hardware = none → (projOf s1 c.forme f).resources = none → (projOf s1 c.forme f).commitCheck = none →
    ∃ t g, exec (.lockupComplete i) s = .next t ∧ formeOf t i.val = some g ∧ g.st = .locked ∧ g.commitNo = s.frm.commits + 1 ∧
      g.writes = f.writes ∧ t.frm.lockedList = [i.val] ∧ t.frm.commits = s.frm.commits + 1 ∧
      (∀ n : Fin 8, (t.frm.targets[n]).getLast?.map (·.forme) = some i.val) ∧ answered t c.party c.slot 0 0 0) ∧
  (∀ (s : State) (p : Party) (k : Fin 32) (req : List Byte) (i : Nat) (f : Forme), s.live = true → asks s p k.val 0x0105 req →
    i = (byteAt req 0x10).toNat → formeOf s i = some f → f.owner = p →
    (f.st = .staged → ∃ t, exec (.formeDiscard p k) s = .next t ∧ answered t p k.val 0 0 0 ∧ formeOf t i = none ∧
      (∀ j, j ≠ i → formeOf t j = formeOf s j) ∧ onlySlot p k.val s t ∧ onlyChanges (.frm :: .flt :: answering) s t) ∧
    (f.st = .locked → s.frm.lockedList.getLast? = some i → hasFired s f = false →
      ∃ t, exec (.formeDiscard p k) s = .next t ∧ answered t p k.val 0 0 0 ∧ i ∉ t.frm.lockedList ∧
        (∀ g, formeOf t i = some g → g.st = .discarded) ∧ onlySlot p k.val s t ∧ onlyChanges (.frm :: .flt :: .ref :: .hev :: answering) s t)) ∧
  (∀ (s : State) (p : Party) (k : Fin 32) (req : List Byte) (i w : Nat) (f : Forme), s.live = true → asks s p k.val 0x0106 req →
    i = (byteAt req 0x10).toNat → formeOf s i = some f → f.owner = p → windowOf p = some w → f.writes.length < 16777216 →
    f.objs.length < 4294967296 →
    ∃ t, exec (.formeQuery p k) s = .next t ∧
      answered t p k.val 0 (f.st.code * 2 ^ 28 + w * 2 ^ 24 + f.writes.length) f.objs.length ∧
      regGet t (mbxBase p k.val + 0x210) = f.apply ∧ regGet t (mbxBase p k.val + 0x214) = f.ordinal ∧
      onlySlot p k.val s t ∧ onlyChanges answering s t)

/-- While the core runs: a write of STAGE_DATA by the window's party, with STAGE_CTL naming its Staged forme and STAGE_ADDR a
forme-staged register, appends the triple with STAGE_MASK, with room left, and leaves LAST_ERR 0; where the forme is not Staged
for the party, or the offset not forme-staged, nothing is appended and LAST_ERR says why; STAGE_ADDR moves on by 4 where AUTO_INC
is set; a write through another party's window appends nothing and is counted in SYS.BAD_ACCESS. -/
def Obligations.StagingWindow : Prop :=
  ∀ (s : State) (p : Party) (w : Fin 5) (data : Word), s.live = true →
    (windowOf p ≠ some w.val → ∃ t, exec (.stageData p w data) s = .next t ∧ regGet t 0x2C = satInc (regGet s 0x2C) ∧
      onlyRegs [0x2C] s t ∧ onlyChanges [.regs] s t) ∧
    (windowOf p = some w.val → ∀ i off e, i = field (regGet s (stageReg w.val 0)) 7 0 → off = (regGet s (stageReg w.val 4)).toNat →
      e = stageErr s p i off →
      ∃ t, exec (.stageData p w data) s = .next t ∧ t.frm.stageErr[w] = e ∧
        (∀ f, e = 0 → formeOf s i = some f →
          formeOf t i = some { f with writes := mergeTriple f.writes { off := off, data := data, mask := regGet s (stageReg w.val 8) } }) ∧
        (e ≠ 0 → t.frm.formes = s.frm.formes) ∧ (∀ j, j ≠ i → formeOf t j = formeOf s j) ∧
        regGet t (stageReg w.val 4) =
          (if bit (regGet s (stageReg w.val 0)) 8 then BitVec.ofNat 32 (off + 4) &&& maskOf (stageReg w.val 4)
            else regGet s (stageReg w.val 4)) ∧
        onlyRegs [stageReg w.val 4] s t ∧ onlyChanges [.frm, .regs] s t)

/-- While the core runs: in CONFIG, every 10 us, LINK_CONFIG goes out on the back-channel; the CDR lock of a lane of a link in
CONFIG takes the link to LOCKING, with the lane's taps at a start point that the spec leaves open (notes/assumptions/3.md); a
bring-up whose timeout has passed is counted and raised and starts again; a write of RETRAIN by a party that may write LNK.Lk_CTL
starts the bring-up of an enabled link, and without ALLOW_DISRUPT on a link that carries an unmasked slot it is ignored and
counted; a change of rate or lanes starts the bring-up, and a disable takes the link to DISABLED, once no slot of the link has a
frame in progress, an open packet of a link that was UP being delivered ABORTED. A bring-up starts only while LNK_REFCLK is not
lost. -/
def Obligations.LinkBringUpAndRetraining : Prop :=
  (∀ (s : State) (k : Fin 4), s.live = true → (s.lnk.links[k]).st = .config → (∀ t0, (s.lnk.links[k]).lastCfg = some t0 → t0 + 10000 ≤ s.now) →
    ∃ t, exec (.linkConfigSend k) s = .next t ∧ t.out = .bc k (.linkConfig (linkConfigBytes s k.val)) :: s.out ∧
      (t.lnk.links[k]).lastCfg = some s.now ∧ (t.lnk.links[k]).st = .config ∧
      (t.lnk.links[k]).tx = (s.lnk.links[k]).tx.send s.now (.linkConfig (linkConfigBytes s k.val)) ∧ onlyChanges [.lnk, .out] s t) ∧
  (∀ (s : State) (j : Fin 32) (k : Fin 4), s.live = true → laneLink s j.val = some k → (s.lnk.links[k]).st = .config →
    ∃ t, exec (.cdrLock j) s = .next t ∧ (t.lnk.links[k]).st = .locking ∧
      regGet t (laneReg j.val 0x24) = Config.freeWord s.free &&& maskOf (laneReg j.val 0x24) ∧
      (t.lnk.lanes[j]).running = true ∧ (t.lnk.lanes[j]).eqAt = s.now ∧
      onlyRegs [laneReg j.val 0x24] s t ∧ onlyChanges [.lnk, .regs, .free] s t) ∧
  (∀ (s : State) (k : Fin 4), s.live = true → (s.lnk.links[k]).st ∈ [.config, .locking, .deskew] →
    (s.lnk.links[k]).start + bringupTimeout s k.val ≤ s.now → (s.lnk.links[k]).testing = false → (s.sys.clocks[3]).lost = false →
    ∃ t, exec (.bringupFail k) s = .next t ∧ (t.lnk.links[k]).st = .config ∧ (t.lnk.links[k]).start = s.now ∧
      regGet t (lkReg k.val 0x2C) = satInc (regGet s (lkReg k.val 0x2C)) ∧ raised t .lnk 2 ∧
      (t.lnk.links[k]).tx.origin = some s.now ∧
      onlyRegs [lkReg k.val 0x2C, 0x52000] s t ∧ onlyChanges (.lnk :: .free :: reporting) s t) ∧
  (∀ (s : State) (p : Party) (k : Fin 4) (v : Word), s.live = true → mayWrite p (lkReg k.val 0xC) = true → bit v 30 = true →
    (bit v 31 = true ∨ carriesUnmasked s k.val = false) → linkEnabled s k.val = true → (s.lnk.links[k]).testing = false →
    (∀ n : Fin 8, currentFrame s n = none) → (s.sys.clocks[3]).lost = false →
    ∃ t, exec (.retrain p k v) s = .next t ∧ (t.lnk.links[k]).st = .config ∧ (t.lnk.links[k]).start = s.now ∧
      regGet t (lkReg k.val 0xC) = v &&& 0x0001FFFF) ∧
  (∀ (s : State) (p : Party) (k : Fin 4) (v : Word), s.live = true → mayWrite p (lkReg k.val 0xC) = true → bit v 30 = true →
    bit v 31 = false → carriesUnmasked s k.val = true →
    ∃ t, exec (.retrain p k v) s = .next t ∧ regGet t testRefusedReg = satInc (regGet s testRefusedReg) ∧
      onlyRegs [testRefusedReg] s t ∧ onlyChanges [.regs] s t) ∧
  (∀ (s : State) (k : Fin 4), s.live = true → (s.lnk.links[k]).reconfig = true →
    (∀ n ∈ slotsOf s k.val, currentFrame s n = none) → (s.lnk.links[k]).testing = false → (s.sys.clocks[3]).lost = false →
    ∃ t, exec (.linkReconfig k) s = .next t ∧ (t.lnk.links[k]).st = .config ∧ (t.lnk.links[k]).start = s.now ∧
      (t.lnk.links[k]).reconfig = false ∧ ((s.lnk.links[k]).disabling = false → (t.lnk.links[k]).held = none) ∧
      ((s.lnk.links[k]).st ≠ .up → onlyChanges [.lnk, .out, .free] s t) ∧
      (∀ p, (s.lnk.links[k]).st = .up → (s.lnk.links[k]).pkt = some p →
        (t.lnk.links[k]).rx = (s.lnk.links[k]).rx ++ [.packet { p with aborted := true }])) ∧
  (∀ (s : State) (k : Fin 4), s.live = true → (s.lnk.links[k]).disabling = true →
    (∀ n ∈ slotsOf s k.val, currentFrame s n = none) →
    ∃ t, exec (.linkDisable k) s = .next t ∧ (t.lnk.links[k]).st = .disabled ∧ (t.lnk.links[k]).disabling = false ∧
      (t.lnk.links[k]).tx.origin = none ∧ (∀ j ∈ lanesOf s k.val, (t.lnk.lanes[j]).invert = false) ∧
      ((s.lnk.links[k]).st ≠ .up → onlyChanges [.lnk] s t) ∧
      (∀ p, (s.lnk.links[k]).st = .up → (s.lnk.links[k]).pkt = some p →
        (t.lnk.links[k]).rx = (s.lnk.links[k]).rx ++ [.packet { p with aborted := true }]))

/-- While the core runs, on a lane that is not under test: on a lane of no link, of blocks that hold no marker, a valid header
counts towards block lock, the 64th in a row gains it, and an invalid one starts the count again; on a locked lane of a link the
block is descrambled and put into the elastic buffer, and one with an invalid header is counted in HDR_ERR and passed on as bad;
16 invalid headers of a window lose block lock at the window's last header, counted in LOCK_LOSS; with block lock, a marker sets
the grid, the next one 16,384 blocks later gains marker lock and names the logical lane, and an inverted one before marker lock
sets INVERT, while one off the grid of a locked lane is counted in AM_MISS and passed on to nobody. On a lane under test a block,
a marker's bits included, is checked against the lane's pattern and counts in PRBS_ERR and PRBS_MBITS; in modes 2 and 3 the bits
checked are those of the on-die generator. -/
def Obligations.LinkReceivePath : Prop :=
  (∀ (s : State) (j : Fin 32) (hdr : BitVec 2) (payload : BitVec 64) (reads : Nat), s.live = true →
    regField s (laneReg j.val 4) 30 28 = 0 → (s.lnk.lanes[j]).invert = false → laneLink s j.val = none →
    (s.lnk.lanes[j]).blockLock = false → (s.lnk.lanes[j]).sinceAm = none →
    markerOf (leBytes 8 payload.toNat) = none → markerOf (leBytes 8 (~~~payload).toNat) = none →
    ∃ t, exec (.blockReceived j hdr payload reads) s = .next t ∧
      ((hdr = 1 ∨ hdr = 2) → (s.lnk.lanes[j]).goodRun < 63 →
        (t.lnk.lanes[j]).blockLock = false ∧ (t.lnk.lanes[j]).goodRun = (s.lnk.lanes[j]).goodRun + 1) ∧
      ((hdr = 1 ∨ hdr = 2) → 63 ≤ (s.lnk.lanes[j]).goodRun → (t.lnk.lanes[j]).blockLock = true) ∧
      ((hdr = 0 ∨ hdr = 3) → (t.lnk.lanes[j]).blockLock = false ∧ (t.lnk.lanes[j]).goodRun = 0) ∧
      (∀ i, i ≠ j → t.lnk.lanes[i] = s.lnk.lanes[i]) ∧ t.lnk.links = s.lnk.links ∧ onlyChanges [.lnk] s t) ∧
  (∀ (s : State) (j : Fin 32) (k : Fin 4) (hdr : BitVec 2) (payload : BitVec 64), s.live = true →
    regField s (laneReg j.val 4) 30 28 = 0 → (s.lnk.lanes[j]).invert = false → laneLink s j.val = some k →
    (s.lnk.links[k]).st = .locking → (s.lnk.lanes[j]).blockLock = true → (s.lnk.lanes[j]).winBad < 15 →
    (s.lnk.lanes[j]).sinceAm = none → (s.lnk.lanes[j]).eb.length < 20 →
    (hdr = 2 → ∃ t, exec (.blockReceived j hdr payload 0) s = .next t ∧
      (markerOf (leBytes 8 (~~~payload).toNat) = none →
        (t.lnk.lanes[j]).eb = (s.lnk.lanes[j]).eb ++ [.data (leBytes 8 (descramble payload 64 (s.lnk.lanes[j]).descr 0).2.toNat)] ∧
        (t.lnk.lanes[j]).blockLock = true ∧ onlyChanges [.lnk] s t)) ∧
    ((hdr = 0 ∨ hdr = 3) → ∃ t, exec (.blockReceived j hdr payload 0) s = .next t ∧
      (t.lnk.lanes[j]).eb = (s.lnk.lanes[j]).eb ++ [.bad] ∧
      regGet t (laneReg j.val 8) = satInc (regGet s (laneReg j.val 8)) ∧ onlyRegs [laneReg j.val 8] s t ∧
      onlyChanges [.lnk, .regs] s t)) ∧
  (∀ (s : State) (j : Fin 32) (hdr : BitVec 2) (payload : BitVec 64) (reads : Nat), s.live = true →
    regField s (laneReg j.val 4) 30 28 = 0 → (s.lnk.lanes[j]).invert = false → laneLink s j.val = none →
    (s.lnk.lanes[j]).blockLock = true → (s.lnk.lanes[j]).winPos = 63 → 15 ≤ (s.lnk.lanes[j]).winBad →
    (s.lnk.lanes[j]).sinceAm = none → (hdr = 0 ∨ hdr = 3) →
    ∃ t, exec (.blockReceived j hdr payload reads) s = .next t ∧ (t.lnk.lanes[j]).blockLock = false ∧
      regGet t (laneReg j.val 0xC) = satInc (regGet s (laneReg j.val 0xC)) ∧
      regGet t (laneReg j.val 8) = satInc (regGet s (laneReg j.val 8)) ∧
      onlyRegs [laneReg j.val 8, laneReg j.val 0xC] s t ∧ onlyChanges [.lnk, .regs] s t) ∧
  (∀ (s : State) (j : Fin 32) (inv : Bool) (lane widthM1 : Fin 8) (seq : Byte) (reads : Nat), s.live = true →
    regField s (laneReg j.val 4) 30 28 = 0 → (s.lnk.lanes[j]).invert = false → laneLink s j.val = none →
    (s.lnk.lanes[j]).blockLock = true → (s.lnk.lanes[j]).winBad < 16 → (s.lnk.lanes[j]).amLock = false →
    ∃ t, exec (.amReceived j inv lane widthM1 seq reads) s = .next t ∧
      (inv = true → (t.lnk.lanes[j]).invert = true ∧ (t.lnk.lanes[j]).amLock = false) ∧
      (inv = false → (s.lnk.lanes[j]).sinceAm = some 16383 →
        (t.lnk.lanes[j]).amLock = true ∧ (t.lnk.lanes[j]).logical = lane.val ∧ (t.lnk.lanes[j]).width = widthM1.val + 1) ∧
      (inv = false → (s.lnk.lanes[j]).sinceAm ≠ some 16383 →
        (t.lnk.lanes[j]).amLock = false ∧ (t.lnk.lanes[j]).sinceAm = some 0) ∧ onlyChanges [.lnk] s t) ∧
  (∀ (s : State) (j : Fin 32) (lane widthM1 : Fin 8) (seq : Byte) (reads d : Nat), s.live = true →
    regField s (laneReg j.val 4) 30 28 = 0 → (s.lnk.lanes[j]).invert = false → laneLink s j.val = none →
    (s.lnk.lanes[j]).blockLock = true → (s.lnk.lanes[j]).winBad < 16 → (s.lnk.lanes[j]).amLock = true →
    (s.lnk.lanes[j]).sinceAm = some d → d < 16383 →
    ∃ t, exec (.amReceived j false lane widthM1 seq reads) s = .next t ∧ (t.lnk.lanes[j]).amLock = true ∧
      (t.lnk.lanes[j]).sinceAm = some (d + 1) ∧ regGet t (laneReg j.val 0x10) = satInc (regGet s (laneReg j.val 0x10)) ∧
      onlyRegs [laneReg j.val 0x10] s t ∧ onlyChanges [.lnk, .regs] s t) ∧
  (∀ (s : State) (j : Fin 32) (hdr : BitVec 2) (payload : BitVec 64) (reads : Nat) (p : Prbs) (e : Nat), s.live = true →
    regField s (laneReg j.val 4) 30 28 ≠ 0 → (s.lnk.lanes[j]).mapped = none →
    prbsBits (prbsTaps (regField s (laneReg j.val 4) 27 26))
      (if regField s (laneReg j.val 4) 30 28 = 2 ∨ regField s (laneReg j.val 4) 30 28 = 3 then
        (prbsGen (prbsTaps (regField s (laneReg j.val 4) 27 26)) 66 (s.lnk.lanes[j]).gen []).1 else blockBits hdr payload)
      (s.lnk.lanes[j]).prbs 0 = (p, e) →
    ∃ t, exec (.blockReceived j hdr payload reads) s = .next t ∧
      regGet t (laneReg j.val 0x1C) = satAdd (regGet s (laneReg j.val 0x1C)) e ∧
      regGet t (laneReg j.val 0x20) = satAdd (regGet s (laneReg j.val 0x20)) (p.bits / 1048576) ∧
      regBit t (laneReg j.val 4) 25 = p.locked ∧ (t.lnk.lanes[j]).prbs = { p with bits := p.bits % 1048576 } ∧
      onlyRegs [laneReg j.val 4, laneReg j.val 0x1C, laneReg j.val 0x20] s t ∧ onlyChanges [.lnk, .regs] s t) ∧
  (∀ (s : State) (j : Fin 32) (inv : Bool) (lane widthM1 : Fin 8) (seq : Byte) (reads : Nat) (m : BitVec 64), s.live = true →
    regField s (laneReg j.val 4) 30 28 ≠ 0 → m = payloadOf (markerBytes lane.val (widthM1.val + 1) seq.toNat) →
    ∃ t, exec (.amReceived j inv lane widthM1 seq reads) s = .next t ∧
      exec (.blockReceived j (if inv = true then 2 else 1) (if inv = true then ~~~m else m) reads) s = .next t)

/-- While the core runs: 1,000 ms after its last measurement a link that is UP sends 8 PINGs and starts the measurement again; an
ECHO of an outstanding PING within 10 us gives a sample, the round trip less the declared turnaround and the device's receive
latency, a later one drops its PING, and with the last one answered or dropped half the median comes into LNK.Lk_BC_DELAY; a PING
outstanding for 10 us is dropped; a STATUS block is kept; a whole SENSOR_EVENT raises its event; a whole REG_RESPONSE answers the
mailbox request that waits for its slot with SUCCESS and the answers in host memory, or a user core's own, and with NOT_READY when
it comes later than 10 ms, and 10 ms without one answer it with NOT_READY. -/
def Obligations.LinkDelayAndSensorPackets : Prop :=
  (∀ (s : State) (k : Fin 4), s.live = true → (s.lnk.links[k]).st = .up → (s.lnk.links[k]).lastMeas + 1000000000 ≤ s.now →
    ∃ t l, exec (.bcDelayMeasure k) s = .next t ∧ t.out = l ++ s.out ∧ l.length = 8 ∧ (∀ o ∈ l, ∃ q, o = .bc k (.ping q)) ∧
      (t.lnk.links[k]).pings.length = 8 ∧ (t.lnk.links[k]).samples = [] ∧ (t.lnk.links[k]).dropped = 0 ∧
      (t.lnk.links[k]).lastMeas = s.now ∧ onlyChanges [.lnk, .out] s t) ∧
  (∀ (s : State) (k : Fin 4) (rtt q turn : Nat) (r : List RxItem) (p : PingSt), s.live = true → (s.lnk.links[k]).rx = .echo q :: r →
    (s.lnk.links[k]).pings.find? (fun x => decide (x.id = q)) = some p → s.now ≤ p.sentAt + 10000 → rtt ≤ 10000000 → turn = turnaround s k →
    ∃ t, exec (.echo k rtt) s = .next t ∧ (t.lnk.links[k]).rx = r ∧ (∀ x ∈ (t.lnk.links[k]).pings, x.id ≠ q) ∧
      ((∃ x ∈ (s.lnk.links[k]).pings, x.id ≠ q) →
        (t.lnk.links[k]).samples = (s.lnk.links[k]).samples ++ [rtt - turn - Config.linkLatency k.val] ∧ onlyChanges [.lnk] s t) ∧
      ((∀ x ∈ (s.lnk.links[k]).pings, x.id = q) →
        (t.lnk.links[k]).delayValid = true ∧ (t.lnk.links[k]).samples = [] ∧
        regGet t (lkReg k.val 0x14) =
          BitVec.ofNat 32 (median ((s.lnk.links[k]).samples ++ [rtt - turn - Config.linkLatency k.val]) / 2) &&& maskOf (lkReg k.val 0x14))) ∧
  (∀ (s : State) (k : Fin 4) (rtt q : Nat) (r : List RxItem) (p : PingSt), s.live = true → (s.lnk.links[k]).rx = .echo q :: r →
    (s.lnk.links[k]).pings.find? (fun x => decide (x.id = q)) = some p → p.sentAt + 10000 < s.now →
    (∃ x ∈ (s.lnk.links[k]).pings, x.id ≠ q) →
    ∃ t, exec (.echo k rtt) s = .next t ∧ (t.lnk.links[k]).rx = r ∧ (∀ x ∈ (t.lnk.links[k]).pings, x.id ≠ q) ∧
      (t.lnk.links[k]).samples = (s.lnk.links[k]).samples ∧ (t.lnk.links[k]).dropped = (s.lnk.links[k]).dropped + 1 ∧
      onlyChanges [.lnk] s t) ∧
  (∀ (s : State) (k : Fin 4) (q : Nat) (p : PingSt), s.live = true → p ∈ (s.lnk.links[k]).pings → p.id = q → p.sentAt + 10000 ≤ s.now →
    ∃ t, exec (.pingTimeout k q) s = .next t ∧ (∀ x ∈ (t.lnk.links[k]).pings, x.id ≠ q) ∧
      ((∃ x ∈ (s.lnk.links[k]).pings, x.id ≠ q) →
        (t.lnk.links[k]).dropped = (s.lnk.links[k]).dropped + 1 ∧ onlyChanges [.lnk] s t) ∧
      ((∀ x ∈ (s.lnk.links[k]).pings, x.id = q) → (s.lnk.links[k]).samples = [] →
        raised t .lnk 6 ∧ regGet t (lkReg k.val 0x14) = regGet s (lkReg k.val 0x14) ∧
        ((s.lnk.links[k]).capsDue = false → onlyChanges (.lnk :: reporting) s t))) ∧
  (∀ (s : State) (k : Fin 4) (b : List Byte) (r : List RxItem), s.live = true → (s.lnk.links[k]).rx = .status b :: r →
    ∃ t, exec (.statusBlock k) s = .next t ∧ (t.lnk.links[k]).status = b ∧ (t.lnk.links[k]).rx = r ∧ onlyChanges [.lnk] s t) ∧
  (∀ (s : State) (k : Fin 4) (p : OpenPkt) (r : List RxItem), s.live = true → (s.lnk.links[k]).rx = .packet p :: r → p.ty = 4 →
    ∃ t, exec (.sensorEvent k) s = .next t ∧ (t.lnk.links[k]).rx = r ∧ onlyRegs [0x52000] s t ∧ onlyChanges (.lnk :: reporting) s t ∧
      (p.aborted = false → p.errored = false → raised t .lnk 8) ∧
      ((p.aborted = true ∨ p.errored = true) → onlyChanges [.lnk] s t)) ∧
  (∀ (s : State) (k : Fin 4) (p : OpenPkt) (r : List RxItem) (n : Fin 8) (w : RegWait), s.live = true →
    (s.lnk.links[k]).rx = .packet p :: r → p.ty = 3 → p.slot = some n.val → p.aborted = false → p.errored = false →
    s.lnk.regWaits = [w] → w.slot = n.val → w.mslot < mbxSlots w.party → 8 * w.entries ≤ p.bytes.length →
    w.entries < 2 ^ 32 → w.segs = [(0x1000, 8 * w.entries)] → s.now ≤ w.sentAt + 10000000 →
    ∃ t, exec (.regResponse k) s = .next t ∧ answered t w.party w.mslot stSuccess w.entries 0 ∧ t.lnk.regWaits = [] ∧
      (0 < w.entries → (∀ u, w.party ≠ .user u) → .hostWrite (partyNo w.party) 0x1000 (p.bytes.take (8 * w.entries)) ∈ t.out) ∧
      (∀ u, w.party = .user u → 8 * w.entries ≤ 0x7F000 → tcmBytes t u.val 0x1000 (8 * w.entries) = p.bytes.take (8 * w.entries)) ∧
      onlySlot w.party w.mslot s t ∧ onlyChanges (.lnk :: .per :: .imp :: answering) s t) ∧
  (∀ (s : State) (k : Fin 4) (p : OpenPkt) (r : List RxItem) (n : Fin 8) (w : RegWait), s.live = true →
    (s.lnk.links[k]).rx = .packet p :: r → p.ty = 3 → p.slot = some n.val → p.aborted = false → p.errored = false →
    s.lnk.regWaits = [w] → w.slot = n.val → w.mslot < mbxSlots w.party → w.sentAt + 10000000 < s.now →
    ∃ t, exec (.regResponse k) s = .next t ∧ answered t w.party w.mslot stNotReady 0 0 ∧ t.lnk.regWaits = []) ∧
  (∀ (s : State) (n : Fin 8) (w : RegWait), s.live = true → s.lnk.regWaits = [w] → w.slot = n.val → w.mslot < mbxSlots w.party →
    w.sentAt + 10000000 ≤ s.now →
    ∃ t, exec (.regAccessTimeout n) s = .next t ∧ answered t w.party w.mslot stNotReady 0 0 ∧ t.lnk.regWaits = [] ∧
      onlySlot w.party w.mslot s t ∧ onlyChanges (.lnk :: answering) s t)

/-- While the core runs, by a party that may write LNK.LANEj_TEST and with no frame in progress: a test mode with ALLOW_DISRUPT on
a lane of an enabled link takes effect, restarts the PRBS checker, and takes the link DOWN and keeps it there; in modes 1 and 4,
on a lane that has been mapped and, for mode 4, with a back-channel rate, the sensor is told the mode, the pattern and the lane;
modes 2 and 3 take effect on an unassigned lane too; a test on an assigned lane without ALLOW_DISRUPT is ignored and counted; so
are modes 1 and 4 on a lane that has never been mapped; MODE 0 ends the test and, with no other lane of the link under test,
restarts the bring-up. An adaptation, due 1 ms after the last one on a lane that runs with FREEZE 0, changes at most one tap by
one step, or reverts the last step after a rise in header errors; where none is due nothing changes. Which tap it is the spec
leaves open (notes/assumptions/3.md). -/
def Obligations.LaneTestsAndEqualisers : Prop :=
  (∀ (s : State) (p : Party) (j : Fin 32) (k : Fin 4) (v : Word) (i : Nat), s.live = true → mayWrite p (laneReg j.val 4) = true →
    (∀ n : Fin 8, currentFrame s n = none) → bit v 31 = true → laneAssigned s j.val = some k → (s.lnk.lanes[j]).mapped = some i →
    (field v 30 28 = 1 → ∃ t, exec (.prbsCheck p j v) s = .next t ∧ regField t (laneReg j.val 4) 30 28 = 1 ∧
      (t.lnk.links[k]).testing = true ∧ ((s.lnk.links[k]).st ≠ .disabled → (t.lnk.links[k]).st = .down) ∧
      (t.lnk.lanes[j]).prbs = Lane.reset.prbs ∧ .bc k (.test 1 (field v 27 26) (2 ^ i)) ∈ t.out) ∧
    (field v 30 28 = 4 → regField s (lkReg k.val 0) 30 28 ≠ 0 →
      ∃ t, exec (.farEndLoopback p j v) s = .next t ∧ regField t (laneReg j.val 4) 30 28 = 4 ∧
      (t.lnk.links[k]).testing = true ∧ ((s.lnk.links[k]).st ≠ .disabled → (t.lnk.links[k]).st = .down) ∧
      (t.lnk.links[k]).tx.pattern = some (field v 27 26) ∧ .bc k (.test 2 (field v 27 26) (2 ^ i)) ∈ t.out)) ∧
  (∀ (s : State) (p : Party) (j : Fin 32) (v : Word), s.live = true → mayWrite p (laneReg j.val 4) = true → laneAssigned s j.val = none →
    (field v 30 28 = 2 → ∃ t, exec (.nearEndSerial p j v) s = .next t ∧ regField t (laneReg j.val 4) 30 28 = 2 ∧
      regField t (laneReg j.val 4) 27 26 = field v 27 26 ∧ (t.lnk.lanes[j]).prbs = Lane.reset.prbs ∧
      (t.lnk.lanes[j]).rate = 10000000 ∧ onlyRegs [laneReg j.val 4] s t ∧ onlyChanges [.lnk, .regs, .free] s t) ∧
    (field v 30 28 = 3 → ∃ t, exec (.nearEndParallel p j v) s = .next t ∧ regField t (laneReg j.val 4) 30 28 = 3 ∧
      regField t (laneReg j.val 4) 27 26 = field v 27 26 ∧ (t.lnk.lanes[j]).prbs = Lane.reset.prbs ∧
      (t.lnk.lanes[j]).rate = 10000000 ∧ onlyRegs [laneReg j.val 4] s t ∧ onlyChanges [.lnk, .regs, .free] s t)) ∧
  (∀ (s : State) (p : Party) (j : Fin 32) (k : Fin 4) (v : Word) (c : Instr), s.live = true → mayWrite p (laneReg j.val 4) = true →
    laneAssigned s j.val = some k → bit v 31 = false →
    (field v 30 28, c) ∈ [(1, .prbsCheck p j v), (2, .nearEndSerial p j v), (3, .nearEndParallel p j v), (4, .farEndLoopback p j v)] →
    ∃ t, exec c s = .next t ∧ regGet t testRefusedReg = satInc (regGet s testRefusedReg) ∧ onlyRegs [testRefusedReg] s t ∧
      onlyChanges [.regs] s t) ∧
  (∀ (s : State) (p : Party) (j : Fin 32) (v : Word) (c : Instr), s.live = true → mayWrite p (laneReg j.val 4) = true →
    (s.lnk.lanes[j]).mapped = none → (field v 30 28, c) ∈ [(1, .prbsCheck p j v), (4, .farEndLoopback p j v)] →
    ∃ t, exec c s = .next t ∧ regGet t testRefusedReg = satInc (regGet s testRefusedReg) ∧ onlyRegs [testRefusedReg] s t ∧
      onlyChanges [.regs] s t) ∧
  (∀ (s : State) (p : Party) (j : Fin 32) (v : Word), s.live = true → mayWrite p (laneReg j.val 4) = true → field v 30 28 = 0 →
    ∃ t, exec (.testOff p j v) s = .next t ∧ regField t (laneReg j.val 4) 30 28 = 0 ∧ onlyRegs [laneReg j.val 4] s t ∧
      (∀ k, laneAssigned s j.val = some k → regField s (laneReg j.val 4) 30 28 ≠ 0 → (s.sys.clocks[3]).lost = false →
        (∀ i ∈ lanesOf s k.val, i ≠ j → regField s (laneReg i.val 4) 30 28 = 0) →
        (t.lnk.links[k]).st = .config ∧ (t.lnk.links[k]).testing = false) ∧ onlyChanges [.lnk, .regs, .out, .free] s t) ∧
  (∀ (s : State) (j : Fin 32), s.live = true → adaptDue s j = true →
    (∀ old, (s.lnk.lanes[j]).eqPrev = some old → (s.lnk.lanes[j]).errPrev < (s.lnk.lanes[j]).errCur →
      ∃ t, exec (.eqAdapt j) s = .next t ∧ regGet t (laneReg j.val 0x24) = old &&& maskOf (laneReg j.val 0x24) ∧
        (t.lnk.lanes[j]).eqPrev = none ∧ (t.lnk.lanes[j]).eqAt = s.now ∧ onlyRegs [laneReg j.val 0x24] s t ∧
        onlyChanges [.lnk, .regs] s t) ∧
    (∀ old, (s.lnk.lanes[j]).eqPrev = some old → (s.lnk.lanes[j]).errCur ≤ (s.lnk.lanes[j]).errPrev →
      ∃ t, exec (.eqAdapt j) s = .next t ∧ (t.lnk.lanes[j]).eqPrev = none ∧ (t.lnk.lanes[j]).eqAt = s.now ∧ onlyChanges [.lnk] s t) ∧
    ((s.lnk.lanes[j]).eqPrev = none →
      ∃ t w, exec (.eqAdapt j) s = .next t ∧ regGet t (laneReg j.val 0x24) = w &&& maskOf (laneReg j.val 0x24) ∧
        (w = regGet s (laneReg j.val 0x24) ∨ ∃ hi lo up, (hi, lo) ∈ [(23, 16), (15, 10), (9, 5), (4, 0)] ∧
          w = stepTap (regGet s (laneReg j.val 0x24)) hi lo up) ∧
        (t.lnk.lanes[j]).eqPrev = some (regGet s (laneReg j.val 0x24)) ∧ (t.lnk.lanes[j]).errPrev = (s.lnk.lanes[j]).errCur ∧
        (t.lnk.lanes[j]).errCur = 0 ∧ onlyRegs [laneReg j.val 0x24] s t ∧ onlyChanges [.lnk, .regs, .free] s t)) ∧
  (∀ (s : State) (j : Fin 32), adaptDue s j = false → ∃ t, exec (.eqAdapt j) s = .next t ∧ onlyChanges [] s t)

/-- While the core runs, of the oldest LINE packet that a link has received for a slot, on courses that an earlier frame of
another slot has left: a line that fails its checks is counted as failed, reported, and counted in the current frame; a good line
of a slot with no frame in progress is a stray one, counted and reported, and counted as dropped where its frame closed on an
overflow; a good line of the current frame, in order, with room in the course buffers, is accepted: it is counted, its payload is
kept, and the frame's count of lines received rises by one; where it is the first one and the sensor does not echo tags, the frame
takes its expected tag. The last two clauses take a line that is not the last of its frame, in a frame without fret entries; of a
course stage that meets an error they say what is marked. Nothing else changes where no error is met, no statistics window is
open, the frame is not recorded and no surface of it is enabled. -/
def Obligations.LinesAreClassified : Prop :=
  (∀ (s : State) (k : Fin 4) (d : Vector Nat 4) (fl : StageFault) (p : OpenPkt) (r : List RxItem) (n : Fin 8) (f : Frame), s.live = true →
    (s.lnk.links[k]).rx = .packet p :: r → p.ty = 1 → p.slot = some n.val → lineFails s n p = true → s.ing.frames[n] = [f] →
    f.closed = false → lineWaits s p = false →
    ∃ t g, exec (.linePacket k d fl) s = .next t ∧ (t.lnk.links[k]).rx = r ∧ t.ing.frames[n] = [g] ∧
      g.fr.linesCrc = f.fr.linesCrc + 1 ∧ g.lines = f.lines ∧ g.closed = false ∧
      regGet t (ingReg n.val 0x24) = satInc (regGet s (ingReg n.val 0x24)) ∧ raised t .ing 3 ∧
      onlyRegs [ingReg n.val 0x24, 0x61000] s t ∧ onlyChanges (.lnk :: .ing :: reporting) s t) ∧
  (∀ (s : State) (k : Fin 4) (d : Vector Nat 4) (fl : StageFault) (p : OpenPkt) (r : List RxItem) (n : Fin 8), s.live = true →
    (s.lnk.links[k]).rx = .packet p :: r → p.ty = 1 → p.slot = some n.val → lineFails s n p = false → currentFrame s n = none →
    ∃ t, exec (.linePacket k d fl) s = .next t ∧ (t.lnk.links[k]).rx = r ∧ t.ing.frames = s.ing.frames ∧
      regGet t (ingReg n.val 0x30) = satInc (regGet s (ingReg n.val 0x30)) ∧ raised t .ing 4 ∧
      regGet t (ingReg n.val 0x34) = (if (s.ing.overflowed[n]).contains (lineHdr p.bytes).ord = true then satInc (regGet s (ingReg n.val 0x34))
        else regGet s (ingReg n.val 0x34)) ∧ onlyRegs [ingReg n.val 0x30, ingReg n.val 0x34, 0x61000] s t ∧ onlyChanges (.lnk :: .ing :: reporting) s t) ∧
  (∀ (s : State) (k : Fin 4) (d : Vector Nat 4) (fl : StageFault) (p : OpenPkt) (r : List RxItem) (n : Fin 8) (f : Frame) (h : LineHdr),
    s.live = true →
    (s.lnk.links[k]).rx = .packet p :: r → p.ty = 1 → p.slot = some n.val → lineFails s n p = false → s.ing.frames[n] = [f] →
    f.closed = false → lineWaits s p = false → h = lineHdr p.bytes → f.fr.ord = h.ord → (issuedNo s n h.ord).isSome = true → frets f.cfg n.val = [] →
    h.line + 1 < f.fr.linesExpected → (∀ y, f.lastLine = some y → y < h.line) →
    (fillBuffers (drainBuffers s d) (stripeBytes f)).isSome = true →
    (f.lines ≠ [] → h.line < f.frameLines →
      ∃ t g, exec (.linePacket k d fl) s = .next t ∧ (t.lnk.links[k]).rx = r ∧ t.ing.frames[n] = [g] ∧
        g.lines = f.lines ++ [(h.line, (p.bytes.take (p.bytes.length - 4)).drop 16)] ∧
        g.fr.linesReceived = f.fr.linesReceived + 1 ∧ g.closed = false ∧
        regGet t (ingReg n.val 0x20) = satInc (regGet s (ingReg n.val 0x20)) ∧
        (fl = .sram → bit g.fr.status 5 = true) ∧ (∀ c, fl = .engine c → g.engineBad = f.engineBad ++ [(c.val, h.line)]) ∧
        (∀ w, fl = .lut w → w ∈ t.lut.bad) ∧ (∀ x, fl = .lutCorrected x → regGet t 0xB0004 = satAdd (regGet s 0xB0004) x) ∧
        (fl = .none → f.wins = [] → f.hold = .none → s.fetchBad = [] → (∀ x : Fin 32, bit (f.reg (surfReg x.val 0)) 31 = false) →
          onlyChanges [.lnk, .ing, .regs] s t)) ∧
    (f.lines = [] → f.echo = false → s.frm.latching = false → h.line < h.frameLines → h.frameLines ≤ f.fr.linesExpected →
      ∃ t g, exec (.linePacket k d fl) s = .next t ∧ t.ing.frames[n] = [g] ∧ g.fr.tag = f.expTag ∧ g.tagKnown = true ∧
        g.bankRegs = tagRegs s n f.expTag ∧ g.frameLines = h.frameLines ∧
        g.lines = [(h.line, (p.bytes.take (p.bytes.length - 4)).drop 16)] ∧ g.fr.linesReceived = f.fr.linesReceived + 1 ∧
        (fl = .none → f.wins = [] → f.hold = .none → s.fetchBad = [] → (∀ x : Fin 32, bit (f.reg (surfReg x.val 0)) 31 = false) →
          onlyChanges [.lnk, .ing, .regs, .frm] s t)))

/-- While the core runs: a frame of a slot whose TIMEOUT has passed, with no line of the slot delivered and still to be taken,
closes with CAUSE 2 and is counted and reported as short; the record of a slot's oldest frame is sealed once the frame is closed:
the frame is done, and surfaces written for it carry its record; no other frame seals; a surface buffer that its courses have
written, of a sealed record, becomes the latest complete buffer, and LATEST and LAST_ORD name it; a surface whose frame is not
sealed is not marked complete, whatever is written. -/
def Obligations.FramesCloseAndSeal : Prop :=
  (∀ (s : State) (n : Fin 8) (f : Frame), s.live = true → s.ing.frames[n] = [f] → f.closed = false → timedOut s n.val f = true →
    slotLineWaiting s n.val = false →
    ∃ t, exec (.frameTimeout n) s = .next t ∧ (∃ g, t.ing.frames[n] = [g] ∧ g.fr.ord = f.fr.ord ∧ g.closed = true ∧ g.lines = f.lines ∧
        bit g.fr.status 0 = true) ∧ regField t (ingReg n.val 0x14) 31 29 = 2 ∧ regGet t (ingReg n.val 0x18) = f.fr.ord ∧ raised t .ing 0) ∧
  (∀ (s : State) (n : Fin 8) (f : Frame), s.live = true → (s.ing.frames[n]).head? = some f → f.closed = true →
    ∃ t, exec (.frameSealed n f.fr.ord) s = .next t ∧
      t.ing.frames[n] = (s.ing.frames[n]).filter (fun x => decide (x.fr.ord ≠ f.fr.ord)) ∧
      (∀ w ∈ t.imp.writing, w.slot = n.val → w.ord = f.fr.ord → w.fr = some f.fr) ∧
      (∀ m : Fin 8, m ≠ n → t.ing.frames[m] = s.ing.frames[m])) ∧
  (∀ (s : State) (n : Fin 8) (ord : Word), (∀ f, (s.ing.frames[n]).head? = some f → f.closed = false ∨ f.fr.ord ≠ ord) →
    ∃ t, exec (.frameSealed n ord) s = .next t ∧ onlyChanges [] s t) ∧
  (∀ (s : State) (k : Fin 32) (w : Writing) (fr : FrameRec), s.live = true →
    s.imp.writing.find? (fun x => decide (x.surf = k.val)) = some w → w.written = true → w.fr = some fr → w.handle < 65536 →
    ∃ t, exec (.surfaceComplete k) s = .next t ∧ t.imp.latest[k] = w.handle ∧
      t.imp.lastFr[k] = some { fr with status := fr.status ||| w.own } ∧ w ∉ t.imp.writing ∧
      regGet t (surfReg k.val 0x28) = BitVec.ofNat 32 (2 ^ 31 + w.handle) &&& maskOf (surfReg k.val 0x28) ∧
      regGet t (surfReg k.val 0x2C) = fr.ord ∧ onlyRegs [surfReg k.val 0x28, surfReg k.val 0x2C] s t ∧ onlyChanges [.imp, .regs] s t) ∧
  (∀ (s : State) (k : Fin 32), (∀ w ∈ s.imp.writing, w.surf = k.val → w.fr = none) →
    ∃ t, exec (.surfaceComplete k) s = .next t ∧ onlyChanges [] s t)

/-- While the core runs: an acceptable record that a request awaits, of a slot with none in force, comes into force with its words
and the sensor's minimum period, and the slot is brought up; a record that no request awaits, or that is not acceptable, changes
no register; a request unanswered for 10 ms on a link that is UP is followed by another, counted, on the slot's link; the third
failure raises CAP_FAIL instead. -/
def Obligations.CapabilityRecords : Prop :=
  (∀ (s : State) (k : Fin 4) (p : OpenPkt) (r : List RxItem) (n : Fin 8), s.live = true →
    (s.lnk.links[k]).rx = .packet p :: r → p.ty = 2 → p.slot = some n.val →
    (capOk p = true → (s.ing.caps[n]).askedAt.isSome = true → regField s (capStateReg n.val) 31 30 < 2 →
      ∃ t, exec (.capability k) s = .next t ∧ (t.ing.caps[n]).broughtUp = true ∧ (t.ing.caps[n]).askedAt = none ∧
        regField t (capStateReg n.val) 31 30 = 2 ∧
        (∀ i : Fin 16, regGet t (capReg n.val i.val) = BitVec.ofNat 32 (leAt p.bytes (4 * i.val) 4)) ∧
        regGet t (slotReg n.val 0x28) = BitVec.ofNat 32 (leAt p.bytes 0x14 4) ∧ onlyChanges [.lnk, .ing, .regs] s t) ∧
    ((capOk p = false ∨ (s.ing.caps[n]).askedAt = none) →
      ∃ t, exec (.capability k) s = .next t ∧ (t.lnk.links[k]).rx = r ∧ onlyChanges [.lnk] s t)) ∧
  (∀ (s : State) (n : Fin 8) (l : Fin 4) (stream : Nat), s.live = true → capDue s n = true → slotLink s n.val = some (l, stream) →
    ((s.ing.caps[n]).fails ≠ 2 → ∃ t, exec (.capRequestTimeout n) s = .next t ∧ (t.ing.caps[n]).fails = (s.ing.caps[n]).fails + 1 ∧
      (t.ing.caps[n]).askedAt = some s.now ∧ t.out = .bc l (.capRequest stream) :: s.out ∧
      regField t (capStateReg n.val) 7 0 = min 255 (regField s (capStateReg n.val) 7 0 + 1) ∧
      onlyRegs [capStateReg n.val] s t ∧ onlyChanges [.lnk, .ing, .regs, .out] s t) ∧
    ((s.ing.caps[n]).fails = 2 → ∃ t, exec (.capRequestTimeout n) s = .next t ∧ (t.ing.caps[n]).fails = 3 ∧ raised t .ing 6 ∧
      onlyRegs [0x61000] s t ∧ onlyChanges (.ing :: reporting) s t))

/-- While the core runs: a write of GO to ING.SLOTn_META_COMMIT by a party that may write it copies the 32 staging words into the
committed buffer and increments META_SEQ; a write to PER.STATS_ACKn of the number of a record still held marks that record as
pulled and no other; a scrub pass of the LUT memory counts what it corrected, and every word that it finds uncorrectable is kept
as bad, counted and raised. -/
def Obligations.MetadataStatisticsAndLutMemory : Prop :=
  (∀ (s : State) (p : Party) (n : Fin 8) (v : Word), s.live = true → mayWrite p (ingReg n.val 0x100) = true → bit v 0 = true →
    ∃ t, exec (.metaCommit p n v) s = .next t ∧ t.ing = { s.ing with metadata := s.ing.metadata.set n (bytesOf (regWords s (ingReg n.val 0x80) 32)) } ∧
      regGet t (ingReg n.val 0x104) = regGet s (ingReg n.val 0x104) + 1 &&& maskOf (ingReg n.val 0x104) ∧
      onlyRegs [ingReg n.val 0x104] s t ∧ onlyChanges [.ing, .regs] s t) ∧
  (∀ (s : State) (p : Party) (n : Fin 8) (v : Word) (x : StatRec), s.live = true → mayWrite p (0x1D5000 + 4 * n.val) = true →
    statAt s.rfe[n] v.toNat = .held x →
    ∃ t, exec (.statsAck p n v) s = .next t ∧
      (t.rfe[n]).ring = (s.rfe[n]).ring.map (fun y => if y.seq = x.seq then { y with pulled := true } else y) ∧
      (∀ m : Fin 8, m ≠ n → t.rfe[m] = s.rfe[m]) ∧ onlyChanges [.rfe] s t) ∧
  (∀ (s : State) (corrected : Nat) (bad : List Nat), s.live = true →
    ∃ t, exec (.lutScrub corrected bad) s = .next t ∧ regGet t 0xB0004 = satAdd (regGet s 0xB0004) corrected ∧
      (∀ w, w ∈ t.lut.bad ↔ w ∈ s.lut.bad ∨ w ∈ bad) ∧ regGet t 0xB0008 = satAdd (regGet s 0xB0008) bad.length ∧
      (bad ≠ [] → raised t .clr 1) ∧ onlyRegs [0xB0000, 0xB0004, 0xB0008] s t ∧ onlyChanges (.lut :: reporting) s t)

/-- While the core runs, a slot in a take has had a frame boundary, the governor is enabled (GOV_EN) and control service goes on:
where the galley would stand at or above HIGH after HORIZON, a ratio below RATIO_MAX rises (from 0 to START, else by UP, at most
to RATIO_MAX), counted and raised; at RATIO_MAX the ratio stays and the event of that is raised; either restarts HOLD. Where the
galley stays below HIGH and is not below LOW, no register changes. The decision is taken once: the boundary is no longer due. -/
def Obligations.GovernorDecisions : Prop :=
  ∀ (s : State) (n : Fin 8) (r rmax : Nat), s.live = true → (s.gal.gov[n]).due = true → interrupted s = false →
    regBit s 0xD0000 31 = true → r = regField s (ratioReg n.val) 15 0 → rmax = field (trbRatio s.regs n.val) 31 16 →
    ((((galFill s * 4096 : Nat) : ℚ) + (govInput s n r - govWrite s) * ((regField s 0xD0010 15 0 : ℚ) / 1000)
        ≥ (galBytes s : ℚ) * (regField s 0xD0008 23 16 : ℚ) / 256) →
      ∃ t, exec (.governorDecision n) s = .next t ∧ (t.gal.gov[n]).due = false ∧ (t.gal.gov[n]).sinceRaise = some 0 ∧
        (r ≠ rmax → regGet t (ratioReg n.val) =
            BitVec.ofNat 32 (if r = 0 then regField s 0xD0014 15 0 else min (r + regField s 0xD000C 7 0) rmax) ∧
          regGet t 0xD0054 = satInc (regGet s 0xD0054) ∧ raised t .gal 0) ∧
        (r = rmax → regGet t (ratioReg n.val) = regGet s (ratioReg n.val) ∧ regGet t 0xD0054 = regGet s 0xD0054 ∧ raised t .gal 2) ∧
        onlyRegs [ratioReg n.val, 0xD0050, 0xD0054] s t ∧ onlyChanges (.gal :: reporting) s t) ∧
    ((((galFill s * 4096 : Nat) : ℚ) + (govInput s n r - govWrite s) * ((regField s 0xD0010 15 0 : ℚ) / 1000)
        < (galBytes s : ℚ) * (regField s 0xD0008 23 16 : ℚ) / 256) →
      (galBytes s : ℚ) * (regField s 0xD0008 7 0 : ℚ) / 256 ≤ ((galFill s * 4096 : Nat) : ℚ) →
      ∃ t, exec (.governorDecision n) s = .next t ∧ (t.gal.gov[n]).due = false ∧ onlyChanges [.gal] s t)

/-- While the core runs: with a volume that takes writes and no power failure, a checkpoint that is due begins as a unit of kind 4
under the next SEQ, which carries the records that recreate the volume; else the oldest frame of a take that is ready begins as a
unit of kind 1 with its bytes, where the volume has a run of free sectors for it; with no take content ready, the oldest host
write that waits begins as a unit of kind 3; in a power failure nothing begins. A data or parity strip that programs is done in
its unit; the commit-record strip of a unit whose last stripe is full, or the partial parity of another, makes it durable: it
leaves the list of units, is counted, COMMIT_SEQ reaches its SEQ, and its items leave the galley. A strip that fails is counted
and reported, its block is retired, and its unit is laid again under the same SEQ from the next log position; what the first copy
still programs then changes no unit. A block erase is sent to its die, but not in a power failure; a failed one is counted, and
the fifth failure of a die within 60 minutes declares that die failed. -/
def Obligations.CommitUnitsBeginAndProgram : Prop :=
  (∀ (s : State) (batch : Nat) (v : Vol), s.live = true → s.mag.vol = some v → unitOf s v.nextSeq = none →
    (canBegin s = true → ckptDue v = true →
      ∃ t u, exec (.unitBegin batch) s = .next t ∧ t.mag.units.map (·.seq) = s.mag.units.map (·.seq) ++ [v.nextSeq] ∧
        unitOf t v.nextSeq = some u ∧ u.kind = 4 ∧ u.body = ckptBody s v ∧ t.mag.vol.map (·.nextSeq) = some (v.nextSeq + 1) ∧
        t.mag.vol.map (·.sinceUnits) = some 0 ∧ onlyRegs [0xF0080] s t ∧ onlyChanges (.gal :: .mag :: reporting) s t) ∧
    (∀ (i : GalItem) (r : List GalItem) (slot : Fin 8) (k : Nat), canBegin s = true → ckptDue v = false →
      (readyItems s).filter (fun i => i.gap || setComplete s i) = i :: r → i.gap = false → i.corrupt = false →
      i.kind = .frame slot → i.take = some k →
      lowestFree (units4k i.data.length) (withOps (geoOf s v) v.exts (s.mag.ops.filter fun o => o.begun.isNone)) 0 +
        units4k i.data.length ≤ v.sectors →
      ∃ t u, exec (.unitBegin batch) s = .next t ∧ t.mag.units.map (·.seq) = s.mag.units.map (·.seq) ++ [v.nextSeq] ∧
        unitOf t v.nextSeq = some u ∧ u.kind = 1 ∧ u.body = i.data ∧ u.take = k ∧ u.items = [i.ident] ∧
        u.frec = (i.fr.map recBytes).getD [] ∧ onlyRegs [0xF0080] s t ∧ onlyChanges (.gal :: .mag :: reporting) s t) ∧
    (∀ (o : HostOp) (r : List HostOp), canBegin s = true → ckptDue v = false → batch ≤ 1 →
      (readyItems s).filter (fun i => i.gap || setComplete s i) = [] →
      s.mag.ops.filter (fun o => !o.isTrim && o.begun.isNone) = o :: r → o.corrupt = false → o.n ≤ 262128 →
      ∃ t u, exec (.unitBegin batch) s = .next t ∧ t.mag.units.map (·.seq) = s.mag.units.map (·.seq) ++ [v.nextSeq] ∧
        unitOf t v.nextSeq = some u ∧ u.kind = 3 ∧ u.body = o.data ∧ o.no ∈ u.ops ∧ onlyRegs [0xF0080] s t ∧
        onlyChanges (.gal :: .mag :: reporting) s t) ∧
    (s.mag.pwrFail = true → ∃ t, exec (.unitBegin batch) s = .next t ∧ onlyChanges [] s t)) ∧
  (∀ (s : State) (seq die : Nat) (kind : Strip) (damage lost : List (Nat × Nat)) (u : MUnit) (i : Nat), s.live = true →
    unitOf s seq = some u → runningProg u kind die = some i →
    (s.mag.stale.contains (seq, kind, die) = false →
      (kind = .data → ∃ t w, exec (.stripProgrammed seq kind true die damage lost) s = .next t ∧ unitOf t seq = some w ∧
        (w.progs[i]?).map (·.done) = some true ∧ w.body = u.body ∧ t.mag.vol = s.mag.vol ∧ onlyChanges [.mag, .gal, .out] s t) ∧
      (kind = .parity → ∃ t w, exec (.stripProgrammed seq kind true die damage lost) s = .next t ∧ unitOf t seq = some w ∧
        (w.progs[i]?).map (·.done) = some true ∧ w.body = u.body ∧ t.mag.vol = s.mag.vol ∧ onlyChanges [.mag, .out] s t) ∧
      (∀ v, (kind = .commit ∧ u.opens = false) ∨ kind = .partialParity → s.mag.vol = some v →
        ∃ t, exec (.stripProgrammed seq kind true die damage lost) s = .next t ∧ unitOf t seq = none ∧
          regGet t 0xF0058 = satInc (regGet s 0xF0058) ∧ t.mag.vol.map (·.durableSeq) = some (max v.durableSeq seq) ∧
          (∀ i ∈ t.gal.items, i.ident ∉ u.items)) ∧
      (∀ v, s.mag.vol = some v →
        ∃ t w, exec (.stripProgrammed seq kind false die damage lost) s = .next t ∧ unitOf t seq = some w ∧ w.body = u.body ∧
          (w.progs.all fun p => !p.done) = true ∧ w.commit = false ∧ w.stripe = v.stripe ∧ w.strip = v.strip ∧
          mGet t.mag.retired die = some ((mGet s.mag.retired die).getD 0 + 1) ∧ regGet t 0xF0040 = satInc (regGet s 0xF0040) ∧
          raised t .mag 12 ∧ onlyRegs [0xF0040, 0xF0054, 0xF0080] s t ∧ onlyChanges (.gal :: .hq :: .mag :: reporting) s t)) ∧
    (s.mag.stale.contains (seq, kind, die) = true →
      ∃ t, exec (.stripProgrammed seq kind true die damage lost) s = .next t ∧ t.mag.stale = s.mag.stale.erase (seq, kind, die) ∧
        t.mag.vol = s.mag.vol ∧ onlyChanges [.mag, .out] s t)) ∧
  (∀ (s : State) (die : Nat) (damage lost : List (Nat × Nat)) (v : Vol), s.live = true → s.mag.vol = some v →
    (s.mag.pwrFail = false →
      (∃ t, exec (.blockErase die true damage lost) s = .next t ∧
        t.out = .flash .erase (dieAddr s.mag.chans die) [] :: s.out ∧ onlyChanges [.out] s t) ∧
      (die ∉ v.failed →
        ∃ t, exec (.blockErase die false damage lost) s = .next t ∧ regGet t 0xF0044 = satInc (regGet s 0xF0044) ∧
          mGet t.mag.retired die = some ((mGet s.mag.retired die).getD 0 + 1) ∧
          (4 ≤ (((mGet s.mag.fails die).getD []).filter fun x => decide (s.now < x + 3600000000000)).length →
            t.mag.vol.map (·.failed) = some (v.failed ++ [die]) ∧ t.mag.degraded = true ∧ t.mag.rebuild = true ∧ raised t .mag 7) ∧
          ((((mGet s.mag.fails die).getD []).filter fun x => decide (s.now < x + 3600000000000)).length < 4 →
            t.mag.vol.map (·.failed) = some v.failed ∧ t.mag.st = s.mag.st ∧ (damage = [] → t.mag.vol = s.mag.vol)) ∧
          onlyRegs [0xF0044, 0xF0054, 0xF0080] s t ∧ onlyChanges (.gal :: .hq :: .mag :: reporting) s t)) ∧
    (∀ ok, s.mag.pwrFail = true → ∃ t, exec (.blockErase die ok damage lost) s = .next t ∧ onlyChanges [] s t))

/-- While the core runs, of a mapped sector of a mounted volume whose first read has failed: the retry reads at each level from
the start level of the temperature band on, wrapping round, up to the level that succeeds, which is counted; where no level
succeeds, a rebuild from parity that succeeds is counted instead and the sector is noted for relocation; where that fails too, the
sector is counted as unrecoverable and cannot be read any more, one deferred error of cause 2 is attached for the extent that
holds it, counted and raised. A die silent after a RESET is declared failed: journalled, DEGRADED and REBUILD, raised; a second
one of its stripe group makes a mounted volume READ_ONLY, raised. A die that has been declared failed before changes nothing. -/
def Obligations.MagazineReadsAndDieFailures : Prop :=
  (∀ (s : State) (vsa die levels : Nat) (v : Vol) (e : Ext), s.live = true → s.mag.vol = some v →
    (isMounted s = true ∨ s.mag.st = .ejecting) →
    v.exts.filter (fun e => decide (e.vsa < vsa + 1) && decide (vsa < e.vsa + e.n)) = [e] →
    (∀ k b start, k < levels → start = regField s 0xF0024 (8 * (s.thm.band % 4) + 7) (8 * (s.thm.band % 4)) →
      ∃ t, exec (.sectorRead vsa die levels (some k) b) s = .next t ∧ regGet t 0xF0048 = satInc (regGet s 0xF0048) ∧
        t.out = (((retryLevels start levels).take (k + 1)).map fun l =>
          .flash (.retry l) (dieAddr s.mag.chans die) []).reverse ++ s.out ∧
        onlyRegs [0xF0048] s t ∧ onlyChanges [.regs, .out] s t) ∧
    (∃ t, exec (.sectorRead vsa die levels none true) s = .next t ∧ regGet t 0xF004C = satInc (regGet s 0xF004C) ∧
      t.mag.vol = some { v with moves := if v.moves.contains vsa then v.moves else v.moves ++ [vsa] } ∧
      onlyRegs [0xF004C] s t ∧ onlyChanges [.regs, .out, .mag] s t) ∧
    (∃ t w d, exec (.sectorRead vsa die levels none false) s = .next t ∧ regGet t 0xF0050 = satInc (regGet s 0xF0050) ∧
      t.mag.vol = some w ∧ w.bad = v.bad ++ [vsa] ∧ w.defs = v.defs ++ [d] ∧ d.seq = v.attachments + 1 ∧ d.cause = 2 ∧
      d.vsa = vsa ∧ d.n = 1 ∧ d.kind = e.kind ∧ regGet t 0xF0054 = satInc (regGet s 0xF0054) ∧ raised t .mag 9 ∧
      onlyRegs [0xF0050, 0xF0054, 0xF0080] s t ∧ onlyChanges (.mag :: .hq :: reporting) s t)) ∧
  (∀ (s : State) (die : Nat) (lost : List (Nat × Nat)) (v : Vol), s.live = true → s.mag.vol = some v →
    (die ∉ v.failed →
      ∃ t w, exec (.dieSilent die lost) s = .next t ∧ t.mag.vol = some w ∧ w.failed = v.failed ++ [die] ∧ dieRec die ∈ w.records ∧
        w.superSeq = v.superSeq + 1 ∧ t.mag.degraded = true ∧ t.mag.rebuild = true ∧ raised t .mag 7 ∧
        ((∀ d ∈ v.failed, d / 16 ≠ die / 16) → t.mag.st = s.mag.st ∧ w.records = v.records ++ [dieRec die]) ∧
        ((∃ d ∈ v.failed, d / 16 = die / 16) → s.mag.st = .mounted → t.mag.st = .readOnly ∧ raised t .mag 8) ∧
        onlyRegs [0xF0054, 0xF0080] s t ∧ onlyChanges (.gal :: .hq :: .mag :: reporting) s t) ∧
    (die ∈ v.failed → ∃ t, exec (.dieSilent die lost) s = .next t ∧ onlyChanges [] s t))

/-- While the core runs: a magazine put into an empty bay, or latched again in it, is OFF, or with AUTO_MOUNT in a device that is
ready its mount starts with MAG_VCC_EN high; 50 ms without MAG_VCC_GOOD end the mount in OFF with the power off, and answer the
request that asked for it with NOT_READY. MAG_VCC_GOOD goes on with the mount: a die that fails identification and is not a known
failed one makes the magazine UNUSABLE; an unformatted medium mounts blank; a formatted one mounts; either is READ_ONLY where it
is write protected. The eject button starts an eject of a mounted volume, unless a take is open, which is reported. An eject
completes once all is durable and is answered. A magazine that is OFF may be removed in silence, its inputs followed; a surprise
removal ends with the power off, no volume and no take slots, raised. MAG_PWR_FAIL_N stops the quire, raised; its end starts it
again but for a thermal shutdown. -/
def Obligations.MagazineInsertionAndRemoval : Prop :=
  (∀ s : State, s.live = true → s.mag.st = .empty ∨ (s.mag.st = .off ∧ s.mag.latch = false) →
    ∃ t, exec .inserted s = .next t ∧ t.mag.present = true ∧ t.mag.latch = true ∧ raised t .mag 0 ∧
      (¬ (regBit s 0xF0000 31 = true ∧ s.sys.ready = true) → t.mag.st = .off ∧ t.mag.vccEn = s.mag.vccEn) ∧
      (regBit s 0xF0000 31 = true → s.sys.ready = true → t.mag.st = .ident ∧ t.mag.vccEn = true ∧ t.mag.vccAt = s.now) ∧
      onlyRegs [0xF0080] s t ∧ onlyChanges (.mag :: reporting) s t) ∧
  (∀ s : State, s.live = true → s.mag.st = .ident → s.mag.vccGood = false → s.mag.vccAt + 50000000 ≤ s.now →
    ∃ t, exec .vccGoodTimeout s = .next t ∧ t.mag.st = .off ∧ t.mag.vccEn = false ∧ t.mag.transition = none ∧ raised t .mag 2 ∧
      (s.mag.transition = none → onlyRegs [0xF0080] s t ∧ onlyChanges (.mag :: reporting) s t) ∧
      (∀ w p k, s.mag.transition = some (w, some (p, k)) → k < mbxSlots p → answered t p k stNotReady 0 0)) ∧
  (∀ (s : State) (m : Medium), s.live = true → s.mag.st = .ident →
    (∀ d ∈ m.bad, d ∉ ((superOf m).map superFailed).getD [] →
      ∃ t, exec (.magVccGoodRise m) s = .next t ∧ t.mag.st = .unusable ∧ t.mag.vccEn = false ∧ raised t .mag 2) ∧
    (m.bad = [] → legalPop m = true → superOf m = none →
      ∃ t, exec (.magVccGoodRise m) s = .next t ∧ t.mag.st = (if m.wp then .readOnly else .mounted) ∧
        t.mag.blank = true ∧ t.mag.vol = none ∧
        t.mag.chans = m.chans ∧ t.mag.dies = m.dies ∧ t.mag.power = min s.mag.wanted 1 ∧ t.mag.locked = regBit s 0xF0000 30 ∧
        raised t .mag 1) ∧
    (∀ b, (∀ d ∈ m.bad, d ∈ superFailed b) → legalPop m = true → superOf m = some b →
      ∃ t, exec (.magVccGoodRise m) s = .next t ∧ isMounted t = true ∧ (m.wp = true → t.mag.st = .readOnly) ∧
        t.mag.vol.map (·.ident) = some (recoverVol m b).ident ∧ raised t .mag 1)) ∧
  (∀ s : State, s.live = true → regBit s 0xF0000 29 = true → isMounted s = true →
    (takeOpen s = false → ∃ t, exec .ejectButton s = .next t ∧ t.mag = { s.mag with st := .ejecting, eject := some none } ∧
      onlyChanges [.mag] s t) ∧
    (takeOpen s = true → ∃ t, exec .ejectButton s = .next t ∧ raised t .mag 4 ∧ onlyRegs [0xF0080] s t ∧ onlyChanges reporting s t)) ∧
  (∀ s : State, s.live = true → s.mag.st = .ejecting → s.mag.pwrFail = false →
    (allDurable s = true → ∃ t, exec .ejectUnmount s = .next t ∧ t.mag.st = .off ∧ t.mag.vol = none ∧ t.mag.power = 3 ∧
      t.mag.vccEn = false ∧ t.mag.locked = false ∧ t.mag.eject = none ∧
      (∀ p k, s.mag.eject = some (some (p, k)) → k < mbxSlots p → s.mag.transition = none → answered t p k stSuccess 0 0)) ∧
    (allDurable s = false → ∃ t, exec .ejectUnmount s = .next t ∧ onlyChanges [] s t)) ∧
  (∀ s : State, s.live = true → s.mag.st = .off →
    ∃ t, exec .presenceRemoved s = .next t ∧ t.mag = { s.mag with st := .empty, present := false, latch := false } ∧
      onlyChanges [.mag] s t) ∧
  (∀ (s : State) (b l : Bool), s.live = true →
    (s.mag.st ≠ .empty → s.mag.st ≠ .off →
      ∃ t, exec (.removed b l) s = .next t ∧ t.mag.st = (if b then .off else .empty) ∧ t.mag.present = b ∧ t.mag.latch = l ∧
        t.mag.vol = none ∧ t.mag.power = 3 ∧ t.mag.vccEn = false ∧ t.mag.locked = false ∧ t.mag.takeSlots = [] ∧
        t.mag.units = [] ∧ raised t .mag 3) ∧
    (s.mag.st = .off → ∃ t, exec (.removed b l) s = .next t ∧
      t.mag = { s.mag with present := b, latch := l, st := if b then .off else .empty } ∧ onlyChanges [.mag] s t)) ∧
  (∀ s : State, s.live = true →
    (∃ t, exec .pwrFail s = .next t ∧ t.mag = { s.mag with pwrFail := true } ∧ raised t .mag 5 ∧ onlyRegs [0xF0080] s t ∧
      onlyChanges (.mag :: reporting) s t) ∧
    (s.mag.vccGood = true → s.thm.shutAt = none →
      ∃ t, exec .pwrFailClear s = .next t ∧ t.mag.pwrFail = false ∧ t.mag.st = s.mag.st ∧ t.mag.vol = s.mag.vol ∧
        onlyChanges [.mag, .out] s t) ∧
    (∀ x, s.thm.shutAt = some x → ∃ t, exec .pwrFailClear s = .next t ∧ onlyChanges [] s t))

/-- While the core runs, with dies powered and calibrated: a ZQ calibration 100 ms or more after the last one is sent to every
die, an earlier one is not; each background operation of Table MAG-11 is sent to its die and counted when it is triggered (a block
not read for 168 hours, 50,000 reads, a spread above 500, fewer than 16 free blocks) and allowed (R253: below LOW, no power
failure, no foreground strip on the die, within its share), and is not sent otherwise; an operation of a rebuild that runs goes to
the dies left of the group and is counted while pieces lie in stripes of the failed die; with none left and every unit durable it
ends the rebuild and raises REBUILD_DONE; a requested MP0 or MP1 is entered, MP2 only once every accepted unit is durable, and the
request is answered SUCCESS. -/
def Obligations.WorkBeneathTheTakes : Prop :=
  (∀ s : State, s.live = true → diesActive s = true →
    (s.mag.lastZq + 100000000 ≤ s.now → ∃ t, exec .zqCalibration s = .next t ∧
      t.out = ((List.range (s.mag.chans * s.mag.dies)).map fun k => .flash .zq (dieAddr s.mag.chans k) []).reverse ++ s.out ∧
      t.mag = { s.mag with lastZq := s.now } ∧ onlyChanges [.mag, .out] s t) ∧
    (s.now < s.mag.lastZq + 100000000 → ∃ t, exec .zqCalibration s = .next t ∧ onlyChanges [] s t)) ∧
  (∀ (s : State) (die n ns : Nat) (moved : List (Nat × Nat)), s.live = true →
    (bgAllowed s 0 die ns = true → (mGet s.mag.patrolled (patrolKey die n)).all (fun t => decide (t + patrolSpan ≤ s.now)) = true →
      ∃ t, exec (.patrolScrub die n ns moved) s = .next t ∧ workedOn s t 0 die ∧
        mGet t.mag.patrolled (patrolKey die n) = some s.now) ∧
    (bgAllowed s 1 die ns = true → 50000 ≤ n → ∃ t, exec (.readDisturbScrub die n ns moved) s = .next t ∧ workedOn s t 1 die) ∧
    (bgAllowed s 2 die ns = true → 500 < n → ∃ t, exec (.staticWearLevelling die n ns moved) s = .next t ∧ workedOn s t 2 die) ∧
    (bgAllowed s 3 die ns = true → n < 16 → ∃ t, exec (.reclamation die n ns moved) s = .next t ∧ workedOn s t 3 die) ∧
    (∀ c row, (c = .patrolScrub die n ns moved ∧ row = 0) ∨ (c = .readDisturbScrub die n ns moved ∧ row = 1) ∨
      (c = .staticWearLevelling die n ns moved ∧ row = 2) ∨ (c = .reclamation die n ns moved ∧ row = 3) →
      bgAllowed s row die ns = false → ∃ t, exec c s = .next t ∧ onlyChanges [] s t)) ∧
  (∀ (s : State) (die ns : Nat) (v : Vol), s.live = true → s.mag.vol = some v → s.mag.rebuild = true → die ∈ v.failed →
    (groupRest v die).all (fun d => bgAllowed s 4 d ns) = true → canBegin s = true →
    (∀ p l, onFailed (geoOf s v) v die = p :: l → ∃ t, exec (.parityRebuild die ns) s = .next t ∧ t.mag.rebuild = true ∧
      (∀ d ∈ groupRest v die, .flash (.background 4) (dieAddr s.mag.chans d) [] ∈ t.out) ∧
      regGet t 0xF005C = satInc (regGet s 0xF005C) ∧ onlyRegs [0xF005C, 0xF0080] s t ∧
      onlyChanges (.gal :: .mag :: reporting) s t) ∧
    (rebuildLeft s = false → s.mag.units = [] → ∃ t, exec (.parityRebuild die ns) s = .next t ∧
      t.mag = { s.mag with rebuild := false } ∧ raised t .mag 13 ∧ onlyRegs [0xF0080] s t ∧
      onlyChanges (.mag :: reporting) s t)) ∧
  (∀ (s : State) (m : Nat) (w : Option (Party × Nat)), s.live = true → isMounted s = true → s.mag.transition = some (m, w) →
    (m ≤ 1 ∨ (m = 2 ∧ allDurable s = true) →
      ∃ t, exec .powerTransition s = .next t ∧ t.mag.power = m ∧ t.mag.transition = none ∧ t.mag.vol = s.mag.vol ∧
        t.mag.st = s.mag.st ∧ (w = none → onlyChanges [.mag, .out] s t) ∧
        (∀ p k, w = some (p, k) → k < mbxSlots p → answered t p k stSuccess 0 0 ∧ onlySlot p k s t ∧
          onlyChanges (.mag :: answering) s t)) ∧
    (m = 2 → allDurable s = false → ∃ t, exec .powerTransition s = .next t ∧ onlyChanges [] s t))

/-- While the core runs and the encoder core serves stream k, whose picture is in progress: one row is coded under the fields that
the picture was bound with, and counted, and the core shows the stream; skipping and clamping, once begun, last; a clamped picture
goes on at QP_MAX, and with RC 0 an unclamped one keeps its QP; where the bits used, 32 for every CTU to come and the header bits
of slices not begun lie within the slice budget before the row, they do so after it. The last row of a picture whose record is not
sealed ends it: the picture is counted and waits for its record. A fault of the core abandons its pictures, and every stream of
the core codes an IRAP next. -/
def Obligations.EncoderRowsKeepTheBudget : Prop :=
  (∀ (s : State) (e : Fin 4) (k : Fin 16) (p : EncPic) (cf : EncCfg) (ctus : List Nat) (sei hdr : Nat), s.live = true →
    rowStream s e = some k → (s.hev.streams[e][k]).cur = some p → p.started = true → cf = p.conf e.val k.val → 0 < cf.w →
    (p.rows + 1 < ceilDiv cf.h 64 →
      ∃ t q, exec (.ctuRow e ctus sei hdr false) s = .next t ∧ (t.hev.streams[e][k]).cur = some q ∧ q.rows = p.rows + 1 ∧
        p.bits ≤ q.bits ∧ (p.skipping = true → q.skipping = true) ∧ (p.clamped = true → q.clamped = true) ∧
        (q.clamped = true → q.qp = cf.qpMax) ∧ (q.clamped = false → cf.rc = 0 → q.qp = p.qp) ∧
        (∀ b h, sliceBudget cf p = some b →
          h = hdr * ((if cf.sliceRows = 0 then 1 else ceilDiv (ceilDiv cf.h 64) cf.sliceRows)
            - (if cf.sliceRows = 0 then 1 else p.rows / cf.sliceRows + 1)) →
          p.bits + 32 * (ceilDiv cf.w 64 * (ceilDiv cf.h 64 - p.rows)) + h ≤ b →
          q.bits + 32 * (ceilDiv cf.w 64 * (ceilDiv cf.h 64 - 1 - p.rows)) + h ≤ b) ∧
        regGet t (0x110008 + 0x40 * e.val) = satInc (regGet s (0x110008 + 0x40 * e.val)) ∧
        regGet t (0x110000 + 0x40 * e.val) = packFields [(0, k.val)] ∧
        onlyRegs [0x110008 + 0x40 * e.val, 0x110000 + 0x40 * e.val, 0x20020] s t ∧
        onlyChanges (.hev :: .free :: .frm :: reporting) s t) ∧
    (p.rows + 1 = ceilDiv cf.h 64 → p.fr = none → (s.hev.streams[e][k]).coded = [] →
      ∃ t q, exec (.ctuRow e ctus sei hdr false) s = .next t ∧ (t.hev.streams[e][k]).cur = none ∧
        (t.hev.streams[e][k]).coded = [q] ∧ q.bound = p.bound ∧ q.rows = p.rows + 1 ∧
        regGet t (encReg e.val k.val 0x4C) = satInc (regGet s (encReg e.val k.val 0x4C)) ∧
        (q.clamped = true ∨ q.skipping = true →
          regGet t (encReg e.val k.val 0x50) = satInc (regGet s (encReg e.val k.val 0x50)) ∧ raised t .hev 0) ∧
        onlyChanges (.hev :: .free :: .frm :: reporting) s t)) ∧
  (∀ (s : State) (e : Fin 4) (ctus : List Nat) (sei hdr : Nat), s.live = true →
    ∃ t, exec (.ctuRow e ctus sei hdr true) s = .next t ∧
      ∀ k : Fin 16, (t.hev.streams[e][k]).cur = none ∧ (t.hev.streams[e][k]).forceIrap = true ∧ (t.hev.streams[e][k]).group = [])

/-- While the core runs, control service goes on and PIC_QP is not VALID, for a stream with rate control under the fields of the
picture it codes next: PIC_QP becomes VALID with a QP that is QP_INIT for the first picture of its type (every type, where the
stream is enabled anew), else the last one's QP plus the nearest whole number to 6 × log2 of its size over its target, at most 4
either way, limited to QP_MIN and QP_MAX; with a surface of a slot as its source, PIC_TARGET becomes an eighth of the larger of
the picture's share less an eighth of the debt and a quarter of its share. While PIC_QP is VALID, or rate control is off, nothing
changes. -/
def Obligations.RateDecisions : Prop :=
  (∀ (s : State) (e : Fin 4) (k : Fin 16) (st0 st : EncStream) (nx : Option EncPic) (cf : EncCfg) (ty : Nat), s.live = true →
    s.sys.ready = true → interrupted s = false → st0 = s.hev.streams[e][k] → nx = st0.next e.val k.val →
    cf = (nx.map fun p => p.conf e.val k.val).getD (st0.conf e.val k.val) →
    st = (if (nx.map (·.anew)).getD st0.anew then { st0 with debt := 0, last := Vector.replicate 4 none } else st0) →
    cf.on = true → cf.rc ≠ 0 → regBit s (encReg e.val k.val 0x40) 31 = false →
    ty = st.typeAt cf ((nx.map (·.first)).getD st.wantIrap) (st.nextPosition e.val k.val) →
    ∃ t, exec (.rateDecision e k) s = .next t ∧ regBit t (encReg e.val k.val 0x40) 31 = true ∧
      (st.last.toList.getD ty none = none →
        regField t (encReg e.val k.val 0x40) 5 0 = max cf.qpMin (min cf.qpInit cf.qpMax)) ∧
      (∀ q b g, st.last.toList.getD ty none = some (q, b, g) → g ≠ 0 →
        regField t (encReg e.val k.val 0x40) 5 0 =
          (max (cf.qpMin : Int) (min ((q : Int) + sixLog ((b : ℚ) / (g : ℚ))) (cf.qpMax : Int))).toNat) ∧
      (∀ (n : Nat) (pp : ℚ), cf.hostJob = false → surfSlot s cf.surf = some n →
        pp = (cf.rate : ℚ) * 1000 * (nominalPeriod s s.regs n * (cf.frameDiv : ℚ) / 1000000000) * encShare cf →
        regGet t (encReg e.val k.val 0x44) = BitVec.ofNat 32
          (max (pp * encWeight cf.gop ty - st.debt / 8) (pp * encWeight cf.gop ty / 4) / 8).floor.toNat ∧ t.free = s.free) ∧
      onlyRegs [encReg e.val k.val 0x40, encReg e.val k.val 0x44] s t ∧ onlyChanges [.regs, .free] s t) ∧
  (∀ (s : State) (e : Fin 4) (k : Fin 16) (st : EncStream), st = s.hev.streams[e][k] →
    (((st.next e.val k.val).map fun p => p.conf e.val k.val).getD (st.conf e.val k.val)).rc = 0 ∨
      regBit s (encReg e.val k.val 0x40) 31 = true →
    ∃ t, exec (.rateDecision e k) s = .next t ∧ onlyChanges [] s t)

/-- While the core runs and the request's turn has come: STREAM_SEI with type 137 or 144 and at most 200 bytes stages the payload
for the stream, or removes it at length 0, and answers SUCCESS; with a field outside its range (another type, a longer payload) it
is answered INVALID_FIELD with the field's byte, and nothing is staged. STREAM_HEADERS of an enabled stream writes its current
parameter sets to the buffer named and answers SUCCESS with their length in RESULT0; a buffer too small writes nothing and is
answered INVALID_FIELD with the bytes needed; of a stream that is not enabled it is answered NOT_READY. -/
def Obligations.StreamHeaderSets : Prop :=
  (∀ (s : State) (p : Party) (i : Fin 32) (req : List Byte) (e : Fin 4) (k : Fin 16), s.live = true → asks s p i.val 0x0601 req →
    (byteAt req 0x10).toNat = encByte e.val k.val →
    ∃ t, exec (.streamSei p i) s = .next t ∧ answered t p i.val stSuccess 0 0 ∧
      (t.hev.streams[e][k]).seiNext = (if byteAt req 0x12 = 0 then mDel (s.hev.streams[e][k]).seiNext (byteAt req 0x11).toNat
        else mPut (s.hev.streams[e][k]).seiNext (byteAt req 0x11).toNat ((req.drop 0x20).take (byteAt req 0x12).toNat)) ∧
      onlySlot p i.val s t ∧ onlyChanges (.hev :: .flt :: answering) s t) ∧
  (∀ (s : State) (p : Party) (i : Fin 32) (req : List Byte) (off : Nat), s.live = true → reaches s p i.val 0x0601 req →
    (firstBad p 0x0601 req = some off → ∃ t, exec (.streamSei p i) s = .next t ∧ answered t p i.val stInvalidField 0 off ∧
      onlySlot p i.val s t ∧ onlyChanges answering s t) ∧
    (firstBad p 0x0601 req = none → (byteAt req 0x11 = 137 ∨ byteAt req 0x11 = 144) ∧ (byteAt req 0x12).toNat ≤ 200)) ∧
  (∀ (s : State) (p : Party) (i : Fin 32) (req : List Byte) (buf : HostBuf) (e : Fin 4) (k : Fin 16) (l : List Byte)
      (segs : List (Nat × Nat)), s.live = true →
    asks s p i.val 0x0602 req → (byteAt req 0x10).toNat = encByte e.val k.val → l = (s.hev.streams[e][k]).headers →
    l.length < 2 ^ 32 →
    (regBit s (encReg e.val k.val 0) 31 = true → mayReceive s p (descAt req 0x20) buf segs l →
      ∃ t, exec (.streamHeaders p i buf) s = .next t ∧ answered t p i.val stSuccess l.length 0 ∧ delivered s t p segs l ∧
        onlySlot p i.val s t ∧ onlyChanges delivering s t) ∧
    (regBit s (encReg e.val k.val 0) 31 = true → busMaster s p = true → partySegs s p (descAt req 0x20) buf = some (segs, true) →
      segTotal segs < l.length →
      ∃ t, exec (.streamHeaders p i buf) s = .next t ∧ answered t p i.val stInvalidField l.length 0 ∧
        onlySlot p i.val s t ∧ onlyChanges answering s t) ∧
    (regBit s (encReg e.val k.val 0) 31 = false →
      ∃ t, exec (.streamHeaders p i buf) s = .next t ∧ answered t p i.val stNotReady 0 0 ∧ onlySlot p i.val s t ∧
        onlyChanges answering s t))

/-- While the core runs: a free-running head that has latched starts its raster at the instant it waits for, is LOCKED, and its
composed picture goes out on every trained eDP port that carries it and whose panel is awake; a running one starts its next frame
one period after the last; lines with pixels not delivered are counted, once each, and reported; no frame start moves the
frequency offset by more than 1 ppm. At the latch instant the frame is counted; with no new forme fields each plane of an enabled
head shows the latest complete buffer of its surface, one that completes in the same cycle included, or the handle last written
before this cycle if that is 0 or an allocated buffer that is large enough, else it keeps the one before, and a refusal is raised;
a plane that is not enabled shows nothing. A handle written by a party that may is kept for the next latch instant. -/
def Obligations.HeadsStartAndLatch : Prop :=
  (∀ (s : State) (h : Fin 6) (x : Head), s.live = true → x = s.dsp.heads[h] → x.enabled h.val = true → x.source h.val = 0 →
    (∀ q : Fin 4, (x.planes[q]).clear = []) →
    (x.raster = false → (x.st = .seeking ∨ x.st = .holdover) → x.waitFrom ≤ (s.now : ℚ) →
      ∃ t y, exec (.headFrameStart h []) s = .next t ∧ y = t.dsp.heads[h] ∧ y.raster = true ∧ y.frame = 0 ∧ y.startAt = x.waitFrom ∧
        y.latched = false ∧ y.st = .locked ∧ y.picture = composeHead s h.val x [] ∧
        (∀ p : Fin 2, (s.dsp.ports[p]).st = 2 → field (s.dsp.ports[p]).cfg 30 28 = h.val →
          (s.dsp.ports[p]).wake = 0 → .scan p.val (edpLines (s.dsp.ports[p]).cfg y.picture) ∈ t.out) ∧
        onlyRegs [headReg h.val 0x28, edpStateReg 0, edpStateReg 1] s t ∧ onlyChanges [.dsp, .regs, .out] s t) ∧
    (∀ late rows, x.raster = true → x.latched = true → x.startAt + x.period h.val ≤ (s.now : ℚ) →
      rows = (late.map (·.1)).dedup.filter (fun r => decide (r < x.height h.val)) →
      ∃ t y, exec (.headFrameStart h late) s = .next t ∧ y = t.dsp.heads[h] ∧ y.frame = x.frame + 1 ∧ y.latched = false ∧
        y.startAt = x.startAt + x.period h.val ∧ y.d = x.d ∧
        regGet t (headReg h.val 0x38) = (if rows = [] then regGet s (headReg h.val 0x38)
          else satAdd (regGet s (headReg h.val 0x38)) rows.length) ∧
        (rows ≠ [] → raised t .dsp 3) ∧ onlyChanges (.dsp :: reporting) s t)) ∧
  (∀ (s : State) (h : Fin 6) (late : List (Nat × Nat × Nat)), ∃ t, exec (.headFrameStart h late) s = .next t ∧
    (t.dsp.heads[h]).d - (s.dsp.heads[h]).d ≤ 1 ∧ (s.dsp.heads[h]).d - (t.dsp.heads[h]).d ≤ 1) ∧
  (∀ (s : State) (h : Fin 6) (x : Head), s.live = true → x = s.dsp.heads[h] → x.raster = true → x.latched = false →
    (x.lineAt h.val (x.topLines h.val + x.height h.val) ≤ (s.now : ℚ) → x.cfg = headSlice s h.val → x.enabled h.val = true →
      ∃ t y, exec (.latchInstant h) s = .next t ∧ y = t.dsp.heads[h] ∧ y.latched = true ∧
        regGet t (headReg h.val 0x34) = satInc (regGet s (headReg h.val 0x34)) ∧
        (∀ (q : Fin 4) (cfg : Word), cfg = rmGet x.cfg (planeReg h.val q.val 0) →
          (bit cfg 31 = false → (y.planes[q]).shown = 0) ∧
          (∀ k : Fin 32, bit cfg 31 = true → bit cfg 30 = false → k.val = field cfg 28 24 →
            ((∀ w ∈ s.imp.writing, w.surf = k.val → w.written = false ∨ w.fr = none) → (y.planes[q]).shown = s.imp.latest[k]) ∧
            (∀ w fr, s.imp.writing.filter (fun w => decide (w.surf = k.val)) = [w] → w.written = true → w.fr = some fr →
              (y.planes[q]).shown = w.handle ∧ t.imp.latest[k] = w.handle)) ∧
          (∀ i n, bit cfg 31 = true → bit cfg 30 = true →
            (x.planes[q]).writes.find? (fun w => decide (w.1 ≠ s.now)) = some (i, n) →
            (n = 0 ∨ (isAllocated s n = true ∧ planeNeed (field cfg 23 16) (field (rmGet x.cfg (planeReg h.val q.val 8)) 15 0)
                (field (rmGet x.cfg (planeReg h.val q.val 8)) 31 16) ≤ ((handleOf s n).map (·.size)).getD 0) →
              (y.planes[q]).shown = n ∧ (y.planes[q]).kept = n) ∧
            (n ≠ 0 → isAllocated s n = false →
              (y.planes[q]).shown = (x.planes[q]).kept ∧ (y.planes[q]).kept = (x.planes[q]).kept ∧ raised t .dsp 5) ∧
            (y.planes[q]).writes = (x.planes[q]).writes.filter (fun w => decide (w.1 = s.now))) ∧
          (bit cfg 31 = true → bit cfg 30 = true → (∀ w ∈ (x.planes[q]).writes, w.1 = s.now) →
            (y.planes[q]).shown = (x.planes[q]).kept ∧ (y.planes[q]).writes = (x.planes[q]).writes)) ∧
        onlyChanges (.dsp :: .imp :: reporting) s t) ∧
    ((s.now : ℚ) < x.lineAt h.val (x.topLines h.val + x.height h.val) →
      ∃ t, exec (.latchInstant h) s = .next t ∧ onlyChanges [] s t)) ∧
  (∀ (s : State) (p : Party) (h : Fin 6) (q : Fin 4) (v : Word), s.live = true → mayWrite p (planeReg h.val q.val 0xC) = true →
    ∃ t, exec (.planeHandleWrite p h q v) s = .next t ∧ regGet t (planeReg h.val q.val 0xC) = v &&& 0xFFFF ∧
      ((t.dsp.heads[h]).planes[q]) = ((s.dsp.heads[h]).planes[q]).wrote s.now (field v 15 0) ∧
      onlyRegs [planeReg h.val q.val 0xC] s t ∧ onlyChanges [.dsp, .regs] s t)

/-- While the core runs: a transition of a port's HPD is kept and raised; a pulse that reports loss of link status sets an active
port to training, any pulse a failed one, and otherwise the port's state stays. A port in training whose HPD is high tries the
configured lanes and rate, limited by the panel's; each failed try lowers the rate a step, and at the lowest halves the lanes; the
first success makes the port active at that rate and those lanes if they carry the head, else the training fails, which is raised;
when no try succeeds it fails too. A port that is not in training, or whose HPD is low, stays as it is. -/
def Obligations.EdpPortsTrain : Prop :=
  (∀ (s : State) (p : Fin 2) (high lost : Bool), s.live = true →
    ∃ t, exec (.edpHpd p high lost) s = .next t ∧ (t.dsp.ports[p]).hpd = high ∧
      ((t.dsp.ports[p]).st = if high = true ∧ ((lost = true ∧ ((s.dsp.ports[p]).st = 2 ∨ (s.dsp.ports[p]).st = 3)) ∨
        (s.dsp.ports[p]).st = 4) then 1 else (s.dsp.ports[p]).st) ∧ raised t .dsp 7 ∧
      onlyRegs [edpStateReg p.val, 0x128040] s t ∧ onlyChanges (.dsp :: reporting) s t) ∧
  (∀ (s : State) (p : Fin 2) (lanes rate : Fin 3) (psr : Bool) (setup : Fin 16) (r : List Bool) (n l0 r0 : Nat) (w : Word)
      (hh : Fin 6), s.live = true → (s.dsp.ports[p]).st = 1 → (s.dsp.ports[p]).hpd = true → w = (s.dsp.ports[p]).cfg →
    l0 = min (field w 27 26) lanes.val → r0 = min (field w 25 24) rate.val → hh.val = field w 30 28 →
    (n ≤ r0 + l0 → edpFits (fun off => (s.dsp.heads[hh]).word hh.val off) w (l0 - (n - r0)) (r0 - n) = true →
      ∃ t, exec (.linkTraining p lanes rate psr setup (List.replicate n false ++ true :: r)) s = .next t ∧
        (t.dsp.ports[p]).st = 2 ∧ (t.dsp.ports[p]).lanes = l0 - (n - r0) ∧ (t.dsp.ports[p]).rate = r0 - n ∧ (t.dsp.ports[p]).psr2 = psr ∧
        regGet t (edpStateReg p.val) = packFields [(29, 2), (27, l0 - (n - r0)), (25, r0 - n), (21, setup.val)] ∧
        onlyRegs [edpStateReg p.val] s t ∧ onlyChanges [.dsp, .regs] s t) ∧
    (n ≤ r0 + l0 → edpFits (fun off => (s.dsp.heads[hh]).word hh.val off) w (l0 - (n - r0)) (r0 - n) = false →
      ∃ t, exec (.linkTraining p lanes rate psr setup (List.replicate n false ++ true :: r)) s = .next t ∧
        (t.dsp.ports[p]).st = 4 ∧ raised t .dsp 6 ∧ onlyRegs [edpStateReg p.val, 0x128040] s t ∧
        onlyChanges (.dsp :: reporting) s t) ∧
    (∃ t, exec (.linkTraining p lanes rate psr setup (List.replicate n false)) s = .next t ∧ (t.dsp.ports[p]).st = 4 ∧ raised t .dsp 6 ∧
      onlyRegs [edpStateReg p.val, 0x128040] s t ∧ onlyChanges (.dsp :: reporting) s t)) ∧
  (∀ (s : State) (p : Fin 2) (lanes rate : Fin 3) (psr : Bool) (setup : Fin 16) (tries : List Bool),
    (s.dsp.ports[p]).st ≠ 1 ∨ (s.dsp.ports[p]).hpd = false →
    ∃ t, exec (.linkTraining p lanes rate psr setup tries) s = .next t ∧ onlyChanges [] s t)

/-- While the core runs, for a sender that is enabled, on one path whose interface is up, its fields latched, when no packet of
another sender on the interface comes first (R314): the next packet of the head frame whose packets it sends leaves at its
instant, with the frame's PTP time as time-stamp, the marker on the last one and its pixels as payload; before its instant nothing
leaves; while the link is down it is counted as dropped instead and the sequence number advances all the same; on two paths a copy
leaves on each. An audio sender sends its next group of samples when it is due; a group with a missing sample is counted, and the
loss is raised once. A timecode sender sends one packet for each frame of its head from the record of the buffer that plane 0
shows; with none shown the packet is counted as dropped and reported. -/
def Obligations.PacketsLeaveAtTheirInstants : Prop :=
  (∀ (s : State) (i : Fin 48) (x : Sender) (h : Fin 6) (y : Head) (np : Nat), sends s i x 0 → field (x.word i.val 4) 26 24 = h.val →
    y = s.dsp.heads[h] → x.frame = some y.startAt → y.raster = true → y.st ≠ .off → sndTurn s i = true →
    np = linePackets (x.word i.val 0) (y.width h.val) * y.height h.val → x.next < np →
    (packetAt x i.val y h.val x.next ≤ (s.now : ℚ) → (s.now : ℚ) ≤ packetAt x i.val y h.val x.next + 1000 →
      ∃ t, exec (.videoPacket i) s = .next t ∧
        packetLeft s t i x (rtpHead x i.val x.seq (rtpVideo y.startPtp) (decide (x.next + 1 = np))
          ++ videoPayload y.picture (y.width h.val) (x.word i.val 0) x.seq x.next) [] ∧
        (t.net.snds[i]).next = x.next + 1 ∧
        onlyRegs [portReg (field (x.word i.val 0) 28 28) 0x84, sndReg i.val 0x38, sndReg i.val 0x44] s t ∧
        onlyChanges [.net, .out, .regs] s t) ∧
    ((s.now : ℚ) < packetAt x i.val y h.val x.next → ∃ t, exec (.videoPacket i) s = .next t ∧ onlyChanges [] s t)) ∧
  (∀ (s : State) (i : Fin 48) (x : Sender) (h : Fin 6) (y : Head) (port : Nat), s.live = true → x = s.net.snds[i] →
    bit (x.word i.val 0) 31 = true → field (x.word i.val 0) 30 29 = 0 → bit (x.word i.val 0) 25 = false →
    port = field (x.word i.val 0) 28 28 → ifUp s port (field (x.word i.val 0) 27 26) = false → field (x.word i.val 4) 26 24 = h.val →
    y = s.dsp.heads[h] → x.frame = some y.startAt → y.raster = true → y.st ≠ .off → sndTurn s i = true →
    x.next < linePackets (x.word i.val 0) (y.width h.val) * y.height h.val → packetAt x i.val y h.val x.next ≤ (s.now : ℚ) →
    ∃ t, exec (.videoPacket i) s = .next t ∧ t.out = s.out ∧ regGet t (portReg port 0x88) = satInc (regGet s (portReg port 0x88)) ∧
      regGet t (sndReg i.val 0x3C) = satInc (regGet s (sndReg i.val 0x3C)) ∧ (t.net.snds[i]).seq = (x.seq + 1) % 2 ^ 32 ∧
      (t.net.snds[i]).next = x.next + 1 ∧ onlyRegs [portReg port 0x88, sndReg i.val 0x3C, sndReg i.val 0x44] s t ∧
      onlyChanges [.net, .regs] s t) ∧
  (∀ (s : State) (i : Fin 48) (x : Sender) (h : Fin 6) (y : Head) (port f : Nat) (pay : List Byte), s.live = true →
    x = s.net.snds[i] → bit (x.word i.val 0) 31 = true → field (x.word i.val 0) 30 29 = 0 → bit (x.word i.val 0) 25 = true →
    port = field (x.word i.val 0) 28 28 → f = field (x.word i.val 0) 27 26 → ifUp s port f = true → ifUp s (1 - port) f = true →
    field (x.word i.val 4) 26 24 = h.val → y = s.dsp.heads[h] → x.frame = some y.startAt → y.raster = true → y.st ≠ .off →
    sndTurn s i = true → x.next < linePackets (x.word i.val 0) (y.width h.val) * y.height h.val →
    packetAt x i.val y h.val x.next ≤ (s.now : ℚ) → (s.now : ℚ) ≤ packetAt x i.val y h.val x.next + 1000 →
    pay = rtpHead x i.val x.seq (rtpVideo y.startPtp)
        (decide (x.next + 1 = linePackets (x.word i.val 0) (y.width h.val) * y.height h.val))
      ++ videoPayload y.picture (y.width h.val) (x.word i.val 0) x.seq x.next →
    ∃ t, exec (.videoPacket i) s = .next t ∧
      t.out = .netTx (1 - port) f (sndFrame s i.val x (1 - port) f true pay) :: .netTx port f (sndFrame s i.val x port f false pay)
        :: s.out ∧
      regGet t (portReg port 0x84) = satInc (regGet s (portReg port 0x84)) ∧
      regGet t (portReg (1 - port) 0x84) = satInc (regGet s (portReg (1 - port) 0x84)) ∧
      (t.net.snds[i]).seq = (x.seq + 1) % 2 ^ 32 ∧ (t.net.snds[i]).next = x.next + 1 ∧ onlyChanges [.net, .out, .regs] s t) ∧
  (∀ (s : State) (i : Fin 48) (x : Sender) (k due : Nat), sends s i x 1 → x.group = some k →
    due = (k + 1) * (groupNs (x.word i.val 0) * 65536) + (x.word i.val 0x34).toNat * 1000 * 65536 → due ≤ ptpTime s →
    ptpTime s ≤ due + 1000 * 65536 → sndTurn s i = true →
    ∃ t more, exec (.audioPacket i) s = .next t ∧
      packetLeft s t i x (rtpHead x i.val x.seq (k * groupSamples (x.word i.val 0) % 2 ^ 32) false
        ++ (List.range (groupSamples (x.word i.val 0))).flatMap fun m => (sndChannels (field (x.word i.val 4) 15 0)).flatMap fun c =>
          let v := (gotAt x.got c.1 (k * groupSamples (x.word i.val 0) + m)).getD (0, 0)
          audioBytes (bit (x.word i.val 0) 24) (if c.2 = 0 then v.1 else v.2)) more ∧
      (t.net.snds[i]).group = some (k + 1) ∧
      ((∀ m < groupSamples (x.word i.val 0), ∀ c ∈ sndChannels (field (x.word i.val 4) 15 0),
          (gotAt x.got c.1 (k * groupSamples (x.word i.val 0) + m)).isSome = true) →
        more = [] ∧ (t.net.snds[i]).silent = false ∧ onlyChanges [.net, .out, .regs] s t) ∧
      ((∃ m < groupSamples (x.word i.val 0), ∃ c ∈ sndChannels (field (x.word i.val 4) 15 0),
          gotAt x.got c.1 (k * groupSamples (x.word i.val 0) + m) = none) →
        (t.net.snds[i]).silent = true ∧ regGet t (sndReg i.val 0x40) = satInc (regGet s (sndReg i.val 0x40)) ∧
          (x.silent = true → more = []) ∧ (x.silent = false → raised t .net 4) ∧ onlyChanges (.net :: reporting) s t)) ∧
  (∀ (s : State) (i : Fin 48) (x : Sender) (h : Fin 6) (y : Head), sends s i x 2 → field (x.word i.val 4) 26 24 = h.val →
    y = s.dsp.heads[h] → x.frame = some y.startAt → y.raster = true → y.st ≠ .off → sndTurn s i = true → x.next = 0 → y.startAt + 50000 ≤ (s.now : ℚ) →
    (∀ n, (y.planes[0]).shown = n → n ≠ 0 → (s.now : ℚ) ≤ y.startAt + 51000 →
      ∃ t, exec (.timecodePacket i) s = .next t ∧
        packetLeft s t i x (rtpHead x i.val x.seq (rtpVideo y.startPtp) true
          ++ ancPayload x.seq (BitVec.ofNat 32 (leAt (bufferBytes s n 0 256) 0x14 4)) (BitVec.ofNat 32 (leAt (bufferBytes s n 0 256) 0x18 4))) [] ∧
        (t.net.snds[i]).next = 1 ∧ onlyChanges [.net, .out, .regs] s t) ∧
    ((y.planes[0]).shown = 0 →
      ∃ t, exec (.timecodePacket i) s = .next t ∧ regGet t (sndReg i.val 0x3C) = satInc (regGet s (sndReg i.val 0x3C)) ∧
        raised t .net 5 ∧ (t.net.snds[i]).seq = x.seq ∧ (t.net.snds[i]).next = 1 ∧ onlyRegs [sndReg i.val 0x3C, 0x143000] s t ∧
        onlyChanges (.net :: reporting) s t))

/-- While the core runs: a PTP message received on an interface whose link is up is counted and goes to Fjarera with its ingress
time-stamp, the latency taken off, after the gap where one lasts; another frame is counted and goes nowhere else; a link that
drops clears its bits in the port's state, is counted and raised; a link comes up, with or without FEC, on an interface that its
port has while ETH_REFCLK is there, and is raised; an uncorrectable FEC block is counted and raised while the link is up. A PTP
message leaves on a link that is up, counted, and its identifier and egress time, with the latency added, join the port's queue of
64; on a full queue the time-stamp is lost, counted and raised; while the link is down the message is counted as dropped. A read
of the port's queue returns and removes the oldest entry, whose other words are captured for the party; of an empty queue all
words are zero. -/
def Obligations.EthernetInterfacesAndTimeStamps : Prop :=
  (∀ (s : State) (p : Fin 2) (f : Fin 4) (l : List Byte), s.live = true →
    (ifUp s p.val f.val = true →
      (isPtp s p.val f.val l = true → ∀ lat : Int,
        lat = (Config.portLatency (field s.net.ports[p] 30 30) : Int) + sword (regGet s (0x150080 + 0x20 * p.val)) →
        ∃ t, exec (.ethFrameReceived p f l) s = .next t ∧
          regGet t (portReg p.val 0x90) = satInc (regGet s (portReg p.val 0x90)) ∧ onlyRegs [portReg p.val 0x90] s t ∧
          (interrupted s = false → t.out = .ptpRx p.val f.val ((ptpTime s : Int) - lat) l :: s.out ∧ onlyChanges [.regs, .out] s t) ∧
          (interrupted s = true → t.net = { s.net with heard := s.net.heard ++ [(p.val, f.val, (ptpTime s : Int) - lat, l)] } ∧
            onlyChanges [.regs, .net] s t)) ∧
      (isPtp s p.val f.val l = false →
        ∃ t, exec (.ethFrameReceived p f l) s = .next t ∧
          regGet t (portReg p.val 0x94) = satInc (regGet s (portReg p.val 0x94)) ∧ onlyRegs [portReg p.val 0x94] s t ∧
          onlyChanges [.regs] s t) ∧
      (∃ t, exec (.ethLinkDown p f) s = .next t ∧
        regGet t (portReg p.val 0x80) = clrBit (clrBit (regGet s (portReg p.val 0x80)) f.val) (4 + f.val) &&& 0xFF ∧
        regGet t (portReg p.val 0x9C) = satInc (regGet s (portReg p.val 0x9C)) ∧ raised t .net 1 ∧
        onlyRegs [portReg p.val 0x80, portReg p.val 0x9C, 0x143000] s t ∧ onlyChanges reporting s t) ∧
      (∃ t, exec (.fecUncorr p f) s = .next t ∧ regGet t (portReg p.val 0x98) = satInc (regGet s (portReg p.val 0x98)) ∧
        raised t .net 2 ∧ onlyRegs [portReg p.val 0x98, 0x143000] s t ∧ onlyChanges reporting s t)) ∧
    (∀ fec, ifUp s p.val f.val = false → hasIface s.net.ports[p] f.val = true → (s.sys.clocks[4]).lost = false →
      ∃ t, exec (.ethLinkUp p f fec) s = .next t ∧
        regGet t (portReg p.val 0x80) = putBit (setBit (regGet s (portReg p.val 0x80)) f.val) (4 + f.val) fec &&& 0xFF ∧
        raised t .net 0 ∧ onlyRegs [portReg p.val 0x80, 0x143000] s t ∧ onlyChanges reporting s t)) ∧
  (∀ (s : State) (p : Fin 2) (f : Fin 4) (ident : Nat) (l : List Byte), s.live = true → interrupted s = false →
    (ifUp s p.val f.val = true →
      ∃ t, exec (.ptpMessageSent p f ident l) s = .next t ∧ regGet t (portReg p.val 0x84) = satInc (regGet s (portReg p.val 0x84)) ∧
        .netTx p.val f.val l ∈ t.out ∧
        ((s.net.txts[p]).length < 64 → t.net.txts[p] = s.net.txts[p] ++ [(ident % 65536,
            ((ptpTime s : Int) + ((Config.portLatency (field s.net.ports[p] 30 30) : Int) + sword (regGet s (0x150084 + 0x20 * p.val)))).toNat)] ∧
          onlyRegs [portReg p.val 0x84] s t ∧ onlyChanges [.net, .out, .regs] s t) ∧
        (64 ≤ (s.net.txts[p]).length → t.net = s.net ∧
          regGet t (0x150098 + 0x20 * p.val) = satInc (regGet s (0x150098 + 0x20 * p.val)) ∧ raised t .ptp 5 ∧
          onlyRegs [portReg p.val 0x84, 0x150098 + 0x20 * p.val, 0x150400] s t ∧ onlyChanges reporting s t)) ∧
    (ifUp s p.val f.val = false →
      ∃ t, exec (.ptpMessageSent p f ident l) s = .next t ∧ regGet t (portReg p.val 0x88) = satInc (regGet s (portReg p.val 0x88)) ∧
        onlyRegs [portReg p.val 0x88] s t ∧ onlyChanges [.regs] s t)) ∧
  (∀ (s : State) (q : Party) (k : Fin 2), s.live = true → mayRead q = true →
    (∀ ident time r, s.net.txts[k] = (ident, time) :: r →
      ∃ t, exec (.txtsRead q k) s = .next t ∧ t.net.txts[k] = r ∧
        t.out = .readData q (0x150088 + 0x20 * k.val) (packFields [(31, 1), (0, ident)]) :: s.out ∧
        captured t q (0x150088 + 0x20 * k.val) (0x15008C + 0x20 * k.val) = BitVec.ofNat 32 (ptpNs time) ∧
        captured t q (0x150088 + 0x20 * k.val) (0x150090 + 0x20 * k.val) = BitVec.ofNat 32 (ptpSec time) ∧
        captured t q (0x150088 + 0x20 * k.val) (0x150094 + 0x20 * k.val)
          = packFields [(16, ptpFrac time), (0, ptpSec time / 2 ^ 32 % 65536)] ∧
        onlyChanges [.net, .captures, .out] s t) ∧
    (s.net.txts[k] = [] →
      ∃ t, exec (.txtsRead q k) s = .next t ∧ t.out = .readData q (0x150088 + 0x20 * k.val) 0 :: s.out ∧
        (∀ j, captured t q (0x150088 + 0x20 * k.val) j = 0) ∧ onlyChanges [.captures, .out] s t))

/-- While the core runs: a write of the offset's high word by a party other than Fjarera changes nothing; with the servo off the
offset only stands in its registers. While control service is not interrupted and with the servo on, a measured offset o is kept
with its tick; a large one, twice in a row on an unlocked servo that may step, steps the clock by −o, raised, and otherwise integ
and f take the spec's values, limited to FMAX; a locked servo loses its lock on a large offset, raised; an unlocked one locks on
the sixteenth offset in a row within LOCK_THRESH, raised. When no offset has come for OFS_TIMEOUT milliseconds a seeking or locked
servo holds f at −integ, in holdover, raised. -/
def Obligations.PtpServoFollowsItsOffsets : Prop :=
  (∀ (s : State) (p : Party) (v : Word), s.live = true → p ≠ .fjarera → ∃ t, exec (.offsetWrite p v) s = .next t ∧ onlyChanges [] s t) ∧
  (∀ (s : State) (v lo : Word), s.live = true → interrupted s = false → lo = stagedWord s .fjarera 0x150030 → regBit s 0x150010 31 = false →
    ∃ t, exec (.offsetWrite .fjarera v) s = .next t ∧ regGet t 0x150030 = lo ∧ regGet t 0x150034 = v ∧
      (∀ j, j ≠ 0x150030 → j ≠ 0x150034 → regGet t j = regGet s j) ∧ onlyChanges [.regs] s t) ∧
  (∀ (s : State) (v : Word) (units : Int) (o fmax : ℚ) (st small : Nat), s.live = true → interrupted s = false →
    regBit s 0x150010 31 = true →
    units = signed 64 ((stagedWord s .fjarera 0x150030).toNat + v.toNat * 2 ^ 32) → o = (units : ℚ) / 65536 →
    fmax = (regField s 0x15001C 18 0 : ℚ) → st = regField s 0x15003C 31 30 →
    small = (if absQ o < ((regGet s 0x150024).toNat : ℚ) then s.net.small + 1 else 0) →
    ∃ t, exec (.offsetWrite .fjarera v) s = .next t ∧ t.net.lastOfs = some s.now ∧ t.net.small = small ∧
      t.net.prevBig = decide (((regGet s 0x150020).toNat : ℚ) < absQ o) ∧
      (((regGet s 0x150020).toNat : ℚ) < absQ o → st ≠ 2 → s.net.prevBig = true → regBit s 0x150010 30 = true →
        t.ptpNow = ((s.ptpNow : Int) - units).toNat ∧ t.net.f = s.net.f ∧ t.net.integ = s.net.integ ∧ raised t .ptp 3) ∧
      (absQ o ≤ ((regGet s 0x150020).toNat : ℚ) →
        t.ptpNow = s.ptpNow ∧ t.net.integ = max (-fmax) (min (s.net.integ + f32 (regGet s 0x150018) * o) fmax) ∧
        t.net.f = -(max (-fmax) (min (f32 (regGet s 0x150014) * o + t.net.integ) fmax)) ∧
        regGet t 0x150038 = wordOfInt (t.net.f * 256).floor) ∧
      (st = 2 → absQ o ≤ ((regGet s 0x150020).toNat : ℚ) → regField t 0x15003C 31 30 = 2) ∧
      (st = 2 → ((regGet s 0x150020).toNat : ℚ) < absQ o → regField t 0x15003C 31 30 = 1 ∧ raised t .ptp 1) ∧
      (st ≠ 2 → 16 ≤ small → regField t 0x15003C 31 30 = 2 ∧ raised t .ptp 0) ∧
      (st ≠ 2 → small < 16 → regField t 0x15003C 31 30 = 1) ∧
      onlyChanges (.net :: .ptpNow :: .ref :: .dsp :: .aud :: reporting) s t) ∧
  (∀ (s : State) (x : Nat), s.live = true → regBit s 0x150010 31 = true →
    (regField s 0x15003C 31 30 = 1 ∨ regField s 0x15003C 31 30 = 2) → s.net.lastOfs = some x →
    (x + (regGet s 0x150028).toNat * 1000000 ≤ s.now →
      ∃ t, exec .ofsTimeout s = .next t ∧ t.net.f = -s.net.integ ∧ t.net.integ = s.net.integ ∧ t.ptpNow = s.ptpNow ∧
        regField t 0x15003C 31 30 = 3 ∧ regGet t 0x150038 = wordOfInt (-s.net.integ * 256).floor ∧ raised t .ptp 2 ∧
        onlyChanges (.net :: .ref :: .dsp :: reporting) s t) ∧
    (s.now < x + (regGet s 0x150028).toNat * 1000000 → ∃ t, exec .ofsTimeout s = .next t ∧ onlyChanges [] s t))

/-- While the core runs: an edge that an enabled input takes, with no expected period, is counted in the input's 16-bit count and
joins the event FIFO of 64 with its direction, input, count and PTP time to within 2 ns; on a full FIFO the entry is lost, counted
and raised; an edge of the other direction, or of a pulse shorter than MIN_PULSE, changes nothing; one whose period lies outside 2
% of EXP_PERIOD is counted as an outlier, raised, and otherwise ignored. An input with an expected period is lost after three of
them, once, raised. A read of the FIFO returns and removes the oldest entry, whose other words are captured for the party; of an
empty FIFO all words are zero. A write of TC_JAM by a party that may sets the label of the slot's next frame. -/
def Obligations.EventInputsAndTimecodeJam : Prop :=
  (∀ (s : State) (i : Fin 16) (rising : Bool) (width : Nat) (cfg : Word), s.live = true → cfg = regGet s (evtCfgReg i.val) →
    bit cfg 31 = true →
    (width < 4 * field cfg 15 0 → ∃ t, exec (.eventEdge i rising width) s = .next t ∧ onlyChanges [] s t) ∧
    (4 * field cfg 15 0 ≤ width →
      ((field cfg 30 29 = 2 ∨ (field cfg 30 29 = 0 ∧ rising = true) ∨ (field cfg 30 29 = 1 ∧ rising = false)) →
      regGet s (evtCfgReg i.val + 4) = 0 →
      ∃ t, exec (.eventEdge i rising width) s = .next t ∧ (t.net.inputs[i]).count = ((s.net.inputs[i]).count + 1) % 65536 ∧
        (t.net.inputs[i]).lastEdge = some s.now ∧ (t.net.inputs[i]).lost = false ∧
        (s.net.evts.length < 64 → (∃ time, ptpTime s ≤ time + 131072 ∧ time ≤ ptpTime s + 131072 ∧ t.net.evts = s.net.evts ++
            [{ rising := rising, input := i.val, count := ((s.net.inputs[i]).count + 1) % 65536, time := time }]) ∧
          onlyChanges [.net, .free] s t) ∧
        (64 ≤ s.net.evts.length → t.net.evts = s.net.evts ∧ regGet t 0x150290 = satInc (regGet s 0x150290) ∧ raised t .ptp 6 ∧
          onlyRegs [0x150290, 0x150400] s t ∧ onlyChanges (.net :: reporting) s t)) ∧
    ((field cfg 30 29 = 0 ∧ rising = false) ∨ (field cfg 30 29 = 1 ∧ rising = true) →
      ∃ t, exec (.eventEdge i rising width) s = .next t ∧ onlyChanges [] s t) ∧
    (∀ x exp, field cfg 30 29 = 2 → (s.net.inputs[i]).lastEdge = some x → exp = (regGet s (evtCfgReg i.val + 4)).toNat → exp ≠ 0 →
      (s.net.inputs[i]).run < 8 →
      (((s.now - x : Nat) : ℚ) < (exp : ℚ) * 98 / 100 ∨ (exp : ℚ) * 102 / 100 < ((s.now - x : Nat) : ℚ)) →
      ∃ t, exec (.eventEdge i rising width) s = .next t ∧ regGet t 0x150294 = satInc (regGet s 0x150294) ∧ raised t .ptp 7 ∧
        onlyRegs [0x150294, 0x150400] s t ∧ onlyChanges reporting s t))) ∧
  (∀ (s : State) (i : Fin 16) (exp : Nat), s.live = true → regBit s (evtCfgReg i.val) 31 = true →
    exp = (regGet s (evtCfgReg i.val + 4)).toNat → exp ≠ 0 →
    ((s.net.inputs[i]).lost = false → (s.net.inputs[i]).lastEdge.getD (s.net.inputs[i]).since + 3 * exp ≤ s.now →
      ∃ t, exec (.evtInputLost i) s = .next t ∧ (t.net.inputs[i]).lost = true ∧ (t.net.inputs[i]).run = 0 ∧
        (t.net.inputs[i]).count = (s.net.inputs[i]).count ∧ raised t .ptp 8 ∧ onlyRegs [0x150400] s t ∧
        onlyChanges (.net :: reporting) s t) ∧
    ((s.net.inputs[i]).lost = true → ∃ t, exec (.evtInputLost i) s = .next t ∧ onlyChanges [] s t)) ∧
  (∀ (s : State) (q : Party), s.live = true → mayRead q = true →
    (∀ e r, s.net.evts = e :: r →
      ∃ t, exec (.evtRead q) s = .next t ∧ t.net = { s.net with evts := r } ∧
        t.out = .readData q 0x150280 (packFields [(31, 1), (20, if e.rising then 1 else 0), (16, e.input), (0, e.count)]) :: s.out ∧
        captured t q 0x150280 0x150284 = BitVec.ofNat 32 (ptpNs e.time) ∧
        captured t q 0x150280 0x150288 = BitVec.ofNat 32 (ptpSec e.time) ∧
        captured t q 0x150280 0x15028C = packFields [(16, ptpFrac e.time), (0, ptpSec e.time / 2 ^ 32 % 65536)] ∧
        onlyChanges [.net, .captures, .out] s t) ∧
    (s.net.evts = [] → ∃ t, exec (.evtRead q) s = .next t ∧ t.out = .readData q 0x150280 0 :: s.out ∧
      (∀ j, captured t q 0x150280 j = 0) ∧ onlyChanges [.captures, .out] s t)) ∧
  (∀ (s : State) (q : Party) (n : Fin 8) (v : Word), s.live = true → mayWrite q (0x150304 + 0x10 * n.val) = true →
    ∃ t, exec (.tcJam q n v) s = .next t ∧ t.net = { s.net with labels := s.net.labels.set n v } ∧
      regGet t (0x150304 + 0x10 * n.val) = v ∧ onlyRegs [0x150304 + 0x10 * n.val] s t ∧ onlyChanges [.net, .regs] s t)

/-- While the core runs, of an enabled port whose fields are latched: a master port takes a sample at or after its scheduled
instant into the block in progress, and at the sixty-fourth the block ends: SEQ advances, and the time-stamp registers hold its
SEQ and start; before the instant nothing is taken. A slave port that is locked takes the sample of a frame whose period is valid
and whose bit clock is right; a wrong bit clock is counted and takes none; the eighth valid frame locks a seeking port; a frame
whose period is out of range is counted and raised, and takes none; one that a pulse shorter than MIN_PULSE begins changes
nothing. A slave port without three valid periods' worth of edges is lost, counted and raised, and is silent from then on: at each
block's instant the block in progress ends with zeros, counted, and the next silent one begins one block length later. -/
def Obligations.AudioPortsTakeSamples : Prop :=
  (∀ (s : State) (a : Fin 8) (low high : BitVec 33) (bclk width : Nat) (x : AudPort) (l r : Int), s.live = true → x = s.aud[a] →
    x.cfg = rmSlice s.regs (audReg a.val 0) (audReg a.val 0x20) → x.enabled a.val = true →
    l = audSample (x.word a.val 0) (if bit (x.word a.val 0) 29 then high else low) →
    r = audSample (x.word a.val 0) (if bit (x.word a.val 0) 29 then low else high) →
    (∀ m b, x.master a.val = true → x.sample = some m → x.cur = some b →
      (masterInstant x a.val m ≤ (ptpTime s : Int) → b.samples.length < 63 →
        ∃ t, exec (.audioFrame a low high bclk width) s = .next t ∧ (t.aud[a]).sample = some (m + 1) ∧
          (t.aud[a]).cur = some { b with samples := b.samples ++ [(l, r)] } ∧ (t.aud[a]).seq = x.seq ∧
          onlyChanges (.aud :: .net :: reporting) s t) ∧
      (masterInstant x a.val m ≤ (ptpTime s : Int) → b.samples.length = 63 → b.silence = false →
        ∃ t, exec (.audioFrame a low high bclk width) s = .next t ∧ (t.aud[a]).sample = some (m + 1) ∧ (t.aud[a]).cur = none ∧
          (t.aud[a]).seq = (b.seq + 1) % 2 ^ 32 ∧ regGet t (audReg a.val 0x40) = BitVec.ofNat 32 b.seq ∧
          regGet t (audReg a.val 0x44) = BitVec.ofNat 32 (ptpNs b.start) ∧
          regGet t (audReg a.val 0x48) = BitVec.ofNat 32 (ptpSec b.start) ∧
          onlyChanges (.aud :: .net :: .gal :: reporting) s t) ∧
      ((ptpTime s : Int) < masterInstant x a.val m →
        ∃ t, exec (.audioFrame a low high bclk width) s = .next t ∧ onlyChanges [] s t)) ∧
    (x.master a.val = false → width < 4 * field (x.word a.val 0xC) 15 0 →
      ∃ t, exec (.audioFrame a low high bclk width) s = .next t ∧ onlyChanges [] s t) ∧
    (∀ (e : Nat) (exp : ℚ), x.master a.val = false → 4 * field (x.word a.val 0xC) 15 0 ≤ width → x.lastEdge = some e →
      exp = 1000000000 / (x.rate a.val : ℚ) →
      (inWindow exp x.periods (if x.st = .locked then 8 else 0) (s.now - e) = true → x.st = .locked →
        (bclk = 2 * x.slotBits a.val → ∀ b, x.cur = some b → b.samples.length < 63 →
          ∃ t, exec (.audioFrame a low high bclk width) s = .next t ∧ (t.aud[a]).cur = some { b with samples := b.samples ++ [(l, r)] } ∧
            (t.aud[a]).lastEdge = some s.now ∧ (t.aud[a]).st = .locked ∧ onlyChanges (.aud :: .net :: .free :: reporting) s t) ∧
        (bclk ≠ 2 * x.slotBits a.val →
          ∃ t, exec (.audioFrame a low high bclk width) s = .next t ∧ (t.aud[a]).cur = x.cur ∧
            regGet t (audReg a.val 0x3C) = satInc (regGet s (audReg a.val 0x3C)) ∧
            onlyRegs [audReg a.val 0x20, audReg a.val 0x3C] s t ∧ onlyChanges [.aud, .regs] s t)) ∧
      (inWindow exp x.periods 0 (s.now - e) = true → x.st = .seeking → x.run = 7 → x.silent = false →
        ∃ t, exec (.audioFrame a low high bclk width) s = .next t ∧ (t.aud[a]).st = .locked ∧ (t.aud[a]).cur = x.cur ∧
          regGet t (audReg a.val 0x20) = packFields [(30, 2), (0, 8)] ∧ regGet t (audReg a.val 0x24) = 0 ∧
          onlyRegs [audReg a.val 0x20, audReg a.val 0x24, audReg a.val 0x3C] s t ∧ onlyChanges [.aud, .regs] s t) ∧
      (inWindow exp x.periods (if x.st = .locked then 8 else 0) (s.now - e) = false →
        ∃ t, exec (.audioFrame a low high bclk width) s = .next t ∧ regGet t (audReg a.val 0x2C) = satInc (regGet s (audReg a.val 0x2C)) ∧
          raised t .aud 3 ∧ onlyRegs [audReg a.val 0x2C, 0x161000] s t ∧ onlyChanges reporting s t))) ∧
  (∀ (s : State) (a : Fin 8) (x : AudPort), s.live = true → x = s.aud[a] →
    (x.enabled a.val = true → x.master a.val = false → x.st ≠ .lost → x.cur = none →
      3000000000 ≤ (s.now - x.lastEdge.getD x.since) * x.rate a.val →
      ∃ t, exec (.audioPortLost a) s = .next t ∧ (t.aud[a]).st = .lost ∧ (t.aud[a]).silent = true ∧ (t.aud[a]).run = 0 ∧
        regGet t (audReg a.val 0x30) = satInc (regGet s (audReg a.val 0x30)) ∧ regField t (audReg a.val 0x20) 31 30 = 3 ∧
        raised t .aud 0 ∧ onlyRegs [audReg a.val 0x20, audReg a.val 0x30, 0x161000] s t ∧ onlyChanges (.aud :: reporting) s t) ∧
    (∀ at_, x.silent = true → at_ = x.lastStart + blockLen (silentRate x a.val) →
      x.cfg = rmSlice s.regs (audReg a.val 0) (audReg a.val 0x20) →
      (at_ ≤ ptpTime s →
        ∃ t b, exec (.syntheticBlock a) s = .next t ∧ (t.aud[a]).cur = some b ∧ b.silence = true ∧ b.start = at_ ∧ b.samples = [] ∧
          (t.aud[a]).lastStart = at_ ∧
          (x.cur.isSome = true → regGet t (audReg a.val 0x34) = satInc (regGet s (audReg a.val 0x34))) ∧
          onlyChanges (.aud :: .gal :: reporting) s t) ∧
      (ptpTime s < at_ → ∃ t, exec (.syntheticBlock a) s = .next t ∧ onlyChanges [] s t)))

/-- While the core runs: a doorbell of a queue that its function owns takes a tail below the depth, after which fetching may go
on, and a head that does not pass what has been posted; any other value, or another's queue, changes no queue, is counted as a bad
doorbell for the function and raised. A fetch takes the next entry of the queue that the arbiter chooses, in 64 bytes: an entry
with a tag of the queue that is not in flight, a known opcode and zeros where the opcode wants them becomes a command in flight
with the entry's fields; a tag out of range is answered INVALID_FIELD at byte 4 and takes nothing in flight; an unknown opcode
completes with INVALID_OPCODE; a read that fails halts the queue, counted and raised. Nothing is fetched from another queue than
the arbiter's. -/
def Obligations.DoorbellsAndFetching : Prop :=
  (∀ (s : State) (f : Fin 64) (q : Nat) (v : Word), s.live = true →
    (∀ x, ownedQueue s f q = some x → field v 15 0 < x.sqDepth →
      ∃ t, exec (.sqTailDoorbell f q v) s = .next t ∧ queueOf t q = some { x with sqTail := field v 15 0, fenced := false } ∧
        (∀ k, k ≠ q → queueOf t k = queueOf s k) ∧ onlyChanges [.hq] s t) ∧
    (∀ x, ownedQueue s f q = some x → field v 15 0 < x.cqDepth →
      (field v 15 0 + x.cqDepth - x.cqHead) % x.cqDepth ≤ (x.cqTail + x.cqDepth - x.cqHead) % x.cqDepth → x.backlog = [] →
      x.resetting = none →
      ∃ t, exec (.cqHeadDoorbell f q v) s = .next t ∧ queueOf t q = some { x with cqHead := field v 15 0 } ∧
        (∀ k, k ≠ q → queueOf t k = queueOf s k) ∧ onlyChanges [.hq] s t) ∧
    (∀ c, (c = .sqTailDoorbell f q v ∧ ∀ x, ownedQueue s f q = some x → x.sqDepth ≤ field v 15 0) ∨
        (c = .cqHeadDoorbell f q v ∧ ∀ x, ownedQueue s f q = some x → x.cqDepth ≤ field v 15 0) →
      ∃ t, exec c s = .next t ∧ regGet t (fnReg f.val 0x14) = satInc (regGet s (fnReg f.val 0x14)) ∧
        regBit t (fnReg f.val 0x1C) 0 = true ∧ onlyRegs [fnReg f.val 0x14, fnReg f.val 0x1C] s t ∧ onlyChanges reporting s t)) ∧
  (∀ (s : State) (q : Nat) (a : Arb) (x : Queue), s.live = true → arbNext s = some (q, a) → queueOf s q = some x →
    (∃ t, exec (.fetch q none) s = .next t ∧ queueOf t q = some { x with halted := true } ∧
      regGet t 0x181010 = satInc (regGet s 0x181010) ∧ regBit t (fnReg x.fn 0x1C) 2 = true ∧
      onlyRegs [0x181010, fnReg x.fn 0x1C] s t ∧ onlyChanges (.hq :: reporting) s t) ∧
    (∀ e tag r, e.length = 64 → tag = leAt e 4 4 % 2 ^ 18 →
      (x.tagBase ≤ tag → tag < x.tagBase + x.tagCount → mGet x.cmds tag = none → opRowOf (leAt e 0 1) = some r → r.badField e = none →
        ∃ t y c, exec (.fetch q (some e)) s = .next t ∧ queueOf t q = some y ∧ y.sqHead = (x.sqHead + 1) % x.sqDepth ∧
          y.cqTail = x.cqTail ∧ mGet y.cmds tag = some c ∧ c.op = leAt e 0 1 ∧ c.flags = leAt e 1 1 ∧ c.addr = leAt e 8 8 ∧
          c.len = leAt e 0x10 4 ∧ c.arg0 = leAt e 0x18 8 ∧ c.arg1 = leAt e 0x20 8 ∧ c.sqHead = y.sqHead ∧ c.waiting = false ∧
          c.finished = false ∧ c.aborted = false ∧ regGet t 0x18100C = satInc (regGet s 0x18100C) ∧ t.hq.arb = a ∧
          onlyRegs [0x18100C] s t ∧ onlyChanges [.hq, .regs] s t) ∧
      ((tag < x.tagBase ∨ x.tagBase + x.tagCount ≤ tag) → x.full = false → x.backlog = [] →
        ∃ t, exec (.fetch q (some e)) s = .next t ∧
          .hostWrite x.fn (x.cqBase + 16 * x.cqTail)
            (cqeBytes x 4 tag ((x.sqHead + 1) % x.sqDepth) stInvalidField 0 0 (leAt e 0 1)) ∈ t.out ∧
          (queueOf t q).map (·.cmds) = some x.cmds ∧ onlyChanges (.regs :: completing) s t) ∧
      (x.tagBase ≤ tag → tag < x.tagBase + x.tagCount → mGet x.cmds tag = none → opRowOf (leAt e 0 1) = none → x.full = false →
        x.backlog = [] →
        ∃ t c, exec (.fetch q (some e)) s = .next t ∧ completed t q tag x c stInvalidOpcode 0 0 0 ∧ c.op = leAt e 0 1 ∧
          c.sqHead = (x.sqHead + 1) % x.sqDepth ∧ onlyChanges (.regs :: completing) s t)) ∧
    (∀ k e, k ≠ q → ∃ t, exec (.fetch k e) s = .next t ∧ onlyChanges [] s t)) ∧
  (∀ (s : State) (f : Fin 64) (b : Bool), s.live = true →
    ∃ t, exec (.busMasterEnable f b) s = .next t ∧ t.hq = { s.hq with bme := s.hq.bme.set f b } ∧ onlyChanges [.hq] s t)

/-- While the core runs: AGG_TIME × 4 µs after the first entry that no message has reported, a queue's message is sent on its
vector, or held in the PBA bit of a masked vector, and no entry is unreported; before that nothing happens. A write of 0 to the
mask bit of a vector that the function has unmasks it and sends the message that its PBA bit holds, clearing the bit; a write of 1
masks it and sends nothing; a vector that the function does not have is not written. -/
def Obligations.QueueInterrupts : Prop :=
  (∀ (s : State) (q : Nat) (x : Queue), s.live = true → queueOf s q = some x → 0 < x.aggTime → 0 < x.unsignalled →
    (x.firstAt + 4000 * x.aggTime ≤ s.now →
      ∃ t, exec (.aggTimeExpiry q) s = .next t ∧ queueOf t q = some { x with unsignalled := 0 } ∧
        (vecMasked s x.fn x.vector = false → t.out = .msix x.fn x.vector :: s.out ∧ onlyChanges [.hq, .out] s t) ∧
        (vecMasked s x.fn x.vector = true → mGet t.pba (x.fn * 128 + x.vector) = some true ∧ onlyChanges [.hq, .pba] s t)) ∧
    (s.now < x.firstAt + 4000 * x.aggTime → ∃ t, exec (.aggTimeExpiry q) s = .next t ∧ onlyChanges [] s t)) ∧
  (∀ (s : State) (f : Fin 64) (vec : Fin 128) (v : Word), s.live = true → vec.val < vectorsOf f.val →
    (bit v 0 = false →
      ∃ t, exec (.vectorUnmask f vec v) s = .next t ∧ vecMasked t f.val vec.val = false ∧
        mGet t.pba (f.val * 128 + vec.val) = none ∧
        ((mGet s.pba (f.val * 128 + vec.val)).isSome = true → t.out = .msix f.val vec.val :: s.out) ∧
        (mGet s.pba (f.val * 128 + vec.val) = none → t.out = s.out) ∧ onlyChanges [.msix, .pba, .out] s t) ∧
    (bit v 0 = true →
      ∃ t, exec (.vectorUnmask f vec v) s = .next t ∧ vecMasked t f.val vec.val = true ∧ onlyChanges [.msix] s t)) ∧
  (∀ (s : State) (f : Fin 64) (vec : Fin 128) (v : Word), vectorsOf f.val ≤ vec.val →
    ∃ t, exec (.vectorUnmask f vec v) s = .next t ∧ onlyChanges [] s t)

/-- While the core runs: a write of HQ.QRESET with bit 31 set, by the function that owns the queue, asks for its reset, unless one
is under way; another function's write changes nothing. At the hold instant every tag in flight is marked for abort and a
completion made and not yet posted is withdrawn; with no tag in flight and room in the CQ the fence entry is posted at once, the
submission queue is empty, and fetching waits for a doorbell. An aborted command that holds no course completes with
ABORTED_BY_RESET once its work has stopped; its tag is free and is counted among the aborted. -/
def Obligations.QueueResetsAbortAndFence : Prop :=
  (∀ (s : State) (f : Fin 64) (v : Word) (x : Queue), s.live = true → ownedQueue s f (field v 11 0) = some x → x.resetting = none →
    s.hq.resetAsked.contains (field v 11 0) = false → bit v 31 = true →
    ∃ t, exec (.qreset f v) s = .next t ∧ t.hq = { s.hq with resetAsked := s.hq.resetAsked ++ [field v 11 0] } ∧
      onlyChanges [.hq] s t) ∧
  (∀ (s : State) (f : Fin 64) (v : Word), ownedQueue s f (field v 11 0) = none ∨ bit v 31 = false →
    ∃ t, exec (.qreset f v) s = .next t ∧ onlyChanges [] s t) ∧
  (∀ (s : State) (q : Nat) (x : Queue), s.live = true → s.hq.resetAsked.contains q = true → queueOf s q = some x →
    (x.cmds ≠ [] →
      ∃ t, exec (.resetHold q) s = .next t ∧ q ∉ t.hq.resetAsked ∧
        queueOf t q = some { x with resetting := some 0, backlog := x.backlog.filter (fun e => !e.ends),
                                    cmds := x.cmds.map fun p => (p.1, { p.2 with aborted := true, finished := false }) } ∧
        onlyChanges [.hq] s t) ∧
    (x.cmds = [] → x.backlog = [] → x.full = false →
      ∃ t y, exec (.resetHold q) s = .next t ∧ queueOf t q = some y ∧ y.resetting = none ∧ y.fenced = true ∧ y.halted = false ∧
        y.sqHead = x.sqTail ∧ y.sqTail = x.sqTail ∧
        .hostWrite x.fn (x.cqBase + 16 * x.cqTail) (cqeBytes x 0 0 x.sqTail stSuccess 0 4 0) ∈ t.out ∧
        onlyChanges completing s t)) ∧
  (∀ (s : State) (q tag n : Nat) (x : Queue) (c : Cmd), s.live = true → queueOf s q = some x → mGet x.cmds tag = some c →
    c.aborted = true → c.finished = false → c.job = none → c.op ≠ 0x41 → x.resetting = some n → x.full = false → x.backlog = [] →
    abortTurn x tag c = true →
    ∃ t, exec (.abortedCompletion q tag) s = .next t ∧ completed t q tag x c stAborted 0 0 0 ∧
      (mDel x.cmds tag ≠ [] → (queueOf t q).map (·.resetting) = some (some (n + 1))) ∧ onlyChanges completing s t)

/-- While the core runs: a Function Level Reset leaves no queue and no decode session of the function, none of its surface handles
allocated, and its mailbox slots idle; queues of other functions stay but for a reset of the PF, which does the same for every VF.
A PCIe reset does so for all functions, clears every Bus Master Enable and the MSI-X tables and pending bits, sets the HQ
registers to their reset values, and takes the link down. With PCIE_EN strapped high and its clock there the link trains to the
rate and width given, if it supports them, and HQ.LINK shows them. -/
def Obligations.FunctionAndLinkResets : Prop :=
  (∀ (s : State) (f : Fin 64) (p : Party), s.live = true → p = partyOf f.val → mRising none s.imp.handles = true →
    mRising none s.hq.queues = true →
    ∃ t, exec (.flr f) s = .next t ∧ (∀ x ∈ t.hq.queues, x.2.owner ≠ p) ∧ (∀ y ∈ t.hev.sessions, y.2.owner ≠ p) ∧
      (∀ h ∈ t.imp.handles, h.2.owner = p → h.2.releasing = true) ∧ (∀ k < 32, mbxState t p k = 0) ∧
      (∀ q x, f ≠ 0 → queueOf s q = some x → x.owner ≠ p → (queueOf t q).map (·.owner) = some x.owner)) ∧
  (∀ (s : State) (cause : PcieCause), s.live = true →
    ∃ t, exec (.pcieReset cause) s = .next t ∧ (∀ x ∈ t.hq.queues, x.2.owner ≠ .pf ∧ ∀ n, x.2.owner ≠ .vf n) ∧
      t.hq.bme = Vector.replicate 64 false ∧ t.msix = [] ∧ t.pba = [] ∧ (∀ j, inPcie j = true → regGet t j = resetOf j) ∧
      t.sys.pcieUp = false) ∧
  (∀ (s : State) (rate width : Nat) (flit l0p : Bool), s.live = true → regBit s 0x18 4 = true → (s.sys.clocks[2]).lost = false →
    1 ≤ rate → rate ≤ 6 → width ∈ [1, 2, 4, 8, 16] →
    ∃ t, exec (.pcieLinkTraining rate width flit l0p) s = .next t ∧ t.sys = { s.sys with perst := true, pcieUp := true } ∧
      regField t 0x181014 3 0 = rate ∧ regField t 0x181014 15 8 = width ∧ regBit t 0x181014 31 = (flit || decide (rate = 6)) ∧
      regBit t 0x181014 30 = ((flit || decide (rate = 6)) && l0p) ∧
      onlyRegs [0x181014] s t ∧ onlyChanges [.regs, .sys] s t) ∧
  (∀ (s : State) (rate width : Nat) (flit l0p : Bool), regBit s 0x18 4 = false ∨ (s.sys.clocks[2]).lost = true →
    ∃ t, exec (.pcieLinkTraining rate width flit l0p) s = .next t ∧ onlyChanges [] s t)

/-- While the core runs, on a queue bound to the magazine, with a volume that is served and no power transition: a read of sectors
that can all be read writes the newest accepted data to the host and completes with their number; one that meets an unreadable
sector transfers what comes before and completes with MEDIA_ERROR; a range beyond the volume is INVALID_FIELD at ARG0. A write
that the galley admits is accepted: it joins the acceptance order with its data and completes with its number of sectors; one that
it does not admit waits with its data; a write that waited is accepted once admitted; on a read-only volume writes and trims
complete with READ_ONLY. A flush with nothing undurable before it completes with COMMIT_SEQ, else it waits. A trim joins the
acceptance order and completes. -/
def Obligations.MagazineCommandsReadAndWrite : Prop :=
  (∀ (s : State) (q tag op : Nat) (x : Queue) (c : Cmd) (v : Vol), inFlight s q tag op x c → x.bindMag = true →
    s.mag.transition = none → s.mag.vol = some v → magServed s = true →
    (∀ buf l, op = 1 → 1 ≤ c.arg1 → c.arg1 ≤ 262144 → c.vsa + c.arg1 ≤ v.sectors → bit (BitVec.ofNat 32 c.flags) 3 = false →
      c.len = 4096 * c.arg1 → badByteOf s q tag = none →
      (readRange s v c.arg1 c.vsa = (l, none) →
        ∃ t, exec (.magRead q tag buf) s = .next t ∧ completed t q tag x c stSuccess 0 (BitVec.ofNat 32 l.length) 0 ∧
          (l.flatten ≠ [] → .hostWrite x.fn c.addr (l.flatten.take c.len) ∈ t.out) ∧ onlyChanges completing s t) ∧
      (readRange s v c.arg1 c.vsa = (l, some .media) →
        ∃ t, exec (.magRead q tag buf) s = .next t ∧ completed t q tag x c stMediaError 0 (BitVec.ofNat 32 l.length) 0 ∧
          onlyChanges completing s t)) ∧
    (∀ buf, op = 1 → 1 ≤ c.arg1 → c.arg1 ≤ 262144 → v.sectors < c.vsa + c.arg1 →
      ∃ t, exec (.magRead q tag buf) s = .next t ∧ completed t q tag x c stInvalidField 0 0x18 0 ∧ onlyChanges completing s t) ∧
    (∀ buf d, op = 2 → 1 ≤ c.arg1 → c.arg1 ≤ 262128 → s.mag.st ≠ .readOnly → c.vsa + c.arg1 ≤ v.sectors →
      bit (BitVec.ofNat 32 c.flags) 3 = false → c.len = 4096 * c.arg1 → buf.data = some d → extentsWith s c.vsa c.arg1 ≤ 67108864 →
      (admits s c.arg1 = true →
        ∃ t o, exec (.magWrite q tag buf) s = .next t ∧ completed t q tag x c stSuccess 0 (BitVec.ofNat 32 c.arg1) 0 ∧
          t.mag.ops = s.mag.ops ++ [o] ∧ o.vsa = c.vsa ∧ o.n = c.arg1 ∧ o.data = padTo c.len d ∧ o.durable = false ∧
          o.no = s.mag.nextOp ∧ onlyChanges (.mag :: .gal :: .hq :: .fetchBad :: reporting) s t) ∧
      (admits s c.arg1 = false →
        ∃ t, exec (.magWrite q tag buf) s = .next t ∧ cmdOf t q tag = some { c with waiting := true, data := padTo c.len d } ∧
          onlyChanges [.hq] s t)) ∧
    (∀ buf, op = 2 → 1 ≤ c.arg1 → c.arg1 ≤ 262128 → s.mag.st = .readOnly →
      ∃ t, exec (.magWrite q tag buf) s = .next t ∧ completed t q tag x c stReadOnly 0 0 0 ∧ onlyChanges completing s t) ∧
    (op = 3 → findCmds s (fun _ d => decide (d.op = 3) && d.waiting) = [] →
      (s.mag.ops.all (fun o => o.durable || decide (c.mark ≤ o.no)) = true → v.defs = [] →
        ∃ t, exec (.magFlush q tag) s = .next t ∧ completed t q tag x c stSuccess 0 (BitVec.ofNat 32 v.durableSeq) 0 ∧
          onlyChanges completing s t) ∧
      (s.mag.ops.all (fun o => o.durable || decide (c.mark ≤ o.no)) = false →
        ∃ t, exec (.magFlush q tag) s = .next t ∧ cmdOf t q tag = some { c with waiting := true } ∧ onlyChanges [.hq] s t)) ∧
    (op = 4 → c.vsa + c.arg1 ≤ v.sectors → s.mag.st ≠ .readOnly →
      ∃ t o, exec (.magTrim q tag) s = .next t ∧ completed t q tag x c stSuccess 0 (BitVec.ofNat 32 c.arg1) 0 ∧
        t.mag.ops = s.mag.ops ++ [o] ∧ o.isTrim = true ∧ o.vsa = c.vsa ∧ o.n = c.arg1 ∧ onlyChanges (.mag :: completing) s t) ∧
    (op = 4 → s.mag.st = .readOnly →
      ∃ t, exec (.magTrim q tag) s = .next t ∧ completed t q tag x c stReadOnly 0 0 0 ∧ onlyChanges completing s t)) ∧
  (∀ (s : State) (q tag : Nat) (x : Queue) (c : Cmd), s.live = true → queueOf s q = some x → mGet x.cmds tag = some c → c.op = 2 →
    c.waiting = true → c.finished = false → c.aborted = false → x.full = false → x.backlog = [] → s.mag.st ≠ .readOnly →
    c.arg1 ≤ 262128 → extentsWith s c.vsa c.arg1 ≤ 67108864 → admits s c.arg1 = true →
    ∃ t o, exec (.writeAccepted q tag) s = .next t ∧ completed t q tag x c stSuccess 0 (BitVec.ofNat 32 c.arg1) 0 ∧
      t.mag.ops = s.mag.ops ++ [o] ∧ o.data = c.data ∧ o.vsa = c.vsa ∧ o.n = c.arg1 ∧
      onlyChanges (.mag :: .gal :: .hq :: .fetchBad :: reporting) s t)

/-- While the core runs: a job whose descriptor passes the checks of R364 waits and holds every handle it names; one that fails
completes with INVALID_FIELD and the place and offset that the check names. Fjarera admits a job that waits, while control service
runs. The next frame of an admitted job starts on a free course of the host path: its record is that of a host-job frame with its
ordinal, and its pictures are bound; a failed read of its input ends the job with DATA_CORRUPT and the number of frames done. A
frame that is done frees the course and adds its record; after the last one, with every picture written and emitted and no forme
waiting to apply, the results are written and the job completes; the frame of an aborted job only frees its course. -/
def Obligations.HostJobsRun : Prop :=
  (∀ (s : State) (q tag : Nat) (x : Queue) (c : Cmd) (buf : HostBuf) (d : List Byte) (j : Job), inFlight s q tag 0x10 x c →
    bit (BitVec.ofNat 32 c.flags) 3 = false → buf.data = some d → j = Job.new (padTo c.len d) →
    ∃ t, exec (.jobSubmit q tag buf) s = .next t ∧
      (j.check s x.owner c.len = none →
        cmdOf t q tag = some { c with job := some j, waiting := true, holds := c.holds ++ j.named.map (·.2) } ∧
        onlyChanges [.hq] s t) ∧
      (∀ b, j.check s x.owner c.len = some b →
        completed t q tag x c stInvalidField b.detail (packFields [(30, b.place), (0, b.off)]) 0 ∧ onlyChanges completing s t)) ∧
  (∀ (s : State) (q tag : Nat) (x : Queue) (c : Cmd) (j : Job), s.live = true → queueOf s q = some x → mGet x.cmds tag = some c →
    c.op = 0x10 → c.waiting = true → c.finished = false → c.aborted = false → c.job = some j →
    (s.sys.ready = true → interrupted s = false →
      ∃ t, exec (.jobAdmit q tag) s = .next t ∧ cmdOf t q tag = some { c with job := some { j with admitted := true } } ∧
        onlyChanges [.hq] s t) ∧
    (∀ (k : Fin 4), mayStart s j c.order k.val = true →
      (∀ raw info, (∃ m, info = some m) ∨ j.fr j.started 0x18 8 = 0 →
        ∃ t y fr, exec (.hostJobFrameStart q tag k (some raw) info) s = .next t ∧ (cmdOf t q tag).bind (·.job) = some y ∧
          y.started = j.started + 1 ∧ y.left = j.left ∧ y.course = some k.val ∧ y.cur = some fr ∧ fr.hostJob = true ∧
          fr.ord = BitVec.ofNat 32 j.started ∧ fr.courses = 2 ^ k.val ∧
          y.raw = padTo (j.height * j.lineBytes) raw ∧ y.pics = j.pics ++ j.streams.map (fun x => (j.started, x.1, x.2.1)) ∧
          onlyChanges (.hq :: .hev :: .free :: .frm :: reporting) s t) ∧
      (∀ info, x.full = false → x.backlog = [] →
        ∃ t, exec (.hostJobFrameStart q tag k none info) s = .next t ∧
          completed t q tag x c stDataCorrupt 0 (BitVec.ofNat 32 j.left) 0))) ∧
  (∀ (s : State) (q tag k : Nat) (x : Queue) (c : Cmd) (j : Job) (fr : FrameRec) (fl : StageFault), s.live = true → queueOf s q = some x →
    mGet x.cmds tag = some c → c.job = some j → j.course = some k → j.cur = some fr →
    (c.aborted = false → j.left + 1 < j.frames →
      ∃ t y, exec (.hostJobFrameDone q tag fl) s = .next t ∧ (cmdOf t q tag).bind (·.job) = some y ∧ y.left = j.left + 1 ∧
        y.course = none ∧ y.cur = none ∧ y.recs.map (·.ord) = j.recs.map (·.ord) ++ [fr.ord]) ∧
    (c.aborted = false → c.finished = false → j.left + 1 = j.frames → j.pics = [] → x.full = false → x.backlog = [] →
        s.frm.heldFor = none → s.frm.lockedList = [] → (∀ (e : Fin 4) (k : Fin 16), (s.hev.streams[e][k]).coded = []) →
      ∃ t st, exec (.hostJobFrameDone q tag fl) s = .next t ∧ completed t q tag x c st 0 (BitVec.ofNat 32 j.frames) 0 ∧
        (st = stSuccess ∨ st = stDataCorrupt ∨ st = stBudget) ∧ (j.corrupt = true → st = stDataCorrupt) ∧
        (∃ r, .hostWrite x.fn (j.at 0x20 8 + 256 * j.recs.length) (recBytes r) ∈ t.out)) ∧
    (c.aborted = true →
      ∃ t y, exec (.hostJobFrameDone q tag fl) s = .next t ∧ (cmdOf t q tag).bind (·.job) = some y ∧ y.course = none ∧
        y.left = j.left))

/-- While the core runs: a stream pull with units ready, none older waiting, copies the units that fit in order, releases them and
completes with their number and bytes; a first unit too large for the buffer is INVALID_FIELD with its size; with none ready it
completes empty, or waits if asked to. A statistics pull of a record held copies it and marks it pulled; of one gone it is
INVALID_FIELD with the oldest number held; of one to come NOT_READY unless it is to wait. An allocation gives the function the
lowest free handle, in whole pages, or RESOURCE_EXHAUSTED; a free releases the handle, at once if nothing references it, else
later with status SUCCESS_DEFERRED; a read returns the bytes of a handle held since the fetch, a write puts bytes into an
unreferenced one. -/
def Obligations.PullsAndSurfaceCommands : Prop :=
  (∀ (s : State) (q tag : Nat) (x : Queue) (c : Cmd) (buf : HostBuf) (e : Fin 4) (k : Fin 16), inFlight s q tag 0x20 x c →
    bit (BitVec.ofNat 32 c.flags) 3 = false → e.val = c.arg0 % 4 → k.val = c.arg0 / 4 % 16 →
    (∀ u r l, (s.hev.streams[e][k]).ring = u :: r → oldestPull s e.val k.val = none → u.bytes.length ≤ c.len →
      l = unitsThatFit 255 (u :: r) c.len →
      ∃ t, exec (.streamPull q tag buf) s = .next t ∧
        completed t q tag x c stSuccess l.length (BitVec.ofNat 32 (l.map (·.bytes)).flatten.length) 0 ∧
        ((s.hev.streams[e][k]).discont = false → (l.map (·.bytes)).flatten ≠ [] →
          .hostWrite x.fn c.addr ((l.map (·.bytes)).flatten.take c.len) ∈ t.out) ∧
        (t.hev.streams[e][k]).ring = (u :: r).drop l.length ∧ 1 ≤ l.length ∧ onlyChanges (.hev :: completing) s t) ∧
    (∀ u r, (s.hev.streams[e][k]).ring = u :: r → oldestPull s e.val k.val = none → c.len < u.bytes.length →
      ∃ t, exec (.streamPull q tag buf) s = .next t ∧ completed t q tag x c stInvalidField 0 (BitVec.ofNat 32 u.bytes.length) 32 ∧
        onlyChanges completing s t) ∧
    ((s.hev.streams[e][k]).ring = [] → c.wait = false →
      ∃ t, exec (.streamPull q tag buf) s = .next t ∧ completed t q tag x c stSuccess 0 0 0 ∧ onlyChanges completing s t) ∧
    ((s.hev.streams[e][k]).ring = [] → c.wait = true → s.mbx.drain = none →
      ∃ t, exec (.streamPull q tag buf) s = .next t ∧ cmdOf t q tag = some { c with waiting := true, segs := [(c.addr, c.len)] } ∧
        onlyChanges [.hq] s t)) ∧
  (∀ (s : State) (q tag : Nat) (x : Queue) (c : Cmd) (buf : HostBuf) (n : Fin 8) (seq : Nat), inFlight s q tag 0x21 x c →
    bit (BitVec.ofNat 32 c.flags) 3 = false → n.val = c.arg0 % 8 → 30976 ≤ c.len → seq = c.arg1 % 2 ^ 32 →
    (∀ y, statAt s.rfe[n] seq = .held y → badByteOf s q tag = none →
      ∃ t, exec (.statsPull q tag buf) s = .next t ∧ completed t q tag x c stSuccess 0 (BitVec.ofNat 32 y.seq) 0 ∧
        (y.bytes ≠ [] → .hostWrite x.fn c.addr (y.bytes.take c.len) ∈ t.out) ∧
        (∀ z ∈ (t.rfe[n]).ring, z.seq = y.seq → z.pulled = true) ∧ onlyChanges (.rfe :: completing) s t) ∧
    (statAt s.rfe[n] seq = .gone →
      ∃ t, exec (.statsPull q tag buf) s = .next t ∧
        completed t q tag x c stInvalidField 0 (BitVec.ofNat 32 (oldestStat s.rfe[n])) 32 ∧ onlyChanges completing s t) ∧
    (statAt s.rfe[n] seq = .ahead → c.wait = false →
      ∃ t, exec (.statsPull q tag buf) s = .next t ∧ completed t q tag x c stNotReady 0 0 0 ∧ onlyChanges completing s t)) ∧
  (∀ (s : State) (q tag : Nat) (x : Queue) (c : Cmd), inFlight s q tag 0x30 x c → 4096 ≤ c.arg0 → c.arg0 ≤ 1073741824 →
    (∀ h u, allocHandle s x.owner c.arg0 = some (h, u) →
      ∃ t b, exec (.surfAlloc q tag) s = .next t ∧ completed t q tag x c stSuccess 0 (BitVec.ofNat 32 h) 0 ∧
        handleOf t h = some b ∧ b.owner = x.owner ∧ b.size = pageUp c.arg0 ∧ b.releasing = false ∧ handleOf s h = none ∧
        onlyChanges (.imp :: .free :: completing) s t) ∧
    (allocHandle s x.owner c.arg0 = none →
      ∃ t, exec (.surfAlloc q tag) s = .next t ∧ completed t q tag x c stExhausted 0 0 0 ∧ onlyChanges completing s t)) ∧
  (∀ (s : State) (q tag h : Nat) (x : Queue) (c : Cmd), inFlight s q tag 0x31 x c → h = c.arg0 % 65536 →
    (allocatedTo s x.owner h = true →
      ∃ t, exec (.surfFree q tag) s = .next t ∧
        completed t q tag x c (if referenced s h = true then stDeferred else stSuccess) 0 0 0 ∧ isAllocated t h = false ∧
        onlyChanges (.imp :: completing) s t) ∧
    (allocatedTo s x.owner h = false →
      ∃ t, exec (.surfFree q tag) s = .next t ∧ completed t q tag x c stInvalidField 0 0x18 0 ∧ onlyChanges completing s t)) ∧
  (∀ (s : State) (q tag h : Nat) (x : Queue) (c : Cmd) (buf : HostBuf), inFlight s q tag 0x32 x c → h = c.arg0 % 65536 →
    c.holds.contains h = true → bit (BitVec.ofNat 32 c.flags) 3 = false → spaceOf s h c.arg1 c.len = true → badByteOf s q tag = none →
    ∃ t, exec (.surfRead q tag buf) s = .next t ∧ completed t q tag x c stSuccess 0 (BitVec.ofNat 32 c.len) 0 ∧
      (c.len ≠ 0 → .hostWrite x.fn c.addr ((bufferBytes s h c.arg1 c.len).take c.len) ∈ t.out) ∧ onlyChanges completing s t) ∧
  (∀ (s : State) (q tag h : Nat) (x : Queue) (c : Cmd) (buf : HostBuf) (l : List Byte), inFlight s q tag 0x33 x c →
    h = c.arg0 % 65536 → allocatedTo s x.owner h = true → bit (BitVec.ofNat 32 c.flags) 3 = false → spaceOf s h c.arg1 c.len = true →
    buf.data = some l →
    (referenced s h = false →
      ∃ t, exec (.surfWrite q tag buf) s = .next t ∧ completed t q tag x c stSuccess 0 (BitVec.ofNat 32 c.len) 0 ∧
        bufferBytes t h c.arg1 c.len = padTo c.len l ∧ onlyChanges (.imp :: completing) s t) ∧
    (referenced s h = true →
      ∃ t, exec (.surfWrite q tag buf) s = .next t ∧ completed t q tag x c stInService 0 0 0 ∧ onlyChanges completing s t))

/-- While the core runs: DEC_OPEN of a session that is not open, with parameters for a picture that the decoder can hold, opens it
for the function; of an open one it completes with NOT_READY, and with parameters it cannot take INVALID_FIELD at the data
address. DEC_PICTURE of a session of the function, into an unreferenced handle of it that is large enough, waits with its access
unit behind the session's earlier pictures and holds the handle. DEC_CLOSE completes with the pictures decoded when no earlier
picture is outstanding, and the session is gone; else it waits. The oldest picture of a session, decoded with all its references
there and no error, is counted, its planes stand in the handle from byte 4,096, and it completes with its POC; with a reference
missing it is concealed, counted and raised; a RASL picture of the CRA that began the session completes without being decoded. -/
def Obligations.DecoderSessionsAndPictures : Prop :=
  (∀ (s : State) (q tag i : Nat) (x : Queue) (c : Cmd) (buf : HostBuf) (d : List Byte) (pic : Option (Nat × Nat × Nat)),
    inFlight s q tag 0x40 x c → interrupted s = false → i = c.arg0 % 16 → bit (BitVec.ofNat 32 c.flags) 3 = false → buf.data = some d →
    (∀ fmt w h, mGet s.hev.sessions i = none → pic = some (fmt, w, h) →
      ∃ t y, exec (.decOpen q tag buf pic) s = .next t ∧ completed t q tag x c stSuccess 0 0 0 ∧ sessionOf t x.owner i = some y ∧
        y.params = padTo c.len d ∧ y.pictures = 0 ∧ y.dpb = [] ∧ y.todo = [] ∧ y.size = bufSize fmt w h ∧
        onlyChanges (.hev :: completing) s t) ∧
    (mGet s.hev.sessions i = none → pic = none →
      ∃ t, exec (.decOpen q tag buf pic) s = .next t ∧ completed t q tag x c stInvalidField 0 8 0 ∧ onlyChanges completing s t) ∧
    ((mGet s.hev.sessions i).isSome = true →
      ∃ t, exec (.decOpen q tag buf pic) s = .next t ∧ completed t q tag x c stNotReady 0 0 0 ∧ onlyChanges completing s t)) ∧
  (∀ (s : State) (q tag i h : Nat) (x : Queue) (c : Cmd) (buf : HostBuf) (d : List Byte) (y : Session) (b : Handle),
    inFlight s q tag 0x41 x c → i = c.arg0 % 16 → h = c.arg1 % 65536 → sessionOf s x.owner i = some y →
    findCmds s (fun _ d => decide (d.op = 0x42) && decide (d.arg0 % 16 = i) && d.waiting) = [] →
    allocatedTo s x.owner h = true → handleOf s h = some b → y.size ≤ b.size → bit (BitVec.ofNat 32 c.flags) 3 = false →
    buf.data = some d →
    (referenced s h = false →
      ∃ t, exec (.decPicture q tag buf) s = .next t ∧
        cmdOf t q tag = some { c with waiting := true, data := padTo c.len d, holds := c.holds ++ [h] } ∧
        sessionOf t x.owner i = some { y with todo := y.todo ++ [(q, tag)] } ∧ onlyChanges [.hq, .hev] s t) ∧
    (referenced s h = true →
      ∃ t, exec (.decPicture q tag buf) s = .next t ∧ completed t q tag x c stInvalidField 0 0x20 0 ∧ onlyChanges completing s t)) ∧
  (∀ (s : State) (q tag i : Nat) (x : Queue) (c : Cmd) (y : Session), inFlight s q tag 0x42 x c → i = c.arg0 % 16 →
    sessionOf s x.owner i = some y → findCmds s (fun _ d => decide (d.op = 0x42) && decide (d.arg0 % 16 = i) && d.waiting) = [] →
    (picturesBefore s i c.order = false →
      ∃ t, exec (.decClose q tag) s = .next t ∧ completed t q tag x c stSuccess 0 (BitVec.ofNat 32 y.pictures) 0 ∧
        mGet t.hev.sessions i = none ∧ onlyChanges (.hev :: completing) s t) ∧
    (picturesBefore s i c.order = true →
      ∃ t, exec (.decClose q tag) s = .next t ∧ cmdOf t q tag = some { c with waiting := true } ∧ t.hev = s.hev ∧
        onlyChanges [.hq] s t)) ∧
  (∀ (s : State) (i : Fin 16) (d : Decoded) (y : Session) (q tag h : Nat) (r : List (Nat × Nat)) (x : Queue) (c : Cmd)
      (missing : List Int), s.live = true → mGet s.hev.sessions i.val = some y → y.todo = (q, tag) :: r → queueOf s q = some x →
    mGet x.cmds tag = some c → c.aborted = false → c.finished = false → x.full = false → x.backlog = [] → h = c.arg1 % 65536 →
    isAllocated s h = true → d.corrupt = false →
    findCmds s (fun _ d => decide (d.op = 0x42) && decide (d.arg0 % 16 = i.val) && d.waiting) = [] →
    missing = (if 16 ≤ sliceNal (annexB c.data 0 [] false) ∧ sliceNal (annexB c.data 0 [] false) ≤ 23 then [] else d.used.eraseDups).filter
      (fun p => !y.dpb.any fun z => decide (z.poc = p)) →
    ((sliceNal (annexB c.data 0 [] false) ≠ 8 ∧ sliceNal (annexB c.data 0 [] false) ≠ 9 ∨ y.fresh = false) →
      (missing = [] → y.dpb.all (fun z => !z.concealed) = true →
        ∃ t, exec (.pictureDecoded i d false) s = .next t ∧
          completed t q tag x c stSuccess 0 (BitVec.ofInt 32 d.poc) (if d.notOutput then 16 else 0) ∧
          regGet t 0x111004 = satInc (regGet s 0x111004) ∧ bufferBytes t h 4096 d.planes.length = d.planes ∧
          (mGet t.hev.sessions i.val).map (fun z => (z.pictures, z.todo)) = some (y.pictures + 1, r) ∧
          onlyRegs [0x111004, 0x111008] s t ∧ onlyChanges (.hev :: .imp :: .regs :: completing) s t) ∧
      (missing ≠ [] →
        ∃ t, exec (.pictureDecoded i d false) s = .next t ∧
          completed t q tag x c stConcealed 0 (BitVec.ofInt 32 d.poc) (if d.notOutput then 16 else 0) ∧
          regGet t 0x111008 = satAdd (regGet s 0x111008) missing.length ∧ regGet t 0x11100C = satInc (regGet s 0x11100C) ∧
          regGet t 0x111004 = satInc (regGet s 0x111004) ∧ raised t .hev 6)) ∧
    (sliceNal (annexB c.data 0 [] false) = 8 → 0 < y.pictures → y.fresh = true →
      ∃ t, exec (.pictureDecoded i d false) s = .next t ∧ completed t q tag x c stSuccess 0 (BitVec.ofInt 32 d.poc) 16 ∧
        (mGet t.hev.sessions i.val).map (fun z => (z.pictures, z.todo)) = some (y.pictures, r) ∧
        onlyChanges (.hev :: completing) s t))

/-- While the core runs: GO in an idle slot, or with ACK in a done one, posts its request and counts it, and one whose opcode is
absent or not permitted is answered INVALID_OPCODE once service runs; ACK of a done slot makes it idle; either in another state is
ignored and counted at the slot. For a request whose turn has come: one with a byte that its command leaves undefined and is not
zero, or a field outside its range, is answered INVALID_FIELD with the first such byte; IDENTIFY answers the device's identity,
versions, serial number and memory; VF_QUOTA writes the quotas of one VF, or NOT_READY below its use; QUEUE_CREATE makes the queue
of its parameter block under the lowest free identifier, with the lowest run of free tags, or RESOURCE_EXHAUSTED; QUEUE_DELETE
removes an own queue with nothing in flight, or NOT_READY; HANDLE_ALLOC allocates the lowest free handle in whole pages, or
RESOURCE_EXHAUSTED; HANDLE_FREE frees an own handle, at once or deferred while it is referenced, or answers its field;
HANDLE_QUERY answers an own handle's state and size, zeros for a free one, and refuses another party's. -/
def Obligations.MailboxSlotsQueuesAndHandles : Prop :=
  (∀ (s : State) (p : Party) (k : Fin 32) (v : Word), s.live = true → k.val < mbxSlots p → bit v 31 = true →
    ((mbxState s p k.val = 0 ∨ (mbxState s p k.val = 3 ∧ bit v 30 = true)) →
      (∀ e ∈ s.mbx.posted ++ [(p, k.val)],
        (mbxCmdOf (leAt (mbxReq s e.1 e.2) 0 2)).any (fun c => c.permits e.1) = true) →
      ∃ t, exec (.go p k v) s = .next t ∧ mbxState t p k.val = 1 ∧
        regField t (mbxBase p k.val + 4) 15 0 = (regField s (mbxBase p k.val + 4) 15 0 + 1) % 65536 ∧
        t.mbx.posted = s.mbx.posted ++ [(p, k.val)] ∧
        onlyRegs [mbxBase p k.val + 4, mbxBase p k.val + 8] s t ∧ onlyChanges [.regs, .mbx] s t) ∧
    (mbxState s p k.val = 1 ∨ mbxState s p k.val = 2 ∨ (mbxState s p k.val = 3 ∧ bit v 30 = false) →
      ∃ t, exec (.go p k v) s = .next t ∧ mbxState t p k.val = mbxState s p k.val ∧
        regGet t (mbxBase p k.val + 8) = satInc (regGet s (mbxBase p k.val + 8)) &&& maskOf (mbxBase p k.val + 8) ∧
        onlyRegs [mbxBase p k.val + 8] s t ∧ onlyChanges [.regs] s t) ∧
    (mbxState s p k.val = 0 → s.mbx.posted = [] → serviceOn s = true → runCount s < 16 →
      (mbxCmdOf (leAt (mbxReq s p k.val) 0 2)).any (fun c => c.permits p) = false →
      ∃ t, exec (.go p k v) s = .next t ∧ answered t p k.val stInvalidOpcode 0 0 ∧ t.mbx.posted = [] ∧ onlySlot p k.val s t ∧
        onlyChanges answering s t)) ∧
  (∀ (s : State) (p : Party) (k : Fin 32) (req : List Byte) (op off : Nat) (c : Instr), s.live = true → reaches s p k.val op req →
    firstBad p op req = some off → (op, c) ∈ plainRequests p k →
    ∃ t, exec c s = .next t ∧ answered t p k.val stInvalidField 0 off ∧ onlySlot p k.val s t ∧ onlyChanges answering s t) ∧
  (∀ (s : State) (p : Party) (k : Fin 32) (v : Word), s.live = true → k.val < mbxSlots p → bit v 30 = true → bit v 31 = false →
    (mbxState s p k.val = 3 →
      ∃ t, exec (.ack p k v) s = .next t ∧ mbxState t p k.val = 0 ∧
        onlyRegs [mbxBase p k.val + 4] s t ∧ onlyChanges [.regs] s t) ∧
    (mbxState s p k.val ≠ 3 →
      ∃ t, exec (.ack p k v) s = .next t ∧ mbxState t p k.val = mbxState s p k.val ∧
        regGet t (mbxBase p k.val + 8) = satInc (regGet s (mbxBase p k.val + 8)) &&& maskOf (mbxBase p k.val + 8) ∧
        onlyRegs [mbxBase p k.val + 8] s t ∧ onlyChanges [.regs] s t)) ∧
  (∀ (s : State) (p : Party) (k : Fin 32) (req : List Byte), s.live = true → asks s p k.val 0x0001 req →
    ∃ t, exec (.identify p k) s = .next t ∧ answered t p k.val 0 (regGet s 0).toNat (versionOf s 2) ∧
      bytesOf (regWords t (mbxBase p k.val + 0x210) 4) = (List.range 8).map Config.deviceSerial ++
        leBytes 4 (regField s 0x170000 15 0) ++ leBytes 4 (versionOf s 1) ∧
      onlySlot p k.val s t ∧ onlyChanges answering s t) ∧
  (∀ (s : State) (p : Party) (k : Fin 32) (req : List Byte) (n : Fin 63) (q : Quota), s.live = true → asks s p k.val 0x0002 req →
    leAt req 0x10 2 = n.val + 1 → q = { queues := leAt req 0x12 2, tags := leAt req 0x14 4, handles := leAt req 0x18 4 } →
    (queuesOf s (.vf n) ≤ q.queues → tagsOf s (.vf n) ≤ q.tags → handlesOf s (.vf n) ≤ q.handles →
      ((s.hq.quotas.set n q).toList.map (·.queues)).sum ≤ 4096 → ((s.hq.quotas.set n q).toList.map (·.tags)).sum ≤ 262144 →
      ((s.hq.quotas.set n q).toList.map (·.handles)).sum ≤ 65535 →
      ∃ t, exec (.vfQuota p k) s = .next t ∧ answered t p k.val 0 0 0 ∧ t.hq = { s.hq with quotas := s.hq.quotas.set n q } ∧
        onlySlot p k.val s t ∧ onlyChanges (.hq :: .flt :: answering) s t) ∧
    (q.queues < queuesOf s (.vf n) ∨ q.tags < tagsOf s (.vf n) ∨ q.handles < handlesOf s (.vf n) →
      ∃ t, exec (.vfQuota p k) s = .next t ∧ answered t p k.val stNotReady 0 0 ∧ onlySlot p k.val s t ∧ onlyChanges answering s t)) ∧
  (∀ (s : State) (p : Party) (k : Fin 32) (req : List Byte), s.live = true → asks s p k.val 0x0003 req →
    (∀ q base, mFreeFrom s.hq.queues 4096 0 = some q → lowestTagRun s (leAt req 0x28 4) = some base →
      quotaRoom s p (leAt req 0x28 4) = true →
      ∃ t, exec (.queueCreate p k) s = .next t ∧ answered t p k.val 0 q base ∧ queueOf s q = none ∧
        queueOf t q = some (newQueue p req base) ∧ t.hq = { s.hq with queues := mPut s.hq.queues q (newQueue p req base) } ∧
        onlySlot p k.val s t ∧ onlyChanges (.hq :: .flt :: answering) s t) ∧
    (quotaRoom s p (leAt req 0x28 4) = false →
      ∃ t, exec (.queueCreate p k) s = .next t ∧ answered t p k.val stExhausted 0 0 ∧ onlySlot p k.val s t ∧
        onlyChanges answering s t)) ∧
  (∀ (s : State) (p : Party) (k : Fin 32) (req : List Byte) (q : Nat) (x : Queue), s.live = true → asks s p k.val 0x0004 req →
    q = leAt req 0x10 2 → queueOf s q = some x → x.owner = p →
    (x.cmds = [] → x.resetting = none → s.hq.resetAsked.contains q = false →
      ∃ t, exec (.queueDelete p k) s = .next t ∧ answered t p k.val 0 0 0 ∧ queueOf t q = none ∧
        t.hq = { s.hq with queues := mDel s.hq.queues q } ∧ onlySlot p k.val s t ∧ onlyChanges (.hq :: .flt :: answering) s t) ∧
    (x.cmds ≠ [] →
      ∃ t, exec (.queueDelete p k) s = .next t ∧ answered t p k.val stNotReady 0 0 ∧ onlySlot p k.val s t ∧
        onlyChanges answering s t)) ∧
  (∀ (s : State) (p : Party) (k : Fin 32) (req : List Byte) (n : Nat), s.live = true → asks s p k.val 0x0401 req →
    n = leAt req 0x10 4 →
    (∀ h u, allocHandle s p n = some (h, u) →
      ∃ t b, exec (.handleAlloc p k) s = .next t ∧ answered t p k.val 0 h 0 ∧ handleOf s h = none ∧ handleOf t h = some b ∧
        b.owner = p ∧ b.size = pageUp n ∧ b.releasing = false ∧ onlySlot p k.val s t ∧
        onlyChanges (.imp :: .free :: .flt :: answering) s t) ∧
    (allocHandle s p n = none →
      ∃ t, exec (.handleAlloc p k) s = .next t ∧ answered t p k.val stExhausted 0 0 ∧ onlySlot p k.val s t ∧
        onlyChanges answering s t)) ∧
  (∀ (s : State) (p : Party) (k : Fin 32) (req : List Byte) (h : Nat), s.live = true → asks s p k.val 0x0402 req →
    h = leAt req 0x10 2 → mRising none s.imp.handles = true →
    (allocatedTo s p h = true →
      ∃ t, exec (.handleFree p k) s = .next t ∧ answered t p k.val (if referenced s h = true then stDeferred else stSuccess) 0 0 ∧
        isAllocated t h = false ∧ onlySlot p k.val s t ∧ onlyChanges (.imp :: .flt :: answering) s t) ∧
    (allocatedTo s p h = false →
      ∃ t, exec (.handleFree p k) s = .next t ∧ answered t p k.val stInvalidField 0 0x10 ∧ onlySlot p k.val s t ∧
        onlyChanges answering s t)) ∧
  (∀ (s : State) (p : Party) (k : Fin 32) (req : List Byte) (h : Nat), s.live = true → asks s p k.val 0x0403 req →
    h = leAt req 0x10 2 →
    (handleOf s h = none →
      ∃ t, exec (.handleQuery p k) s = .next t ∧ answered t p k.val 0 0 0 ∧ onlySlot p k.val s t ∧ onlyChanges answering s t) ∧
    (∀ b, handleOf s h = some b → b.owner = p → b.size < 4294967296 →
      ∃ t, exec (.handleQuery p k) s = .next t ∧ answered t p k.val 0 (handleWord s h).toNat b.size ∧ onlySlot p k.val s t ∧
        onlyChanges answering s t) ∧
    (∀ b, handleOf s h = some b → b.owner ≠ p →
      ∃ t, exec (.handleQuery p k) s = .next t ∧ answered t p k.val stInvalidField 0 0x10 ∧ onlySlot p k.val s t ∧
        onlyChanges answering s t))

/-- While the core runs, for a request whose turn has come: PTP_CONFIG keeps its settings; PTP_SET_TIME sets the clock and raises
PTP_STEP, or IN_SERVICE while the servo is on; PTP_STATUS gives the last offset; SENSOR_CAP gives the capability record in force,
or NOT_READY; SENSOR_REG sends its entries to the sensor in one REG_ACCESS and waits, refused with IN_SERVICE for a write to an
unmasked slot without leave, NOT_READY with no link up; BLACK_CAL of an unmasked slot outside a take starts to collect; LANE_TEST
sets the lane's test mode and waits, and as its duration passes the lane is in mode 0 and the counts are answered; MEM_TEST
answers what failed, its granules no longer poisoned where nothing was allocated, and refuses allocated memory without leave. -/
def Obligations.PtpSensorLaneAndMemoryCommands : Prop :=
  (∀ (s : State) (p : Party) (k : Fin 32) (req : List Byte), s.live = true → asks s p k.val 0x0201 req →
    ∃ t, exec (.ptpConfig p k) s = .next t ∧ answered t p k.val 0 0 0 ∧ t.net = { s.net with config := wordsOf 4 (req.drop 0x10) } ∧
      onlySlot p k.val s t ∧ onlyChanges (.net :: .flt :: answering) s t) ∧
  (∀ (s : State) (p : Party) (k : Fin 32) (req : List Byte), s.live = true → asks s p k.val 0x0202 req →
    (regBit s 0x150010 31 = false →
      ∃ t, exec (.ptpSetTime p k) s = .next t ∧ answered t p k.val 0 0 0 ∧
        t.ptpNow = (leAt req 0x10 6 * 1000000000 + leAt req 0x18 4) * 65536 ∧ t.net = { s.net with sub := 0, stepped := t.net.stepped } ∧ raised t .ptp 3 ∧
        (∀ n : Fin 8, (s.ref.slots[n]).ptpAxis = false → t.ref.slots[n] = s.ref.slots[n]) ∧
        onlySlotAnd [0x150400] p k.val s t ∧ onlyChanges (.ptpNow :: .aud :: .ref :: .net :: .mbx :: reporting) s t) ∧
    (regBit s 0x150010 31 = true →
      ∃ t, exec (.ptpSetTime p k) s = .next t ∧ answered t p k.val stInService 0 0 ∧ onlySlot p k.val s t ∧
        onlyChanges answering s t)) ∧
  (∀ (s : State) (p : Party) (k : Fin 32) (req : List Byte), s.live = true → asks s p k.val 0x0203 req →
    ∃ t, exec (.ptpStatus p k) s = .next t ∧ answered t p k.val 0 0 0 ∧
      regWords t (mbxBase p k.val + 0x228) 2 = [regGet s 0x150030, regGet s 0x150034] ∧ onlySlot p k.val s t ∧
      onlyChanges (.free :: answering) s t) ∧
  (∀ (s : State) (p : Party) (k : Fin 32) (req : List Byte) (n : Fin 8), s.live = true → asks s p k.val 0x0301 req →
    (byteAt req 0x10).toNat = n.val →
    (2 ≤ regField s (capStateReg n.val) 31 30 →
      ∃ t, exec (.sensorCap p k) s = .next t ∧ answered t p k.val 0 0 0 ∧
        regWords t (mbxBase p k.val + 0x210) 16 = regWords s (capReg n.val 0) 16 ∧ onlySlot p k.val s t ∧ onlyChanges answering s t) ∧
    (regField s (capStateReg n.val) 31 30 < 2 →
      ∃ t, exec (.sensorCap p k) s = .next t ∧ answered t p k.val stNotReady 0 0 ∧ onlySlot p k.val s t ∧ onlyChanges answering s t)) ∧
  (∀ (s : State) (p : Party) (k : Fin 32) (buf ans : HostBuf) (req d : List Byte) (n : Fin 8) (e stream : Nat) (l : Fin 4)
      (segs back : List (Nat × Nat)), s.live = true → asks s p k.val 0x0302 req → (byteAt req 0x10).toNat = n.val →
    e = leAt req 0x14 4 → slotLink s n.val = some (l, stream) →
    (slotLinkUp s n.val = true → busMaster s p = true → partySegs s p (descAt req 0x20) buf = some (segs, true) →
      12 * e ≤ segTotal segs → segTotal segs ≤ 1073741824 → partyData s p segs buf = some d →
      partySegs s p (descAt req 0x30) ans = some (back, true) → 8 * e ≤ segTotal back →
      ((anyWrite e (padTo (12 * e) d) && unmasked s n.val && !allowDisrupt req) = false →
        ∃ t, exec (.sensorReg p k buf ans) s = .next t ∧ mbxState t p k.val = 2 ∧
          t.out = .bc l (.packet 0x82 stream (accessBytes e (padTo (12 * e) d))) :: s.out ∧
          t.lnk.regWaits = s.lnk.regWaits ++ [{ party := p, mslot := k.val, slot := n.val, entries := e, sentAt := s.now, segs := back }] ∧
          onlySlot p k.val s t ∧ onlyChanges [.out, .lnk, .flt, .mbx, .regs] s t) ∧
      ((anyWrite e (padTo (12 * e) d) && unmasked s n.val && !allowDisrupt req) = true →
        ∃ t, exec (.sensorReg p k buf ans) s = .next t ∧ answered t p k.val stInService 0 0 ∧ onlySlot p k.val s t ∧
          onlyChanges answering s t)) ∧
    (slotLinkUp s n.val = false →
      ∃ t, exec (.sensorReg p k buf ans) s = .next t ∧ answered t p k.val stNotReady 0 0 ∧ onlySlot p k.val s t ∧
        onlyChanges answering s t)) ∧
  (∀ (s : State) (p : Party) (k : Fin 32) (buf : HostBuf) (req : List Byte) (n : Fin 8) (segs : List (Nat × Nat)), s.live = true →
    asks s p k.val 0x0903 req → (byteAt req 0x10).toNat = n.val →
    (unmasked s n.val = true → inTake s n.val = false → ((byteAt req 0x11).toNat = 1 ∨ allowDisrupt req = true) → busMaster s p = true →
      partySegs s p (descAt req 0x20) buf = some (segs, true) →
      2 * regField s (ingReg n.val 0) 15 0 * (if regBit s (ingReg n.val 4) 2 = true then 2 else 1) ≤ segTotal segs →
      ∃ t, exec (.blackCal p k buf) s = .next t ∧ mbxState t p k.val = 2 ∧
        t.mbx.calib = s.mbx.calib ++
          [{ party := p, mslot := k.val, slot := n.val, want := leAt req 0x12 2, used := 0, sums := [], segs := segs }] ∧
        onlySlot p k.val s t ∧ onlyChanges [.mbx, .regs] s t) ∧
    (unmasked s n.val = true → (inTake s n.val = true ∨ ((byteAt req 0x11).toNat = 0 ∧ allowDisrupt req = false)) →
      ∃ t, exec (.blackCal p k buf) s = .next t ∧ answered t p k.val stInService 0 0 ∧ onlySlot p k.val s t ∧
        onlyChanges answering s t) ∧
    (unmasked s n.val = false →
      ∃ t, exec (.blackCal p k buf) s = .next t ∧ answered t p k.val stNotReady 0 0 ∧ onlySlot p k.val s t ∧
        onlyChanges answering s t)) ∧
  (∀ (s : State) (p : Party) (k : Fin 32) (req : List Byte) (j : Fin 32) (mode : Nat) (v : Word), s.live = true →
    asks s p k.val 0x0901 req → (byteAt req 0x10).toNat = j.val → mode = (byteAt req 0x11).toNat →
    v = packFields [(31, 1), (28, mode), (26, (byteAt req 0x12).toNat)] →
    (testRefused s j v mode = true →
      ∃ t, exec (.laneTest p k) s = .next t ∧ answered t p k.val stInvalidField 0 0x11 ∧ onlySlot p k.val s t ∧
        onlyChanges answering s t) ∧
    (testRefused s j v mode = false → (laneAssigned s j.val).isSome = true → allowDisrupt req = false →
      ∃ t, exec (.laneTest p k) s = .next t ∧ answered t p k.val stInService 0 0 ∧ onlySlot p k.val s t ∧
        onlyChanges answering s t) ∧
    (testRefused s j v mode = false → ((laneAssigned s j.val).isSome = true → allowDisrupt req = true) →
    ∃ t, exec (.laneTest p k) s = .next t ∧ regGet t (laneReg j.val 4) = v &&& 0x7C000000 ∧
      (t.lnk.lanes[j]).prbs = Lane.reset.prbs ∧ (∃ r ∈ t.mbx.running, r.party = p ∧ r.slot = k.val ∧ r.target = .lane j.val ∧
        r.b = s.now + 1000000 * leAt req 0x14 4) ∧
      (laneAssigned s j.val = none → mbxState t p k.val = 2 ∧ onlySlotAnd [laneReg j.val 4] p k.val s t ∧
        onlyChanges [.free, .lnk, .flt, .mbx, .regs] s t))) ∧
  (∀ (s : State) (j : Fin 32) (r : RunReq), s.live = true → (s.mbx.running.find? fun r => decide (r.target = .lane j.val)) = some r →
    r.b ≤ s.now → r.slot < mbxSlots r.party →
    ∃ t, exec (.laneTestDuration j) s = .next t ∧
      answered t r.party r.slot 0 (regGet s (laneReg j.val 0x1C)).toNat (regGet s (laneReg j.val 0x20)).toNat ∧
      regField t (laneReg j.val 4) 30 28 = 0 ∧ (∀ x ∈ t.mbx.running, ¬ (x.party = r.party ∧ x.slot = r.slot)) ∧
      (laneAssigned s j.val = none → onlySlotAnd [laneReg j.val 4] r.party r.slot s t ∧ onlyChanges answering s t)) ∧
  (∀ (s : State) (p : Party) (k : Fin 32) (failed first start len : Nat) (req : List Byte), s.live = true → asks s p k.val 0x0902 req →
    start = leAt req 0x10 8 → len = leAt req 0x18 8 →
    (usableBytes s < start + len →
      ∃ t, exec (.memTest p k failed first) s = .next t ∧
        answered t p k.val stInvalidField 0 (if usableBytes s < start then 0x10 else 0x18) ∧ onlySlot p k.val s t ∧
        onlyChanges answering s t) ∧
    (start + len ≤ usableBytes s → (rangeTaken s start len).1 = false ∨ allowDisrupt req = true →
      ∃ t, exec (.memTest p k failed first) s = .next t ∧
        (failed ≠ 0 → answered t p k.val 0 (failed % 2 ^ 32) (first % 2 ^ 32)) ∧
        (failed = 0 → mbxState t p k.val = 3 ∧ field (regGet t (mbxBase p k.val + 0x200)) 23 16 = stSuccess ∧
          regGet t (mbxBase p k.val + 0x208) = 0) ∧
        ((rangeTaken s start len).1 = false → ∀ g, g ∈ t.mem.poison ↔ g ∈ s.mem.poison ∧ ¬ (start ≤ 64 * g ∧ 64 * g < start + len)) ∧
        ((rangeTaken s start len).1 = true → t.mem = s.mem) ∧ onlySlot p k.val s t ∧ onlyChanges (.mem :: .free :: answering) s t) ∧
    (start + len ≤ usableBytes s → (rangeTaken s start len).1 = true → allowDisrupt req = false →
      ∃ t, exec (.memTest p k failed first) s = .next t ∧ answered t p k.val stInService 0 0 ∧ onlySlot p k.val s t ∧
        onlyChanges (.free :: answering) s t))

/-- While the core runs, for a request whose turn has come: LOG_GET writes error records, which leave the queue, log entries from
the oldest kept, or deferred errors; a device log is INVALID_OPCODE to a VF, and the deferred errors INVALID_FIELD to one with no
queue on the volume. EDP_AUX puts one transaction out at a port whose HPD is high and answers what the sink does, NOT_READY
otherwise; a write to a live link without leave is IN_SERVICE. SDP_GET writes the text of an enabled sender. TAKE_START opens a
take on unmasked slots outside takes; the thermal latch refuses it. TAKE_STOP fixes each slot's last frame; it answers the indexed
frames and gaps once nothing is left to write, else waits. TAKE_INFO gives a take and its index. VOLUME_FORMAT makes a fresh
volume, IN_SERVICE while a take is open. MAG_POWER answers at once in that state, starts the mount of a magazine that is off, or a
transition that it waits for. MAG_EJECT starts an eject, IN_SERVICE while a take is open. -/
def Obligations.LogPortTakeAndVolumeCommands : Prop :=
  (∀ (s : State) (p : Party) (k : Fin 32) (buf : HostBuf) (req : List Byte) (segs : List (Nat × Nat)), s.live = true →
    asks s p k.val 0x0A01 req → busMaster s p = true → partySegs s p (descAt req 0x20) buf = some (segs, true) →
    (∀ m bs, (byteAt req 0x10).toNat = 1 → m = min (leAt req 0x18 4) s.flt.queue.length →
      bs = (s.flt.queue.take m).flatMap errBytes → bs.length ≤ segTotal segs →
      ∃ t, exec (.logGet p k buf) s = .next t ∧ t.flt.queue = s.flt.queue.drop m ∧ mbxState t p k.val = 3 ∧
        field (regGet t (mbxBase p k.val + 0x200)) 23 16 = stSuccess ∧ (regGet t (mbxBase p k.val + 0x208)).toNat = m % 2 ^ 32 ∧
        delivered s t p segs bs ∧ onlySlot p k.val s t ∧ onlyChanges (.flt :: .free :: delivering) s t) ∧
    (∀ l bs, (byteAt req 0x10).toNat = 2 →
      l = (s.mgt.log.filter fun e => decide (max (leAt req 0x14 4) (oldestLog s) ≤ e.seq)).take (leAt req 0x18 4) →
      bs = l.flatMap LogEnt.bytes → bs.length ≤ segTotal segs → l ≠ [] →
      ∃ t, exec (.logGet p k buf) s = .next t ∧
        answered t p k.val 0 (l.length % 2 ^ 32) (((l.getLast?.map (·.seq)).getD 0 + 1) % 2 ^ 32) ∧
        delivered s t p segs bs ∧ onlySlot p k.val s t ∧ onlyChanges delivering s t) ∧
    (∀ v l bs, (byteAt req 0x10).toNat = 0x21 → boundVf s p = true → s.mag.vol = some v →
      l = (v.defs.drop (leAt req 0x14 4)).take (min (leAt req 0x18 4) 1024) → bs = l.flatMap defBytes →
      16 + bs.length ≤ segTotal segs →
      ∃ t, exec (.logGet p k buf) s = .next t ∧
        answered t p k.val 0 (l.length % 2 ^ 32) ((leAt req 0x14 4 + l.length) % 2 ^ 32) ∧
        (∃ h, h.length = 16 ∧ h.take 4 = [0x21, 1] ++ leBytes 2 l.length ∧ delivered s t p segs (h ++ bs)) ∧
        ((byteAt req 0x11).toNat = 0 → onlyChanges delivering s t) ∧
        ((byteAt req 0x11).toNat = 1 → s.mag.st = .mounted →
          ∀ e, l.getLast? = some e → (t.mag.vol.map (·.defs)) = some (v.defs.filter fun d => decide (e.seq < d.seq))) ∧
        onlySlot p k.val s t ∧ onlyChanges (.mag :: .flt :: delivering) s t)) ∧
  (∀ (s : State) (n : Fin 63) (k : Fin 32) (buf : HostBuf) (req : List Byte) (page : Nat), s.live = true → page = (byteAt req 0x10).toNat →
    mbxReq s (.vf n) k.val = req → mbxState s (.vf n) k.val = 1 → leAt req 0 2 = 0x0A01 → serviceOn s = true →
    targetHeld s (.vf n) k.val (mbxTarget 0x0A01 req) = false → runCount s < 16 →
    (page = 1 ∨ page = 2 ∨ (page = 0x21 ∧ firstBad (.vf n) 0x0A01 req = none ∧ boundVf s (.vf n) = false)) →
    ∃ t, exec (.logGet (.vf n) k buf) s = .next t ∧
      answered t (.vf n) k.val (if page = 0x21 then stInvalidField else stInvalidOpcode) 0 (if page = 0x21 then 0x10 else 0) ∧
      onlySlot (.vf n) k.val s t ∧ onlyChanges answering s t) ∧
  (∀ (s : State) (p : Party) (k : Fin 32) (ack : Option (List Byte)) (relinks wr : Bool) (req : List Byte) (x : Fin 2) (n : Nat),
    s.live = true → asks s p k.val 0x0701 req → (byteAt req 0x10).toNat = x.val → (byteAt req 0x11).toNat = (if wr = true then 1 else 0) →
    n = (byteAt req 0x18).toNat →
    ((wr = true → allowDisrupt req = false → (s.dsp.ports[x]).st ≠ 1 ∧ (s.dsp.ports[x]).st ≠ 2 ∧ (s.dsp.ports[x]).st ≠ 3) →
      (s.dsp.ports[x]).hpd = true →
      ∃ t, exec (.edpAux p k ack relinks) s = .next t ∧
        .aux x.val wr (leAt req 0x14 4) (if wr = true then (req.drop 0x20).take n else []) ∈ t.out ∧
        (ack = none → answered t p k.val stNotReady 0 0 ∧ onlyChanges answering s t) ∧
        (∀ l, ack = some l → wr = false → answered t p k.val 0 0 0 ∧
          (bytesOf (regWords t (mbxBase p k.val + 0x210) 4)).take n = padTo n l ∧ onlyChanges answering s t) ∧
        (∀ l, ack = some l → wr = true → answered t p k.val 0 0 0 ∧
          (relinks = true → (s.dsp.ports[x]).st = 2 → (t.dsp.ports[x]).st = 1) ∧
          (relinks = false → onlyChanges (.flt :: answering) s t)) ∧
        onlyChanges (.dsp :: .flt :: answering) s t ∧ onlySlotAnd [edpStateReg x.val] p k.val s t) ∧
    ((wr = true → allowDisrupt req = false → (s.dsp.ports[x]).st ≠ 1 ∧ (s.dsp.ports[x]).st ≠ 2 ∧ (s.dsp.ports[x]).st ≠ 3) →
      (s.dsp.ports[x]).hpd = false →
      ∃ t, exec (.edpAux p k ack relinks) s = .next t ∧ answered t p k.val stNotReady 0 0 ∧ onlySlot p k.val s t ∧
        onlyChanges answering s t) ∧
    (wr = true → allowDisrupt req = false → (s.dsp.ports[x]).st = 1 ∨ (s.dsp.ports[x]).st = 2 ∨ (s.dsp.ports[x]).st = 3 →
      ∃ t, exec (.edpAux p k ack relinks) s = .next t ∧ answered t p k.val stInService 0 0 ∧ onlySlot p k.val s t ∧
        onlyChanges answering s t)) ∧
  (∀ (s : State) (p : Party) (k : Fin 32) (buf : HostBuf) (req : List Byte) (i : Fin 48) (segs : List (Nat × Nat)), s.live = true →
    asks s p k.val 0x0801 req → (byteAt req 0x10).toNat = i.val →
    (bit (rmGet (s.net.snds[i]).cfg (0x141000 + 0x80 * i.val)) 31 = true → busMaster s p = true →
      partySegs s p (descAt req 0x20) buf = some (segs, true) →
      ∃ t, exec (.sdpGet p k buf) s = .next t ∧
        (Config.freeNat s.free ≤ segTotal segs → answered t p k.val 0 (Config.freeNat s.free % 2 ^ 32) 0) ∧
        (segTotal segs < Config.freeNat s.free → answered t p k.val stInvalidField (Config.freeNat s.free % 2 ^ 32) 0) ∧
        onlySlot p k.val s t ∧ onlyChanges (.free :: delivering) s t) ∧
    (bit (rmGet (s.net.snds[i]).cfg (0x141000 + 0x80 * i.val)) 31 = false →
      ∃ t, exec (.sdpGet p k buf) s = .next t ∧ answered t p k.val stNotReady 0 0 ∧ onlySlot p k.val s t ∧
        onlyChanges answering s t)) ∧
  (∀ (s : State) (p : Party) (k : Fin 32) (req : List Byte) (mask : Nat) (v : Vol), s.live = true → asks s p k.val 0x0501 req →
    mask = (byteAt req 0x10).toNat → mask ≠ 0 → s.mag.vol = some v →
    (∀ n ∈ maskSlots mask, unmasked s n.val = true ∧ trbOn s.regs n.val = true ∧ inTake s n.val = false) →
    (thermalLatched s = false → s.mag.st = .mounted → s.mag.blank = false → s.mag.power ≤ 1 → v.sectors ≤ freeSectors s * 128 →
      ∃ t w x, exec (.takeStart p k) s = .next t ∧ answered t p k.val 0 (v.nextTake % 2 ^ 32) 0 ∧ t.mag.vol = some w ∧
        w.takes = v.takes ++ [x] ∧ w.nextTake = v.nextTake + 1 ∧ x.ident = v.nextTake ∧ x.state = 0 ∧ x.slots = mask ∧
        x.name = (req.drop 0x20).take 32 ∧ (∀ n ∈ maskSlots mask, inTake t n.val = true) ∧ onlySlot p k.val s t ∧
        onlyChanges (.mag :: .gal :: .flt :: answering) s t) ∧
    (thermalLatched s = true →
      ∃ t, exec (.takeStart p k) s = .next t ∧ answered t p k.val stThermal 0 0 ∧ onlySlot p k.val s t ∧ onlyChanges answering s t)) ∧
  (∀ (s : State) (p : Party) (k : Fin 32) (req : List Byte) (i : Nat) (v : Vol) (x : Take), s.live = true → asks s p k.val 0x0502 req →
    i = leAt req 0x10 4 → s.mag.vol = some v → (v.takes.find? fun y => decide (y.ident = i)) = some x → x.state = 0 →
    s.mag.stopping = [] →
    ((s.gal.items.any fun y => decide (y.take = some i)) = true →
      ∃ t, exec (.takeStop p k) s = .next t ∧ mbxState t p k.val = 2 ∧ t.mag.stopping = [(i, p, k.val)] ∧
        (∀ y ∈ t.mag.takeSlots, y.take = i → y.last.isSome = true) ∧ onlyChanges (.mag :: .mbx :: reporting) s t) ∧
    ((s.gal.items.any fun y => decide (y.take = some i)) = false → x.index.length < 4294967296 →
      (∀ y ∈ s.mag.takeSlots, y.take = i → y.last = none ∧ s.ing.frames.toList.getD y.slot [] = []) →
      ∃ t w, exec (.takeStop p k) s = .next t ∧ answered t p k.val 0 (x.index.length - takeGaps x) (takeGaps x) ∧
        t.mag.vol = some w ∧ (w.takes.any fun y => decide (y.ident = i) && decide (y.state = 0)) = false ∧
        (∀ y ∈ t.mag.takeSlots, y.take ≠ i) ∧ onlyChanges (.mag :: .mbx :: reporting) s t)) ∧
  (∀ (s : State) (p : Party) (k : Fin 32) (buf : HostBuf) (req bs : List Byte) (v : Vol) (x : Take), s.live = true →
    asks s p k.val 0x0503 req → s.mag.vol = some v → (v.takes.find? fun y => decide (y.ident = leAt req 0x10 4)) = some x →
    bs = ((x.index.drop (leAt req 0x14 4)).take (leAt req 0x18 4)).flatMap idxBytes →
    (leAt req 0x18 4 = 0 ∨ (busMaster s p = true ∧ ∃ segs, partySegs s p (descAt req 0x20) buf = some (segs, true) ∧ bs.length ≤ segTotal segs)) →
    ∃ t, exec (.takeInfo p k buf) s = .next t ∧ answered t p k.val 0 0 0 ∧
      bytesOf (regWords t (mbxBase p k.val + 0x210) 32) = takeBytes x ∧
      (∀ segs, leAt req 0x18 4 ≠ 0 → partySegs s p (descAt req 0x20) buf = some (segs, true) → delivered s t p segs bs) ∧
      onlySlot p k.val s t ∧ onlyChanges delivering s t) ∧
  (∀ (s : State) (p : Party) (k : Fin 32) (req : List Byte), s.live = true → asks s p k.val 0x0504 req →
    (s.mag.st = .mounted ∨ (s.mag.st = .readOnly ∧ s.mag.wp = true)) → s.mag.power ≤ 1 →
    (takeOpen s = false → (s.mag.blank = true ∨ allowDisrupt req = true) →
      ∃ t v, exec (.volumeFormat p k) s = .next t ∧ t.mag.vol = some v ∧ v.sectors = s.mag.total * 15 * 31 / 512 ∧ v.takes = [] ∧
        v.exts = [] ∧ v.store = [] ∧ v.defs = [] ∧ t.mag.blank = false ∧ t.mag.units = [] ∧ t.mag.ops = [] ∧
        answered t p k.val 0 (v.sectors % 2 ^ 32) (v.sectors / 2 ^ 32 % 2 ^ 32) ∧
        onlyChanges (.mag :: .gal :: .free :: .flt :: .hq :: .fetchBad :: answering) s t) ∧
    (takeOpen s = true →
      ∃ t, exec (.volumeFormat p k) s = .next t ∧ answered t p k.val stInService 0 0 ∧ onlySlot p k.val s t ∧
        onlyChanges answering s t)) ∧
  (∀ (s : State) (p : Party) (k : Fin 32) (req : List Byte) (m : Nat), s.live = true → asks s p k.val 0x0505 req →
    m = (byteAt req 0x10).toNat →
    ((s.mag.st = .mounted ∨ s.mag.st = .readOnly) →
      (m = s.mag.power → ∃ t, exec (.magPower p k) s = .next t ∧ answered t p k.val 0 0 0 ∧ onlySlot p k.val s t ∧
        onlyChanges answering s t) ∧
      (m ≠ s.mag.power → 2 ≤ m → takeOpen s = true →
        ∃ t, exec (.magPower p k) s = .next t ∧ answered t p k.val stInService 0 0 ∧ onlySlot p k.val s t ∧ onlyChanges answering s t) ∧
      (m ≠ s.mag.power → (2 ≤ m → takeOpen s = false) →
        ∃ t, exec (.magPower p k) s = .next t ∧ mbxState t p k.val = 2 ∧ t.mag.transition = some (m, some (p, k.val)) ∧
          t.mag.st = (if m = 3 then .ejecting else s.mag.st) ∧ onlySlot p k.val s t ∧ onlyChanges [.mag, .flt, .mbx, .regs] s t)) ∧
    (s.mag.st = .off → m ≤ 1 →
      ∃ t, exec (.magPower p k) s = .next t ∧ mbxState t p k.val = 2 ∧ t.mag.st = .ident ∧ t.mag.vccEn = true ∧ t.mag.vccAt = s.now ∧
        t.mag.wanted = m ∧ onlySlot p k.val s t ∧ onlyChanges [.mag, .flt, .mbx, .regs, .out] s t) ∧
    ((s.mag.st = .ident ∨ s.mag.st = .mounting) → m ≤ 1 →
      ∃ t, exec (.magPower p k) s = .next t ∧ mbxState t p k.val = 2 ∧ t.mag.st = s.mag.st ∧ t.mag.wanted = m ∧
        t.mag.transition = some (m, some (p, k.val)) ∧ onlySlot p k.val s t ∧ onlyChanges [.mag, .flt, .mbx, .regs] s t) ∧
    (s.mag.st = .empty ∨ s.mag.st = .unusable ∨ s.mag.st = .ejecting →
      ∃ t, exec (.magPower p k) s = .next t ∧ answered t p k.val stNotReady 0 0 ∧ onlySlot p k.val s t ∧ onlyChanges answering s t)) ∧
  (∀ (s : State) (p : Party) (k : Fin 32) (req : List Byte), s.live = true → asks s p k.val 0x0506 req →
    (takeOpen s = false → isMounted s = true →
      ∃ t, exec (.magEject p k) s = .next t ∧ mbxState t p k.val = 2 ∧ t.mag.st = .ejecting ∧ t.mag.eject = some (some (p, k.val)) ∧
        onlySlot p k.val s t ∧ onlyChanges [.mag, .flt, .mbx, .regs] s t) ∧
    (takeOpen s = true →
      ∃ t, exec (.magEject p k) s = .next t ∧ answered t p k.val stInService 0 0 ∧ onlySlot p k.val s t ∧ onlyChanges answering s t))

/-- While the core runs: a fault of a core in a role gives its record; the gap begins, and as it ends the standby takes the role,
the core goes to role 4 under self-test, the gap is kept, at most 600,000 cycles, and SWITCHOVER raised; with no standby, or one
that fails, control is lost, fatally. A self-test that fails marks its core FAILED. A checkpoint counts on and releases the
journal that it covers. More than 86,400 s after a switch-over DRILL_OVERDUE is raised once. FW_ACTIVATE and DRILL drain, and wait
while a command is unfinished; once drained, the standby takes the displaced role and the request is answered with the gap, for
FW_ACTIVATE with the other Fjarera image active; a standby that fails is answered so. A drain that takes too long ends with
NOT_READY. FW_DOWNLOAD puts an accepted image into the inactive slot and refuses any other. THM_ACK clears VALID of the latch.
ACTIVATE_FIRMWARE restarts Colophon into its other image, or activates Fjarera's, at once or at the next reset. -/
def Obligations.ControlComplexAndActivation : Prop :=
  (∀ (s : State) (k r : Fin 5) (hb trap : Bool) (code det : Nat) (b : Option Standby), s.live = true →
    code = (if hb = true then 1 else if trap = true then 3 else 2) → det = (if hb = true then 1000 * hbTimeout s else 0) →
    roleOf s k.val = some r → s.flt.controlLost = false → s.flt.gap = none →
    (∀ new y, standby s = some new → b = some y → y.ok = true →
      ∃ t, exec (if hb = true then .heartbeatTimeout k b else .controlCoreFault k trap b) s = .next t ∧ t.flt.roles[r] = new ∧
        t.flt.roles[(4 : Fin 5)] = k.val ∧ t.flt.selfTest = some k.val ∧ t.flt.gap = none ∧ t.flt.lastSwitch = s.now ∧
        t.flt.overdueRaised = false ∧ raised t .flt 2 ∧
        regGet t (fltReg 0x18) = BitVec.ofNat 32 (min (y.gap + ceilDiv (6 * (s.now - (s.now - det))) 5) 600000) &&& maskOf (fltReg 0x18) ∧
        regGet t (fltReg 0x20) = satInc (regGet s (fltReg 0x20)) &&& maskOf (fltReg 0x20) ∧
        (colRestarts s = false → ∃ y ∈ t.mgt.incoming, y.err.block = 0x20 ∧ y.err.code = code) ∧
        (y.served = [] → y.jobs = [] → postedValid s → onlyRegs [] s t ∧ onlyChanges (.net :: reporting) s t)) ∧
    (∀ new, standby s = some new → b = none →
      ∃ t, exec (if hb = true then .heartbeatTimeout k b else .controlCoreFault k trap b) s = .next t ∧ t.flt.roles = s.flt.roles ∧
        t.flt.gap = some { core := some k.val, since := s.now - det } ∧ t.flt.ckpt = none ∧
        (colRestarts s = false → ∃ y ∈ t.mgt.incoming, y.err.block = 0x20 ∧ y.err.code = code) ∧ onlyRegs [] s t ∧
        onlyChanges reporting s t) ∧
    (standby s = none ∨ (∃ y, b = some y ∧ y.ok = false) →
      ∃ t, exec (if hb = true then .heartbeatTimeout k b else .controlCoreFault k trap b) s = .next t ∧ t.flt.controlLost = true ∧
        t.flt.fatal = true ∧ raised t .flt 5 ∧ .pin .sysFaultN false ∈ t.out ∧ t.flt.roles = s.flt.roles ∧ onlyRegs [] s t ∧
        onlyChanges reporting s t)) ∧
  (∀ (s : State) (k r : Fin 5) (trap : Bool) (y : Standby) (g : Gap) (new : Nat), s.live = true → roleOf s k.val = some r →
    s.flt.controlLost = false → s.flt.gap = some g → g.core = some k.val → standby s = some new → y.ok = true →
    ∃ t, exec (.controlCoreFault k trap (some y)) s = .next t ∧ t.flt.gap = none ∧ t.flt.roles[r] = new ∧
      t.flt.roles[(4 : Fin 5)] = k.val ∧ raised t .flt 2 ∧
      regGet t (fltReg 0x18) = BitVec.ofNat 32 (min (y.gap + gapCycles s) 600000) &&& maskOf (fltReg 0x18)) ∧
  (∀ (s : State) (k : Fin 5), s.live = true → s.flt.selfTest = some k.val →
    (∃ t, exec (.selfTest k true) s = .next t ∧ t.flt = { s.flt with selfTest := none } ∧ onlyChanges [.flt] s t) ∧
    (∃ t, exec (.selfTest k false) s = .next t ∧ t.flt.selfTest = none ∧ t.flt.failed[k] = true ∧ raised t .flt 4 ∧
      onlyRegs [] s t ∧ onlyChanges reporting s t)) ∧
  (∀ (s : State), s.live = true →
    (∀ j, s.flt.ckpt = some j →
      ∃ t, exec .checkpoint s = .next t ∧ regGet t (fltReg 0x2C) = (regGet s (fltReg 0x2C) + 1) &&& maskOf (fltReg 0x2C) ∧
        t.flt = { s.flt with journal := s.flt.journal - j, ckpt := none } ∧ onlyRegs [] s t ∧ onlyChanges [.regs, .flt] s t) ∧
    (s.flt.ckpt = none → checkpointTime s = true →
      ∃ t, exec .checkpoint s = .next t ∧ regGet t (fltReg 0x2C) = (regGet s (fltReg 0x2C) + 1) &&& maskOf (fltReg 0x2C) ∧
        t.flt = { s.flt with journal := 0, lastCkpt := s.now } ∧ onlyRegs [] s t ∧ onlyChanges [.regs, .flt] s t)) ∧
  (∀ (s : State), s.live = true → s.flt.overdueRaised = false → s.flt.lastSwitch + 86400000000000 < s.now →
    ∃ t, exec .drillOverdue s = .next t ∧ t.flt.overdueRaised = true ∧ raised t .flt 6 ∧ onlyRegs [] s t ∧ onlyChanges reporting s t) ∧
  (∀ (s : State) (p : Party) (k : Fin 32) (req : List Byte) (drill : Bool) (op : Nat) (b : Option Standby), s.live = true →
    op = (if drill = true then 0x0B03 else 0x0B02) →
    ((∃ d, s.mbx.drain = some d ∧ d.party = p ∧ d.slot = k.val ∧ d.isDrill = drill ∧ drained s d = true ∧ faultGap s = false ∧
        k.val < mbxSlots p) ∨
      (s.mbx.drain = none ∧ asks s p k.val op req ∧ (drill = false → (standbySlot s).isSome = true) ∧ s.mbx.running = [] ∧
        findCmds s (fun _ c => !c.finished) = [])) →
    (∀ new y, standby s = some new → b = some y → y.ok = true →
      ∃ t, exec (if drill = true then .drill p k b else .fwActivate p k b) s = .next t ∧ t.flt.roles[displaced s] = new ∧
        t.flt.roles[(4 : Fin 5)] = s.flt.roles[displaced s] ∧ t.flt.selfTest = s.flt.selfTest ∧ t.flt.gap = none ∧ t.mbx.drain = none ∧
        raised t .flt 2 ∧ regGet t (fltReg 0x18) = BitVec.ofNat 32 (min (y.gap + gapCycles s) 600000) &&& maskOf (fltReg 0x18) ∧
        (drill = false → activeSlot t 2 = 1 - activeSlot s 2 ∧ answered t p k.val 0 (regGet t (fltReg 0x18)).toNat
          (imgVersion (slotAt s 2 (1 - activeSlot s 2)).image)) ∧
        (drill = true → t.mgt.slots = s.mgt.slots ∧ answered t p k.val 0 (regGet t (fltReg 0x18)).toNat 0) ∧
        onlyChanges (.net :: .mbx :: reporting) s t) ∧
    (s.flt.gap = none → b = none →
      ∃ t, exec (if drill = true then .drill p k b else .fwActivate p k b) s = .next t ∧ t.flt.gap = some { core := none, since := s.now } ∧
        t.mbx.drain.isSome = true ∧ t.flt.roles = s.flt.roles ∧ onlySlot p k.val s t ∧ onlyChanges [.flt, .mbx, .regs] s t) ∧
    (∀ y, b = some y → (standby s = none ∨ y.ok = false) →
      ∃ t, exec (if drill = true then .drill p k b else .fwActivate p k b) s = .next t ∧ t.flt.roles = s.flt.roles ∧
        t.mgt.slots = s.mgt.slots ∧ t.flt.gap = none ∧ t.mbx.drain = none ∧
        answered t p k.val (if drill = true then stFailedSw else stNotReady) 0 0 ∧ onlyChanges (.mbx :: reporting) s t)) ∧
  (∀ (s : State) (p : Party) (k : Fin 32) (req : List Byte) (drill : Bool) (op : Nat) (b : Option Standby), s.live = true →
    op = (if drill = true then 0x0B03 else 0x0B02) → s.mbx.drain = none → asks s p k.val op req → s.mbx.running = [] →
    (drill = false → standbySlot s = none →
      ∃ t, exec (.fwActivate p k b) s = .next t ∧ answered t p k.val stNotReady 0 0 ∧ onlySlot p k.val s t ∧ onlyChanges answering s t) ∧
    ((drill = false → (standbySlot s).isSome = true) → findCmds s (fun _ c => !c.finished) ≠ [] →
      findCmds s (fun _ c => (decide (c.op = 0x20) || decide (c.op = 0x21)) && c.waiting && !c.finished && !c.aborted) = [] →
      ∃ t, exec (if drill = true then .drill p k b else .fwActivate p k b) s = .next t ∧ mbxState t p k.val = 2 ∧
        t.mbx.drain = some { party := p, slot := k.val, isDrill := drill, since := s.now, limitMs := leAt req 0x10 4 } ∧
        onlySlot p k.val s t ∧ onlyChanges [.mbx, .regs] s t)) ∧
  (∀ (s : State) (d : Drain), s.live = true → s.mbx.drain = some d → d.since + 1000000 * d.limitMs ≤ s.now →
    s.flt.gap = none →
    (pldmDrain d = false → d.slot < mbxSlots d.party →
      ∃ t, exec .drainTimeout s = .next t ∧ t.mbx.drain = none ∧ answered t d.party d.slot stNotReady 0 0 ∧ onlyChanges answering s t) ∧
    (pldmDrain d = true →
      ∃ t, exec .drainTimeout s = .next t ∧ t.mbx.drain = none ∧ (slotAt t 2 (1 - activeSlot s 2)).pending = true ∧
        onlyChanges (.mgt :: answering) s t)) ∧
  (∀ (s : State) (p : Party) (k : Fin 32) (buf : HostBuf) (req l bs : List Byte) (segs : List (Nat × Nat)), s.live = true →
    asks s p k.val 0x0B01 req → busMaster s p = true → partySegs s p (descAt req 0x20) buf = some (segs, true) →
    partyData s p segs buf = some l → bs = padTo (segTotal segs) l → segTotal segs ≤ 33554432 → transferOpen s = false →
    ∃ t, exec (.fwDownload p k buf) s = .next t ∧
      (imgAccepted s 2 bs = true → answered t p k.val 0 (imgVersion bs) 0 ∧ raised t .mgt 0 ∧
        (slotAt t 2 (1 - activeSlot s 2)).image = bs ∧ (slotAt t 2 (1 - activeSlot s 2)).valid = true) ∧
      (imgAccepted s 2 bs = false → answered t p k.val stInvalidField 0 0x20 ∧ raised t .mgt 1 ∧
        (slotAt t 2 (1 - activeSlot s 2)).valid = false) ∧
      slotAt t 2 (activeSlot s 2) = slotAt s 2 (activeSlot s 2) ∧ onlyChanges (.mbx :: reporting) s t) ∧
  (∀ (s : State) (p : Party) (k : Fin 32) (req : List Byte), s.live = true → asks s p k.val 0x0B04 req →
    (regBit s (thmReg 4) 31 = true →
      ∃ t, exec (.thmAck p k) s = .next t ∧ answered t p k.val 0 (regGet s (thmReg 4)).toNat 0 ∧ regBit t (thmReg 4) 31 = false ∧
        onlySlotAnd [thmReg 4] p k.val s t ∧ onlyChanges (.mgt :: .flt :: answering) s t) ∧
    (regBit s (thmReg 4) 31 = false →
      ∃ t, exec (.thmAck p k) s = .next t ∧ answered t p k.val stNotReady 0 0 ∧ onlySlot p k.val s t ∧ onlyChanges answering s t)) ∧
  (∀ (s : State) (pcie : Bool) (comp : BitVec 16) (b : Option Standby), colServes s = true → mctpPath s pcie = true →
    (comp = 1 → (slotAt s 1 (1 - activeSlot s 1)).valid = true →
      ∃ t, exec (.activateFirmware pcie true comp b) s = .next t ∧ .sideband (mctpParty pcie) [0] ∈ t.out ∧
        activeSlot t 1 = 1 - activeSlot s 1 ∧ t.mgt.restart.isSome = true ∧ onlyChanges (.free :: reporting) s t) ∧
    (comp = 1 ∧ (slotAt s 1 (1 - activeSlot s 1)).valid = false ∨ comp = 2 ∧ standbySlot s = none ∧ s.mbx.drain = none →
      ∃ t, exec (.activateFirmware pcie true comp b) s = .next t ∧ t.out = .sideband (mctpParty pcie) [0x8B] :: s.out ∧
        onlyChanges [.out] s t) ∧
    (comp = 2 → s.mbx.drain = none → (standbySlot s).isSome = true →
      (s.live = false ∨ serviceOn s = false →
        ∃ t, exec (.activateFirmware pcie true comp b) s = .next t ∧ .sideband (mctpParty pcie) [1] ∈ t.out ∧
          (slotAt t 2 (1 - activeSlot s 2)).pending = true ∧ onlyChanges [.mgt, .out] s t) ∧
      (s.live = true → serviceOn s = true → s.mbx.running = [] → findCmds s (fun _ c => !c.finished) = [] →
        (standby s).isSome = true → (∃ y, b = some y ∧ y.ok = true) →
        ∃ t, exec (.activateFirmware pcie true comp b) s = .next t ∧ .sideband (mctpParty pcie) [0] ∈ t.out ∧
          activeSlot t 2 = 1 - activeSlot s 2 ∧ raised t .flt 2 ∧ t.mbx.drain = none ∧ onlyChanges (.net :: .mbx :: reporting) s t)))

/-- While the core runs, by a party that may write: LOAD resets a core and starts a load, whose end sets outcome, TCM and entry;
RESET stops a core, and a core that ran loses its stack, windows and slots; a release starts it at a loaded entry, else LOAD reads
5; a window maps a handle allocated to the core, zero unmaps it, any other handle unmaps and is counted. A fault of a running
core, at an access that nothing serves or at an uncorrectable word, keeps its address and is recorded; MTIME at MTIMECMP makes the
timer pending. An edge on an enabled source sets its pending bit, or is merged, and signals the host when asked to; on a disabled
one it does nothing; SWSET gives an edge to each named source. A core's claim takes the routed source with the lowest priority
number, or reads 1023; an EOI that names the top of the stack ends it, another is counted. A threshold that the queue now reaches
raises RECORDS. -/
def Obligations.UserCoresAndInterrupts : Prop :=
  (∀ (s : State) (p : Party) (u : Fin 4) (v : Word) (h : Nat), s.live = true → mayWrite p (userReg u.val 0) = true →
    h = regField s (userReg u.val 8) 15 0 → ((bit v 1 = true ∧ (s.per.cores[u]).loading = none) ∨ (bit v 0 = true ∧ bit v 1 = false)) →
    ∃ t, exec (if bit v 1 = true then .load p u v else .coreReset p u v) s = .next t ∧ userRuns t u.val = false ∧
      regGet t (userReg u.val 0) = 1 ∧
      (bit v 1 = true → regField t (userReg u.val 4) 2 0 = 1 ∧
        (t.per.cores[u]).loading = some (if isAllocated s h = true then h else 0)) ∧
      (∀ w, w ≠ u → t.per.cores[w] = s.per.cores[w]) ∧
      (userRuns s u.val = true → t.irq.stack[u] = [] ∧ t.irq.run[u] = 16 ∧
        (∀ w : Fin 16, regGet t (userReg u.val (0x40 + 4 * w.val)) = 0) ∧ (∀ k : Fin 4, mbxState t (.user u) k.val = 0)) ∧
      (userRuns s u.val = false → onlyRegs [userReg u.val 0, userReg u.val 4] s t ∧ onlyChanges [.regs, .per] s t) ∧
      onlyChanges (.irq :: .per :: .frm :: .mbx :: .mag :: .lnk :: reporting) s t) ∧
  (∀ (s : State) (u : Fin 4) (bad : Bool) (h : Nat), s.live = true → (s.per.cores[u]).loading = some h →
    ∃ t, exec (.loadComplete u bad) s = .next t ∧ regField t (userReg u.val 4) 2 0 = (loadOutcome s h bad).1 ∧
      (t.per.cores[u]).loading = none ∧ (t.per.cores[u]).tcm = (loadOutcome s h bad).2.1 ∧
      (t.per.cores[u]).entry =
        (if (loadOutcome s h bad).1 = 2 then some (loadOutcome s h bad).2.2 else (s.per.cores[u]).entry) ∧
      (handleOf s h = none → (loadOutcome s h bad).1 = 3) ∧ onlyRegs [userReg u.val 4] s t ∧ onlyChanges [.regs, .per] s t) ∧
  (∀ (s : State) (p : Party) (u : Fin 4) (v : Word), s.live = true → mayWrite p (userReg u.val 0) = true → bit v 0 = false →
    bit v 1 = false → (s.per.cores[u]).loading = none →
    ((s.per.cores[u]).entry.isSome = true →
      ∃ t, exec (.coreRelease p u v) s = .next t ∧ userRuns t u.val = true ∧ regGet t (userReg u.val 0) = 0 ∧
        onlyRegs [userReg u.val 0, userReg u.val 4] s t ∧ onlyChanges [.regs] s t) ∧
    ((s.per.cores[u]).entry = none →
      ∃ t, exec (.coreRelease p u v) s = .next t ∧ regField t (userReg u.val 4) 2 0 = 5 ∧ userRuns t u.val = userRuns s u.val ∧
        onlyRegs [userReg u.val 4] s t ∧ onlyChanges [.regs] s t)) ∧
  (∀ (s : State) (p : Party) (u : Fin 4) (w : Fin 16) (v : Word) (off h : Nat), s.live = true → off = userReg u.val (0x40 + 4 * w.val) →
    mayWrite p off = true → h = field v 15 0 →
    (h = 0 → ∃ t, exec (.hwinMap p u w v) s = .next t ∧ regGet t off = 0 ∧ onlyRegs [off] s t ∧ onlyChanges [.regs] s t) ∧
    (h ≠ 0 → allocatedTo s (.user u) h = true →
      ∃ t, exec (.hwinMap p u w v) s = .next t ∧ regGet t off = packFields [(31, 1), (0, h)] ∧ onlyRegs [off] s t ∧
        onlyChanges [.regs] s t) ∧
    (h ≠ 0 → allocatedTo s (.user u) h = false →
      ∃ t, exec (.hwinMap p u w v) s = .next t ∧ regGet t off = 0 ∧ regGet t badAccessReg = satInc (regGet s badAccessReg) ∧
        onlyRegs [off, badAccessReg] s t ∧ onlyChanges [.regs] s t)) ∧
  (∀ (s : State) (u : Fin 4) (cause addr : Nat) (bad : Bool), s.live = true → userRuns s u.val = true →
    ((bad = true ∧ [1, 5, 7].contains cause = true) ∨ faults s u cause addr = true) →
    ∃ t, exec (.accessFault u cause addr bad) s = .next t ∧ regGet t (userReg u.val 0x10) = BitVec.ofNat 32 addr ∧
      regGet t (userReg u.val 0x14) = BitVec.ofNat 32 (addr / 2 ^ 32) ∧
      (regBit s (srcCfgReg 49) 31 = true → regBit t (pendingReg 49) (49 % 32) = true) ∧
      (colRestarts s = false → ∃ y ∈ t.mgt.incoming, y.err.block = 0x21 ∧ y.err.code = (if bad = true then 2 else 1) ∧
        y.err.ctx = ctxUnit 20 u.val 0 cause) ∧
      onlyRegs [userReg u.val 0x10, userReg u.val 0x14] s t ∧ onlyChanges reporting s t) ∧
  (∀ (s : State) (u : Fin 4), s.live = true →
    (regGet s (userReg u.val 0x20)).toNat + (regGet s (userReg u.val 0x24)).toNat * 2 ^ 32 ≤ devTime s →
    ∃ t, exec (.machineTimer u) s = .next t ∧ (t.per.cores[u]).timer = true ∧ (∀ w, w ≠ u → t.per.cores[w] = s.per.cores[w]) ∧
      onlyChanges [.per] s t) ∧
  (∀ (s : State) (i : Fin 1024), s.live = true →
    ∃ t, exec (.sourceEdge i) s = .next t ∧
      (regBit s (srcCfgReg i.val) 31 = true →
        regBit t (pendingReg i.val) (i.val % 32) = true ∧
        (regBit s (pendingReg i.val) (i.val % 32) = true →
          regGet t mergedReg = satInc (regGet s mergedReg)) ∧
        (regBit s (srcCfgReg i.val) 16 = true → vecMasked s 0 0 = false → t.out = .msix 0 0 :: s.out) ∧
        (regBit s (srcCfgReg i.val) 16 = true → vecMasked s 0 0 = true → mGet t.pba 0 = some true ∧ t.out = s.out) ∧
        (regBit s (srcCfgReg i.val) 16 = false → t.out = s.out ∧ t.pba = s.pba)) ∧
      (∀ j : Fin 1024, j ≠ i → regBit t (pendingReg j.val) (j.val % 32) = regBit s (pendingReg j.val) (j.val % 32)) ∧
      (regBit s (srcCfgReg i.val) 31 = false → onlyChanges [] s t) ∧ onlyRegs [] s t ∧ onlyChanges [.regs, .pba, .out] s t) ∧
  (∀ (s : State) (p : Party) (v : Word), s.live = true → mayWrite p 0x191180 = true →
    ∃ t, exec (.swset p v) s = .next t ∧
      (∀ k : Fin 16, bit v k.val = true → regBit s (srcCfgReg (256 + k.val)) 31 = true →
        regBit t (pendingReg (256 + k.val)) ((256 + k.val) % 32) = true) ∧
      (∀ j : Fin 1024, ¬ (256 ≤ j.val ∧ j.val < 272 ∧ bit v (j.val - 256) = true) →
        regBit t (pendingReg j.val) (j.val % 32) = regBit s (pendingReg j.val) (j.val % 32)) ∧
      onlyRegs [] s t ∧ onlyChanges [.regs, .pba, .out] s t) ∧
  (∀ (s : State) (u : Fin 4), s.live = true →
    (claimed s u.val = none →
      ∃ t, exec (.claim (.user u) u) s = .next t ∧ t.out = .readData (.user u) (0x192000 + 0x100 * u.val) 1023 :: s.out ∧
        onlyChanges [.out] s t) ∧
    (∀ i, claimed s u.val = some i →
      ∃ t, exec (.claim (.user u) u) s = .next t ∧
        t.out = .readData (.user u) (0x192000 + 0x100 * u.val) (BitVec.ofNat 32 i) :: s.out ∧
        t.irq.stack[u] = (s.irq.run[u], i) :: s.irq.stack[u] ∧ t.irq.run[u] = srcPrio s i ∧
        regBit t (pendingReg i) (i % 32) = false ∧
        regBit t (activeReg i) (i % 32) = true ∧ regGet t (0x192008 + 0x100 * u.val) = runWord t u &&& maskOf (0x192008 + 0x100 * u.val) ∧
        (∀ j : Fin 1024, routed s j.val = some u.val →
          srcPrio s i < srcPrio s j.val ∨ (srcPrio s i = srcPrio s j.val ∧ i ≤ j.val)) ∧
        onlyRegs [0x192008 + 0x100 * u.val] s t ∧ onlyChanges [.regs, .irq, .out] s t)) ∧
  (∀ (s : State) (p : Party) (u : Fin 4), s.live = true → p ≠ .user u →
    ∃ t, exec (.claim p u) s = .next t ∧ t.out = .readData p (0x192000 + 0x100 * u.val) 0 :: s.out ∧ onlyChanges [.out] s t) ∧
  (∀ (s : State) (u : Fin 4) (v : Word), s.live = true →
    (∀ run rest, s.irq.stack[u] = (run, field v 9 0) :: rest →
      ∃ t, exec (.eoi (.user u) u v) s = .next t ∧ t.irq.stack[u] = rest ∧ t.irq.run[u] = run ∧
        regBit t (activeReg (field v 9 0)) (field v 9 0 % 32) = false ∧ onlyRegs [0x192008 + 0x100 * u.val] s t ∧
        onlyChanges [.regs, .irq] s t) ∧
    ((∀ run i rest, s.irq.stack[u] = (run, i) :: rest → i ≠ field v 9 0) →
      ∃ t, exec (.eoi (.user u) u v) s = .next t ∧
        regGet t (0x19200C + 0x100 * u.val) = satInc (regGet s (0x19200C + 0x100 * u.val)) &&& maskOf (0x19200C + 0x100 * u.val) ∧
        t.irq = s.irq ∧ onlyRegs [0x19200C + 0x100 * u.val] s t ∧ onlyChanges [.regs] s t)) ∧
  (∀ (s : State) (p : Party) (v : Word), s.live = true → mayWrite p (fltReg 0x10) = true →
    ∃ t, exec (.threshWrite p v) s = .next t ∧ regGet t (fltReg 0x10) = v &&& maskOf (fltReg 0x10) ∧
      (s.flt.queue.length < recThresh s → recThresh t ≤ s.flt.queue.length → raised t .flt 0) ∧
      (recThresh s ≤ s.flt.queue.length → t.out = s.out ∧ regGet t 0x1A0040 = regGet s 0x1A0040) ∧
      onlyRegs [] s t ∧ onlyChanges [.regs, .pba, .out] s t)

/-- While the core runs, by a party that may write or read, of all ports only the one named changes: a byte written to TXDATA
joins the FIFO, or at a full one sets its overflow event; a read of RXDATA gives and removes the oldest byte, or zero. An enabled
UART puts its oldest byte out, TX_EMPTY after the last, and takes in a byte, with RX_THRESH at the threshold or above, OVERRUN
when full, and parity (where it is in use), framing and break events. GO starts an SPI transfer on an enabled port and is refused
while one runs; as it ends, LEN bytes have gone out, zero-filled with underrun, and come in. GO starts an I3C command; as it ends
it has moved its bytes with DONE, or NACK or BUS_ERROR is set. An in-band interrupt joins its FIFO of 8 or is lost; a hot join is
reported; a read of IBI takes the head, its payload going to RXDATA. OUT_SET and OUT_CLR change the named pins, and a pin that
both name in a tick is clear; an edge on a pin that is long enough for its filter sets its input and raises its source when
selected. -/
def Obligations.PeripheralPortsAndPins : Prop :=
  (∀ (s : State) (p : Party) (i : Fin 8) (x : Uart), s.live = true → x = s.per.uarts[i] →
    (∀ v, mayWrite p (uartReg i.val 4) = true →
      (x.tx.length < 64 →
        ∃ t, exec (.uartTxdata p i v) s = .next t ∧ t.per = { s.per with uarts := s.per.uarts.set i { x with tx := x.tx ++ [lowByte v] } } ∧
          onlyRegs [uartReg i.val 0xC] s t ∧ onlyChanges [.regs, .per] s t) ∧
      (64 ≤ x.tx.length →
        ∃ t, exec (.uartTxdata p i v) s = .next t ∧ regBit t (uartReg i.val 0x18) 6 = true ∧ onlyRegs [uartReg i.val 0x18] s t ∧
          onlyChanges [.regs, .pba, .out] s t)) ∧
    (∀ b r, x.tx = b :: r → regBit s (uartReg i.val 0) 31 = true →
      ∃ t, exec (.uartTxByte i) s = .next t ∧ .bus 0 i.val (regGet s (uartReg i.val 0)) 0 [b] ∈ t.out ∧
        t.per = { s.per with uarts := s.per.uarts.set i { x with tx := r } } ∧
        (r = [] → regBit t (uartReg i.val 0x18) 1 = true) ∧ (r ≠ [] → onlyRegs [uartReg i.val 0xC] s t) ∧
        onlyRegs [uartReg i.val 0xC, uartReg i.val 0x18] s t ∧ onlyChanges [.regs, .per, .pba, .out] s t) ∧
    (∀ b parity framing brk, regBit s (uartReg i.val 0) 31 = true →
      ∃ t, exec (.uartRxByte i b parity framing brk) s = .next t ∧
        (x.rx.length < 64 → t.per = { s.per with uarts := s.per.uarts.set i { x with rx := x.rx ++ [b] } } ∧
          regField t (uartReg i.val 0xC) 22 16 = x.rx.length + 1 ∧
          (regField s (uartReg i.val 0x10) 6 0 ≤ x.rx.length + 1 → regBit t (uartReg i.val 0x18) 0 = true)) ∧
        (64 ≤ x.rx.length → t.per = s.per ∧ regBit t (uartReg i.val 0x18) 2 = true) ∧
        (parity = true → regField s (uartReg i.val 0) 23 22 ≠ 0 → regBit t (uartReg i.val 0x18) 3 = true) ∧
        (framing = true → regBit t (uartReg i.val 0x18) 4 = true) ∧
        (brk = true → regBit t (uartReg i.val 0x18) 5 = true) ∧
        onlyRegs [uartReg i.val 0xC, uartReg i.val 0x18] s t ∧ onlyChanges [.regs, .per, .pba, .out] s t) ∧
    (mayRead p = true →
      ∃ t, exec (.uartRxdataRead p i) s = .next t ∧ t.out = .readData p (uartReg i.val 8) (rxWord x.rx) :: s.out ∧
        t.per = { s.per with uarts := s.per.uarts.set i { x with rx := x.rx.drop 1 } } ∧
        onlyRegs [uartReg i.val 0xC] s t ∧ onlyChanges [.regs, .per, .out] s t)) ∧
  (∀ (s : State) (p : Party) (i : Fin 6) (x : SpiPort), s.live = true → x = s.per.spis[i] →
    (∀ v, mayWrite p (spiReg i.val 8) = true →
      (x.tx.length < 256 →
        ∃ t, exec (.spiTxdata p i v) s = .next t ∧ t.per = { s.per with spis := s.per.spis.set i { x with tx := x.tx ++ [lowByte v] } } ∧
          onlyRegs [spiReg i.val 0x10] s t ∧ onlyChanges [.regs, .per] s t) ∧
      (256 ≤ x.tx.length →
        ∃ t, exec (.spiTxdata p i v) s = .next t ∧ regBit t (spiReg i.val 0x18) 3 = true ∧ onlyRegs [spiReg i.val 0x18] s t ∧
          onlyChanges [.regs, .pba, .out] s t)) ∧
    (∀ v, mayWrite p (spiReg i.val 4) = true → bit v 31 = true →
      (x.xfer = none → regBit s (spiReg i.val 0) 31 = true →
        ∃ t, exec (.spiTransfer p i v) s = .next t ∧ t.per = { s.per with spis := s.per.spis.set i { x with xfer := some v } } ∧
          regBit t (spiReg i.val 0x10) 31 = true ∧ onlyRegs [spiReg i.val 0x10] s t ∧ onlyChanges [.regs, .per] s t) ∧
      (x.xfer.isSome = true →
        ∃ t, exec (.spiTransfer p i v) s = .next t ∧ regBit t (spiReg i.val 0x18) 2 = true ∧ onlyRegs [spiReg i.val 0x18] s t ∧
          onlyChanges [.regs, .pba, .out] s t)) ∧
    (∀ v l n, x.xfer = some v → n = field v 8 0 →
      ∃ t, exec (.spiDone i l) s = .next t ∧ .bus 1 i.val (regGet s (spiReg i.val 0)) v (padTo n x.tx) ∈ t.out ∧
        t.per = { s.per with spis := s.per.spis.set i ⟨x.tx.drop n, (x.rx ++ padTo n l).take 256, none⟩ } ∧
        regBit t (spiReg i.val 0x10) 31 = false ∧ regBit t (spiReg i.val 0x18) 0 = true ∧
        (x.tx.length < n → regBit t (spiReg i.val 0x18) 1 = true) ∧
        onlyRegs [spiReg i.val 0x10, spiReg i.val 0x18] s t ∧ onlyChanges [.regs, .per, .pba, .out] s t) ∧
    (mayRead p = true →
      ∃ t, exec (.spiRxdataRead p i) s = .next t ∧ t.out = .readData p (spiReg i.val 0xC) (rxWord x.rx) :: s.out ∧
        t.per = { s.per with spis := s.per.spis.set i { x with rx := x.rx.drop 1 } } ∧
        onlyRegs [spiReg i.val 0x10] s t ∧ onlyChanges [.regs, .per, .out] s t)) ∧
  (∀ (s : State) (p : Party) (i : Fin 4) (x : I3cPort), s.live = true → x = s.per.i3cs[i] →
    (∀ v, mayWrite p (i3cReg i.val 8) = true →
      (x.tx.length < 256 →
        ∃ t, exec (.i3cTxdata p i v) s = .next t ∧ t.per = { s.per with i3cs := s.per.i3cs.set i { x with tx := x.tx ++ [lowByte v] } } ∧
          onlyChanges [.per] s t) ∧
      (256 ≤ x.tx.length →
        ∃ t, exec (.i3cTxdata p i v) s = .next t ∧ regBit t (i3cReg i.val 0x18) 6 = true ∧ onlyRegs [i3cReg i.val 0x18] s t ∧
          onlyChanges [.regs, .pba, .out] s t)) ∧
    (∀ v, mayWrite p (i3cReg i.val 4) = true → bit v 31 = true → regBit s (i3cReg i.val 0) 31 = true →
      (x.cmd = none → ∃ t, exec (.i3cCommand p i v) s = .next t ∧
        t.per = { s.per with i3cs := s.per.i3cs.set i { x with cmd := some v } } ∧ onlyChanges [.per] s t) ∧
      (x.cmd.isSome = true → ∃ t, exec (.i3cCommand p i v) s = .next t ∧ onlyChanges [] s t)) ∧
    (∀ v l daa gone, x.cmd = some v → daa = (bit v 28 && decide (field v 20 13 = ccEntdaa)) →
      gone = (if bit v 29 = true ∧ daa = false then [] else x.tx.take (field v 8 0)) →
      (∃ t, exec (.i3cDone i .done l) s = .next t ∧ .bus 2 i.val (regGet s (i3cReg i.val 0)) v gone ∈ t.out ∧
        t.per.i3cs =
          s.per.i3cs.set i ⟨x.tx.drop gone.length, x.rx ++ (if bit v 29 = true ∨ daa = true then l else []), x.ibi, none⟩ ∧
        t.per = { s.per with i3cs := t.per.i3cs } ∧
        regBit t (i3cReg i.val 0x18) 0 = true ∧ onlyRegs [i3cReg i.val 0x18] s t ∧ onlyChanges [.regs, .per, .pba, .out] s t) ∧
      (∀ e, e = .nack ∨ e = .busError →
        ∃ t, exec (.i3cDone i e l) s = .next t ∧ t.per = { s.per with i3cs := s.per.i3cs.set i { x with cmd := none } } ∧
          regBit t (i3cReg i.val 0x18) (if e = .nack then 1 else 4) = true ∧ onlyRegs [i3cReg i.val 0x18] s t ∧
          onlyChanges [.regs, .per, .pba, .out] s t)) ∧
    (regBit s (i3cReg i.val 0) 31 = true →
      (∀ addr l, x.ibi.length < 8 →
        ∃ t, exec (.ibi i addr l) s = .next t ∧ regBit t (i3cReg i.val 0x18) 2 = true ∧
          t.per = { s.per with i3cs := s.per.i3cs.set i { x with ibi := x.ibi ++ [(addr % 128, l.take 8)] } } ∧
          onlyRegs [i3cReg i.val 0x18] s t ∧ onlyChanges [.regs, .per, .pba, .out] s t) ∧
      (∀ addr l, 8 ≤ x.ibi.length →
        ∃ t, exec (.ibi i addr l) s = .next t ∧ regBit t (i3cReg i.val 0x18) 5 = true ∧ onlyRegs [i3cReg i.val 0x18] s t ∧
          onlyChanges [.regs, .pba, .out] s t) ∧
      (∃ t, exec (.hotJoin i) s = .next t ∧ regBit t (i3cReg i.val 0x18) 3 = true ∧ onlyRegs [i3cReg i.val 0x18] s t ∧
        onlyChanges [.regs, .pba, .out] s t)) ∧
    (mayRead p = true →
      (∃ t, exec (.i3cRxdataRead p i) s = .next t ∧ t.out = .readData p (i3cReg i.val 0xC) (rxWord x.rx) :: s.out ∧
        t.per = { s.per with i3cs := s.per.i3cs.set i { x with rx := x.rx.drop 1 } } ∧ onlyChanges [.per, .out] s t) ∧
      (x.ibi = [] → ∃ t, exec (.i3cIbiRead p i) s = .next t ∧ t.out = .readData p (i3cReg i.val 0x10) 0 :: s.out ∧
        onlyChanges [.out] s t) ∧
      (∀ a l r, x.ibi = (a, l) :: r →
        ∃ t, exec (.i3cIbiRead p i) s = .next t ∧
          t.out = .readData p (i3cReg i.val 0x10) (packFields [(31, 1), (24, a), (16, l.length)]) :: s.out ∧
          t.per = { s.per with i3cs := s.per.i3cs.set i { x with ibi := r, rx := x.rx ++ l } } ∧ onlyChanges [.per, .out] s t))) ∧
  (∀ (s : State) (p : Party) (hi set : Bool) (v new : Word), s.live = true →
    mayWrite p ((if set = true then 0x1D4018 else 0x1D4020) + if hi = true then 4 else 0) = true →
    new = (if set = true then regGet s (gpioOut hi) ||| (v &&& ~~~clearedNow s hi) else regGet s (gpioOut hi) &&& ~~~v) →
    ∃ t, exec (if set = true then .outSet p hi v else .outClr p hi v) s = .next t ∧ regGet t (gpioOut hi) = new ∧
      clearedNow t hi = (if set = true then clearedNow s hi else clearedNow s hi ||| v) ∧
      (∀ b : Fin 32, bit (regGet s (gpioOe hi)) b.val = true → bit new b.val ≠ bit (regGet s (gpioOut hi)) b.val →
        .pin (.gpio (Fin.ofNat 64 (b.val + if hi = true then 32 else 0))) (bit new b.val) ∈ t.out) ∧
      (regGet s (gpioOe hi) = 0 → t.out = s.out) ∧ onlyRegs [gpioOut hi] s t ∧
      onlyChanges (if set = true then [.regs, .out] else [.regs, .per, .out]) s t) ∧
  (∀ (s : State) (i : Fin 64) (rising : Bool) (width reg : Nat), s.live = true → reg = (if i.val < 32 then 0x1D4010 else 0x1D4014) →
    (width < 4 * regField s (0x1D4100 + 4 * i.val) 31 16 →
      ∃ t, exec (.gpioEdge i rising width) s = .next t ∧ onlyChanges [] s t) ∧
    (4 * regField s (0x1D4100 + 4 * i.val) 31 16 ≤ width → regBit s reg (i.val % 32) = !rising →
    ∃ t, exec (.gpioEdge i rising width) s = .next t ∧ regBit t reg (i.val % 32) = rising ∧
      (regBit s (0x1D4100 + 4 * i.val) (if rising = true then 0 else 1) = true → regBit s (srcCfgReg (192 + i.val)) 31 = true →
        regBit t (pendingReg (192 + i.val)) ((192 + i.val) % 32) = true) ∧
      (regBit s (0x1D4100 + 4 * i.val) (if rising = true then 0 else 1) = false → onlyChanges [.regs] s t) ∧
      onlyRegs [reg] s t ∧ onlyChanges [.regs, .pba, .out] s t))

/-- While the core runs: training sets RUN, or a failed channel raises TRAIN_FAIL, fatally, and ends the boot. A step of an open
window retrains the next channel and counts it; a channel whose interval has passed is retrained at once and raised; a drifting
channel is retrained once no real-time request waits. A refresh adds what has fallen due, is issued unless none is owed or
requests wait with fewer than 8 owed, REFRESH_LATE above 8, and an ended window clears the row table. An ACTIVATE opens and counts
its row, whose count starts again at RH_THRESH with a neighbour refresh; the random layer may add one, and a slot that real-time
leaves takes those that wait. A request that the arbiter gives no slot waits, else: link retries of a request are counted, at most
three. A read of good data does nothing else, a corrected one is counted, an uncorrectable one is counted, raised and delivered. A
write that cannot be sent poisons its granule and a whole write mends it. Scrub counts what it corrects or finds bad. -/
def Obligations.MemoryTrainsRefreshesAndCorrects : Prop :=
  (∀ (s : State) (failed : Option (Fin 24)), s.live = true → memRun s = false → s.flt.fatal = false → regField s 0x10 2 0 ≠ 4 →
    (failed = none →
      ∃ t, exec (.training failed) s = .next t ∧ memRun t = true ∧ regField t 0x10 2 0 = 2 ∧ t.sys.trained = true ∧
        (∀ c : Fin 24, (t.mem.chans[c]).lastStep = s.now ∧ (t.mem.chans[c]).owedAt = s.now) ∧ onlyRegs [memReg 0, 0x10] s t ∧
        onlyChanges [.regs, .mem, .sys] s t) ∧
    (∀ c, failed = some c →
      ∃ t, exec (.training failed) s = .next t ∧ memRun t = false ∧ regField t 0x10 2 0 = 4 ∧ t.flt.fatal = true ∧ raised t .mem 0 ∧
        raised t .flt 5 ∧ onlyRegs [0x10, 0x170080] s t ∧ onlyChanges reporting s t)) ∧
  (∀ (s : State) (c : Fin 24) (at_ w n : Nat) (r : List (Nat × Nat × Nat)), s.live = true →
    liveWindows s.now s.mem.windows = (at_, w, n) :: r → s.mem.busyUntil ≤ s.now → s.mem.next = c.val →
    ∃ t, exec .retrainingStep s = .next t ∧ (t.mem.chans[c]).lastStep = s.now ∧ (t.mem.chans[c]).stepEnd = s.now + 1000 ∧ t.mem.windows = (at_, w, n - 1) :: r ∧
      t.mem.next = (c.val + 1) % 24 ∧ t.mem.busyUntil = s.now + 1000 ∧
      regGet t (chanReg c.val 0x10) = satInc (regGet s (chanReg c.val 0x10)) ∧ (∀ d, d ≠ c → t.mem.chans[d] = s.mem.chans[d]) ∧
      onlyRegs [chanReg c.val 0x10] s t ∧ onlyChanges [.regs, .mem] s t) ∧
  (∀ (s : State) (c : Fin 24), s.live = true → memRun s = true →
    ((s.mem.chans[c]).lastStep + retrainNs s ≤ s.now →
      ∃ t, exec (.retrainForced c) s = .next t ∧ (t.mem.chans[c]).lastStep = s.now ∧ raised t .mem 1 ∧
        regGet t (chanReg c.val 0x14) = satInc (regGet s (chanReg c.val 0x14)) ∧
        regGet t (chanReg c.val 0x10) = satInc (regGet s (chanReg c.val 0x10)) ∧
        onlyRegs [chanReg c.val 0x14, chanReg c.val 0x10, 0x170080] s t ∧ onlyChanges (.mem :: reporting) s t) ∧
    (∃ t, exec (.phaseDrift c false) s = .next t ∧ (t.mem.chans[c]).lastStep = s.now ∧
      regGet t (chanReg c.val 0x10) = satInc (regGet s (chanReg c.val 0x10)) ∧ onlyRegs [chanReg c.val 0x10] s t ∧
      onlyChanges [.regs, .mem] s t) ∧
    (∃ t, exec (.phaseDrift c true) s = .next t ∧ (t.mem.chans[c]).drift = true ∧ (∀ d, d ≠ c → t.mem.chans[d] = s.mem.chans[d]) ∧
      onlyChanges [.mem] s t)) ∧
  (∀ (s : State) (c : Fin 24) (busy : Bool) (x : MemChan) (owed : Fin 16 → ℚ), s.live = true → memRun s = true → x = s.mem.chans[c] →
    (∀ b : Fin 16, owed b = owedNow s x b) →
    ∀ b : Fin 16, ∃ t, exec (.refresh c b busy) s = .next t ∧
      (t.mem.chans[c]).owed[b] = (if 1 ≤ owed b ∧ (busy = false ∨ 8 ≤ owed b) then owed b - 1 else owed b) ∧
      (∀ d : Fin 16, d ≠ b → (t.mem.chans[c]).owed[d] = owed d) ∧ (t.mem.chans[c]).owedAt = s.now ∧
      (refreshWindow s.thm.band ≤ s.now - x.winAt → (t.mem.chans[c]).table = []) ∧
      (s.now - x.winAt < refreshWindow s.thm.band → (t.mem.chans[c]).table = x.table) ∧
      ((∀ d : Fin 16, x.owed[d] ≤ 8) → (∃ d, 8 < owed d) → raised t .mem 5) ∧
      ((∀ d, owed d ≤ 8) → onlyChanges [.mem] s t) ∧ ((∃ d : Fin 16, 8 < x.owed[d]) → onlyChanges [.mem] s t) ∧
      onlyRegs [0x170080] s t ∧ onlyChanges (.mem :: reporting) s t) ∧
  (∀ (s : State) (c : Fin 24) (b : Fin 16) (r n : Nat) (x : MemChan) (l : List (Nat × Nat × Nat)), s.live = true → memRun s = true →
    x = s.mem.chans[c] → r < bankRows s → s.now - x.winAt < refreshWindow s.thm.band → tableHit x.table b.val r = (l, n) →
    ∃ t, exec (.activate c b r) s = .next t ∧ (t.mem.chans[c]).openRow[b] = some r ∧
      (n < rhThresh s → (t.mem.chans[c]).table = l ∧
        (regGet t (chanReg c.val 0xC) = regGet s (chanReg c.val 0xC) ∨
          regGet t (chanReg c.val 0xC) = satInc (regGet s (chanReg c.val 0xC)))) ∧
      (rhThresh s ≤ n → (∀ e ∈ (t.mem.chans[c]).table, e.1 = b.val → e.2.1 = r → e.2.2 = 0) ∧ (b.val, r) ∈ (t.mem.chans[c]).hammer ∧
        (regGet t (chanReg c.val 0xC) = satInc (regGet s (chanReg c.val 0xC)) ∨
          regGet t (chanReg c.val 0xC) = satInc (satInc (regGet s (chanReg c.val 0xC))))) ∧
      ((∀ d, owedNow s x d ≤ 8) → onlyRegs [chanReg c.val 0xC] s t ∧ onlyChanges [.free, .regs, .mem] s t) ∧
      (∀ d, d ≠ c → t.mem.chans[d] = s.mem.chans[d]) ∧ onlyRegs [chanReg c.val 0xC, 0x170080] s t ∧
      onlyChanges (.free :: .mem :: reporting) s t) ∧
  (∀ (s : State) (a fails : Nat) (ecc : Ecc) (u v : MemUser) (who : Option Client) (w : MemWait) (c : Nat), s.live = true → a < usable s →
    c = chanOf s a → v = (who.map (·.user)).getD u → slotGiven s a v w →
    ∃ t, exec (.memRead a fails ecc u who w) s = .next t ∧
      regGet t (chanReg c 8) = satAdd (regGet s (chanReg c 8)) (min fails 3) ∧
      (ecc = .good → isPoison s a = false → fails ≤ 4 →
        (fails ≤ 3 → onlyRegs [chanReg c 8] s t) ∧ onlyRegs [chanReg c 8, chanReg c 0x10] s t ∧ onlyChanges [.regs, .mem] s t) ∧
      (ecc = .corrected → isPoison s a = false → fails ≤ 4 →
        regGet t (chanReg c 0) = satInc (regGet s (chanReg c 0)) ∧ onlyRegs [chanReg c 0, chanReg c 8, chanReg c 0x10] s t ∧
        onlyChanges [.regs, .mem] s t) ∧
      (ecc = .uncorrectable ∨ isPoison s a = true ∨ 5 ≤ fails →
        regGet t (chanReg c 4) = satInc (regGet s (chanReg c 4)) ∧ raised t .mem 3 ∧ (5 ≤ fails → raised t .mem 2) ∧
        (who = none → onlyRegs [chanReg c 4, chanReg c 8, chanReg c 0x10, 0x170080] s t ∧ onlyChanges (.mem :: reporting) s t) ∧
        (∀ q tag off, who = some (.command q tag off) → t.fetchBad = .command q tag off :: s.fetchBad) ∧
        (∀ i, who = some (.galley i) → ∀ x ∈ t.gal.items, x.ident = i → x.corrupt = true))) ∧
  (∀ (s : State) (a fails : Nat) (ecc : Ecc) (u : MemUser) (w : MemWait) (x : MemChan), s.live = true → a < usable s →
    s.mem.chans.toList[chanOf s a]? = some x → chanFree s x →
    (granted s x (memClass u) w = false ∨ inTurn x (bankNo s a) (memRow a) w = false) →
    ∃ t, exec (.memRead a fails ecc u none w) s = .next t ∧ t.mem.poison = s.mem.poison ∧ onlyChanges [.mem] s t) ∧
  (∀ (s : State) (a fails : Nat) (whole : Bool) (u : MemUser) (w : MemWait) (c : Nat), s.live = true → a < usable s → c = chanOf s a →
    slotGiven s a u w →
    ∃ t, exec (.memWrite a whole fails u w) s = .next t ∧
      regGet t (chanReg c 8) = satAdd (regGet s (chanReg c 8)) (min fails 3) ∧
      (5 ≤ fails → isPoison t a = true ∧ raised t .mem 2) ∧ (fails ≤ 4 → whole = true → isPoison t a = false) ∧
      (fails ≤ 4 → whole = false → t.mem.poison = s.mem.poison) ∧
      (∀ g, g / 64 ≠ a / 64 → isPoison t g = isPoison s g) ∧ (fails ≤ 4 → onlyChanges [.regs, .mem] s t) ∧
      onlyRegs [chanReg c 8, chanReg c 0x10, 0x170080] s t ∧ onlyChanges (.mem :: reporting) s t) ∧
  (∀ (s : State) (a : Nat) (ecc : Ecc) (w : MemWait) (x : MemChan) (p : Nat × Nat) (r : Nat), s.live = true → a < usable s →
    s.mem.chans.toList[chanOf s a]? = some x → w.realTime = false → p ∈ x.hammer → r ∈ neighbours s p.2 →
    ∃ t, exec (.memScrub a ecc w) s = .next t ∧ .rowRefresh (chanOf s a) p.1 r ∈ t.out ∧
      (∀ y, t.mem.chans.toList[chanOf s a]? = some y → y.hammer = [])) ∧
  (∀ (s : State) (a c : Nat) (w : MemWait), s.live = true → a < usable s → c = chanOf s a → slotGiven s a .scrub w →
    (∀ ecc, ecc = .uncorrectable ∨ isPoison s a = true →
      ∃ t, exec (.memScrub a ecc w) s = .next t ∧ regGet t (chanReg c 4) = satInc (regGet s (chanReg c 4)) ∧ raised t .mem 4 ∧
        onlyRegs [chanReg c 4, 0x170080] s t ∧ onlyChanges (.mem :: reporting) s t) ∧
    (isPoison s a = false →
      (∃ t, exec (.memScrub a .corrected w) s = .next t ∧ regGet t (chanReg c 0) = satInc (regGet s (chanReg c 0)) ∧
        onlyRegs [chanReg c 0] s t ∧ onlyChanges [.regs, .mem] s t) ∧
      (∃ t, exec (.memScrub a .good w) s = .next t ∧ t.mem.poison = s.mem.poison ∧ onlyChanges [.mem] s t)))

/-- While the always-on domain runs, once its interval is over: a conversion keeps each sensor's value and register; a sensor bad
twice in a row is excluded and raised; TMAX is the highest value of the others; two values of it above 100 °C set TEMP_WARN; two
above 125 °C, or more than 8 sensors excluded, are a shutdown condition, which, while core power is on, sets the latch and drives
SYS_THERM_N low. An evaluation counts fast rises: two in a row above 20 °C/s are a shutdown condition, one above 5 °C/s sets
RATE_WARN. A supply sample is kept with its maximum; a second outside its limits warns. 2 ms after a shutdown condition core power
goes: everything but Colophon and its comparators is reset, and power is held off; it returns once sensor 27 has read below 90 °C
for 10 s. -/
def Obligations.ThermalConditionsAndShutdown : Prop :=
  (∀ (s : State) (v : Vector (Option Int) 28), s.sys.aon = true → aonDue s s.thm.convAt 1000000 = true →
    ∃ t, exec (.tempConversion v) s = .next t ∧ t.thm.convAt = s.now ∧
      (∀ i : Fin 28, (t.thm.sensors[i]).hist = (v[i] :: (s.thm.sensors[i]).hist).take 101 ∧
        (∀ x, v[i] = some x →
          regGet t (thmReg (0x100 + 8 * i.val)) = BitVec.ofNat 32 (unsigned 16 x) &&& maskOf (thmReg (0x100 + 8 * i.val))) ∧
        (badReading v[i] = true → (∃ a r, (s.thm.sensors[i]).hist = a :: r ∧ badReading a = true) →
          (t.thm.sensors[i]).excluded = true ∧ ((s.thm.sensors[i]).excluded = false → raised t .thm 4)) ∧
        (badReading v[i] = false → (t.thm.sensors[i]).excluded = (s.thm.sensors[i]).excluded)) ∧
      (∀ j m, hottest t = some (j, m) → t.thm.lastMax = some m ∧
        (∀ t0, s.thm.lastMax = some t0 → 1600 < t0 → 1600 < m → t.thm.warn = true ∧ (s.thm.warn = false → raised t .thm 0)) ∧
        (∀ t0, s.thm.lastMax = some t0 → 2000 < t0 → 2000 < m → s.thm.shutAt = none → s.sys.pwrEn = true →
          t.thm.shutAt = some s.now ∧ .pin .sysThermN false ∈ t.out ∧ regBit t (thmReg 4) 31 = true)) ∧
      (8 < (t.thm.sensors.toList.filter fun x => x.excluded).length → s.thm.shutAt = none → s.sys.pwrEn = true →
        t.thm.shutAt = some s.now ∧ .pin .sysThermN false ∈ t.out ∧ regBit t (thmReg 4) 31 = true) ∧
      onlyChanges (.thm :: .mem :: .mag :: .ing :: .free :: reporting) s t) ∧
  (∀ (s : State), s.sys.aon = true → aonDue s s.thm.rateAt 10000000 = true →
    ∃ t, exec .rateEvaluation s = .next t ∧ t.thm.rateAt = s.now ∧
      (∀ i : Fin 28, (t.thm.sensors[i]).fast = (if (s.thm.sensors[i]).excluded = false ∧
        (rateOfSensor s.thm.sensors[i]).any (fun r => decide (320 < r)) = true then (s.thm.sensors[i]).fast + 1 else 0)) ∧
      (∀ i : Fin 28, (s.thm.sensors[i]).excluded = false → ∀ r, rateOfSensor s.thm.sensors[i] = some r → 80 < r →
        t.thm.rateWarn = true ∧ (s.thm.rateWarn = false → raised t .thm 1)) ∧
      (∀ i : Fin 28, 2 ≤ (t.thm.sensors[i]).fast → s.thm.shutAt = none → s.sys.pwrEn = true →
        t.thm.shutAt = some s.now ∧ .pin .sysThermN false ∈ t.out ∧ regBit t (thmReg 4) 31 = true) ∧
      onlyChanges (.thm :: .mag :: .free :: reporting) s t) ∧
  (∀ (s : State) (m : Fin 14) (v : BitVec 16) (lim : Word), s.sys.aon = true → aonDue s s.thm.sampleAt[m] 1000000 = true →
    lim = regGet s (thmReg (0x300 + 4 * m.val)) →
    ∃ t, exec (.supplySample m v) s = .next t ∧ t.thm.sampleAt[m] = s.now ∧
      regGet t (thmReg (0x200 + 8 * m.val)) = v.setWidth 32 &&& maskOf (thmReg (0x200 + 8 * m.val)) ∧
      ((regGet s (thmReg (0x204 + 8 * m.val))).toNat < v.toNat →
        regGet t (thmReg (0x204 + 8 * m.val)) = v.setWidth 32 &&& maskOf (thmReg (0x204 + 8 * m.val))) ∧
      (field lim 31 16 < v.toNat ∨ (field lim 15 0 ≠ 0 ∧ v.toNat < field lim 15 0) →
        (t.thm.monitors[m]).outRun = (s.thm.monitors[m]).outRun + 1 ∧
        (1 ≤ (s.thm.monitors[m]).outRun → (t.thm.monitors[m]).warned = true ∧ ((s.thm.monitors[m]).warned = false → raised t .thm 3))) ∧
      (v.toNat ≤ field lim 31 16 → (field lim 15 0 = 0 ∨ field lim 15 0 ≤ v.toNat) →
        (t.thm.monitors[m]).outRun = 0 ∧ (t.thm.monitors[m]).okSince = some ((s.thm.monitors[m]).okSince.getD s.now) ∧
        onlyChanges [.thm, .regs] s t) ∧
      onlyRegs [thmReg (0x200 + 8 * m.val), thmReg (0x204 + 8 * m.val), thmReg 0x40] s t ∧ onlyChanges (.thm :: reporting) s t) ∧
  (∀ (s : State) (at_ : Nat), s.sys.aon = true → s.thm.shutAt = some at_ → aonDue s at_ 2000000 = true →
    ∃ t, exec .thermalCorePowerOff s = .next t ∧ t.sys.pwrEn = false ∧ t.sys.pg = false ∧ t.live = false ∧ t.sys.cause = 3 ∧
      t.sys.downAt = none ∧ t.thm = { s.thm with hot := true, shutAt := none } ∧ t.mgt.log = s.mgt.log ∧ t.mgt.slots = s.mgt.slots ∧
      .pin .corePwrEn false ∈ t.out ∧ t.hq = State.reset.hq ∧ t.mbx = State.reset.mbx ∧ t.frm = State.reset.frm ∧
      (∀ j, aonKeeps j = true → regGet t j = regGet s j) ∧ (∀ j, aonKeeps j = false → regGet t j = resetOf j)) ∧
  (∀ (s : State) (at_ : Nat), colServes s = true → s.thm.coolSince = some at_ → s.thm.hot = true → aonDue s at_ 10000000000 = true →
    s.sys.pwrEn = false → s.sys.gaveUp = false →
    ∃ t, exec .cooldown s = .next t ∧ t.sys.pwrEn = true ∧ t.sys.enAt = s.now ∧ t.thm.hot = false ∧ .pin .corePwrEn true ∈ t.out ∧
      t.mgt.bootCount = s.mgt.bootCount + 1 ∧ onlyChanges [.thm, .sys, .out, .mgt] s t)

/-- An always-on reset takes straps and flash, resets everything else, and raises core power unless no Colophon image passes or
the newest shutdown or boot entry is a shutdown. Core power that comes good starts the PLL lock; 2 ms later the core reset is
released, with cause and memory size. Core power that does not come within 60 ms is dropped and logged, and tried again up to
three times; lost power drops the core, and returns after 100 ms. With training done, Fjarera becomes ready when one of its images
passes, which raises SYS_READY; else the boot ends. A keyed write of SYS.RESET_CTL by the PF resets the core and releases it with
cause 4, Colophon and a fatal state kept; any other is refused and counted. A monitor declares a clock lost at its second bad
window, and back at the tenth good one. -/
def Obligations.StartUpAndResets : Prop :=
  (∀ (s : State) (groupA : Bool) (straps : BitVec 6) (f : Flash),
    ∃ t, exec (.aonReset groupA straps f) s = .next t ∧ t.live = false ∧ t.sys.aon = true ∧ t.sys.cause = (if groupA = true then 1 else 2) ∧
      regGet t 0x18 = straps.setWidth 32 &&& maskOf 0x18 ∧ t.sys.config = f.config ∧ t.mgt.fuses = f.fuses ∧
      (t.mgt.dead = true ∨ t.thm.hot = true ∨ (t.sys.pwrEn = true ∧ .pin .corePwrEn true ∈ t.out)) ∧
      (∀ e, newestOf (logFound f.log) [0x03, 0x05] = some e → e.ty = 0x03 → (logFound f.log).length < 8192 → t.sys.pwrEn = false) ∧
      t.frm = State.reset.frm ∧ t.ref = State.reset.ref ∧ t.hq = State.reset.hq ∧ t.mbx = State.reset.mbx ∧ t.flt = State.reset.flt ∧
      t.per = State.reset.per ∧ t.mem = State.reset.mem ∧ t.mag.vol = none ∧ t.pending = s.pending ∧ t.now = s.now) ∧
  (∀ (s : State), s.sys.aon = true → s.sys.pwrEn = true →
    (s.sys.pg = false →
      ∃ t, exec .corePg s = .next t ∧ t.sys = { s.sys with pg := true, pgAt := s.now, attempts := 0 } ∧ onlyChanges [.sys] s t) ∧
    (s.sys.pg = true → s.live = false → s.sys.pgAt + 2000000 ≤ s.now →
      ∃ t, exec .coreResetRelease s = .next t ∧ t.live = true ∧ t.coreAt = s.now ∧ regGet t 0x10 = 1 ∧
        regGet t 0x14 = BitVec.ofNat 32 s.sys.cause &&& maskOf 0x14 ∧
        regField t 0x170000 15 0 = (if regBit s 0x18 0 = true then 46080 else 23040) ∧ memRun t = false ∧
        (∀ m, hottest s = some m → t.thm.band = bandOf m.2) ∧
        onlyChanges (.live :: .coreAt :: .thm :: .mem :: .ing :: .free :: reporting) s t) ∧
    (s.sys.pg = true →
      ∃ t, exec .coreSupplyLoss s = .next t ∧ t.sys.pwrEn = false ∧ t.sys.pg = false ∧ t.live = false ∧ t.sys.cause = 5 ∧
        t.sys.downAt = some s.now ∧ .pin .corePwrEn false ∈ t.out ∧ t.mgt.log = s.mgt.log ∧
        (∀ j, aonKeeps j = true → regGet t j = regGet s j) ∧ (∀ j, aonKeeps j = false → regGet t j = resetOf j)) ∧
    (colServes s = true → s.sys.pg = false → aonDue s s.sys.enAt 60000000 = true →
      ∃ t, exec .corePgTimeout s = .next t ∧ t.sys.pwrEn = false ∧ t.sys.attempts = s.sys.attempts + 1 ∧
        t.sys.gaveUp = decide (3 ≤ s.sys.attempts + 1) ∧ t.sys.downAt = (if s.sys.attempts + 1 < 3 then some s.now else none) ∧
        .pin .corePwrEn false ∈ t.out ∧ t.mgt.log.getLast?.map (·.ty) = some 0x01 ∧ t.mgt.logSeq = s.mgt.logSeq + 1)) ∧
  (∀ (s : State) (at_ : Nat), colServes s = true → s.sys.downAt = some at_ → aonDue s at_ 100000000 = true → s.sys.gaveUp = false →
    s.thm.hot = false →
    ∃ t, exec .coreRestart s = .next t ∧ t.sys = { s.sys with pwrEn := true, enAt := s.now, downAt := none } ∧
      t.out = .pin .corePwrEn true :: s.out ∧ t.mgt.bootCount = s.mgt.bootCount + 1 ∧ onlyChanges [.sys, .out, .mgt] s t) ∧
  (∀ (s : State), s.live = true → s.sys.trained = true → s.sys.ready = false → regField s 0x10 2 0 = 2 →
    (slotAt s 2 (1 - activeSlot s 2)).pending = false →
    ∃ t, exec .readiness s = .next t ∧
      ((slotPasses s 2 0 || slotPasses s 2 1) = true → t.sys.ready = true ∧ regField t 0x10 2 0 = 3 ∧ .pin .sysReady true ∈ t.out) ∧
      ((slotPasses s 2 0 || slotPasses s 2 1) = false → t.sys.ready = false ∧ regField t 0x10 2 0 = 4) ∧
      onlyChanges (.sys :: .mag :: .mbx :: .per :: reporting) s t) ∧
  (∀ (s : State) (v : Word), s.live = true →
    (field v 31 16 = 0x5EC7 → bit v 0 = true →
      ∃ t, exec (.deviceReset .pf v) s = .next t ∧ t.live = true ∧ t.coreAt = s.now ∧ regGet t 0x10 = 1 ∧ regGet t 0x14 = 4 ∧
        t.sys.ready = false ∧ t.sys.pwrEn = s.sys.pwrEn ∧ t.flt.fatal = s.flt.fatal ∧ t.hq = State.reset.hq ∧ t.mbx = State.reset.mbx ∧
        t.frm = State.reset.frm ∧ t.ref = State.reset.ref ∧ t.mgt.slots = s.mgt.slots ∧
        (∀ j, outsideFlt j → aonKeeps j = false → j ≠ 0x10 → j ≠ 0x14 → j ≠ 0x170000 → ¬ (0x170010 ≤ j ∧ j < 0x170028) →
          regGet t j = resetOf j)) ∧
    (∀ p, (p = .pf ∧ ¬ (field v 31 16 = 0x5EC7 ∧ bit v 0 = true)) ∨ p = .fjarera ∨ (∃ u, p = .user u) →
      ∃ t, exec (.deviceReset p v) s = .next t ∧ regGet t badAccessReg = satInc (regGet s badAccessReg) ∧
        onlyRegs [badAccessReg] s t ∧ onlyChanges [.regs] s t)) ∧
  (∀ (s : State) (v : Vector (Option Int) 5), s.live = true → s.sys.clkAt + 1000000 ≤ s.now →
    ∃ t, exec (.clockMonitorWindow v) s = .next t ∧ t.sys.clkAt = s.now ∧
      (∀ i : Fin 5, v[i] = none → (s.sys.clocks[i]).lost = false → 1 ≤ (s.sys.clocks[i]).bad →
        (t.sys.clocks[i]).lost = true ∧ regBit t 0x20 i.val = true ∧ raised t .sys 0 ∧ (i.val = 1 → t.flt.fatal = true)) ∧
      (∀ i : Fin 5, ∀ d, v[i] = some d → -200 ≤ d → d ≤ 200 →
        (t.sys.clocks[i]).bad = 0 ∧ (t.sys.clocks[i]).good = (s.sys.clocks[i]).good + 1 ∧
        ((s.sys.clocks[i]).lost = false → (t.sys.clocks[i]).lost = false) ∧
        ((s.sys.clocks[i]).lost = true → 9 ≤ (s.sys.clocks[i]).good →
          (t.sys.clocks[i]).lost = false ∧ regBit t 0x20 i.val = false ∧ raised t .sys 1)) ∧
      ((∀ i : Fin 5, (s.sys.clocks[i]).lost = false ∧ ∃ d, v[i] = some d ∧ -1000 ≤ d ∧ d ≤ 1000) →
        onlyRegs [0x20] s t ∧ onlyChanges [.sys, .regs] s t))

/-- While Colophon serves: a second that has ended persists up to 16 received records and sums up the rest. A side-band write with
a good PEC clears events or sets a limit or the window's argument, never the latch; with a bad one it does nothing. A read address
is kept, a read returns that register; an offset that is not aligned reads zero, changes nothing and is counted. ENTDAA gives the
port its address. MCTP and PLDM messages are answered on their path: endpoint ID, versions, types, event receiver, sensor
readings; a part of an image is kept, the last one is checked, and a window transfer refuses it. READ_LOG and WRITE_IMAGE open a
window, the latter refused while a transfer is open elsewhere; DW_DATA moves one word or is refused; FINISH checks the image into
the inactive slot; ABORT ends any operation. An image on trial that is healthy ends its trial and raises the fuse counter; one
that is not starts again, or after three starts the other slot does. A watchdog timeout or trap restarts the processor within 200
ms and aborts transfers. -/
def Obligations.ColophonLogWindowsAndSideBand : Prop :=
  (∀ (s : State) (fresh : List RecCopy), colServes s = true → aonDue s s.mgt.secondAt 1000000000 = true →
    fresh = s.mgt.incoming.filter (fun c => !c.merged) →
    ∃ t, exec .logSecond s = .next t ∧ t.mgt.incoming = [] ∧ t.mgt.secondAt = s.now ∧
      (fresh.length ≤ 16 → t.mgt.logSeq = s.mgt.logSeq + fresh.length ∧ (∀ e ∈ t.mgt.log, e ∈ s.mgt.log ∨ e.ty = 0x01)) ∧
      (16 < fresh.length → s.mgt.logSeq + 16 < t.mgt.logSeq ∧ t.mgt.carry = [] ∧
        (∀ e ∈ t.mgt.log, e ∈ s.mgt.log ∨ e.ty = 0x01 ∨ e.ty = 0x02)) ∧ onlyChanges [.mgt] s t) ∧
  (∀ (s : State) (i3c : Bool) (blk : Byte) (off : BitVec 16) (v : Word) (w : Fin 3), colServes s = true →
    (i3c = true → s.mgt.i3cAddr.isSome = true) → w = winOf (sideParty i3c) →
    (∃ t, exec (.sidebandWrite i3c false blk off v) s = .next t ∧ onlyChanges [] s t) ∧
    (off.toNat % 4 ≠ 0 →
      ∃ t, exec (.sidebandWrite i3c true blk off v) s = .next t ∧ (s.live = false → onlyChanges [] s t) ∧
        (s.live = true → regGet t badAccessReg = satInc (regGet s badAccessReg)) ∧ onlyRegs [badAccessReg] s t ∧ onlyChanges [.regs] s t) ∧
    (off.toNat % 4 = 0 → ∃ t, exec (.sidebandWrite i3c true blk off v) s = .next t ∧
      (blk = 0x1B → off = 0x40 → regGet t (thmReg 0x40) = regGet s (thmReg 0x40) &&& ~~~v &&& maskOf (thmReg 0x40) ∧
        onlyRegs [thmReg 0x40] s t ∧ onlyChanges [.regs] s t) ∧
      (blk = 0x1B → 0x300 ≤ off.toNat → off.toNat < 0x338 → off.toNat % 4 = 0 →
        regGet t (thmReg off.toNat) = v &&& maskOf (thmReg off.toNat) ∧ onlyRegs [thmReg off.toNat] s t ∧ onlyChanges [.regs] s t) ∧
      (blk = 0x1B → off = 4 ∨ off = 8 → onlyChanges [] s t) ∧
      (blk = 0x1B → s.live = true → isFs (thmReg off.toNat) = true →
        regGet t 0x20014 = satInc (regGet s 0x20014) &&& maskOf 0x20014 ∧ onlyRegs [0x20014] s t ∧ onlyChanges [.regs] s t) ∧
      (blk = 0x1C → off = 4 → (t.mgt.wins[w]).arg = v ∧ onlyChanges [.mgt] s t)) ∧
    (∃ t, exec (.sidebandReadAddress i3c true blk off) s = .next t ∧ (t.mgt.wins[w]).readAt = some (blk.toNat, off.toNat) ∧
      (∀ k, k ≠ w → t.mgt.wins[k] = s.mgt.wins[k]) ∧ onlyChanges [.mgt] s t) ∧
    (∀ b o x u, (s.mgt.wins[w]).readAt = some (b, o) → (if o % 4 = 0 then mgtRead s w b o 0 else (0, sideBad s)) = (x, u) →
      ∃ t, exec (.sidebandRead i3c true) s = .next t ∧ t.out = .sideband (sideParty i3c) (leBytes 4 x.toNat) :: s.out ∧
        (b = 0x1B → o < 0x10000 → o % 4 = 0 → o ≠ 0 → x = regGet s (thmReg o) ∧
          (thmReadClears o = true → regGet t (thmReg o) = resetOf (thmReg o) &&& maskOf (thmReg o)) ∧
          (thmReadClears o = false → onlyChanges [.out] s t)) ∧
        (o % 4 ≠ 0 → x = 0 ∧ (s.live = true → regGet t badAccessReg = satInc (regGet s badAccessReg)) ∧ onlyRegs [badAccessReg] s t) ∧
        (b = 0x1B → o = 0 → x = thmState s ∧ onlyChanges [.out] s t) ∧
        (b = 0x1C → o = 0x14 → x = BitVec.ofNat 32 s.mgt.logSeq ∧ onlyChanges [.out] s t) ∧
        onlyChanges [.out, .regs, .mgt, .free] s t)) ∧
  (∀ (s : State) (addr : BitVec 7), s.sys.aon = true →
    ∃ t, exec (.entdaa addr) s = .next t ∧ t.mgt = { s.mgt with i3cAddr := some addr.toNat } ∧ onlyChanges [.mgt] s t) ∧
  (∀ (s : State) (pcie : Bool) (p : Party), colServes s = true → mctpPath s pcie = true → p = mctpParty pcie →
    (∀ eid : Byte, (eid ≠ 0 → eid ≠ 0xFF →
        ∃ t, exec (.setEndpointId pcie true eid) s = .next t ∧ t.mgt = { s.mgt with eid := eid.toNat } ∧
          t.out = .sideband p [0, 0, eid, 0] :: s.out ∧ onlyChanges [.mgt, .out] s t) ∧
      (eid = 0 ∨ eid = 0xFF →
        ∃ t, exec (.setEndpointId pcie true eid) s = .next t ∧
          t.out = .sideband p [0x02, 0, BitVec.ofNat 8 s.mgt.eid, 0] :: s.out ∧ onlyChanges [.out] s t)) ∧
    (∃ t, exec (.getEndpointId pcie true) s = .next t ∧ t.out = .sideband p [0, BitVec.ofNat 8 s.mgt.eid, 0, 0] :: s.out ∧
      onlyChanges [.out] s t) ∧
    (∀ ty : Byte, (ty = 0 ∨ ty = 1 ∨ ty = 0xFF →
        ∃ t l, exec (.getMctpVersionSupport pcie true ty) s = .next t ∧ l.length = 4 ∧ t.out = .sideband p ([0, 1] ++ l) :: s.out ∧
          onlyChanges [.free, .out] s t) ∧
      (ty ≠ 0 → ty ≠ 1 → ty ≠ 0xFF →
        ∃ t, exec (.getMctpVersionSupport pcie true ty) s = .next t ∧ t.out = .sideband p [0x80] :: s.out ∧ onlyChanges [.out] s t)) ∧
    (∃ t, exec (.getMessageTypeSupport pcie true) s = .next t ∧ t.out = .sideband p [0, 2, 0, 1] :: s.out ∧ onlyChanges [.out] s t) ∧
    (∀ a, ∃ t, exec (.setEventReceiver pcie true a) s = .next t ∧ t.mgt = { s.mgt with receiver := a.map fun x => (p, x) } ∧
      t.out = .sideband p [0] :: s.out ∧ onlyChanges [.mgt, .out] s t) ∧
    (∀ id, 1 ≤ id → id ≤ 28 →
      (∃ t, exec (.pldmPlatformMonitoring pcie true id false) s = .next t ∧
        t.out = .sideband p ([0] ++ leBytes 2 (regField s (thmReg (0x100 + 8 * (id - 1))) 15 0)) :: s.out ∧ onlyChanges [.out] s t) ∧
      (∃ t, exec (.pldmPlatformMonitoring pcie true id true) s = .next t ∧
        t.out = .sideband p ([0] ++ leBytes 2 1600 ++ leBytes 2 2000) :: s.out ∧ onlyChanges [.out] s t)) ∧
    (∀ id, 29 ≤ id → id ≤ 42 →
      ∃ t, exec (.pldmPlatformMonitoring pcie true id false) s = .next t ∧
        t.out = .sideband p ([0] ++ leBytes 2 (regField s (thmReg (0x200 + 8 * (id - 29))) 15 0)) :: s.out ∧ onlyChanges [.out] s t) ∧
    (∀ (comp : BitVec 16) (part sofar : List Byte), sofar = (s.mgt.pldm.filter fun x => decide (x.1 = comp.toNat)).elim [] (·.2) →
      ((∃ k : Fin 3, (s.mgt.wins[k]).op = 2) →
        ∃ t, exec (.pldmFirmwareUpdate pcie true comp part false) s = .next t ∧ t.out = .sideband p [0x8A] :: s.out ∧
          onlyChanges [.out] s t) ∧
      ((∀ k : Fin 3, (s.mgt.wins[k]).op ≠ 2) →
        (∃ t, exec (.pldmFirmwareUpdate pcie true comp part false) s = .next t ∧ t.mgt.pldm = some (comp.toNat, sofar ++ part) ∧
          t.out = .sideband p [0] :: s.out ∧ onlyChanges [.mgt, .out] s t) ∧
        (comp = 1 ∨ comp = 2 →
          ∃ t, exec (.pldmFirmwareUpdate pcie true comp part true) s = .next t ∧ t.mgt.pldm = none ∧
            (slotAt t comp.toNat (1 - activeSlot s comp.toNat)).valid = imgAccepted s comp.toNat (sofar ++ part) ∧
            .sideband p [if imgAccepted s comp.toNat (sofar ++ part) = true then 0 else 1] ∈ t.out ∧ onlyChanges reporting s t)))) ∧
  (∀ (s : State) (p : Party) (w : Fin 3) (x : DwWin) (v : Word), colServes s = true →
    (p = .smbus ∨ (p = .i3c ∧ s.mgt.i3cAddr.isSome = true) ∨ (p = .pf ∧ s.live = true)) → w = winOf p → x = s.mgt.wins[w] →
    (bit v 31 = true → x.state ≠ 1 →
      (field v 27 24 = 1 →
        ∃ t y, exec (.readLog p v) s = .next t ∧ t.mgt.wins = s.mgt.wins.set w y ∧ y.op = 1 ∧ y.state = 2 ∧ y.moved = 0 ∧
          y.first = max x.arg.toNat (oldestLog s) ∧ onlyChanges [.mgt] s t) ∧
      (field v 27 24 = 2 → (∀ k : Fin 3, k ≠ w → (s.mgt.wins[k]).op ≠ 2) → s.mgt.pldm = none →
        ∃ t y, exec (.writeImage p v) s = .next t ∧ t.mgt.wins = s.mgt.wins.set w y ∧ y.op = 2 ∧ y.state = 2 ∧ y.data = [] ∧
          onlyChanges [.mgt] s t) ∧
      (field v 27 24 = 2 → s.mgt.pldm.isSome = true ∨ (∃ k : Fin 3, k ≠ w ∧ (s.mgt.wins[k]).op = 2) →
        ∃ t y, exec (.writeImage p v) s = .next t ∧ t.mgt.wins = s.mgt.wins.set w y ∧ y.op = x.op ∧ y.state = 3 ∧ y.code = 3 ∧
          onlyChanges [.mgt] s t) ∧
      (field v 27 24 = 3 → x.op = 2 → (field x.arg 15 0 = 1 ∨ field x.arg 15 0 = 2) →
        ∃ t, exec (.finish p v) s = .next t ∧ (t.mgt.wins[w]).op = 0 ∧ (t.mgt.wins[w]).state = 0 ∧
          (slotAt t (field x.arg 15 0) (1 - activeSlot s (field x.arg 15 0))).valid = imgAccepted s (field x.arg 15 0) x.data ∧
          raised t .mgt (if imgAccepted s (field x.arg 15 0) x.data = true then 0 else 1) ∧ onlyChanges reporting s t) ∧
      (field v 27 24 = 3 → x.op ≠ 2 → ∃ t, exec (.finish p v) s = .next t ∧ onlyChanges [] s t) ∧
      (field v 27 24 = 4 →
        ∃ t y, exec (.abort p v) s = .next t ∧ t.mgt.wins = s.mgt.wins.set w y ∧ y.op = 0 ∧ y.state = 0 ∧ y.data = [] ∧
          onlyChanges [.mgt] s t)) ∧
    (x.op = 2 → ∃ t y, exec (.dwData p (some v)) s = .next t ∧ t.mgt.wins = s.mgt.wins.set w y ∧ y.op = 2 ∧
      y.data = x.data ++ leBytes 4 v.toNat ∧ y.moved = x.moved + 1 ∧ onlyChanges [.mgt] s t) ∧
    (x.op = 1 → ∃ t y, exec (.dwData p (some v)) s = .next t ∧ t.mgt.wins = s.mgt.wins.set w y ∧ y.state = 3 ∧ y.code = 2 ∧
      onlyChanges [.mgt] s t) ∧
    (∀ e, x.op = 1 → (s.mgt.log.find? fun e => decide (e.seq = x.first + x.moved / 16)) = some e →
      ∃ t y, exec (.dwData p none) s = .next t ∧ t.mgt.wins = s.mgt.wins.set w y ∧ y.moved = x.moved + 1 ∧
        t.out = .readData p (mgtReg 8) (BitVec.ofNat 32 (leAt e.bytes (4 * (x.moved % 16)) 4)) :: s.out ∧
        onlyChanges [.mgt, .out] s t) ∧
    (x.op = 2 → ∃ t y, exec (.dwData p none) s = .next t ∧ t.mgt.wins = s.mgt.wins.set w y ∧ y.state = 3 ∧ y.code = 2 ∧
      t.out = .readData p (mgtReg 8) 0 :: s.out ∧ onlyChanges [.mgt, .out] s t) ∧
    (x.op = 0 → ∃ t, exec (.dwData p none) s = .next t ∧ t.out = .readData p (mgtReg 8) 0 :: s.out ∧ onlyChanges [.out] s t)) ∧
  (∀ (s : State) (fjarera : Bool) (c at_ k : Nat), s.sys.aon = true → c = (if fjarera = true then 2 else 1) →
    s.mgt.health.toList.getD (c - 1) none = some at_ → k = s.mgt.booted.toList.getD (c - 1) 0 → k ≤ 1 →
    (∃ t, exec (.healthTimeout fjarera true) s = .next t ∧ (slotAt t c k).healthy = true ∧ (slotAt t c k).starts = 0 ∧
      fuseOf t c = max (fuseOf s c) (imgSvn (slotAt s c k).image) ∧ t.mgt.health.toList.getD (c - 1) none = none ∧
      onlyChanges [.mgt] s t) ∧
    (aonDue s at_ 5000000000 = true → (slotAt s c k).healthy = false → (slotAt s c k).starts < 3 →
      ∃ t, exec (.healthTimeout fjarera false) s = .next t ∧ (slotAt t c k).starts = (slotAt s c k).starts + 1 ∧
        t.mgt.health.toList.getD (c - 1) none = some s.now ∧ (c = 1 → t.mgt.restart.isSome = true) ∧
        onlyChanges (.free :: reporting) s t) ∧
    (aonDue s at_ 5000000000 = true → 3 ≤ (slotAt s c k).starts →
      ∃ t, exec (.healthTimeout fjarera false) s = .next t ∧ activeSlot t c = 1 - k ∧ t.mgt.booted.toList.getD (c - 1) 0 = 1 - k ∧
        (c = 1 → t.mgt.restart.isSome = true) ∧ onlyChanges (.free :: reporting) s t)) ∧
  (∀ (s : State) (trap : Bool), colServes s = true →
    ∃ t til, exec (.watchdog trap) s = .next t ∧ t.mgt.restart = some (til, if trap = true then 2 else 0) ∧ s.now ≤ til ∧
      til ≤ s.now + 200000000 ∧ raised t .mgt 2 ∧ t.mgt.pldm = none ∧ (∀ w : Fin 3, (t.mgt.wins[w]).op ≠ 2) ∧
      t.mgt.log = s.mgt.log ∧ onlyChanges (.free :: reporting) s t)
end

