-- ==== Sys2Proof/Laws/Sparse.lean ====
section
/-! SUPPORT. Sparse maps: what a read gives after a change, and that every operation keeps the canonical form. -/

namespace Sys2Proof.Machine
open Sys2Proof

variable {α : Type}

theorem mGet_mPut (m : SMap α) (i j : Nat) (x : α) : mGet (mPut m i x) j = if j = i then some x else mGet m j := by
  induction m with
  | nil => simp [mPut, mGet]
  | cons p r ih =>
    obtain ⟨k, v⟩ := p
    unfold mPut
    split
    · simp [mGet]
    · split
      · subst_vars; simp only [mGet]; split <;> rfl
      · simp only [mGet, ih]; split
        · subst_vars; rw [if_neg]; omega
        · rfl

theorem mGet_mDel (m : SMap α) (i j : Nat) : mGet (mDel m i) j = if j = i then none else mGet m j := by
  induction m with
  | nil => simp [mDel, mGet]
  | cons p r ih =>
    obtain ⟨k, v⟩ := p
    unfold mDel
    split
    · subst_vars; rw [ih]; simp only [mGet]; split <;> rfl
    · simp only [mGet, ih]; split
      · subst_vars; rw [if_neg]; omega
      · rfl

/-- A bound below the bound of a rising map is a bound of it. -/
theorem mRising_weaken (m : SMap α) (a b : Nat) (h : a ≤ b) (hm : mRising (some b) m = true) : mRising (some a) m = true := by
  cases m with
  | nil => rfl
  | cons p r =>
    obtain ⟨k, v⟩ := p
    simp only [mRising, Bool.and_eq_true, decide_eq_true_eq] at hm ⊢
    exact ⟨by omega, hm.2⟩

theorem mRising_none (m : SMap α) (b : Nat) (hm : mRising (some b) m = true) : mRising none m = true := by
  cases m with
  | nil => rfl
  | cons p r =>
    obtain ⟨k, v⟩ := p
    simp only [mRising, Bool.and_eq_true] at hm ⊢
    exact hm.2

theorem mRising_mPut_some (m : SMap α) (b i : Nat) (x : α) (hb : b < i) (hm : mRising (some b) m = true) :
    mRising (some b) (mPut m i x) = true := by
  induction m generalizing b with
  | nil => simpa [mPut, mRising] using hb
  | cons p r ih =>
    obtain ⟨k, v⟩ := p
    simp only [mRising, Bool.and_eq_true, decide_eq_true_eq] at hm
    unfold mPut
    split
    · simp_all [mRising]
    · split
      · subst_vars; simp_all [mRising]
      · simp only [mRising, Bool.and_eq_true, decide_eq_true_eq]
        exact ⟨hm.1, ih k (by omega) hm.2⟩

/-- A put keeps the canonical form. -/
theorem mRising_mPut (m : SMap α) (i : Nat) (x : α) (hm : mRising none m = true) : mRising none (mPut m i x) = true := by
  cases m with
  | nil => rfl
  | cons p r =>
    obtain ⟨k, v⟩ := p
    simp only [mRising] at hm
    unfold mPut
    split
    · simp_all [mRising]
    · split
      · subst_vars; simpa [mRising] using hm
      · simpa [mRising] using mRising_mPut_some r k i x (by omega) hm

theorem mRising_mDel_some (m : SMap α) (b i : Nat) (hm : mRising (some b) m = true) : mRising (some b) (mDel m i) = true := by
  induction m generalizing b with
  | nil => rfl
  | cons p r ih =>
    obtain ⟨k, v⟩ := p
    simp only [mRising, Bool.and_eq_true, decide_eq_true_eq] at hm
    unfold mDel
    split
    · exact mRising_weaken _ b k (by omega) (ih k hm.2)
    · simp only [mRising, Bool.and_eq_true, decide_eq_true_eq]
      exact ⟨hm.1, ih k hm.2⟩

/-- A deletion keeps the canonical form. -/
theorem mRising_mDel (m : SMap α) (i : Nat) (hm : mRising none m = true) : mRising none (mDel m i) = true := by
  cases m with
  | nil => rfl
  | cons p r =>
    obtain ⟨k, v⟩ := p
    simp only [mRising] at hm
    unfold mDel
    split
    · exact mRising_none _ k (mRising_mDel_some r k i hm)
    · simpa [mRising] using mRising_mDel_some r k i hm

theorem mDel_all (m : SMap α) (i : Nat) (f : Nat × α → Bool) (hm : m.all f = true) : (mDel m i).all f = true := by
  induction m with
  | nil => rfl
  | cons p r ih =>
    obtain ⟨k, v⟩ := p
    simp only [List.all_cons, Bool.and_eq_true] at hm
    unfold mDel
    split
    · exact ih hm.2
    · simp only [List.all_cons, Bool.and_eq_true]; exact ⟨hm.1, ih hm.2⟩

theorem mPut_all (m : SMap α) (i : Nat) (x : α) (f : Nat × α → Bool) (hx : f (i, x) = true) (hm : m.all f = true) :
    (mPut m i x).all f = true := by
  induction m with
  | nil => simpa [mPut] using hx
  | cons p r ih =>
    obtain ⟨k, v⟩ := p
    simp only [List.all_cons, Bool.and_eq_true] at hm
    unfold mPut
    split
    · simp only [List.all_cons, Bool.and_eq_true]; exact ⟨hx, hm.1, hm.2⟩
    · split
      · simp only [List.all_cons, Bool.and_eq_true]; exact ⟨hx, hm.2⟩
      · simp only [List.all_cons, Bool.and_eq_true]; exact ⟨hm.1, ih hm.2⟩

end Sys2Proof.Machine
end

