-- ==== Sys2Proof/Laws/State.lean ====
section
/-! SUPPORT. What the shared operations leave as it is, one lemma for each field of the state and each operation, so that a proof rewrites
with them and unfolds neither the operation nor the update. -/

namespace Sys2Proof.Machine
open Sys2Proof

/-! ### withPending -/

@[simp] theorem withPending_now (s : State) (q : List Instr) : (s.withPending q).now = s.now := rfl
@[simp] theorem withPending_free (s : State) (q : List Instr) : (s.withPending q).free = s.free := rfl
@[simp] theorem withPending_out (s : State) (q : List Instr) : (s.withPending q).out = s.out := rfl
@[simp] theorem withPending_regs (s : State) (q : List Instr) : (s.withPending q).regs = s.regs := rfl
@[simp] theorem withPending_captures (s : State) (q : List Instr) : (s.withPending q).captures = s.captures := rfl
@[simp] theorem withPending_staged (s : State) (q : List Instr) : (s.withPending q).staged = s.staged := rfl
@[simp] theorem withPending_msix (s : State) (q : List Instr) : (s.withPending q).msix = s.msix := rfl
@[simp] theorem withPending_pba (s : State) (q : List Instr) : (s.withPending q).pba = s.pba := rfl
@[simp] theorem withPending_flt (s : State) (q : List Instr) : (s.withPending q).flt = s.flt := rfl
@[simp] theorem withPending_irq (s : State) (q : List Instr) : (s.withPending q).irq = s.irq := rfl
@[simp] theorem withPending_ref (s : State) (q : List Instr) : (s.withPending q).ref = s.ref := rfl
@[simp] theorem withPending_frm (s : State) (q : List Instr) : (s.withPending q).frm = s.frm := rfl
@[simp] theorem withPending_lnk (s : State) (q : List Instr) : (s.withPending q).lnk = s.lnk := rfl
@[simp] theorem withPending_ing (s : State) (q : List Instr) : (s.withPending q).ing = s.ing := rfl
@[simp] theorem withPending_live (s : State) (q : List Instr) : (s.withPending q).live = s.live := rfl
@[simp] theorem withPending_ptpNow (s : State) (q : List Instr) : (s.withPending q).ptpNow = s.ptpNow := rfl
@[simp] theorem withPending_coreAt (s : State) (q : List Instr) : (s.withPending q).coreAt = s.coreAt := rfl
@[simp] theorem withPending_rfe (s : State) (q : List Instr) : (s.withPending q).rfe = s.rfe := rfl
@[simp] theorem withPending_fetchBad (s : State) (q : List Instr) : (s.withPending q).fetchBad = s.fetchBad := rfl
@[simp] theorem withPending_clr (s : State) (q : List Instr) : (s.withPending q).clr = s.clr := rfl
@[simp] theorem withPending_lut (s : State) (q : List Instr) : (s.withPending q).lut = s.lut := rfl
@[simp] theorem withPending_imp (s : State) (q : List Instr) : (s.withPending q).imp = s.imp := rfl
@[simp] theorem withPending_gal (s : State) (q : List Instr) : (s.withPending q).gal = s.gal := rfl
@[simp] theorem withPending_mag (s : State) (q : List Instr) : (s.withPending q).mag = s.mag := rfl
@[simp] theorem withPending_hev (s : State) (q : List Instr) : (s.withPending q).hev = s.hev := rfl
@[simp] theorem withPending_dsp (s : State) (q : List Instr) : (s.withPending q).dsp = s.dsp := rfl
@[simp] theorem withPending_net (s : State) (q : List Instr) : (s.withPending q).net = s.net := rfl
@[simp] theorem withPending_aud (s : State) (q : List Instr) : (s.withPending q).aud = s.aud := rfl
@[simp] theorem withPending_hq (s : State) (q : List Instr) : (s.withPending q).hq = s.hq := rfl
@[simp] theorem withPending_mbx (s : State) (q : List Instr) : (s.withPending q).mbx = s.mbx := rfl
@[simp] theorem withPending_per (s : State) (q : List Instr) : (s.withPending q).per = s.per := rfl
@[simp] theorem withPending_mem (s : State) (q : List Instr) : (s.withPending q).mem = s.mem := rfl
@[simp] theorem withPending_thm (s : State) (q : List Instr) : (s.withPending q).thm = s.thm := rfl
@[simp] theorem withPending_mgt (s : State) (q : List Instr) : (s.withPending q).mgt = s.mgt := rfl
@[simp] theorem withPending_sys (s : State) (q : List Instr) : (s.withPending q).sys = s.sys := rfl

/-! ### emit -/

@[simp] theorem emit_now (s : State) (o : Out) : (emit s o).now = s.now := rfl
@[simp] theorem emit_free (s : State) (o : Out) : (emit s o).free = s.free := rfl
@[simp] theorem emit_pending (s : State) (o : Out) : (emit s o).pending = s.pending := rfl
@[simp] theorem emit_regs (s : State) (o : Out) : (emit s o).regs = s.regs := rfl
@[simp] theorem emit_captures (s : State) (o : Out) : (emit s o).captures = s.captures := rfl
@[simp] theorem emit_staged (s : State) (o : Out) : (emit s o).staged = s.staged := rfl
@[simp] theorem emit_msix (s : State) (o : Out) : (emit s o).msix = s.msix := rfl
@[simp] theorem emit_pba (s : State) (o : Out) : (emit s o).pba = s.pba := rfl
@[simp] theorem emit_flt (s : State) (o : Out) : (emit s o).flt = s.flt := rfl
@[simp] theorem emit_irq (s : State) (o : Out) : (emit s o).irq = s.irq := rfl
@[simp] theorem emit_ref (s : State) (o : Out) : (emit s o).ref = s.ref := rfl
@[simp] theorem emit_frm (s : State) (o : Out) : (emit s o).frm = s.frm := rfl
@[simp] theorem emit_lnk (s : State) (o : Out) : (emit s o).lnk = s.lnk := rfl
@[simp] theorem emit_ing (s : State) (o : Out) : (emit s o).ing = s.ing := rfl
@[simp] theorem emit_live (s : State) (o : Out) : (emit s o).live = s.live := rfl
@[simp] theorem emit_ptpNow (s : State) (o : Out) : (emit s o).ptpNow = s.ptpNow := rfl
@[simp] theorem emit_coreAt (s : State) (o : Out) : (emit s o).coreAt = s.coreAt := rfl
@[simp] theorem emit_rfe (s : State) (o : Out) : (emit s o).rfe = s.rfe := rfl
@[simp] theorem emit_fetchBad (s : State) (o : Out) : (emit s o).fetchBad = s.fetchBad := rfl
@[simp] theorem emit_clr (s : State) (o : Out) : (emit s o).clr = s.clr := rfl
@[simp] theorem emit_lut (s : State) (o : Out) : (emit s o).lut = s.lut := rfl
@[simp] theorem emit_imp (s : State) (o : Out) : (emit s o).imp = s.imp := rfl
@[simp] theorem emit_gal (s : State) (o : Out) : (emit s o).gal = s.gal := rfl
@[simp] theorem emit_mag (s : State) (o : Out) : (emit s o).mag = s.mag := rfl
@[simp] theorem emit_hev (s : State) (o : Out) : (emit s o).hev = s.hev := rfl
@[simp] theorem emit_dsp (s : State) (o : Out) : (emit s o).dsp = s.dsp := rfl
@[simp] theorem emit_net (s : State) (o : Out) : (emit s o).net = s.net := rfl
@[simp] theorem emit_aud (s : State) (o : Out) : (emit s o).aud = s.aud := rfl
@[simp] theorem emit_hq (s : State) (o : Out) : (emit s o).hq = s.hq := rfl
@[simp] theorem emit_mbx (s : State) (o : Out) : (emit s o).mbx = s.mbx := rfl
@[simp] theorem emit_per (s : State) (o : Out) : (emit s o).per = s.per := rfl
@[simp] theorem emit_mem (s : State) (o : Out) : (emit s o).mem = s.mem := rfl
@[simp] theorem emit_thm (s : State) (o : Out) : (emit s o).thm = s.thm := rfl
@[simp] theorem emit_mgt (s : State) (o : Out) : (emit s o).mgt = s.mgt := rfl
@[simp] theorem emit_sys (s : State) (o : Out) : (emit s o).sys = s.sys := rfl

/-! ### regSet -/

@[simp] theorem regSet_now (s : State) (off : Nat) (v : Word) : (regSet s off v).now = s.now := rfl
@[simp] theorem regSet_free (s : State) (off : Nat) (v : Word) : (regSet s off v).free = s.free := rfl
@[simp] theorem regSet_out (s : State) (off : Nat) (v : Word) : (regSet s off v).out = s.out := rfl
@[simp] theorem regSet_pending (s : State) (off : Nat) (v : Word) : (regSet s off v).pending = s.pending := rfl
@[simp] theorem regSet_captures (s : State) (off : Nat) (v : Word) : (regSet s off v).captures = s.captures := rfl
@[simp] theorem regSet_staged (s : State) (off : Nat) (v : Word) : (regSet s off v).staged = s.staged := rfl
@[simp] theorem regSet_msix (s : State) (off : Nat) (v : Word) : (regSet s off v).msix = s.msix := rfl
@[simp] theorem regSet_pba (s : State) (off : Nat) (v : Word) : (regSet s off v).pba = s.pba := rfl
@[simp] theorem regSet_flt (s : State) (off : Nat) (v : Word) : (regSet s off v).flt = s.flt := rfl
@[simp] theorem regSet_irq (s : State) (off : Nat) (v : Word) : (regSet s off v).irq = s.irq := rfl
@[simp] theorem regSet_ref (s : State) (off : Nat) (v : Word) : (regSet s off v).ref = s.ref := rfl
@[simp] theorem regSet_frm (s : State) (off : Nat) (v : Word) : (regSet s off v).frm = s.frm := rfl
@[simp] theorem regSet_lnk (s : State) (off : Nat) (v : Word) : (regSet s off v).lnk = s.lnk := rfl
@[simp] theorem regSet_ing (s : State) (off : Nat) (v : Word) : (regSet s off v).ing = s.ing := rfl
@[simp] theorem regSet_live (s : State) (off : Nat) (v : Word) : (regSet s off v).live = s.live := rfl
@[simp] theorem regSet_ptpNow (s : State) (off : Nat) (v : Word) : (regSet s off v).ptpNow = s.ptpNow := rfl
@[simp] theorem regSet_coreAt (s : State) (off : Nat) (v : Word) : (regSet s off v).coreAt = s.coreAt := rfl
@[simp] theorem regSet_rfe (s : State) (off : Nat) (v : Word) : (regSet s off v).rfe = s.rfe := rfl
@[simp] theorem regSet_fetchBad (s : State) (off : Nat) (v : Word) : (regSet s off v).fetchBad = s.fetchBad := rfl
@[simp] theorem regSet_clr (s : State) (off : Nat) (v : Word) : (regSet s off v).clr = s.clr := rfl
@[simp] theorem regSet_lut (s : State) (off : Nat) (v : Word) : (regSet s off v).lut = s.lut := rfl
@[simp] theorem regSet_imp (s : State) (off : Nat) (v : Word) : (regSet s off v).imp = s.imp := rfl
@[simp] theorem regSet_gal (s : State) (off : Nat) (v : Word) : (regSet s off v).gal = s.gal := rfl
@[simp] theorem regSet_mag (s : State) (off : Nat) (v : Word) : (regSet s off v).mag = s.mag := rfl
@[simp] theorem regSet_hev (s : State) (off : Nat) (v : Word) : (regSet s off v).hev = s.hev := rfl
@[simp] theorem regSet_dsp (s : State) (off : Nat) (v : Word) : (regSet s off v).dsp = s.dsp := rfl
@[simp] theorem regSet_net (s : State) (off : Nat) (v : Word) : (regSet s off v).net = s.net := rfl
@[simp] theorem regSet_aud (s : State) (off : Nat) (v : Word) : (regSet s off v).aud = s.aud := rfl
@[simp] theorem regSet_hq (s : State) (off : Nat) (v : Word) : (regSet s off v).hq = s.hq := rfl
@[simp] theorem regSet_mbx (s : State) (off : Nat) (v : Word) : (regSet s off v).mbx = s.mbx := rfl
@[simp] theorem regSet_per (s : State) (off : Nat) (v : Word) : (regSet s off v).per = s.per := rfl
@[simp] theorem regSet_mem (s : State) (off : Nat) (v : Word) : (regSet s off v).mem = s.mem := rfl
@[simp] theorem regSet_thm (s : State) (off : Nat) (v : Word) : (regSet s off v).thm = s.thm := rfl
@[simp] theorem regSet_mgt (s : State) (off : Nat) (v : Word) : (regSet s off v).mgt = s.mgt := rfl
@[simp] theorem regSet_sys (s : State) (off : Nat) (v : Word) : (regSet s off v).sys = s.sys := rfl

/-! ### regPut -/

@[simp] theorem regPut_now (s : State) (off hi lo v : Nat) : (regPut s off hi lo v).now = s.now := rfl
@[simp] theorem regPut_free (s : State) (off hi lo v : Nat) : (regPut s off hi lo v).free = s.free := rfl
@[simp] theorem regPut_out (s : State) (off hi lo v : Nat) : (regPut s off hi lo v).out = s.out := rfl
@[simp] theorem regPut_pending (s : State) (off hi lo v : Nat) : (regPut s off hi lo v).pending = s.pending := rfl
@[simp] theorem regPut_captures (s : State) (off hi lo v : Nat) : (regPut s off hi lo v).captures = s.captures := rfl
@[simp] theorem regPut_staged (s : State) (off hi lo v : Nat) : (regPut s off hi lo v).staged = s.staged := rfl
@[simp] theorem regPut_msix (s : State) (off hi lo v : Nat) : (regPut s off hi lo v).msix = s.msix := rfl
@[simp] theorem regPut_pba (s : State) (off hi lo v : Nat) : (regPut s off hi lo v).pba = s.pba := rfl
@[simp] theorem regPut_flt (s : State) (off hi lo v : Nat) : (regPut s off hi lo v).flt = s.flt := rfl
@[simp] theorem regPut_irq (s : State) (off hi lo v : Nat) : (regPut s off hi lo v).irq = s.irq := rfl
@[simp] theorem regPut_ref (s : State) (off hi lo v : Nat) : (regPut s off hi lo v).ref = s.ref := rfl
@[simp] theorem regPut_frm (s : State) (off hi lo v : Nat) : (regPut s off hi lo v).frm = s.frm := rfl
@[simp] theorem regPut_lnk (s : State) (off hi lo v : Nat) : (regPut s off hi lo v).lnk = s.lnk := rfl
@[simp] theorem regPut_ing (s : State) (off hi lo v : Nat) : (regPut s off hi lo v).ing = s.ing := rfl
@[simp] theorem regPut_live (s : State) (off hi lo v : Nat) : (regPut s off hi lo v).live = s.live := rfl
@[simp] theorem regPut_ptpNow (s : State) (off hi lo v : Nat) : (regPut s off hi lo v).ptpNow = s.ptpNow := rfl
@[simp] theorem regPut_coreAt (s : State) (off hi lo v : Nat) : (regPut s off hi lo v).coreAt = s.coreAt := rfl
@[simp] theorem regPut_rfe (s : State) (off hi lo v : Nat) : (regPut s off hi lo v).rfe = s.rfe := rfl
@[simp] theorem regPut_fetchBad (s : State) (off hi lo v : Nat) : (regPut s off hi lo v).fetchBad = s.fetchBad := rfl
@[simp] theorem regPut_clr (s : State) (off hi lo v : Nat) : (regPut s off hi lo v).clr = s.clr := rfl
@[simp] theorem regPut_lut (s : State) (off hi lo v : Nat) : (regPut s off hi lo v).lut = s.lut := rfl
@[simp] theorem regPut_imp (s : State) (off hi lo v : Nat) : (regPut s off hi lo v).imp = s.imp := rfl
@[simp] theorem regPut_gal (s : State) (off hi lo v : Nat) : (regPut s off hi lo v).gal = s.gal := rfl
@[simp] theorem regPut_mag (s : State) (off hi lo v : Nat) : (regPut s off hi lo v).mag = s.mag := rfl
@[simp] theorem regPut_hev (s : State) (off hi lo v : Nat) : (regPut s off hi lo v).hev = s.hev := rfl
@[simp] theorem regPut_dsp (s : State) (off hi lo v : Nat) : (regPut s off hi lo v).dsp = s.dsp := rfl
@[simp] theorem regPut_net (s : State) (off hi lo v : Nat) : (regPut s off hi lo v).net = s.net := rfl
@[simp] theorem regPut_aud (s : State) (off hi lo v : Nat) : (regPut s off hi lo v).aud = s.aud := rfl
@[simp] theorem regPut_hq (s : State) (off hi lo v : Nat) : (regPut s off hi lo v).hq = s.hq := rfl
@[simp] theorem regPut_mbx (s : State) (off hi lo v : Nat) : (regPut s off hi lo v).mbx = s.mbx := rfl
@[simp] theorem regPut_per (s : State) (off hi lo v : Nat) : (regPut s off hi lo v).per = s.per := rfl
@[simp] theorem regPut_mem (s : State) (off hi lo v : Nat) : (regPut s off hi lo v).mem = s.mem := rfl
@[simp] theorem regPut_thm (s : State) (off hi lo v : Nat) : (regPut s off hi lo v).thm = s.thm := rfl
@[simp] theorem regPut_mgt (s : State) (off hi lo v : Nat) : (regPut s off hi lo v).mgt = s.mgt := rfl
@[simp] theorem regPut_sys (s : State) (off hi lo v : Nat) : (regPut s off hi lo v).sys = s.sys := rfl

/-! ### count -/

@[simp] theorem count_now (s : State) (off : Nat) : (count s off).now = s.now := rfl
@[simp] theorem count_free (s : State) (off : Nat) : (count s off).free = s.free := rfl
@[simp] theorem count_out (s : State) (off : Nat) : (count s off).out = s.out := rfl
@[simp] theorem count_pending (s : State) (off : Nat) : (count s off).pending = s.pending := rfl
@[simp] theorem count_captures (s : State) (off : Nat) : (count s off).captures = s.captures := rfl
@[simp] theorem count_staged (s : State) (off : Nat) : (count s off).staged = s.staged := rfl
@[simp] theorem count_msix (s : State) (off : Nat) : (count s off).msix = s.msix := rfl
@[simp] theorem count_pba (s : State) (off : Nat) : (count s off).pba = s.pba := rfl
@[simp] theorem count_flt (s : State) (off : Nat) : (count s off).flt = s.flt := rfl
@[simp] theorem count_irq (s : State) (off : Nat) : (count s off).irq = s.irq := rfl
@[simp] theorem count_ref (s : State) (off : Nat) : (count s off).ref = s.ref := rfl
@[simp] theorem count_frm (s : State) (off : Nat) : (count s off).frm = s.frm := rfl
@[simp] theorem count_lnk (s : State) (off : Nat) : (count s off).lnk = s.lnk := rfl
@[simp] theorem count_ing (s : State) (off : Nat) : (count s off).ing = s.ing := rfl
@[simp] theorem count_live (s : State) (off : Nat) : (count s off).live = s.live := rfl
@[simp] theorem count_ptpNow (s : State) (off : Nat) : (count s off).ptpNow = s.ptpNow := rfl
@[simp] theorem count_coreAt (s : State) (off : Nat) : (count s off).coreAt = s.coreAt := rfl
@[simp] theorem count_rfe (s : State) (off : Nat) : (count s off).rfe = s.rfe := rfl
@[simp] theorem count_fetchBad (s : State) (off : Nat) : (count s off).fetchBad = s.fetchBad := rfl
@[simp] theorem count_clr (s : State) (off : Nat) : (count s off).clr = s.clr := rfl
@[simp] theorem count_lut (s : State) (off : Nat) : (count s off).lut = s.lut := rfl
@[simp] theorem count_imp (s : State) (off : Nat) : (count s off).imp = s.imp := rfl
@[simp] theorem count_gal (s : State) (off : Nat) : (count s off).gal = s.gal := rfl
@[simp] theorem count_mag (s : State) (off : Nat) : (count s off).mag = s.mag := rfl
@[simp] theorem count_hev (s : State) (off : Nat) : (count s off).hev = s.hev := rfl
@[simp] theorem count_dsp (s : State) (off : Nat) : (count s off).dsp = s.dsp := rfl
@[simp] theorem count_net (s : State) (off : Nat) : (count s off).net = s.net := rfl
@[simp] theorem count_aud (s : State) (off : Nat) : (count s off).aud = s.aud := rfl
@[simp] theorem count_hq (s : State) (off : Nat) : (count s off).hq = s.hq := rfl
@[simp] theorem count_mbx (s : State) (off : Nat) : (count s off).mbx = s.mbx := rfl
@[simp] theorem count_per (s : State) (off : Nat) : (count s off).per = s.per := rfl
@[simp] theorem count_mem (s : State) (off : Nat) : (count s off).mem = s.mem := rfl
@[simp] theorem count_thm (s : State) (off : Nat) : (count s off).thm = s.thm := rfl
@[simp] theorem count_mgt (s : State) (off : Nat) : (count s off).mgt = s.mgt := rfl
@[simp] theorem count_sys (s : State) (off : Nat) : (count s off).sys = s.sys := rfl

/-! ### countN -/

@[simp] theorem countN_now (s : State) (off n : Nat) : (countN s off n).now = s.now := rfl
@[simp] theorem countN_free (s : State) (off n : Nat) : (countN s off n).free = s.free := rfl
@[simp] theorem countN_out (s : State) (off n : Nat) : (countN s off n).out = s.out := rfl
@[simp] theorem countN_pending (s : State) (off n : Nat) : (countN s off n).pending = s.pending := rfl
@[simp] theorem countN_captures (s : State) (off n : Nat) : (countN s off n).captures = s.captures := rfl
@[simp] theorem countN_staged (s : State) (off n : Nat) : (countN s off n).staged = s.staged := rfl
@[simp] theorem countN_msix (s : State) (off n : Nat) : (countN s off n).msix = s.msix := rfl
@[simp] theorem countN_pba (s : State) (off n : Nat) : (countN s off n).pba = s.pba := rfl
@[simp] theorem countN_flt (s : State) (off n : Nat) : (countN s off n).flt = s.flt := rfl
@[simp] theorem countN_irq (s : State) (off n : Nat) : (countN s off n).irq = s.irq := rfl
@[simp] theorem countN_ref (s : State) (off n : Nat) : (countN s off n).ref = s.ref := rfl
@[simp] theorem countN_frm (s : State) (off n : Nat) : (countN s off n).frm = s.frm := rfl
@[simp] theorem countN_lnk (s : State) (off n : Nat) : (countN s off n).lnk = s.lnk := rfl
@[simp] theorem countN_ing (s : State) (off n : Nat) : (countN s off n).ing = s.ing := rfl
@[simp] theorem countN_live (s : State) (off n : Nat) : (countN s off n).live = s.live := rfl
@[simp] theorem countN_ptpNow (s : State) (off n : Nat) : (countN s off n).ptpNow = s.ptpNow := rfl
@[simp] theorem countN_coreAt (s : State) (off n : Nat) : (countN s off n).coreAt = s.coreAt := rfl
@[simp] theorem countN_rfe (s : State) (off n : Nat) : (countN s off n).rfe = s.rfe := rfl
@[simp] theorem countN_fetchBad (s : State) (off n : Nat) : (countN s off n).fetchBad = s.fetchBad := rfl
@[simp] theorem countN_clr (s : State) (off n : Nat) : (countN s off n).clr = s.clr := rfl
@[simp] theorem countN_lut (s : State) (off n : Nat) : (countN s off n).lut = s.lut := rfl
@[simp] theorem countN_imp (s : State) (off n : Nat) : (countN s off n).imp = s.imp := rfl
@[simp] theorem countN_gal (s : State) (off n : Nat) : (countN s off n).gal = s.gal := rfl
@[simp] theorem countN_mag (s : State) (off n : Nat) : (countN s off n).mag = s.mag := rfl
@[simp] theorem countN_hev (s : State) (off n : Nat) : (countN s off n).hev = s.hev := rfl
@[simp] theorem countN_dsp (s : State) (off n : Nat) : (countN s off n).dsp = s.dsp := rfl
@[simp] theorem countN_net (s : State) (off n : Nat) : (countN s off n).net = s.net := rfl
@[simp] theorem countN_aud (s : State) (off n : Nat) : (countN s off n).aud = s.aud := rfl
@[simp] theorem countN_hq (s : State) (off n : Nat) : (countN s off n).hq = s.hq := rfl
@[simp] theorem countN_mbx (s : State) (off n : Nat) : (countN s off n).mbx = s.mbx := rfl
@[simp] theorem countN_per (s : State) (off n : Nat) : (countN s off n).per = s.per := rfl
@[simp] theorem countN_mem (s : State) (off n : Nat) : (countN s off n).mem = s.mem := rfl
@[simp] theorem countN_thm (s : State) (off n : Nat) : (countN s off n).thm = s.thm := rfl
@[simp] theorem countN_mgt (s : State) (off n : Nat) : (countN s off n).mgt = s.mgt := rfl
@[simp] theorem countN_sys (s : State) (off n : Nat) : (countN s off n).sys = s.sys := rfl

/-! ### badAccess -/

@[simp] theorem badAccess_now (s : State) : (badAccess s).now = s.now := rfl
@[simp] theorem badAccess_free (s : State) : (badAccess s).free = s.free := rfl
@[simp] theorem badAccess_out (s : State) : (badAccess s).out = s.out := rfl
@[simp] theorem badAccess_pending (s : State) : (badAccess s).pending = s.pending := rfl
@[simp] theorem badAccess_captures (s : State) : (badAccess s).captures = s.captures := rfl
@[simp] theorem badAccess_staged (s : State) : (badAccess s).staged = s.staged := rfl
@[simp] theorem badAccess_msix (s : State) : (badAccess s).msix = s.msix := rfl
@[simp] theorem badAccess_pba (s : State) : (badAccess s).pba = s.pba := rfl
@[simp] theorem badAccess_flt (s : State) : (badAccess s).flt = s.flt := rfl
@[simp] theorem badAccess_irq (s : State) : (badAccess s).irq = s.irq := rfl
@[simp] theorem badAccess_ref (s : State) : (badAccess s).ref = s.ref := rfl
@[simp] theorem badAccess_frm (s : State) : (badAccess s).frm = s.frm := rfl
@[simp] theorem badAccess_lnk (s : State) : (badAccess s).lnk = s.lnk := rfl
@[simp] theorem badAccess_ing (s : State) : (badAccess s).ing = s.ing := rfl
@[simp] theorem badAccess_live (s : State) : (badAccess s).live = s.live := rfl
@[simp] theorem badAccess_ptpNow (s : State) : (badAccess s).ptpNow = s.ptpNow := rfl
@[simp] theorem badAccess_coreAt (s : State) : (badAccess s).coreAt = s.coreAt := rfl
@[simp] theorem badAccess_rfe (s : State) : (badAccess s).rfe = s.rfe := rfl
@[simp] theorem badAccess_fetchBad (s : State) : (badAccess s).fetchBad = s.fetchBad := rfl
@[simp] theorem badAccess_clr (s : State) : (badAccess s).clr = s.clr := rfl
@[simp] theorem badAccess_lut (s : State) : (badAccess s).lut = s.lut := rfl
@[simp] theorem badAccess_imp (s : State) : (badAccess s).imp = s.imp := rfl
@[simp] theorem badAccess_gal (s : State) : (badAccess s).gal = s.gal := rfl
@[simp] theorem badAccess_mag (s : State) : (badAccess s).mag = s.mag := rfl
@[simp] theorem badAccess_hev (s : State) : (badAccess s).hev = s.hev := rfl
@[simp] theorem badAccess_dsp (s : State) : (badAccess s).dsp = s.dsp := rfl
@[simp] theorem badAccess_net (s : State) : (badAccess s).net = s.net := rfl
@[simp] theorem badAccess_aud (s : State) : (badAccess s).aud = s.aud := rfl
@[simp] theorem badAccess_hq (s : State) : (badAccess s).hq = s.hq := rfl
@[simp] theorem badAccess_mbx (s : State) : (badAccess s).mbx = s.mbx := rfl
@[simp] theorem badAccess_per (s : State) : (badAccess s).per = s.per := rfl
@[simp] theorem badAccess_mem (s : State) : (badAccess s).mem = s.mem := rfl
@[simp] theorem badAccess_thm (s : State) : (badAccess s).thm = s.thm := rfl
@[simp] theorem badAccess_mgt (s : State) : (badAccess s).mgt = s.mgt := rfl
@[simp] theorem badAccess_sys (s : State) : (badAccess s).sys = s.sys := rfl

/-! ### regSetWide -/

@[simp] theorem regSetWide_now (s : State) (off : Nat) (l : List Word) : (regSetWide s off l).now = s.now := by
  induction l generalizing s off with
  | nil => rfl
  | cons w r ih => simp [regSetWide, ih]
@[simp] theorem regSetWide_free (s : State) (off : Nat) (l : List Word) : (regSetWide s off l).free = s.free := by
  induction l generalizing s off with
  | nil => rfl
  | cons w r ih => simp [regSetWide, ih]
@[simp] theorem regSetWide_out (s : State) (off : Nat) (l : List Word) : (regSetWide s off l).out = s.out := by
  induction l generalizing s off with
  | nil => rfl
  | cons w r ih => simp [regSetWide, ih]
@[simp] theorem regSetWide_pending (s : State) (off : Nat) (l : List Word) : (regSetWide s off l).pending = s.pending := by
  induction l generalizing s off with
  | nil => rfl
  | cons w r ih => simp [regSetWide, ih]
@[simp] theorem regSetWide_captures (s : State) (off : Nat) (l : List Word) : (regSetWide s off l).captures = s.captures := by
  induction l generalizing s off with
  | nil => rfl
  | cons w r ih => simp [regSetWide, ih]
@[simp] theorem regSetWide_staged (s : State) (off : Nat) (l : List Word) : (regSetWide s off l).staged = s.staged := by
  induction l generalizing s off with
  | nil => rfl
  | cons w r ih => simp [regSetWide, ih]
@[simp] theorem regSetWide_msix (s : State) (off : Nat) (l : List Word) : (regSetWide s off l).msix = s.msix := by
  induction l generalizing s off with
  | nil => rfl
  | cons w r ih => simp [regSetWide, ih]
@[simp] theorem regSetWide_pba (s : State) (off : Nat) (l : List Word) : (regSetWide s off l).pba = s.pba := by
  induction l generalizing s off with
  | nil => rfl
  | cons w r ih => simp [regSetWide, ih]
@[simp] theorem regSetWide_flt (s : State) (off : Nat) (l : List Word) : (regSetWide s off l).flt = s.flt := by
  induction l generalizing s off with
  | nil => rfl
  | cons w r ih => simp [regSetWide, ih]
@[simp] theorem regSetWide_irq (s : State) (off : Nat) (l : List Word) : (regSetWide s off l).irq = s.irq := by
  induction l generalizing s off with
  | nil => rfl
  | cons w r ih => simp [regSetWide, ih]
@[simp] theorem regSetWide_ref (s : State) (off : Nat) (l : List Word) : (regSetWide s off l).ref = s.ref := by
  induction l generalizing s off with
  | nil => rfl
  | cons w r ih => simp [regSetWide, ih]
@[simp] theorem regSetWide_frm (s : State) (off : Nat) (l : List Word) : (regSetWide s off l).frm = s.frm := by
  induction l generalizing s off with
  | nil => rfl
  | cons w r ih => simp [regSetWide, ih]
@[simp] theorem regSetWide_lnk (s : State) (off : Nat) (l : List Word) : (regSetWide s off l).lnk = s.lnk := by
  induction l generalizing s off with
  | nil => rfl
  | cons w r ih => simp [regSetWide, ih]
@[simp] theorem regSetWide_ing (s : State) (off : Nat) (l : List Word) : (regSetWide s off l).ing = s.ing := by
  induction l generalizing s off with
  | nil => rfl
  | cons w r ih => simp [regSetWide, ih]
@[simp] theorem regSetWide_live (s : State) (off : Nat) (l : List Word) : (regSetWide s off l).live = s.live := by
  induction l generalizing s off with
  | nil => rfl
  | cons w r ih => simp [regSetWide, ih]
@[simp] theorem regSetWide_ptpNow (s : State) (off : Nat) (l : List Word) : (regSetWide s off l).ptpNow = s.ptpNow := by
  induction l generalizing s off with
  | nil => rfl
  | cons w r ih => simp [regSetWide, ih]
@[simp] theorem regSetWide_coreAt (s : State) (off : Nat) (l : List Word) : (regSetWide s off l).coreAt = s.coreAt := by
  induction l generalizing s off with
  | nil => rfl
  | cons w r ih => simp [regSetWide, ih]
@[simp] theorem regSetWide_rfe (s : State) (off : Nat) (l : List Word) : (regSetWide s off l).rfe = s.rfe := by
  induction l generalizing s off with
  | nil => rfl
  | cons w r ih => simp [regSetWide, ih]
@[simp] theorem regSetWide_fetchBad (s : State) (off : Nat) (l : List Word) : (regSetWide s off l).fetchBad = s.fetchBad := by
  induction l generalizing s off with
  | nil => rfl
  | cons w r ih => simp [regSetWide, ih]
@[simp] theorem regSetWide_clr (s : State) (off : Nat) (l : List Word) : (regSetWide s off l).clr = s.clr := by
  induction l generalizing s off with
  | nil => rfl
  | cons w r ih => simp [regSetWide, ih]
@[simp] theorem regSetWide_lut (s : State) (off : Nat) (l : List Word) : (regSetWide s off l).lut = s.lut := by
  induction l generalizing s off with
  | nil => rfl
  | cons w r ih => simp [regSetWide, ih]
@[simp] theorem regSetWide_imp (s : State) (off : Nat) (l : List Word) : (regSetWide s off l).imp = s.imp := by
  induction l generalizing s off with
  | nil => rfl
  | cons w r ih => simp [regSetWide, ih]
@[simp] theorem regSetWide_gal (s : State) (off : Nat) (l : List Word) : (regSetWide s off l).gal = s.gal := by
  induction l generalizing s off with
  | nil => rfl
  | cons w r ih => simp [regSetWide, ih]
@[simp] theorem regSetWide_mag (s : State) (off : Nat) (l : List Word) : (regSetWide s off l).mag = s.mag := by
  induction l generalizing s off with
  | nil => rfl
  | cons w r ih => simp [regSetWide, ih]
@[simp] theorem regSetWide_hev (s : State) (off : Nat) (l : List Word) : (regSetWide s off l).hev = s.hev := by
  induction l generalizing s off with
  | nil => rfl
  | cons w r ih => simp [regSetWide, ih]
@[simp] theorem regSetWide_dsp (s : State) (off : Nat) (l : List Word) : (regSetWide s off l).dsp = s.dsp := by
  induction l generalizing s off with
  | nil => rfl
  | cons w r ih => simp [regSetWide, ih]
@[simp] theorem regSetWide_net (s : State) (off : Nat) (l : List Word) : (regSetWide s off l).net = s.net := by
  induction l generalizing s off with
  | nil => rfl
  | cons w r ih => simp [regSetWide, ih]
@[simp] theorem regSetWide_aud (s : State) (off : Nat) (l : List Word) : (regSetWide s off l).aud = s.aud := by
  induction l generalizing s off with
  | nil => rfl
  | cons w r ih => simp [regSetWide, ih]
@[simp] theorem regSetWide_hq (s : State) (off : Nat) (l : List Word) : (regSetWide s off l).hq = s.hq := by
  induction l generalizing s off with
  | nil => rfl
  | cons w r ih => simp [regSetWide, ih]
@[simp] theorem regSetWide_mbx (s : State) (off : Nat) (l : List Word) : (regSetWide s off l).mbx = s.mbx := by
  induction l generalizing s off with
  | nil => rfl
  | cons w r ih => simp [regSetWide, ih]
@[simp] theorem regSetWide_per (s : State) (off : Nat) (l : List Word) : (regSetWide s off l).per = s.per := by
  induction l generalizing s off with
  | nil => rfl
  | cons w r ih => simp [regSetWide, ih]
@[simp] theorem regSetWide_mem (s : State) (off : Nat) (l : List Word) : (regSetWide s off l).mem = s.mem := by
  induction l generalizing s off with
  | nil => rfl
  | cons w r ih => simp [regSetWide, ih]
@[simp] theorem regSetWide_thm (s : State) (off : Nat) (l : List Word) : (regSetWide s off l).thm = s.thm := by
  induction l generalizing s off with
  | nil => rfl
  | cons w r ih => simp [regSetWide, ih]
@[simp] theorem regSetWide_mgt (s : State) (off : Nat) (l : List Word) : (regSetWide s off l).mgt = s.mgt := by
  induction l generalizing s off with
  | nil => rfl
  | cons w r ih => simp [regSetWide, ih]
@[simp] theorem regSetWide_sys (s : State) (off : Nat) (l : List Word) : (regSetWide s off l).sys = s.sys := by
  induction l generalizing s off with
  | nil => rfl
  | cons w r ih => simp [regSetWide, ih]

/-! ### capture -/

@[simp] theorem capture_now (s : State) (p : Party) (off : Nat) (ws : List Word) : (capture s p off ws).now = s.now := rfl
@[simp] theorem capture_free (s : State) (p : Party) (off : Nat) (ws : List Word) : (capture s p off ws).free = s.free := rfl
@[simp] theorem capture_pending (s : State) (p : Party) (off : Nat) (ws : List Word) : (capture s p off ws).pending = s.pending := rfl
@[simp] theorem capture_regs (s : State) (p : Party) (off : Nat) (ws : List Word) : (capture s p off ws).regs = s.regs := rfl
@[simp] theorem capture_staged (s : State) (p : Party) (off : Nat) (ws : List Word) : (capture s p off ws).staged = s.staged := rfl
@[simp] theorem capture_msix (s : State) (p : Party) (off : Nat) (ws : List Word) : (capture s p off ws).msix = s.msix := rfl
@[simp] theorem capture_pba (s : State) (p : Party) (off : Nat) (ws : List Word) : (capture s p off ws).pba = s.pba := rfl
@[simp] theorem capture_flt (s : State) (p : Party) (off : Nat) (ws : List Word) : (capture s p off ws).flt = s.flt := rfl
@[simp] theorem capture_irq (s : State) (p : Party) (off : Nat) (ws : List Word) : (capture s p off ws).irq = s.irq := rfl
@[simp] theorem capture_ref (s : State) (p : Party) (off : Nat) (ws : List Word) : (capture s p off ws).ref = s.ref := rfl
@[simp] theorem capture_frm (s : State) (p : Party) (off : Nat) (ws : List Word) : (capture s p off ws).frm = s.frm := rfl
@[simp] theorem capture_lnk (s : State) (p : Party) (off : Nat) (ws : List Word) : (capture s p off ws).lnk = s.lnk := rfl
@[simp] theorem capture_ing (s : State) (p : Party) (off : Nat) (ws : List Word) : (capture s p off ws).ing = s.ing := rfl
@[simp] theorem capture_live (s : State) (p : Party) (off : Nat) (ws : List Word) : (capture s p off ws).live = s.live := rfl
@[simp] theorem capture_ptpNow (s : State) (p : Party) (off : Nat) (ws : List Word) : (capture s p off ws).ptpNow = s.ptpNow := rfl
@[simp] theorem capture_coreAt (s : State) (p : Party) (off : Nat) (ws : List Word) : (capture s p off ws).coreAt = s.coreAt := rfl
@[simp] theorem capture_rfe (s : State) (p : Party) (off : Nat) (ws : List Word) : (capture s p off ws).rfe = s.rfe := rfl
@[simp] theorem capture_fetchBad (s : State) (p : Party) (off : Nat) (ws : List Word) : (capture s p off ws).fetchBad = s.fetchBad := rfl
@[simp] theorem capture_clr (s : State) (p : Party) (off : Nat) (ws : List Word) : (capture s p off ws).clr = s.clr := rfl
@[simp] theorem capture_lut (s : State) (p : Party) (off : Nat) (ws : List Word) : (capture s p off ws).lut = s.lut := rfl
@[simp] theorem capture_imp (s : State) (p : Party) (off : Nat) (ws : List Word) : (capture s p off ws).imp = s.imp := rfl
@[simp] theorem capture_gal (s : State) (p : Party) (off : Nat) (ws : List Word) : (capture s p off ws).gal = s.gal := rfl
@[simp] theorem capture_mag (s : State) (p : Party) (off : Nat) (ws : List Word) : (capture s p off ws).mag = s.mag := rfl
@[simp] theorem capture_hev (s : State) (p : Party) (off : Nat) (ws : List Word) : (capture s p off ws).hev = s.hev := rfl
@[simp] theorem capture_dsp (s : State) (p : Party) (off : Nat) (ws : List Word) : (capture s p off ws).dsp = s.dsp := rfl
@[simp] theorem capture_net (s : State) (p : Party) (off : Nat) (ws : List Word) : (capture s p off ws).net = s.net := rfl
@[simp] theorem capture_aud (s : State) (p : Party) (off : Nat) (ws : List Word) : (capture s p off ws).aud = s.aud := rfl
@[simp] theorem capture_hq (s : State) (p : Party) (off : Nat) (ws : List Word) : (capture s p off ws).hq = s.hq := rfl
@[simp] theorem capture_mbx (s : State) (p : Party) (off : Nat) (ws : List Word) : (capture s p off ws).mbx = s.mbx := rfl
@[simp] theorem capture_per (s : State) (p : Party) (off : Nat) (ws : List Word) : (capture s p off ws).per = s.per := rfl
@[simp] theorem capture_mem (s : State) (p : Party) (off : Nat) (ws : List Word) : (capture s p off ws).mem = s.mem := rfl
@[simp] theorem capture_thm (s : State) (p : Party) (off : Nat) (ws : List Word) : (capture s p off ws).thm = s.thm := rfl
@[simp] theorem capture_mgt (s : State) (p : Party) (off : Nat) (ws : List Word) : (capture s p off ws).mgt = s.mgt := rfl
@[simp] theorem capture_sys (s : State) (p : Party) (off : Nat) (ws : List Word) : (capture s p off ws).sys = s.sys := rfl

/-! ### msixSend -/

@[simp] theorem msixSend_now (s : State) (fn vec : Nat) : (msixSend s fn vec).now = s.now := by unfold msixSend; split <;> rfl
@[simp] theorem msixSend_free (s : State) (fn vec : Nat) : (msixSend s fn vec).free = s.free := by unfold msixSend; split <;> rfl
@[simp] theorem msixSend_pending (s : State) (fn vec : Nat) : (msixSend s fn vec).pending = s.pending := by unfold msixSend; split <;> rfl
@[simp] theorem msixSend_regs (s : State) (fn vec : Nat) : (msixSend s fn vec).regs = s.regs := by unfold msixSend; split <;> rfl
@[simp] theorem msixSend_captures (s : State) (fn vec : Nat) : (msixSend s fn vec).captures = s.captures := by unfold msixSend; split <;> rfl
@[simp] theorem msixSend_staged (s : State) (fn vec : Nat) : (msixSend s fn vec).staged = s.staged := by unfold msixSend; split <;> rfl
@[simp] theorem msixSend_msix (s : State) (fn vec : Nat) : (msixSend s fn vec).msix = s.msix := by unfold msixSend; split <;> rfl
@[simp] theorem msixSend_flt (s : State) (fn vec : Nat) : (msixSend s fn vec).flt = s.flt := by unfold msixSend; split <;> rfl
@[simp] theorem msixSend_irq (s : State) (fn vec : Nat) : (msixSend s fn vec).irq = s.irq := by unfold msixSend; split <;> rfl
@[simp] theorem msixSend_ref (s : State) (fn vec : Nat) : (msixSend s fn vec).ref = s.ref := by unfold msixSend; split <;> rfl
@[simp] theorem msixSend_frm (s : State) (fn vec : Nat) : (msixSend s fn vec).frm = s.frm := by unfold msixSend; split <;> rfl
@[simp] theorem msixSend_lnk (s : State) (fn vec : Nat) : (msixSend s fn vec).lnk = s.lnk := by unfold msixSend; split <;> rfl
@[simp] theorem msixSend_ing (s : State) (fn vec : Nat) : (msixSend s fn vec).ing = s.ing := by unfold msixSend; split <;> rfl
@[simp] theorem msixSend_live (s : State) (fn vec : Nat) : (msixSend s fn vec).live = s.live := by unfold msixSend; split <;> rfl
@[simp] theorem msixSend_ptpNow (s : State) (fn vec : Nat) : (msixSend s fn vec).ptpNow = s.ptpNow := by unfold msixSend; split <;> rfl
@[simp] theorem msixSend_coreAt (s : State) (fn vec : Nat) : (msixSend s fn vec).coreAt = s.coreAt := by unfold msixSend; split <;> rfl
@[simp] theorem msixSend_rfe (s : State) (fn vec : Nat) : (msixSend s fn vec).rfe = s.rfe := by unfold msixSend; split <;> rfl
@[simp] theorem msixSend_fetchBad (s : State) (fn vec : Nat) : (msixSend s fn vec).fetchBad = s.fetchBad := by unfold msixSend; split <;> rfl
@[simp] theorem msixSend_clr (s : State) (fn vec : Nat) : (msixSend s fn vec).clr = s.clr := by unfold msixSend; split <;> rfl
@[simp] theorem msixSend_lut (s : State) (fn vec : Nat) : (msixSend s fn vec).lut = s.lut := by unfold msixSend; split <;> rfl
@[simp] theorem msixSend_imp (s : State) (fn vec : Nat) : (msixSend s fn vec).imp = s.imp := by unfold msixSend; split <;> rfl
@[simp] theorem msixSend_gal (s : State) (fn vec : Nat) : (msixSend s fn vec).gal = s.gal := by unfold msixSend; split <;> rfl
@[simp] theorem msixSend_mag (s : State) (fn vec : Nat) : (msixSend s fn vec).mag = s.mag := by unfold msixSend; split <;> rfl
@[simp] theorem msixSend_hev (s : State) (fn vec : Nat) : (msixSend s fn vec).hev = s.hev := by unfold msixSend; split <;> rfl
@[simp] theorem msixSend_dsp (s : State) (fn vec : Nat) : (msixSend s fn vec).dsp = s.dsp := by unfold msixSend; split <;> rfl
@[simp] theorem msixSend_net (s : State) (fn vec : Nat) : (msixSend s fn vec).net = s.net := by unfold msixSend; split <;> rfl
@[simp] theorem msixSend_aud (s : State) (fn vec : Nat) : (msixSend s fn vec).aud = s.aud := by unfold msixSend; split <;> rfl
@[simp] theorem msixSend_hq (s : State) (fn vec : Nat) : (msixSend s fn vec).hq = s.hq := by unfold msixSend; split <;> rfl
@[simp] theorem msixSend_mbx (s : State) (fn vec : Nat) : (msixSend s fn vec).mbx = s.mbx := by unfold msixSend; split <;> rfl
@[simp] theorem msixSend_per (s : State) (fn vec : Nat) : (msixSend s fn vec).per = s.per := by unfold msixSend; split <;> rfl
@[simp] theorem msixSend_mem (s : State) (fn vec : Nat) : (msixSend s fn vec).mem = s.mem := by unfold msixSend; split <;> rfl
@[simp] theorem msixSend_thm (s : State) (fn vec : Nat) : (msixSend s fn vec).thm = s.thm := by unfold msixSend; split <;> rfl
@[simp] theorem msixSend_mgt (s : State) (fn vec : Nat) : (msixSend s fn vec).mgt = s.mgt := by unfold msixSend; split <;> rfl
@[simp] theorem msixSend_sys (s : State) (fn vec : Nat) : (msixSend s fn vec).sys = s.sys := by unfold msixSend; split <;> rfl

/-! ### sourceEdge -/

@[simp] theorem sourceEdge_now (s : State) (i : Nat) : (sourceEdge s i).now = s.now := by
  unfold sourceEdge; split
  · dsimp only; split <;> split <;> simp
  · rfl
@[simp] theorem sourceEdge_free (s : State) (i : Nat) : (sourceEdge s i).free = s.free := by
  unfold sourceEdge; split
  · dsimp only; split <;> split <;> simp
  · rfl
@[simp] theorem sourceEdge_pending (s : State) (i : Nat) : (sourceEdge s i).pending = s.pending := by
  unfold sourceEdge; split
  · dsimp only; split <;> split <;> simp
  · rfl
@[simp] theorem sourceEdge_captures (s : State) (i : Nat) : (sourceEdge s i).captures = s.captures := by
  unfold sourceEdge; split
  · dsimp only; split <;> split <;> simp
  · rfl
@[simp] theorem sourceEdge_staged (s : State) (i : Nat) : (sourceEdge s i).staged = s.staged := by
  unfold sourceEdge; split
  · dsimp only; split <;> split <;> simp
  · rfl
@[simp] theorem sourceEdge_msix (s : State) (i : Nat) : (sourceEdge s i).msix = s.msix := by
  unfold sourceEdge; split
  · dsimp only; split <;> split <;> simp
  · rfl
@[simp] theorem sourceEdge_flt (s : State) (i : Nat) : (sourceEdge s i).flt = s.flt := by
  unfold sourceEdge; split
  · dsimp only; split <;> split <;> simp
  · rfl
@[simp] theorem sourceEdge_irq (s : State) (i : Nat) : (sourceEdge s i).irq = s.irq := by
  unfold sourceEdge; split
  · dsimp only; split <;> split <;> simp
  · rfl
@[simp] theorem sourceEdge_ref (s : State) (i : Nat) : (sourceEdge s i).ref = s.ref := by
  unfold sourceEdge; split
  · dsimp only; split <;> split <;> simp
  · rfl
@[simp] theorem sourceEdge_frm (s : State) (i : Nat) : (sourceEdge s i).frm = s.frm := by
  unfold sourceEdge; split
  · dsimp only; split <;> split <;> simp
  · rfl
@[simp] theorem sourceEdge_lnk (s : State) (i : Nat) : (sourceEdge s i).lnk = s.lnk := by
  unfold sourceEdge; split
  · dsimp only; split <;> split <;> simp
  · rfl
@[simp] theorem sourceEdge_ing (s : State) (i : Nat) : (sourceEdge s i).ing = s.ing := by
  unfold sourceEdge; split
  · dsimp only; split <;> split <;> simp
  · rfl
@[simp] theorem sourceEdge_live (s : State) (i : Nat) : (sourceEdge s i).live = s.live := by
  unfold sourceEdge; split
  · dsimp only; split <;> split <;> simp
  · rfl
@[simp] theorem sourceEdge_ptpNow (s : State) (i : Nat) : (sourceEdge s i).ptpNow = s.ptpNow := by
  unfold sourceEdge; split
  · dsimp only; split <;> split <;> simp
  · rfl
@[simp] theorem sourceEdge_coreAt (s : State) (i : Nat) : (sourceEdge s i).coreAt = s.coreAt := by
  unfold sourceEdge; split
  · dsimp only; split <;> split <;> simp
  · rfl
@[simp] theorem sourceEdge_rfe (s : State) (i : Nat) : (sourceEdge s i).rfe = s.rfe := by
  unfold sourceEdge; split
  · dsimp only; split <;> split <;> simp
  · rfl
@[simp] theorem sourceEdge_fetchBad (s : State) (i : Nat) : (sourceEdge s i).fetchBad = s.fetchBad := by
  unfold sourceEdge; split
  · dsimp only; split <;> split <;> simp
  · rfl
@[simp] theorem sourceEdge_clr (s : State) (i : Nat) : (sourceEdge s i).clr = s.clr := by
  unfold sourceEdge; split
  · dsimp only; split <;> split <;> simp
  · rfl
@[simp] theorem sourceEdge_lut (s : State) (i : Nat) : (sourceEdge s i).lut = s.lut := by
  unfold sourceEdge; split
  · dsimp only; split <;> split <;> simp
  · rfl
@[simp] theorem sourceEdge_imp (s : State) (i : Nat) : (sourceEdge s i).imp = s.imp := by
  unfold sourceEdge; split
  · dsimp only; split <;> split <;> simp
  · rfl
@[simp] theorem sourceEdge_gal (s : State) (i : Nat) : (sourceEdge s i).gal = s.gal := by
  unfold sourceEdge; split
  · dsimp only; split <;> split <;> simp
  · rfl
@[simp] theorem sourceEdge_mag (s : State) (i : Nat) : (sourceEdge s i).mag = s.mag := by
  unfold sourceEdge; split
  · dsimp only; split <;> split <;> simp
  · rfl
@[simp] theorem sourceEdge_hev (s : State) (i : Nat) : (sourceEdge s i).hev = s.hev := by
  unfold sourceEdge; split
  · dsimp only; split <;> split <;> simp
  · rfl
@[simp] theorem sourceEdge_dsp (s : State) (i : Nat) : (sourceEdge s i).dsp = s.dsp := by
  unfold sourceEdge; split
  · dsimp only; split <;> split <;> simp
  · rfl
@[simp] theorem sourceEdge_net (s : State) (i : Nat) : (sourceEdge s i).net = s.net := by
  unfold sourceEdge; split
  · dsimp only; split <;> split <;> simp
  · rfl
@[simp] theorem sourceEdge_aud (s : State) (i : Nat) : (sourceEdge s i).aud = s.aud := by
  unfold sourceEdge; split
  · dsimp only; split <;> split <;> simp
  · rfl
@[simp] theorem sourceEdge_hq (s : State) (i : Nat) : (sourceEdge s i).hq = s.hq := by
  unfold sourceEdge; split
  · dsimp only; split <;> split <;> simp
  · rfl
@[simp] theorem sourceEdge_mbx (s : State) (i : Nat) : (sourceEdge s i).mbx = s.mbx := by
  unfold sourceEdge; split
  · dsimp only; split <;> split <;> simp
  · rfl
@[simp] theorem sourceEdge_per (s : State) (i : Nat) : (sourceEdge s i).per = s.per := by
  unfold sourceEdge; split
  · dsimp only; split <;> split <;> simp
  · rfl
@[simp] theorem sourceEdge_mem (s : State) (i : Nat) : (sourceEdge s i).mem = s.mem := by
  unfold sourceEdge; split
  · dsimp only; split <;> split <;> simp
  · rfl
@[simp] theorem sourceEdge_thm (s : State) (i : Nat) : (sourceEdge s i).thm = s.thm := by
  unfold sourceEdge; split
  · dsimp only; split <;> split <;> simp
  · rfl
@[simp] theorem sourceEdge_mgt (s : State) (i : Nat) : (sourceEdge s i).mgt = s.mgt := by
  unfold sourceEdge; split
  · dsimp only; split <;> split <;> simp
  · rfl
@[simp] theorem sourceEdge_sys (s : State) (i : Nat) : (sourceEdge s i).sys = s.sys := by
  unfold sourceEdge; split
  · dsimp only; split <;> split <;> simp
  · rfl

/-! ### raise -/

@[simp] theorem raise_now (s : State) (b : Blk) (i : Nat) : (raise s b i).now = s.now := by unfold raise; cases b.events <;> simp
@[simp] theorem raise_free (s : State) (b : Blk) (i : Nat) : (raise s b i).free = s.free := by unfold raise; cases b.events <;> simp
@[simp] theorem raise_pending (s : State) (b : Blk) (i : Nat) : (raise s b i).pending = s.pending := by unfold raise; cases b.events <;> simp
@[simp] theorem raise_captures (s : State) (b : Blk) (i : Nat) : (raise s b i).captures = s.captures := by unfold raise; cases b.events <;> simp
@[simp] theorem raise_staged (s : State) (b : Blk) (i : Nat) : (raise s b i).staged = s.staged := by unfold raise; cases b.events <;> simp
@[simp] theorem raise_msix (s : State) (b : Blk) (i : Nat) : (raise s b i).msix = s.msix := by unfold raise; cases b.events <;> simp
@[simp] theorem raise_flt (s : State) (b : Blk) (i : Nat) : (raise s b i).flt = s.flt := by unfold raise; cases b.events <;> simp
@[simp] theorem raise_irq (s : State) (b : Blk) (i : Nat) : (raise s b i).irq = s.irq := by unfold raise; cases b.events <;> simp
@[simp] theorem raise_ref (s : State) (b : Blk) (i : Nat) : (raise s b i).ref = s.ref := by unfold raise; cases b.events <;> simp
@[simp] theorem raise_frm (s : State) (b : Blk) (i : Nat) : (raise s b i).frm = s.frm := by unfold raise; cases b.events <;> simp
@[simp] theorem raise_lnk (s : State) (b : Blk) (i : Nat) : (raise s b i).lnk = s.lnk := by unfold raise; cases b.events <;> simp
@[simp] theorem raise_ing (s : State) (b : Blk) (i : Nat) : (raise s b i).ing = s.ing := by unfold raise; cases b.events <;> simp
@[simp] theorem raise_live (s : State) (b : Blk) (i : Nat) : (raise s b i).live = s.live := by unfold raise; cases b.events <;> simp
@[simp] theorem raise_ptpNow (s : State) (b : Blk) (i : Nat) : (raise s b i).ptpNow = s.ptpNow := by unfold raise; cases b.events <;> simp
@[simp] theorem raise_coreAt (s : State) (b : Blk) (i : Nat) : (raise s b i).coreAt = s.coreAt := by unfold raise; cases b.events <;> simp
@[simp] theorem raise_rfe (s : State) (b : Blk) (i : Nat) : (raise s b i).rfe = s.rfe := by unfold raise; cases b.events <;> simp
@[simp] theorem raise_fetchBad (s : State) (b : Blk) (i : Nat) : (raise s b i).fetchBad = s.fetchBad := by unfold raise; cases b.events <;> simp
@[simp] theorem raise_clr (s : State) (b : Blk) (i : Nat) : (raise s b i).clr = s.clr := by unfold raise; cases b.events <;> simp
@[simp] theorem raise_lut (s : State) (b : Blk) (i : Nat) : (raise s b i).lut = s.lut := by unfold raise; cases b.events <;> simp
@[simp] theorem raise_imp (s : State) (b : Blk) (i : Nat) : (raise s b i).imp = s.imp := by unfold raise; cases b.events <;> simp
@[simp] theorem raise_gal (s : State) (b : Blk) (i : Nat) : (raise s b i).gal = s.gal := by unfold raise; cases b.events <;> simp
@[simp] theorem raise_mag (s : State) (b : Blk) (i : Nat) : (raise s b i).mag = s.mag := by unfold raise; cases b.events <;> simp
@[simp] theorem raise_hev (s : State) (b : Blk) (i : Nat) : (raise s b i).hev = s.hev := by unfold raise; cases b.events <;> simp
@[simp] theorem raise_dsp (s : State) (b : Blk) (i : Nat) : (raise s b i).dsp = s.dsp := by unfold raise; cases b.events <;> simp
@[simp] theorem raise_net (s : State) (b : Blk) (i : Nat) : (raise s b i).net = s.net := by unfold raise; cases b.events <;> simp
@[simp] theorem raise_aud (s : State) (b : Blk) (i : Nat) : (raise s b i).aud = s.aud := by unfold raise; cases b.events <;> simp
@[simp] theorem raise_hq (s : State) (b : Blk) (i : Nat) : (raise s b i).hq = s.hq := by unfold raise; cases b.events <;> simp
@[simp] theorem raise_mbx (s : State) (b : Blk) (i : Nat) : (raise s b i).mbx = s.mbx := by unfold raise; cases b.events <;> simp
@[simp] theorem raise_per (s : State) (b : Blk) (i : Nat) : (raise s b i).per = s.per := by unfold raise; cases b.events <;> simp
@[simp] theorem raise_mem (s : State) (b : Blk) (i : Nat) : (raise s b i).mem = s.mem := by unfold raise; cases b.events <;> simp
@[simp] theorem raise_thm (s : State) (b : Blk) (i : Nat) : (raise s b i).thm = s.thm := by unfold raise; cases b.events <;> simp
@[simp] theorem raise_mgt (s : State) (b : Blk) (i : Nat) : (raise s b i).mgt = s.mgt := by unfold raise; cases b.events <;> simp
@[simp] theorem raise_sys (s : State) (b : Blk) (i : Nat) : (raise s b i).sys = s.sys := by unfold raise; cases b.events <;> simp

/-! ### takeSeq -/

@[simp] theorem takeSeq_now (s : State) : (takeSeq s).now = s.now := rfl
@[simp] theorem takeSeq_free (s : State) : (takeSeq s).free = s.free := rfl
@[simp] theorem takeSeq_out (s : State) : (takeSeq s).out = s.out := rfl
@[simp] theorem takeSeq_pending (s : State) : (takeSeq s).pending = s.pending := rfl
@[simp] theorem takeSeq_regs (s : State) : (takeSeq s).regs = s.regs := rfl
@[simp] theorem takeSeq_captures (s : State) : (takeSeq s).captures = s.captures := rfl
@[simp] theorem takeSeq_staged (s : State) : (takeSeq s).staged = s.staged := rfl
@[simp] theorem takeSeq_msix (s : State) : (takeSeq s).msix = s.msix := rfl
@[simp] theorem takeSeq_pba (s : State) : (takeSeq s).pba = s.pba := rfl
@[simp] theorem takeSeq_irq (s : State) : (takeSeq s).irq = s.irq := rfl
@[simp] theorem takeSeq_ref (s : State) : (takeSeq s).ref = s.ref := rfl
@[simp] theorem takeSeq_frm (s : State) : (takeSeq s).frm = s.frm := rfl
@[simp] theorem takeSeq_lnk (s : State) : (takeSeq s).lnk = s.lnk := rfl
@[simp] theorem takeSeq_ing (s : State) : (takeSeq s).ing = s.ing := rfl
@[simp] theorem takeSeq_live (s : State) : (takeSeq s).live = s.live := rfl
@[simp] theorem takeSeq_ptpNow (s : State) : (takeSeq s).ptpNow = s.ptpNow := rfl
@[simp] theorem takeSeq_coreAt (s : State) : (takeSeq s).coreAt = s.coreAt := rfl
@[simp] theorem takeSeq_rfe (s : State) : (takeSeq s).rfe = s.rfe := rfl
@[simp] theorem takeSeq_fetchBad (s : State) : (takeSeq s).fetchBad = s.fetchBad := rfl
@[simp] theorem takeSeq_clr (s : State) : (takeSeq s).clr = s.clr := rfl
@[simp] theorem takeSeq_lut (s : State) : (takeSeq s).lut = s.lut := rfl
@[simp] theorem takeSeq_imp (s : State) : (takeSeq s).imp = s.imp := rfl
@[simp] theorem takeSeq_gal (s : State) : (takeSeq s).gal = s.gal := rfl
@[simp] theorem takeSeq_mag (s : State) : (takeSeq s).mag = s.mag := rfl
@[simp] theorem takeSeq_hev (s : State) : (takeSeq s).hev = s.hev := rfl
@[simp] theorem takeSeq_dsp (s : State) : (takeSeq s).dsp = s.dsp := rfl
@[simp] theorem takeSeq_net (s : State) : (takeSeq s).net = s.net := rfl
@[simp] theorem takeSeq_aud (s : State) : (takeSeq s).aud = s.aud := rfl
@[simp] theorem takeSeq_hq (s : State) : (takeSeq s).hq = s.hq := rfl
@[simp] theorem takeSeq_mbx (s : State) : (takeSeq s).mbx = s.mbx := rfl
@[simp] theorem takeSeq_per (s : State) : (takeSeq s).per = s.per := rfl
@[simp] theorem takeSeq_mem (s : State) : (takeSeq s).mem = s.mem := rfl
@[simp] theorem takeSeq_thm (s : State) : (takeSeq s).thm = s.thm := rfl
@[simp] theorem takeSeq_mgt (s : State) : (takeSeq s).mgt = s.mgt := rfl
@[simp] theorem takeSeq_sys (s : State) : (takeSeq s).sys = s.sys := rfl

/-! ### colophonCopy -/

@[simp] theorem colophonCopy_now (s : State) (r : ErrRec) (m : Bool) : (colophonCopy s r m).now = s.now := by unfold colophonCopy; dsimp only; split <;> rfl
@[simp] theorem colophonCopy_free (s : State) (r : ErrRec) (m : Bool) : (colophonCopy s r m).free = s.free := by unfold colophonCopy; dsimp only; split <;> rfl
@[simp] theorem colophonCopy_out (s : State) (r : ErrRec) (m : Bool) : (colophonCopy s r m).out = s.out := by unfold colophonCopy; dsimp only; split <;> rfl
@[simp] theorem colophonCopy_pending (s : State) (r : ErrRec) (m : Bool) : (colophonCopy s r m).pending = s.pending := by unfold colophonCopy; dsimp only; split <;> rfl
@[simp] theorem colophonCopy_regs (s : State) (r : ErrRec) (m : Bool) : (colophonCopy s r m).regs = s.regs := by unfold colophonCopy; dsimp only; split <;> rfl
@[simp] theorem colophonCopy_captures (s : State) (r : ErrRec) (m : Bool) : (colophonCopy s r m).captures = s.captures := by unfold colophonCopy; dsimp only; split <;> rfl
@[simp] theorem colophonCopy_staged (s : State) (r : ErrRec) (m : Bool) : (colophonCopy s r m).staged = s.staged := by unfold colophonCopy; dsimp only; split <;> rfl
@[simp] theorem colophonCopy_msix (s : State) (r : ErrRec) (m : Bool) : (colophonCopy s r m).msix = s.msix := by unfold colophonCopy; dsimp only; split <;> rfl
@[simp] theorem colophonCopy_pba (s : State) (r : ErrRec) (m : Bool) : (colophonCopy s r m).pba = s.pba := by unfold colophonCopy; dsimp only; split <;> rfl
@[simp] theorem colophonCopy_flt (s : State) (r : ErrRec) (m : Bool) : (colophonCopy s r m).flt = s.flt := by unfold colophonCopy; dsimp only; split <;> rfl
@[simp] theorem colophonCopy_irq (s : State) (r : ErrRec) (m : Bool) : (colophonCopy s r m).irq = s.irq := by unfold colophonCopy; dsimp only; split <;> rfl
@[simp] theorem colophonCopy_ref (s : State) (r : ErrRec) (m : Bool) : (colophonCopy s r m).ref = s.ref := by unfold colophonCopy; dsimp only; split <;> rfl
@[simp] theorem colophonCopy_frm (s : State) (r : ErrRec) (m : Bool) : (colophonCopy s r m).frm = s.frm := by unfold colophonCopy; dsimp only; split <;> rfl
@[simp] theorem colophonCopy_lnk (s : State) (r : ErrRec) (m : Bool) : (colophonCopy s r m).lnk = s.lnk := by unfold colophonCopy; dsimp only; split <;> rfl
@[simp] theorem colophonCopy_ing (s : State) (r : ErrRec) (m : Bool) : (colophonCopy s r m).ing = s.ing := by unfold colophonCopy; dsimp only; split <;> rfl
@[simp] theorem colophonCopy_live (s : State) (r : ErrRec) (m : Bool) : (colophonCopy s r m).live = s.live := by unfold colophonCopy; dsimp only; split <;> rfl
@[simp] theorem colophonCopy_ptpNow (s : State) (r : ErrRec) (m : Bool) : (colophonCopy s r m).ptpNow = s.ptpNow := by unfold colophonCopy; dsimp only; split <;> rfl
@[simp] theorem colophonCopy_coreAt (s : State) (r : ErrRec) (m : Bool) : (colophonCopy s r m).coreAt = s.coreAt := by unfold colophonCopy; dsimp only; split <;> rfl
@[simp] theorem colophonCopy_rfe (s : State) (r : ErrRec) (m : Bool) : (colophonCopy s r m).rfe = s.rfe := by unfold colophonCopy; dsimp only; split <;> rfl
@[simp] theorem colophonCopy_fetchBad (s : State) (r : ErrRec) (m : Bool) : (colophonCopy s r m).fetchBad = s.fetchBad := by unfold colophonCopy; dsimp only; split <;> rfl
@[simp] theorem colophonCopy_clr (s : State) (r : ErrRec) (m : Bool) : (colophonCopy s r m).clr = s.clr := by unfold colophonCopy; dsimp only; split <;> rfl
@[simp] theorem colophonCopy_lut (s : State) (r : ErrRec) (m : Bool) : (colophonCopy s r m).lut = s.lut := by unfold colophonCopy; dsimp only; split <;> rfl
@[simp] theorem colophonCopy_imp (s : State) (r : ErrRec) (m : Bool) : (colophonCopy s r m).imp = s.imp := by unfold colophonCopy; dsimp only; split <;> rfl
@[simp] theorem colophonCopy_gal (s : State) (r : ErrRec) (m : Bool) : (colophonCopy s r m).gal = s.gal := by unfold colophonCopy; dsimp only; split <;> rfl
@[simp] theorem colophonCopy_mag (s : State) (r : ErrRec) (m : Bool) : (colophonCopy s r m).mag = s.mag := by unfold colophonCopy; dsimp only; split <;> rfl
@[simp] theorem colophonCopy_hev (s : State) (r : ErrRec) (m : Bool) : (colophonCopy s r m).hev = s.hev := by unfold colophonCopy; dsimp only; split <;> rfl
@[simp] theorem colophonCopy_dsp (s : State) (r : ErrRec) (m : Bool) : (colophonCopy s r m).dsp = s.dsp := by unfold colophonCopy; dsimp only; split <;> rfl
@[simp] theorem colophonCopy_net (s : State) (r : ErrRec) (m : Bool) : (colophonCopy s r m).net = s.net := by unfold colophonCopy; dsimp only; split <;> rfl
@[simp] theorem colophonCopy_aud (s : State) (r : ErrRec) (m : Bool) : (colophonCopy s r m).aud = s.aud := by unfold colophonCopy; dsimp only; split <;> rfl
@[simp] theorem colophonCopy_hq (s : State) (r : ErrRec) (m : Bool) : (colophonCopy s r m).hq = s.hq := by unfold colophonCopy; dsimp only; split <;> rfl
@[simp] theorem colophonCopy_mbx (s : State) (r : ErrRec) (m : Bool) : (colophonCopy s r m).mbx = s.mbx := by unfold colophonCopy; dsimp only; split <;> rfl
@[simp] theorem colophonCopy_per (s : State) (r : ErrRec) (m : Bool) : (colophonCopy s r m).per = s.per := by unfold colophonCopy; dsimp only; split <;> rfl
@[simp] theorem colophonCopy_mem (s : State) (r : ErrRec) (m : Bool) : (colophonCopy s r m).mem = s.mem := by unfold colophonCopy; dsimp only; split <;> rfl
@[simp] theorem colophonCopy_thm (s : State) (r : ErrRec) (m : Bool) : (colophonCopy s r m).thm = s.thm := by unfold colophonCopy; dsimp only; split <;> rfl
@[simp] theorem colophonCopy_sys (s : State) (r : ErrRec) (m : Bool) : (colophonCopy s r m).sys = s.sys := by unfold colophonCopy; dsimp only; split <;> rfl

/-! ### enqueueRec -/

@[simp] theorem enqueueRec_now (s : State) (r : ErrRec) : (enqueueRec s r).now = s.now := by unfold enqueueRec; dsimp only; split <;> simp
@[simp] theorem enqueueRec_free (s : State) (r : ErrRec) : (enqueueRec s r).free = s.free := by unfold enqueueRec; dsimp only; split <;> simp
@[simp] theorem enqueueRec_pending (s : State) (r : ErrRec) : (enqueueRec s r).pending = s.pending := by unfold enqueueRec; dsimp only; split <;> simp
@[simp] theorem enqueueRec_captures (s : State) (r : ErrRec) : (enqueueRec s r).captures = s.captures := by unfold enqueueRec; dsimp only; split <;> simp
@[simp] theorem enqueueRec_staged (s : State) (r : ErrRec) : (enqueueRec s r).staged = s.staged := by unfold enqueueRec; dsimp only; split <;> simp
@[simp] theorem enqueueRec_msix (s : State) (r : ErrRec) : (enqueueRec s r).msix = s.msix := by unfold enqueueRec; dsimp only; split <;> simp
@[simp] theorem enqueueRec_irq (s : State) (r : ErrRec) : (enqueueRec s r).irq = s.irq := by unfold enqueueRec; dsimp only; split <;> simp
@[simp] theorem enqueueRec_ref (s : State) (r : ErrRec) : (enqueueRec s r).ref = s.ref := by unfold enqueueRec; dsimp only; split <;> simp
@[simp] theorem enqueueRec_frm (s : State) (r : ErrRec) : (enqueueRec s r).frm = s.frm := by unfold enqueueRec; dsimp only; split <;> simp
@[simp] theorem enqueueRec_lnk (s : State) (r : ErrRec) : (enqueueRec s r).lnk = s.lnk := by unfold enqueueRec; dsimp only; split <;> simp
@[simp] theorem enqueueRec_ing (s : State) (r : ErrRec) : (enqueueRec s r).ing = s.ing := by unfold enqueueRec; dsimp only; split <;> simp
@[simp] theorem enqueueRec_live (s : State) (r : ErrRec) : (enqueueRec s r).live = s.live := by unfold enqueueRec; dsimp only; split <;> simp
@[simp] theorem enqueueRec_ptpNow (s : State) (r : ErrRec) : (enqueueRec s r).ptpNow = s.ptpNow := by unfold enqueueRec; dsimp only; split <;> simp
@[simp] theorem enqueueRec_coreAt (s : State) (r : ErrRec) : (enqueueRec s r).coreAt = s.coreAt := by unfold enqueueRec; dsimp only; split <;> simp
@[simp] theorem enqueueRec_rfe (s : State) (r : ErrRec) : (enqueueRec s r).rfe = s.rfe := by unfold enqueueRec; dsimp only; split <;> simp
@[simp] theorem enqueueRec_fetchBad (s : State) (r : ErrRec) : (enqueueRec s r).fetchBad = s.fetchBad := by unfold enqueueRec; dsimp only; split <;> simp
@[simp] theorem enqueueRec_clr (s : State) (r : ErrRec) : (enqueueRec s r).clr = s.clr := by unfold enqueueRec; dsimp only; split <;> simp
@[simp] theorem enqueueRec_lut (s : State) (r : ErrRec) : (enqueueRec s r).lut = s.lut := by unfold enqueueRec; dsimp only; split <;> simp
@[simp] theorem enqueueRec_imp (s : State) (r : ErrRec) : (enqueueRec s r).imp = s.imp := by unfold enqueueRec; dsimp only; split <;> simp
@[simp] theorem enqueueRec_gal (s : State) (r : ErrRec) : (enqueueRec s r).gal = s.gal := by unfold enqueueRec; dsimp only; split <;> simp
@[simp] theorem enqueueRec_mag (s : State) (r : ErrRec) : (enqueueRec s r).mag = s.mag := by unfold enqueueRec; dsimp only; split <;> simp
@[simp] theorem enqueueRec_hev (s : State) (r : ErrRec) : (enqueueRec s r).hev = s.hev := by unfold enqueueRec; dsimp only; split <;> simp
@[simp] theorem enqueueRec_dsp (s : State) (r : ErrRec) : (enqueueRec s r).dsp = s.dsp := by unfold enqueueRec; dsimp only; split <;> simp
@[simp] theorem enqueueRec_net (s : State) (r : ErrRec) : (enqueueRec s r).net = s.net := by unfold enqueueRec; dsimp only; split <;> simp
@[simp] theorem enqueueRec_aud (s : State) (r : ErrRec) : (enqueueRec s r).aud = s.aud := by unfold enqueueRec; dsimp only; split <;> simp
@[simp] theorem enqueueRec_hq (s : State) (r : ErrRec) : (enqueueRec s r).hq = s.hq := by unfold enqueueRec; dsimp only; split <;> simp
@[simp] theorem enqueueRec_mbx (s : State) (r : ErrRec) : (enqueueRec s r).mbx = s.mbx := by unfold enqueueRec; dsimp only; split <;> simp
@[simp] theorem enqueueRec_per (s : State) (r : ErrRec) : (enqueueRec s r).per = s.per := by unfold enqueueRec; dsimp only; split <;> simp
@[simp] theorem enqueueRec_mem (s : State) (r : ErrRec) : (enqueueRec s r).mem = s.mem := by unfold enqueueRec; dsimp only; split <;> simp
@[simp] theorem enqueueRec_thm (s : State) (r : ErrRec) : (enqueueRec s r).thm = s.thm := by unfold enqueueRec; dsimp only; split <;> simp
@[simp] theorem enqueueRec_mgt (s : State) (r : ErrRec) : (enqueueRec s r).mgt = s.mgt := by unfold enqueueRec; dsimp only; split <;> simp
@[simp] theorem enqueueRec_sys (s : State) (r : ErrRec) : (enqueueRec s r).sys = s.sys := by unfold enqueueRec; dsimp only; split <;> simp

/-! ### overflow -/

@[simp] theorem overflow_now (s : State) : (overflow s).now = s.now := by
  unfold overflow; split
  · rfl
  · dsimp only; split <;> simp
@[simp] theorem overflow_free (s : State) : (overflow s).free = s.free := by
  unfold overflow; split
  · rfl
  · dsimp only; split <;> simp
@[simp] theorem overflow_pending (s : State) : (overflow s).pending = s.pending := by
  unfold overflow; split
  · rfl
  · dsimp only; split <;> simp
@[simp] theorem overflow_captures (s : State) : (overflow s).captures = s.captures := by
  unfold overflow; split
  · rfl
  · dsimp only; split <;> simp
@[simp] theorem overflow_staged (s : State) : (overflow s).staged = s.staged := by
  unfold overflow; split
  · rfl
  · dsimp only; split <;> simp
@[simp] theorem overflow_msix (s : State) : (overflow s).msix = s.msix := by
  unfold overflow; split
  · rfl
  · dsimp only; split <;> simp
@[simp] theorem overflow_irq (s : State) : (overflow s).irq = s.irq := by
  unfold overflow; split
  · rfl
  · dsimp only; split <;> simp
@[simp] theorem overflow_ref (s : State) : (overflow s).ref = s.ref := by
  unfold overflow; split
  · rfl
  · dsimp only; split <;> simp
@[simp] theorem overflow_frm (s : State) : (overflow s).frm = s.frm := by
  unfold overflow; split
  · rfl
  · dsimp only; split <;> simp
@[simp] theorem overflow_lnk (s : State) : (overflow s).lnk = s.lnk := by
  unfold overflow; split
  · rfl
  · dsimp only; split <;> simp
@[simp] theorem overflow_ing (s : State) : (overflow s).ing = s.ing := by
  unfold overflow; split
  · rfl
  · dsimp only; split <;> simp
@[simp] theorem overflow_live (s : State) : (overflow s).live = s.live := by
  unfold overflow; split
  · rfl
  · dsimp only; split <;> simp
@[simp] theorem overflow_ptpNow (s : State) : (overflow s).ptpNow = s.ptpNow := by
  unfold overflow; split
  · rfl
  · dsimp only; split <;> simp
@[simp] theorem overflow_coreAt (s : State) : (overflow s).coreAt = s.coreAt := by
  unfold overflow; split
  · rfl
  · dsimp only; split <;> simp
@[simp] theorem overflow_rfe (s : State) : (overflow s).rfe = s.rfe := by
  unfold overflow; split
  · rfl
  · dsimp only; split <;> simp
@[simp] theorem overflow_fetchBad (s : State) : (overflow s).fetchBad = s.fetchBad := by
  unfold overflow; split
  · rfl
  · dsimp only; split <;> simp
@[simp] theorem overflow_clr (s : State) : (overflow s).clr = s.clr := by
  unfold overflow; split
  · rfl
  · dsimp only; split <;> simp
@[simp] theorem overflow_lut (s : State) : (overflow s).lut = s.lut := by
  unfold overflow; split
  · rfl
  · dsimp only; split <;> simp
@[simp] theorem overflow_imp (s : State) : (overflow s).imp = s.imp := by
  unfold overflow; split
  · rfl
  · dsimp only; split <;> simp
@[simp] theorem overflow_gal (s : State) : (overflow s).gal = s.gal := by
  unfold overflow; split
  · rfl
  · dsimp only; split <;> simp
@[simp] theorem overflow_mag (s : State) : (overflow s).mag = s.mag := by
  unfold overflow; split
  · rfl
  · dsimp only; split <;> simp
@[simp] theorem overflow_hev (s : State) : (overflow s).hev = s.hev := by
  unfold overflow; split
  · rfl
  · dsimp only; split <;> simp
@[simp] theorem overflow_dsp (s : State) : (overflow s).dsp = s.dsp := by
  unfold overflow; split
  · rfl
  · dsimp only; split <;> simp
@[simp] theorem overflow_net (s : State) : (overflow s).net = s.net := by
  unfold overflow; split
  · rfl
  · dsimp only; split <;> simp
@[simp] theorem overflow_aud (s : State) : (overflow s).aud = s.aud := by
  unfold overflow; split
  · rfl
  · dsimp only; split <;> simp
@[simp] theorem overflow_hq (s : State) : (overflow s).hq = s.hq := by
  unfold overflow; split
  · rfl
  · dsimp only; split <;> simp
@[simp] theorem overflow_mbx (s : State) : (overflow s).mbx = s.mbx := by
  unfold overflow; split
  · rfl
  · dsimp only; split <;> simp
@[simp] theorem overflow_per (s : State) : (overflow s).per = s.per := by
  unfold overflow; split
  · rfl
  · dsimp only; split <;> simp
@[simp] theorem overflow_mem (s : State) : (overflow s).mem = s.mem := by
  unfold overflow; split
  · rfl
  · dsimp only; split <;> simp
@[simp] theorem overflow_thm (s : State) : (overflow s).thm = s.thm := by
  unfold overflow; split
  · rfl
  · dsimp only; split <;> simp
@[simp] theorem overflow_sys (s : State) : (overflow s).sys = s.sys := by
  unfold overflow; split
  · rfl
  · dsimp only; split <;> simp

/-! ### record -/

@[simp] theorem record_now (s : State) (tag code : Nat) (sev : Severity) (ctx : Ctx) (status : Nat) : (record s tag code sev ctx status).now = s.now := by
  unfold record; dsimp only; split
  · simp
  · split <;> split <;> simp
@[simp] theorem record_free (s : State) (tag code : Nat) (sev : Severity) (ctx : Ctx) (status : Nat) : (record s tag code sev ctx status).free = s.free := by
  unfold record; dsimp only; split
  · simp
  · split <;> split <;> simp
@[simp] theorem record_pending (s : State) (tag code : Nat) (sev : Severity) (ctx : Ctx) (status : Nat) : (record s tag code sev ctx status).pending = s.pending := by
  unfold record; dsimp only; split
  · simp
  · split <;> split <;> simp
@[simp] theorem record_captures (s : State) (tag code : Nat) (sev : Severity) (ctx : Ctx) (status : Nat) : (record s tag code sev ctx status).captures = s.captures := by
  unfold record; dsimp only; split
  · simp
  · split <;> split <;> simp
@[simp] theorem record_staged (s : State) (tag code : Nat) (sev : Severity) (ctx : Ctx) (status : Nat) : (record s tag code sev ctx status).staged = s.staged := by
  unfold record; dsimp only; split
  · simp
  · split <;> split <;> simp
@[simp] theorem record_msix (s : State) (tag code : Nat) (sev : Severity) (ctx : Ctx) (status : Nat) : (record s tag code sev ctx status).msix = s.msix := by
  unfold record; dsimp only; split
  · simp
  · split <;> split <;> simp
@[simp] theorem record_irq (s : State) (tag code : Nat) (sev : Severity) (ctx : Ctx) (status : Nat) : (record s tag code sev ctx status).irq = s.irq := by
  unfold record; dsimp only; split
  · simp
  · split <;> split <;> simp
@[simp] theorem record_ref (s : State) (tag code : Nat) (sev : Severity) (ctx : Ctx) (status : Nat) : (record s tag code sev ctx status).ref = s.ref := by
  unfold record; dsimp only; split
  · simp
  · split <;> split <;> simp
@[simp] theorem record_frm (s : State) (tag code : Nat) (sev : Severity) (ctx : Ctx) (status : Nat) : (record s tag code sev ctx status).frm = s.frm := by
  unfold record; dsimp only; split
  · simp
  · split <;> split <;> simp
@[simp] theorem record_lnk (s : State) (tag code : Nat) (sev : Severity) (ctx : Ctx) (status : Nat) : (record s tag code sev ctx status).lnk = s.lnk := by
  unfold record; dsimp only; split
  · simp
  · split <;> split <;> simp
@[simp] theorem record_ing (s : State) (tag code : Nat) (sev : Severity) (ctx : Ctx) (status : Nat) : (record s tag code sev ctx status).ing = s.ing := by
  unfold record; dsimp only; split
  · simp
  · split <;> split <;> simp
@[simp] theorem record_live (s : State) (tag code : Nat) (sev : Severity) (ctx : Ctx) (status : Nat) : (record s tag code sev ctx status).live = s.live := by
  unfold record; dsimp only; split
  · simp
  · split <;> split <;> simp
@[simp] theorem record_ptpNow (s : State) (tag code : Nat) (sev : Severity) (ctx : Ctx) (status : Nat) : (record s tag code sev ctx status).ptpNow = s.ptpNow := by
  unfold record; dsimp only; split
  · simp
  · split <;> split <;> simp
@[simp] theorem record_coreAt (s : State) (tag code : Nat) (sev : Severity) (ctx : Ctx) (status : Nat) : (record s tag code sev ctx status).coreAt = s.coreAt := by
  unfold record; dsimp only; split
  · simp
  · split <;> split <;> simp
@[simp] theorem record_rfe (s : State) (tag code : Nat) (sev : Severity) (ctx : Ctx) (status : Nat) : (record s tag code sev ctx status).rfe = s.rfe := by
  unfold record; dsimp only; split
  · simp
  · split <;> split <;> simp
@[simp] theorem record_fetchBad (s : State) (tag code : Nat) (sev : Severity) (ctx : Ctx) (status : Nat) : (record s tag code sev ctx status).fetchBad = s.fetchBad := by
  unfold record; dsimp only; split
  · simp
  · split <;> split <;> simp
@[simp] theorem record_clr (s : State) (tag code : Nat) (sev : Severity) (ctx : Ctx) (status : Nat) : (record s tag code sev ctx status).clr = s.clr := by
  unfold record; dsimp only; split
  · simp
  · split <;> split <;> simp
@[simp] theorem record_lut (s : State) (tag code : Nat) (sev : Severity) (ctx : Ctx) (status : Nat) : (record s tag code sev ctx status).lut = s.lut := by
  unfold record; dsimp only; split
  · simp
  · split <;> split <;> simp
@[simp] theorem record_imp (s : State) (tag code : Nat) (sev : Severity) (ctx : Ctx) (status : Nat) : (record s tag code sev ctx status).imp = s.imp := by
  unfold record; dsimp only; split
  · simp
  · split <;> split <;> simp
@[simp] theorem record_gal (s : State) (tag code : Nat) (sev : Severity) (ctx : Ctx) (status : Nat) : (record s tag code sev ctx status).gal = s.gal := by
  unfold record; dsimp only; split
  · simp
  · split <;> split <;> simp
@[simp] theorem record_mag (s : State) (tag code : Nat) (sev : Severity) (ctx : Ctx) (status : Nat) : (record s tag code sev ctx status).mag = s.mag := by
  unfold record; dsimp only; split
  · simp
  · split <;> split <;> simp
@[simp] theorem record_hev (s : State) (tag code : Nat) (sev : Severity) (ctx : Ctx) (status : Nat) : (record s tag code sev ctx status).hev = s.hev := by
  unfold record; dsimp only; split
  · simp
  · split <;> split <;> simp
@[simp] theorem record_dsp (s : State) (tag code : Nat) (sev : Severity) (ctx : Ctx) (status : Nat) : (record s tag code sev ctx status).dsp = s.dsp := by
  unfold record; dsimp only; split
  · simp
  · split <;> split <;> simp
@[simp] theorem record_net (s : State) (tag code : Nat) (sev : Severity) (ctx : Ctx) (status : Nat) : (record s tag code sev ctx status).net = s.net := by
  unfold record; dsimp only; split
  · simp
  · split <;> split <;> simp
@[simp] theorem record_aud (s : State) (tag code : Nat) (sev : Severity) (ctx : Ctx) (status : Nat) : (record s tag code sev ctx status).aud = s.aud := by
  unfold record; dsimp only; split
  · simp
  · split <;> split <;> simp
@[simp] theorem record_hq (s : State) (tag code : Nat) (sev : Severity) (ctx : Ctx) (status : Nat) : (record s tag code sev ctx status).hq = s.hq := by
  unfold record; dsimp only; split
  · simp
  · split <;> split <;> simp
@[simp] theorem record_mbx (s : State) (tag code : Nat) (sev : Severity) (ctx : Ctx) (status : Nat) : (record s tag code sev ctx status).mbx = s.mbx := by
  unfold record; dsimp only; split
  · simp
  · split <;> split <;> simp
@[simp] theorem record_per (s : State) (tag code : Nat) (sev : Severity) (ctx : Ctx) (status : Nat) : (record s tag code sev ctx status).per = s.per := by
  unfold record; dsimp only; split
  · simp
  · split <;> split <;> simp
@[simp] theorem record_mem (s : State) (tag code : Nat) (sev : Severity) (ctx : Ctx) (status : Nat) : (record s tag code sev ctx status).mem = s.mem := by
  unfold record; dsimp only; split
  · simp
  · split <;> split <;> simp
@[simp] theorem record_thm (s : State) (tag code : Nat) (sev : Severity) (ctx : Ctx) (status : Nat) : (record s tag code sev ctx status).thm = s.thm := by
  unfold record; dsimp only; split
  · simp
  · split <;> split <;> simp
@[simp] theorem record_sys (s : State) (tag code : Nat) (sev : Severity) (ctx : Ctx) (status : Nat) : (record s tag code sev ctx status).sys = s.sys := by
  unfold record; dsimp only; split
  · simp
  · split <;> split <;> simp

/-! ### event -/

@[simp] theorem event_now (s : State) (b : Blk) (i code : Nat) (sev : Severity) (ctx : Ctx) (status : Nat) : (event s b i code sev ctx status).now = s.now := by simp [event]
@[simp] theorem event_free (s : State) (b : Blk) (i code : Nat) (sev : Severity) (ctx : Ctx) (status : Nat) : (event s b i code sev ctx status).free = s.free := by simp [event]
@[simp] theorem event_pending (s : State) (b : Blk) (i code : Nat) (sev : Severity) (ctx : Ctx) (status : Nat) : (event s b i code sev ctx status).pending = s.pending := by simp [event]
@[simp] theorem event_captures (s : State) (b : Blk) (i code : Nat) (sev : Severity) (ctx : Ctx) (status : Nat) : (event s b i code sev ctx status).captures = s.captures := by simp [event]
@[simp] theorem event_staged (s : State) (b : Blk) (i code : Nat) (sev : Severity) (ctx : Ctx) (status : Nat) : (event s b i code sev ctx status).staged = s.staged := by simp [event]
@[simp] theorem event_msix (s : State) (b : Blk) (i code : Nat) (sev : Severity) (ctx : Ctx) (status : Nat) : (event s b i code sev ctx status).msix = s.msix := by simp [event]
@[simp] theorem event_irq (s : State) (b : Blk) (i code : Nat) (sev : Severity) (ctx : Ctx) (status : Nat) : (event s b i code sev ctx status).irq = s.irq := by simp [event]
@[simp] theorem event_ref (s : State) (b : Blk) (i code : Nat) (sev : Severity) (ctx : Ctx) (status : Nat) : (event s b i code sev ctx status).ref = s.ref := by simp [event]
@[simp] theorem event_frm (s : State) (b : Blk) (i code : Nat) (sev : Severity) (ctx : Ctx) (status : Nat) : (event s b i code sev ctx status).frm = s.frm := by simp [event]
@[simp] theorem event_lnk (s : State) (b : Blk) (i code : Nat) (sev : Severity) (ctx : Ctx) (status : Nat) : (event s b i code sev ctx status).lnk = s.lnk := by simp [event]
@[simp] theorem event_ing (s : State) (b : Blk) (i code : Nat) (sev : Severity) (ctx : Ctx) (status : Nat) : (event s b i code sev ctx status).ing = s.ing := by simp [event]
@[simp] theorem event_live (s : State) (b : Blk) (i code : Nat) (sev : Severity) (ctx : Ctx) (status : Nat) : (event s b i code sev ctx status).live = s.live := by simp [event]
@[simp] theorem event_ptpNow (s : State) (b : Blk) (i code : Nat) (sev : Severity) (ctx : Ctx) (status : Nat) : (event s b i code sev ctx status).ptpNow = s.ptpNow := by simp [event]
@[simp] theorem event_coreAt (s : State) (b : Blk) (i code : Nat) (sev : Severity) (ctx : Ctx) (status : Nat) : (event s b i code sev ctx status).coreAt = s.coreAt := by simp [event]
@[simp] theorem event_rfe (s : State) (b : Blk) (i code : Nat) (sev : Severity) (ctx : Ctx) (status : Nat) : (event s b i code sev ctx status).rfe = s.rfe := by simp [event]
@[simp] theorem event_fetchBad (s : State) (b : Blk) (i code : Nat) (sev : Severity) (ctx : Ctx) (status : Nat) : (event s b i code sev ctx status).fetchBad = s.fetchBad := by simp [event]
@[simp] theorem event_clr (s : State) (b : Blk) (i code : Nat) (sev : Severity) (ctx : Ctx) (status : Nat) : (event s b i code sev ctx status).clr = s.clr := by simp [event]
@[simp] theorem event_lut (s : State) (b : Blk) (i code : Nat) (sev : Severity) (ctx : Ctx) (status : Nat) : (event s b i code sev ctx status).lut = s.lut := by simp [event]
@[simp] theorem event_imp (s : State) (b : Blk) (i code : Nat) (sev : Severity) (ctx : Ctx) (status : Nat) : (event s b i code sev ctx status).imp = s.imp := by simp [event]
@[simp] theorem event_gal (s : State) (b : Blk) (i code : Nat) (sev : Severity) (ctx : Ctx) (status : Nat) : (event s b i code sev ctx status).gal = s.gal := by simp [event]
@[simp] theorem event_mag (s : State) (b : Blk) (i code : Nat) (sev : Severity) (ctx : Ctx) (status : Nat) : (event s b i code sev ctx status).mag = s.mag := by simp [event]
@[simp] theorem event_hev (s : State) (b : Blk) (i code : Nat) (sev : Severity) (ctx : Ctx) (status : Nat) : (event s b i code sev ctx status).hev = s.hev := by simp [event]
@[simp] theorem event_dsp (s : State) (b : Blk) (i code : Nat) (sev : Severity) (ctx : Ctx) (status : Nat) : (event s b i code sev ctx status).dsp = s.dsp := by simp [event]
@[simp] theorem event_net (s : State) (b : Blk) (i code : Nat) (sev : Severity) (ctx : Ctx) (status : Nat) : (event s b i code sev ctx status).net = s.net := by simp [event]
@[simp] theorem event_aud (s : State) (b : Blk) (i code : Nat) (sev : Severity) (ctx : Ctx) (status : Nat) : (event s b i code sev ctx status).aud = s.aud := by simp [event]
@[simp] theorem event_hq (s : State) (b : Blk) (i code : Nat) (sev : Severity) (ctx : Ctx) (status : Nat) : (event s b i code sev ctx status).hq = s.hq := by simp [event]
@[simp] theorem event_mbx (s : State) (b : Blk) (i code : Nat) (sev : Severity) (ctx : Ctx) (status : Nat) : (event s b i code sev ctx status).mbx = s.mbx := by simp [event]
@[simp] theorem event_per (s : State) (b : Blk) (i code : Nat) (sev : Severity) (ctx : Ctx) (status : Nat) : (event s b i code sev ctx status).per = s.per := by simp [event]
@[simp] theorem event_mem (s : State) (b : Blk) (i code : Nat) (sev : Severity) (ctx : Ctx) (status : Nat) : (event s b i code sev ctx status).mem = s.mem := by simp [event]
@[simp] theorem event_thm (s : State) (b : Blk) (i code : Nat) (sev : Severity) (ctx : Ctx) (status : Nat) : (event s b i code sev ctx status).thm = s.thm := by simp [event]
@[simp] theorem event_sys (s : State) (b : Blk) (i code : Nat) (sev : Severity) (ctx : Ctx) (status : Nat) : (event s b i code sev ctx status).sys = s.sys := by simp [event]

/-! ### fatal -/

@[simp] theorem fatal_now (s : State) (tag code : Nat) (ctx : Ctx) : (fatal s tag code ctx).now = s.now := by simp [fatal]
@[simp] theorem fatal_free (s : State) (tag code : Nat) (ctx : Ctx) : (fatal s tag code ctx).free = s.free := by simp [fatal]
@[simp] theorem fatal_pending (s : State) (tag code : Nat) (ctx : Ctx) : (fatal s tag code ctx).pending = s.pending := by simp [fatal]
@[simp] theorem fatal_captures (s : State) (tag code : Nat) (ctx : Ctx) : (fatal s tag code ctx).captures = s.captures := by simp [fatal]
@[simp] theorem fatal_staged (s : State) (tag code : Nat) (ctx : Ctx) : (fatal s tag code ctx).staged = s.staged := by simp [fatal]
@[simp] theorem fatal_msix (s : State) (tag code : Nat) (ctx : Ctx) : (fatal s tag code ctx).msix = s.msix := by simp [fatal]
@[simp] theorem fatal_irq (s : State) (tag code : Nat) (ctx : Ctx) : (fatal s tag code ctx).irq = s.irq := by simp [fatal]
@[simp] theorem fatal_ref (s : State) (tag code : Nat) (ctx : Ctx) : (fatal s tag code ctx).ref = s.ref := by simp [fatal]
@[simp] theorem fatal_frm (s : State) (tag code : Nat) (ctx : Ctx) : (fatal s tag code ctx).frm = s.frm := by simp [fatal]
@[simp] theorem fatal_lnk (s : State) (tag code : Nat) (ctx : Ctx) : (fatal s tag code ctx).lnk = s.lnk := by simp [fatal]
@[simp] theorem fatal_ing (s : State) (tag code : Nat) (ctx : Ctx) : (fatal s tag code ctx).ing = s.ing := by simp [fatal]
@[simp] theorem fatal_live (s : State) (tag code : Nat) (ctx : Ctx) : (fatal s tag code ctx).live = s.live := by simp [fatal]
@[simp] theorem fatal_ptpNow (s : State) (tag code : Nat) (ctx : Ctx) : (fatal s tag code ctx).ptpNow = s.ptpNow := by simp [fatal]
@[simp] theorem fatal_coreAt (s : State) (tag code : Nat) (ctx : Ctx) : (fatal s tag code ctx).coreAt = s.coreAt := by simp [fatal]
@[simp] theorem fatal_rfe (s : State) (tag code : Nat) (ctx : Ctx) : (fatal s tag code ctx).rfe = s.rfe := by simp [fatal]
@[simp] theorem fatal_fetchBad (s : State) (tag code : Nat) (ctx : Ctx) : (fatal s tag code ctx).fetchBad = s.fetchBad := by simp [fatal]
@[simp] theorem fatal_clr (s : State) (tag code : Nat) (ctx : Ctx) : (fatal s tag code ctx).clr = s.clr := by simp [fatal]
@[simp] theorem fatal_lut (s : State) (tag code : Nat) (ctx : Ctx) : (fatal s tag code ctx).lut = s.lut := by simp [fatal]
@[simp] theorem fatal_imp (s : State) (tag code : Nat) (ctx : Ctx) : (fatal s tag code ctx).imp = s.imp := by simp [fatal]
@[simp] theorem fatal_gal (s : State) (tag code : Nat) (ctx : Ctx) : (fatal s tag code ctx).gal = s.gal := by simp [fatal]
@[simp] theorem fatal_mag (s : State) (tag code : Nat) (ctx : Ctx) : (fatal s tag code ctx).mag = s.mag := by simp [fatal]
@[simp] theorem fatal_hev (s : State) (tag code : Nat) (ctx : Ctx) : (fatal s tag code ctx).hev = s.hev := by simp [fatal]
@[simp] theorem fatal_dsp (s : State) (tag code : Nat) (ctx : Ctx) : (fatal s tag code ctx).dsp = s.dsp := by simp [fatal]
@[simp] theorem fatal_net (s : State) (tag code : Nat) (ctx : Ctx) : (fatal s tag code ctx).net = s.net := by simp [fatal]
@[simp] theorem fatal_aud (s : State) (tag code : Nat) (ctx : Ctx) : (fatal s tag code ctx).aud = s.aud := by simp [fatal]
@[simp] theorem fatal_hq (s : State) (tag code : Nat) (ctx : Ctx) : (fatal s tag code ctx).hq = s.hq := by simp [fatal]
@[simp] theorem fatal_mbx (s : State) (tag code : Nat) (ctx : Ctx) : (fatal s tag code ctx).mbx = s.mbx := by simp [fatal]
@[simp] theorem fatal_per (s : State) (tag code : Nat) (ctx : Ctx) : (fatal s tag code ctx).per = s.per := by simp [fatal]
@[simp] theorem fatal_mem (s : State) (tag code : Nat) (ctx : Ctx) : (fatal s tag code ctx).mem = s.mem := by simp [fatal]
@[simp] theorem fatal_thm (s : State) (tag code : Nat) (ctx : Ctx) : (fatal s tag code ctx).thm = s.thm := by simp [fatal]
@[simp] theorem fatal_sys (s : State) (tag code : Nat) (ctx : Ctx) : (fatal s tag code ctx).sys = s.sys := by simp [fatal]

/-! ### queueFell -/

@[simp] theorem queueFell_now (s : State) : (queueFell s).now = s.now := by unfold queueFell; split <;> rfl
@[simp] theorem queueFell_free (s : State) : (queueFell s).free = s.free := by unfold queueFell; split <;> rfl
@[simp] theorem queueFell_out (s : State) : (queueFell s).out = s.out := by unfold queueFell; split <;> rfl
@[simp] theorem queueFell_pending (s : State) : (queueFell s).pending = s.pending := by unfold queueFell; split <;> rfl
@[simp] theorem queueFell_regs (s : State) : (queueFell s).regs = s.regs := by unfold queueFell; split <;> rfl
@[simp] theorem queueFell_captures (s : State) : (queueFell s).captures = s.captures := by unfold queueFell; split <;> rfl
@[simp] theorem queueFell_staged (s : State) : (queueFell s).staged = s.staged := by unfold queueFell; split <;> rfl
@[simp] theorem queueFell_msix (s : State) : (queueFell s).msix = s.msix := by unfold queueFell; split <;> rfl
@[simp] theorem queueFell_pba (s : State) : (queueFell s).pba = s.pba := by unfold queueFell; split <;> rfl
@[simp] theorem queueFell_irq (s : State) : (queueFell s).irq = s.irq := by unfold queueFell; split <;> rfl
@[simp] theorem queueFell_ref (s : State) : (queueFell s).ref = s.ref := by unfold queueFell; split <;> rfl
@[simp] theorem queueFell_frm (s : State) : (queueFell s).frm = s.frm := by unfold queueFell; split <;> rfl
@[simp] theorem queueFell_lnk (s : State) : (queueFell s).lnk = s.lnk := by unfold queueFell; split <;> rfl
@[simp] theorem queueFell_ing (s : State) : (queueFell s).ing = s.ing := by unfold queueFell; split <;> rfl
@[simp] theorem queueFell_live (s : State) : (queueFell s).live = s.live := by unfold queueFell; split <;> rfl
@[simp] theorem queueFell_ptpNow (s : State) : (queueFell s).ptpNow = s.ptpNow := by unfold queueFell; split <;> rfl
@[simp] theorem queueFell_coreAt (s : State) : (queueFell s).coreAt = s.coreAt := by unfold queueFell; split <;> rfl
@[simp] theorem queueFell_rfe (s : State) : (queueFell s).rfe = s.rfe := by unfold queueFell; split <;> rfl
@[simp] theorem queueFell_fetchBad (s : State) : (queueFell s).fetchBad = s.fetchBad := by unfold queueFell; split <;> rfl
@[simp] theorem queueFell_clr (s : State) : (queueFell s).clr = s.clr := by unfold queueFell; split <;> rfl
@[simp] theorem queueFell_lut (s : State) : (queueFell s).lut = s.lut := by unfold queueFell; split <;> rfl
@[simp] theorem queueFell_imp (s : State) : (queueFell s).imp = s.imp := by unfold queueFell; split <;> rfl
@[simp] theorem queueFell_gal (s : State) : (queueFell s).gal = s.gal := by unfold queueFell; split <;> rfl
@[simp] theorem queueFell_mag (s : State) : (queueFell s).mag = s.mag := by unfold queueFell; split <;> rfl
@[simp] theorem queueFell_hev (s : State) : (queueFell s).hev = s.hev := by unfold queueFell; split <;> rfl
@[simp] theorem queueFell_dsp (s : State) : (queueFell s).dsp = s.dsp := by unfold queueFell; split <;> rfl
@[simp] theorem queueFell_net (s : State) : (queueFell s).net = s.net := by unfold queueFell; split <;> rfl
@[simp] theorem queueFell_aud (s : State) : (queueFell s).aud = s.aud := by unfold queueFell; split <;> rfl
@[simp] theorem queueFell_hq (s : State) : (queueFell s).hq = s.hq := by unfold queueFell; split <;> rfl
@[simp] theorem queueFell_mbx (s : State) : (queueFell s).mbx = s.mbx := by unfold queueFell; split <;> rfl
@[simp] theorem queueFell_per (s : State) : (queueFell s).per = s.per := by unfold queueFell; split <;> rfl
@[simp] theorem queueFell_mem (s : State) : (queueFell s).mem = s.mem := by unfold queueFell; split <;> rfl
@[simp] theorem queueFell_thm (s : State) : (queueFell s).thm = s.thm := by unfold queueFell; split <;> rfl
@[simp] theorem queueFell_mgt (s : State) : (queueFell s).mgt = s.mgt := by unfold queueFell; split <;> rfl
@[simp] theorem queueFell_sys (s : State) : (queueFell s).sys = s.sys := by unfold queueFell; split <;> rfl

/-! ### sweepHandles -/

@[simp] theorem sweepHandles_now (s : State) : (sweepHandles s).now = s.now := by unfold sweepHandles; split <;> rfl
@[simp] theorem sweepHandles_free (s : State) : (sweepHandles s).free = s.free := by unfold sweepHandles; split <;> rfl
@[simp] theorem sweepHandles_out (s : State) : (sweepHandles s).out = s.out := by unfold sweepHandles; split <;> rfl
@[simp] theorem sweepHandles_pending (s : State) : (sweepHandles s).pending = s.pending := by unfold sweepHandles; split <;> rfl
@[simp] theorem sweepHandles_regs (s : State) : (sweepHandles s).regs = s.regs := by unfold sweepHandles; split <;> rfl
@[simp] theorem sweepHandles_captures (s : State) : (sweepHandles s).captures = s.captures := by unfold sweepHandles; split <;> rfl
@[simp] theorem sweepHandles_staged (s : State) : (sweepHandles s).staged = s.staged := by unfold sweepHandles; split <;> rfl
@[simp] theorem sweepHandles_msix (s : State) : (sweepHandles s).msix = s.msix := by unfold sweepHandles; split <;> rfl
@[simp] theorem sweepHandles_pba (s : State) : (sweepHandles s).pba = s.pba := by unfold sweepHandles; split <;> rfl
@[simp] theorem sweepHandles_flt (s : State) : (sweepHandles s).flt = s.flt := by unfold sweepHandles; split <;> rfl
@[simp] theorem sweepHandles_irq (s : State) : (sweepHandles s).irq = s.irq := by unfold sweepHandles; split <;> rfl
@[simp] theorem sweepHandles_ref (s : State) : (sweepHandles s).ref = s.ref := by unfold sweepHandles; split <;> rfl
@[simp] theorem sweepHandles_frm (s : State) : (sweepHandles s).frm = s.frm := by unfold sweepHandles; split <;> rfl
@[simp] theorem sweepHandles_lnk (s : State) : (sweepHandles s).lnk = s.lnk := by unfold sweepHandles; split <;> rfl
@[simp] theorem sweepHandles_ing (s : State) : (sweepHandles s).ing = s.ing := by unfold sweepHandles; split <;> rfl
@[simp] theorem sweepHandles_live (s : State) : (sweepHandles s).live = s.live := by unfold sweepHandles; split <;> rfl
@[simp] theorem sweepHandles_ptpNow (s : State) : (sweepHandles s).ptpNow = s.ptpNow := by unfold sweepHandles; split <;> rfl
@[simp] theorem sweepHandles_coreAt (s : State) : (sweepHandles s).coreAt = s.coreAt := by unfold sweepHandles; split <;> rfl
@[simp] theorem sweepHandles_rfe (s : State) : (sweepHandles s).rfe = s.rfe := by unfold sweepHandles; split <;> rfl
@[simp] theorem sweepHandles_fetchBad (s : State) : (sweepHandles s).fetchBad = s.fetchBad := by unfold sweepHandles; split <;> rfl
@[simp] theorem sweepHandles_clr (s : State) : (sweepHandles s).clr = s.clr := by unfold sweepHandles; split <;> rfl
@[simp] theorem sweepHandles_lut (s : State) : (sweepHandles s).lut = s.lut := by unfold sweepHandles; split <;> rfl
@[simp] theorem sweepHandles_gal (s : State) : (sweepHandles s).gal = s.gal := by unfold sweepHandles; split <;> rfl
@[simp] theorem sweepHandles_mag (s : State) : (sweepHandles s).mag = s.mag := by unfold sweepHandles; split <;> rfl
@[simp] theorem sweepHandles_hev (s : State) : (sweepHandles s).hev = s.hev := by unfold sweepHandles; split <;> rfl
@[simp] theorem sweepHandles_dsp (s : State) : (sweepHandles s).dsp = s.dsp := by unfold sweepHandles; split <;> rfl
@[simp] theorem sweepHandles_net (s : State) : (sweepHandles s).net = s.net := by unfold sweepHandles; split <;> rfl
@[simp] theorem sweepHandles_aud (s : State) : (sweepHandles s).aud = s.aud := by unfold sweepHandles; split <;> rfl
@[simp] theorem sweepHandles_hq (s : State) : (sweepHandles s).hq = s.hq := by unfold sweepHandles; split <;> rfl
@[simp] theorem sweepHandles_mbx (s : State) : (sweepHandles s).mbx = s.mbx := by unfold sweepHandles; split <;> rfl
@[simp] theorem sweepHandles_per (s : State) : (sweepHandles s).per = s.per := by unfold sweepHandles; split <;> rfl
@[simp] theorem sweepHandles_mem (s : State) : (sweepHandles s).mem = s.mem := by unfold sweepHandles; split <;> rfl
@[simp] theorem sweepHandles_thm (s : State) : (sweepHandles s).thm = s.thm := by unfold sweepHandles; split <;> rfl
@[simp] theorem sweepHandles_mgt (s : State) : (sweepHandles s).mgt = s.mgt := by unfold sweepHandles; split <;> rfl
@[simp] theorem sweepHandles_sys (s : State) : (sweepHandles s).sys = s.sys := by unfold sweepHandles; split <;> rfl

/-! ### endCycle -/

@[simp] theorem endCycle_free (s t : State) : (endCycle s t).free = t.free := by simp [endCycle]
@[simp] theorem endCycle_out (s t : State) : (endCycle s t).out = t.out := by simp [endCycle]
@[simp] theorem endCycle_regs (s t : State) : (endCycle s t).regs = t.regs := by simp [endCycle]
@[simp] theorem endCycle_captures (s t : State) : (endCycle s t).captures = t.captures := by simp [endCycle]
@[simp] theorem endCycle_staged (s t : State) : (endCycle s t).staged = t.staged := by simp [endCycle]
@[simp] theorem endCycle_msix (s t : State) : (endCycle s t).msix = t.msix := by simp [endCycle]
@[simp] theorem endCycle_pba (s t : State) : (endCycle s t).pba = t.pba := by simp [endCycle]
@[simp] theorem endCycle_flt (s t : State) : (endCycle s t).flt = t.flt := by simp [endCycle]
@[simp] theorem endCycle_irq (s t : State) : (endCycle s t).irq = t.irq := by simp [endCycle]
@[simp] theorem endCycle_ref (s t : State) : (endCycle s t).ref = t.ref := by simp [endCycle]
@[simp] theorem endCycle_frm (s t : State) : (endCycle s t).frm = t.frm := by simp [endCycle]
@[simp] theorem endCycle_lnk (s t : State) : (endCycle s t).lnk = t.lnk := by simp [endCycle]
@[simp] theorem endCycle_ing (s t : State) : (endCycle s t).ing = t.ing := by simp [endCycle]
@[simp] theorem endCycle_live (s t : State) : (endCycle s t).live = t.live := by simp [endCycle]
@[simp] theorem endCycle_ptpNow (s t : State) : (endCycle s t).ptpNow = t.ptpNow := by simp [endCycle]
@[simp] theorem endCycle_coreAt (s t : State) : (endCycle s t).coreAt = t.coreAt := by simp [endCycle]
@[simp] theorem endCycle_rfe (s t : State) : (endCycle s t).rfe = t.rfe := by simp [endCycle]
@[simp] theorem endCycle_fetchBad (s t : State) : (endCycle s t).fetchBad = t.fetchBad := by simp [endCycle]
@[simp] theorem endCycle_clr (s t : State) : (endCycle s t).clr = t.clr := by simp [endCycle]
@[simp] theorem endCycle_lut (s t : State) : (endCycle s t).lut = t.lut := by simp [endCycle]
@[simp] theorem endCycle_gal (s t : State) : (endCycle s t).gal = t.gal := by simp [endCycle]
@[simp] theorem endCycle_mag (s t : State) : (endCycle s t).mag = t.mag := by simp [endCycle]
@[simp] theorem endCycle_hev (s t : State) : (endCycle s t).hev = t.hev := by simp [endCycle]
@[simp] theorem endCycle_dsp (s t : State) : (endCycle s t).dsp = t.dsp := by simp [endCycle]
@[simp] theorem endCycle_net (s t : State) : (endCycle s t).net = t.net := by simp [endCycle]
@[simp] theorem endCycle_aud (s t : State) : (endCycle s t).aud = t.aud := by simp [endCycle]
@[simp] theorem endCycle_hq (s t : State) : (endCycle s t).hq = t.hq := by simp [endCycle]
@[simp] theorem endCycle_mbx (s t : State) : (endCycle s t).mbx = t.mbx := by simp [endCycle]
@[simp] theorem endCycle_per (s t : State) : (endCycle s t).per = t.per := by simp [endCycle]
@[simp] theorem endCycle_mem (s t : State) : (endCycle s t).mem = t.mem := by simp [endCycle]
@[simp] theorem endCycle_thm (s t : State) : (endCycle s t).thm = t.thm := by simp [endCycle]
@[simp] theorem endCycle_mgt (s t : State) : (endCycle s t).mgt = t.mgt := by simp [endCycle]
@[simp] theorem endCycle_sys (s t : State) : (endCycle s t).sys = t.sys := by simp [endCycle]
@[simp] theorem endCycle_pending (s t : State) : (endCycle s t).pending = s.pending := rfl
@[simp] theorem endCycle_now (s t : State) : (endCycle s t).now = s.now := rfl

end Sys2Proof.Machine
end

