-- ==== Sys2Proof/Laws/Ops.lean ====
section
/-! SUPPORT. What the shared operations do to the registers: the value a write leaves, the registers that an event or a record can touch,
and the canonical form of the register map. -/

namespace Sys2Proof.Machine
open Sys2Proof

/-! ### Register maps -/

/-- A register map's value at an offset after one at an offset is set. -/
theorem rmGet_rmSet (m : SMap Word) (i j : Nat) (v : Word) : rmGet (rmSet m i v) j = if j = i then v else rmGet m j := by
  unfold rmSet rmGet
  split
  · rename_i h; rw [mGet_mDel]; split
    · subst_vars; simp
    · rfl
  · rw [mGet_mPut]; split <;> simp

/-- Setting a register keeps the canonical form of the map. -/
theorem regsWf_rmSet (m : SMap Word) (i : Nat) (v : Word) (h : regsWf m = true) : regsWf (rmSet m i v) = true := by
  unfold regsWf at *
  simp only [Bool.and_eq_true] at h ⊢
  unfold rmSet
  split
  · exact ⟨mRising_mDel m i h.1, mDel_all m i _ h.2⟩
  · rename_i hv
    exact ⟨mRising_mPut m i v h.1, mPut_all m i v _ (by simpa using hv) h.2⟩

/-! ### Reads after writes -/

theorem regGet_regSet (s : State) (i j : Nat) (v : Word) :
    regGet (regSet s i v) j = if j = i then v &&& maskOf i else regGet s j := by
  simp only [regGet, regSet, rmGet_rmSet]

@[simp] theorem regGet_regSet_self (s : State) (i : Nat) (v : Word) : regGet (regSet s i v) i = v &&& maskOf i := by
  simp [regGet_regSet]

theorem regGet_regSet_ne (s : State) (i j : Nat) (v : Word) (h : j ≠ i) : regGet (regSet s i v) j = regGet s j := by
  simp [regGet_regSet, h]

@[simp] theorem regGet_emit (s : State) (o : Out) (j : Nat) : regGet (emit s o) j = regGet s j := rfl

@[simp] theorem regGet_withPending (s : State) (q : List Instr) (j : Nat) : regGet (s.withPending q) j = regGet s j := rfl

/-- A register reads the same in two states with one register map. -/
theorem regGet_congr (s t : State) (h : t.regs = s.regs) (j : Nat) : regGet t j = regGet s j := by simp [regGet, h]

@[simp] theorem regGet_endCycle (s t : State) (j : Nat) : regGet (endCycle s t) j = regGet t j := by simp [regGet]

@[simp] theorem regGet_msixSend (s : State) (fn vec j : Nat) : regGet (msixSend s fn vec) j = regGet s j := by simp [regGet]

theorem regGet_count (s : State) (i j : Nat) :
    regGet (count s i) j = if j = i then satInc (regGet s i) &&& maskOf i else regGet s j := by
  simp only [count, regGet_regSet]

theorem regGet_count_ne (s : State) (i j : Nat) (h : j ≠ i) : regGet (count s i) j = regGet s j := by
  simp [regGet_count, h]

theorem regGet_regPut (s : State) (i hi lo v j : Nat) :
    regGet (regPut s i hi lo v) j = if j = i then putField (regGet s i) hi lo v &&& maskOf i else regGet s j := by
  simp only [regPut, regGet_regSet]

/-- An edge on a source touches no register outside IRQ. -/
theorem regGet_sourceEdge (s : State) (i j : Nat) (h : j < 0x191000 ∨ 0x192000 ≤ j) (hi : i < 1024) :
    regGet (sourceEdge s i) j = regGet s j := by
  have h1 : j ≠ pendingReg i := by unfold pendingReg; omega
  have h2 : j ≠ hostPendingReg i := by unfold hostPendingReg; omega
  have h3 : j ≠ mergedReg := by unfold mergedReg; omega
  unfold sourceEdge
  split
  · dsimp only
    split <;> split <;> simp [regGet_regSet, regGet_count, h1, h2, h3]
  · rfl

theorem Blk.tag_lt (b : Blk) : 16 + b.tag < 1024 := by cases b <;> decide

/-- An event touches no register but its block's EVENTS and those of IRQ. -/
theorem regGet_raise (s : State) (b : Blk) (i j : Nat) (h : j < 0x191000 ∨ 0x192000 ≤ j) (hb : b.events ≠ some j) :
    regGet (raise s b i) j = regGet s j := by
  unfold raise
  rw [regGet_sourceEdge _ _ _ h b.tag_lt]
  cases hb' : b.events with
  | none => rfl
  | some off =>
    have : j ≠ off := by intro e; subst e; exact hb hb'
    simp [regGet_regSet, this]

/-- An event sets its bit of the block's EVENTS register. -/
theorem regGet_raise_events (s : State) (b : Blk) (i j : Nat) (hb : b.events = some j) :
    regGet (raise s b i) j = setBit (regGet s j) i &&& maskOf j := by
  have h : j < 0x191000 ∨ 0x192000 ≤ j := by cases b <;> simp_all [Blk.events] <;> omega
  unfold raise
  rw [regGet_sourceEdge _ _ _ h b.tag_lt]
  simp [hb]

@[simp] theorem regGet_takeSeq (s : State) (j : Nat) : regGet (takeSeq s) j = regGet s j := rfl

@[simp] theorem regGet_colophonCopy (s : State) (r : ErrRec) (m : Bool) (j : Nat) : regGet (colophonCopy s r m) j = regGet s j := by
  simp [regGet]

theorem outsideFlt.irq {j : Nat} (h : outsideFlt j) : j < 0x191000 ∨ 0x192000 ≤ j := by unfold outsideFlt at h; omega

theorem regGet_raise_flt (s : State) (i j : Nat) (h : outsideFlt j) : regGet (raise s .flt i) j = regGet s j := by
  apply regGet_raise _ _ _ _ h.irq
  simp only [Blk.events, ne_eq, Option.some.injEq]; unfold outsideFlt at h; omega

theorem regGet_enqueueRec (s : State) (r : ErrRec) (j : Nat) (h : outsideFlt j) : regGet (enqueueRec s r) j = regGet s j := by
  unfold enqueueRec
  dsimp only
  split
  · rw [regGet_raise_flt _ _ _ h]; rfl
  · rfl

theorem regGet_overflow (s : State) (j : Nat) (h : outsideFlt j) : regGet (overflow s) j = regGet s j := by
  have h8 : j ≠ 0x1A0008 := by unfold outsideFlt at h; omega
  unfold overflow
  split
  · rfl
  · dsimp only
    rw [regGet_raise_flt _ _ _ h]
    split
    · rw [regGet_enqueueRec _ _ _ h]; simp; rfl
    · rw [regGet_count_ne _ _ _ h8]; simp; rfl

/-- An error record touches no register outside FLT and IRQ. -/
theorem regGet_record (s : State) (tag code : Nat) (sev : Severity) (ctx : Ctx) (status j : Nat) (h : outsideFlt j) :
    regGet (record s tag code sev ctx status) j = regGet s j := by
  have h4 : j ≠ 0x1A0004 := by unfold outsideFlt at h; omega
  have h8 : j ≠ 0x1A0008 := by unfold outsideFlt at h; omega
  have hc : j ≠ 0x1A000C := by unfold outsideFlt at h; omega
  unfold record
  dsimp only
  split
  · rw [regGet_colophonCopy, regGet_count_ne _ _ _ hc]; rfl
  · split
    · split
      · rw [regGet_enqueueRec _ _ _ h]; simp
      · rw [regGet_overflow _ _ h, regGet_count_ne _ _ _ h4]; simp
    · split
      · rw [regGet_enqueueRec _ _ _ h]; simp
      · rw [regGet_overflow _ _ h, regGet_count_ne _ _ _ h8]; simp

/-- An event with a record touches no register but its block's EVENTS, FLT's and IRQ's. -/
theorem regGet_event (s : State) (b : Blk) (i code : Nat) (sev : Severity) (ctx : Ctx) (status j : Nat) (h : outsideFlt j)
    (hb : b.events ≠ some j) : regGet (event s b i code sev ctx status) j = regGet s j := by
  unfold event
  rw [regGet_raise _ _ _ _ h.irq hb, regGet_record _ _ _ _ _ _ _ h]

/-- An event with a record sets its bit. -/
theorem regGet_event_events (s : State) (b : Blk) (i code : Nat) (sev : Severity) (ctx : Ctx) (status j : Nat) (h : outsideFlt j)
    (hb : b.events = some j) : regGet (event s b i code sev ctx status) j = setBit (regGet s j) i &&& maskOf j := by
  unfold event
  rw [regGet_raise_events _ _ _ _ hb, regGet_record _ _ _ _ _ _ _ h]

/-! ### Bits -/

theorem bit_and (v w : Word) (i : Nat) : bit (v &&& w) i = (bit v i && bit w i) := by simp [bit]

/-! ### The canonical form -/

theorem regsWf_regSet (s : State) (i : Nat) (v : Word) (h : regsWf s.regs = true) : regsWf (regSet s i v).regs = true :=
  regsWf_rmSet _ _ _ h

theorem regsWf_count (s : State) (i : Nat) (h : regsWf s.regs = true) : regsWf (count s i).regs = true := regsWf_regSet _ _ _ h

theorem regsWf_regPut (s : State) (i hi lo v : Nat) (h : regsWf s.regs = true) : regsWf (regPut s i hi lo v).regs = true :=
  regsWf_regSet _ _ _ h

theorem regsWf_sourceEdge (s : State) (i : Nat) (h : regsWf s.regs = true) : regsWf (sourceEdge s i).regs = true := by
  unfold sourceEdge
  split
  · dsimp only
    have h1 : regsWf (count s mergedReg).regs = true := regsWf_count _ _ h
    have h2 := regsWf_regSet s (pendingReg i) (setBit (regGet s (pendingReg i)) (i % 32)) h
    split <;> split
    · rw [msixSend_regs]; exact regsWf_regSet _ _ _ h1
    · rw [msixSend_regs]; exact regsWf_regSet _ _ _ h2
    · exact h1
    · exact h2
  · exact h

theorem regsWf_raise (s : State) (b : Blk) (i : Nat) (h : regsWf s.regs = true) : regsWf (raise s b i).regs = true := by
  unfold raise
  apply regsWf_sourceEdge
  cases b.events with
  | none => exact h
  | some off => exact regsWf_regSet _ _ _ h

end Sys2Proof.Machine
end

