-- ==== Sys2Proof/Laws/Cycle.lean ====
section
/-! SUPPORT. The end of a cycle, and the frames it keeps. -/

namespace Sys2Proof.Machine
open Sys2Proof

/-- Without RELEASING handles the sweep does nothing. -/
theorem sweepHandles_none (s : State) (h : (s.imp.handles.all fun x => !x.2.releasing) = true) : sweepHandles s = s := by
  unfold sweepHandles
  rw [if_neg]
  simp only [List.all_eq_true, Bool.not_eq_true', List.any_eq_true, not_exists, not_and, Bool.not_eq_true] at h ⊢
  exact h

/-- After the sweep every RELEASING handle holds a reference. -/
theorem handlesLive_sweepHandles (s : State) : handlesLive (sweepHandles s) := by
  unfold handlesLive sweepHandles
  split
  · intro h hm hr
    simp only [List.mem_filter, Bool.or_eq_true, Bool.not_eq_true'] at hm
    rcases hm.2 with h1 | h1
    · simp [h1] at hr
    · exact h1
  · rename_i hn
    intro h hm hr
    exact absurd (List.any_eq_true.mpr ⟨h, hm, hr⟩) hn

/-- A command that leaves the parts outside a list alone changes only those of the list over its whole cycle. -/
theorem onlyChanges_endCycle {l : List Part} {s t : State}
    (h : ∀ p : Part, p ∉ l → p ≠ .pending → p ≠ .now → p.same s t) : onlyChanges l s (endCycle s t) := by
  constructor
  · intro p hp hi
    cases p <;> first | exact absurd rfl hi | rfl |
      (have := h _ hp (by decide) (by decide); simpa [Part.same] using this)
  · intro hi hn
    have ht : t.imp = s.imp := h .imp hi (by decide) (by decide)
    have : sweepHandles t = t := sweepHandles_none t (by rw [ht]; exact hn)
    simp [endCycle, this, ht]

end Sys2Proof.Machine
end

