-- ==== Sys2Proof/Laws/Format.lean ====
section
/-! SUPPORT. Laws of little-endian bytes, the CRC-32 and sectors closed by it. -/

namespace Sys2Proof.Machine

@[simp] theorem leBytes_length (n v : Nat) : (leBytes n v).length = n := by
  induction n generalizing v <;> simp [leBytes, *]

/-- Bytes of a number spell it. -/
theorem ofLe_leBytes (n v : Nat) (h : v < 256 ^ n) : ofLe (leBytes n v) = v := by
  induction n generalizing v with
  | zero => simp at h; simp [leBytes, ofLe, h]
  | succ n ih =>
    have hv : v / 256 < 256 ^ n := by rw [Nat.pow_succ] at h; omega
    simp only [leBytes, ofLe, ih _ hv, BitVec.toNat_ofNat]
    omega

@[simp] theorem zeros_length (n : Nat) : (zeros n).length = n := by simp [zeros]

@[simp] theorem padTo_length (n : Nat) (l : List Byte) : (padTo n l).length = n := by
  simp [padTo, zeros]; omega

theorem crcBits_lt (n c : Nat) (h : c < 2 ^ 32) : crcBits n c < 2 ^ 32 := by
  induction n generalizing c with
  | zero => exact h
  | succ n ih =>
    unfold crcBits
    apply ih
    split
    · exact Nat.xor_lt_two_pow (by omega) (by decide)
    · omega

theorem crcFrom_lt (c : Nat) (l : List Byte) (h : c < 2 ^ 32) : crcFrom c l < 2 ^ 32 := by
  induction l generalizing c with
  | nil => exact h
  | cons b r ih => exact ih _ (crcBits_lt _ _ (Nat.xor_lt_two_pow h (by have := b.isLt; omega)))

theorem crc32_lt (l : List Byte) : crc32 l < 2 ^ 32 :=
  Nat.xor_lt_two_pow (crcFrom_lt _ _ (by decide)) (by decide)

/-- A sector closed by its CRC passes its check (R117). -/
theorem crcHolds_withCrc (l : List Byte) : crcHolds (withCrc l) = true := by
  have h := ofLe_leBytes 4 (crc32 (padTo 4092 l)) (crc32_lt _)
  have hn : (padTo 4092 l).length = 4092 := padTo_length _ _
  simp [crcHolds, withCrc, leAt, hn, h, List.take_of_length_le]

/-- A superblock is valid as it is written (R242). -/
theorem superValid_superBytes (v : Vol) (flags chans dies planes bits blocks : Nat) :
    superValid (superBytes v flags chans dies planes bits blocks) = true := by
  unfold superValid superBytes
  rw [crcHolds_withCrc]
  simp [withCrc, padTo]

end Sys2Proof.Machine
end

