-- ==== Sys2Proof/WellFormed.lean ====
section
/-! DEFINITION. Well-formed commands: the ranges of the operands that the types leave open, from Table SYS-3 (R5) and the rules of each
command. `exec` is total: on operands outside these ranges it does what its rules say of an access, queue or die that is not there. -/

namespace Sys2Proof

/-- An aligned offset of a register in BAR0 (R6, R14). -/
def wfOff (off : Nat) : Bool := decide (off < 0x4000000) && decide (off % 4 = 0)

/-- A queue identifier (Table SYS-3). -/
def wfQueue (q : Nat) : Bool := decide (q < 4096)

/-- A command tag (Table SYS-3). -/
def wfTag (t : Nat) : Bool := decide (t < 262144)

/-- A die position: up to 16 dies on 16 channels (R4). -/
def wfDie (d : Nat) : Bool := decide (d < 256)

/-- A granule of 64 bytes in at most 48 GiB (R432, R442). -/
def wfGranule (a : Nat) : Bool := decide (a % 64 = 0) && decide (a < 48 * 1073741824)

/-- A block header of 64b/66b and the values a receiver reports with it (R91, R97). -/
def wfLanes (lane widthM1 : Fin 8) : Bool := decide (lane.val ≤ widthM1.val)

/-- A mailbox slot of its party: 32 for a function, 4 for a user core (R377). -/
def wfSlot (p : Party) (slot : Fin 32) : Bool := match p with
  | .pf => true
  | .vf _ => true
  | .user _ => decide (slot.val < 4)
  | _ => false

/-- An aligned place in the space that a register access goes to: a user core's addresses have 35 bits (Table PER-1). -/
def wfAt (p : Party) (bar : Bar) (off : Nat) : Bool := match bar, p with
  | .core _, .user _ => decide (off < 2 ^ 35) && decide (off % 4 = 0)
  | .core _, _ => false
  | _, _ => wfOff off

/-- A party that reads and writes registers itself; the side-band copies do it by their block transfers (R463). -/
def wfParty (p : Party) : Bool := match p with
  | .smbus => false
  | .i3c => false
  | _ => true

/-- A command whose operands are in range. -/
def Instr.wf : Instr → Bool
  | .registerWrite p bar off _ => wfParty p && wfAt p bar off
  | .unalignedAccess p off bytes _ => wfParty p && decide (off < 0x4000000) && !(decide (off % 4 = 0) && decide (bytes = 4))
  | .lowestWordRead p bar off => wfParty p && wfAt p bar off
  | .highestWordWrite p off _ => wfParty p && wfOff off
  | .rcRead p off _ => wfParty p && wfOff off
  | .w1cWrite p off _ _ => wfParty p && wfOff off
  | .strayWrite p off _ => wfParty p && wfOff off
  | .amReceived _ _ lane widthM1 _ _ => wfLanes lane widthM1
  | .formeOpen p slot => wfSlot p slot
  | .formeWrite p slot _ => wfSlot p slot
  | .formeLoad p slot _ => wfSlot p slot
  | .formeLock p slot => wfSlot p slot
  | .formeDiscard p slot => wfSlot p slot
  | .formeQuery p slot => wfSlot p slot
  | .go p slot _ => wfSlot p slot
  | .ack p slot _ => wfSlot p slot
  | .stripProgrammed _ _ _ die _ _ => wfDie die
  | .blockErase die _ _ _ => wfDie die
  | .sectorRead _ die _ _ _ => wfDie die
  | .dieSilent die _ => wfDie die
  | .patrolScrub die block _ _ => wfDie die && decide (block < 2 ^ 24)
  | .readDisturbScrub die _ _ _ => wfDie die
  | .staticWearLevelling die _ _ _ => wfDie die
  | .reclamation die _ _ _ => wfDie die
  | .parityRebuild die _ => wfDie die
  | .sqTailDoorbell _ q _ => wfQueue q
  | .cqHeadDoorbell _ q _ => wfQueue q
  | .fetch q e => wfQueue q && e.all fun l => decide (l.length = 64)
  | .magRead q tag _ => wfQueue q && wfTag tag
  | .magWrite q tag _ => wfQueue q && wfTag tag
  | .writeAccepted q tag => wfQueue q && wfTag tag
  | .magFlush q tag => wfQueue q && wfTag tag
  | .magTrim q tag => wfQueue q && wfTag tag
  | .jobSubmit q tag _ => wfQueue q && wfTag tag
  | .jobAdmit q tag => wfQueue q && wfTag tag
  | .hostJobFrameStart q tag _ _ _ => wfQueue q && wfTag tag
  | .hostJobFrameDone q tag _ => wfQueue q && wfTag tag
  | .streamPull q tag _ => wfQueue q && wfTag tag
  | .statsPull q tag _ => wfQueue q && wfTag tag
  | .surfAlloc q tag => wfQueue q && wfTag tag
  | .surfFree q tag => wfQueue q && wfTag tag
  | .surfRead q tag _ => wfQueue q && wfTag tag
  | .surfWrite q tag _ => wfQueue q && wfTag tag
  | .decOpen q tag _ _ => wfQueue q && wfTag tag
  | .decPicture q tag _ => wfQueue q && wfTag tag
  | .decClose q tag => wfQueue q && wfTag tag
  | .aggTimeExpiry q => wfQueue q
  | .resetHold q => wfQueue q
  | .abortedCompletion q tag => wfQueue q && wfTag tag
  | .pcieLinkTraining rate width _ _ => decide (1 ≤ rate) && decide (rate ≤ 6) && decide (1 ≤ width) && decide (width ≤ 16)
  | .memRead a _ _ u who _ => wfGranule a && who.all fun c => decide (c.user = u)
  | .memWrite a _ _ _ _ => wfGranule a
  | .memScrub a _ _ => wfGranule a
  | _ => true

end Sys2Proof
end

