-- ==== Sys2Proof/Tests/Slice0.lean ====
section
/-! SUPPORT. Tests: an ill-formed command for each check of WellFormed, examples of the spec, and for each statement a state and operands
that meet its hypotheses. -/

namespace Sys2Proof.Tests
open Sys2Proof Sys2Proof.Machine

set_option Elab.async false

/-- The block with its core released, nothing else done. -/
def on : State := { State.reset with live := true, sys := { State.reset.sys with aon := true, pwrEn := true, pg := true } }

/-- A frame record of slot 0, frame 0. -/
def aRec : FrameRec :=
  { hostJob := false, slot := 0, tag := 0, formeId := 0, ord := 0, ptp := 0, timecode := 0, tcUser := 0, status := 0, linesReceived := 0,
    linesExpected := 4, linesCrc := 0, linesDiscarded := 0, ratio := 0, ratioPrev := 0, trbBytes := 0, courses := 1, tempBand := 0,
    refSource := 0, hostContext := 0, expNs := 0, periodNs := 0, phase := 0, metadata := [] }

/-- The frame of that record, open, with line 2 accepted. -/
def aFrame : Frame :=
  { fr := aRec, issueTick := 0, expAt := 0, lineTime := 1000, expTag := 0, echo := false, cfg := [(0x60000, 0x40010)], tagKnown := false, bankRegs := [], bankObjs := [],
    lines := [(2, [])], frameLines := 4, engineBad := [], fired := [], hold := .none, wins := [], closed := false, trb := [],
    trbRows := 0, gone := [], fetchFailed := false }

/-- A request posted in a slot of a party's mailbox while control service runs. -/
def ask (s : State) (p : Party) (slot : Nat) (req : List Byte) : State :=
  let s := { s with sys := { s.sys with ready := true } }
  setMbxState (regSetWide s (mbxBase p slot + 0x100) (wordsOf 64 (req ++ zeros (256 - req.length)))) p slot 1

/-- A request's bytes: opcode, and from byte 16 on the fields. -/
def request (op : Nat) (l : List Byte) : List Byte := leBytes 2 op ++ zeros 14 ++ l ++ zeros (240 - l.length)

/-! An ill-formed command for each check of WellFormed. -/

theorem test_wf_register : Instr.wf (.registerWrite .pf .bar0 0x40104 0) = true := by decide
theorem test_wf_offset_misaligned : Instr.wf (.registerWrite .pf .bar0 0x40106 0) = false := by decide
theorem test_wf_offset_beyond : Instr.wf (.rcRead .pf 0x4000000 0) = false := by decide
theorem test_wf_party : Instr.wf (.lowestWordRead .smbus .bar0 0x34100) = false := by decide
theorem test_wf_aligned_word : Instr.wf (.unalignedAccess .pf 0x40104 4 true) = false := by decide
theorem test_wf_lane : Instr.wf (.amReceived 0 false 4 3 0 0) = false := by decide
theorem test_wf_slot : Instr.wf (.formeLock (.user 0) 4) = false := by decide
theorem test_wf_die : Instr.wf (.dieSilent 256 []) = false := by decide
theorem test_wf_queue : Instr.wf (.sqTailDoorbell 0 4096 0) = false := by decide
theorem test_wf_tag : Instr.wf (.writeAccepted 0 262144) = false := by decide
theorem test_wf_entry : Instr.wf (.fetch 0 (some [0])) = false := by decide
theorem test_wf_rate : Instr.wf (.pcieLinkTraining 7 16 true false) = false := by decide
theorem test_wf_width : Instr.wf (.pcieLinkTraining 6 17 true false) = false := by decide
theorem test_wf_granule : Instr.wf (.memScrub 32 .good { realTime := false, isochronous := false, bulk := false, older := 0 }) = false := by decide
theorem test_wf_granule_beyond : Instr.wf (.memScrub (48 * 1073741824) .good { realTime := false, isochronous := false, bulk := false, older := 0 }) = false := by decide

theorem witness_StepRunsFrontCommand : ∃ s : State, ∃ c rest, s.pending = c :: rest :=
  ⟨{ on with pending := [.readiness] }, .readiness, [], rfl⟩

theorem witness_QueueIsFirstInFirstOut : ∃ s : State, ∃ c rest, s.pending = c :: rest :=
  ⟨{ on with pending := [.readiness, .drainTimeout] }, .readiness, [.drainTimeout], rfl⟩

theorem witness_EmptyQueueTicksTheClocks : on.pending = [] ∧ on.live = true ∧
    0 ≤ (on.ptpNow : Int) * 65536 + on.net.sub + 2 ^ 32 + (on.net.f * 2 ^ 32 / 10 ^ 9 + 1 / 2).floor := by decide +kernel
theorem witness_EmptyQueueTicksTheClocks_off : State.reset.pending = [] ∧ State.reset.live = false := by decide

/-- A RELEASING handle that a surface's pool still names. -/
def releasing : State := { on with
  regs := [(0xC0018, 5)],
  imp := { on.imp with handles :=
    [(5, { owner := .pf, size := 4096, releasing := true, doneAt := none, bytes := [], born := 0 })] } }

theorem witness_EveryReleasingHandleHoldsAReference : handlesLive releasing ∧ step releasing = .next (idle releasing) :=
  ⟨by unfold handlesLive; decide +kernel, rfl⟩

theorem witness_RegisterWrites_fs : on.live = true ∧ isFs 0x40104 = true ∧ isFs 0x170048 = true := by decide +kernel
theorem witness_RegisterWrites_w1c : (rowOf 0x20020).map (·.acc) = some .w1c ∧ (rowOf 0x1D3318).map (·.acc) = some .w1c := by decide +kernel
theorem witness_RegisterWrites_unaligned : ¬ (0x42 % 4 = 0 ∧ 4 = 4) ∧ ¬ (0x40 % 4 = 0 ∧ 2 = 4) := by decide

theorem witness_Wide_counters : ∀ off ∈ [0x24, 0x2C, 0x20014, 0x20018, 0x2001C, 0x40080, 0x52004, 0xB0004, 0xD0054, 0xF0040, 0x110008,
    0x140084, 0x150290, 0x171000, 0x181010, 0x191184, 0x1A000C], (rowOf off).map (·.acc) = some .rc := by decide +kernel
theorem witness_Wide_functions : let s := { on with sys := { on.sys with pcieUp := true } }
    s.live = true ∧ s.sys.pcieUp = true ∧ partyFn (.vf 62) = 63 ∧ configGood s.sys.config = false ∧ 63 < vectorsOf 63 ∧
    16 * vectorsOf 63 = 1024 := by decide +kernel

/-- Slot 0 has issued a frame at tick 0, with a fret table of one phase entry of an action and an argument; it comes due at tick 0. -/
def fretState (lo arg : Word) : State := modCad { on with ref := on.ref } 0 fun c => { c with
  on := true, issued := 1, lastIssue := some 0, cfg := [(0x30000, lo), (0x30004, arg)], boundary := false }
/-- The same on the mains, with an edge at tick 0 and a tick in which its phase has come to the entry's key. -/
def mainsState (lo arg : Word) : State := modInput (modCad { on with now := 20000001, regs := [(0x40028, 20000000)] } 0 fun c => { c with
  on := true, issued := 1, lastIssue := some 0, cfg := [(0x30000, lo), (0x30004, arg), (0x40100, 0x80000000)], boundary := false }) 2
  fun r => { r with lastEdge := some 0, phaseEdge := some 0 }

theorem witness_Frets_nop : ∃ e, comesDue (fretState 0x80000000 0) 0 0 0 e :=
  ⟨{ idx := 0, kind := 0, action := 0, key := 0, arg := 0 }, by unfold comesDue; decide +kernel⟩
theorem witness_Frets_raiseIrq : ∃ e, comesDue (fretState 0x88000000 15) 0 0 8 e :=
  ⟨{ idx := 0, kind := 0, action := 8, key := 0, arg := 15 }, by unfold comesDue; decide +kernel⟩
theorem witness_Frets_mains : ∃ e, comesDue (mainsState 0xC0000000 0) 0 0 0 e ∧ e.kind = 2 :=
  ⟨{ idx := 0, kind := 2, action := 0, key := 0, arg := 0 }, by unfold comesDue; decide +kernel⟩

def fretOf (a : Nat) (arg : Word) : Fret := { idx := 0, kind := 0, action := a, key := 0, arg := arg }
def withFrame (s : State) (f : Frame) : State := modFrames s 0 fun _ => [f]
def winFrame : Frame := { aFrame with wins := [{ win := 15, first := 0, last := none, cause := 0 }] }

theorem witness_FretActions_apply :
    let f : Forme := { st := .locked, owner := .pf, writes := [], objs := [], apply := 0, ordinal := 0, commitNo := 1, due := some 1 }
    let s := { fretState 0x81000000 0 with frm := { on.frm with lockedList := [3], formes := [(3, f)] } }
    comesDue s 0 0 1 (fretOf 1 0) ∧ (s.ref.slots[(0 : Fin 8)]).boundary = false ∧ formeOf s 3 = some f ∧ f.slot = 0 ∧
      hostFrameAny s = false := by unfold comesDue; decide +kernel
theorem witness_FretActions_exposure :
    let s := { modCad (fretState 0x82000000 0) 0 id with
      regs := [(0x50000, 0x80000000), (0x50004, 1), (0x50008, 1), (0x601C0, 0x80000000)],
      lnk := { on.lnk with links := vMod on.lnk.links 0 fun l => { l with st := .up } } }
    comesDue s 0 0 2 (fretOf 2 0) ∧ slotLink s 0 = some (0, 0) ∧ (s.lnk.links[(0 : Fin 4)]).st = .up ∧ recordUp s 0 = true ∧
      (s.ref.slots[(0 : Fin 8)]).sent = [] := by unfold comesDue; decide +kernel
theorem witness_FretActions_sent :
    let s := modCad (fretState 0x82000000 0) 0 fun c => { c with sent := [{ ord := 0, tag := 0, expNs := 0, periodNs := 0 }] }
    comesDue s 0 0 2 (fretOf 2 0) ∧ latency s 0 = 0 := by unfold comesDue; decide +kernel
/-- Window 15 of slot 0 enabled. -/
def winOn (s : State) : State := { s with regs := [(0x805E8, 1)], frm := { s.frm with banks := s.frm.banks.set 0 [] } }
theorem witness_FretActions_statsOpen : let s := winOn (withFrame (fretState 0x83000000 15) aFrame)
    comesDue s 0 0 3 (fretOf 3 15) ∧ aFrame.fr.ord = newestOrd s 0 ∧ winEnabled s 0 aFrame 15 = true ∧ aFrame.winOpen 15 = false := by
  unfold comesDue; decide +kernel
theorem witness_FretActions_statsReopen : let s := winOn (withFrame (fretState 0x83000000 15) winFrame)
    comesDue s 0 0 3 (fretOf 3 15) ∧ winFrame.fr.ord = newestOrd s 0 ∧ winFrame.closed = false ∧ winEnabled s 0 winFrame 15 = true := by
  unfold comesDue; decide +kernel
theorem witness_FretActions_statsClose : let s := winOn (withFrame (fretState 0x84000000 15) winFrame)
    comesDue s 0 0 4 (fretOf 4 15) ∧ winFrame.fr.ord = newestOrd s 0 ∧ winEnabled s 0 winFrame 15 = true ∧ winFrame.winOpen 15 = true ∧
      winFrame.tagKnown = false := by
  unfold comesDue; decide +kernel
theorem witness_FretActions_statsOff : let s := withFrame (fretState 0x84000000 15) winFrame
    comesDue s 0 0 4 (fretOf 4 15) ∧ winEnabled s 0 winFrame 15 = false := by unfold comesDue; decide +kernel
theorem witness_FretActions_statsNone : let s := winOn (fretState 0x84000000 15)
    comesDue s 0 0 4 (fretOf 4 15) ∧ s.ing.frames[(0 : Fin 8)] = [] ∧ regBit s (winCfgReg 0 15) 0 = true := by
  unfold comesDue; decide +kernel
theorem witness_FretActions_retrain : let s := { fretState 0x86000000 1000 with regs := [(0x170000, 0x80000000)] }
    comesDue s 0 0 6 (fretOf 6 1000) ∧ memRun s = true := by unfold comesDue; decide +kernel
theorem witness_FretActions_encOff : let s := fretState 0x87000000 0x3F
    comesDue s 0 0 7 (fretOf 7 0x3F) ∧ (encCfgNow s 3 15).on = false ∧ (s.hev.streams[(3 : Fin 4)][(15 : Fin 16)]).waiting = [] := by
  unfold comesDue; decide +kernel
theorem witness_FretActions_encOn :
    let s := { withFrame (fretState 0x87000000 0) aFrame with
      regs := [(0xA8000, 0x80000000), (0xC0000, 0x80000000), (0x100000, 0x80000000)] }
    comesDue s 0 0 7 (fretOf 7 0) ∧ (encCfgNow s 0 0).on = true ∧ (encCfgNow s 0 0).hostJob = false ∧
      surfSlot s (encCfgNow s 0 0).surf = some 0 ∧ (encCfgNow s 0 0).frameDiv = 1 ∧ s.ing.frames[(0 : Fin 8)] = [aFrame] ∧ aFrame.gone = [] ∧
      (s.hev.streams[(0 : Fin 4)][(0 : Fin 16)]).firings = 0 ∧ (s.hev.streams[(0 : Fin 4)][(0 : Fin 16)]).lastBound = none := by
  unfold comesDue; decide +kernel
theorem witness_FretActions_band : let s := { fretState 0x89000000 0 with thm := { on.thm with bandWaits := true, measured := 3 } }
    comesDue s 0 0 9 (fretOf 9 0) ∧ timingMaster s = 0 ∧ s.thm.band ≠ s.thm.measured := by unfold comesDue; decide +kernel
theorem witness_FretActions_statsNotOpen : let s := winOn (withFrame (fretState 0x84000000 15) aFrame)
    comesDue s 0 0 4 (fretOf 4 15) ∧ aFrame.winOpen 15 = false ∧ winEnabled s 0 aFrame 15 = true := by unfold comesDue; decide +kernel
theorem witness_FretActions_openOff : let s := withFrame (fretState 0x83000000 15) winFrame
    comesDue s 0 0 3 (fretOf 3 15) ∧ winEnabled s 0 winFrame 15 = false := by unfold comesDue; decide +kernel

theorem witness_TimeStampFifo : comesDue (fretState 0x85000000 0x1FFFF) 0 0 5 (fretOf 5 0x1FFFF) ∧
    (fretState 0x85000000 0).ref.tsFifo.length < 64 := by unfold comesDue; decide +kernel
theorem witness_TimeStampFifo_full : let s := fretState 0x85000000 7
    comesDue { s with ref := { s.ref with tsFifo := List.replicate 64 { slot := 7, ident := 65535, ord := 0, time := 0 } } } 0 0 5
      (fretOf 5 7) := by unfold comesDue; decide +kernel
theorem witness_TimeStampFifo_read : on.live = true ∧ mayRead (.user 3) = true ∧ on.ref.tsFifo = [] := by decide +kernel
theorem witness_TimeStampFifo_oldest : let s : State := { on with ref := { on.ref with tsFifo := [{ slot := 7, ident := 65535, ord := 3, time := 98765432109876543 }] } }
    s.live = true ∧ s.ref.tsFifo ≠ [] := by decide +kernel

theorem witness_Pulses_fires : ∃ e, comesDue (fretState 0x8A000000 0x10F) 0 0 10 e ∧ (15 : Fin 16).val = field e.arg 3 0 :=
  ⟨{ idx := 0, kind := 0, action := 10, key := 0, arg := 0x10F }, by unfold comesDue; decide +kernel⟩
theorem witness_Pulses_end : ∃ s : State, ∃ o : Fin 16, ∃ e, s.live = true ∧ s.ref.pulses[o] = some e ∧ e ≤ s.now :=
  ⟨{ on with now := 5, ref := { on.ref with pulses := vMod on.ref.pulses 15 fun _ => some 5 } }, 15, 5, by decide +kernel⟩
theorem witness_Pulses_still_high : let s : State := { on with ref := { on.ref with pulses := vMod on.ref.pulses 0 fun _ => some 1 } }
    ∀ e, s.ref.pulses[(0 : Fin 16)] = some e → s.now < e := by decide +kernel

/-- A forme being checked whose entry 255 of slot 7 is an EVENT_OUT of width 0. -/
def noWidth : Forme :=
  { st := .checking, owner := .pf, writes := [{ off := 0x33FF8, data := 0x8A000000, mask := 0xFFFFFFFF }], objs := [],
    apply := 0, ordinal := 0, commitNo := 0, due := none }
def noWidthState : State := { on with
    frm := { on.frm with formes := [(5, noWidth)], checking := [{ forme := 5, party := .pf, slot := 31 }] } }
theorem witness_Pulses_no_width : let q := projOf (modFrm noWidthState fun y => { y with checking := [] }) 5 noWidth
    formeOf noWidthState 5 = some noWidth ∧ bit (q.reg (fretLoReg 7 255)) 31 = true ∧ field (q.reg (fretLoReg 7 255)) 28 24 = 10 ∧
      field (q.reg (fretHiReg 7 255)) 15 8 = 0 := by decide +kernel

theorem witness_FiresOnce : (0 : Fin 256).val ∈ ((modCad on 7 fun c => { c with fired := [0] }).ref.slots[(7 : Fin 8)]).fired := by
  decide +kernel

/-- Slot 0 is brought up on link 0 with a record in force, runs, and its cadence instant has come. -/
def dueState : State := modCad { on with
    regs := [(0x50000, 0x80000000), (0x50004, 1), (0x50008, 1), (0x601C0, 0x80000000)],
    lnk := { on.lnk with links := vMod on.lnk.links 0 fun l => { l with st := .up } },
    ing := { on.ing with caps := vMod on.ing.caps 0 fun c => { c with broughtUp := true } } } 0 fun c => { c with
  on := true, next := some 0, st := .locked }

theorem witness_FrameStart : startDue dueState 0 = true ∧ slotReady dueState 0 = true ∧ slotLink dueState 0 = some (0, 0) ∧
    frets (dueState.ref.slots[(0 : Fin 8)]).cfg 0 = [] := by decide +kernel
theorem witness_FrameStart_missed : let s := regSet (modCad dueState 0 fun c => { c with issued := 1, lastIssue := some 0 }) 0x40128 1
    startDue s 0 = true ∧ slotReady s 0 = false := by decide +kernel
theorem witness_FrameStart_none : startDue on 7 = false := by decide +kernel

/-- The mains input seeks, EXP_PERIOD 20 ms, its last valid edge at tick 0. -/
def seeking (at_ run : Nat) (ps : List Nat) (after : Bool) : State :=
  modInput { on with now := at_, regs := [(0x40024, 20000000)] } 2 fun r =>
    { r with st := .seeking, lastEdge := some 0, run := run, seek := ps, afterLoss := after }

theorem witness_RefEdge_valid : let s := seeking 20400000 7 [] false
    (s.ref.inputs[(2 : Fin 3)]).st = .seeking ∧ 49 * (regGet s (expPeriodReg 2)).toNat ≤ 50 * (s.now - 0) ∧
      50 * (s.now - 0) ≤ 51 * (regGet s (expPeriodReg 2)).toNat := by decide +kernel
theorem witness_RefEdge_outlier : let s := seeking 20400001 0 [] false
    (s.ref.inputs[(2 : Fin 3)]).afterLoss = false ∧ 51 * (regGet s (expPeriodReg 2)).toNat < 50 * (s.now - 0) := by decide +kernel
theorem witness_RefEdge_return : let s := seeking 20000000 7 (List.replicate 7 20000000) true
    (s.ref.inputs[(2 : Fin 3)]).afterLoss = true ∧ (s.ref.inputs[(2 : Fin 3)]).seek = List.replicate 7 20000000 ∧ s.now - 0 = (regGet s (expPeriodReg 2)).toNat := by decide +kernel
theorem witness_InputLost : lossDue (seeking 60000000 0 [] false) 2 = true ∧ lossDue (seeking 59999999 0 [] false) 2 = false := by
  decide +kernel
theorem witness_RefEdge_first : let s := modInput on 0 fun r => { r with st := .seeking }
    (s.ref.inputs[(0 : Fin 3)]).st ≠ .disabled ∧ (s.ref.inputs[(0 : Fin 3)]).lastEdge = none := by decide +kernel
theorem witness_RefEdge_locked :
    let s := modInput (seeking 20400000 8 [] false) 2 fun r => { r with st := .locked, periods := List.replicate 8 20000000 }
    measured s.ref.inputs[(2 : Fin 3)] = some 20000000 ∧ 50 * ((s.now - 0 : Nat) : ℚ) ≤ 51 * 20000000 := by decide +kernel
theorem witness_RefEdge_disabled : (on.ref.inputs[(0 : Fin 3)]).st = .disabled := by decide +kernel
theorem witness_RefEdge_lockedOutlier :
    let s := modInput (seeking 20400001 8 [] false) 2 fun r => { r with st := .locked, periods := List.replicate 8 20000000 }
    measured s.ref.inputs[(2 : Fin 3)] = some 20000000 ∧ 51 * 20000000 < 50 * ((s.now - 0 : Nat) : ℚ) := by decide +kernel

/-- The encoder is enabled, 16 counts a revolution, hysteresis 2, at a raw count and an accepted position. -/
def encoder (raw acc : Nat) : State :=
  { on with regs := [(0x40010, 0x80000000), (0x40030, 0x20010)], ref := { on.ref with raw := raw, acc := acc, fwd := true } }

theorem witness_Encoder : regBit (encoder 15 15) (filtReg 1) 31 = true ∧
    (∀ n : Fin 8, sourceNow (encoder 15 15) n ≠ 3 ∧ cadSource ((encoder 15 15).ref.slots[n]).cfg n.val ≠ 3) ∧
    encCpr (encoder 15 15) = 16 ∧ encHyst (encoder 15 15) = 2 ∧ (encoder 15 15).ref.encA = false := by decide +kernel
theorem witness_Encoder_index : min 8 (encCpr (encoder 8 8) - 8) = 8 ∧ (on.ref.fwd = true) := by decide +kernel
theorem witness_Encoder_crossing :
    let s := modCad { dueState with
        frm := { on.frm with banks := vMod on.frm.banks 0 fun _ => [] }, regs := [(0x40010, 0x80000000), (0x40030, 0x10), (0x40100, 0x60000000), (0x50000, 0x80000000), (0x50004, 1),
          (0x50008, 1), (0x601C0, 0x80000000)], ref := { dueState.ref with raw := 15, acc := 15 } } 0 fun c => { c with next := none }
    sourceNow s 0 = 3 ∧ slotReady s 0 = true ∧ startAngles s 0 = [0] ∧ quadStep s.ref.encA s.ref.encB true false = 1 ∧
      (∀ m : Fin 8, m ≠ 0 → sourceNow s m ≠ 3 ∧ cadSource (s.ref.slots[m]).cfg m.val ≠ 3) := by decide +kernel
theorem witness_Encoder_index_far : let s := { encoder 20 20 with regs := [(0x40010, 0x80000000), (0x40030, 0x20040)] }
    8 < min s.ref.raw (encCpr s - s.ref.raw) ∧ s.ref.fwd = true := by decide +kernel
theorem witness_Encoder_index_backwards : let s := { encoder 15 15 with ref := { (encoder 15 15).ref with fwd := false } }
    s.ref.fwd = false := by decide +kernel

theorem witness_IllegalEncoder : (encoder 15 15).live = true ∧ regBit (encoder 15 15) (filtReg 1) 31 = true ∧
    true ≠ (encoder 15 15).ref.encA ∧ true ≠ (encoder 15 15).ref.encB := by decide +kernel
theorem witness_IllegalEncoder_legal : (true = (encoder 15 15).ref.encA ∨ false = (encoder 15 15).ref.encB) ∧
    (∀ n : Fin 8, sourceNow (encoder 15 15) n ≠ 3 ∧ cadSource ((encoder 15 15).ref.slots[n]).cfg n.val ≠ 3) := by decide +kernel
theorem witness_IllegalEncoder_off : regBit on (filtReg 1) 31 = false := by decide +kernel

/-- Forme 5 is Staged for the PF. -/
def staged : Forme :=
  { st := .staged, owner := .pf, writes := [], objs := [], apply := 0, ordinal := 0, commitNo := 0, due := none }
def stagedState : State := { on with frm := { on.frm with formes := [(5, staged)] }, hq := { on.hq with bme := vMod on.hq.bme 0 fun _ => true } }
def writeReq : List Byte := request 0x0102 ([5, 0, 0, 0, 1, 0, 0, 0] ++ zeros 16 ++ [12])
def writeBuf : HostBuf := { sgl := none, data := some ([0, 1, 4, 0] ++ [1, 0, 0, 0] ++ [0xFF, 0, 0, 0]) }
def strayBuf : HostBuf := { sgl := none, data := some (zeros 12) }
def loadReq : List Byte := request 0x0103 ([5, 0x13, 0, 0] ++ zeros 20 ++ [16])

theorem witness_FormeOpen : asks (ask on (.user 3) 3 (request 0x0101 [255])) (.user 3) 3 0x0101 (request 0x0101 [255]) ∧
    formeOf on 255 = none ∧ stagedCount on < 8 := by decide +kernel
theorem witness_FormeWrite : asks (ask stagedState .pf 31 writeReq) .pf 31 0x0102 writeReq ∧
    stagedBy (ask stagedState .pf 31 writeReq) .pf 5 = some staged ∧
    busMaster (ask stagedState .pf 31 writeReq) .pf = true ∧ partySegs stagedState .pf (descAt writeReq 0x20) writeBuf = some ([(0, 12)], true) ∧
    (∀ x ∈ triplesOf 1 (padTo 12 (zeros 0 ++ [0, 1, 4, 0] ++ [1, 0, 0, 0] ++ [0xFF, 0, 0, 0])), isFs x.off = true) := by decide +kernel
theorem witness_FormeWrite_stray : ∃ x ∈ triplesOf 1 (padTo 12 (zeros 12)), isFs x.off = false := by decide +kernel
theorem witness_FormeWrite_core :
    let r := request 0x0102 ([5, 0, 0, 0, 1, 0, 0, 0] ++ zeros 8 ++ [0, 0, 0, 0, 0, 0, 0, 0] ++ [12])
    let f : Forme := { staged with owner := .user 3 }
    let s := ask { on with frm := { on.frm with formes := [(5, f)] } } (.user 3) 3 r
    asks s (.user 3) 3 0x0102 r ∧ stagedBy s (.user 3) 5 = some f ∧ partySegs s (.user 3) (descAt r 0x20) writeBuf = some ([(0, 12)], true) := by
  decide +kernel
theorem witness_FormeLoad : asks (ask stagedState .pf 0 loadReq) .pf 0 0x0103 loadReq ∧
    stagedBy (ask stagedState .pf 0 loadReq) .pf 5 = some staged ∧
    partySegs stagedState .pf (descAt loadReq 0x20) { sgl := none, data := some ([0x13, 1] ++ zeros 14) } = some ([(0, 16)], true) ∧
    headerOk 0x13 ([0x13, 1] ++ zeros 14) = true ∧ areaBytes stagedState = 0 := by decide +kernel

def lockState (l : List (Nat × Forme)) : State :=
  { stagedState with frm := { on.frm with formes := l, checking := [{ forme := 5, party := .pf, slot := 31 }] } }

/-- Slot 0 runs on link 0 with a record in force, and the memory is up: a configuration that passes every check. -/
def soundConfig (f : Forme) : State := { dueState with
  regs := [(0x20000, 1), (0x50000, 0x800061A8), (0x50004, 0xFF), (0x50008, 1), (0x6018C, 0xFF), (0x60190, 0x10E02000),
    (0x601C0, 0x80000000), (0x80004, 0), (0x170000, 0x80008000)],
  frm := { dueState.frm with formes := [(5, f)], checking := [{ forme := 5, party := .pf, slot := 31 }] } }

def soundForme : Forme := { staged with st := .checking }
def sound : Proj := projOf (modFrm (soundConfig soundForme) fun y => { y with checking := [] }) 5 soundForme

theorem sound_frets : firstOf sound.frets = none := by decide +kernel
theorem sound_hardware : sound.writes = none ∧ firstOf sound.ranges = none ∧ firstOf sound.courses = none ∧ firstOf sound.timing = none ∧
    firstOf (sound.geometry ++ sound.crops) = none := by decide +kernel
theorem sound_slots : firstOf sound.periods = none ∧ firstOf sound.exposures = none ∧ firstOf sound.inputsOff = none ∧
    firstOf sound.sensors = none ∧ firstOf sound.links = none ∧ firstOf sound.rates = none ∧ firstOf sound.counts = none ∧
    firstOf sound.lutBusy = none ∧ firstOf sound.lutKinds = none := by decide +kernel
theorem sound_units : firstOf sound.bandwidth = none ∧ firstOf sound.capacity = none ∧ firstOf sound.encLoad = none ∧
    firstOf sound.encLevel = none ∧ firstOf sound.displays = none ∧ firstOf sound.network = none ∧ firstOf sound.handles = none ∧
    firstOf sound.banks = none ∧ sound.commitCheck = none := by decide +kernel
theorem witness_LockUp_good : soundForme.kind < 2 ∧ sound.hardware = none ∧ sound.resources = none ∧ sound.commitCheck = none := by
  unfold Proj.hardware Proj.resources
  simp only [sound_frets, sound_hardware, sound_slots, sound_units]
  decide
def badForme : Forme := { staged with st := .checking, writes := [{ off := 0x40100, data := 0xE0000000, mask := 0xE0000000 }] }
def bad : Proj := projOf (modFrm (soundConfig badForme) fun y => { y with checking := [] }) 5 badForme

/-- SOURCE 7 is reserved (Table FRM-8, 0x01). -/
theorem test_reserved_source : bad.writes = some { detail := 1, off := some 0x40100, kind := 1, unit := 0 } := by decide +kernel
theorem witness_LockUp_rejected :
    (bad.hardware <|> bad.resources) = some { detail := 1, off := some 0x40100, kind := 1, unit := 0 } := by
  unfold Proj.hardware
  rw [test_reserved_source]
  rfl
theorem witness_FormeLock : let r := request 0x0104 [5, 0, 0, 0, 7, 0, 0, 0xE0]
    asks (ask stagedState .pf 31 r) .pf 31 0x0104 r ∧ formeOf stagedState 5 = some staged := by decide +kernel
theorem witness_FormeDiscard : let r := request 0x0105 [5]
    asks (ask stagedState .pf 31 r) .pf 31 0x0105 r ∧ formeOf stagedState 5 = some staged := by decide +kernel
theorem witness_FormeDiscard_locked : let r := request 0x0105 [5]
    let s := ask { on with frm := { on.frm with formes := [(5, { staged with st := .locked })], lockedList := [5] } } .pf 31 r
    asks s .pf 31 0x0105 r ∧ s.frm.lockedList.getLast? = some 5 ∧ hasFired s { staged with st := .locked } = false := by decide +kernel
theorem witness_FormeQuery : let r := request 0x0106 [5]
    asks (ask stagedState .pf 31 r) .pf 31 0x0106 r ∧ windowOf .pf = some 0 := by decide +kernel
theorem witness_LockUp_states : let s := soundConfig soundForme
    s.frm.checking = [{ forme := 5, party := .pf, slot := 31 }] ∧ formeOf s 5 = some soundForme ∧ s.frm.lockedList = [] ∧
      interrupted s = false ∧ formeOf (soundConfig badForme) 5 = some badForme := by decide +kernel

theorem witness_StageData : windowOf (.user 3) = some 4 ∧ windowOf .pf ≠ some (4 : Fin 5).val ∧ on.live = true := by decide
theorem witness_StageData_good : stageErr { stagedState with regs := [(0x20100, 0x105), (0x20104, 0x40100)] } .pf 5 0x40100 = 0 ∧
    stageErr stagedState .pf 5 0 = 2 ∧ stageErr on .pf 5 0 = 1 := by decide +kernel

/-- Link 3 is enabled with lanes 0 and 31 and slot 7, in a state of its bring-up. -/
def linkState (st : LinkSt) (at_ : Nat) : State := { on with
  now := at_, regs := [(0x50300, 0x80002710), (0x50304, 0x80000001), (0x50308, 0x80)],
  lnk := { on.lnk with links := vMod on.lnk.links 3 fun l => { l with st := st, lastCfg := some 0 } } }

theorem witness_LinkConfigSend : ((linkState .config 10000).lnk.links[(3 : Fin 4)]).st = .config ∧
    ((linkState .config 10000).lnk.links[(3 : Fin 4)]).lastCfg = some 0 ∧ laneLink (linkState .config 10000) 31 = some 3 := by
  decide +kernel
theorem witness_BringupFail : bringupTimeout (linkState .deskew 10000000) 3 ≤ (linkState .deskew 10000000000).now ∧
    ((linkState .deskew 0).lnk.links[(3 : Fin 4)]).st ∈ [LinkSt.config, .locking, .deskew] := by decide +kernel
theorem witness_Retrain : let s := linkState .up 0
    mayWrite (.user 3) (lkReg 3 0xC) = true ∧ carriesUnmasked s 3 = false ∧ linkEnabled s 3 = true ∧
      (s.lnk.links[(3 : Fin 4)]).testing = false ∧ (∀ n : Fin 8, currentFrame s n = none) := by decide +kernel
theorem witness_Retrain_refused : carriesUnmasked { linkState .up 0 with regs := [(0x20000, 0x80), (0x50308, 0x80)] } 3 = true := by
  decide +kernel
theorem witness_LinkReconfig : let s := { linkState .up 0 with lnk := { on.lnk with links := vMod on.lnk.links 3 fun l =>
    { l with reconfig := true, disabling := true } } }
    (s.lnk.links[(3 : Fin 4)]).reconfig = true ∧ (s.lnk.links[(3 : Fin 4)]).disabling = true ∧
      (∀ n ∈ slotsOf s 3, currentFrame s n = none) := by decide +kernel
theorem witness_Retrain_word : bit 0x40000000 30 = true ∧ bit 0x40000000 31 = false ∧ bit 0xC0000000 31 = true := by decide
theorem witness_Retrain_carries : let s := { linkState .up 0 with regs := [(0x20000, 0x80), (0x50300, 0x80002710), (0x50304, 0x80000001), (0x50308, 0x80)] }
    carriesUnmasked s 3 = true ∧ linkEnabled s 3 = true := by decide +kernel
/-- A packet open on link 3. -/
def openPkt : OpenPkt := { ty := 1, stream := 0, slot := some 7, len := 23, bytes := [1], errored := false, aborted := false }
theorem witness_LinkReconfig_packet : let s := { linkState .up 0 with lnk := { on.lnk with links := vMod on.lnk.links 3 fun l =>
    { l with st := .up, reconfig := true, pkt := some openPkt } } }
    (s.lnk.links[(3 : Fin 4)]).reconfig = true ∧ (s.lnk.links[(3 : Fin 4)]).st = .up ∧ (s.lnk.links[(3 : Fin 4)]).pkt = some openPkt ∧
      (s.lnk.links[(3 : Fin 4)]).disabling = false := by decide +kernel
theorem witness_LinkDisable_packet : let s := { linkState .up 0 with lnk := { on.lnk with links := vMod on.lnk.links 3 fun l =>
    { l with st := .up, disabling := true, pkt := some openPkt } } }
    (s.lnk.links[(3 : Fin 4)]).disabling = true ∧ (s.lnk.links[(3 : Fin 4)]).pkt = some openPkt := by decide +kernel

theorem witness_BlockReceived_seek : regField on (laneReg 31 4) 30 28 = 0 ∧ laneLink on 31 = none ∧
    (on.lnk.lanes[(31 : Fin 32)]).blockLock = false ∧ (on.lnk.lanes[(31 : Fin 32)]).sinceAm = none ∧
    markerOf (leBytes 8 0) = none ∧ markerOf (leBytes 8 (~~~(0 : BitVec 64)).toNat) = none := by decide +kernel
/-- A lane with block lock. -/
def lockedLane (bad : Nat) (since : Option Nat) : State :=
  { linkState .locking 0 with lnk := { (linkState .locking 0).lnk with
    lanes := vMod on.lnk.lanes 31 fun l => { l with blockLock := true, winPos := 63, winBad := bad, sinceAm := since } } }
theorem witness_BlockReceived_locked : let s := lockedLane 14 none
    laneLink s 31 = some 3 ∧ (s.lnk.links[(3 : Fin 4)]).st = .locking ∧ (s.lnk.lanes[(31 : Fin 32)]).winBad < 15 := by decide +kernel
theorem witness_BlockReceived_lost : let s := { lockedLane 15 none with regs := [] }
    laneLink s 31 = none ∧ (s.lnk.lanes[(31 : Fin 32)]).winPos = 63 ∧ 15 ≤ (s.lnk.lanes[(31 : Fin 32)]).winBad := by decide +kernel
theorem witness_AmReceived : let s := { lockedLane 0 (some 16383) with regs := [] }
    laneLink s 31 = none ∧ (s.lnk.lanes[(31 : Fin 32)]).amLock = false ∧ (s.lnk.lanes[(31 : Fin 32)]).sinceAm = some 16383 := by
  decide +kernel
theorem witness_AmReceived_offGrid : let s := { lockedLane 0 (some 16382) with regs := [] }
    (modLane s 31 fun l => { l with amLock := true }).lnk.lanes[(31 : Fin 32)].amLock = true ∧
      (s.lnk.lanes[(31 : Fin 32)]).sinceAm = some 16382 := by decide +kernel
theorem witness_BlockReceived_prbs : regField { on with regs := [(0x517C4, 0x10000000)] } (laneReg 31 4) 30 28 ≠ 0 ∧
    (on.lnk.lanes[(31 : Fin 32)]).mapped = none := by decide +kernel

/-- Link 3 is UP with one item received, and PINGs 0 and 255 outstanding since tick 0. -/
def upWith (x : RxItem) (at_ : Nat) : State := { linkState .up at_ with
  lnk := { on.lnk with links := vMod on.lnk.links 3 fun l =>
    { l with st := .up, rx := [x], pings := [{ id := 255, sentAt := 0 }, { id := 0, sentAt := 0 }] } } }
def aPacket (ty : Nat) : OpenPkt :=
  { ty := ty, stream := 0, slot := some 7, len := 16, bytes := zeros 16, errored := false, aborted := false }
def aWait : RegWait := { party := .user 3, mslot := 3, slot := 7, entries := 2, sentAt := 0, segs := [(0x1000, 16)] }

theorem witness_Echo : (upWith (.echo 255) 10000).lnk.links[(3 : Fin 4)].rx = [.echo 255] ∧
    { id := 255, sentAt := 0 } ∈ ((upWith (.echo 255) 10000).lnk.links[(3 : Fin 4)]).pings ∧
    (upWith (.echo 255) 1000000000).now = 1000000000 := by decide +kernel
theorem witness_Echo_last : ∀ x ∈ [({ id := 255, sentAt := 0 } : PingSt)], x.id = 255 := by decide
theorem witness_RegResponse : ((upWith (.packet (aPacket 3)) 0).lnk.links[(3 : Fin 4)]).rx = [.packet (aPacket 3)] ∧
    aWait.mslot < mbxSlots aWait.party ∧ 8 * aWait.entries ≤ (aPacket 3).bytes.length ∧ (aPacket 3).slot = some aWait.slot := by
  decide +kernel
theorem witness_Echo_lastOfAll : let s := upWith (.echo 255) 10000
    let s := { s with lnk := { s.lnk with links := vMod s.lnk.links 3 fun l => { l with pings := [{ id := 255, sentAt := 0 }] } } }
    (∀ x ∈ (s.lnk.links[(3 : Fin 4)]).pings, x.id = 255) ∧ (s.lnk.links[(3 : Fin 4)]).samples = [] ∧
      (s.lnk.links[(3 : Fin 4)]).capsDue = false := by decide +kernel
theorem witness_StatusBlock : let s := upWith (.status [1, 2, 3, 4, 5, 6, 7]) 0
    (s.lnk.links[(3 : Fin 4)]).rx = [.status [1, 2, 3, 4, 5, 6, 7]] := by decide +kernel
theorem witness_SensorEvent : let s := upWith (.packet (aPacket 4)) 0
    let e := upWith (.packet { aPacket 4 with errored := true }) 0
    (s.lnk.links[(3 : Fin 4)]).rx = [.packet (aPacket 4)] ∧ (aPacket 4).aborted = false ∧ (e.lnk.links[(3 : Fin 4)]).rx ≠ [] := by decide +kernel
/-- A register access waits for its answer, which has come at a tick. -/
def answering_ (at_ : Nat) : State := let s := upWith (.packet (aPacket 3)) at_
  { s with lnk := { s.lnk with regWaits := [aWait] } }
theorem witness_RegResponse_inTime : let s := answering_ 10000000
    s.lnk.regWaits = [aWait] ∧ s.now ≤ aWait.sentAt + 10000000 := by decide +kernel
theorem witness_RegResponse_late : let s := answering_ 10000001
    aWait.sentAt + 10000000 < s.now := by decide +kernel

theorem witness_LaneTests : let s := { linkState .down 0 with lnk := { on.lnk with lanes := vMod on.lnk.lanes 31 fun l => { l with mapped := some 1 } } }
    mayWrite .pf (laneReg 31 4) = true ∧ laneAssigned s 31 = some 3 ∧ (s.lnk.lanes[(31 : Fin 32)]).mapped = some 1 ∧
      (∀ n : Fin 8, currentFrame s n = none) ∧ field 0xC0000000 30 28 = 4 ∧ field 0x90000000 30 28 = 1 := by decide +kernel
theorem witness_LaneTests_farEnd : regField { on with regs := [(0x50300, 0xD0000000)] } (lkReg 3 0) 30 28 ≠ 0 := by decide +kernel
theorem witness_EqAdapt : let s := modLane { on with now := 1000000 } 31 fun l => { l with running := true }
    adaptDue s 31 = true ∧ (s.lnk.lanes[(31 : Fin 32)]).eqPrev = none ∧ adaptDue { s with regs := [(0x52008, 1)] } 31 = false := by
  decide +kernel
theorem witness_LaneTests_farEndMode : let s := { linkState .down 0 with
      regs := [(0x50300, 0x90002710), (0x50304, 0x80000001), (0x50308, 0x80)],
      lnk := { on.lnk with lanes := vMod on.lnk.lanes 31 fun l => { l with mapped := some 1 } } }
    regField s (lkReg 3 0) 30 28 ≠ 0 ∧ laneAssigned s 31 = some 3 := by decide +kernel
theorem witness_LaneTests_free : laneAssigned on 31 = none ∧ mayWrite .pf (laneReg 31 4) = true ∧ field 0x20000000 30 28 = 2 ∧
    field 0x30000000 30 28 = 3 ∧ bit 0x40000000 31 = false ∧ field 0x10000000 30 28 = 1 := by decide +kernel
theorem witness_EqAdapt_revert : let s := modLane { on with now := 1000000 } 31 fun l => { l with running := true, eqPrev := some 0x123, errPrev := 1, errCur := 2 }
    adaptDue s 31 = true ∧ (s.lnk.lanes[(31 : Fin 32)]).eqPrev = some 0x123 := by decide +kernel
theorem witness_EqAdapt_keep : let s := modLane { on with now := 1000000 } 31 fun l => { l with running := true, eqPrev := some 0x123, errPrev := 2, errCur := 2 }
    adaptDue s 31 = true ∧ (s.lnk.lanes[(31 : Fin 32)]).errCur ≤ (s.lnk.lanes[(31 : Fin 32)]).errPrev := by decide +kernel

/-- A LINE packet of slot 7, frame 0, line 3 of 4, 2 pixels of 10 bits wide, whose CRC-32C is right. -/
def aLine : List Byte :=
  let b := [1, 0, 0, 0, 0, 0, 0, 0, 3, 0, 4, 0, 2, 0, 0, 0] ++ [0x11, 0x22, 0x03]
  b ++ leBytes 4 (crcFrom 0xFFFFFFFF b ^^^ 0xFFFFFFFF)
def linePkt (b : List Byte) : OpenPkt :=
  { ty := 1, stream := 0, slot := some 7, len := 23, bytes := b, errored := false, aborted := false }
/-- Slot 7 has frame 0 in progress, 8 lines expected. -/
def lineState (b : List Byte) (l : List (Nat × List Byte)) : State :=
  let s := upWith (.packet (linePkt b)) 0
  let fr := { aRec with slot := 7, linesExpected := 8, courses := 0 }
  modFrames (modCad { s with regs := [(0x60E00, 0x80002), (0x60E04, 0)] } 7 fun c => { c with issued := 1 }) 7
    fun _ => [{ aFrame with fr := fr, lines := l }]

theorem witness_Lines_failed : lineFails (lineState (zeros 23) []) 7 (linePkt (zeros 23)) = true ∧
    lineWaits (lineState (zeros 23) []) (linePkt (zeros 23)) = false := by decide +kernel
theorem witness_Lines_stray : lineFails (upWith (.packet (linePkt (zeros 23))) 0) 7 (linePkt (zeros 23)) = true ∧
    (let s := modFrames (lineState aLine []) 7 fun _ => []
    lineFails s 7 (linePkt aLine) = false ∧ currentFrame s 7 = none) := by decide +kernel
theorem witness_Lines_accepted : let s := lineState aLine [(2, [])]
    lineFails s 7 (linePkt aLine) = false ∧ (lineHdr aLine).line = 3 ∧ (issuedNo s 7 (lineHdr aLine).ord).isSome = true ∧
      (fillBuffers (drainBuffers s (Vector.replicate 4 0)) (stripeBytes { aFrame with fr := { aRec with courses := 0 } })).isSome = true ∧
      frets aFrame.cfg 7 = [] ∧ lineWaits s (linePkt aLine) = false ∧ aFrame.wins = [] ∧ aFrame.hold = .none ∧
      (∀ x : Fin 32, bit (aFrame.reg (surfReg x.val 0)) 31 = false) := by decide +kernel
theorem witness_Lines_first : let s := lineState aLine []
    lineFails s 7 (linePkt aLine) = false ∧ s.frm.latching = false ∧ aFrame.echo = false ∧ (lineHdr aLine).frameLines = 4 := by
  decide +kernel

def aWriting : Writing := { surf := 31, slot := 0, ord := 0, handle := 9, lines := 8, written := true, own := 0, fr := some aRec }
theorem witness_FrameTimeout : let s := { withFrame on { aFrame with cfg := [(0x60000, 0x40010), (0x60008, 1)] } with now := 1000 }
    timedOut s 0 { aFrame with cfg := [(0x60000, 0x40010), (0x60008, 1)] } = true ∧ slotLineWaiting s 0 = false := by decide +kernel
theorem witness_FrameSealed : ((withFrame on { aFrame with closed := true }).ing.frames[(0 : Fin 8)]).head? = some { aFrame with closed := true } ∧
    (on.ing.frames[(7 : Fin 8)]).head? = none := by decide +kernel
theorem witness_SurfaceComplete : ({ on with imp := { on.imp with writing := [aWriting] } }.imp.writing.find?
    fun x => decide (x.surf = (31 : Fin 32).val)) = some aWriting ∧ aWriting.handle < 65536 := by decide +kernel

/-- A capability record with its CRC-32C. -/
def aCap : List Byte := let b := [1, 0] ++ zeros 62
  b ++ leBytes 4 (crcFrom 0xFFFFFFFF b ^^^ 0xFFFFFFFF)
def capPkt : OpenPkt := { ty := 2, stream := 0, slot := some 7, len := 68, bytes := aCap, errored := false, aborted := false }
def asked (fails at_ : Nat) : State := let s := upWith (.packet capPkt) at_
  { s with ing := { s.ing with caps := vMod s.ing.caps 7 fun c => { c with askedAt := some 0, fails := fails } } }

theorem witness_Capability : capOk capPkt = true ∧ ((asked 0 0).ing.caps[(7 : Fin 8)]).askedAt.isSome = true ∧
    regField (asked 0 0) (capStateReg 7) 31 30 < 2 := by decide +kernel
theorem witness_CapRequestTimeout : capDue (asked 2 10000000) 7 = true ∧ capDue (asked 3 99999999) 7 = false ∧
    capDue (asked 3 100000000) 7 = true ∧ slotLink (asked 2 10000000) 7 = some (3, 0) := by decide +kernel
theorem witness_Capability_unasked : let s := upWith (.packet capPkt) 0
    (s.ing.caps[(7 : Fin 8)]).askedAt = none := by decide +kernel

theorem witness_MetaCommit : mayWrite (.user 3) (ingReg 7 0x100) = true ∧ mayWrite (.user 0) (0x1D5000 + 4 * 7) = true := by decide
theorem witness_StatsAck : statAt ({ on.rfe[(7 : Fin 8)] with nextStat := 1, ring := [{ seq := 0, bytes := [], pulled := false }] }) 0
    = .held { seq := 0, bytes := [], pulled := false } := by decide +kernel
theorem witness_StatsAck_state : let s := { on with rfe := vMod on.rfe 7 fun x => { x with nextStat := 1, ring := [{ seq := 0, bytes := [], pulled := false }] } }
    statAt s.rfe[(7 : Fin 8)] 0 = .held { seq := 0, bytes := [], pulled := false } := by decide +kernel

/-- A boundary of slot 7 is due a decision, the governor enabled; HIGH is `high`/256 of the galley. -/
def govState (high : Nat) : State :=
  let s := modGov on 7 fun g => { g with due := true }
  { s with regs := [(0xD0000, 0x80000001), (0xD0008, BitVec.ofNat 32 (65536 * high)), (0xD000C, 1)] }
theorem witness_Governor : ((govState 0).gal.gov[(7 : Fin 8)]).due = true ∧ regBit (govState 0) 0xD0000 31 = true ∧ interrupted (govState 0) = false := by decide +kernel
theorem witness_Governor_high : (((galFill (govState 0) * 4096 : Nat) : ℚ) + (govInput (govState 0) 7 0 - govWrite (govState 0)) *
    ((regField (govState 0) 0xD0010 15 0 : ℚ) / 1000) ≥ (galBytes (govState 0) : ℚ) * (regField (govState 0) 0xD0008 23 16 : ℚ) / 256) ∧
    regField (govState 0) (ratioReg 7) 15 0 ≠ field (trbRatio (govState 0).regs 7) 31 16 := by
  rw [show galFill (govState 0) = 0 by decide +kernel, show govInput (govState 0) 7 0 = 0 by decide +kernel,
    show govWrite (govState 0) = 0 by decide +kernel, show regField (govState 0) 0xD0008 23 16 = 0 by decide +kernel]
  exact ⟨by norm_num, by decide +kernel⟩
theorem witness_Governor_top : let s := { govState 0 with regs := [(ratioReg 7, 5), (0xE01C4, 0x50000)] }
    regField s (ratioReg 7) 15 0 = field (trbRatio s.regs 7) 31 16 := by decide +kernel
theorem witness_Governor_still : (((galFill (govState 255) * 4096 : Nat) : ℚ) + (govInput (govState 255) 7 0 - govWrite (govState 255)) *
    ((regField (govState 255) 0xD0010 15 0 : ℚ) / 1000) < (galBytes (govState 255) : ℚ) * (regField (govState 255) 0xD0008 23 16 : ℚ) / 256) ∧
    (galBytes (govState 255) : ℚ) * (regField (govState 255) 0xD0008 7 0 : ℚ) / 256 ≤ ((galFill (govState 255) * 4096 : Nat) : ℚ) := by
  rw [show galFill (govState 255) = 0 by decide +kernel, show govInput (govState 255) 7 0 = 0 by decide +kernel,
    show govWrite (govState 255) = 0 by decide +kernel, show regField (govState 255) 0xD0008 23 16 = 255 by decide +kernel,
    show regField (govState 255) 0xD0008 7 0 = 0 by decide +kernel, show galBytes (govState 255) = 268435456 by decide +kernel]
  norm_num
theorem witness_Governor_topState : let s := { govState 0 with regs := [(0xD0000, 0x80000001), (0xD000C, 1), (ratioReg 7, 5), (0xE01C4, 0x50000)] }
    (s.gal.gov[(7 : Fin 8)]).due = true ∧ regField s (ratioReg 7) 15 0 = field (trbRatio s.regs 7) 31 16 := by decide +kernel

/-- A mounted volume of 1,024 sectors, 16 channels of one die, with one extent. -/
def aVol : Vol :=
  { ident := zeros 16, superSeq := 0, sectors := 1024, superRo := false, failed := [], formatSec := 0, ckptPos := 0, ckptSeq := 0,
    exts := [{ vsa := 8, n := 4, pos := 0, kind := 3, take := 0, frec := [], seq := 1, no := 1 }], store := [], bad := [], takes := [],
    nextTake := 1, defs := [], attachments := 0, nextSeq := 6, durableSeq := 4, stripe := 0, strip := 0, short := [], parity := [],
    moves := [], sinceUnits := 0, sinceBytes := 0, records := [], low := false }
def mounted : State := { on with mag := { on.mag with
  st := .mounted, power := 0, vol := some aVol, chans := 16, dies := 1, planes := 2, bits := 3, blocks := 64, vccEn := true,
  present := true, vccGood := true } }
def aHostOp : HostOp :=
  { no := 2, vsa := 0, n := 1, isTrim := false, atomic := false, data := [], item := none, begun := none, durable := false,
    corrupt := false }
/-- A sealed frame of slot 0 in take 1 that waits to be written. -/
def takeItem : GalItem := { blankItem on (.frame 0) 0 1 with ready := true, take := some 1, data := [1, 2] }
/-- A unit of SEQ 5 in progress: one strip program runs on die position 0, another waits. -/
def aUnit (kind : Strip) : MUnit :=
  { blankUnit 3 with seq := 5, ops := [2],
                     progs := [{ waitProg kind 0 0 [] with issued := true }, waitProg .commit 1 0 []] }
def programming (u : MUnit) : State := { mounted with mag := { mounted.mag with units := [u] } }

theorem witness_UnitBegin : unitOf mounted aVol.nextSeq = none ∧ canBegin mounted = true ∧
    ckptDue { aVol with sinceUnits := 65536 } = true ∧ ckptDue aVol = false ∧
    (let s := { mounted with mag := { mounted.mag with ops := [aHostOp] } }
    (readyItems s).filter (fun i => i.gap || setComplete s i) = [] ∧
    s.mag.ops.filter (fun o => !o.isTrim && o.begun.isNone) = [aHostOp]) := by decide +kernel
theorem witness_UnitBegin_frame : (let s := setItems mounted [takeItem]
    (readyItems s).filter (fun i => i.gap || setComplete s i) = [takeItem] ∧
    lowestFree (units4k takeItem.data.length) (withOps (geoOf s aVol) aVol.exts (s.mag.ops.filter fun o => o.begun.isNone)) 0 +
      units4k takeItem.data.length ≤ aVol.sectors) := by decide +kernel
theorem witness_StripProgrammed : [Strip.data, .parity, .commit, .partialParity].all (fun k =>
    decide (unitOf (programming (aUnit k)) 5 = some (aUnit k)) && decide (runningProg (aUnit k) k 0 = some 0)) = true ∧
    (aUnit .commit).opens = false := by decide +kernel
theorem witness_BlockErase : 4 ≤ (((mGet [(7, [9, 8, 7, 0])] 7).getD []).filter fun x => decide (10 < x + 3600000000000)).length := by
  decide +kernel
theorem witness_UnitBegin_checkpoint : let s := { mounted with mag := { mounted.mag with vol := some { aVol with sinceUnits := 65536 } } }
    canBegin s = true ∧ unitOf s 6 = none := by decide +kernel
theorem witness_UnitBegin_powerFailing : let s := { mounted with mag := { mounted.mag with pwrFail := true } }
    s.mag.pwrFail = true ∧ unitOf s 6 = none := by decide +kernel
theorem witness_UnitBegin_write : let s := { mounted with mag := { mounted.mag with ops := [aHostOp] } }
    canBegin s = true := by decide +kernel
theorem witness_StripProgrammed_each : let d := programming (aUnit .data)
    let p := programming (aUnit .parity)
    let c := programming (aUnit .commit)
    let q := programming (aUnit .partialParity)
    [d, p, c, q].all (fun s => s.live) = true ∧ runningProg (aUnit .data) .data 0 = some 0 := by decide +kernel
theorem witness_StripProgrammed_stale : let s := { programming (aUnit .data) with mag := { (programming (aUnit .data)).mag with stale := [(5, .data, 0)] } }
    s.mag.stale.contains (5, .data, 0) = true := by decide +kernel
theorem witness_BlockErase_fifth : let s := { mounted with now := 10, mag := { mounted.mag with fails := [(7, [9, 8, 7, 0])] } }
    4 ≤ (((mGet s.mag.fails 7).getD []).filter fun x => decide (s.now < x + 3600000000000)).length := by decide +kernel

theorem witness_SectorRead : isMounted mounted = true ∧
    aVol.exts.filter (fun e => decide (e.vsa < 11 + 1) && decide (11 < e.vsa + e.n)) = aVol.exts ∧
    aVol.exts.filter (fun e => decide (e.vsa < 12 + 1) && decide (12 < e.vsa + e.n)) = [] := by decide +kernel
theorem witness_DieSilent : 15 ∉ aVol.failed ∧ (∃ d ∈ { aVol with failed := [15] }.failed, d / 16 = 0 / 16) := by decide +kernel
theorem witness_DieSilent_second : let s := { mounted with mag := { mounted.mag with vol := some { aVol with failed := [15] } } }
    s.mag.vol.map (·.failed) = some [15] ∧ s.mag.st = .mounted := by decide +kernel

def atSt (st : MagSt) : State := { on with regs := [(0xF0000, 0xE0000000)], mag := { on.mag with st := st }, now := 50000000 }
def aMedium : Medium :=
  { chans := 16, dies := 1, planes := 2, bits := 3, blocks := 64, total := 1024, serials := [], bad := [], wp := true, superA := [], superB := [], log := [] }
theorem witness_Inserted : (atSt .empty).mag.st = .empty ∧ regBit (atSt .empty) 0xF0000 31 = true := by decide +kernel
theorem witness_VccGood : (atSt .ident).mag.vccGood = false ∧ (atSt .ident).mag.vccAt + 50000000 ≤ (atSt .ident).now := by decide +kernel
theorem witness_Mount_blank : legalPop aMedium = true ∧ superOf aMedium = none := by decide +kernel
/-- Whatever volume a superblock describes, aVol included. -/
theorem witness_Mount_formatted (v : Vol) : superOf { aMedium with superA := superBytes v 0 16 1 2 3 64 } =
    some (superBytes v 0 16 1 2 3 64) := by
  have h := superValid_superBytes v 0 16 1 2 3 64
  have h2 : superValid aMedium.superB = false := by decide
  simp only [superOf, h, h2]
theorem witness_Eject : (let s := { mounted with regs := [(0xF0000, 0xE0000000)] }
    regBit s 0xF0000 29 = true ∧ isMounted s = true ∧ takeOpen s = false) ∧ allDurable (atSt .ejecting) = true := by decide +kernel
theorem witness_Inserted_ready : let s := { atSt .empty with sys := { (atSt .empty).sys with ready := true } }
    regBit s 0xF0000 31 = true ∧ s.sys.ready = true := by decide +kernel
theorem witness_VccGood_waits : let s := { atSt .ident with mag := { (atSt .ident).mag with transition := some (0, some (.pf, 31)) } }
    s.mag.transition = some (0, some (.pf, 31)) ∧ 31 < mbxSlots .pf := by decide +kernel
theorem witness_Mount_bad : let m := { aMedium with bad := [15] }
    (∀ d ∈ m.bad, d ∉ ((superOf m).map superFailed).getD []) ∧ legalPop m = true := by decide +kernel
def aTake : Take := {
  ident := 0xFFFFFFFF, state := 0, slots := 1, cause := 0, streams := 0, startNs := 0, startSec := 0, endNs := 0, endSec := 0,
  frames := Vector.replicate 8 0, name := zeros 32, timecode := 0, index := [] }
def taking : State := { mounted with mag := { mounted.mag with
  vol := some { aVol with takes := [aTake] }, takeSlots := [{ slot := 0, take := 0xFFFFFFFF, last := none, full := false }] } }
theorem witness_Eject_take : let s := { taking with regs := [(0xF0000, 0xE0000000)] }
    isMounted s = true ∧ takeOpen s = true ∧ regBit s 0xF0000 29 = true := by decide +kernel
theorem witness_EjectUnmount_waits : let s := { programming (aUnit .data) with mag := { (programming (aUnit .data)).mag with st := .ejecting } }
    allDurable s = false ∧ s.mag.pwrFail = false := by decide +kernel
theorem witness_EjectUnmount_asked : let s := { atSt .ejecting with mag := { (atSt .ejecting).mag with eject := some (some (.pf, 31)) } }
    allDurable s = true ∧ s.mag.transition = none := by decide +kernel
theorem witness_Removed : let s := atSt .off
    s.mag.st = .off ∧ mounted.mag.st ≠ .empty := by decide +kernel
theorem witness_PwrFailClear : let s := { mounted with thm := { mounted.thm with shutAt := some 3 } }
    s.thm.shutAt = some 3 ∧ mounted.thm.shutAt = none := by decide +kernel

theorem witness_Zq : diesActive mounted = true ∧ mounted.mag.lastZq + 100000000 ≤ { mounted with now := 100000000 }.now := by
  decide +kernel
/-- The galley has a size and LOW is half of it. -/
def quietGalley : State := { mounted with regs := [(0xD0000, 1), (0xD0008, 0x80)], mag := { mounted.mag with rebuild := true } }
theorem witness_Background : (List.range 5).all (fun row => bgAllowed quietGalley row 0 1) = true ∧
    (mGet quietGalley.mag.patrolled (patrolKey 0 0)).all (fun t => decide (t + patrolSpan ≤ quietGalley.now)) = true ∧
    bgAllowed { quietGalley with mag := { quietGalley.mag with pwrFail := true } } 0 0 1 = false := by decide +kernel
/-- The volume with die position 3 failed, and one that holds nothing. -/
def rebuilding (v : Vol) : State := { quietGalley with mag := { quietGalley.mag with vol := some { v with failed := [3] } } }
theorem witness_Rebuild : (let v := { aVol with failed := [3] }
    (groupRest v 3).all (fun d => bgAllowed (rebuilding aVol) 4 d 1) = true ∧ canBegin (rebuilding aVol) = true ∧
    onFailed (geoOf (rebuilding aVol) v) v 3 = [(8, 4)]) ∧ rebuildLeft (rebuilding { aVol with exts := [] }) = false := by
  decide +kernel
theorem witness_PowerTransition : allDurable mounted = true ∧ allDurable (programming (aUnit .data)) = false := by decide +kernel

/-- Core 0, stream 15 codes a picture of 128 × 192 that has one row of three done. -/
def aPic (rows : Nat) : EncPic :=
  { blankPic 0 0 0 0 0 with
    cfg := [(encReg 0 15 0, 0x80A00000), (encReg 0 15 8, 0xC00080)], started := true, ready := true, rows := rows, cap := some 4096 }
def encoding (rows : Nat) : State := modEnc on 0 15 fun st =>
  { st with cur := some (aPic rows) }
theorem witness_CtuRow : rowStream (encoding 1) 0 = some 15 ∧
    ((encoding 1).hev.streams[(0 : Fin 4)][(15 : Fin 16)]).cur = some (aPic 1) ∧
    (let cf := (aPic 1).conf 0 15
    cf.w = 128 ∧ ceilDiv cf.h 64 = 3 ∧ sliceBudget cf (aPic 1) = some (4096 - 8 * (recSei cf (zeros 256)).length)) := by decide +kernel

/-- Stream 15 of core 3 is on with VBR; its surface 0 serves slot 0. -/
def rating : State :=
  let s := modEnc { on with sys := { on.sys with ready := true } } 3 15 fun st => { st with cfg := [(encReg 3 15 0, 0x80A000BA)] }
  { s with regs := [(0xA8000, 0x80000000), (surfReg 0 0, 0x80000000)] }
theorem witness_RateDecision : let st := rating.hev.streams[(3 : Fin 4)][(15 : Fin 16)]
    let cf := st.conf 3 15
    interrupted rating = false ∧ (st.next 3 15).isNone = true ∧ cf.on = true ∧ cf.rc ≠ 0 ∧ cf.hostJob = false ∧
    regBit rating (encReg 3 15 0x40) 31 = false ∧ surfSlot rating cf.surf = some 0 ∧ st.last.toList.getD 0 none = none := by
  decide +kernel

def seiReq (ty n : Byte) : List Byte := request 0x0601 [63, ty, n]
theorem witness_StreamSei : asks (ask on .pf 31 (seiReq 137 24)) .pf 31 0x0601 (seiReq 137 24) ∧
    reaches (ask on .pf 31 (seiReq 5 24)) .pf 31 0x0601 (seiReq 5 24) ∧ firstBad .pf 0x0601 (seiReq 5 24) = some 0x11 ∧
    firstBad .pf 0x0601 (seiReq 144 201) = some 0x12 ∧ (63 : Nat) = encByte 3 15 := by decide +kernel
def headersReq : List Byte := request 0x0602 ([63] ++ zeros 15 ++ leBytes 8 0x1000 ++ leBytes 4 16)
/-- Stream 15 of core 3 is on and has a header set of `n` bytes. -/
def withHeaders (n : Nat) : State :=
  { modEnc on 3 15 (fun st => { st with headers := zeros n }) with regs := [(encReg 3 15 0, 0x80000000)] }
theorem witness_StreamHeaders : (let s := ask (withHeaders 16) (.user 3) 3 headersReq
    asks s (.user 3) 3 0x0602 headersReq ∧ regBit s (encReg 3 15 0) 31 = true ∧
    mayReceive s (.user 3) (descAt headersReq 0x20) { sgl := none, data := none } [(0x1000, 16)] (zeros 16)) ∧
    regBit (ask on (.user 3) 3 headersReq) (encReg 3 15 0) 31 = false := by decide +kernel

/-- Head 5 has latched its fields, enabled and free running; its raster runs or waits from tick 5 on. -/
def headState (raster latched : Bool) : State :=
  let s := { on with regs := [(headReg 5 0, 0x8C011000), (headReg 5 4, 0x100058), (headReg 5 0xC, 0x40004),
    (headReg 5 0x100, 0x800000FF), (headReg 5 0x120, 0xC0000000)], now := 40000000 }
  modHead s 5 fun x => { x with
    st := if raster then .locked else .seeking, cfg := headSlice s 5, raster := raster, latched := latched, waitFrom := 5,
    planes := x.planes.set 1 { x.planes[1] with writes := [(7, 0)] } }
theorem witness_HeadStart : let x := (headState false false).dsp.heads[(5 : Fin 6)]
    x.enabled 5 = true ∧ x.source 5 = 0 ∧ (∀ q : Fin 4, (x.planes[q]).clear = []) ∧ x.st = .seeking ∧
      x.waitFrom ≤ ((headState false false).now : ℚ) := by decide +kernel
theorem witness_HeadNext : let x := (headState true true).dsp.heads[(5 : Fin 6)]
    x.raster = true ∧ x.latched = true ∧ x.startAt + x.period 5 ≤ ((headState true true).now : ℚ) := by decide +kernel
theorem witness_Latch : let x := (headState true false).dsp.heads[(5 : Fin 6)]
    x.lineAt 5 (x.topLines 5 + x.height 5) ≤ ((headState true false).now : ℚ) ∧ x.cfg = headSlice (headState true false) 5 ∧
      bit (rmGet x.cfg (planeReg 5 0 0)) 31 = true ∧ bit (rmGet x.cfg (planeReg 5 0 0)) 30 = false ∧
      bit (rmGet x.cfg (planeReg 5 1 0)) 30 = true ∧ (x.planes[(1 : Fin 4)]).writes = [(7, 0)] ∧
      bit (rmGet x.cfg (planeReg 5 2 0)) 31 = false := by decide +kernel
theorem witness_Latch_early : let s := { headState true false with now := 0 }
    let x := s.dsp.heads[(5 : Fin 6)]
    (s.now : ℚ) < x.lineAt 5 (x.topLines 5 + x.height 5) := by decide +kernel
theorem witness_PlaneHandle : mayWrite (.user 0) (planeReg 5 3 0xC) = true := by decide

/-- Port 1 trains for head 0, 4 lanes of HBR3, HPD high. -/
def training : State :=
  { on with dsp := { on.dsp with ports := on.dsp.ports.set 1 { on.dsp.ports[1] with st := 1, hpd := true, cfg := 0x8A400400 } } }
theorem witness_LinkTraining : let w := (training.dsp.ports[(1 : Fin 2)]).cfg
    (0 : Nat) = field w 30 28 ∧ min (field w 27 26) 2 = 2 ∧ min (field w 25 24) 2 = 2 ∧
      edpFits (fun off => (training.dsp.heads[(0 : Fin 6)]).word 0 off) w 2 (2 - 2) = true ∧
      edpFits (fun off => (training.dsp.heads[(0 : Fin 6)]).word 0 off) w 0 (0 - 0) = false := by decide +kernel

/-- Sender 47 of a type on port 0, interface 0, of head 5, whose raster runs; the interface is up or down. -/
def sending (ty : Nat) (up : Bool) (group : Option Nat) (at_ : Nat) : State :=
  let s := headState true true
  let s := { s with ptpNow := at_, now := 700000, regs := s.regs ++ [(portReg 0 0x80, if up then 1 else 0),
    (sndReg 47 0, BitVec.ofNat 32 (0x800004B0 + ty * 2 ^ 29)), (sndReg 47 4, 0x5000001)] }
  modSnd s 47 fun x => { x with cfg := sndSlice s 47, frame := some 0, group := group }
theorem witness_VideoPacket : let s := sending 0 true none 0
    let x := s.net.snds[(47 : Fin 48)]
    let y := s.dsp.heads[(5 : Fin 6)]
    sends s 47 x 0 ∧ field (x.word 47 4) 26 24 = 5 ∧ x.frame = some y.startAt ∧ y.raster = true ∧ y.st ≠ .off ∧ sndTurn s 47 = true ∧
      x.next < linePackets (x.word 47 0) (y.width 5) * y.height 5 ∧ packetAt x 47 y 5 x.next ≤ (s.now : ℚ) ∧
      ifUp (sending 0 false none 0) 0 0 = false ∧ sndTurn (sending 0 false none 0) 47 = true := by decide +kernel
theorem witness_VideoPacket_early : let s := { sending 0 true none 0 with now := 0 }
    (s.now : ℚ) < packetAt s.net.snds[(47 : Fin 48)] 47 s.dsp.heads[(5 : Fin 6)] 5 0 := by decide +kernel
theorem witness_AudioPacket : let s := sending 1 true (some 0) (1000000 * 65536)
    let x := s.net.snds[(47 : Fin 48)]
    sends s 47 x 1 ∧ x.group = some 0 ∧ (0 + 1) * (groupNs (x.word 47 0) * 65536) + (x.word 47 0x34).toNat * 1000 * 65536 = ptpTime s ∧ sndTurn s 47 = true ∧
      0 < groupSamples (x.word 47 0) ∧ (0, 0) ∈ sndChannels (field (x.word 47 4) 15 0) ∧ gotAt x.got 0 0 = none ∧
      gotAt [(0, 0, 1, 1)] 0 0 = some (1, 1) := by decide +kernel
theorem witness_TimecodePacket : let s := sending 2 true none 0
    let x := s.net.snds[(47 : Fin 48)]
    sends s 47 x 2 ∧ x.next = 0 ∧ (s.dsp.heads[(5 : Fin 6)]).startAt + 50000 ≤ (s.now : ℚ) ∧
      ((s.dsp.heads[(5 : Fin 6)]).planes[(0 : Fin 4)]).shown = 0 := by decide +kernel

/-- Port 1 has interface 3; its link is up or down; `n` time-stamps wait. -/
def portState (up : Bool) (n : Nat) : State :=
  { on with regs := [(portReg 1 0x80, if up then 0x88 else 0)],
            net := { on.net with ports := on.net.ports.set 1 0xC0000000, txts := on.net.txts.set 1 (List.replicate n (7, 9)) } }
theorem witness_Ethernet : ifUp (portState true 0) 1 3 = true ∧ ifUp (portState false 0) 1 3 = false ∧
    hasIface (portState false 0).net.ports[(1 : Fin 2)] 3 = true ∧ interrupted (portState true 0) = false ∧
    ((portState false 0).sys.clocks[4]).lost = false ∧ isPtp (portState true 0) 1 3 (1 :: zeros 11 ++ [0x88, 0xF7]) = true ∧
    isPtp (portState true 0) 1 3 [] = false := by decide +kernel
theorem witness_PtpMessage : (((portState true 63).net.txts[(1 : Fin 2)]).length < 64) ∧ 64 ≤ ((portState true 64).net.txts[(1 : Fin 2)]).length := by
  decide +kernel
theorem witness_TxtsRead : mayRead (.user 3) = true ∧ (portState true 1).net.txts[(1 : Fin 2)] = (7, 9) :: [] ∧
    (portState true 1).net.txts[(0 : Fin 2)] = [] := by decide +kernel

/-- The servo is on in a state of Table PTP-2, its thresholds as after reset, `n` small offsets so far. -/
def servoState (st : Word) (n : Nat) : State :=
  { on with regs := [(0x150010, 0xC0000000), (0x15003C, st <<< 30)],
            net := { on.net with small := n, prevBig := true, lastOfs := some 0 }, staged := [(wideKey .fjarera 0x150030, 65536)],
            now := 3000000000 }
theorem witness_OffsetWrite : interrupted (servoState 1 15) = false ∧ regBit (servoState 1 15) 0x150010 31 = true ∧ regBit (servoState 1 15) 0x150010 30 = true ∧
    signed 64 ((stagedWord (servoState 1 15) .fjarera 0x150030).toNat + (0 : Word).toNat * 2 ^ 32) = 65536 ∧
    regField (servoState 1 15) 0x15003C 31 30 = 1 ∧ regField (servoState 2 15) 0x15003C 31 30 = 2 ∧
    absQ 1 < ((regGet (servoState 1 15) 0x150024).toNat : ℚ) ∧ ((regGet (servoState 1 15) 0x150020).toNat : ℚ) < absQ 50001 := by decide +kernel
theorem witness_OfsTimeout : 0 + (regGet (servoState 2 0) 0x150028).toNat * 1000000 ≤ (servoState 2 0).now := by decide +kernel

/-- Input 15 takes both edges, with an expected period or none; `n` entries wait. -/
def inputState (exp : Word) (n : Nat) : State :=
  { on with regs := [(evtCfgReg 15, 0xC0000000), (evtCfgReg 15 + 4, exp)], now := 3000,
            net := { on.net with evts := List.replicate n { rising := true, input := 1, count := 1, time := 0 },
                                 inputs := on.net.inputs.set 15 { on.net.inputs[15] with lastEdge := some 0 } } }
theorem witness_EventEdge : bit (regGet (inputState 0 63) (evtCfgReg 15)) 31 = true ∧
    field (regGet (inputState 0 63) (evtCfgReg 15)) 30 29 = 2 ∧ (inputState 0 63).net.evts.length < 64 ∧
    64 ≤ (inputState 0 64).net.evts.length ∧ field (0x80000004 : Word) 30 29 = 0 ∧
    field (0x80000004 : Word) 15 0 = 4 ∧ 4 * field (regGet (inputState 0 63) (evtCfgReg 15)) 15 0 ≤ 0 := by decide +kernel
theorem witness_EventEdge_outlier : (((3000 - 0 : Nat) : ℚ) < (3062 : ℚ) * 98 / 100 ∨ (3062 : ℚ) * 102 / 100 < ((3000 - 0 : Nat) : ℚ)) ∧
    ((inputState 3062 0).net.inputs[(15 : Fin 16)]).run < 8 := by decide +kernel
theorem witness_EvtInputLost : ((inputState 1000 0).net.inputs[(15 : Fin 16)]).lost = false ∧
    ((inputState 1000 0).net.inputs[(15 : Fin 16)]).lastEdge.getD 0 + 3 * 1000 ≤ (inputState 1000 0).now := by decide +kernel
theorem witness_TcJam : mayWrite (.user 3) (0x150304 + 0x10 * 7) = true := by decide

def aBlock (n : Nat) : AudBlock := { seq := 4, silence := false, discont := false, start := 0, rate := 0, samples := List.replicate n (1, 2) }
/-- Port 7 is enabled as a master or a slave, its fields latched, with a block of `n` samples in progress. -/
def audState (cfg : Word) (st : AudSt) (run n : Nat) (silent : Bool) : State :=
  let s := { on with regs := [(audReg 7 0, cfg)], ptpNow := 10 ^ 12, now := 20833 }
  modAud s 7 fun x => { x with
    cfg := s.regs, st := st, lastEdge := some 0, run := run, sample := some 0, cur := some (aBlock n), silent := silent }
theorem witness_AudioFrame_master : let s := audState 0xCA000000 .locked 0 63 false
    let x := s.aud[(7 : Fin 8)]
    x.cfg = rmSlice s.regs (audReg 7 0) (audReg 7 0x20) ∧ x.enabled 7 = true ∧ x.master 7 = true ∧
      masterInstant x 7 0 ≤ (ptpTime s : Int) ∧ (ptpTime s : Int) < masterInstant x 7 2000000 ∧ (aBlock 63).samples.length = 63 := by decide +kernel
theorem witness_AudioFrame_slave : let s := audState 0x8A000000 .seeking 7 0 false
    let x := s.aud[(7 : Fin 8)]
    x.enabled 7 = true ∧ x.master 7 = false ∧ 4 * field (x.word 7 0xC) 15 0 ≤ 8 ∧ inWindow (1000000000 / (x.rate 7 : ℚ)) x.periods 0 (s.now - 0) = true ∧
      x.run = 7 ∧ inWindow (1000000000 / (x.rate 7 : ℚ)) x.periods 8 (s.now - 0) = true ∧
      inWindow (1000000000 / (x.rate 7 : ℚ)) x.periods 8 30000 = false := by decide +kernel
theorem witness_AudioPortLost : let s := { audState 0x8A000000 .locked 8 0 false with now := 62500 }
    let s := modAud s 7 fun x => { x with cur := none }
    let x := s.aud[(7 : Fin 8)]
    x.cur = none ∧ 3000000000 ≤ (s.now - x.lastEdge.getD x.since) * x.rate 7 := by decide +kernel
theorem witness_SyntheticBlock : let x := (audState 0x8A000000 .lost 0 5 true).aud[(7 : Fin 8)]
    x.silent = true ∧ x.lastStart + blockLen (silentRate x 7) ≤ ptpTime (audState 0x8A000000 .lost 0 5 true) := by decide +kernel

def aQueue (p : Party) : Queue :=
  { owner := p, sqBase := 0x10000, cqBase := 0x20000, sqDepth := 8, cqDepth := 8, tagBase := 16, tagCount := 16, vector := 1, cls := 1,
    bindMag := false, aggCount := 1, aggTime := 1, sqHead := 7, sqTail := 1, cqHead := 0, cqTail := 3, phase := true, halted := false,
    resetting := none, fenced := false, unsignalled := 0, firstAt := 0, attached := 0, backlog := [], cmds := [] }
/-- Queue 5 of a party, its function a bus master. -/
def queueState (x : Queue) : State :=
  { on with hq := { on.hq with queues := [(5, x)], bme := Vector.replicate 64 true, arb := { on.hq.arb with lastQ := 4 } } }
/-- An SQ entry: opcode, tag, then the fields from byte 8 on. -/
def anEntry (op tag : Nat) (l : List Byte) : List Byte :=
  let b := leBytes 4 op ++ leBytes 4 tag ++ l
  b ++ zeros (64 - b.length)
theorem witness_Doorbells : ownedQueue (queueState (aQueue (.vf 62))) 63 5 = some (aQueue (.vf 62)) ∧
    field (7 : Word) 15 0 < (aQueue (.vf 62)).sqDepth ∧ ((3 : Nat) + 8 - 0) % 8 ≤ (3 + 8 - 0) % 8 ∧
    ownedQueue (queueState (aQueue .pf)) 63 5 = none := by decide +kernel
theorem witness_Fetch : (arbNext (queueState (aQueue .pf))).map (·.1) = some 5 ∧ queueOf (queueState (aQueue .pf)) 5 = some (aQueue .pf) ∧
    (let e := anEntry 0x31 31 (zeros 16 ++ leBytes 8 9)
    e.length = 64 ∧ leAt e 4 4 % 2 ^ 18 = 31 ∧ (opRowOf (leAt e 0 1)).map (·.badField e) = some none) ∧
    leAt (anEntry 0x31 15 []) 4 4 % 2 ^ 18 = 15 ∧ leAt (anEntry 0x31 32 []) 4 4 % 2 ^ 18 = 32 ∧
    (opRowOf (leAt (anEntry 0x7F 16 []) 0 1)).isNone ∧ (aQueue .pf).full = false := by decide +kernel

theorem witness_AggTime : let x := { aQueue .pf with unsignalled := 2, firstAt := 3 }
    queueOf (queueState x) 5 = some x ∧ 0 < x.aggTime ∧ x.firstAt + 4000 * x.aggTime ≤ 4003 ∧
      vecMasked (queueState x) x.fn x.vector = true ∧
      vecMasked { queueState x with msix := [(16 * 1 + 12, 0)] } x.fn x.vector = false := by decide +kernel
theorem witness_VectorUnmask : (127 : Nat) < vectorsOf 0 ∧ 63 < vectorsOf 63 ∧ vectorsOf 63 ≤ 64 ∧ bit 0xFFFFFFFE 0 = false := by decide

def aCmd (op : Nat) : Cmd :=
  { op := op, flags := 0, addr := 0x8000, len := 4096, arg0 := 0, arg1 := 1, arg2 := 0, sqHead := 2, order := 0, mark := 0,
    waiting := false, finished := false, holds := [], segs := [], data := [], job := none, aborted := false }
theorem witness_Qreset : ownedQueue (queueState (aQueue .pf)) 0 (field (0x80000005 : Word) 11 0) = some (aQueue .pf) ∧
    ownedQueue (queueState (aQueue .pf)) 1 (field (0x80000005 : Word) 11 0) = none := by decide +kernel
theorem witness_ResetHold : let s := queueState { aQueue .pf with cmds := [(16, aCmd 1)] }
    ({ s with hq := { s.hq with resetAsked := [5] } }).hq.resetAsked.contains 5 = true ∧
    (queueOf s 5).map (fun x => decide (x.cmds ≠ [])) = some true ∧ (aQueue .pf).cmds = [] ∧ (aQueue .pf).full = false := by decide +kernel
theorem witness_AbortedCompletion : let c := { aCmd 1 with aborted := true }
    let x := { aQueue .pf with cmds := [(16, c), (31, c)], resetting := some 0 }
    queueOf (queueState x) 5 = some x ∧ mGet x.cmds 31 = some c ∧ x.full = false ∧ mDel x.cmds 31 ≠ [] := by decide +kernel

theorem witness_Flr : .vf 62 = partyOf (63 : Fin 64).val ∧ mRising none on.imp.handles = true ∧
    mRising none (queueState (aQueue .pf)).hq.queues = true ∧ queueOf (queueState (aQueue .pf)) 5 = some (aQueue .pf) ∧ (aQueue .pf).owner ≠ .vf 62 := by decide +kernel
theorem witness_PcieLinkTraining : let s := { on with regs := [(0x18, 16)] }
    regBit s 0x18 4 = true ∧ (s.sys.clocks[2]).lost = false ∧ regBit on 0x18 4 = false := by decide +kernel

/-- Queue 5 of the PF, bound to the mounted volume, has a command in flight under tag 31. -/
def withCmd (c : Cmd) : State :=
  { mounted with hq := { on.hq with queues := [(5, { aQueue .pf with bindMag := true, cmds := [(31, c)] })] } }
def cmdQueue (c : Cmd) : Queue := { aQueue .pf with bindMag := true, cmds := [(31, c)] }
theorem witness_MagRead : inFlight (withCmd (aCmd 1)) 5 31 1 (cmdQueue (aCmd 1)) (aCmd 1) ∧ magServed (withCmd (aCmd 1)) = true ∧
    (aCmd 1).vsa + (aCmd 1).arg1 ≤ aVol.sectors ∧ bit (BitVec.ofNat 32 (aCmd 1).flags) 3 = false ∧ (aCmd 1).len = 4096 * (aCmd 1).arg1 ∧
    badByteOf (withCmd (aCmd 1)) 5 31 = none ∧ aVol.sectors < ({ aCmd 1 with arg0 := 1024 }).vsa + 1 := by decide +kernel
theorem witness_MagRead_data : readRange (withCmd (aCmd 1)) aVol 1 0 = ([zeros 4096], none) ∧
    readRange (withCmd (aCmd 1)) { aVol with bad := [0] } 1 0 = ([], some .media) := ⟨rfl, rfl⟩
theorem witness_MagWrite : inFlight (withCmd (aCmd 2)) 5 31 2 (cmdQueue (aCmd 2)) (aCmd 2) ∧ admits (withCmd (aCmd 2)) 1 = true ∧
    extentsWith (withCmd (aCmd 2)) 0 1 ≤ 67108864 ∧ admits { withCmd (aCmd 2) with regs := [(0xD0008, 0)] } 1 = false := by decide +kernel
theorem witness_MagFlush : inFlight (withCmd (aCmd 3)) 5 31 3 (cmdQueue (aCmd 3)) (aCmd 3) ∧
    findCmds (withCmd (aCmd 3)) (fun _ d => decide (d.op = 3) && d.waiting) = [] ∧
    [aHostOp].all (fun o => o.durable || decide (({ aCmd 3 with mark := 3 }).mark ≤ o.no)) = false ∧
    [aHostOp].all (fun o => o.durable || decide ((aCmd 3).mark ≤ o.no)) = true := by decide +kernel
theorem witness_WriteAccepted : let c := { aCmd 2 with waiting := true }
    mGet (cmdQueue c).cmds 31 = some c ∧ admits (withCmd c) 1 = true := by decide +kernel

/-- A descriptor of one frame of 1 × 1, no outputs, its rendition set in handle 9. -/
def aDesc : List Byte :=
  [0x4A, 0x4F, 0x42, 0x31, 1, 0, 1, 0, 0, 0, 9, 0, 1, 0, 1, 0] ++ zeros 56 ++ [64, 0, 0, 0] ++ zeros 52
def aJob : Job := Job.new aDesc
def jobCmd (j : Job) : Cmd := { aCmd 0x10 with waiting := true, job := some j, len := 128 }
def jobState (j : Job) : State := { withCmd (jobCmd j) with sys := { on.sys with ready := true }, regs := [(0x20008, 24)] }
theorem witness_JobSubmit : inFlight (withCmd (aCmd 0x10)) 5 31 0x10 (cmdQueue (aCmd 0x10)) (aCmd 0x10) ∧
    bit (BitVec.ofNat 32 (aCmd 0x10).flags) 3 = false ∧
    ((aJob.check (withCmd (aCmd 0x10)) .pf 128).map (·.off)) = some 0xA ∧
    (((Job.new []).check (withCmd (aCmd 0x10)) .pf 0).map (·.off)) = some 0x10 := by decide +kernel
theorem witness_JobFrames : let j := { aJob with admitted := true }
    mGet (cmdQueue (jobCmd j)).cmds 31 = some (jobCmd j) ∧ mayStart (jobState j) j (jobCmd j).order 0 = true ∧
      (jobState j).frm.heldFor = none ∧ (jobState j).frm.lockedList = [] ∧
      (∀ (e : Fin 4) (k : Fin 16), ((jobState j).hev.streams[e][k]).coded = []) ∧ interrupted (jobState j) = false ∧
      j.fr j.started 0x18 8 = 0 ∧ j.left + 1 = j.frames ∧ (Job.new ((aDesc.take 6) ++ [2] ++ aDesc.drop 7)).left + 1 <
      (Job.new ((aDesc.take 6) ++ [2] ++ aDesc.drop 7)).frames := by decide +kernel

def aUnitRing (l : List Nat) : List RingUnit := l.map fun n => { bytes := zeros n }
theorem witness_StreamPull : inFlight (withCmd { aCmd 0x20 with arg0 := 63 }) 5 31 0x20 (cmdQueue { aCmd 0x20 with arg0 := 63 })
      { aCmd 0x20 with arg0 := 63 } ∧ (63 % 4 = (3 : Fin 4).val) ∧ (63 / 4 % 16 = (15 : Fin 16).val) ∧
    oldestPull (withCmd { aCmd 0x20 with arg0 := 63 }) 3 15 = none ∧
    (((withCmd (aCmd 0x20)).hev.streams[(3 : Fin 4)][(15 : Fin 16)]).ring = []) ∧ (aCmd 0x20).wait = false ∧
    ({ aCmd 0x20 with flags := 4 }).wait = true ∧ (aUnitRing [384, 4097]).length = 2 := by decide +kernel
def aHandle : Handle := { owner := .pf, size := 8192, releasing := false, doneAt := none, bytes := [], born := 0 }
def withHandle (c : Cmd) : State := { withCmd c with imp := { on.imp with handles := [(9, aHandle)] } }
theorem witness_StatsPull : let c := { aCmd 0x21 with arg0 := 7, arg1 := 0, len := 30976 }
    inFlight (withCmd c) 5 31 0x21 (cmdQueue c) c ∧ 30976 ≤ c.len ∧ statAt (withCmd c).rfe[(7 : Fin 8)] 0 = .ahead ∧
    statAt { (withCmd c).rfe[(7 : Fin 8)] with nextStat := 1, ring := [{ seq := 0, bytes := [1], pulled := false }] } 0
      = .held { seq := 0, bytes := [1], pulled := false } ∧
    statAt { (withCmd c).rfe[(7 : Fin 8)] with nextStat := 65 } 0 = .gone := by decide +kernel
theorem witness_SurfAlloc : let c := { aCmd 0x30 with arg0 := 4096 }
    inFlight (withCmd c) 5 31 0x30 (cmdQueue c) c ∧ (allocHandle (withCmd c) .pf 4096).isNone = true ∧
    (allocHandle { withCmd c with regs := [(0x170000, 0xFFFF)] } .pf 4096).map (·.1) = some 1 := by decide +kernel
theorem witness_SurfFree : let c := { aCmd 0x31 with arg0 := 9 }
    inFlight (withHandle c) 5 31 0x31 (cmdQueue c) c ∧ allocatedTo (withHandle c) .pf 9 = true ∧ referenced (withHandle c) 9 = false ∧
    allocatedTo (withHandle c) .pf 8 = false := by decide +kernel
theorem witness_SurfRead : let c := { aCmd 0x32 with arg0 := 9, arg1 := 4096, holds := [9] }
    inFlight (withHandle c) 5 31 0x32 (cmdQueue c) c ∧ c.holds.contains 9 = true ∧ spaceOf (withHandle c) 9 4096 c.len = true ∧
    referenced (withHandle c) 9 = true := by decide +kernel
/-- A rendition set with the reset values of the raw and colour registers, monochrome samples. -/
def aSet : List Byte := ((List.range 64).flatMap fun i => leBytes 4 (if i = 1 then 0 else (resetOf (0x80000 + 4 * i)).toNat))
  ++ ((List.range 128).flatMap fun i => leBytes 4 (resetOf (0xA0000 + 4 * i)).toNat)
theorem witness_JobSubmit_sound : let s := withHandle { aCmd 0x10 with len := 128 }
    aJob.check { s with imp := { s.imp with handles := [(9, { aHandle with bytes := aSet })] } } .pf 128 = none := by
  rw [← Option.isNone_iff_eq_none]
  decide +kernel

def aSession (todo : List (Nat × Nat)) : Session :=
  { owner := .pf, size := 8192, params := [], pictures := 1, dpb := [], fresh := true, todo := todo }
/-- Session 15 is open; an access unit whose slices have a NAL type may be in flight. -/
def decState (c : Cmd) (todo : List (Nat × Nat)) : State :=
  { withHandle c with hev := { on.hev with sessions := [(15, aSession todo)] } }
def auOf (ty : Nat) : List Byte := [0, 0, 1, BitVec.ofNat 8 (2 * ty), 1, 0x80]
theorem witness_DecOpen : let c := { aCmd 0x40 with arg0 := 15 }
    inFlight (withHandle c) 5 31 0x40 (cmdQueue c) c ∧ mGet (withHandle c).hev.sessions 15 = none ∧
    (mGet (decState c []).hev.sessions 15).isSome = true := by decide +kernel
theorem witness_DecPicture : let c := { aCmd 0x41 with arg0 := 15, arg1 := 9 }
    inFlight (decState c []) 5 31 0x41 (cmdQueue c) c ∧ sessionOf (decState c []) .pf 15 = some (aSession []) ∧
    allocatedTo (decState c []) .pf 9 = true ∧ (aSession []).size ≤ aHandle.size ∧ referenced (decState c []) 9 = false := by decide +kernel
theorem witness_DecClose : let c := { aCmd 0x42 with arg0 := 15, order := 1 }
    inFlight (decState c []) 5 31 0x42 (cmdQueue c) c ∧ picturesBefore (decState c []) 15 1 = false ∧
    findCmds (decState c []) (fun _ d => decide (d.op = 0x42) && decide (d.arg0 % 16 = 15) && d.waiting) = [] := by decide +kernel
theorem witness_PictureDecoded : (let c := { aCmd 0x41 with arg0 := 15, arg1 := 9, waiting := true, data := auOf 19 }
    mGet (decState c [(5, 31)]).hev.sessions 15 = some (aSession [(5, 31)]) ∧ mGet (cmdQueue c).cmds 31 = some c ∧
    isAllocated (decState c [(5, 31)]) 9 = true ∧ sliceNal (annexB c.data 0 [] false) = 19) ∧
    sliceNal (annexB (auOf 8) 0 [] false) = 8 ∧ sliceNal (annexB (auOf 1) 0 [] false) = 1 ∧
    [(3 : Int)].eraseDups.filter (fun p => !(aSession []).dpb.any fun z => decide (z.poc = p)) ≠ [] := by decide +kernel

def identifyReq : List Byte := request 0x0001 []
theorem witness_Go : mbxState on (.user 3) 3 = 0 ∧ (3 : Nat) < mbxSlots (.user 3) ∧ bit (0x80000000 : Word) 31 = true ∧
    (mbxCmdOf (leAt (mbxReq (ask on (.vf 62) 31 identifyReq) (.vf 62) 31) 0 2)).any (fun c => c.permits (.vf 62)) = true ∧
    mbxState (setMbxState (ask on (.vf 62) 31 identifyReq) (.vf 62) 31 3) (.vf 62) 31 = 3 := by decide +kernel
/-- A slot that is done is acknowledged and posted again by one write. -/
theorem test_go_ack : (match exec (.go (.vf 62) 31 0xC0000000) (setMbxState (ask on (.vf 62) 31 identifyReq) (.vf 62) 31 3) with
    | .next t => decide (mbxState t (.vf 62) 31 = 1 ∧ t.mbx.posted = [(.vf 62, 31)])
    | _ => false) = true := by decide +kernel
theorem witness_Identify : asks (ask on (.vf 62) 31 identifyReq) (.vf 62) 31 1 identifyReq := by decide +kernel
def quotaReq : List Byte := request 0x0002 [63, 0, 2, 0, 128, 0, 0, 0, 5, 0, 0, 0]
theorem witness_VfQuota : asks (ask on .pf 31 quotaReq) .pf 31 2 quotaReq ∧ leAt quotaReq 0x10 2 = (62 : Fin 63).val + 1 ∧
    queuesOf (queueState (aQueue (.vf 62))) (.vf 62) = 1 := by decide +kernel
def createReq : List Byte := request 0x0003 (zeros 16 ++ [2, 0, 0, 0, 0, 0, 1, 0, 64, 0, 0, 0, 1, 2])
theorem witness_QueueCreate : asks (ask on .pf 0 createReq) .pf 0 3 createReq ∧
    mFreeFrom on.hq.queues 4096 0 = some 0 ∧ lowestTagRun on 64 = some 0 ∧ quotaRoom on .pf 64 = true ∧
    quotaRoom on (.vf 0) 64 = false := by decide +kernel
/-- A virtual function may not ask for class 0; a set bit of FLAGS that is not defined comes before it. -/
theorem witness_FirstBad : let r := request 0x0003 (zeros 16 ++ [2, 0, 0, 0, 2, 0, 0, 0, 64, 0, 0, 0, 1, 0])
    reaches (ask on (.vf 0) 0 r) (.vf 0) 0 3 r ∧ firstBad (.vf 0) 3 r = some 0x2D ∧ (3, Instr.queueCreate (.vf 0) 0) ∈ plainRequests (.vf 0) 0 ∧
    firstBad (.vf 0) 3 ([3, 0, 2] ++ r.drop 3) = some 2 := by decide +kernel
theorem witness_Go_invalid : let s := setMbxState (ask on (.vf 0) 0 (request 0x0002 [])) (.vf 0) 0 0
    mbxState s (.vf 0) 0 = 0 ∧ serviceOn s = true ∧
    (mbxCmdOf (leAt (mbxReq s (.vf 0) 0) 0 2)).any (fun c => c.permits (.vf 0)) = false := by decide +kernel
def deleteReq : List Byte := request 0x0004 [5]
theorem witness_QueueDelete : asks (ask (queueState (aQueue .pf)) .pf 1 deleteReq) .pf 1 4 deleteReq ∧
    queueOf (queueState (aQueue .pf)) 5 = some (aQueue .pf) ∧ (aQueue .pf).cmds = [] ∧ (aQueue .pf).resetting = none ∧
    (cmdQueue (aCmd 1)).cmds ≠ [] := by decide +kernel
def allocReq : List Byte := request 0x0401 [0, 16, 0, 0]
def bigMem : State := { on with regs := [(0x170000, 0x80008000)] }
theorem witness_HandleAlloc : asks (ask bigMem (.user 0) 0 allocReq) (.user 0) 0 0x0401 allocReq ∧
    ((allocHandle bigMem (.user 0) 4096).map (·.1)) = some 1 ∧ (allocHandle on (.user 0) 4096).isNone = true := by decide +kernel
def freeReq (op : Nat) : List Byte := request op [9]
theorem witness_HandleFree : let s := withHandle (aCmd 1)
    asks (ask s .pf 2 (freeReq 0x0402)) .pf 2 0x0402 (freeReq 0x0402) ∧ allocatedTo s .pf 9 = true ∧ allocatedTo s (.user 0) 9 = false ∧
    mRising none s.imp.handles = true := by decide +kernel
theorem witness_HandleQuery : let s := withHandle (aCmd 1)
    asks (ask s .pf 2 (freeReq 0x0403)) .pf 2 0x0403 (freeReq 0x0403) ∧ handleOf s 9 = some aHandle ∧ aHandle.owner = .pf ∧
    handleOf on 9 = none := by decide +kernel

def ptpReq : List Byte := request 0x0201 [3, 127, 128, 0, 0xFC, 0, 0, 10, 0, 0, 0, 0, 0, 0, 0, 0]
theorem witness_PtpConfig : asks (ask on (.user 1) 1 ptpReq) (.user 1) 1 0x0201 ptpReq ∧
    firstBad .pf 0x0201 (request 0x0201 [4]) = some 0x10 := by decide +kernel
def timeReq : List Byte := request 0x0202 [1, 0, 0, 0, 0, 0, 0, 0, 0xFF, 0xC9, 0x9A, 0x3B]
theorem witness_PtpSetTime : asks (ask on .pf 0 timeReq) .pf 0 0x0202 timeReq ∧ leAt timeReq 0x18 4 = 999999999 ∧
    regBit on 0x150010 31 = false ∧ regBit { on with regs := [(0x150010, 0x80000000)] } 0x150010 31 = true ∧
    (on.ref.slots[(7 : Fin 8)]).ptpAxis = false := by decide +kernel
theorem witness_PtpStatus : asks (ask on (.vf 0) 0 (request 0x0203 [])) (.vf 0) 0 0x0203 (request 0x0203 []) := by decide +kernel
def regReq : List Byte := request 0x0302 ([7, 0, 0, 0, 1, 0, 0, 0] ++ zeros 16 ++ [12] ++ zeros 15 ++ [8])
theorem witness_SensorCap : asks (ask on .pf 0 (request 0x0301 [7])) .pf 0 0x0301 (request 0x0301 [7]) ∧
    regField on (capStateReg 7) 31 30 < 2 ∧ 2 ≤ regField { on with regs := [(0x60FC0, 0x80000000)] } (capStateReg 7) 31 30 := by
  decide +kernel
/-- Link 3 carries slot 7 and is up. -/
def upState : State := { stagedState with
  regs := [(0x50300, 0x800061A8), (0x50304, 0xFF), (0x50308, 0x80)],
  lnk := { on.lnk with links := vMod on.lnk.links 3 fun l => { l with st := .up } } }
def regBuf : HostBuf := { sgl := none, data := some (zeros 8 ++ [1, 0, 0, 0]) }
theorem witness_SensorReg : asks (ask upState .pf 0 regReq) .pf 0 0x0302 regReq ∧
    slotLink (ask upState .pf 0 regReq) 7 = some (3, 0) ∧ slotLinkUp (ask upState .pf 0 regReq) 7 = true ∧
    busMaster (ask upState .pf 0 regReq) .pf = true ∧ partySegs (ask upState .pf 0 regReq) .pf (descAt regReq 0x20) regBuf = some ([(0, 12)], true) ∧
    partySegs (ask upState .pf 0 regReq) .pf (descAt regReq 0x30) regBuf = some ([(0, 8)], true) ∧ anyWrite 1 (padTo 12 (zeros 8 ++ [1, 0, 0, 0])) = true ∧
    unmasked upState 7 = false ∧ unmasked { upState with regs := [(0x20000, 0x80)] } 7 = true ∧ allowDisrupt regReq = false ∧
    slotLinkUp { upState with lnk := on.lnk } 7 = false := by decide +kernel
def calReq : List Byte := request 0x0903 ([7, 1, 0, 1] ++ zeros 20 ++ [0, 0x20])
theorem witness_BlackCal : let s := { stagedState with regs := [(0x20000, 0x80), (0x60E00, 0x00101000)] }
    asks (ask s .pf 0 calReq) .pf 0 0x0903 calReq ∧ unmasked s 7 = true ∧ inTake s 7 = false ∧
    partySegs s .pf (descAt calReq 0x20) regBuf = some ([(0, 8192)], true) ∧ regField s (ingReg 7 0) 15 0 = 4096 ∧
    unmasked stagedState 7 = false := by decide +kernel
def laneReq (l : List Byte) : List Byte := request 0x0901 l
theorem witness_LaneTest : let r := laneReq [31, 3, 3, 0, 0x60, 0xEA]
    asks (ask on .pf 0 r) .pf 0 0x0901 r ∧ leAt r 0x14 4 = 60000 ∧ laneAssigned on 31 = none ∧
      testRefused on 31 (packFields [(31, 1), (28, 3), (26, 3)]) 3 = false ∧
      testRefused on 31 (packFields [(31, 1), (28, 4), (26, 3)]) 4 = true := by decide +kernel
theorem witness_LaneTest_link : let r := [0x01, 0x09, 1] ++ (laneReq [7, 2, 0, 0, 1]).drop 3
    asks (ask upState .pf 0 r) .pf 0 0x0901 r ∧ laneAssigned upState 7 = some 3 ∧ allowDisrupt r = true ∧
      testRefused upState 7 (packFields [(31, 1), (28, 2), (26, 0)]) 2 = false := by decide +kernel
def laneRun : RunReq := { party := .pf, slot := 31, op := 0x0901, target := .lane 31, since := 0, onHardware := true, a := 31, b := 1000000 }
theorem witness_LaneTestDuration : ([laneRun].find? fun r => decide (r.target = .lane (31 : Fin 32).val)) = some laneRun ∧
    laneRun.slot < mbxSlots laneRun.party ∧ laneAssigned on 31 = none := by decide +kernel
def memReq (l : List Byte) : List Byte := request 0x0902 l
theorem witness_MemTest : let free := memReq [0, 0, 0, 0, 7, 0, 0, 0, 64]
    let fixed := memReq (zeros 8 ++ [64])
    asks (ask bigMem .pf 0 free) .pf 0 0x0902 free ∧ (rangeTaken bigMem (leAt free 0x10 8) (leAt free 0x18 8)).1 = false ∧
      leAt free 0x10 8 + leAt free 0x18 8 ≤ usableBytes bigMem ∧ usableBytes on < leAt free 0x10 8 + leAt free 0x18 8 ∧
      asks (ask bigMem .pf 0 fixed) .pf 0 0x0902 fixed ∧ (rangeTaken bigMem (leAt fixed 0x10 8) (leAt fixed 0x18 8)).1 = true ∧
      allowDisrupt fixed = false := by decide +kernel

def logReq (page : Byte) : List Byte := request 0x0A01 ([page, 0, 0, 0, 0, 0, 0, 0, 1, 0, 0, 0, 0, 0, 0, 0] ++ zeros 8 ++ [0, 1])
def anErr : ErrRec :=
  { seq := 1, ptpNs := 0, ptpSec := 0, block := 0, code := 1, sev := .info, ctx := ctxNone, status := 0, count := 1, devTime := 0 }
def aLog : LogEnt := { ty := 1, seq := 7, boot := 1, uptime := 0, payload := [] }
def logState : State := { mounted with
  hq := { on.hq with bme := vMod on.hq.bme 0 fun _ => true }, flt := { on.flt with queue := [anErr] }, mgt := { on.mgt with log := [aLog] } }
theorem witness_LogGet : asks (ask logState .pf 31 (logReq 0x01)) .pf 31 0x0A01 (logReq 0x01) ∧
    asks (ask logState .pf 31 (logReq 0x02)) .pf 31 0x0A01 (logReq 0x02) ∧
    asks (ask logState .pf 31 (logReq 0x21)) .pf 31 0x0A01 (logReq 0x21) ∧
    partySegs logState .pf (descAt (logReq 0x21) 0x20) regBuf = some ([(0, 256)], true) ∧ busMaster logState .pf = true ∧
    min (leAt (logReq 1) 0x18 4) logState.flt.queue.length = 1 ∧ (errBytes anErr).length = 32 ∧
    (logState.mgt.log.filter fun e => decide (max (leAt (logReq 2) 0x14 4) (oldestLog logState) ≤ e.seq)) = [aLog] ∧
    boundVf logState .pf = true := by decide +kernel
theorem witness_LogGet_vf : let s := ask logState (.vf 62) 31 (logReq 0x21)
    mbxReq s (.vf 62) 31 = logReq 0x21 ∧ mbxState s (.vf 62) 31 = 1 ∧ serviceOn s = true ∧ runCount s < 16 ∧
    targetHeld s (.vf 62) 31 (mbxTarget 0x0A01 (logReq 0x21)) = false ∧ firstBad (.vf 62) 0x0A01 (logReq 0x21) = none ∧
    boundVf s (.vf 62) = false := by decide +kernel
def auxReq (wr : Byte) : List Byte := request 0x0701 ([1, wr, 0, 0, 0xFF, 0xFF, 0x0F, 0, 16] ++ zeros 7 ++ (if wr = 1 then [9] else []))
def sinkUp (n : Nat) : State := { on with dsp := { on.dsp with ports := vMod on.dsp.ports 1 fun x => { x with hpd := true, st := n } } }
theorem witness_EdpAux : asks (ask (sinkUp 2) .pf 0 (auxReq 0)) .pf 0 0x0701 (auxReq 0) ∧
    asks (ask (sinkUp 0) .pf 0 (auxReq 1)) .pf 0 0x0701 (auxReq 1) ∧ ((sinkUp 2).dsp.ports[(1 : Fin 2)]).hpd = true ∧
    allowDisrupt (auxReq 1) = false ∧ leAt (auxReq 1) 0x14 4 = 0xFFFFF := by decide +kernel
def sdpReq : List Byte := request 0x0801 ([47] ++ zeros 23 ++ [0, 0x40])
theorem witness_SdpGet : let s := { stagedState with net := { on.net with
      snds := vMod on.net.snds 47 fun x => { x with cfg := [(0x142780, 0x80000000)] } } }
    asks (ask s .pf 0 sdpReq) .pf 0 0x0801 sdpReq ∧ bit (rmGet (s.net.snds[(47 : Fin 48)]).cfg (0x141000 + 0x80 * 47)) 31 = true ∧
    bit (rmGet (on.net.snds[(47 : Fin 48)]).cfg (0x141000 + 0x80 * 47)) 31 = false := by decide +kernel
def startReq : List Byte := request 0x0501 [0x81]
def takeRegs : State := { mounted with regs := [(0x20000, 0x81), (0xE0000, 0x80000000), (0xE01C0, 0x80000000)] }
theorem witness_TakeStart : asks (ask takeRegs .pf 31 startReq) .pf 31 0x0501 startReq ∧
    (∀ n ∈ maskSlots 0x81, unmasked takeRegs n.val = true ∧ trbOn takeRegs.regs n.val = true ∧ inTake takeRegs n.val = false) ∧
    thermalLatched takeRegs = false ∧ aVol.sectors ≤ freeSectors takeRegs * 128 ∧
    thermalLatched { takeRegs with regs := [(0x1B0004, 0x80000000)] } = true := by decide +kernel
def takeReq (op : Nat) : List Byte := request op [0xFF, 0xFF, 0xFF, 0xFF]
theorem witness_TakeStop : asks (ask taking .pf 31 (takeReq 0x0502)) .pf 31 0x0502 (takeReq 0x0502) ∧
    ([aTake].find? fun y => decide (y.ident = leAt (takeReq 0x0502) 0x10 4)) = some aTake ∧ taking.mag.stopping = [] ∧
    (taking.gal.items.any fun y => decide (y.take = some 0xFFFFFFFF)) = false ∧ taking.ing.frames.toList.getD 0 [] = [] := by
  decide +kernel
theorem witness_TakeInfo : asks (ask taking .pf 31 (takeReq 0x0503)) .pf 31 0x0503 (takeReq 0x0503) ∧
    leAt (takeReq 0x0503) 0x18 4 = 0 := by decide +kernel
def formatReq : List Byte := [0x04, 0x05, 1] ++ (request 0x0504 []).drop 3
theorem witness_VolumeFormat : asks (ask mounted .pf 31 formatReq) .pf 31 0x0504 formatReq ∧ allowDisrupt formatReq = true ∧
    takeOpen mounted = false ∧ takeOpen taking = true ∧ mounted.mag.power ≤ 1 := by decide +kernel
theorem witness_MagPower : asks (ask mounted .pf 31 (request 0x0505 [3])) .pf 31 0x0505 (request 0x0505 [3]) ∧ takeOpen mounted = false ∧
    takeOpen taking = true ∧ mounted.mag.power = 0 ∧ { mounted.mag with st := .off }.st = .off := by decide +kernel
theorem witness_MagEject : asks (ask mounted .pf 31 (request 0x0506 [])) .pf 31 0x0506 (request 0x0506 []) ∧ isMounted mounted = true := by
  decide +kernel

def aSwitch (ok : Bool) : Standby := { ok := ok, gap := 20000, served := [], jobs := [] }
def inGap : State := { on with flt := { on.flt with gap := some { core := some 3, since := 0 } } }
theorem witness_ControlFault : roleOf on 3 = some 3 ∧ standby on = some 4 ∧ on.flt.controlLost = false ∧ on.flt.gap = none ∧ colRestarts on = false ∧ postedValid on ∧
    inGap.flt.gap = some { core := some (3 : Fin 5).val, since := 0 } ∧ standby inGap = some 4 ∧
    standby { on with flt := { on.flt with selfTest := some 0 } } = none ∧ (aSwitch true).ok = true := by decide +kernel
/-- Both Fjarera slots hold a valid image, A is active. -/
def fwState : State := { stagedState with mgt := { on.mgt with
  slots := (on.mgt.slots.map fun x => { x with valid := true }).set 2
    { image := [], valid := true, active := true, pending := false, starts := 0, healthy := false } } }
def drainReq (op : Nat) : List Byte := request op [0x10, 0x27, 0, 0]
theorem witness_FwActivate : asks (ask fwState .pf 31 (drainReq 0x0B02)) .pf 31 0x0B02 (drainReq 0x0B02) ∧
    leAt (drainReq 0x0B02) 0x10 4 = 10000 ∧ standbySlot fwState = some 1 ∧ fwState.mbx.running = [] ∧
    findCmds fwState (fun _ c => !c.finished) = [] ∧ standby fwState = some 4 ∧ standbySlot on = none := by decide +kernel
theorem witness_Drill : asks (ask on (.user 3) 3 (drainReq 0x0B03)) (.user 3) 3 0x0B03 (drainReq 0x0B03) ∧ on.mbx.running = [] := by
  decide +kernel
theorem witness_Drill_waits : let s := withCmd (aCmd 1)
    asks (ask s .pf 31 (drainReq 0x0B03)) .pf 31 0x0B03 (drainReq 0x0B03) ∧ findCmds s (fun _ c => !c.finished) ≠ [] ∧
    findCmds s (fun _ c => (decide (c.op = 0x20) || decide (c.op = 0x21)) && c.waiting && !c.finished && !c.aborted) = [] := by
  decide +kernel
def aDrain (p : Party) : Drain := { party := p, slot := 31, isDrill := true, since := 0, limitMs := 10000 }
def draining : State := { on with now := 10000000000, mbx := { on.mbx with drain := some (aDrain .pf) } }
theorem witness_DrainTimeout : (aDrain .pf).since + 1000000 * (aDrain .pf).limitMs ≤ draining.now ∧ pldmDrain (aDrain .pf) = false ∧
    (aDrain .pf).slot < mbxSlots .pf ∧ pldmDrain (aDrain .fjarera) = true ∧ drained draining (aDrain .pf) = true ∧
    draining.flt.gap = none ∧ faultGap draining = false := by decide +kernel
def fwReq : List Byte := request 0x0B01 (zeros 24 ++ [0, 2])
theorem witness_FwDownload : asks (ask fwState .pf 0 fwReq) .pf 0 0x0B01 fwReq ∧
    busMaster (ask fwState .pf 0 fwReq) .pf = true ∧ partySegs (ask fwState .pf 0 fwReq) .pf (descAt fwReq 0x20) regBuf = some ([(0, 512)], true) ∧
    transferOpen fwState = false := by decide +kernel
def thmState1 : State := { on with regs := [(0x1B0004, 0x90000800)] }
theorem witness_ThmAck : asks (ask thmState1 .pf 0 (request 0x0B04 [])) .pf 0 0x0B04 (request 0x0B04 []) ∧
    regBit thmState1 (thmReg 4) 31 = true ∧ regBit on (thmReg 4) 31 = false := by decide +kernel
theorem witness_ActivateFirmware : colServes fwState = true ∧ mctpPath fwState false = true ∧
    (slotAt fwState 1 (1 - activeSlot fwState 1)).valid = true ∧ (slotAt on 1 (1 - activeSlot on 1)).valid = false ∧
    standbySlot fwState = some 1 ∧ serviceOn fwState = false ∧
    serviceOn { fwState with sys := { fwState.sys with ready := true } } = true := by decide +kernel
theorem witness_FltRest : { on.flt with selfTest := some 4 }.selfTest = some (4 : Fin 5).val ∧ on.flt.overdueRaised = false ∧
    on.flt.lastSwitch + 86400000000000 < { on with now := 86400000000001 }.now ∧
    { on.flt with ckpt := some 7 }.ckpt = some 7 ∧
    checkpointTime { on with now := 10000000, sys := { on.sys with ready := true } } = true := by decide +kernel

def coreState (c : UserCore) (l : SMap Word) : State :=
  { on with regs := l, per := { on.per with cores := on.per.cores.set 3 c } }
def idleCore : UserCore := { tcm := [], loading := none, entry := none, timer := false }
theorem witness_Load : mayWrite .pf (userReg 3 0) = true ∧ bit (2 : Word) 1 = true ∧ (on.per.cores[(3 : Fin 4)]).loading = none ∧
    userRuns (coreState idleCore [(0x1D0304, 0x80000000)]) 3 = true ∧ userRuns on 3 = false ∧ bit (1 : Word) 1 = false := by
  decide +kernel
theorem witness_LoadComplete : ((coreState { idleCore with loading := some 7 } []).per.cores[(3 : Fin 4)]).loading = some 7 ∧
    handleOf (coreState { idleCore with loading := some 7 } []) 7 = none := by decide +kernel
theorem witness_CoreRelease : ((coreState { idleCore with entry := some 0 } []).per.cores[(3 : Fin 4)]).entry.isSome = true ∧
    ((coreState idleCore []).per.cores[(3 : Fin 4)]).entry = none ∧ mayWrite .pf (userReg 3 0) = true := by decide +kernel
theorem witness_HwinMap : mayWrite (.user 3) (userReg 3 (0x40 + 4 * 15)) = true ∧ mayWrite (.user 3) (userReg 2 0x40) = false ∧
    allocatedTo { on with imp := { on.imp with handles := [(65535, { aHandle with owner := .user 3 })] } } (.user 3) 65535 = true ∧
    allocatedTo on (.user 3) 65535 = false := by decide +kernel
theorem witness_AccessFault : let s := coreState idleCore [(0x1D0304, 0x80000000)]
    faults s 3 1 0x7FFFC = true ∧ faults s 3 5 0x6FFFFFFFF = true ∧ faults s 3 7 0 = false ∧ userRuns s 3 = true := by decide +kernel
theorem witness_MachineTimer : let s := { coreState idleCore [(0x1D0320, 5), (0x1D0324, 1)] with now := 4294967301 }
    (regGet s (userReg 3 0x20)).toNat + (regGet s (userReg 3 0x24)).toNat * 2 ^ 32 ≤ devTime s := by decide +kernel
/-- Source 49 is enabled, for the host and for core 3 with priority 2. -/
def srcState (pending : Word) : State := { on with regs := [(0x1900C4, 0x80010802), (0x191004, pending)] }
theorem witness_SourceEdge : regBit (srcState 0) (srcCfgReg 49) 31 = true ∧
    regBit (srcState 0) (srcCfgReg 49) 16 = true ∧ vecMasked (srcState 0) 0 0 = true ∧
    vecMasked { srcState 0 with msix := [(12, 0)] } 0 0 = false ∧ regBit (srcState 0x20000) (pendingReg 49) (49 % 32) = true ∧
    regBit on (srcCfgReg 1023) 31 = false := by decide +kernel
theorem witness_Swset : mayWrite .fjarera 0x191180 = true ∧ bit (0x8000 : Word) 15 = true ∧
    regBit { on with regs := [(0x19043C, 0x80000000)] } (srcCfgReg (256 + 15)) 31 = true := by decide +kernel
theorem witness_Claim : claimed (srcState 0x20000) 3 = some 49 ∧ claimed on 3 = none := by decide +kernel
theorem witness_Eoi : ({ on.irq with stack := on.irq.stack.set 3 [(16, 1023)] }.stack[(3 : Fin 4)]) = [(16, field (0x3FF : Word) 9 0)] ∧
    on.irq.stack[(3 : Fin 4)] = [] := by decide +kernel
theorem witness_ThreshWrite : mayWrite .pf (fltReg 0x10) = true ∧ logState.flt.queue.length = 1 ∧
    recThresh { logState with regs := [(0x1A0010, 2)] } = 2 ∧ recThresh { logState with regs := [(0x1A0010, 0)] } = 1 := by decide +kernel

def fullUart : Uart := { tx := zeros 64, rx := zeros 64 }
def perState : State := { on with
  regs := [(0x1D11C0, 0x80000000), (0x1D11D0, 1), (0x1D2140, 0x80000000), (0x1D3300, 0x80000000)],
  per := { on.per with
    uarts := on.per.uarts.set 7 { tx := [7], rx := [] }, spis := on.per.spis.set 5 { tx := [1], rx := [2], xfer := some 0x80000100 },
    i3cs := on.per.i3cs.set 3 { tx := [1], rx := [2], ibi := [(127, [3])], cmd := some 0xB000E004 } } }
theorem witness_Uart : mayWrite .fjarera (uartReg 7 4) = true ∧ mayRead (.user 0) = true ∧ regBit perState (uartReg 7 0) 31 = true ∧
    (perState.per.uarts[(7 : Fin 8)]).tx = [7] ∧ regField perState (uartReg 7 0x10) 6 0 ≤ (perState.per.uarts[(7 : Fin 8)]).rx.length + 1 ∧
    fullUart.tx.length = 64 ∧ fullUart.rx.length = 64 := by decide +kernel
theorem witness_Spi : mayWrite (.user 3) (spiReg 5 8) = true ∧ mayWrite .pf (spiReg 5 4) = true ∧ regBit perState (spiReg 5 0) 31 = true ∧
    (perState.per.spis[(5 : Fin 6)]).xfer = some 0x80000100 ∧ (perState.per.spis[(5 : Fin 6)]).tx.length < field (0x80000100 : Word) 8 0 ∧
    (on.per.spis[(5 : Fin 6)]).xfer = none ∧ (zeros 256).length = 256 := by decide +kernel
theorem witness_I3c : mayWrite .pf (i3cReg 3 8) = true ∧ mayWrite .pf (i3cReg 3 4) = true ∧ regBit perState (i3cReg 3 0) 31 = true ∧
    (perState.per.i3cs[(3 : Fin 4)]).cmd = some 0xB000E004 ∧
    (bit (0xB000E004 : Word) 28 && decide (field (0xB000E004 : Word) 20 13 = ccEntdaa)) = true ∧
    (perState.per.i3cs[(3 : Fin 4)]).ibi = [(127, [3])] ∧ (on.per.i3cs[(3 : Fin 4)]).ibi = [] ∧ (on.per.i3cs[(3 : Fin 4)]).cmd = none := by
  decide +kernel
def pinState : State := { on with regs := [(0x1D400C, 0x80000000), (0x1D41FC, 1), (0x1903FC, 0x80000000)] }
theorem witness_Gpio : mayWrite .pf (0x1D4018 + 4) = true ∧ mayWrite .pf 0x1D4020 = true ∧ bit (regGet pinState (gpioOe true)) 31 = true ∧
    bit (regGet pinState (gpioOut true) ||| 0x80000000) 31 ≠ bit (regGet pinState (gpioOut true)) 31 ∧
    regGet pinState (gpioOe false) = 0 ∧ regBit pinState (0x1D4100 + 4 * 63) 0 = true ∧ regBit pinState (srcCfgReg (192 + 63)) 31 = true ∧
    regBit pinState (0x1D4100 + 4 * 63) 1 = false ∧ 4 * regField pinState (0x1D4100 + 4 * 63) 31 16 ≤ 0 ∧
    regBit pinState 0x1D4014 (63 % 32) = false ∧
    0 < 4 * regField { pinState with regs := [(0x1D41FC, 0x00010000)] } (0x1D4100 + 4 * 63) 31 16 := by decide +kernel

theorem witness_Training : memRun on = false ∧ on.flt.fatal = false ∧ regField on 0x10 2 0 ≠ 4 := by decide +kernel
def memState (m : MemBlk) : State := { on with now := 40000000000, regs := [(0x170000, 0x80008000)], mem := m }
theorem witness_RetrainingStep : liveWindows 40000000000 [(39999999000, 2000, 1)] = [(39999999000, 2000, 1)] ∧
    (memState { on.mem with next := 23 }).mem.busyUntil ≤ 40000000000 := by decide +kernel
theorem witness_MemRetrain : memRun (memState on.mem) = true ∧
    ((memState on.mem).mem.chans[(23 : Fin 24)]).lastStep + retrainNs (memState on.mem) ≤ (memState on.mem).now := by decide +kernel
theorem witness_Refresh : refreshWindow (memState on.mem).thm.band ≤ (memState on.mem).now - ((memState on.mem).mem.chans[(0 : Fin 24)]).winAt ∧
    memRun (memState on.mem) = true := by decide +kernel
theorem witness_Activate : tableHit (on.mem.chans[(23 : Fin 24)]).table 15 7 = ([(15, 7, 1)], 1) ∧ 1 < rhThresh on ∧
    memRun (memState on.mem) = true ∧ 7 < bankRows (memState on.mem) ∧
    0 - (on.mem.chans[(23 : Fin 24)]).winAt < refreshWindow on.thm.band ∧
    tableHit [(15, 7, 255)] 15 7 = ([(15, 7, 256)], 256) ∧ rhThresh { on with regs := [(0x170034, 0x01000008)] } ≤ 256 := by decide +kernel
def nobody : MemWait := { realTime := false, isochronous := false, bulk := false, older := 0 }
theorem witness_MemWait : let s := memState on.mem
    s.mem.chans.toList[chanOf s 34359738304]? = some MemChan.reset ∧ MemChan.reset.stepEnd ≤ s.now ∧ MemChan.reset.drift = false ∧
    MemChan.reset.hammer = [] ∧ granted s MemChan.reset (memClass .scrub) nobody = true ∧
    inTurn MemChan.reset (bankNo s 34359738304) (memRow 34359738304) nobody = true ∧
    granted s MemChan.reset (memClass .scrub) { nobody with realTime := true } = false ∧ neighbours s 32767 = [32766, 32765] := by decide +kernel
theorem witness_MemWait_owed (b : Fin 16) : owedNow on MemChan.reset b < 8 := by
  simp [owedNow, on, MemChan.reset, State.reset]
theorem witness_MemRead : 34359738304 < usable (memState on.mem) ∧ chanOf (memState on.mem) 34359738304 < 24 ∧
    isPoison (memState on.mem) 34359738304 = false ∧
    isPoison (memState { on.mem with poison := [536870911] }) 34359738304 = true := by decide +kernel

def hotSensor : Sensor := { hist := List.replicate 101 (some 2001), excluded := false, fast := 1 }
def hotState : State := { on with now := 10000000000, thm := { on.thm with
  sensors := (on.thm.sensors.map fun _ => { hotSensor with hist := [none] }).set 27 hotSensor, lastMax := some 2001 } }
theorem witness_TempConversion : hotState.sys.aon = true ∧ aonDue hotState hotState.thm.convAt 1000000 = true ∧ hotState.thm.shutAt = none ∧
    hotState.sys.pwrEn = true ∧ badReading (some 2401) = true ∧ (hotState.thm.sensors[(0 : Fin 28)]).hist = [none] ∧
    hottest hotState = some (27, 2001) := by decide +kernel
/-- 28 failed conversions exclude the sensors whose last one failed too, and that is a shutdown condition. -/
theorem test_sensors_fail : (match exec (.tempConversion (Vector.replicate 28 none)) hotState with
    | .next t => decide (t.thm.shutAt = some 10000000000 ∧ regBit t (thmReg 4) 31 = true)
    | _ => false) = true := by decide +kernel
theorem witness_RateEvaluation : let x : Sensor := { hotSensor with hist := some 33 :: List.replicate 100 (some 0) }
    aonDue hotState hotState.thm.rateAt 10000000 = true ∧ rateOfSensor x = some 330 ∧ x.fast + 1 = 2 := by decide +kernel
def aMonitor : Monitor := { outRun := 1, warned := false, okSince := none }
theorem witness_SupplySample : let s := { on with now := 1000000, regs := [(0x1B0334, 0x00640032)] }
    aonDue s s.thm.sampleAt[(13 : Fin 14)] 1000000 = true ∧ field (regGet s (thmReg (0x300 + 4 * 13))) 31 16 < (101 : BitVec 16).toNat ∧
    field (regGet s (thmReg (0x300 + 4 * 13))) 15 0 ≤ (50 : BitVec 16).toNat ∧ 1 ≤ aMonitor.outRun := by decide +kernel
def cooling : State := { on with
  now := 10000000000, sys := { on.sys with pwrEn := false }, live := false, thm := { on.thm with hot := true, coolSince := some 0 } }
theorem witness_Cooldown : colServes cooling = true ∧ aonDue cooling 0 10000000000 = true ∧ cooling.sys.gaveUp = false ∧
    aonDue { on with now := 2000000, thm := { on.thm with shutAt := some 0 } } 0 2000000 = true := by decide +kernel

def anEntry3 : LogEnt := { ty := 3, seq := 9, boot := 2, uptime := 0, payload := zeros 44 }
theorem witness_AonReset : newestOf (logFound [anEntry3.bytes]) [0x03, 0x05] = some anEntry3 ∧
    (logFound [anEntry3.bytes]).length < 8192 := by decide +kernel
def starting (l pg : Bool) : State := { State.reset with
  now := 60000000, live := l, sys := { State.reset.sys with aon := true, pwrEn := true, pg := pg } }
theorem witness_CorePower : (starting false false).sys.pg = false ∧ (starting false true).sys.pgAt + 2000000 ≤ (starting false true).now ∧
    colServes (starting false false) = true ∧ aonDue (starting false false) (starting false false).sys.enAt 60000000 = true ∧
    hottest hotState = some (27, 2001) := by decide +kernel
theorem witness_CoreRestart : let s := { cooling with sys := { cooling.sys with downAt := some 0 }, thm := on.thm }
    colServes s = true ∧ aonDue s 0 100000000 = true ∧ s.sys.gaveUp = false ∧ s.thm.hot = false := by decide +kernel
theorem witness_Readiness : let s := { on with regs := [(0x10, 2)], sys := { on.sys with trained := true } }
    s.sys.ready = false ∧ regField s 0x10 2 0 = 2 ∧ (slotAt s 2 (1 - activeSlot s 2)).pending = false := by decide +kernel
theorem witness_DeviceReset : field (0x5EC70001 : Word) 31 16 = 0x5EC7 ∧ bit (0x5EC70001 : Word) 0 = true ∧
    ¬ (field (0x5EC70000 : Word) 31 16 = 0x5EC7 ∧ bit (0x5EC70000 : Word) 0 = true) := by decide +kernel
theorem witness_ClockMonitorWindow : let s := { on with
      now := 1000000, sys := { on.sys with clocks := (on.sys.clocks.set 4 { bad := 1, good := 0, lost := false }).set 0 {
        bad := 0, good := 9, lost := true } } }
    s.sys.clkAt + 1000000 ≤ s.now ∧ 1 ≤ (s.sys.clocks[(4 : Fin 5)]).bad ∧ (s.sys.clocks[(0 : Fin 5)]).lost = true ∧
    9 ≤ (s.sys.clocks[(0 : Fin 5)]).good := by decide +kernel

theorem witness_LogSecond : colServes { on with now := 1000000000 } = true ∧
    aonDue { on with now := 1000000000 } { on with now := 1000000000 }.mgt.secondAt 1000000000 = true ∧
    (List.replicate 17 ({ err := anErr, merged := false } : RecCopy)).length = 17 := by decide +kernel
/-- The I3C port has its address, and a register to read. -/
def sideState (blk off : Nat) : State := { on with mgt := { on.mgt with
  i3cAddr := some 8, wins := vMod on.mgt.wins 2 fun x => { x with readAt := some (blk, off) } } }
theorem witness_SideBand : colServes (sideState 0x1B 0x104) = true ∧ (sideState 0x1B 0x104).mgt.i3cAddr.isSome = true ∧
    winOf (sideParty true) = 2 ∧ ((sideState 0x1B 0x104).mgt.wins[(2 : Fin 3)]).readAt = some (0x1B, 0x104) ∧
    thmReadClears 0x104 = true ∧ thmReadClears 0x100 = false ∧ (0x334 : BitVec 16).toNat % 4 = 0 ∧ isFs (thmReg 0x10) = true := by decide +kernel
theorem witness_Mctp : mctpPath on false = true ∧ mctpPath { on with sys := { on.sys with pcieUp := true } } true = true ∧
    (0xFE : Byte) ≠ 0 ∧ (0xFE : Byte) ≠ 0xFF ∧ (2 : Byte) ≠ 0 ∧ (2 : Byte) ≠ 1 ∧ (2 : Byte) ≠ 0xFF := by decide +kernel
theorem witness_PldmUpdate : (∀ k : Fin 3, (on.mgt.wins[k]).op ≠ 2) ∧
    (vMod on.mgt.wins 0 fun x => { x with op := 2 })[(0 : Fin 3)].op = 2 := by decide +kernel
theorem witness_DataWindow : bit (0x81000000 : Word) 31 = true ∧ field (0x81000000 : Word) 27 24 = 1 ∧
    field (0x84000000 : Word) 27 24 = 4 ∧ (on.mgt.wins[(0 : Fin 3)]).state ≠ 1 ∧ on.mgt.pldm = none ∧
    (logState.mgt.log.find? fun e => decide (e.seq = 7 + 15 / 16)) = some aLog := by decide +kernel
theorem witness_HealthTimeout : let s := { on with now := 5000000000, mgt := { on.mgt with health := on.mgt.health.set 1 (some 0) } }
    s.mgt.health.toList.getD (2 - 1) none = some 0 ∧ s.mgt.booted.toList.getD (2 - 1) 0 = 0 ∧ aonDue s 0 5000000000 = true ∧
    (slotAt s 2 0).starts < 3 ∧ (slotAt s 2 0).healthy = false := by decide +kernel

end Sys2Proof.Tests
end

section
/-! Proofs of the statements about the queue, register writes and wide quantities (R6 to R9). -/

namespace Sys2Proof.Machine
open Sys2Proof

/-! ### The cycle of a command -/

/-- Every command, of whichever domain, ends its cycle: each arm of `exec` is `inCore`, `inAon`, `inCol` or `startAon` on the command's own
effect, and each of these answers with the end of a cycle. -/
theorem exec_eq_next_endCycle (c : Instr) (s : State) : ∃ u, exec c s = .next (endCycle s u) := by
  cases c <;> exact ⟨_, rfl⟩

/-- A command of the powered core acts while the core runs. -/
theorem inCore_of_live {s : State} (h : s.live = true) (f : State → State) : inCore s f = .next (endCycle s (f s)) := by
  simp [inCore, h]

/-! ### Parts that an operation leaves as they are -/

theorem Part.same.trans {p : Part} {s t u : State} (h : p.same s t) (h' : p.same t u) : p.same s u := by
  cases p <;> exact Eq.trans h' h

theorem same_regSet {p : Part} (h : p ≠ .regs) (s : State) (off : Nat) (v : Word) : p.same s (regSet s off v) := by
  cases p
  case regs => exact absurd rfl h
  all_goals rfl

theorem same_count {p : Part} (h : p ≠ .regs) (s : State) (off : Nat) : p.same s (count s off) := same_regSet h s off _

theorem same_emit {p : Part} (h : p ≠ .out) (s : State) (o : Out) : p.same s (emit s o) := by
  cases p
  case out => exact absurd rfl h
  all_goals rfl

theorem same_capture {p : Part} (h : p ≠ .captures) (h' : p ≠ .out) (s : State) (q : Party) (off : Nat) (ws : List Word) :
    p.same s (capture s q off ws) := by
  cases p
  case captures => exact absurd rfl h
  case out => exact absurd rfl h'
  all_goals rfl

theorem same_modCore {p : Part} (h : p ≠ .per) (s : State) (u : Nat) (f : UserCore → UserCore) : p.same s (modCore s u f) := by
  cases p
  case per => exact absurd rfl h
  all_goals rfl

theorem onlyChanges_regSet (s : State) (off : Nat) (v : Word) : onlyChanges [.regs] s (endCycle s (regSet s off v)) :=
  onlyChanges_endCycle fun p hp _ _ => same_regSet (by simpa using hp) s off v

theorem onlyChanges_emit (s : State) (o : Out) : onlyChanges [.out] s (endCycle s (emit s o)) :=
  onlyChanges_endCycle fun p hp _ _ => same_emit (by simpa using hp) s o

/-- A register set, and a value put out. -/
theorem onlyChanges_emit_regSet (s : State) (off : Nat) (v : Word) (o : Out) :
    onlyChanges [.regs, .out] s (endCycle s (emit (regSet s off v) o)) :=
  onlyChanges_endCycle fun p hp _ _ => by
    obtain ⟨hr, ho⟩ : p ≠ .regs ∧ p ≠ .out := by simpa using hp
    exact (same_regSet hr s off v).trans (same_emit ho _ o)

/-! ### The register map -/

theorem mem_rowsAt_of_rowOf {off : Nat} {r : Row} (h : rowOf off = some r) : r ∈ rowsAt off := List.mem_of_find?_eq_some h

theorem holds_of_rowOf {off : Nat} {r : Row} (h : rowOf off = some r) : r.holds off = true :=
  List.find?_some (p := fun x : Row => x.holds off) h

/-- The rows that can hold an offset are those of its block. -/
theorem rowsAt_of_block {off b : Nat} (h : off / 65536 = b) (hb : b < 0x8000) : rowsAt off = rowsAt (65536 * b) := by
  unfold rowsAt
  rw [if_neg (by omega), if_neg (by omega), h, Nat.mul_div_cancel_left b (by decide)]

/-- A row without indices holds its base alone. -/
theorem eq_base_of_holds {r : Row} {off : Nat} (h : r.holds off = true) (h1 : r.s1 = 0) (h2 : r.s2 = 0) (h3 : r.s3 = 0) :
    off = r.base := by
  unfold Row.holds at h
  split at h
  · cases h
  · simp [h1, h2, h3] at h
    omega

theorem isFs_iff (off : Nat) : isFs off = true ↔ (rowOf off).map (·.acc) = some .fs := by
  unfold isFs
  cases rowOf off <;> simp

/-- A register that is forme-staged or W1C lies in no mailbox slot: those rows have neither code. -/
theorem slotOwner_eq_none {off : Nat} {a : Acc} (h : (rowOf off).map (·.acc) = some a) (ha : a = .fs ∨ a = .w1c) :
    slotOwner off = none := by
  obtain ⟨r, hr, rfl⟩ := Option.map_eq_some_iff.mp h
  have hblk : off / 65536 ≠ 1 := fun hb => by
    have hm := mem_rowsAt_of_rowOf hr
    rw [rowsAt_of_block hb (by decide)] at hm
    have hrows : ∀ r ∈ rowsAt (65536 * 1), ¬ (r.acc = .fs ∨ r.acc = .w1c) := by decide
    exact hrows r hm ha
  unfold slotOwner
  rw [if_neg (by omega), if_neg (by omega)]

/-- Nor in a staging window: the FRM registers of either code stand alone below the windows. -/
theorem windowAt_eq_none {off : Nat} {a : Acc} (h : (rowOf off).map (·.acc) = some a) (ha : a = .fs ∨ a = .w1c) :
    windowAt off = none := by
  obtain ⟨r, hr, rfl⟩ := Option.map_eq_some_iff.mp h
  unfold windowAt
  refine if_neg fun hw => ?_
  have hm := mem_rowsAt_of_rowOf hr
  rw [rowsAt_of_block (b := 2) (by omega) (by decide)] at hm
  have hrows : ∀ r ∈ rowsAt (65536 * 2), r.acc = .fs ∨ r.acc = .w1c → r.s1 = 0 ∧ r.s2 = 0 ∧ r.s3 = 0 ∧ r.base < 0x20100 := by decide
  obtain ⟨h1, h2, h3, hb⟩ := hrows r hm ha
  have := eq_base_of_holds (holds_of_rowOf hr) h1 h2 h3
  omega

/-- No register of SYS, MBX, HQ, IRQ, MGT or PER is forme-staged. -/
theorem block_of_isFs {off : Nat} (h : isFs off = true) : off / 65536 ∉ [0, 1, 0x18, 0x19, 0x1C, 0x1D] := by
  intro hb
  obtain ⟨r, hr, ha⟩ := Option.map_eq_some_iff.mp ((isFs_iff off).mp h)
  have hblk : ∀ b ∈ [0, 1, 0x18, 0x19, 0x1C, 0x1D], b < 0x8000 ∧ ∀ r ∈ rowsAt (65536 * b), r.acc ≠ .fs := by decide
  obtain ⟨hlt, hrows⟩ := hblk _ hb
  have hm := mem_rowsAt_of_rowOf hr
  rw [rowsAt_of_block rfl hlt] at hm
  exact hrows r hm ha

/-! ### Parties that reach the PF's map -/

theorem mayRead_iff (p : Party) : mayRead p = true ↔ p = .pf ∨ p = .fjarera ∨ ∃ u, p = .user u := by
  cases p <;> simp [mayRead]

theorem readReg_of_mayRead {p : Party} (hp : mayRead p = true) (s : State) (off m : Nat) : readReg s p off m = readMap s p off m := by
  cases p with
  | pf | fjarera | user => rfl
  | vf | smbus | i3c => cases hp

theorem writeReg_of_mayRead {p : Party} (hp : mayRead p = true) (s : State) (off : Nat) (v hw : Word) :
    writeReg s p off v hw = writeMap s p off v hw := by
  cases p with
  | pf | fjarera | user => rfl
  | vf | smbus | i3c => cases hp

/-- No rule of reach keeps a party of the PF's map from writing a forme-staged register (R397). -/
theorem mayWrite_of_isFs {p : Party} {off : Nat} (hp : mayRead p = true) (h : isFs off = true) : mayWrite p off = true := by
  have hb := block_of_isFs h
  have hw := windowAt_eq_none ((isFs_iff off).mp h) (.inl rfl)
  simp only [windowAt, ite_eq_right_iff, reduceCtorEq, imp_false, List.mem_cons, List.not_mem_nil, or_false, not_or] at hw hb
  cases p with
  | pf => rfl
  | fjarera => simp [mayWrite, pfOnly]; omega
  | user u => simp [mayWrite, userRefused]; omega
  | vf | smbus | i3c => cases hp

/-! ### Writes -/

/-- A write that no rule of reach refuses has the effect of the register's access code. -/
theorem writeMap_eq_writeCode {p : Party} {off : Nat} (ho : slotOwner off = none) (hw : windowAt off = none)
    (hp : mayWrite p off = true) (s : State) (v hw' : Word) : writeMap s p off v hw' = writeCode s p off v hw' := by
  simp [writeMap, foreignSlot, foreignWindow, ho, hw, writeBy, hp]

theorem writeCode_fs {off : Nat} (h : (rowOf off).map (·.acc) = some .fs) (s : State) (p : Party) (v hw : Word) :
    writeCode s p off v hw = count s 0x20014 := by
  simp [writeCode, h]

theorem writeCode_w1c {off : Nat} (h : (rowOf off).map (·.acc) = some .w1c) (s : State) (p : Party) (v hw : Word) :
    writeCode s p off v hw = regSet s off ((regGet s off &&& ~~~v) ||| hw) := by
  simp [writeCode, h]

theorem writeCode_rw {off : Nat} (h : (rowOf off).map (·.acc) = some .rw) (s : State) (p : Party) (v hw : Word) :
    writeCode s p off v hw = writeHeld s p off v := by
  simp [writeCode, h]

/-- Counting in a register of 32 implemented bits gives the saturating increment. -/
theorem regGet_count_self {off : Nat} (h : maskOf off = BitVec.allOnes 32) (s : State) :
    regGet (count s off) off = satInc (regGet s off) := by
  rw [regGet_count, if_pos rfl, h, BitVec.and_allOnes]

/-- RW registers that do no more than hold what is written (Table SYS-4). -/
def plainRw : List Nat :=
  [0x52008, 0xC1008, 0xF0000, 0xF0024, 0x150014, 0x150018, 0x15001C, 0x150020, 0x150024, 0x150028, 0x170030, 0x170034, 0x170038, 0x180008,
    0x181000, 0x1A0028]

/-- They are RW registers outside the mailbox slots and the staging windows. -/
theorem plainRw_row : ∀ off ∈ plainRw, (rowOf off).map (·.acc) = some .rw ∧ slotOwner off = none ∧ windowAt off = none := by decide

/-- None of the registers whose write does more is among them. -/
theorem writeHeld_plainRw (s : State) (p : Party) (v : Word) : ∀ off ∈ plainRw, writeHeld s p off v = regSet s off v := by
  intro off h
  fin_cases h <;> rfl

theorem writeReg_plainRw {off : Nat} (h : off ∈ plainRw) (s : State) (v : Word) : writeReg s .pf off v 0 = regSet s off v := by
  obtain ⟨hacc, ho, hw⟩ := plainRw_row off h
  rw [writeReg_of_mayRead rfl, writeMap_eq_writeCode ho hw rfl, writeCode_rw hacc, writeHeld_plainRw s .pf v off h]

theorem writeReg_fs {p : Party} {off : Nat} (hp : mayRead p = true) (h : isFs off = true) (s : State) (v : Word) :
    writeReg s p off v 0 = count s 0x20014 := by
  have hacc := (isFs_iff off).mp h
  rw [writeReg_of_mayRead hp, writeMap_eq_writeCode (slotOwner_eq_none hacc (.inl rfl)) (windowAt_eq_none hacc (.inl rfl))
    (mayWrite_of_isFs hp h), writeCode_fs hacc]

theorem writeReg_w1c {off : Nat} (h : (rowOf off).map (·.acc) = some .w1c) (s : State) (v hw : Word) :
    writeReg s .pf off v hw = regSet s off ((regGet s off &&& ~~~v) ||| hw) := by
  rw [writeReg_of_mayRead rfl, writeMap_eq_writeCode (slotOwner_eq_none h (.inr rfl)) (windowAt_eq_none h (.inr rfl)) rfl,
    writeCode_w1c h]

/-- What a command that sets one register does over its whole cycle. -/
theorem endCycle_regSet_spec (s : State) (off : Nat) (v : Word) :
    regGet (endCycle s (regSet s off v)) off = v &&& maskOf off ∧
      (∀ j, j ≠ off → regGet (endCycle s (regSet s off v)) j = regGet s j) ∧
      onlyChanges [.regs] s (endCycle s (regSet s off v)) :=
  ⟨by simp, fun j hj => by simp [regGet_regSet_ne _ _ _ _ hj], onlyChanges_regSet s off v⟩

/-! ### The commands that write registers, while the core runs -/

theorem exec_registerWrite_bar0 (s : State) (p : Party) (off : Nat) (v : Word) :
    exec (.registerWrite p .bar0 off v) s = inCore s fun s => writeReg s p off v 0 := rfl

theorem exec_strayWrite (s : State) (p : Party) (off : Nat) (v : Word) :
    exec (.strayWrite p off v) s = inCore s fun s => if isFs off then writeReg s p off v 0 else s := rfl

theorem exec_w1cWrite (s : State) (p : Party) (off : Nat) (v hw : Word) : exec (.w1cWrite p off v hw) s = inCore s fun s =>
    if (rowOf (regKey p off)).any (fun r => decide (r.acc = .w1c)) then writeReg s p off v hw else s := rfl

theorem exec_unalignedAccess (s : State) (p : Party) (off bytes : Nat) (rd : Bool) :
    exec (.unalignedAccess p off bytes rd) s = inCore s fun s =>
      if off % 4 = 0 ∧ bytes = 4 then s else if rd then emit (badAccess s) (.readData p off 0) else badAccess s := rfl

theorem registerWrite_plainRw {s : State} {off : Nat} {v : Word} (hl : s.live = true) (h : off ∈ plainRw) :
    exec (.registerWrite .pf .bar0 off v) s = .next (endCycle s (regSet s off v)) := by
  rw [exec_registerWrite_bar0, inCore_of_live hl, writeReg_plainRw h]

theorem strayWrite_of_isFs {s : State} {p : Party} {off : Nat} {v : Word} (hl : s.live = true) (hp : mayRead p = true)
    (h : isFs off = true) : exec (.strayWrite p off v) s = .next (endCycle s (count s 0x20014)) := by
  rw [exec_strayWrite, inCore_of_live hl, if_pos h, writeReg_fs hp h]

theorem w1cWrite_of_row {s : State} {off : Nat} {v hw : Word} (hl : s.live = true) (h : (rowOf off).map (·.acc) = some .w1c) :
    exec (.w1cWrite .pf off v hw) s = .next (endCycle s (regSet s off ((regGet s off &&& ~~~v) ||| hw))) := by
  have hany : (rowOf (regKey .pf off)).any (fun r => decide (r.acc = .w1c)) = true := by
    obtain ⟨r, hr, ha⟩ := Option.map_eq_some_iff.mp h
    simp [regKey, hr, ha]
  rw [exec_w1cWrite, inCore_of_live hl, if_pos hany, writeReg_w1c h]

theorem unalignedAccess_of_not_aligned {s : State} {p : Party} {off bytes : Nat} {rd : Bool} (hl : s.live = true)
    (h : ¬ (off % 4 = 0 ∧ bytes = 4)) : exec (.unalignedAccess p off bytes rd) s =
      .next (endCycle s (if rd then emit (badAccess s) (.readData p off 0) else badAccess s)) := by
  rw [exec_unalignedAccess, inCore_of_live hl, if_neg h]

/-! ### Wide quantities: captures and staged words (R8) -/

@[simp] theorem captured_endCycle (s t : State) (p : Party) (base off : Nat) :
    captured (endCycle s t) p base off = captured t p base off := by simp [captured]

/-- A word of what a party has just captured. -/
theorem captured_capture_self (s : State) (p : Party) (base off : Nat) (ws : List Word) :
    captured (capture s p base ws) p base off = ws[(off - base) / 4]?.getD 0 := by
  simp [captured, capture, emit, mGet_mPut]

/-- A capture leaves those of other quantities and of other parties. -/
theorem captured_capture_ne {p q : Party} {base base' : Nat} (h : wideKey q base' ≠ wideKey p base) (s : State) (off : Nat)
    (ws : List Word) : captured (capture s p base ws) q base' off = captured s q base' off := by
  simp [captured, capture, emit, mGet_mPut, h]

@[simp] theorem regGet_modCore (s : State) (u : Nat) (f : UserCore → UserCore) (j : Nat) : regGet (modCore s u f) j = regGet s j := rfl

theorem vMod_getElem_self {α : Type} {n : Nat} (v : Vector α n) (i : Fin n) (f : α → α) : (vMod v i.val f)[i] = f v[i] := by
  simp [vMod]

/-! ### Reads of the PF's map -/

/-- A read of a word of a wide quantity that no rule of reach refuses and that takes no entry (R8). -/
theorem readMap_of_wideOf {s : State} {p : Party} {off base n : Nat} (ho : slotOwner off = none) (hw : windowAt off = none)
    (ht : readTakes s p off = none) (h : wideOf off = some (base, n)) (m : Nat) : readMap s p off m =
      if off = base then capture s p off (wideWords s base n) else emit s (.readData p off (captured s p base off)) := by
  simp [readMap, readRefused, foreignSlot, foreignWindow, ho, hw, ht, h]

/-- A read of another register, outside MGT, follows its access code. -/
theorem readMap_eq_readCode {s : State} {p : Party} {off : Nat} (ho : slotOwner off = none) (hw : windowAt off = none)
    (ht : readTakes s p off = none) (h : wideOf off = none) (hm : off / 65536 ≠ 0x1C) (m : Nat) :
    readMap s p off m = readCode s p off off (viewOf s off) m := by
  simp [readMap, readRefused, foreignSlot, foreignWindow, ho, hw, ht, h, hm]

theorem readCode_rc {key : Nat} {r : Row} (h : rowOf key = some r) (ha : r.acc = .rc) (hr : r.rst = 0) (s : State) (p : Party) (off : Nat)
    (v : Word) (m : Nat) : readCode s p off key v m = emit (regSet s key (satAdd 0 m)) (.readData p off v) := by
  simp [readCode, h, ha, hr]

/-- Higher words of wide quantities that no FIFO holds, each with the offset of its lowest word. -/
def higherWords : List (Nat × Nat) :=
  [(0x150000, 0x150004), (0x150000, 0x150008), (0x150000, 0x15000C), (0xF0008, 0xF000C), (0xF0010, 0xF0014), (0xF0028, 0xF002C),
    (0x1D0800, 0x1D0804)]

theorem higherWords_wideOf : ∀ b ∈ higherWords, slotOwner b.2 = none ∧ windowAt b.2 = none ∧ b.2 ≠ b.1 ∧
    (wideOf b.2).map Prod.fst = some b.1 := by decide

theorem readTakes_higherWords (s : State) (p : Party) : ∀ b ∈ higherWords, readTakes s p b.2 = none := by
  intro b h
  fin_cases h <;> rfl

theorem readMap_higherWords {base off : Nat} (h : (base, off) ∈ higherWords) (s : State) (p : Party) (m : Nat) :
    readMap s p off m = emit s (.readData p off (captured s p base off)) := by
  obtain ⟨ho, hw, hne, hwide⟩ := higherWords_wideOf _ h
  obtain ⟨⟨base', n⟩, hn, rfl⟩ := Option.map_eq_some_iff.mp hwide
  rw [readMap_of_wideOf ho hw (readTakes_higherWords s p _ h) hn, if_neg hne]

/-- A read of the lowest word of PTP.TIME captures the four words. -/
theorem readMap_ptpTime (s : State) (p : Party) (m : Nat) :
    readMap s p 0x150000 m = capture s p 0x150000 (wideWords s 0x150000 4) :=
  (readMap_of_wideOf (off := 0x150000) (base := 0x150000) (n := 4) (by decide) (by decide) rfl (by decide) m).trans (if_pos rfl)

/-- RC counters that the map reads as they stand. -/
def rcCounters : List Nat :=
  [0x24, 0x2C, 0x20014, 0x20018, 0x2001C, 0x40080, 0x52004, 0xB0004, 0xD0054, 0xF0040, 0x110008, 0x140084, 0x150290, 0x171000, 0x181010,
    0x191184, 0x1A000C]

theorem rcCounters_row : ∀ off ∈ rcCounters,
    (rowOf off).map (fun r => (r.acc, r.rst, r.mask)) = some (.rc, 0, BitVec.allOnes 32) := by decide

theorem rcCounters_place : ∀ off ∈ rcCounters,
    slotOwner off = none ∧ windowAt off = none ∧ wideOf off = none ∧ off / 65536 ≠ 0x1C := by decide

theorem readTakes_rcCounters (s : State) (p : Party) : ∀ off ∈ rcCounters, readTakes s p off = none := by
  intro off h
  fin_cases h <;> rfl

theorem viewOf_rcCounters (s : State) : ∀ off ∈ rcCounters, viewOf s off = regGet s off := by
  intro off h
  fin_cases h <;> rfl

theorem maskOf_rcCounters {off : Nat} (h : off ∈ rcCounters) : maskOf off = BitVec.allOnes 32 := by
  obtain ⟨r, hr, hfields⟩ := Option.map_eq_some_iff.mp (rcCounters_row off h)
  obtain ⟨-, -, hmask⟩ : r.acc = .rc ∧ r.rst = 0 ∧ r.mask = BitVec.allOnes 32 := by simpa using hfields
  simp [maskOf, hr, hmask]

/-- A read of one of these counters gives its value and leaves what is counted in the cycle of the read (R9). -/
theorem readMap_rcCounters {off : Nat} (h : off ∈ rcCounters) (s : State) (p : Party) (m : Nat) :
    readMap s p off m = emit (regSet s off (satAdd 0 m)) (.readData p off (regGet s off)) := by
  obtain ⟨r, hr, hfields⟩ := Option.map_eq_some_iff.mp (rcCounters_row off h)
  obtain ⟨hacc, hrst, -⟩ : r.acc = .rc ∧ r.rst = 0 ∧ r.mask = BitVec.allOnes 32 := by simpa using hfields
  obtain ⟨ho, hw, hwide, hm⟩ := rcCounters_place off h
  rw [readMap_eq_readCode ho hw (readTakes_rcCounters s p off h) hwide hm, readCode_rc hr hacc hrst, viewOf_rcCounters s off h]

/-! ### A user core's MTIMECMP (R8, R403) -/

theorem timecmpHi_row : ∀ u : Fin 4, (rowOf (0x1D0024 + 0x100 * u.val)).map (·.acc) = some .rw ∧
    slotOwner (0x1D0024 + 0x100 * u.val) = none ∧ windowAt (0x1D0024 + 0x100 * u.val) = none := by decide

theorem maskOf_timecmp : ∀ u : Fin 4, maskOf (0x1D0020 + 0x100 * u.val) = BitVec.allOnes 32 ∧
    maskOf (0x1D0024 + 0x100 * u.val) = BitVec.allOnes 32 := by decide

theorem mayWrite_timecmpHi {p : Party} (hp : mayRead p = true) (u : Fin 4) : mayWrite p (0x1D0024 + 0x100 * u.val) = true := by
  cases p with
  | pf => rfl
  | fjarera => revert u; decide
  | user w => revert w u; decide
  | vf | smbus | i3c => cases hp

theorem writeHeld_timecmpHi (s : State) (p : Party) (u : Fin 4) (v : Word) :
    writeHeld s p (0x1D0024 + 0x100 * u.val) v = writeTimecmp s p u v := by
  fin_cases u <;> rfl

theorem writeReg_timecmpHi {p : Party} (hp : mayRead p = true) (s : State) (u : Fin 4) (v : Word) :
    writeReg s p (0x1D0024 + 0x100 * u.val) v 0 = writeTimecmp s p u v := by
  obtain ⟨hacc, ho, hw⟩ := timecmpHi_row u
  rw [writeReg_of_mayRead hp, writeMap_eq_writeCode ho hw (mayWrite_timecmpHi hp u), writeCode_rw hacc, writeHeld_timecmpHi]

/-- MTIMECMP as written: both words, and the timer interrupt of the comparison. -/
theorem writeTimecmp_eq (s : State) (p : Party) (u : Fin 4) (v : Word) :
    writeTimecmp s p u v = modCore (regSet (regSet s (0x1D0020 + 0x100 * u.val) (stagedWord s p (0x1D0020 + 0x100 * u.val)))
      (0x1D0024 + 0x100 * u.val) v) u fun c =>
        { c with timer := decide (devTime s ≥ (stagedWord s p (0x1D0020 + 0x100 * u.val)).toNat + v.toNat * 2 ^ 32) } := by
  have hlo : userReg u 0x20 = 0x1D0020 + 0x100 * u.val := by unfold userReg; omega
  have hhi : userReg u 0x24 = 0x1D0024 + 0x100 * u.val := by unfold userReg; omega
  simp only [writeTimecmp, hlo, hhi]
  rfl

theorem regGet_writeTimecmp (s : State) (p : Party) (u : Fin 4) (v : Word) :
    regGet (writeTimecmp s p u v) (0x1D0020 + 0x100 * u.val) = stagedWord s p (0x1D0020 + 0x100 * u.val) ∧
      regGet (writeTimecmp s p u v) (0x1D0024 + 0x100 * u.val) = v ∧
      ∀ j, j ≠ 0x1D0020 + 0x100 * u.val → j ≠ 0x1D0024 + 0x100 * u.val → regGet (writeTimecmp s p u v) j = regGet s j := by
  obtain ⟨hlo, hhi⟩ := maskOf_timecmp u
  rw [writeTimecmp_eq]
  refine ⟨?_, ?_, fun j hj hj' => ?_⟩
  · rw [regGet_modCore, regGet_regSet_ne _ _ _ _ (by omega), regGet_regSet_self, hlo, BitVec.and_allOnes]
  · rw [regGet_modCore, regGet_regSet_self, hhi, BitVec.and_allOnes]
  · rw [regGet_modCore, regGet_regSet_ne _ _ _ _ hj', regGet_regSet_ne _ _ _ _ hj]

theorem timer_writeTimecmp (s : State) (p : Party) (u : Fin 4) (v : Word) : ((writeTimecmp s p u v).per.cores[u]).timer =
    decide (devTime s ≥ (stagedWord s p (0x1D0020 + 0x100 * u.val)).toNat + v.toNat * 2 ^ 32) := by
  rw [writeTimecmp_eq]
  simp only [modCore, vMod_getElem_self]

theorem onlyChanges_writeTimecmp (s : State) (p : Party) (u : Fin 4) (v : Word) :
    onlyChanges [.regs, .per] s (endCycle s (writeTimecmp s p u v)) :=
  onlyChanges_endCycle fun q hq _ _ => by
    obtain ⟨hr, hper⟩ : q ≠ .regs ∧ q ≠ .per := by simpa using hq
    rw [writeTimecmp_eq]
    exact ((same_regSet hr s _ _).trans (same_regSet hr _ _ _)).trans (same_modCore hper _ _ _)

/-! ### Configuration space and BAR4 (R340, R341, R351) -/

/-- The words of the header with the IDs and the class of Table HQ-1. -/
def identityWords (s : State) (fn : Nat) : List (Nat × Word) :=
  [(0, if fn = 0 then 0x96401E7A else 0x96411E7A), (8, 0x04800001),
    (0x2C, if configGood s.sys.config = true then packFields [(16, leAt s.sys.config 10 2), (0, leAt s.sys.config 8 2)] else 0x1E7A)]

theorem configWord_identityWords (s : State) (fn : Nat) : ∀ w ∈ identityWords s fn, configWord s fn w.1 = some w.2 := by
  simp only [identityWords, List.forall_mem_cons, configWord, identityOf]
  refine ⟨?device, rfl, ?subsystem, by simp⟩
  case device => by_cases h : fn = 0 <;> simp [h, packFields]
  case subsystem => by_cases h : configGood s.sys.config = true <;> simp [h, packFields]

theorem readConfig_of_configWord {s : State} {p : Party} {off : Nat} {w : Word} (hup : s.sys.pcieUp = true)
    (h : configWord s (partyFn p) off = some w) : readConfig s p off = emit s (.barData p .config off w) := by
  simp [readConfig, hup, h]

/-- A word of the MSI-X table as BAR4 reads it. -/
theorem readBar4_table {p : Party} {off : Nat} (h4 : off % 4 = 0) (h : off < 16 * vectorsOf (partyFn p)) (s : State) :
    readBar4 s p off = emit s (.barData p .bar4 off (msixWord s (partyFn p) off)) := by
  simp [readBar4, h4, h]

/-- A function's vectors fill whole words of its PBA, beyond its table. -/
theorem vectorsOf_cases (fn : Nat) : vectorsOf fn = 128 ∨ vectorsOf fn = 64 := by
  unfold vectorsOf
  split
  · exact .inl rfl
  · exact .inr rfl

/-- The word of the PBA that holds a vector's pending bit, as BAR4 reads it. -/
theorem readBar4_pba {p : Party} {vec : Nat} (h : vec < vectorsOf (partyFn p)) (s : State) :
    readBar4 s p (0x2000 + vec / 32 * 4) =
      emit s (.barData p .bar4 (0x2000 + vec / 32 * 4) (pbaWord s (partyFn p) (vec / 32))) := by
  have hv := vectorsOf_cases (partyFn p)
  have h4 : ¬ (0x2000 + vec / 32 * 4) % 4 ≠ 0 := by omega
  have htab : ¬ 0x2000 + vec / 32 * 4 < 16 * vectorsOf (partyFn p) := by omega
  have hpba : 0x2000 ≤ 0x2000 + vec / 32 * 4 ∧ 0x2000 + vec / 32 * 4 < 0x2000 + vectorsOf (partyFn p) / 8 := by omega
  have hdiv : (0x2000 + vec / 32 * 4 - 0x2000) / 4 = vec / 32 := by omega
  simp only [readBar4, if_neg h4, if_neg htab, if_pos hpba, hdiv]

/-- A sum of distinct powers of two below the `n`-th is below it. -/
theorem sum_two_pow_lt (f : Nat → Prop) [DecidablePred f] (n : Nat) :
    ((List.range n).map fun b => if f b then 2 ^ b else 0).sum < 2 ^ n := by
  induction n with
  | zero => simp
  | succ n ih =>
    simp only [List.range_succ, List.map_append, List.sum_append, List.map_cons, List.map_nil, List.sum_cons, List.sum_nil, pow_succ]
    split <;> omega

/-- The bits of a sum of distinct powers of two are those that it sums. -/
theorem testBit_sum_two_pow (f : Nat → Prop) [DecidablePred f] {n i : Nat} (hi : i < n) :
    ((List.range n).map fun b => if f b then 2 ^ b else 0).sum.testBit i = decide (f i) := by
  induction n with
  | zero => cases hi
  | succ n ih =>
    have hlt := sum_two_pow_lt f n
    simp only [List.range_succ, List.map_append, List.sum_append, List.map_cons, List.map_nil, List.sum_cons, List.sum_nil, Nat.add_zero]
    rw [Nat.add_comm]
    rcases Nat.lt_succ_iff_lt_or_eq.mp hi with h | rfl
    · by_cases hf : f n
      · rw [if_pos hf, Nat.testBit_two_pow_add_gt h, ih h]
      · rw [if_neg hf, Nat.zero_add, ih h]
    · by_cases hf : f i
      · simp [hf, Nat.testBit_two_pow_add_eq, Nat.testBit_lt_two_pow hlt]
      · simp [hf, Nat.testBit_lt_two_pow hlt]

/-- A bit of a PBA word is the pending bit of its vector. -/
theorem bit_pbaWord {fn vec : Nat} (h : vec < vectorsOf fn) (s : State) :
    bit (pbaWord s fn (vec / 32)) (vec % 32) = (mGet s.pba (fn * 128 + vec)).getD false := by
  have hb : vec % 32 < 32 := Nat.mod_lt _ (by decide)
  unfold bit pbaWord
  rw [BitVec.getLsbD_ofNat, testBit_sum_two_pow _ hb, Nat.div_add_mod]
  simp [hb, h]

/-! ### The commands that read registers and write wide quantities -/

theorem exec_lowestWordRead_bar0 (s : State) (p : Party) (off : Nat) :
    exec (.lowestWordRead p .bar0 off) s = inCore s fun s => readReg s p off 0 := rfl

theorem exec_rcRead (s : State) (p : Party) (off m : Nat) : exec (.rcRead p off m) s = inCore s fun s => readReg s p off m := rfl

theorem exec_highestWordWrite (s : State) (p : Party) (off : Nat) (v : Word) :
    exec (.highestWordWrite p off v) s = inCore s fun s => writeReg s p off v 0 := rfl

theorem exec_lowestWordRead_config {p : Party} (hp : p = .pf ∨ ∃ n, p = .vf n) (s : State) (off : Nat) :
    exec (.lowestWordRead p .config off) s = inCore s fun s => readConfig s p off := by
  obtain rfl | ⟨n, rfl⟩ := hp <;> rfl

theorem exec_lowestWordRead_bar4 {p : Party} (hp : p = .pf ∨ ∃ n, p = .vf n) (s : State) (off : Nat) :
    exec (.lowestWordRead p .bar4 off) s = inCore s fun s => readBar4 s p off := by
  obtain rfl | ⟨n, rfl⟩ := hp <;> rfl

/-- A command that puts out one value, and does nothing else. -/
theorem endCycle_emit_spec (s : State) (o : Out) :
    (endCycle s (emit s o)).out = o :: s.out ∧ onlyChanges [.out] s (endCycle s (emit s o)) :=
  ⟨endCycle_out s (emit s o), onlyChanges_emit s o⟩

theorem lowestWordRead_ptpTime {s : State} {p : Party} (hl : s.live = true) (hp : mayRead p = true) :
    exec (.lowestWordRead p .bar0 0x150000) s = .next (endCycle s (capture s p 0x150000 (wideWords s 0x150000 4))) := by
  rw [exec_lowestWordRead_bar0, inCore_of_live hl, readReg_of_mayRead hp, readMap_ptpTime]

theorem rcRead_higherWords {s : State} {p : Party} {base off : Nat} (hl : s.live = true) (hp : mayRead p = true)
    (h : (base, off) ∈ higherWords) (m : Nat) :
    exec (.rcRead p off m) s = .next (endCycle s (emit s (.readData p off (captured s p base off)))) := by
  rw [exec_rcRead, inCore_of_live hl, readReg_of_mayRead hp, readMap_higherWords h]

theorem highestWordWrite_timecmpHi {s : State} {p : Party} (hl : s.live = true) (hp : mayRead p = true) (u : Fin 4) (v : Word) :
    exec (.highestWordWrite p (0x1D0024 + 0x100 * u.val) v) s = .next (endCycle s (writeTimecmp s p u v)) := by
  rw [exec_highestWordWrite, inCore_of_live hl, writeReg_timecmpHi hp]

theorem rcRead_rcCounters {s : State} {off : Nat} (hl : s.live = true) (h : off ∈ rcCounters) (m : Nat) : exec (.rcRead .pf off m) s =
    .next (endCycle s (emit (regSet s off (satAdd 0 m)) (.readData .pf off (regGet s off)))) := by
  rw [exec_rcRead, inCore_of_live hl, readReg_of_mayRead rfl, readMap_rcCounters h]

theorem lowestWordRead_identityWords {s : State} {p : Party} {off : Nat} {w : Word} (hl : s.live = true) (hup : s.sys.pcieUp = true)
    (hp : p = .pf ∨ ∃ n, p = .vf n) (h : (off, w) ∈ identityWords s (partyFn p)) :
    exec (.lowestWordRead p .config off) s = .next (endCycle s (emit s (.barData p .config off w))) := by
  rw [exec_lowestWordRead_config hp, inCore_of_live hl, readConfig_of_configWord hup (configWord_identityWords s _ _ h)]

theorem lowestWordRead_msixTable {s : State} {p : Party} {off : Nat} (hl : s.live = true) (hp : p = .pf ∨ ∃ n, p = .vf n)
    (h4 : off % 4 = 0) (h : off < 16 * vectorsOf (partyFn p)) : exec (.lowestWordRead p .bar4 off) s =
      .next (endCycle s (emit s (.barData p .bar4 off (msixWord s (partyFn p) off)))) := by
  rw [exec_lowestWordRead_bar4 hp, inCore_of_live hl, readBar4_table h4 h]

theorem lowestWordRead_pba {s : State} {p : Party} {vec : Nat} (hl : s.live = true) (hp : p = .pf ∨ ∃ n, p = .vf n)
    (h : vec < vectorsOf (partyFn p)) : exec (.lowestWordRead p .bar4 (0x2000 + vec / 32 * 4)) s =
      .next (endCycle s (emit s (.barData p .bar4 (0x2000 + vec / 32 * 4) (pbaWord s (partyFn p) (vec / 32))))) := by
  rw [exec_lowestWordRead_bar4 hp, inCore_of_live hl, readBar4_pba h]

/-! ### Settled: the queue -/

/-- Settles O1: the step's own case of a queue that is not empty. -/
theorem stepRunsFrontCommand : Obligations.StepRunsFrontCommand := by
  intro s c rest h
  simp [step, h]

/-- Settles O2: every command ends its cycle in a next state, and the end of a cycle keeps the queue and the time. -/
theorem queueIsFirstInFirstOut : Obligations.QueueIsFirstInFirstOut := by
  refine ⟨fun c s => ?_, fun s c rest h => ?_⟩
  · obtain ⟨u, hu⟩ := exec_eq_next_endCycle c s
    exact ⟨_, hu⟩
  · obtain ⟨u, hu⟩ := exec_eq_next_endCycle c (s.withPending rest)
    exact ⟨_, (stepRunsFrontCommand s c rest h).trans hu, rfl, rfl⟩

/-! ### Settled: register writes -/

/-- Settles O6: by the access code of the register written. -/
theorem registerWritesFollowTheirAccessCode : Obligations.RegisterWritesFollowTheirAccessCode := by
  refine ⟨fun s off v hl h => ?rw, fun s p off v hl hp h => ?stray, fun s off v hw hl _ h => ?w1c, fun s p off bytes rd hl h => ?unaligned⟩
  case rw => exact ⟨_, registerWrite_plainRw hl h, endCycle_regSet_spec s off v⟩
  case stray =>
    have hne : off ≠ 0x20014 := by rintro rfl; exact absurd h (by decide)
    obtain ⟨-, hrest, honly⟩ := endCycle_regSet_spec s 0x20014 (satInc (regGet s 0x20014))
    exact ⟨_, strayWrite_of_isFs hl ((mayRead_iff p).mpr hp) h, hrest off hne,
      (regGet_endCycle _ _ _).trans (regGet_count_self (by decide) s), hrest, honly⟩
  case w1c => exact ⟨_, w1cWrite_of_row hl h, endCycle_regSet_spec s off _⟩
  case unaligned =>
    have hself : regGet (badAccess s) 0x2C = satInc (regGet s 0x2C) := regGet_count_self (by decide) s
    have hrest : ∀ j, j ≠ 0x2C → regGet (badAccess s) j = regGet s j := fun j hj => regGet_count_ne s _ j hj
    refine ⟨_, unalignedAccess_of_not_aligned hl h, ?_⟩
    cases rd with
    | true => exact ⟨by simpa using hself, fun j hj => by simpa using hrest j hj, by simp [emit], onlyChanges_emit_regSet s _ _ _⟩
    | false =>
      exact ⟨by simpa using hself, fun j hj => by simpa using hrest j hj, by simp, onlyChanges_endCycle fun q hq _ _ =>
        same_count (by rintro rfl; simp at hq) s _⟩

/-! ### Settled: wide quantities -/

/-- Settles O7: by the place that each access reads or writes. -/
theorem wideQuantitiesAreCapturedPerParty : Obligations.WideQuantitiesAreCapturedPerParty := by
  refine ⟨fun s p hl hp => ?lowest, fun s p base off m hl hp h => ?higher, fun s p u v hl hp => ?timecmp, fun s off m hl h => ?rc,
    fun s p fn hl hup hfn hp => ?function⟩
  case lowest =>
    refine ⟨_, lowestWordRead_ptpTime hl ((mayRead_iff p).mpr hp), by simp [capture, emit, wideWords], ?_, ?_, ?_, ?_, ?_⟩
    · rw [captured_endCycle, captured_capture_self]; simp [wideWords]
    · rw [captured_endCycle, captured_capture_self]; simp [wideWords]
    · rw [captured_endCycle, captured_capture_self]; simp [wideWords]
    · intro q base off hne
      rw [captured_endCycle, captured_capture_ne hne]
    · refine onlyChanges_endCycle fun q hq _ _ => ?_
      obtain ⟨hc, ho⟩ : q ≠ .captures ∧ q ≠ .out := by simpa using hq
      exact same_capture hc ho s p _ _
  case higher => exact ⟨_, rcRead_higherWords hl ((mayRead_iff p).mpr hp) h m, endCycle_emit_spec s _⟩
  case timecmp =>
    obtain ⟨hlo, hhi, hrest⟩ := regGet_writeTimecmp s p u v
    refine ⟨_, highestWordWrite_timecmpHi hl ((mayRead_iff p).mpr hp) u v, ?_, ?_, ?_, fun j hj hj' => ?_, onlyChanges_writeTimecmp s p u v⟩
    · rw [regGet_endCycle, hlo]
    · rw [regGet_endCycle, hhi]
    · rw [endCycle_per, timer_writeTimecmp]
    · rw [regGet_endCycle, hrest j hj hj']
  case rc =>
    refine ⟨_, rcRead_rcCounters hl h m, endCycle_out _ _, ?_, fun j hj => ?_, onlyChanges_emit_regSet s off _ _⟩
    · rw [regGet_endCycle, regGet_emit, regGet_regSet_self, maskOf_rcCounters h, BitVec.and_allOnes]
    · rw [regGet_endCycle, regGet_emit, regGet_regSet_ne _ _ _ _ hj]
  case function =>
    subst hfn
    refine ⟨fun off w h => ?_, fun off h4 h => ?_, fun vec h => ?_⟩
    · exact ⟨_, lowestWordRead_identityWords hl hup hp h, endCycle_emit_spec s _⟩
    · exact ⟨_, lowestWordRead_msixTable hl hp h4 h, endCycle_emit_spec s _⟩
    · obtain ⟨hout, honly⟩ := endCycle_emit_spec s (.barData p .bar4 (0x2000 + vec / 32 * 4) (pbaWord s (partyFn p) (vec / 32)))
      exact ⟨_, _, lowestWordRead_pba hl hp h, hout, bit_pbaWord h s, honly⟩

end Sys2Proof.Machine
end

section
/-! The statement about host jobs (R362 to R366) is refuted: its clauses on HOST_JOB_FRAME_DONE do not ask that the command which carries the
job be a JOB_SUBMIT. A STREAM_PULL that waits, and carries a job all the same, is completed when the end of the frame emits a unit of its
stream (R367). The clauses on admission and on the start of a frame exclude such a command by their premise `c.op = 0x10`. -/

namespace Sys2Proof.Machine
open Sys2Proof

/-- The command under a tag of a queue in the next state that an instruction leads to. -/
def cmdAfter (i : Instr) (s : State) (q tag : Nat) : Option Cmd := match exec i s with
  | .next t => cmdOf t q tag
  | _ => none

theorem cmdAfter_of_next {i : Instr} {s t : State} (h : exec i s = .next t) (q tag : Nat) : cmdAfter i s q tag = cmdOf t q tag := by
  simp only [cmdAfter, h]

/-- The record of frame 0 of a host job on course 0. -/
def jobFrameRec : FrameRec :=
  { hostJob := true, slot := 0, tag := 0, formeId := 0, ord := 0, ptp := 0, timecode := 0, tcUser := 0, status := 0, linesReceived := 0,
    linesExpected := 0, linesCrc := 0, linesDiscarded := 0, ratio := 0, ratioPrev := 0, trbBytes := 0, courses := 1, tempBand := 0,
    refSource := 0, hostContext := 0, expNs := 0, periodNs := 0, phase := 0, metadata := [] }

/-- A job of two frames without lines, its first frame on course 0, with a picture of stream 0 of core 0. -/
def twoFrameJob : Job :=
  { Job.new (padTo 64 [0, 0, 0, 0, 0, 0, 2]) with
    admitted := true, started := 1, course := some 0, cur := some jobFrameRec, pics := [(0, 0, 0)] }

/-- A STREAM_PULL of stream 0 of core 0 that waits, and carries that job. -/
def pullWithJob : Cmd :=
  { op := 0x20, flags := 0, addr := 0x8000, len := 4096, arg0 := 0, arg1 := 0, arg2 := 0, sqHead := 1, order := 0, mark := 0,
    waiting := true, finished := false, holds := [], segs := [(0x8000, 4096)], data := [], job := some twoFrameJob, aborted := false }

/-- A queue of the PF with nothing else in flight, and room in its CQ. -/
def queueOfPull : Queue :=
  { owner := .pf, sqBase := 0x10000, cqBase := 0x20000, sqDepth := 8, cqDepth := 8, tagBase := 0, tagCount := 1, vector := 0, cls := 1,
    bindMag := false, aggCount := 1, aggTime := 1, sqHead := 1, sqTail := 1, cqHead := 0, cqTail := 0, phase := true, halted := false,
    resetting := none, fenced := false, unsignalled := 0, firstAt := 0, attached := 0, backlog := [], cmds := [(0, pullWithJob)] }

/-- The job's picture is coded and waits for the frame's record. -/
def pullState : State :=
  let s : State := { State.reset with live := true, hq := { State.reset.hq with queues := [(0, queueOfPull)] } }
  modEnc s 0 0 fun st => { st with coded := [{ blankPic 255 0 0 0 0 with job := some (0, 0, 0), ready := true }] }

/-- The end of the frame seals the picture's record and emits its unit, which the waiting pull takes: the pull completes, and its tag is
free. -/
theorem cmdAfter_hostJobFrameDone_pullState : cmdAfter (.hostJobFrameDone 0 0 .none) pullState 0 0 = none := by decide +kernel

/-- Refutes O48: a frame that is not the job's last is done in `pullState`, and its command, a STREAM_PULL, is no longer in flight. -/
theorem not_hostJobsRun : ¬ Obligations.HostJobsRun := by
  rintro ⟨-, -, hdone⟩
  obtain ⟨hgoesOn, -, -⟩ :=
    hdone pullState 0 0 0 queueOfPull pullWithJob twoFrameJob jobFrameRec .none rfl rfl rfl rfl rfl rfl
  have hmore : twoFrameJob.left + 1 < twoFrameJob.frames := by decide
  obtain ⟨t, y, ht, hy, -⟩ := hgoesOn rfl hmore
  have hgone : cmdOf t 0 0 = none := (cmdAfter_of_next ht 0 0).symm.trans cmdAfter_hostJobFrameDone_pullState
  simp [hgone] at hy

end Sys2Proof.Machine
end

section
/-! Proofs of the statements about the idle clocks, the frets and their actions, the time-stamp FIFO, event inputs and the timecode jam
(R31, R54 to R62, R321 to R325, R408, R494). -/

namespace Sys2Proof.Machine
open Sys2Proof

/-! ### Parts that an operation leaves as they are -/

theorem Part.same.refl (p : Part) (s : State) : p.same s s := by cases p <;> rfl

theorem same_modCad {p : Part} (h : p ≠ .ref) (s : State) (n : Nat) (f : Cad → Cad) : p.same s (modCad s n f) := by
  cases p
  case ref => exact absurd rfl h
  all_goals rfl

theorem same_sourceEdge {p : Part} (h : p ∉ [.regs, .pba, .out]) (s : State) (i : Nat) : p.same s (sourceEdge s i) := by
  cases p
  case regs | pba | out => simp at h
  all_goals simp [Part.same]

/-- An event reaches its registers, its record and their interrupts only. -/
theorem same_event {p : Part} (h : p ∉ reporting) (s : State) (b : Blk) (i code : Nat) (sev : Severity) (ctx : Ctx) (status : Nat) :
    p.same s (event s b i code sev ctx status) := by
  cases p
  case regs | out | pba | flt | mgt => simp [reporting] at h
  all_goals simp [Part.same]

/-- A command that does nothing over its whole cycle. -/
theorem onlyChanges_nothing (s : State) : onlyChanges [] s (endCycle s s) := onlyChanges_endCycle fun p _ _ _ => .refl p s

/-- A command of the powered core that has nothing to do does nothing, whether the core runs or not. -/
theorem inCore_of_fixed {s : State} {f : State → State} (h : f s = s) : inCore s f = .next (endCycle s s) := by
  simp [inCore, h]

/-! ### Events raised with a count -/

theorem bit_setBit {i : Nat} (hi : i < 32) (w : Word) : bit (setBit w i) i = true := by
  simp only [bit, setBit, BitVec.getLsbD_or, BitVec.getLsbD_ofNat, hi, decide_true, Nat.testBit_two_pow_self, Bool.and_self, Bool.or_true]

/-- An event of a block whose bit is implemented is raised, and of the registers outside the fault recorder and the interrupt controller only
the block's EVENTS differ. -/
theorem raised_event {b : Blk} {off i : Nat} (hb : b.events = some off) (ho : outsideFlt off) (hm : bit (maskOf off) i = true) (s : State)
    (code : Nat) (sev : Severity) (ctx : Ctx) (status : Nat) : raised (event s b i code sev ctx status) b i := by
  refine ⟨off, hb, ?_⟩
  rw [regBit, regGet_event_events _ _ _ _ _ _ _ _ ho hb, bit_and, hm, bit_setBit (BitVec.lt_of_getLsbD hm), Bool.true_and]

theorem onlyRegs_event {b : Blk} {off : Nat} (hb : b.events = some off) (s : State) (i code : Nat) (sev : Severity) (ctx : Ctx)
    (status : Nat) : onlyRegs [off] s (event s b i code sev ctx status) := fun j hj ho =>
  regGet_event _ _ _ _ _ _ _ _ ho (by rw [hb]; simpa [eq_comm] using hj)

/-! ### Entries that come due (R56 to R58) -/

theorem fretAt_idx {m : SMap Word} {n k : Nat} {e : Fret} (h : fretAt m n k = some e) : e.idx = k := by
  obtain ⟨-, h⟩ := Option.ite_none_right_eq_some.mp h
  rw [← Option.some.inj h]

/-- An entry that has fired for the newest frame is not ready, so its turn does not come. -/
theorem fretTurn_of_fired {s : State} {n : Fin 8} {e : Fret} (h : e.idx ∈ (s.ref.slots[n]).fired) : fretTurn s n e = false := by
  have hf : (s.ref.slots[n]).fired.contains e.idx = true := List.contains_iff_mem.mpr h
  have hphase : phaseReady s n e = false := by simp only [phaseReady, hf, Bool.not_true, Bool.and_false, Bool.false_and]
  have hmains : mainsReady s n e = false := by simp only [mainsReady, hf, Bool.not_true, Bool.and_false, Bool.false_and]
  have hready : readyTick s n e = none := by simp [readyTick, hphase, hmains]
  simp [fretTurn, hready]

/-- Such an entry changes nothing, whatever else its command asks of it. -/
theorem fireDue_of_fired {s : State} {n : Fin 8} {k : Nat} (h : k ∈ (s.ref.slots[n]).fired) (ok : Fret → Bool) :
    fireDue s n k ok = s := by
  unfold fireDue
  split
  · rename_i e he
    rw [← fretAt_idx he] at h
    rw [if_neg (by simp [fretTurn_of_fired h])]
  · rfl

theorem fireDue_of_turn {s : State} {n : Fin 8} {k : Nat} {e : Fret} {ok : Fret → Bool}
    (he : fretAt (s.ref.slots[n]).cfg n.val k = some e) (ht : fretTurn s n e = true) (hok : ok e = true) :
    fireDue s n k ok = fire s n e := by
  simp only [fireDue, he, ht, hok, and_self, if_true]

/-- Two commands that ask nothing of an entry that it does not meet do the same. -/
theorem fireDue_congr {s : State} {n : Fin 8} {k : Nat} {e : Fret} {ok ok' : Fret → Bool}
    (he : fretAt (s.ref.slots[n]).cfg n.val k = some e) (hok : ok e = ok' e) : fireDue s n k ok = fireDue s n k ok' := by
  simp only [fireDue, he, hok]

/-- The slot's cadence with entry `k` marked as fired for its frame. -/
def markFired (s : State) (n : Fin 8) (k : Nat) : State := modCad s n fun c => { c with fired := k :: c.fired }

theorem markFired_ref (s : State) (n : Fin 8) (k : Nat) : (markFired s n k).ref = nowFired s n k := rfl

theorem same_markFired {p : Part} (h : p ≠ .ref) (s : State) (n : Fin 8) (k : Nat) : p.same s (markFired s n k) := same_modCad h s _ _

/-- An entry that comes due is marked, and its action follows (R56, Table FRT-2). -/
theorem fire_of_comesDue {s : State} {n : Fin 8} {k : Fin 256} {a : Nat} {e : Fret} (h : comesDue s n k a e) :
    fireAction s n k.val a = fretAct (markFired s n k.val) n (newestOrd s n) none e := by
  obtain ⟨he, ha, ht⟩ := h
  rw [fireAction, fireDue_of_turn he ht (by simp [ha]), fire, fretAt_idx he, markFired]

/-! ### The commands of the frets -/

/-- The commands of the actions, by action. -/
theorem exec_fretAction {n : Fin 8} {k : Fin 256} {a : Nat} {c : Instr}
    (h : (a, c) ∈ [(0, .nop n k), (1, .applyForme n k), (2, .sendExposure n k), (3, .statsOpen n k), (4, .statsClose n k),
      (5, .timestamp n k), (6, .memRetrain n k), (7, .encStart n k), (8, .raiseIrq n k), (9, .tempBand n k), (10, .eventOut n k)])
    (s : State) : exec c s = inCore s fun s => fireDue s n k.val fun e => decide (e.action = a) := by
  fin_cases h <;> rfl

theorem exec_phaseFretDue (n : Fin 8) (k : Fin 256) (s : State) :
    exec (.phaseFretDue n k) s = inCore s fun s => fireDue s n k.val fun e => decide (e.kind = 0) := rfl

theorem exec_mainsPhaseFret (n : Fin 8) (k : Fin 256) (s : State) :
    exec (.mainsPhaseFret n k) s = inCore s fun s => fireDue s n k.val fun e => decide (e.kind = 2) := rfl

/-- Every fret command lets an entry fire as it comes due, under a condition of its own. -/
theorem exec_fretCommand {n : Fin 8} {k : Fin 256} {c : Instr}
    (h : c ∈ [.phaseFretDue n k, .mainsPhaseFret n k, .nop n k, .applyForme n k, .sendExposure n k, .statsOpen n k, .statsClose n k,
      .timestamp n k, .memRetrain n k, .encStart n k, .raiseIrq n k, .tempBand n k, .eventOut n k])
    (s : State) : ∃ ok, exec c s = inCore s fun s => fireDue s n k.val ok := by
  fin_cases h <;> exact ⟨_, rfl⟩

/-- A fret command whose entry comes due, while the core runs. -/
theorem fretAction_of_comesDue {s : State} {n : Fin 8} {k : Fin 256} {a : Nat} {e : Fret} {c : Instr} (hl : s.live = true)
    (h : comesDue s n k a e)
    (hc : (a, c) ∈ [(0, .nop n k), (1, .applyForme n k), (2, .sendExposure n k), (3, .statsOpen n k), (4, .statsClose n k),
      (5, .timestamp n k), (6, .memRetrain n k), (7, .encStart n k), (8, .raiseIrq n k), (9, .tempBand n k), (10, .eventOut n k)]) :
    exec c s = .next (endCycle s (fretAct (markFired s n k.val) n (newestOrd s n) none e)) := by
  rw [exec_fretAction hc, inCore_of_live hl]
  exact congrArg (fun t => Host.Outcome.next (endCycle s t)) (fire_of_comesDue h)

/-- Settles O12: a marked entry's turn does not come, whatever its kind. -/
theorem aFretFiresAtMostOncePerFrame : Obligations.AFretFiresAtMostOncePerFrame := by
  intro s n k c hk hc
  obtain ⟨ok, hexec⟩ := exec_fretCommand hc s
  exact ⟨_, hexec.trans (inCore_of_fixed (fireDue_of_fired hk ok)), onlyChanges_nothing s⟩

/-! ### RAISE_IRQ (R408, R409) -/

/-- An enabled source's edge leaves its pending bit set, whether or not it merges into one already set. -/
theorem pending_sourceEdge {s : State} {i : Nat} (hi : i < 1024) (hcfg : regBit s (srcCfgReg i) 31 = true)
    (hm : maskOf (pendingReg i) = BitVec.allOnes 32) : regBit (sourceEdge s i) (pendingReg i) (i % 32) = true := by
  have hhost : pendingReg i ≠ hostPendingReg i := by unfold pendingReg hostPendingReg; omega
  have hmerged : pendingReg i ≠ mergedReg := by unfold pendingReg mergedReg; omega
  have hset : bit (setBit (regGet s (pendingReg i)) (i % 32)) (i % 32) = true := bit_setBit (Nat.mod_lt _ (by decide)) _
  unfold sourceEdge
  rw [if_pos (show bit (regGet s (srcCfgReg i)) 31 = true from hcfg)]
  dsimp only
  by_cases hp : regBit s (pendingReg i) (i % 32) = true
  · have hcount : regBit (count s mergedReg) (pendingReg i) (i % 32) = true := by rw [regBit, regGet_count_ne _ _ _ hmerged]; exact hp
    rw [if_pos hp]
    split
    · rw [regBit, regGet_msixSend, regGet_regSet_ne _ _ _ _ hhost]; exact hcount
    · exact hcount
  · have hput : regBit (regSet s (pendingReg i) (setBit (regGet s (pendingReg i)) (i % 32))) (pendingReg i) (i % 32) = true := by
      rw [regBit, regGet_regSet_self, hm, BitVec.and_allOnes]; exact hset
    rw [if_neg hp]
    split
    · rw [regBit, regGet_msixSend, regGet_regSet_ne _ _ _ _ hhost]; exact hput
    · exact hput

theorem sourceEdge_of_disabled {s : State} {i : Nat} (h : regBit s (srcCfgReg i) 31 = false) : sourceEdge s i = s := by
  rw [sourceEdge, if_neg (by simpa [regBit] using h)]

theorem field_lt (w : Word) (hi lo : Nat) : field w hi lo < 2 ^ (hi - lo + 1) := Nat.mod_lt _ (Nat.two_pow_pos _)

/-- A fret source's place among the pending bits (Table IRQ-1). -/
theorem fretSource_pending {a : Nat} (h : a < 16) : pendingReg (64 + a) = 0x191008 ∧ (64 + a) % 32 = a := by
  unfold pendingReg; omega

/-- Settles O8: by the action of the entry that comes due, and by the condition that each command asks of it. -/
theorem fretsFireWhenTheyComeDue : Obligations.FretsFireWhenTheyComeDue := by
  refine ⟨fun s n k e hl h => ?nop, fun s n k e hl h => ?raiseIrq, fun s n k e c hl he hc => ?due⟩
  case nop =>
    have hact : fretAct (markFired s n k.val) n (newestOrd s n) none e = markFired s n k.val := by simp [fretAct, h.2.1]
    refine ⟨_, fretAction_of_comesDue (a := 0) hl h (by simp), ?_, onlyChanges_endCycle fun p hp _ _ => ?_⟩
    · rw [endCycle_ref, hact, markFired_ref]
    · rw [hact]; exact same_markFired (by simpa using hp) s n k.val
  case raiseIrq =>
    have ha : field e.arg 3 0 < 16 := field_lt e.arg 3 0
    obtain ⟨hreg, hbit⟩ := fretSource_pending ha
    have hact : fretAct (markFired s n k.val) n (newestOrd s n) none e = sourceEdge (markFired s n k.val) (64 + field e.arg 3 0) := by
      simp [fretAct, h.2.1]
    refine ⟨_, fretAction_of_comesDue (a := 8) hl h (by simp), ?_, fun hon => ⟨?_, onlyChanges_endCycle fun p hp _ _ => ?_⟩,
      fun hoff => onlyChanges_endCycle fun p hp _ _ => ?_⟩ <;> rw [hact]
    · rw [endCycle_ref, sourceEdge_ref, markFired_ref]
    · have := pending_sourceEdge (s := markFired s n k.val) (i := 64 + field e.arg 3 0) (by omega) hon (by rw [hreg]; decide)
      rw [regBit, regGet_endCycle]
      rwa [hreg, hbit, regBit] at this
    · obtain ⟨hr, hregs⟩ : p ≠ .ref ∧ p ∉ [.regs, .pba, .out] := by simpa [List.mem_cons] using hp
      exact (same_markFired hr s n k.val).trans (same_sourceEdge hregs _ _)
    · rw [sourceEdge_of_disabled (s := markFired s n k.val) hoff]; exact same_markFired (by simpa using hp) s n k.val
  case due =>
    have hexec := exec_fretAction hc s
    rw [inCore_of_live hl] at hexec
    have hdue : ∀ kind, e.kind = kind → fireDue s n k.val (fun x => decide (x.kind = kind)) =
        fireDue s n k.val fun x => decide (x.action = e.action) := fun kind hk => fireDue_congr he (by simp [hk])
    refine ⟨fun hk => ⟨_, ?_, hexec⟩, fun hk => ⟨_, ?_, hexec⟩⟩
    · rw [exec_phaseFretDue, inCore_of_live hl, hdue 0 hk]
    · rw [exec_mainsPhaseFret, inCore_of_live hl, hdue 2 hk]

/-! ### The idle tick (R31, R315) -/

/-- Settles O3: the next state of an idle tick, with the core running or not. -/
theorem emptyQueueTicksTheClocks : Obligations.EmptyQueueTicksTheClocks := by
  intro s hq
  have hstep : step s = .next (idle s) := by simp [step, hq]
  have hinc : ptpInc s.net.f = (s.net.f * 2 ^ 32 / 10 ^ 9 + 1 / 2).floor := by norm_num [ptpInc]
  cases hl : s.live with
  | true =>
    refine ⟨_, hstep, by simp [idle, hl, tick], fun p hp => ?_, fun _ total htotal hpos => ?_, fun h => by cases h⟩
    · cases p <;> simp [Part.same, idle, hl, tick] at hp ⊢
    · have htick : (s.ptpNow * 65536 + s.net.sub : Nat) + 4294967296 + ptpInc s.net.f = total := by
        rw [hinc, htotal]; push_cast; ring
      simp only [idle, hl, if_true, tick, htick]
      omega
  | false =>
    refine ⟨_, hstep, by simp [idle, hl], fun p hp => ?_, fun h => (by cases h), fun _ => by simp [idle, hl]⟩
    cases p <;> simp [Part.same, idle, hl] at hp ⊢

/-! ### The time-stamp FIFO (R61) -/

theorem exec_tsRead (p : Party) (s : State) : exec (.tsRead p) s = inCore s fun s =>
    if ¬ mayRead p then s
    else match s.ref.tsFifo with
    | [] => capture s p 0x34100 [0, 0, 0, 0, 0]
    | e :: r => capture { s with ref := { s.ref with tsFifo := r } } p 0x34100
        (packFields [(31, 1), (16, e.slot), (0, e.ident)] :: e.ord :: stampWords e.time) := rfl

/-- The word that a read of TS_W0 puts out for the oldest entry. -/
theorem tsRead_out {s t : State} {p : Party} {e : TsEntry} {r : List TsEntry} (hl : s.live = true) (hp : mayRead p = true)
    (hq : s.ref.tsFifo = e :: r) (h : exec (.tsRead p) s = .next t) :
    t.out = .readData p 0x34100 (packFields [(31, 1), (16, e.slot), (0, e.ident)]) :: s.out := by
  rw [exec_tsRead, inCore_of_live hl, if_neg (not_not_intro hp), hq] at h
  cases h
  simp [capture, emit]

/-- A running block whose FIFO holds an entry with the number 8 in the place of a slot's. -/
def ninthSlotStamped : State :=
  { State.reset with
    live := true, ref := { State.reset.ref with tsFifo := [{ slot := 8, ident := 0, ord := 0, time := 0 }] } }

/-- Refutes O10: its clause on reads takes any state, and the entry's slot modulo 8, while TS_W0 is packed from the number that the entry
holds. In `ninthSlotStamped`, which no TIMESTAMP leads to since a slot's number is below 8, the word read has bit 19 set. -/
theorem not_timeStampFifo : ¬ Obligations.TimeStampFifo := by
  rintro ⟨-, -, -, hread, -⟩
  obtain ⟨t, hexec, -, hout, -⟩ := hread ninthSlotStamped .pf _ _ rfl rfl rfl
  have hword := hout.symm.trans (tsRead_out rfl rfl rfl hexec)
  simp [packFields] at hword

/-! ### Event inputs (R321, R322) -/

theorem same_modEvt {p : Part} (h : p ≠ .net) (s : State) (i : Nat) (f : EvtIn → EvtIn) : p.same s (modEvt s i f) := by
  cases p
  case net => exact absurd rfl h
  all_goals rfl

theorem same_ptpEvent_count {p : Part} (h : p ∉ reporting) (s : State) (off i code : Nat) (sev : Severity) (ctx : Ctx) :
    p.same s (ptpEvent (count s off) i code sev ctx) :=
  (same_count (by rintro rfl; exact h (by decide)) s off).trans (same_event h _ _ _ _ _ _ _)

/-- A PTP event raised as a counter outside the fault recorder counts: the count, the event, and nothing else outside that recorder and the
interrupt controller. -/
theorem ptpEvent_count_spec {off i : Nat} (hm : maskOf off = BitVec.allOnes 32) (ho : outsideFlt off) (hne : off ≠ 0x150400)
    (hi : bit (maskOf 0x150400) i = true) (s : State) (code : Nat) (sev : Severity) (ctx : Ctx) :
    regGet (ptpEvent (count s off) i code sev ctx) off = satInc (regGet s off) ∧ raised (ptpEvent (count s off) i code sev ctx) .ptp i ∧
      onlyRegs [off, 0x150400] s (ptpEvent (count s off) i code sev ctx) := by
  refine ⟨?_, raised_event rfl (by unfold outsideFlt; omega) hi _ _ _ _ _, fun j hj hj' => ?_⟩
  · rw [ptpEvent, regGet_event _ _ _ _ _ _ _ _ ho (by simpa [Blk.events, eq_comm] using hne), regGet_count_self hm]
  · obtain ⟨hoff, hev⟩ : j ≠ off ∧ j ≠ 0x150400 := by simpa using hj
    rw [ptpEvent, regGet_event _ _ _ _ _ _ _ _ hj' (by simpa [Blk.events, eq_comm] using hev), regGet_count_ne _ _ _ hoff]

theorem ptpEvent_spec {i : Nat} (hi : bit (maskOf 0x150400) i = true) (s : State) (code : Nat) (sev : Severity) (ctx : Ctx) :
    raised (ptpEvent s i code sev ctx) .ptp i ∧ onlyRegs [0x150400] s (ptpEvent s i code sev ctx) ∧ (ptpEvent s i code sev ctx).net = s.net :=
  ⟨raised_event rfl (by unfold outsideFlt; omega) hi _ _ _ _ _, onlyRegs_event rfl _ _ _ _ _ _, event_net _ _ _ _ _ _ _⟩

/-- The conditions under which an input takes no notice of an edge. -/
abbrev edgeIgnored (cfg : Word) (rising : Bool) (width : Nat) : Prop :=
  ¬ bit cfg 31 ∨ width < 4 * field cfg 15 0 ∨ (field cfg 30 29 = 0 ∧ rising = false) ∨ (field cfg 30 29 = 1 ∧ rising = true)
    ∨ field cfg 30 29 = 3

theorem not_edgeIgnored {cfg : Word} {rising : Bool} {width : Nat} (hon : bit cfg 31 = true) (hw : 4 * field cfg 15 0 ≤ width)
    (hdir : field cfg 30 29 = 2 ∨ (field cfg 30 29 = 0 ∧ rising = true) ∨ (field cfg 30 29 = 1 ∧ rising = false)) :
    ¬ edgeIgnored cfg rising width := by
  rcases hdir with h | ⟨h, h'⟩ | ⟨h, h'⟩ <;> simp [edgeIgnored, *]

/-- An edge now lies outside the window of an input's expected period. -/
def edgeOutside (s : State) (i : Fin 16) : Bool :=
  let exp := (regGet s (evtCfgReg i.val + 4)).toNat
  let x := s.net.inputs[i]
  decide (exp ≠ 0) && (x.lastEdge.map (s.now - ·)).any fun p => !inWindow (exp : ℚ) x.periods x.run p

/-- The input has counted an edge, and keeps its tick and its period. -/
def edgeCounted (s : State) (i : Fin 16) : State :=
  let per := (s.net.inputs[i]).lastEdge.map (s.now - ·)
  modEvt s i fun x => { x with
    lastEdge := some s.now, periods := (per.toList ++ x.periods).take 8, run := if per.isSome then x.run + 1 else x.run,
    count := (x.count + 1) % 65536, lost := false }

/-- The entry of an edge joins the event FIFO with its time-stamp, or is lost on a full FIFO. -/
def edgeQueued (s : State) (i : Fin 16) (rising : Bool) (n : Nat) : State :=
  if s.net.evts.length ≥ 64 then ptpEvent (count s 0x150290) 6 0x07 .degraded (ctxUnit 11 i.val 0 0)
  else
    let st := edgeStamp s
    let e : EvtEntry := { rising := rising, input := i.val, count := n, time := st.1 }
    { st.2 with net := { st.2.net with evts := st.2.net.evts ++ [e] } }

theorem exec_eventEdge (i : Fin 16) (rising : Bool) (width : Nat) (s : State) : exec (.eventEdge i rising width) s = inCore s fun s =>
    if edgeIgnored (regGet s (evtCfgReg i.val)) rising width then s
    else if edgeOutside s i then ptpEvent (count s 0x150294) 7 0x08 .info (ctxUnit 11 i.val 0 0)
    else edgeQueued (edgeCounted s i) i rising (((s.net.inputs[i]).count + 1) % 65536) := rfl

theorem eventEdge_ignored {s : State} {i : Fin 16} {rising : Bool} {width : Nat}
    (h : edgeIgnored (regGet s (evtCfgReg i.val)) rising width) : exec (.eventEdge i rising width) s = .next (endCycle s s) := by
  rw [exec_eventEdge]
  exact inCore_of_fixed (if_pos h)

theorem edgeCounted_input (s : State) (i : Fin 16) : ((edgeCounted s i).net.inputs[i]).count = ((s.net.inputs[i]).count + 1) % 65536 ∧
    ((edgeCounted s i).net.inputs[i]).lastEdge = some s.now ∧ ((edgeCounted s i).net.inputs[i]).lost = false := by
  simp only [edgeCounted, modEvt, vMod_getElem_self, and_self]

theorem edgeQueued_inputs (s : State) (i : Fin 16) (rising : Bool) (n : Nat) : (edgeQueued s i rising n).net.inputs = s.net.inputs := by
  unfold edgeQueued
  split
  · simp [ptpEvent]
  · rfl

/-- An entry that finds room: stamped to within 2 ns. -/
theorem edgeQueued_of_room {s : State} (h : s.net.evts.length < 64) (i : Fin 16) (rising : Bool) (n : Nat) :
    (∃ time, ptpTime s ≤ time + 131072 ∧ time ≤ ptpTime s + 131072 ∧ (edgeQueued s i rising n).net.evts = s.net.evts ++
      [{ rising := rising, input := i.val, count := n, time := time }]) ∧
    ∀ p : Part, p ∉ [.net, .free] → p.same s (edgeQueued s i rising n) := by
  have hq : edgeQueued s i rising n = { (edgeStamp s).2 with net := { (edgeStamp s).2.net with
      evts := (edgeStamp s).2.net.evts ++ [{ rising := rising, input := i.val, count := n, time := (edgeStamp s).1 }] } } :=
    if_neg (by omega)
  have hstamp : (edgeStamp s).1 = ptpTime s + Config.freeNat s.free % (4 * 65536 + 1) - 2 * 65536 := rfl
  refine ⟨⟨(edgeStamp s).1, by omega, by omega, by rw [hq]; rfl⟩, fun p hp => ?_⟩
  rw [hq]
  cases p
  case net | free => simp at hp
  all_goals rfl

/-- On a full FIFO the entry is lost, counted and raised. -/
theorem edgeQueued_of_full {s : State} (h : 64 ≤ s.net.evts.length) (i : Fin 16) (rising : Bool) (n : Nat) :
    edgeQueued s i rising n = ptpEvent (count s 0x150290) 6 0x07 .degraded (ctxUnit 11 i.val 0 0) := if_pos h

/-- A period more than 2 % from the expected one, before eight valid periods. -/
theorem inWindow_eq_false {exp : ℚ} {l : List Nat} {run per : Nat} (hrun : run < 8)
    (h : (per : ℚ) < exp * 98 / 100 ∨ exp * 102 / 100 < (per : ℚ)) : inWindow exp l run per = false := by
  have hc : (if run < 8 ∨ l = [] then exp else (l.sum : ℚ) / (l.length : ℚ)) = exp := if_pos (.inl hrun)
  simp only [inWindow, hc, Bool.and_eq_false_iff, decide_eq_false_iff_not, not_le]
  exact h

/-- An input of no expected period takes an edge of its direction. -/
theorem eventEdge_taken {s : State} {i : Fin 16} {rising : Bool} {width : Nat} (hl : s.live = true)
    (hi : ¬ edgeIgnored (regGet s (evtCfgReg i.val)) rising width) (hexp : regGet s (evtCfgReg i.val + 4) = 0) :
    exec (.eventEdge i rising width) s =
      .next (endCycle s (edgeQueued (edgeCounted s i) i rising (((s.net.inputs[i]).count + 1) % 65536))) := by
  have hin : edgeOutside s i = false := by simp [edgeOutside, hexp]
  rw [exec_eventEdge, inCore_of_live hl, if_neg hi, if_neg (by simp [hin])]

/-- An edge more than 2 % off an input's expected period is an outlier. -/
theorem eventEdge_outlier {s : State} {i : Fin 16} {rising : Bool} {width : Nat} {x : Nat} (hl : s.live = true)
    (hi : ¬ edgeIgnored (regGet s (evtCfgReg i.val)) rising width) (hx : (s.net.inputs[i]).lastEdge = some x)
    (hexp : (regGet s (evtCfgReg i.val + 4)).toNat ≠ 0)
    (hw : inWindow ((regGet s (evtCfgReg i.val + 4)).toNat : ℚ) (s.net.inputs[i]).periods (s.net.inputs[i]).run (s.now - x) = false) :
    exec (.eventEdge i rising width) s =
      .next (endCycle s (ptpEvent (count s 0x150294) 7 0x08 .info (ctxUnit 11 i.val 0 0))) := by
  have hout : edgeOutside s i = true := by
    simp only [edgeOutside, hx, hw, Option.map_some, Option.any_some, Bool.not_false, Bool.and_true, decide_eq_true_eq]
    exact hexp
  rw [exec_eventEdge, inCore_of_live hl, if_neg hi, if_pos hout]

/-! ### EVT_INPUT_LOST (R321) -/

/-- An input that is lost starts its search anew. -/
def inputLost (s : State) (i : Fin 16) : State :=
  modEvt s i fun x => { x with lost := true, run := 0, periods := [], lastEdge := none, since := s.now }

theorem exec_evtInputLost (i : Fin 16) (s : State) : exec (.evtInputLost i) s = inCore s fun s =>
    if ¬ regBit s (evtCfgReg i.val) 31 ∨ (regGet s (evtCfgReg i.val + 4)).toNat = 0 ∨ (s.net.inputs[i]).lost = true ∨
        s.now < (s.net.inputs[i]).lastEdge.getD (s.net.inputs[i]).since + 3 * (regGet s (evtCfgReg i.val + 4)).toNat then s
    else ptpEvent (inputLost s i) 8 0x09 .degraded (ctxUnit 11 i.val 0 0) := rfl

theorem inputLost_input (s : State) (i : Fin 16) : ((inputLost s i).net.inputs[i]).lost = true ∧
    ((inputLost s i).net.inputs[i]).run = 0 ∧ ((inputLost s i).net.inputs[i]).count = (s.net.inputs[i]).count := by
  simp only [inputLost, modEvt, vMod_getElem_self, and_self]

theorem evtInputLost_of_due {s : State} {i : Fin 16} (hl : s.live = true) (hon : regBit s (evtCfgReg i.val) 31 = true)
    (hexp : (regGet s (evtCfgReg i.val + 4)).toNat ≠ 0) (hlost : (s.net.inputs[i]).lost = false)
    (hdue : (s.net.inputs[i]).lastEdge.getD (s.net.inputs[i]).since + 3 * (regGet s (evtCfgReg i.val + 4)).toNat ≤ s.now) :
    exec (.evtInputLost i) s = .next (endCycle s (ptpEvent (inputLost s i) 8 0x09 .degraded (ctxUnit 11 i.val 0 0))) := by
  rw [exec_evtInputLost, inCore_of_live hl, if_neg]
  simp only [hon, hlost, not_or, not_not, not_lt]
  exact ⟨trivial, hexp, by decide, hdue⟩

/-! ### EVT_READ and TC_JAM (R322, R325) -/

theorem exec_evtRead (p : Party) (s : State) : exec (.evtRead p) s = inCore s fun s =>
    if ¬ mayRead p then s
    else match s.net.evts with
    | [] => capture s p 0x150280 [0, 0, 0, 0]
    | e :: r => capture { s with net := { s.net with evts := r } } p 0x150280
        (packFields [(31, 1), (20, if e.rising then 1 else 0), (16, e.input), (0, e.count)] :: stampWords e.time) := rfl

theorem exec_tcJam (p : Party) (n : Fin 8) (v : Word) (s : State) : exec (.tcJam p n v) s = inCore s fun s =>
    writeBy s p (0x150304 + 0x10 * n.val) fun s =>
      regSet { s with net := { s.net with labels := s.net.labels.set n v } } (0x150304 + 0x10 * n.val) v := rfl

theorem maskOf_tcLabel : ∀ n : Fin 8, maskOf (0x150304 + 0x10 * n.val) = BitVec.allOnes 32 := by decide

theorem evtRead_of_cons {s : State} {p : Party} {e : EvtEntry} {r : List EvtEntry} (hl : s.live = true) (hp : mayRead p = true)
    (hq : s.net.evts = e :: r) : exec (.evtRead p) s = .next (endCycle s (capture { s with net := { s.net with evts := r } } p 0x150280
      (packFields [(31, 1), (20, if e.rising then 1 else 0), (16, e.input), (0, e.count)] :: stampWords e.time))) := by
  rw [exec_evtRead, inCore_of_live hl, if_neg (not_not_intro hp), hq]

theorem evtRead_of_nil {s : State} {p : Party} (hl : s.live = true) (hp : mayRead p = true) (hq : s.net.evts = []) :
    exec (.evtRead p) s = .next (endCycle s (capture s p 0x150280 [0, 0, 0, 0])) := by
  rw [exec_evtRead, inCore_of_live hl, if_neg (not_not_intro hp), hq]

theorem tcJam_of_mayWrite {s : State} {p : Party} {n : Fin 8} {v : Word} (hl : s.live = true)
    (hp : mayWrite p (0x150304 + 0x10 * n.val) = true) : exec (.tcJam p n v) s = .next (endCycle s
      (regSet { s with net := { s.net with labels := s.net.labels.set n v } } (0x150304 + 0x10 * n.val) v)) := by
  rw [exec_tcJam, inCore_of_live hl]
  exact congrArg (fun t => Host.Outcome.next (endCycle s t)) (if_pos hp)

theorem raised_endCycle {s t : State} {b : Blk} {i : Nat} (h : raised t b i) : raised (endCycle s t) b i := by
  obtain ⟨off, hb, hi⟩ := h
  exact ⟨off, hb, by rw [regBit, regGet_endCycle]; exact hi⟩

theorem onlyRegs_endCycle {l : List Nat} {s t : State} (h : onlyRegs l s t) : onlyRegs l s (endCycle s t) := fun j hj ho =>
  (regGet_endCycle s t j).trans (h j hj ho)

/-- Settles O41: each command by what it finds: the edge's direction, pulse and period, the room in the FIFO, the loss due. -/
theorem eventInputsAndTimecodeJam : Obligations.EventInputsAndTimecodeJam := by
  refine ⟨fun s i rising width cfg hl hcfg hon => ⟨fun hw => ?short, fun hw => ⟨fun hdir hexp => ?taken, fun hdir => ?other,
    fun x exp hdir hx he hne hrun hout => ?outlier⟩⟩, fun s i exp hl hon he hne => ⟨fun hlost hdue => ?lost, fun hlost => ?lostBefore⟩,
    fun s q hl hq => ⟨fun e r hcons => ?read, fun hnil => ?readEmpty⟩, fun s q n v hl hq => ?jam⟩
  case short =>
    subst hcfg
    exact ⟨_, eventEdge_ignored (.inr (.inl hw)), onlyChanges_nothing s⟩
  case other =>
    subst hcfg
    exact ⟨_, eventEdge_ignored (.inr (.inr (hdir.elim .inl fun h => .inr (.inl h)))), onlyChanges_nothing s⟩
  case taken =>
    subst hcfg
    obtain ⟨hcount, hedge, hlost⟩ := edgeCounted_input s i
    have hkeeps : ∀ p : Part, p ≠ .net → p.same s (edgeCounted s i) := fun p hp => same_modEvt hp s i.val _
    refine ⟨_, eventEdge_taken hl (not_edgeIgnored hon hw hdir) hexp, ?_, ?_, ?_, fun hroom => ?_, fun hfull => ?_⟩
    · rw [endCycle_net, edgeQueued_inputs, hcount]
    · rw [endCycle_net, edgeQueued_inputs, hedge]
    · rw [endCycle_net, edgeQueued_inputs, hlost]
    · obtain ⟨hstamp, honly⟩ := edgeQueued_of_room (s := edgeCounted s i) hroom i rising (((s.net.inputs[i]).count + 1) % 65536)
      refine ⟨by rw [endCycle_net]; exact hstamp, onlyChanges_endCycle fun p hp _ _ => (hkeeps p ?_).trans (honly p hp)⟩
      rintro rfl; simp at hp
    · rw [edgeQueued_of_full (s := edgeCounted s i) hfull]
      obtain ⟨hcnt, hraised, hregs⟩ := ptpEvent_count_spec (off := 0x150290) (i := 6) (by decide) (by unfold outsideFlt; omega) (by decide)
        (by decide) (edgeCounted s i) 0x07 .degraded (ctxUnit 11 i.val 0 0)
      refine ⟨by simp [ptpEvent]; rfl, (regGet_endCycle _ _ _).trans hcnt, raised_endCycle hraised, onlyRegs_endCycle hregs,
        onlyChanges_endCycle fun p hp _ _ => ?_⟩
      obtain ⟨hnet, hrep⟩ : p ≠ .net ∧ p ∉ reporting := by simpa [List.mem_cons] using hp
      exact (hkeeps p hnet).trans (same_ptpEvent_count hrep _ _ _ _ _ _)
  case outlier =>
    subst hcfg he
    obtain ⟨hcnt, hraised, hregs⟩ := ptpEvent_count_spec (off := 0x150294) (i := 7) (by decide) (by unfold outsideFlt; omega) (by decide)
      (by decide) s 0x08 .info (ctxUnit 11 i.val 0 0)
    exact ⟨_, eventEdge_outlier hl (not_edgeIgnored hon hw (.inl hdir)) hx hne (inWindow_eq_false hrun hout),
      (regGet_endCycle _ _ _).trans hcnt, raised_endCycle hraised, onlyRegs_endCycle hregs,
      onlyChanges_endCycle fun p hp _ _ => same_ptpEvent_count hp _ _ _ _ _ _⟩
  case lost =>
    subst he
    obtain ⟨hl1, hl2, hl3⟩ := inputLost_input s i
    obtain ⟨hraised, hregs, hnet⟩ := ptpEvent_spec (i := 8) (by decide) (inputLost s i) 0x09 .degraded (ctxUnit 11 i.val 0 0)
    refine ⟨_, evtInputLost_of_due hl hon hne hlost hdue, ?_, ?_, ?_, raised_endCycle hraised, onlyRegs_endCycle hregs,
      onlyChanges_endCycle fun p hp _ _ => ?_⟩
    · rw [endCycle_net, hnet, hl1]
    · rw [endCycle_net, hnet, hl2]
    · rw [endCycle_net, hnet, hl3]
    · obtain ⟨hn, hrep⟩ : p ≠ .net ∧ p ∉ reporting := by simpa [List.mem_cons] using hp
      exact (same_modEvt hn s i.val _).trans (same_event hrep _ _ _ _ _ _ _)
  case lostBefore =>
    exact ⟨_, (exec_evtInputLost i s).trans (inCore_of_fixed (if_pos (.inr (.inr (.inl hlost))))), onlyChanges_nothing s⟩
  case read =>
    refine ⟨_, evtRead_of_cons hl hq hcons, ?_, ?_, ?_, ?_, ?_, onlyChanges_endCycle fun p hp _ _ => ?_⟩
    · rw [endCycle_net, capture_net]
    · rw [endCycle_out]; rfl
    · rw [captured_endCycle, captured_capture_self]; simp [stampWords]
    · rw [captured_endCycle, captured_capture_self]; exact BitVec.eq_of_toNat_eq (by simp [stampWords])
    · rw [captured_endCycle, captured_capture_self]; simp [stampWords]
    · cases p
      case net | captures | out => simp at hp
      all_goals rfl
  case readEmpty =>
    refine ⟨_, evtRead_of_nil hl hq hnil, endCycle_out _ _, fun j => ?_, onlyChanges_endCycle fun p hp _ _ => ?_⟩
    · rw [captured_endCycle, captured_capture_self]
      rcases Nat.lt_or_ge ((j - 0x150280) / 4) 4 with h | h
      · interval_cases (j - 0x150280) / 4 <;> rfl
      · rw [List.getElem?_eq_none (by simpa using h)]; rfl
    · obtain ⟨hc, ho⟩ : p ≠ .captures ∧ p ≠ .out := by simpa using hp
      exact same_capture hc ho s q _ _
  case jam =>
    refine ⟨_, tcJam_of_mayWrite hl hq, by simp, ?_, onlyRegs_endCycle fun j hj _ => ?_, onlyChanges_endCycle fun p hp _ _ => ?_⟩
    · rw [regGet_endCycle, regGet_regSet_self, maskOf_tcLabel, BitVec.and_allOnes]
    · rw [regGet_regSet_ne _ _ _ _ (by simpa using hj)]; rfl
    · cases p
      case net | regs => simp at hp
      all_goals rfl

end Sys2Proof.Machine
end

section
/-! Proofs of the statements about the shutter encoder (R37, R49 to R51). -/

namespace Sys2Proof.Machine
open Sys2Proof

/-! ### What a slot's next frame takes its source from -/

theorem expectedTag_congr {s t : State} {n : Fin 8} (hslot : t.ref.slots[n] = s.ref.slots[n]) (hfrm : t.frm = s.frm) (j : Nat) :
    expectedTag t n j = expectedTag s n j := by
  simp only [expectedTag, hslot, hfrm]

/-- The field of a slot's tag that names its source is read from the tag's bank, or from the register in force. -/
theorem sourceNow_congr {s t : State} {n : Fin 8} (hslot : t.ref.slots[n] = s.ref.slots[n]) (hfrm : t.frm = s.frm)
    (hreg : regGet t (slotReg n.val 0) = regGet s (slotReg n.val 0)) : sourceNow t n = sourceNow s n := by
  simp only [sourceNow, expectedTag_congr hslot hfrm, hslot, tagRegs, bankOf, hfrm, cadSource]
  cases (s.frm.banks[n]).reverse.find? fun b => decide (b.forme = expectedTag s n (s.ref.slots[n]).issued) with
  | some b => rfl
  | none => exact congrArg (field · 31 29) hreg

/-- A slot does not have the shutter as its source, in the frame in progress or the next. -/
abbrev offShutter (s : State) (n : Fin 8) : Prop := sourceNow s n ≠ 3 ∧ cadSource (s.ref.slots[n]).cfg n.val ≠ 3

theorem offShutter_congr {s t : State} {n : Fin 8} (hslot : t.ref.slots[n] = s.ref.slots[n]) (hfrm : t.frm = s.frm)
    (hreg : regGet t (slotReg n.val 0) = regGet s (slotReg n.val 0)) (h : offShutter s n) : offShutter t n := by
  unfold offShutter
  rwa [sourceNow_congr hslot hfrm hreg, hslot]

/-! ### Crossings that no slot takes notice of -/

theorem foldl_frets_offShutter {s : State} {n : Fin 8} (h : cadSource (s.ref.slots[n]).cfg n.val ≠ 3) (ps : List Nat) :
    (ps.foldl (fun s p =>
      let c := s.ref.slots[n]
      ((frets c.cfg n).filter fun e => decide (e.kind = 2) && decide (e.key = p) && decide (cadSource c.cfg n = 3)
        && decide (0 < c.issued)).foldl (fun s e => if (s.ref.slots[n]).fired.contains e.idx then s else fire s n e) s) s) = s := by
  refine List.foldl_fixed' (fun p => ?_) ps
  simp only [h, decide_false, Bool.and_false, Bool.false_and, List.filter_false, List.foldl_nil]

theorem crossSlot_of_offShutter {s : State} {n : Fin 8} (h : offShutter s n) (ps : List Nat) : crossSlot s ps n = s := by
  obtain ⟨hsrc, hcfg⟩ := h
  have hreq : shutterRequest s n = s := if_neg fun h => hsrc h.2.1
  unfold crossSlot
  simp only [hreq, ite_self]
  exact foldl_frets_offShutter hcfg _

theorem forSlots_fixed {s : State} {f : State → Fin 8 → State} (h : ∀ n, f s n = s) : forSlots s f = s :=
  List.foldl_fixed' h _

theorem regGet_showPos (s : State) (j : Nat) (h : j ≠ encPosReg) : regGet (showPos s) j = regGet s j := regGet_regSet_ne _ _ _ _ h

theorem slotReg_ne_encPosReg (n o : Nat) : slotReg n o ≠ encPosReg := by unfold slotReg encPosReg; omega

/-- The accepted position stands at `p`, with the revolutions counted so far, and REF.ENC_POS shows both. -/
def positioned (s : State) (p revs : Nat) : State := showPos (modRef s fun r => { r with acc := p, revs := revs })

theorem offShutter_positioned {s : State} {n : Fin 8} (h : offShutter s n) (p revs : Nat) : offShutter (positioned s p revs) n :=
  offShutter_congr (by rfl) (by rfl) (regGet_showPos _ _ (slotReg_ne_encPosReg n.val 0)) h

/-- A move of the accepted position, and the positions that each slot sees crossed on the way forward. -/
theorem moveTo_crossed (s : State) (p : Nat) (d : Int) : ∃ revs, moveTo s p d =
    if crossed (encCpr s) s.ref.acc d.toNat = [] then positioned s p revs
    else forSlots (positioned s p revs) fun t n => crossSlot t (crossed (encCpr s) s.ref.acc d.toNat) n :=
  ⟨(s.ref.revs + (if (crossed (encCpr s) s.ref.acc d.toNat).contains 0 then 1 else 0)
    + (if (crossed (encCpr s) p (-d).toNat).contains 0 then 65535 else 0)) % 65536, rfl⟩

/-- Where no slot has the shutter as its source, a move of the accepted position is a move of the position only. -/
theorem moveTo_of_offShutter {s : State} (h : ∀ n, offShutter s n) (p : Nat) (d : Int) : ∃ revs, moveTo s p d = positioned s p revs := by
  obtain ⟨revs, hmove⟩ := moveTo_crossed s p d
  refine ⟨revs, hmove.trans ?_⟩
  split
  · rfl
  · exact forSlots_fixed fun n => crossSlot_of_offShutter (offShutter_positioned (h n) _ _) _

/-! ### A change of the raw count (R50) -/

theorem rawChange_onward {s : State} (h : ∀ n, offShutter s n)
    (hd : 0 < posDiff (encCpr s) s.ref.raw s.ref.acc * (if s.ref.fwd then 1 else -1)) :
    ∃ revs, rawChange s = positioned s s.ref.raw revs := by
  rw [rawChange]
  simp only [gt_iff_lt, if_pos hd]
  exact moveTo_of_offShutter h _ _

theorem rawChange_turned {s : State} (h : ∀ n, offShutter s n)
    (hd : posDiff (encCpr s) s.ref.raw s.ref.acc * (if s.ref.fwd then 1 else -1) ≤ 0)
    (hh : (encHyst s : Int) ≤ -posDiff (encCpr s) s.ref.raw s.ref.acc * (if s.ref.fwd then 1 else -1)) :
    ∃ revs, rawChange s = positioned (modRef s fun r => { r with fwd := !r.fwd }) s.ref.raw revs := by
  rw [rawChange]
  simp only [gt_iff_lt, if_neg (not_lt.mpr hd), ge_iff_le, if_pos hh]
  exact moveTo_of_offShutter (s := modRef s fun r => { r with fwd := !r.fwd }) h _ _

theorem rawChange_held {s : State} (hd : posDiff (encCpr s) s.ref.raw s.ref.acc * (if s.ref.fwd then 1 else -1) ≤ 0)
    (hh : -posDiff (encCpr s) s.ref.raw s.ref.acc * (if s.ref.fwd then 1 else -1) < (encHyst s : Int)) : rawChange s = s := by
  rw [rawChange]
  simp only [gt_iff_lt, if_neg (not_lt.mpr hd), ge_iff_le, if_neg (not_le.mpr hh)]

/-! ### QUADRATURE_TRANSITION (R49, R50) -/

/-- The sample's levels taken. -/
def sampled (s : State) (a b : Bool) : State := modRef s fun r => { r with encA := a, encB := b }

/-- The raw count one step on. -/
def rawStepped (s : State) (a b : Bool) : State :=
  let step := quadStep s.ref.encA s.ref.encB a b
  let step := if regBit s encCfgReg 31 then -step else step
  modRef (sampled s a b) fun r => { r with raw := (((r.raw : Int) + step) % (encCpr s : Int)).toNat }

theorem exec_quadratureTransition (a b : Bool) (s : State) :
    exec (.quadratureTransition a b) s = inCore s fun s => quadrature s a b := rfl

theorem exec_indexPulse (s : State) : exec .indexPulse s = inCore s indexPulse := rfl

theorem quadrature_idle {s : State} {a b : Bool} (h : regBit s (filtReg 1) 31 = false ∨ (a = s.ref.encA ∧ b = s.ref.encB)) :
    quadrature s a b = s := by
  unfold quadrature
  exact if_pos (h.imp_left fun h => by simp [h])

theorem quadrature_illegal {s : State} {a b : Bool} (hon : regBit s (filtReg 1) 31 = true) (ha : a ≠ s.ref.encA) (hb : b ≠ s.ref.encB) :
    quadrature s a b = count (sampled s a b) 0x4008C := by
  simp [quadrature, hon, ha, hb, sampled]

theorem quadrature_legal {s : State} {a b : Bool} (hon : regBit s (filtReg 1) 31 = true)
    (h : (a ≠ s.ref.encA ∧ b = s.ref.encB) ∨ (a = s.ref.encA ∧ b ≠ s.ref.encB)) : quadrature s a b = rawChange (rawStepped s a b) := by
  unfold quadrature
  dsimp only
  rw [if_neg, if_neg]
  · rfl
  · rcases h with ⟨h, h'⟩ | ⟨h, h'⟩ <;> simp [h, h']
  · rcases h with ⟨h, h'⟩ | ⟨h, h'⟩ <;> simp [h, h', hon]

theorem rawStepped_raw (s : State) (a b : Bool) : (rawStepped s a b).ref.raw = (((s.ref.raw : Int) +
    (if regBit s encCfgReg 31 then -1 else 1) * quadStep s.ref.encA s.ref.encB a b) % (encCpr s : Int)).toNat := by
  unfold rawStepped
  dsimp only
  split <;> simp [modRef, sampled]

theorem same_modRef {p : Part} (h : p ≠ .ref) (s : State) (f : RefBlk → RefBlk) : p.same s (modRef s f) := by
  cases p
  case ref => exact absurd rfl h
  all_goals rfl

theorem same_positioned {p : Part} (h : p ≠ .ref) (h' : p ≠ .regs) (s : State) (q revs : Nat) : p.same s (positioned s q revs) :=
  (same_modRef h s _).trans (same_regSet h' _ _ _)

theorem same_rawStepped {p : Part} (h : p ≠ .ref) (s : State) (a b : Bool) : p.same s (rawStepped s a b) := by
  have hsample : p.same s (sampled s a b) := same_modRef h s _
  have hraw : p.same (sampled s a b) (rawStepped s a b) := by
    unfold rawStepped
    exact same_modRef h _ _
  exact hsample.trans hraw

/-- What a legal sample leaves alone, where no slot has the shutter as its source. -/
theorem rawChange_frame {s : State} (h : ∀ n, offShutter s n) : (rawChange s).ref.raw = s.ref.raw ∧ (rawChange s).ref.encA = s.ref.encA ∧
    (rawChange s).ref.encB = s.ref.encB ∧ (∀ j, j ≠ encPosReg → regGet (rawChange s) j = regGet s j) ∧
    ∀ p : Part, p ∉ [.ref, .regs] → p.same s (rawChange s) := by
  have hpos : ∀ (f : RefBlk → RefBlk) (q revs : Nat), (∀ j, j ≠ encPosReg → regGet (positioned (modRef s f) q revs) j = regGet s j) ∧
      ∀ p : Part, p ∉ [.ref, .regs] → p.same s (positioned (modRef s f) q revs) := fun f q revs =>
    ⟨fun j hj => regGet_showPos _ j hj, fun p hp => by
      obtain ⟨hr, hg⟩ : p ≠ .ref ∧ p ≠ .regs := by simpa using hp
      exact (same_modRef hr s f).trans (same_positioned hr hg _ _ _)⟩
  rcases lt_or_ge 0 (posDiff (encCpr s) s.ref.raw s.ref.acc * (if s.ref.fwd then 1 else -1)) with hd | hd
  · obtain ⟨revs, hc⟩ := rawChange_onward h hd
    rw [hc]
    exact ⟨rfl, rfl, rfl, hpos id s.ref.raw revs⟩
  · rcases le_or_gt (encHyst s : Int) (-posDiff (encCpr s) s.ref.raw s.ref.acc * (if s.ref.fwd then 1 else -1)) with hh | hh
    · obtain ⟨revs, hc⟩ := rawChange_turned h hd hh
      rw [hc]
      exact ⟨rfl, rfl, rfl, hpos _ s.ref.raw revs⟩
    · rw [rawChange_held hd hh]
      exact ⟨rfl, rfl, rfl, fun _ _ => rfl, fun p _ => .refl p s⟩

/-- Settles O16: by what a sample changes of the one before it: both levels, one, or none. -/
theorem illegalEncoderTransitionsAreCounted : Obligations.IllegalEncoderTransitionsAreCounted := by
  refine ⟨fun s a b hl hon ha hb => ?illegal, fun s a b hl hon hab hoff => ?legal, fun s a b hdis => ?disabled⟩
  case illegal =>
    refine ⟨endCycle s (count (sampled s a b) 0x4008C), ?_, by rw [endCycle_ref]; rfl, ?_, onlyRegs_endCycle fun j hj _ => ?_,
      onlyChanges_endCycle fun p hp _ _ => ?_⟩
    · rw [exec_quadratureTransition, inCore_of_live hl, quadrature_illegal hon ha hb]
    · rw [regGet_endCycle, regGet_count_self (by decide)]; rfl
    · exact regGet_count_ne _ _ _ (by simpa using hj)
    · obtain ⟨hr, hg⟩ : p ≠ .ref ∧ p ≠ .regs := by simpa using hp
      exact (same_modRef hr s _).trans (same_count hg _ _)
  case legal =>
    by_cases hsame : a = s.ref.encA ∧ b = s.ref.encB
    · refine ⟨_, (exec_quadratureTransition a b s).trans (inCore_of_fixed (quadrature_idle (.inr hsame))), ?_, ?_, by simp⟩
      · simp [hsame]
      · simp [hsame]
    · obtain ⟨-, hA, hB, hregs, -⟩ := rawChange_frame (s := rawStepped s a b) hoff
      refine ⟨endCycle s (rawChange (rawStepped s a b)), ?_, ?_, ?_, ?_⟩
      · rw [exec_quadratureTransition, inCore_of_live hl, quadrature_legal hon (by tauto)]
      · rw [endCycle_ref, hA]; rfl
      · rw [endCycle_ref, hB]; rfl
      · rw [regGet_endCycle, hregs _ (by decide)]; rfl
  case disabled => exact ⟨_, (exec_quadratureTransition a b s).trans (inCore_of_fixed (quadrature_idle (.inl hdis))), onlyChanges_nothing s⟩

/-- A legal sample over its whole cycle (R50), where no slot has the shutter as its source. -/
theorem quadratureTransition_legal {s : State} {a b : Bool} {step d dir : Int} {r : Nat} (hl : s.live = true)
    (hon : regBit s (filtReg 1) 31 = true) (hab : (a ≠ s.ref.encA ∧ b = s.ref.encB) ∨ (a = s.ref.encA ∧ b ≠ s.ref.encB))
    (hoff : ∀ n, offShutter s n) (hstep : step = (if regBit s encCfgReg 31 then -1 else 1) * quadStep s.ref.encA s.ref.encB a b)
    (hr : r = (((s.ref.raw : Int) + step) % (encCpr s : Int)).toNat) (hd : d = posDiff (encCpr s) r s.ref.acc)
    (hdir : dir = (if s.ref.fwd then 1 else -1)) :
    ∃ t, exec (.quadratureTransition a b) s = .next t ∧ t.ref.raw = r ∧ t.ref.encA = a ∧ t.ref.encB = b ∧
      (0 < d * dir → t.ref.acc = r ∧ t.ref.fwd = s.ref.fwd) ∧
      (d * dir ≤ 0 → (encHyst s : Int) ≤ -d * dir → t.ref.acc = r ∧ t.ref.fwd = !s.ref.fwd) ∧
      (d * dir ≤ 0 → -d * dir < (encHyst s : Int) → t.ref.acc = s.ref.acc ∧ t.ref.fwd = s.ref.fwd ∧ onlyChanges [.ref] s t) ∧
      onlyRegs [encPosReg] s t ∧ onlyChanges [.ref, .regs] s t := by
  have hraw : (rawStepped s a b).ref.raw = r := by rw [rawStepped_raw, hr, hstep]
  have hdiff : posDiff (encCpr (rawStepped s a b)) (rawStepped s a b).ref.raw (rawStepped s a b).ref.acc = d := by rw [hraw, hd]; rfl
  have hfwd : (if (rawStepped s a b).ref.fwd then 1 else -1) = dir := hdir.symm
  obtain ⟨hR, hA, hB, hregs, honly⟩ := rawChange_frame (s := rawStepped s a b) hoff
  have hexec : exec (.quadratureTransition a b) s = .next (endCycle s (rawChange (rawStepped s a b))) := by
    rw [exec_quadratureTransition, inCore_of_live hl, quadrature_legal hon hab]
  refine ⟨_, hexec, ?_, ?_, ?_, fun hpos => ?_, fun hneg hh => ?_, fun hneg hh => ?_, onlyRegs_endCycle fun j hj _ => ?_,
    onlyChanges_endCycle fun p hp _ _ => ?_⟩
  · rw [endCycle_ref, hR, hraw]
  · rw [endCycle_ref, hA]; rfl
  · rw [endCycle_ref, hB]; rfl
  · obtain ⟨revs, hc⟩ := rawChange_onward (s := rawStepped s a b) hoff (by rwa [hdiff, hfwd])
    rw [endCycle_ref, hc]
    exact ⟨hraw, rfl⟩
  · obtain ⟨revs, hc⟩ := rawChange_turned (s := rawStepped s a b) hoff (by rwa [hdiff, hfwd]) (by rwa [hdiff, hfwd])
    rw [endCycle_ref, hc]
    exact ⟨hraw, rfl⟩
  · have hc := rawChange_held (s := rawStepped s a b) (by rwa [hdiff, hfwd]) (by rwa [hdiff, hfwd])
    rw [endCycle_ref, hc]
    exact ⟨rfl, rfl, onlyChanges_endCycle fun p hp _ _ => same_rawStepped (by simpa using hp) s a b⟩
  · exact hregs j (by simpa using hj)
  · obtain ⟨hr, hg⟩ : p ≠ .ref ∧ p ≠ .regs := by simpa using hp
    exact (same_rawStepped hr s a b).trans (honly p (by simpa using hp))

/-! ### INDEX_PULSE (R51) -/

/-- The distance of the raw count from the index. -/
abbrev indexDist (s : State) : Nat := min s.ref.raw (encCpr s - s.ref.raw)

/-- What an index pulse counts: an adjustment of 1 to 8 counts, or a mismatch beyond. -/
def indexCounted (s : State) : State :=
  if indexDist s = 0 then s
  else if indexDist s ≤ 8 then count s 0x40090
  else refEvent (count s 0x40094) 6 0x04 .degraded 1

theorem indexPulse_idle {s : State} (h : s.ref.fwd = false) : indexPulse s = s := if_pos (.inr h)

theorem indexCounted_of_adjusted {s : State} (h1 : 1 ≤ indexDist s) (h8 : indexDist s ≤ 8) : indexCounted s = count s 0x40090 := by
  rw [indexCounted, if_neg (by omega), if_pos h8]

theorem indexCounted_of_mismatch {s : State} (h : 8 < indexDist s) :
    indexCounted s = refEvent (count s 0x40094) 6 0x04 .degraded 1 := by
  rw [indexCounted, if_neg (by omega), if_neg (by omega)]

theorem indexCounted_ref (s : State) : (indexCounted s).ref = s.ref := by
  unfold indexCounted
  split
  · rfl
  · split <;> simp [refEvent]

theorem indexCounted_frm (s : State) : (indexCounted s).frm = s.frm := by
  unfold indexCounted
  split
  · rfl
  · split <;> simp [refEvent]

theorem regGet_indexCounted {s : State} {j : Nat} (ho : outsideFlt j) (h : j ∉ [0x40090, 0x40094, 0x40040]) :
    regGet (indexCounted s) j = regGet s j := by
  simp only [List.mem_cons, List.not_mem_nil, or_false, not_or] at h
  obtain ⟨h1, h2, h3⟩ := h
  unfold indexCounted
  split
  · rfl
  · split
    · exact regGet_count_ne _ _ _ h1
    · rw [refEvent, regGet_event _ _ _ _ _ _ _ _ ho (by simpa [Blk.events, eq_comm] using h3), regGet_count_ne _ _ _ h2]

/-- Going forward the pulse makes both positions 0, where no slot has the shutter as its source. -/
theorem indexPulse_forward {s : State} (hon : regBit s (filtReg 1) 31 = true) (hf : s.ref.fwd = true) (hoff : ∀ n, offShutter s n) :
    ∃ revs, indexPulse s = positioned (modRef (indexCounted s) fun r => { r with raw := 0 }) 0 revs := by
  have hoff' : ∀ n, offShutter (modRef (indexCounted s) fun r => { r with raw := 0 }) n := fun n =>
    offShutter_congr (by simp only [modRef, indexCounted_ref]) (indexCounted_frm s)
      (regGet_indexCounted (by unfold outsideFlt slotReg; omega) (by simp [slotReg]; omega)) (hoff n)
  have hp : indexPulse s =
      if posDiff (encCpr s) 0 (indexCounted s).ref.acc > 0 then
        moveTo (modRef (indexCounted s) fun r => { r with raw := 0 }) 0 (posDiff (encCpr s) 0 (indexCounted s).ref.acc)
      else showPos (modRef (modRef (indexCounted s) fun r => { r with raw := 0 }) fun r => { r with acc := 0 }) := by
    unfold indexPulse
    rw [if_neg (by simp [hon, hf])]
    rfl
  rw [hp]
  split
  · exact moveTo_of_offShutter hoff' _ _
  · exact ⟨_, rfl⟩

/-- An index pulse going forward over its whole cycle (R51). -/
theorem indexPulse_spec {s : State} (hl : s.live = true) (hon : regBit s (filtReg 1) 31 = true) (hf : s.ref.fwd = true)
    (hoff : ∀ n, offShutter s n) : ∃ t, exec .indexPulse s = .next t ∧ t.ref.raw = 0 ∧ t.ref.acc = 0 ∧
      (1 ≤ min s.ref.raw (encCpr s - s.ref.raw) → min s.ref.raw (encCpr s - s.ref.raw) ≤ 8 →
        regGet t 0x40090 = satInc (regGet s 0x40090) ∧ regGet t 0x40094 = regGet s 0x40094) ∧
      (8 < min s.ref.raw (encCpr s - s.ref.raw) →
        regGet t 0x40094 = satInc (regGet s 0x40094) ∧ regGet t 0x40090 = regGet s 0x40090 ∧ raised t .ref 6) := by
  obtain ⟨revs, hp⟩ := indexPulse_forward hon hf hoff
  have hreg : ∀ j, j ≠ encPosReg →
      regGet (endCycle s (positioned (modRef (indexCounted s) fun r => { r with raw := 0 }) 0 revs)) j = regGet (indexCounted s) j :=
    fun j hj => (regGet_endCycle _ _ _).trans (regGet_showPos _ j hj)
  refine ⟨_, by rw [exec_indexPulse, inCore_of_live hl, hp], by rw [endCycle_ref]; rfl, by rw [endCycle_ref]; rfl, fun h1 h8 => ?_, fun h => ?_⟩
  · rw [hreg _ (by decide), hreg _ (by decide), indexCounted_of_adjusted h1 h8]
    exact ⟨regGet_count_self (by decide) s, regGet_count_ne _ _ _ (by decide)⟩
  · have ho : ∀ j, j < 0x40100 → outsideFlt j := fun j hj => by unfold outsideFlt; omega
    obtain ⟨off, hev, hbit⟩ := raised_event (b := .ref) (i := 6) rfl (ho 0x40040 (by decide)) (by decide) (count s 0x40094) 0x04 .degraded
      (ctxUnit 10 1 0 0) 0
    cases hev
    refine ⟨?_, ?_, _, rfl, ?_⟩
    · rw [hreg _ (by decide), indexCounted_of_mismatch h, refEvent,
        regGet_event _ _ _ _ _ _ _ _ (ho _ (by decide)) (by decide), regGet_count_self (by decide)]
    · rw [hreg _ (by decide), indexCounted_of_mismatch h, refEvent,
        regGet_event _ _ _ _ _ _ _ _ (ho _ (by decide)) (by decide), regGet_count_ne _ _ _ (by decide)]
    · rw [regBit, hreg _ (by decide), indexCounted_of_mismatch h]
      exact hbit

end Sys2Proof.Machine
end

section
/-! Proofs of the statements about frame starts (R32, R34, R37, R42, R106). -/

namespace Sys2Proof.Machine
open Sys2Proof

/-! ### Outputs stay put out -/

theorem out_msixSend (s : State) (fn vec : Nat) : s.out <:+ (msixSend s fn vec).out := by
  unfold msixSend
  split
  · exact List.suffix_rfl
  · exact List.suffix_cons _ _

theorem out_sourceEdge (s : State) (i : Nat) : s.out <:+ (sourceEdge s i).out := by
  unfold sourceEdge
  split
  · dsimp only
    split <;> split
    · exact out_msixSend (regSet (count s mergedReg) _ _) 0 0
    · exact out_msixSend (regSet (regSet s _ _) _ _) 0 0
    · exact List.suffix_rfl
    · exact List.suffix_rfl
  · exact List.suffix_rfl

theorem out_raise (s : State) (b : Blk) (i : Nat) : s.out <:+ (raise s b i).out := by
  unfold raise
  cases b.events with
  | none => exact out_sourceEdge s _
  | some off => exact out_sourceEdge (regSet s off _) _

theorem out_enqueueRec (s : State) (r : ErrRec) : s.out <:+ (enqueueRec s r).out := by
  unfold enqueueRec
  dsimp only
  split
  · exact out_raise { s with flt := { s.flt with queue := s.flt.queue ++ [r] } } .flt 0
  · exact List.suffix_rfl

theorem out_overflow (s : State) : s.out <:+ (overflow s).out := by
  unfold overflow
  split
  · exact List.suffix_rfl
  · dsimp only
    refine List.IsSuffix.trans ?_ (out_raise _ .flt 1)
    split
    · refine List.IsSuffix.trans ?_ (out_enqueueRec _ _)
      simp [List.suffix_rfl]
    · simp [List.suffix_rfl]

theorem out_record (s : State) (tag code : Nat) (sev : Severity) (ctx : Ctx) (status : Nat) :
    s.out <:+ (record s tag code sev ctx status).out := by
  unfold record
  dsimp only
  split
  · simp [List.suffix_rfl]
  · split <;> split
    · exact List.IsSuffix.trans (by simp [List.suffix_rfl]) (out_enqueueRec _ _)
    · exact List.IsSuffix.trans (by simp [List.suffix_rfl]) (out_overflow _)
    · exact List.IsSuffix.trans (by simp [List.suffix_rfl]) (out_enqueueRec _ _)
    · exact List.IsSuffix.trans (by simp [List.suffix_rfl]) (out_overflow _)

theorem out_event (s : State) (b : Blk) (i code : Nat) (sev : Severity) (ctx : Ctx) (status : Nat) :
    s.out <:+ (event s b i code sev ctx status).out :=
  (out_record s b.tag code sev ctx status).trans (out_raise _ b i)

/-! ### What a frame start leaves as it is until the command goes out -/

/-- The registers that a frame start reads and that nothing it does on the way changes: the slots' sources, the links' configurations and
delays, and the declared exposure-start offsets. -/
def startReg (j : Nat) : Prop :=
  (∃ m : Fin 8, j = slotReg m.val 0) ∨ (0x50000 ≤ j ∧ j < 0x50400) ∨ ∃ m : Fin 8, j = capReg m.val 7

theorem startReg_range {j : Nat} (h : startReg j) : 0x40100 ≤ j ∧ j < 0x62000 := by
  rcases h with ⟨m, rfl⟩ | h | ⟨m, rfl⟩
  · unfold slotReg; omega
  · omega
  · unfold capReg; omega

theorem startReg.outside {j : Nat} (h : startReg j) : outsideFlt j := by
  have := startReg_range h
  unfold outsideFlt
  omega

/-- A step on the way to a frame start of slot `n`: it fixes periods of the slot's frames, and of what a frame start has still to read or
has left it changes nothing. -/
structure Aside (n : Fin 8) (s t : State) : Prop where
  others : ∀ m, m ≠ n → t.ref.slots[m] = s.ref.slots[m]
  slot : ∃ fixed last, t.ref.slots[n] = { s.ref.slots[n] with fixed := fixed, lastPeriod := last }
  frames : t.ing.frames = s.ing.frames
  frm : t.frm = s.frm
  lnk : t.lnk = s.lnk
  now : t.now = s.now
  ptp : ptpTime t = ptpTime s
  regs : ∀ j, startReg j → regGet t j = regGet s j
  out : s.out <:+ t.out

theorem Aside.refl (n : Fin 8) (s : State) : Aside n s s :=
  ⟨fun _ _ => rfl, ⟨_, _, rfl⟩, rfl, rfl, rfl, rfl, rfl, fun _ _ => rfl, List.suffix_rfl⟩

theorem Aside.trans {n : Fin 8} {s t u : State} (h : Aside n s t) (h' : Aside n t u) : Aside n s u where
  others m hm := (h'.others m hm).trans (h.others m hm)
  slot := by
    obtain ⟨fixed, last, hc⟩ := h.slot
    obtain ⟨fixed', last', hc'⟩ := h'.slot
    exact ⟨fixed', last', by rw [hc', hc]⟩
  frames := h'.frames.trans h.frames
  frm := h'.frm.trans h.frm
  lnk := h'.lnk.trans h.lnk
  now := h'.now.trans h.now
  ptp := h'.ptp.trans h.ptp
  regs := fun _ hj => (h'.regs _ hj).trans (h.regs _ hj)
  out := h.out.trans h'.out

/-- A change of a block that a frame start does not read is aside. -/
theorem Aside.of_eq {n : Fin 8} {s t : State} (href : t.ref = s.ref) (hf : t.ing.frames = s.ing.frames) (hfrm : t.frm = s.frm)
    (hlnk : t.lnk = s.lnk) (hnow : t.now = s.now) (hptp : ptpTime t = ptpTime s) (hregs : ∀ j, startReg j → regGet t j = regGet s j)
    (hout : s.out <:+ t.out) : Aside n s t :=
  ⟨fun _ _ => by rw [href], ⟨_, _, by rw [href]⟩, hf, hfrm, hlnk, hnow, hptp, hregs, hout⟩

theorem ptpTime_congr {s t : State} (hnet : t.net.stepped = s.net.stepped) (hnow : t.now = s.now) (hptp : t.ptpNow = s.ptpNow) :
    ptpTime t = ptpTime s := by
  simp only [ptpTime, hnet, hnow, hptp]

theorem aside_regSet {off : Nat} (n : Fin 8) (h : ¬ startReg off) (s : State) (v : Word) : Aside n s (regSet s off v) :=
  .of_eq rfl rfl rfl rfl rfl rfl (fun _ hj => regGet_regSet_ne _ _ _ _ fun e => h (e ▸ hj)) List.suffix_rfl

theorem aside_event {b : Blk} {off : Nat} (n : Fin 8) (hb : b.events = some off) (h : ¬ startReg off) (s : State) (i code : Nat)
    (sev : Severity) (ctx : Ctx) (status : Nat) : Aside n s (event s b i code sev ctx status) :=
  .of_eq (by simp) (by simp) (by simp) (by simp) (by simp) (ptpTime_congr (by simp) (by simp) (by simp))
    (fun j hj => regGet_event _ _ _ _ _ _ _ _ hj.outside (by rw [hb]; rintro ⟨⟩; exact h hj)) (out_event ..)

theorem aside_gal (n : Fin 8) (s : State) (g : GalBlk) : Aside n s { s with gal := g } :=
  .of_eq rfl rfl rfl rfl rfl rfl (fun _ _ => rfl) List.suffix_rfl

theorem aside_modAud (n : Fin 8) (s : State) (a : Nat) (f : AudPort → AudPort) : Aside n s (modAud s a f) :=
  .of_eq rfl rfl rfl rfl rfl rfl (fun _ _ => rfl) List.suffix_rfl

theorem aside_dsp (n : Fin 8) (s : State) (d : DspBlk) : Aside n s { s with dsp := d } :=
  .of_eq rfl rfl rfl rfl rfl rfl (fun _ _ => rfl) List.suffix_rfl

theorem aside_free (n : Fin 8) (s : State) (k : Nat) : Aside n s { s with free := k } :=
  .of_eq rfl rfl rfl rfl rfl rfl (fun _ _ => rfl) List.suffix_rfl

/-- A fold of steps that are aside is aside. -/
theorem aside_foldl {α : Type} {n : Fin 8} {f : State → α → State} (h : ∀ s a, Aside n s (f s a)) (l : List α) (s : State) :
    Aside n s (l.foldl f s) := by
  induction l generalizing s with
  | nil => exact .refl n s
  | cons a l ih => exact (h s a).trans (ih (f s a))

/-- The registers outside those ranges are no registers that a frame start reads. -/
theorem not_startReg {j : Nat} (h : j < 0x40100 ∨ 0x62000 ≤ j) : ¬ startReg j := fun hj => by
  have := startReg_range hj
  omega

theorem Aside.ite {n : Fin 8} {s t u : State} {p : Prop} [Decidable p] (ht : Aside n s t) (hu : Aside n s u) :
    Aside n s (if p then t else u) := by
  split
  · exact ht
  · exact hu

theorem vMod_getElem_ne {α : Type} {k : Nat} (v : Vector α k) {i m : Fin k} (h : m ≠ i) (f : α → α) : (vMod v i.val f)[m] = v[m] := by
  have hne : i.val ≠ m.val := fun e => h (Fin.ext e.symm)
  simp [vMod, hne]

/-! ### Periods, the record and the galley -/

theorem aside_fixOne (s : State) (n : Fin 8) : Aside n s (fixOne s n) := by
  refine ⟨fun m hm => ?_, ⟨_, _, vMod_getElem_self _ n _⟩, rfl, rfl, rfl, rfl, rfl, fun _ _ => rfl, List.suffix_rfl⟩
  exact vMod_getElem_ne _ hm _

theorem aside_fixMore (k : Nat) (s : State) (n : Fin 8) : Aside n s (fixMore k s n) := by
  induction k generalizing s with
  | zero => exact .refl n s
  | succ k ih => exact (aside_fixOne s n).trans (ih (fixOne s n))

theorem aside_fixUpTo (s : State) (n : Fin 8) (j : Nat) : Aside n s (fixUpTo s n j) := aside_fixMore _ s n

theorem aside_countUnfired (s : State) (n : Fin 8) : Aside n s (countUnfired s n) := by
  unfold countUnfired
  exact .ite (.refl n s) (aside_regSet n (not_startReg (by unfold unfiredReg; omega)) s _)

theorem aside_timecode (s : State) (n : Fin 8) (ptp : Nat) : Aside n s (timecode s n ptp).2 := by
  have hev : Aside n s (event s .ptp 9 0x0A .degraded (ctxUnit 1 n 0 0) 0) :=
    aside_event n (off := 0x150400) rfl (not_startReg (by decide)) s _ _ _ _ _
  unfold timecode
  dsimp only
  split
  · exact hev
  · split
    · exact hev
    · split
      · exact .of_eq rfl rfl rfl rfl rfl rfl (fun _ _ => rfl) List.suffix_rfl
      · exact .refl n s

theorem aside_latchRatio (s : State) (n m : Fin 8) : Aside n s (latchRatio s m).2.2 := by
  have hratio : ∀ r, Aside n s (setRatio s m.val r) := fun r => aside_regSet n (not_startReg (by unfold ratioReg; omega)) s _
  have hs : Aside n s (if inTake s m.val ∧ regBit s 0xD0000 31 then s else setRatio s m.val (field (trbRatio s.regs m.val) 15 0)) :=
    .ite (.refl n s) (hratio _)
  exact hs.trans (aside_gal n _ _)

theorem aside_galEvent (n : Fin 8) (s : State) (i code : Nat) (sev : Severity) (slot : Nat) (ord : Word) :
    Aside n s (galEvent s i code sev slot ord) := aside_event n (off := 0xD0050) rfl (not_startReg (by decide)) s _ _ _ _ _

theorem aside_trimPreRec (n : Fin 8) (k : Nat) (s : State) (units : Nat) (b : Bool) : Aside n s (trimPreRec k s units b).1 := by
  induction k generalizing s b with
  | zero => exact .refl n s
  | succ k ih =>
    unfold trimPreRec
    split
    · exact .refl n s
    · split
      · exact (aside_gal n s _).trans (ih _ _)
      · exact .refl n s

theorem aside_reserveGal (n : Fin 8) (s : State) (k : GalKind) (ord : Word) (bytes slot : Nat) :
    Aside n s (reserveGal s k ord bytes slot).2 := by
  have htrim := aside_trimPreRec n (s.gal.items.length + 1) s (units4k bytes) false
  unfold reserveGal
  extract_lets units
  generalize trimPreRec (s.gal.items.length + 1) s (units4k bytes) false = p at htrim ⊢
  split
  rename_i s1 trimmed
  extract_lets s2
  have hev : Aside n s s2 := .ite (htrim.trans (aside_galEvent ..)) htrim
  split
  · exact hev.trans (aside_gal n _ _)
  · exact hev

theorem aside_reserveFrame (s : State) (n : Fin 8) (ord : Word) (m : SMap Word) (ratio : Nat) :
    Aside n s (reserveFrame s n ord m ratio).2 := by
  unfold reserveFrame
  split
  · exact .refl n s
  · extract_lets merge target cap
    have hres := aside_reserveGal n s (.frame n) ord cap n
    split
    · rename_i h
      rwa [h] at hres
    · rename_i h
      rw [h] at hres
      exact hres.trans ((aside_regSet n (not_startReg (by decide)) _ _).trans (aside_galEvent ..))

theorem aside_noteGeom (s : State) (n : Fin 8) (j : Nat) : Aside n s (noteGeom s n j) := by
  unfold noteGeom
  dsimp only
  exact .ite (.refl n s) (.of_eq rfl rfl rfl rfl rfl rfl (fun _ _ => rfl) List.suffix_rfl)

theorem not_startReg_ingReg {n o : Nat} (h : o = 0xC ∨ o = 0x10) : ¬ startReg (ingReg n o) := by
  rintro (⟨m, hm⟩ | hm | ⟨m, hm⟩)
  · unfold ingReg slotReg at hm; omega
  · unfold ingReg at hm; omega
  · unfold ingReg capReg at hm; omega

theorem aside_showCurrent (s : State) (n : Fin 8) : Aside n s (showCurrent s n) := by
  unfold showCurrent
  split
  · exact (aside_regSet n (not_startReg_ingReg (.inl rfl)) s _).trans (aside_regSet n (not_startReg_ingReg (.inr rfl)) _ _)
  · exact aside_regSet n (not_startReg_ingReg (.inr rfl)) s _

/-! ### What follows the command -/

theorem aside_loseItem (n : Fin 8) (s : State) (i : GalItem) : Aside n s (loseItem s i) := by
  have hrec : ∀ ctx, Aside n s (record s 0x0F 0x0F .itemFailed ctx 0) := fun ctx =>
    .of_eq (by simp) (by simp) (by simp) (by simp) (by simp) (ptpTime_congr (by simp) (by simp) (by simp))
      (fun j hj => regGet_record _ _ _ _ _ _ _ hj.outside) (out_record ..)
  unfold loseItem
  extract_lets slot u
  have hu : Aside n s u := .ite (.refl n s) (hrec _)
  exact hu.trans (aside_gal n _ _)

theorem aside_syncWait (n : Fin 8) (s : State) : Aside n s (syncWait s) := by
  have hlose : Aside n s (loseStuck s) := .ite (aside_foldl (aside_loseItem n) _ s) (.refl n s)
  unfold syncWait
  extract_lets u waits
  have hu : Aside n s u := hlose
  split
  · exact hu.trans (aside_gal n _ _)
  · exact hu.trans (aside_gal n _ _)
  · exact hu

theorem aside_formUnit (n : Fin 8) (s : State) (a : Nat) (u : AudSet) (l : List AudBlock) : Aside n s (formUnit s a u l) := by
  unfold formUnit
  split
  · exact (aside_gal n s _).trans ((aside_gal n _ _).trans (aside_syncWait n _))
  · exact aside_gal n s _
  · exact .refl n s

theorem aside_formLast (n : Fin 8) (k : Nat) (s : State) (a : Fin 8) : Aside n s (formLast k s a) := by
  induction k generalizing s with
  | zero => exact .refl n s
  | succ k ih =>
    unfold formLast
    extract_lets x
    split
    · exact aside_modAud n s _ _
    · exact (aside_formUnit n s ..).trans ((aside_modAud n _ _ _).trans (ih _))

theorem aside_addGap (n : Fin 8) (s : State) (k : GalKind) (ord : Word) (take : Option Nat) (fr : Option FrameRec) :
    Aside n s (addGap s k ord take fr) := .ite (.refl n s) ((aside_gal n s _).trans (aside_gal n _ _))

theorem aside_audFrameSet (n : Fin 8) (s : State) (slot : Nat) (ord : Word) (per : ℚ) : Aside n s (audFrameSet s slot ord per) := by
  refine aside_foldl (fun s a => ?_) _ s
  extract_lets x take count
  split
  · exact aside_formLast n _ s a
  · clear_value take
    split
    rename_i item u hp
    have htake : Aside n s u := by
      cases take with
      | none => cases hp; exact .refl n s
      | some k =>
        have hres := aside_reserveGal n s (.stream (0xC0 + a.val) slot) ord (32 + 544 * (count + 2)) slot
        rwa [show reserveGal s (.stream (0xC0 + a.val) slot) ord (32 + 544 * (count + 2)) slot = (item, u) from hp] at hres
    have hev : ∀ v : State, Aside n v (audEvent v 5 0x06 .itemFailed a.val ord.toNat) := fun v =>
      aside_event n (off := 0x161000) rfl (not_startReg (by decide)) v _ _ _ _ _
    exact (htake.trans (.ite ((hev _).trans (aside_addGap n _ _ _ _ _)) (.refl n _))).trans (aside_modAud n _ _ _)

theorem aside_headsRefEdge (n : Fin 8) (s : State) (src slot : Nat) : Aside n s (headsRefEdge s src slot) := aside_dsp n s _

theorem aside_setHeadSt (n : Fin 8) (s : State) (h : Fin 6) (st : HeadSt) : Aside n s (setHeadSt s h.val st) :=
  (aside_dsp n s _).trans (aside_regSet n (not_startReg (by unfold headReg; omega)) _ _)

theorem aside_headOffRange (n : Fin 8) (s : State) (h : Fin 6) : Aside n s (headOffRange s h) := by
  unfold headOffRange
  split
  · exact .refl n s
  · extract_lets heads
    exact (aside_dsp n s _).trans ((aside_setHeadSt n _ h _).trans
      (aside_event n (off := 0x128040) rfl (not_startReg (by decide)) _ _ _ _ _ _))

theorem aside_headsRange (n : Fin 8) (s : State) (src slot : Nat) : Aside n s (headsRange s src slot) :=
  aside_foldl (fun s h => .ite (aside_headOffRange n s h) (.refl n s)) _ s

theorem Aside.issued {n : Fin 8} {s t : State} (h : Aside n s t) : (t.ref.slots[n]).issued = (s.ref.slots[n]).issued := by
  obtain ⟨_, _, hc⟩ := h.slot
  rw [hc]

theorem Aside.missed {n : Fin 8} {s t : State} (h : Aside n s t) : (t.ref.slots[n]).missed = (s.ref.slots[n]).missed := by
  obtain ⟨_, _, hc⟩ := h.slot
  rw [hc]

/-! ### The command (R32, R106) -/

theorem slotLink_congr {s t : State} (h : ∀ j, startReg j → regGet t j = regGet s j) (n : Nat) : slotLink t n = slotLink s n := by
  have hreg : ∀ (k : Fin 4) (o : Nat), o < 0x100 → regGet t (lkReg k.val o) = regGet s (lkReg k.val o) := fun k o ho =>
    h _ (.inr (.inl (by unfold lkReg; omega)))
  have hfind : (fun k : Fin 4 => linkOn t k && regBit t (lkReg k 8) n) = fun k : Fin 4 => linkOn s k && regBit s (lkReg k 8) n := by
    funext k
    simp only [linkOn, regBit, hreg k 0 (by decide), hreg k 8 (by decide)]
  have hmap : (fun k : Fin 4 => (k, popBelow (regGet t (lkReg k 8)) n)) = fun k : Fin 4 => (k, popBelow (regGet s (lkReg k 8)) n) := by
    funext k
    rw [hreg k 8 (by decide)]
  simp only [slotLink, hfind, hmap]

theorem startDelay_congr {s t : State} {n : Fin 8} (h : ∀ j, startReg j → regGet t j = regGet s j)
    (hd : (t.ref.slots[n]).bcDelay = (s.ref.slots[n]).bcDelay) (l : Fin 4) : startDelay t l.val n = startDelay s l.val n := by
  have hreg : regGet t (lkReg l.val 0xC) = regGet s (lkReg l.val 0xC) := h _ (.inr (.inl (by unfold lkReg; omega)))
  unfold startDelay regBit
  rw [hreg, hd]

/-- The block that starts a frame, as it goes out on the slot's link. -/
def startCommand (s : State) (n : Fin 8) (l : Fin 4) (stream : Nat) (ord : Word) : Bc :=
  .frameStart stream ((s.lnk.links[l]).tx.frameStartAt s.now (startDelay s l n)).2 ord

theorem startCommand_congr {s t : State} {n : Fin 8} (h : Aside n s t) (l : Fin 4) (stream : Nat) (ord : Word) :
    startCommand t n l stream ord = startCommand s n l stream ord := by
  obtain ⟨fixed, last, hslot⟩ := h.slot
  simp only [startCommand, h.lnk, h.now, startDelay_congr h.regs (by rw [hslot]) l]

/-- The command goes out on the slot's link, and changes only that link's transmitter. -/
theorem sendFrameStart_of_link {s : State} {n : Fin 8} {l : Fin 4} {stream : Nat} (h : slotLink s n.val = some (l, stream)) (ord : Word) :
    (sendFrameStart s n ord).ref = s.ref ∧ (sendFrameStart s n ord).ing = s.ing ∧ (sendFrameStart s n ord).frm = s.frm ∧
      (sendFrameStart s n ord).now = s.now ∧ (sendFrameStart s n ord).regs = s.regs ∧
      .bc l (startCommand s n l stream ord) ∈ (sendFrameStart s n ord).out := by
  unfold sendFrameStart
  rw [h]
  exact ⟨rfl, rfl, rfl, rfl, rfl, List.mem_cons_self⟩

/-! ### The frame start (R32) -/

/-- Bit 8 of a frame's STATUS, among those that its start sets (R23). -/
theorem bit_packFields_eight (a b d : Nat) (ha : a ≤ 1) (hb : b ≤ 1) (hd : d ≤ 1) (m : Bool) :
    bit (packFields [(6, a), (7, b), (8, if m then 1 else 0), (10, d)]) 8 = m := by
  interval_cases a <;> interval_cases b <;> interval_cases d <;> cases m <;> rfl

theorem slot_modCad_ne (s : State) {n m : Fin 8} (h : m ≠ n) (f : Cad → Cad) : (modCad s n.val f).ref.slots[m] = s.ref.slots[m] :=
  vMod_getElem_ne _ h f

/-- What the start of a frame of slot `n`, on a stream of link `l`, leaves. -/
structure FrameStarted (n : Fin 8) (l : Fin 4) (stream : Nat) (s t : State) : Prop where
  issued : (t.ref.slots[n]).issued = (s.ref.slots[n]).issued + 1
  lastIssue : (t.ref.slots[n]).lastIssue = some s.now
  fired : (t.ref.slots[n]).fired = []
  missed : (t.ref.slots[n]).missed = false
  record : ∃ f, t.ing.frames[n] = s.ing.frames[n] ++ [f] ∧ f.fr.ord = BitVec.ofNat 32 (s.ref.slots[n]).issued ∧ f.issueTick = s.now ∧
    f.fr.ptp = ptpTime s + (regGet s (capReg n.val 7)).toNat * 65536 ∧ f.lines = [] ∧ f.closed = false ∧
    bit f.fr.status 8 = (s.ref.slots[n]).missed
  sent : .bc l (startCommand s n l stream (BitVec.ofNat 32 (s.ref.slots[n]).issued)) ∈ t.out
  others : ∀ m, m ≠ n → t.ref.slots[m] = s.ref.slots[m]
  frm : t.frm = s.frm
  regs : ∀ j, startReg j → regGet t j = regGet s j

theorem FrameStarted.trans_aside {n : Fin 8} {l : Fin 4} {stream : Nat} {s t u : State} (h : FrameStarted n l stream s t)
    (h' : Aside n t u) : FrameStarted n l stream s u := by
  obtain ⟨fixed, last, hslot⟩ := h'.slot
  exact ⟨by rw [hslot]; exact h.issued, by rw [hslot]; exact h.lastIssue, by rw [hslot]; exact h.fired, by rw [hslot]; exact h.missed,
    by rw [h'.frames]; exact h.record, h'.out.mem h.sent, fun m hm => (h'.others m hm).trans (h.others m hm), h'.frm.trans h.frm,
    fun j hj => (h'.regs j hj).trans (h.regs j hj)⟩

/-- Up to the command every step is aside but the opening of the frame record; what follows the command is aside but the slot's new
cadence. -/
theorem startFrame_started {s : State} {n : Fin 8} {l : Fin 4} {stream : Nat} (hlate : lateFrets s n = s)
    (hon : (s.ref.slots[n]).on = true) (hlink : slotLink s n.val = some (l, stream)) (t : ℚ) :
    FrameStarted n l stream s (startFrame s n t) := by
  unfold startFrame
  rw [hlate]
  extract_lets s0 s1 c j ord s2 tag m src line fixed changed ph per s3 sentE ptp
  rw [if_neg (not_not_intro hon)]
  have h1 : Aside n s s1 := aside_countUnfired s n
  have h3 : Aside n s s3 := (h1.trans (aside_fixUpTo s1 n _)).trans
    (.ite (aside_event n (off := 0x40040) rfl (not_startReg (by decide)) _ _ _ _ _ _) (.refl n _))
  have hptp : ptp = ptpTime s + (regGet s (capReg n.val 7)).toNat * 65536 := by
    rw [← h3.ptp, ← h3.regs _ (.inr (.inr ⟨n, rfl⟩))]
  have hj : j = (s.ref.slots[n]).issued := h1.issued
  have hmissed : c.missed = (s.ref.slots[n]).missed := h1.missed
  have hord : ord = BitVec.ofNat 32 (s.ref.slots[n]).issued := by rw [← hj]
  split
  rename_i tc s4 h4
  replace h4 : Aside n s s4 := by have := h3.trans (aside_timecode s3 n ptp); rwa [h4] at this
  split
  rename_i ratio prev s5 h5
  replace h5 : Aside n s s5 := by have := h4.trans (aside_latchRatio s4 n n); rwa [h5] at this
  split
  rename_i hold s6 h6
  replace h6 : Aside n s s6 := by have := h5.trans (aside_reserveFrame s5 n ord m ratio); rwa [h6] at this
  split
  rename_i measured s7 h7
  replace h7 : Aside n s s7 := by
    cases hlast : c.lastIssue <;> rw [hlast] at h7 <;> cases h7
    · exact h6.trans (aside_free n s6 _)
    · exact h6
  split
  rename_i phase s8 h8
  replace h8 : Aside n s s8 := by
    split at h8
    · cases h8; exact h7
    · split at h8
      · cases h8; exact h7
      · cases h8; exact h7.trans (aside_free n s7 _)
  extract_lets status fr f s9 s10 unclosed s11 nsrc timed next s12 s13 s14
  have hopen : Aside n (modFrames s8 n fun l => l ++ [f]) s9 := (aside_noteGeom _ n j).trans (aside_showCurrent _ n)
  have hframes : s9.ing.frames[n] = s.ing.frames[n] ++ [f] := by
    rw [hopen.frames, ← h8.frames]
    exact vMod_getElem_self _ n _
  have hregs : ∀ i, startReg i → regGet s9 i = regGet s i := fun i hi => (hopen.regs i hi).trans (h8.regs i hi)
  have hslots : ∀ m, m ≠ n → s9.ref.slots[m] = s.ref.slots[m] := fun m hm => (hopen.others m hm).trans (h8.others m hm)
  have hcmd : startCommand s9 n l stream ord = startCommand s n l stream ord :=
    (startCommand_congr hopen l stream ord).trans (startCommand_congr h8 l stream ord)
  obtain ⟨href, hing, hfrm, hnow, hreg, hsent⟩ : s10.ref = s9.ref ∧ s10.ing = s9.ing ∧ s10.frm = s9.frm ∧ s10.now = s9.now ∧
      s10.regs = s9.regs ∧ .bc l (startCommand s9 n l stream ord) ∈ s10.out :=
    sendFrameStart_of_link ((slotLink_congr hregs n.val).trans hlink) ord
  have h12 : FrameStarted n l stream s s12 := {
    issued := by simp only [s12, s11, modCad, vMod_getElem_self, hj]
    lastIssue := by simp only [s12, s11, modCad, vMod_getElem_self]; exact congrArg some (hnow.trans (hopen.now.trans h8.now))
    fired := by simp only [s12, s11, modCad, vMod_getElem_self]
    missed := by simp only [s12, s11, modCad, vMod_getElem_self]
    record := ⟨f, (congrArg (fun g => g.frames[n]) hing).trans hframes, hord, h8.now, hptp, rfl, rfl, by
      rw [← hmissed]
      exact bit_packFields_eight _ _ _ (by split <;> omega) (by split <;> omega) (by split <;> omega) _⟩
    sent := by rw [← hord, ← hcmd]; exact hsent
    others := fun m hm => (slot_modCad_ne s11 hm _).trans
      ((slot_modCad_ne s10 hm _).trans ((congrArg (fun x => x.slots[m]) href).trans (hslots m hm)))
    frm := hfrm.trans (hopen.frm.trans h8.frm)
    regs := fun i hi => (regGet_congr s9 s10 hreg i).trans (hregs i hi) }
  have h13 : ¬ startReg (slotReg n.val 0x24) := by
    unfold startReg slotReg capReg
    rintro (⟨m, hm⟩ | hm | ⟨m, hm⟩) <;> omega
  exact h12.trans_aside ((aside_regSet n h13 s12 _).trans ((Aside.ite (aside_audFrameSet n s13 ..) (.refl n s13)).trans
    ((aside_headsRefEdge n s14 3 n.val).trans (aside_headsRange n _ 3 n.val))))

/-! ### A missed trigger (R42) -/

theorem same_fixMore {p : Part} (h : p ≠ .ref) (k : Nat) (s : State) (n : Fin 8) : p.same s (fixMore k s n) := by
  induction k generalizing s with
  | zero => exact .refl p s
  | succ k ih => exact Part.same.trans (same_modCad h s _ _) (ih (fixOne s n))

theorem same_fixUpTo {p : Part} (h : p ≠ .ref) (s : State) (n : Fin 8) (j : Nat) : p.same s (fixUpTo s n j) := same_fixMore h _ s n

theorem regGet_fixUpTo (s : State) (n : Fin 8) (j k : Nat) : regGet (fixUpTo s n j) k = regGet s k :=
  regGet_congr _ _ (same_fixUpTo (p := .regs) (by decide) s n j) k

theorem maskOf_missedReg : ∀ n : Fin 8, maskOf (missedReg n.val) = BitVec.allOnes 32 := by decide

theorem missedReg_range (n : Fin 8) : 0x40100 ≤ missedReg n.val ∧ missedReg n.val < 0x41000 := by unfold missedReg slotReg; omega

theorem same_missTrigger {p : Part} (h : p ∉ Part.ref :: reporting) (s : State) (n : Fin 8) : p.same s (missTrigger s n) := by
  obtain ⟨hr, hp⟩ : p ≠ .ref ∧ p ∉ reporting := by simpa using h
  exact (same_modCad hr s _ _).trans ((same_count (by rintro rfl; exact hp (by decide)) _ _).trans (same_event hp _ _ _ _ _ _ _))

theorem missTrigger_slot (s : State) (n : Fin 8) : (missTrigger s n).ref.slots[n] = { s.ref.slots[n] with missed := true } := by
  simp only [missTrigger, event_ref, count_ref, modCad, vMod_getElem_self]

/-- The count, the event, and no other register outside the fault recorder and the interrupt controller. -/
theorem missTrigger_spec (s : State) (n : Fin 8) : regGet (missTrigger s n) (missedReg n) = satInc (regGet s (missedReg n)) ∧
    raised (missTrigger s n) .ref 11 ∧ onlyRegs [missedReg n, 0x40040] s (missTrigger s n) := by
  have hrange := missedReg_range n
  have hout : outsideFlt (missedReg n) := by unfold outsideFlt; omega
  refine ⟨?_, raised_event rfl (by unfold outsideFlt; omega) (by decide) _ _ _ _ _, fun j hj ho => ?_⟩
  · rw [missTrigger, regGet_event _ _ _ _ _ _ _ _ hout (by rw [Blk.events]; simp; omega), regGet_count_self (maskOf_missedReg n)]
    rfl
  · obtain ⟨hmiss, hev⟩ : j ≠ missedReg n ∧ j ≠ 0x40040 := by simpa using hj
    rw [missTrigger, regGet_event _ _ _ _ _ _ _ _ ho (by simpa [Blk.events, eq_comm] using hev), regGet_count_ne _ _ _ hmiss]
    rfl

/-- The cadence of a slot that is not ready goes on after the missed trigger. -/
theorem frameRequest_unready {s : State} {n : Fin 8} {x : ℚ} (h : slotReady s n = false) (hx : (s.ref.slots[n]).next = some x) (t : ℚ) :
    ∃ j y, frameRequest s n t = modCad (fixUpTo (missTrigger s n) n j) n fun c => { c with next := y } := by
  have hnext : ((missTrigger s n).ref.slots[n]).next = some x := by rw [missTrigger_slot]; exact hx
  unfold frameRequest
  rw [if_neg (by simp [h])]
  dsimp only
  rw [hnext]
  exact ⟨_, _, rfl⟩

/-- Such a request counts the missed trigger, and changes nothing else but the slot's cadence. -/
theorem frameRequest_unready_spec {s : State} {n : Fin 8} {x : ℚ} (h : slotReady s n = false) (hx : (s.ref.slots[n]).next = some x) (t : ℚ) :
    ((frameRequest s n t).ref.slots[n]).issued = (s.ref.slots[n]).issued ∧ ((frameRequest s n t).ref.slots[n]).missed = true ∧
      (∀ j, regGet (frameRequest s n t) j = regGet (missTrigger s n) j) ∧
      ∀ p : Part, p ∉ Part.ref :: reporting → p.same s (frameRequest s n t) := by
  obtain ⟨j, y, hreq⟩ := frameRequest_unready h hx t
  have hfix := aside_fixUpTo (missTrigger s n) n j
  rw [hreq]
  refine ⟨?_, ?_, fun k => regGet_fixUpTo _ n j k, fun p hp => ?_⟩
  · simp only [modCad, vMod_getElem_self]; rw [hfix.issued, missTrigger_slot]
  · simp only [modCad, vMod_getElem_self]; rw [hfix.missed, missTrigger_slot]
  · have hr : p ≠ .ref := by rintro rfl; exact hp (by decide)
    exact ((same_missTrigger hp s n).trans (same_fixUpTo hr _ n j)).trans (same_modCad hr _ _ _)

/-! ### FRAME_START_ISSUE -/

theorem startDue_next {s : State} {n : Fin 8} (h : startDue s n = true) : (s.ref.slots[n]).on = true ∧ ∃ x, (s.ref.slots[n]).next = some x := by
  unfold startDue at h
  obtain ⟨hon, hnext⟩ := (Bool.and_eq_true _ _).mp h
  refine ⟨hon, ?_⟩
  cases hx : (s.ref.slots[n]).next with
  | none => rw [hx] at hnext; cases hnext
  | some x => exact ⟨x, rfl⟩

/-- With no late fret left nothing fires before the frame start (R58). -/
theorem lateFrets_of_fired {s : State} {n : Fin 8}
    (h : ∀ e ∈ frets (s.ref.slots[n]).cfg n.val, e.late = true → e.idx ∈ (s.ref.slots[n]).fired) : lateFrets s n = s := by
  have hnone : (frets (s.ref.slots[n]).cfg n.val).filter (fun e => e.late && !(s.ref.slots[n]).fired.contains e.idx) = [] := by
    refine List.filter_eq_nil_iff.mpr fun e he hl => ?_
    obtain ⟨hlate, hfired⟩ := (Bool.and_eq_true _ _).mp hl
    rw [List.contains_iff_mem.mpr (h e he hlate)] at hfired
    cases hfired
  unfold lateFrets
  dsimp only
  rw [hnone]
  exact ite_self s

theorem exec_frameStartIssue (n : Fin 8) (s : State) : exec (.frameStartIssue n) s =
    inCore s fun s => match (s.ref.slots[n]).next with
      | some t => if startDue s n then frameRequest s n t else s
      | none => s := rfl

/-- A frame start that is due is requested at its cadence instant. -/
theorem frameStartIssue_of_due {s : State} {n : Fin 8} {x : ℚ} (hl : s.live = true) (h : startDue s n = true)
    (hx : (s.ref.slots[n]).next = some x) : exec (.frameStartIssue n) s = .next (endCycle s (frameRequest s n x)) := by
  rw [exec_frameStartIssue, inCore_of_live hl, hx]
  exact congrArg (fun t => Host.Outcome.next (endCycle s t)) (if_pos h)

theorem frameStartIssue_of_not_due {s : State} {n : Fin 8} (h : startDue s n = false) :
    exec (.frameStartIssue n) s = .next (endCycle s s) := by
  rw [exec_frameStartIssue]
  refine inCore_of_fixed ?_
  split
  · exact if_neg (by simp [h])
  · rfl

/-- Settles O13: a frame start that is due starts the frame or misses the trigger, by the slot's readiness. -/
theorem frameStartsAtTheCadenceInstant : Obligations.FrameStartsAtTheCadenceInstant := by
  refine ⟨fun s n l stream hl hdue hready hlink hlate => ?started, fun s n hl hdue hready => ?missed, fun s n hdue => ?idle⟩
  case started =>
    obtain ⟨hon, x, hx⟩ := startDue_next hdue
    have hreq : frameRequest s n x = startFrame s n x := if_pos hready
    obtain ⟨hissued, hlast, hfired, hmissed, ⟨f, hf, hord, htick, hptp, hlines, hclosed, hbit⟩, hsent, -, -, -⟩ :=
      startFrame_started (lateFrets_of_fired hlate) hon hlink x
    refine ⟨_, f, _, (frameStartIssue_of_due hl hdue hx).trans (by rw [hreq]), ?_, ?_, ?_, ?_, ?_, hord, htick, hptp,
      hlines, hclosed, hbit, rfl, ?_⟩
    · rw [endCycle_ref]; exact hissued
    · rw [endCycle_ref]; exact hlast
    · rw [endCycle_ref]; exact hfired
    · rw [endCycle_ref]; exact hmissed
    · rw [endCycle_ing]; exact hf
    · rw [endCycle_out]; exact hsent
  case missed =>
    obtain ⟨-, x, hx⟩ := startDue_next hdue
    obtain ⟨hissued, hmissed, hreg, hsame⟩ := frameRequest_unready_spec hready hx x
    obtain ⟨hcount, hraised, honly⟩ := missTrigger_spec s n
    refine ⟨_, frameStartIssue_of_due hl hdue hx, by rw [endCycle_ref]; exact hissued, by rw [endCycle_ref]; exact hmissed, ?_,
      raised_endCycle ?_, onlyRegs_endCycle fun j hj ho => ?_, onlyChanges_endCycle fun p hp _ _ => hsame p hp⟩
    · rw [regGet_endCycle, hreg, hcount]
    · obtain ⟨off, hoff, hbit⟩ := hraised
      exact ⟨off, hoff, by rwa [regBit, hreg]⟩
    · rw [hreg]; exact honly j hj ho
  case idle => exact ⟨_, frameStartIssue_of_not_due hdue, onlyChanges_nothing s⟩

end Sys2Proof.Machine
end

section
/-! Proof of the statement about the shutter encoder's positions (R37, R50, R51). -/

namespace Sys2Proof.Machine
open Sys2Proof

/-! ### A move of the position, for the slots -/

/-- Of what a slot's frame start takes notice of, only the encoder's own state and REF.ENC_POS differ. -/
structure PositionMoved (s t : State) : Prop where
  slots : t.ref.slots = s.ref.slots
  ing : t.ing = s.ing
  lnk : t.lnk = s.lnk
  frm : t.frm = s.frm
  now : t.now = s.now
  regs : ∀ j, j ≠ encPosReg → regGet t j = regGet s j

theorem PositionMoved.tagReg {s t : State} (h : PositionMoved s t) (n : Fin 8) (tag : Nat) {j : Nat} (hj : j ≠ encPosReg) :
    rmGet (tagRegs t n tag) j = rmGet (tagRegs s n tag) j := by
  simp only [tagRegs, bankOf, h.frm]
  cases (s.frm.banks[n]).reverse.find? fun b => decide (b.forme = tag) with
  | some b => rfl
  | none => exact h.regs j hj

theorem PositionMoved.expectedTag {s t : State} (h : PositionMoved s t) (n : Fin 8) (j : Nat) : expectedTag t n j = expectedTag s n j :=
  expectedTag_congr (by rw [h.slots]) h.frm j

theorem PositionMoved.sourceNow {s t : State} (h : PositionMoved s t) (n : Fin 8) : sourceNow t n = sourceNow s n :=
  sourceNow_congr (by rw [h.slots]) h.frm (h.regs _ (slotReg_ne_encPosReg n 0))

theorem PositionMoved.offShutter {s t : State} (h : PositionMoved s t) {n : Fin 8} (ho : offShutter s n) : offShutter t n :=
  offShutter_congr (by rw [h.slots]) h.frm (h.regs _ (slotReg_ne_encPosReg n 0)) ho

theorem PositionMoved.encCpr {s t : State} (h : PositionMoved s t) : encCpr t = encCpr s :=
  congrArg (field · 15 0) (h.regs encCfgReg (by decide))

theorem PositionMoved.startAngles {s t : State} (h : PositionMoved s t) (n : Fin 8) : startAngles t n = startAngles s n := by
  have hfpr : encFpr t = encFpr s := congrArg (field · 29 29) (h.regs encCfgReg (by decide))
  unfold Machine.startAngles phaseOfs
  dsimp only
  rw [hfpr, h.encCpr, h.slots, h.expectedTag, h.tagReg n _ (slotReg_ne_encPosReg n 0xC)]

theorem PositionMoved.slotLink {s t : State} (h : PositionMoved s t) (n : Nat) : slotLink t n = slotLink s n :=
  slotLink_congr (fun j hj => h.regs j (by have := startReg_range hj; unfold encPosReg; omega)) n

theorem PositionMoved.slotReady {s t : State} (h : PositionMoved s t) (n : Fin 8) : slotReady t n = slotReady s n := by
  have hcap : regGet t (capStateReg n) = regGet s (capStateReg n) := h.regs _ (by unfold capStateReg encPosReg; omega)
  have hmin : regGet t (slotReg n 0x28) = regGet s (slotReg n 0x28) := h.regs _ (slotReg_ne_encPosReg n 0x28)
  have hlink : slotLinkUp t n = slotLinkUp s n := by simp only [slotLinkUp, h.slotLink, h.lnk]
  unfold Machine.slotReady recordUp minPeriod regField
  rw [hlink, hcap, hmin, h.ing, h.slots, h.now]

theorem positionMoved_positioned (s : State) (p revs : Nat) : PositionMoved s (positioned s p revs) :=
  ⟨rfl, rfl, rfl, rfl, rfl, fun j hj => regGet_showPos _ j hj⟩

theorem positionMoved_rawStepped (s : State) (a b : Bool) : PositionMoved s (rawStepped s a b) :=
  ⟨rfl, rfl, rfl, rfl, rfl, fun _ _ => rfl⟩

theorem PositionMoved.trans {s t u : State} (h : PositionMoved s t) (h' : PositionMoved t u) : PositionMoved s u :=
  ⟨h'.slots.trans h.slots, h'.ing.trans h.ing, h'.lnk.trans h.lnk, h'.frm.trans h.frm, h'.now.trans h.now,
    fun j hj => (h'.regs j hj).trans (h.regs j hj)⟩

/-! ### A crossing that starts a frame (R37) -/

/-- A change made on every slot that is one on slot `n` only. -/
theorem forSlots_only {s t : State} {n : Fin 8} {f : State → Fin 8 → State} (hs : ∀ m, m ≠ n → f s m = s) (hn : f s n = t)
    (ht : ∀ m, m ≠ n → f t m = t) : forSlots s f = t := by
  have hfold : ∀ (l : List (Fin 8)) (u : State), (∀ m ∈ l, f u m = u) → l.foldl f u = u := by
    intro l
    induction l with
    | nil => intro u _; rfl
    | cons m l ih =>
      intro u h
      rw [List.foldl_cons, h m List.mem_cons_self]
      exact ih u fun m hm => h m (List.mem_cons_of_mem _ hm)
  obtain ⟨l, l', hl⟩ := List.append_of_mem (List.mem_finRange n)
  have hnodup := List.nodup_finRange 8
  rw [hl, List.nodup_middle, List.nodup_cons, List.mem_append, not_or] at hnodup
  obtain ⟨⟨hbefore, hafter⟩, -⟩ := hnodup
  rw [forSlots, hl, List.foldl_append, List.foldl_cons, hfold l s fun m hm => hs m (ne_of_mem_of_not_mem hm hbefore), hn]
  exact hfold l' t fun m hm => ht m (ne_of_mem_of_not_mem hm hafter)

/-- A slot that takes its frame starts from the shutter, and is ready for one at any crossing. -/
structure AwaitsCrossing (s : State) (n : Fin 8) : Prop where
  on : (s.ref.slots[n]).on = true
  source : sourceNow s n = 3
  next : (s.ref.slots[n]).next = none
  notBefore : (s.ref.slots[n]).notBefore ≤ s.now
  ready : slotReady s n = true
  noFrets : frets (s.ref.slots[n]).cfg n.val = []

theorem AwaitsCrossing.congr {s t : State} {n : Fin 8} (h : AwaitsCrossing s n) (hm : PositionMoved s t) : AwaitsCrossing t n :=
  ⟨by rw [hm.slots]; exact h.on, (hm.sourceNow n).trans h.source, by rw [hm.slots]; exact h.next,
    by rw [hm.slots, hm.now]; exact h.notBefore, (hm.slotReady n).trans h.ready, by rw [hm.slots]; exact h.noFrets⟩

theorem slotLink_of_ready {s : State} {n : Fin 8} (h : slotReady s n = true) : ∃ l stream, slotLink s n.val = some (l, stream) := by
  cases hlink : slotLink s n.val with
  | some x => exact ⟨x.1, x.2, rfl⟩
  | none => simp [slotReady, slotLinkUp, hlink] at h

theorem AwaitsCrossing.started {s : State} {n : Fin 8} (h : AwaitsCrossing s n) :
    ∃ l stream, FrameStarted n l stream s (startFrame s n (s.now : ℚ)) := by
  obtain ⟨l, stream, hlink⟩ := slotLink_of_ready h.ready
  exact ⟨l, stream, startFrame_started (lateFrets_of_fired fun e he => by rw [h.noFrets] at he; cases he) h.on hlink _⟩

theorem AwaitsCrossing.request {s : State} {n : Fin 8} (h : AwaitsCrossing s n) : shutterRequest s n = startFrame s n (s.now : ℚ) := by
  have hon : (s.ref.slots[n]).on ∧ sourceNow s n = 3 ∧ (s.ref.slots[n]).next.isNone ∧ (s.ref.slots[n]).notBefore ≤ s.now :=
    ⟨h.on, h.source, by rw [h.next]; rfl, h.notBefore⟩
  exact (if_pos hon).trans (if_pos h.ready)

/-- At a start angle of such a slot its frame starts, and no angle fret fires with it. -/
theorem crossSlot_of_awaits {s : State} {n : Fin 8} {p : Nat} (h : AwaitsCrossing s n) (hp : p ∈ startAngles s n) :
    crossSlot s [p] n = startFrame s n (s.now : ℚ) := by
  obtain ⟨l, stream, hstart⟩ := h.started
  have hbefore : [p].takeWhile (fun p => !(startAngles s n).contains p) = [] := by simp [hp]
  have hissued : ((startFrame s n (s.now : ℚ)).ref.slots[n]).issued ≠ (s.ref.slots[n]).issued := by rw [hstart.issued]; omega
  unfold crossSlot
  dsimp only
  rw [hbefore, h.request, if_pos (show [].length < [p].length from Nat.zero_lt_one), if_neg hissued]
  rfl

/-- As the position moves on by one to a start angle of such a slot, and no other slot has the shutter as its source, its frame starts. -/
theorem moveTo_of_awaits {s : State} {n : Fin 8} {p : Nat} (h : AwaitsCrossing s n) (hother : ∀ m, m ≠ n → offShutter s m)
    (hstep : (s.ref.acc + 1) % encCpr s = p) (hp : p ∈ startAngles s n) :
    ((moveTo s p 1).ref.slots[n]).issued = (s.ref.slots[n]).issued + 1 := by
  have hcrossed : crossed (encCpr s) s.ref.acc (1 : Int).toNat = [p] := congrArg (fun q => [q]) hstep
  obtain ⟨revs, hmove⟩ := moveTo_crossed s p 1
  rw [hcrossed, if_neg (List.cons_ne_nil _ _)] at hmove
  have hmoved := positionMoved_positioned s p revs
  have hawaits := h.congr hmoved
  obtain ⟨l, stream, hstart⟩ := hawaits.started
  have honly := forSlots_only (f := fun t m => crossSlot t [p] m) (fun m hm => crossSlot_of_offShutter (hmoved.offShutter (hother m hm)) _)
    (crossSlot_of_awaits hawaits (by rwa [hmoved.startAngles]))
    (fun m hm => crossSlot_of_offShutter (offShutter_congr (hstart.others m hm) hstart.frm (hstart.regs _ (.inl ⟨m, rfl⟩))
      (hmoved.offShutter (hother m hm))) _)
  rw [hmove, honly, hstart.issued, hmoved.slots]

/-- A step of the raw count from the accepted position, in the accepted direction, is a move of the position by one. -/
theorem rawChange_of_step {s : State} (hcpr : 3 < encCpr s) (hraw : s.ref.raw = (s.ref.acc + 1) % encCpr s) (hf : s.ref.fwd = true) :
    rawChange s = moveTo s s.ref.raw 1 := by
  have hmod : ((((s.ref.acc + 1) % encCpr s : Nat) : Int) - (s.ref.acc : Int)) % (encCpr s : Int) = 1 := by
    rw [Int.natCast_mod, Int.emod_sub_emod, Nat.cast_succ, add_sub_cancel_left]
    exact Int.emod_eq_of_lt (by decide) (by omega)
  have hdiff : posDiff (encCpr s) s.ref.raw s.ref.acc = 1 := by
    unfold posDiff
    dsimp only
    rw [hraw, hmod, if_neg (by omega)]
  unfold rawChange
  dsimp only
  rw [hdiff, hf]
  rfl

/-- Settles O15: by the sample, the index pulse in each direction, and the crossing of a start angle. -/
theorem shutterEncoderPosition : Obligations.ShutterEncoderPosition := by
  refine ⟨fun s a b step d dir r => quadratureTransition_legal, fun s => indexPulse_spec,
    fun s hf => ⟨_, (exec_indexPulse s).trans (inCore_of_fixed (indexPulse_idle hf)), onlyChanges_nothing s⟩,
    fun s a b n hl hon hdir hab hstep hf hraw hcpr hp hrun hsrc hnext hnot hready hfrets hother => ?crossing⟩
  case crossing =>
    have hmoved := positionMoved_rawStepped s a b
    have hstepped : (rawStepped s a b).ref.raw = (s.ref.acc + 1) % encCpr s := by
      rw [rawStepped_raw, hdir, hstep, hraw]
      exact Int.toNat_natCast _
    have hchange : rawChange (rawStepped s a b) = moveTo (rawStepped s a b) ((s.ref.acc + 1) % encCpr s) 1 :=
      hstepped ▸ rawChange_of_step (by rwa [hmoved.encCpr]) (by rw [hmoved.encCpr]; exact hstepped) hf
    have hstart := moveTo_of_awaits (p := (s.ref.acc + 1) % encCpr s) (AwaitsCrossing.congr ⟨hrun, hsrc, hnext, hnot, hready, hfrets⟩
      hmoved) (fun m hm => hmoved.offShutter (hother m hm)) (congrArg _ hmoved.encCpr) (by rwa [hmoved.startAngles])
    rw [← hchange, hmoved.slots] at hstart
    refine ⟨endCycle s (rawChange (rawStepped s a b)), ?_, ?_⟩
    · rw [exec_quadratureTransition, inCore_of_live hl, quadrature_legal hon hab]
    · rw [endCycle_ref]; exact hstart

end Sys2Proof.Machine
end

section
/-! Proof of the statement about event outputs (R494), and about the answer to a forme that the checks of lock-up reject (R72, R73, R378). -/

namespace Sys2Proof.Machine
open Sys2Proof

/-! ### Pulses (R494) -/

theorem fin16_field_low (w : Word) : fin16 (field w 3 0) = ⟨field w 3 0, field_lt w 3 0⟩ :=
  Fin.ext (Nat.mod_eq_of_lt (field_lt w 3 0))

theorem fretAct_eventOut {s : State} {n : Fin 8} {ord : Word} {line : Option Nat} {e : Fret} {o : Fin 16} (ha : e.action = 10)
    (ho : o.val = field e.arg 3 0) : fretAct s n ord line e = eventPulse s o (field e.arg 15 8) := by
  have hpin : fin16 (field e.arg 3 0) = o := (fin16_field_low e.arg).trans (Fin.ext ho.symm)
  simp only [fretAct, ha, hpin]

theorem eventPulse_spec (s : State) (o : Fin 16) (us : Nat) :
    (eventPulse s o us).ref = { s.ref with pulses := vMod s.ref.pulses o.val fun _ => some (s.now + us * 1000) } ∧
      (eventPulse s o us).out = (if (s.ref.pulses[o]).isSome then [] else [.pin (.eventOut o) true]) ++ s.out ∧
      ∀ p : Part, p ∉ [.ref, .out] → p.same s (eventPulse s o us) := by
  unfold eventPulse
  dsimp only
  split
  · refine ⟨rfl, rfl, fun p hp => ?_⟩
    cases p
    case ref | out => simp at hp
    all_goals rfl
  · refine ⟨rfl, rfl, fun p hp => ?_⟩
    cases p
    case ref | out => simp at hp
    all_goals rfl

theorem exec_eventOutEnd (o : Fin 16) (s : State) : exec (.eventOutEnd o) s = inCore s fun s => match s.ref.pulses[o] with
    | some t =>
      if t ≤ s.now then
        emit { s with ref := { s.ref with pulses := vMod s.ref.pulses o fun _ => none } } (.pin (.eventOut o) false)
      else s
    | none => s := rfl

theorem eventOutEnd_of_ended {s : State} {o : Fin 16} {e : Nat} (hl : s.live = true) (he : s.ref.pulses[o] = some e) (hn : e ≤ s.now) :
    exec (.eventOutEnd o) s = .next (endCycle s
      (emit { s with ref := { s.ref with pulses := vMod s.ref.pulses o.val fun _ => none } } (.pin (.eventOut o) false))) := by
  rw [exec_eventOutEnd, inCore_of_live hl, he]
  exact congrArg (fun t => Host.Outcome.next (endCycle s t)) (if_pos hn)

theorem eventOutEnd_of_running {s : State} {o : Fin 16} (h : ∀ e, s.ref.pulses[o] = some e → s.now < e) :
    exec (.eventOutEnd o) s = .next (endCycle s s) := by
  rw [exec_eventOutEnd]
  refine inCore_of_fixed ?_
  split
  · rename_i e he
    exact if_neg (Nat.not_le.mpr (h e he))
  · rfl

/-! ### Fret arguments that the checks reject (R55) -/

theorem firstOf_isSome {l : List Reject} (h : l ≠ []) : (firstOf l).isSome = true := by
  cases l with
  | nil => exact absurd rfl h
  | cons r l =>
    unfold firstOf
    split
    · split <;> rfl
    · rfl

/-- A valid EVENT_OUT entry of no width is among the failures of the fret table's check. -/
theorem frets_of_noWidth {p : Proj} {n : Fin 8} {k : Fin 256} (hv : bit (p.reg (fretLoReg n k)) 31 = true)
    (ha : field (p.reg (fretLoReg n k)) 28 24 = 10) (hw : field (p.reg (fretHiReg n k)) 15 8 = 0) :
    rejAt 0x02 (fretHiReg n k) (1, n) ∈ p.frets := by
  have hbad : p.fretArgBad n (field (p.reg (fretLoReg n k)) 28 24) (p.reg (fretHiReg n k)).toNat = true := by
    rw [ha]
    simpa [Proj.fretArgBad, field, Nat.shiftRight_eq_div_pow] using hw
  unfold Proj.frets
  refine List.mem_flatMap.mpr ⟨n, List.mem_finRange n, List.mem_append_left _ (List.mem_flatMap.mpr ⟨k, List.mem_range.mpr k.isLt, ?_⟩)⟩
  dsimp only
  rw [if_neg (not_not_intro hv), hbad]
  exact List.mem_append_right _ List.mem_cons_self

/-- A failure of that check, or of one before it, rejects the forme. -/
theorem hardware_of_frets {p : Proj} (h : p.frets ≠ []) : ∃ r, (p.hardware <|> p.resources) = some r := by
  have hfrets := firstOf_isSome h
  refine Option.isSome_iff_exists.mp ?_
  unfold Proj.hardware
  simp [hfrets]

/-! ### The answer (R378, R380) -/

theorem Row.holds_iff (r : Row) (off : Nat) : r.holds off = true ↔ r.base ≤ off ∧ (off - r.base) / r.s1 < r.n1 ∧
    (off - r.base) % r.s1 / r.s2 < r.n2 ∧ (off - r.base) % r.s1 % r.s2 / r.s3 < r.n3 ∧ (off - r.base) % r.s1 % r.s2 % r.s3 = 0 := by
  unfold Row.holds
  split
  · simp; omega
  · simp [and_assoc]; omega

/-- The row of a slot's STATE. -/
theorem maskOf_mbxState {p : Party} {slot : Nat} (h : slot < mbxSlots p) : maskOf (mbxBase p slot + 4) = 0xC000FFFF := by
  have hpf : ∀ k : Fin 32, maskOf (mbxBase .pf k.val + 4) = 0xC000FFFF := by decide
  have huser : ∀ (u : Fin 4) (k : Fin 4), maskOf (mbxBase (.user u) k.val + 4) = 0xC000FFFF := by decide
  cases p with
  | pf => exact hpf ⟨slot, h⟩
  | user u => exact huser u ⟨slot, h⟩
  | vf n =>
    have hslot : slot < 32 := h
    unfold maskOf rowOf rowsAt vfRows
    rw [if_pos (by simp only [mbxBase, regKey]; omega), List.find?_cons_of_neg, List.find?_cons_of_pos]
    · rfl
    · simp only [Row.holds_iff, row, mbxBase, regKey, Nat.div_zero, Nat.mod_zero]; omega
    · simp only [Row.holds_iff, row, mbxBase, regKey, Nat.div_zero, Nat.mod_zero]; omega
  | fjarera | smbus | i3c => cases h

/-- A state put into a slot's STATE field stands there, under its mask. -/
theorem field_putField_state (w : Word) : field (putField w 31 30 3 &&& 0xC000FFFF) 31 30 = 3 := by
  simp [field, putField, fieldMask, Nat.shiftRight_and_distrib, Nat.shiftRight_or_distrib]

theorem mbxState_setMbxState {p : Party} {slot : Nat} (h : slot < mbxSlots p) (s : State) : mbxState (setMbxState s p slot 3) p slot = 3 := by
  rw [mbxState, regField, setMbxState, regPut, regGet_regSet_self, maskOf_mbxState h, field_putField_state]

/-- A slot's registers lie clear of the count of responses and of the interrupt controller. -/
theorem mbxBase_range {p : Party} {slot : Nat} (h : slot < mbxSlots p) :
    mbxBase p slot + 4 ≠ 0x1C004 ∧ (mbxBase p slot + 4 < 0x191000 ∨ 0x192000 ≤ mbxBase p slot + 4) := by
  cases p <;> simp only [mbxSlots, mbxBase, regKey] at h ⊢ <;> omega

theorem mbxNotify_frm (s : State) (p : Party) (slot : Nat) : (mbxNotify s p slot).frm = s.frm := by
  cases p <;> simp [mbxNotify]

theorem regGet_mbxNotify {p : Party} {slot : Nat} (h : slot < mbxSlots p) (s : State) {j : Nat} (hj : j < 0x191000 ∨ 0x192000 ≤ j) :
    regGet (mbxNotify s p slot) j = regGet s j := by
  cases p with
  | user u =>
    have h4 : slot < 4 := h
    exact regGet_sourceEdge _ _ _ hj (by omega)
  | _ => exact regGet_msixSend ..

/-- A response leaves the formes as they are, and its slot DONE. -/
theorem mbxReply_frm (s : State) (p : Party) (slot status detail r0 r1 : Nat) : (mbxReply s p slot status detail r0 r1).frm = s.frm := by
  simp [mbxReply, mbxDone, mbxNotify_frm, setMbxState]

theorem mbxState_mbxReply {p : Party} {slot : Nat} (h : slot < mbxSlots p) (s : State) (status detail r0 r1 : Nat) :
    mbxState (mbxReply s p slot status detail r0 r1) p slot = 3 := by
  obtain ⟨hcount, hirq⟩ := mbxBase_range h
  unfold mbxReply mbxDone
  extract_lets req rsp written done mbx freed
  have hdone : mbxState done p slot = 3 := mbxState_setMbxState h written
  have hfreed : freed.regs = done.regs := rfl
  clear_value freed done
  rw [mbxState, regField, regGet_mbxNotify h _ hirq, regGet_count_ne _ _ _ hcount, regGet_congr _ _ hfreed]
  exact hdone

/-! ### A rejected forme (R72, R73) -/

theorem mGet_mMod {α : Type} (m : SMap α) (i : Nat) (f : α → α) : mGet (mMod m i f) i = (mGet m i).map f := by
  induction m with
  | nil => rfl
  | cons x m ih =>
    obtain ⟨k, v⟩ := x
    unfold mMod
    split
    · rename_i h; simp [mGet, h]
    · rename_i h; simp [mGet, h, ih]

theorem rejectForme_frm (s : State) (i : Nat) (r : Reject) :
    (rejectForme s i r).frm = { s.frm with formes := mMod s.frm.formes i fun f => { f with st := .staged } } := by
  rw [rejectForme, frmEvent, event_frm]
  rfl

/-- A rejection over the rest of the cycle: the forme is Staged, the formes in force and Locked stay, and the slot is DONE. -/
theorem answerReject_spec {s : State} {c : LockReq} {f : Forme} (hf : formeOf s c.forme = some f) (hc : c.slot < mbxSlots c.party)
    (r : Reject) : formeOf (answerReject s c r) c.forme = some { f with st := .staged } ∧
      (answerReject s c r).frm.inForce = s.frm.inForce ∧ (answerReject s c r).frm.lockedList = s.frm.lockedList ∧
      mbxState (answerReject s c r) c.party c.slot = 3 := by
  have hfrm : (answerReject s c r).frm = { s.frm with formes := mMod s.frm.formes c.forme fun f => { f with st := .staged } } :=
    (mbxReply_frm ..).trans (rejectForme_frm ..)
  refine ⟨?_, by rw [hfrm], by rw [hfrm], mbxState_mbxReply hc ..⟩
  rw [formeOf, hfrm, mGet_mMod, ← formeOf, hf]
  rfl

theorem exec_lockupComplete (i : Fin 256) (s : State) : exec (.lockupComplete i) s = inCore s fun s =>
    match s.frm.checking.find? (fun c => decide (c.forme = i.val)), formeOf s i.val with
    | some c, some x =>
      if interrupted s then s
      else lockupDone (modFrm s fun y => { y with checking := y.checking.filter fun d => decide (d.forme ≠ i.val) }) c x
    | _, _ => s := rfl

/-- The only forme that is Checking has its checks end. -/
theorem lockupComplete_of_single {s : State} {i : Fin 256} {c : LockReq} {f : Forme} (hl : s.live = true) (hi : interrupted s = false)
    (hc : s.frm.checking = [c]) (hci : c.forme = i.val) (hf : formeOf s i.val = some f) :
    exec (.lockupComplete i) s = .next (endCycle s (lockupDone (modFrm s fun y => { y with checking := [] }) c f)) := by
  have hfind : s.frm.checking.find? (fun c => decide (c.forme = i.val)) = some c := by simp [hc, hci]
  have hfilter : s.frm.checking.filter (fun d => decide (d.forme ≠ i.val)) = [] := by simp [hc, hci]
  rw [exec_lockupComplete, inCore_of_live hl, hfind, hf]
  dsimp only [modFrm]
  rw [hi, hfilter]
  rfl

/-- Settles O11: a pulse begins or moves its end, and ends; a forme whose fret table holds a pulse of no width is rejected. -/
theorem eventOutputPulses : Obligations.EventOutputPulses := by
  refine ⟨fun s n k e o hl h ho => ?begins, fun s o hl => ⟨fun e he hn => ?ends, fun h => ?runs⟩, fun o => ?reset,
    fun s i c f q n k hl hi hc hci hslot hf hq hv ha hw => ?rejected⟩
  case begins =>
    obtain ⟨href, hout, hsame⟩ := eventPulse_spec (markFired s n k.val) o (field e.arg 15 8)
    refine ⟨_, (fretAction_of_comesDue (a := 10) hl h (by simp)).trans (by rw [fretAct_eventOut h.2.1 ho]), ?_, ?_,
      onlyChanges_endCycle fun p hp _ _ => ?_⟩
    · rw [endCycle_ref, href]; rfl
    · rw [endCycle_out, hout]; rfl
    · obtain ⟨hr, -⟩ : p ≠ .ref ∧ p ≠ .out := by simpa using hp
      exact (same_markFired hr s n k.val).trans (hsame p hp)
  case ends =>
    refine ⟨_, eventOutEnd_of_ended hl he hn, by rw [endCycle_ref]; rfl, by rw [endCycle_out]; rfl, onlyChanges_endCycle fun p hp _ _ => ?_⟩
    cases p
    case ref | out => simp at hp
    all_goals rfl
  case runs => exact ⟨_, eventOutEnd_of_running h, onlyChanges_nothing s⟩
  case reset => revert o; decide
  case rejected =>
    subst hq
    obtain ⟨r, hr⟩ := hardware_of_frets (List.ne_nil_of_mem (frets_of_noWidth hv ha hw))
    have hdone : lockupDone (modFrm s fun y => { y with checking := [] }) c f =
        answerReject (modFrm s fun y => { y with checking := [] }) c r := by
      unfold lockupDone
      rw [hci]
      dsimp only
      rw [hr]
    obtain ⟨hstaged, hforce, hlocked, hstate⟩ :=
      answerReject_spec (s := modFrm s fun y => { y with checking := [] }) (hci ▸ hf) hslot r
    refine ⟨_, (lockupComplete_of_single hl hi hc hci hf).trans (by rw [hdone]), ?_, ?_, ?_, ?_⟩
    · rw [formeOf, endCycle_frm, ← formeOf, ← hci]; exact hstaged
    · rw [endCycle_frm]; exact hforce
    · rw [endCycle_frm]; exact hlocked
    · rw [mbxState, regField, regGet_endCycle]; exact hstate

end Sys2Proof.Machine
end

section
/-! Proof of the statement about the staging windows (R63, R71). -/

namespace Sys2Proof.Machine
open Sys2Proof

/-! ### Formes after a change of one of them -/

theorem mGet_mMod_ne {α : Type} (m : SMap α) {i j : Nat} (h : j ≠ i) (f : α → α) : mGet (mMod m i f) j = mGet m j := by
  induction m with
  | nil => rfl
  | cons x m ih =>
    obtain ⟨k, v⟩ := x
    unfold mMod
    split
    · rename_i hk
      rw [mGet, mGet, if_neg (hk ▸ h), if_neg (hk ▸ h)]
    · rw [mGet, mGet, ih]

theorem formeOf_modForme_self (s : State) (i : Nat) (f : Forme → Forme) : formeOf (modForme s i f) i = (formeOf s i).map f :=
  mGet_mMod s.frm.formes i f

theorem formeOf_modForme_ne (s : State) {i j : Nat} (h : j ≠ i) (f : Forme → Forme) : formeOf (modForme s i f) j = formeOf s j :=
  mGet_mMod_ne s.frm.formes h f

/-- What is known of a forme that is Staged for a party. -/
theorem stagedBy_eq_some {s : State} {p : Party} {i : Nat} {f : Forme} (h : stagedBy s p i = some f) :
    formeOf s i = some f ∧ f.st = .staged ∧ f.owner = p := by
  obtain ⟨hf, hst⟩ := Option.filter_eq_some_iff.mp h
  simpa [hf] using hst

theorem same_modForme {q : Part} (h : q ≠ .frm) (s : State) (i : Nat) (f : Forme → Forme) : q.same s (modForme s i f) := by
  cases q
  case frm => exact absurd rfl h
  all_goals rfl

theorem same_modFrm {q : Part} (h : q ≠ .frm) (s : State) (f : FrmBlk → FrmBlk) : q.same s (modFrm s f) := by
  cases q
  case frm => exact absurd rfl h
  all_goals rfl

/-! ### A write of STAGE_DATA (R71) -/

/-- What a write of STAGE_DATA leaves of the formes and of LAST_ERR: the triple joins the forme's writes where it meets no error. -/
def stageTaken (s : State) (w : Fin 5) (i e : Nat) (x : Triple) : State :=
  let u := if e = 0 then modForme s i fun f => { f with writes := mergeTriple f.writes x } else s
  modFrm u fun y => { y with stageErr := u.frm.stageErr.set w e }

/-- STAGE_ADDR moves on where AUTO_INC is set. -/
def stageMoved (s : State) (w : Fin 5) (auto : Bool) (off : Nat) : State :=
  if auto then regSet s (stageReg w.val 4) (BitVec.ofNat 32 (off + 4)) else s

theorem exec_stageData (p : Party) (w : Fin 5) (data : Word) (s : State) : exec (.stageData p w data) s = inCore s fun s =>
    if windowOf p ≠ some w.val then badAccess s
    else
      let i := field (regGet s (stageReg w.val 0)) 7 0
      let off := (regGet s (stageReg w.val 4)).toNat
      stageMoved (stageTaken s w i (stageErr s p i off) { off := off, data := data, mask := regGet s (stageReg w.val 8) }) w
        (bit (regGet s (stageReg w.val 0)) 8) off := rfl

theorem stageTaken_stageErr (s : State) (w : Fin 5) (i e : Nat) (x : Triple) : (stageTaken s w i e x).frm.stageErr[w] = e :=
  Vector.getElem_set_self w.isLt

theorem same_stageTaken {q : Part} (h : q ≠ .frm) (s : State) (w : Fin 5) (i e : Nat) (x : Triple) :
    q.same s (stageTaken s w i e x) := by
  unfold stageTaken
  split
  · exact (same_modForme h s i _).trans (same_modFrm h _ _)
  · exact same_modFrm h s _

theorem formeOf_stageTaken_self (s : State) (w : Fin 5) (i : Nat) (x : Triple) : formeOf (stageTaken s w i 0 x) i =
    (formeOf s i).map fun f => { f with writes := mergeTriple f.writes x } :=
  formeOf_modForme_self s i _

theorem formeOf_stageTaken_ne (s : State) (w : Fin 5) {i j : Nat} (h : j ≠ i) (e : Nat) (x : Triple) :
    formeOf (stageTaken s w i e x) j = formeOf s j := by
  unfold stageTaken
  split
  · exact formeOf_modForme_ne s h _
  · rfl

theorem stageTaken_formes_of_error (s : State) (w : Fin 5) (i : Nat) {e : Nat} (h : e ≠ 0) (x : Triple) :
    (stageTaken s w i e x).frm.formes = s.frm.formes := by
  unfold stageTaken
  rw [if_neg h]
  rfl

theorem stageMoved_frm (s : State) (w : Fin 5) (auto : Bool) (off : Nat) : (stageMoved s w auto off).frm = s.frm := by
  cases auto <;> rfl

theorem same_stageMoved {q : Part} (h : q ≠ .regs) (s : State) (w : Fin 5) (auto : Bool) (off : Nat) :
    q.same s (stageMoved s w auto off) := by
  cases auto
  · exact .refl q s
  · exact same_regSet h s _ _

theorem regGet_stageMoved (s : State) (w : Fin 5) (auto : Bool) (off j : Nat) : regGet (stageMoved s w auto off) j =
    if j = stageReg w.val 4 then if auto then BitVec.ofNat 32 (off + 4) &&& maskOf (stageReg w.val 4) else regGet s (stageReg w.val 4)
    else regGet s j := by
  cases auto
  · by_cases hj : j = stageReg w.val 4 <;> simp [stageMoved, hj]
  · exact regGet_regSet s _ j _

/-- Settles O19: a write through another party's window is a bad access; one through the party's own goes to the forme unless
`stageErr` says why not. -/
theorem stagingWindow : Obligations.StagingWindow := by
  refine fun s p w data hl => ⟨fun hother => ?other, fun hown i off e hi hoff he => ?own⟩
  case other =>
    refine ⟨endCycle s (badAccess s), ?_, ?_, fun j hj _ => ?_, onlyChanges_regSet s _ _⟩
    · rw [exec_stageData, inCore_of_live hl, if_pos hother]
    · rw [regGet_endCycle]
      exact regGet_count_self (by decide) s
    · rw [regGet_endCycle]
      exact regGet_count_ne s _ _ (by simpa [badAccessReg] using hj)
  case own =>
    let x : Triple := { off := off, data := data, mask := regGet s (stageReg w.val 8) }
    let auto := bit (regGet s (stageReg w.val 0)) 8
    have hexec : exec (.stageData p w data) s = .next (endCycle s (stageMoved (stageTaken s w i e x) w auto off)) := by
      rw [exec_stageData, inCore_of_live hl, if_neg (not_not_intro hown)]
      subst hi hoff he
      rfl
    have hfrm : (endCycle s (stageMoved (stageTaken s w i e x) w auto off)).frm = (stageTaken s w i e x).frm := by
      rw [endCycle_frm, stageMoved_frm]
    have hregs (j : Nat) : regGet (stageTaken s w i e x) j = regGet s j := regGet_congr _ _ (same_stageTaken (q := .regs) (by simp) ..) j
    refine ⟨_, hexec, ?_, fun f h0 hf => ?_, fun h0 => ?_, fun j hj => ?_, ?_, fun j hj _ => ?_, onlyChanges_endCycle fun q hq _ _ => ?_⟩
    · rw [hfrm, stageTaken_stageErr]
    · rw [formeOf, hfrm, ← formeOf, h0, formeOf_stageTaken_self, hf]
      rfl
    · rw [hfrm, stageTaken_formes_of_error s w i h0]
    · rw [formeOf, hfrm, ← formeOf, formeOf_stageTaken_ne s w hj]
    · rw [regGet_endCycle, regGet_stageMoved, if_pos rfl, hregs]
    · rw [regGet_endCycle, regGet_stageMoved, if_neg (by simpa using hj), hregs]
    · obtain ⟨hf, hr⟩ : q ≠ .frm ∧ q ≠ .regs := by simpa using hq
      exact (same_stageTaken hf s w i e x).trans (same_stageMoved hr _ w auto off)

end Sys2Proof.Machine
end

section
/-! The mailbox protocol (R377 to R381, R385): the request that is served, the slot's registers once it is answered, and what an answer
leaves as it is. -/

namespace Sys2Proof.Machine
open Sys2Proof

/-! ### Wide writes (R8) -/

theorem regGet_regSetWide_outside {j : Nat} (ws : List Word) :
    ∀ {off : Nat} (s : State), j < off ∨ off + 4 * ws.length ≤ j → regGet (regSetWide s off ws) j = regGet s j := by
  induction ws with
  | nil => exact fun _ _ => rfl
  | cons w ws ih =>
    intro off s h
    rw [List.length_cons] at h
    rw [regSetWide, ih _ (by omega), regGet_regSet_ne _ _ _ _ (by omega)]

theorem regGet_regSetWide_word (ws : List Word) :
    ∀ {off : Nat} (s : State) {k : Nat} (hk : k < ws.length),
      regGet (regSetWide s off ws) (off + 4 * k) = ws[k] &&& maskOf (off + 4 * k) := by
  induction ws with
  | nil => exact fun _ _ hk => absurd hk (Nat.not_lt_zero _)
  | cons w ws ih =>
    intro off s k hk
    cases k with
    | zero =>
      rw [regSetWide, regGet_regSetWide_outside ws _ (by omega)]
      exact regGet_regSet_self s off w
    | succ k =>
      have hoff : off + 4 * (k + 1) = off + 4 + 4 * k := by omega
      rw [regSetWide, hoff, ih _ (by simpa using hk), List.getElem_cons_succ]

theorem same_regSetWide {q : Part} (h : q ≠ .regs) (ws : List Word) : ∀ (s : State) (off : Nat), q.same s (regSetWide s off ws) := by
  induction ws with
  | nil => exact fun s _ => .refl q s
  | cons w ws ih => exact fun s off => (same_regSet h s off w).trans (ih _ _)

@[simp] theorem wordsOf_length (n : Nat) (l : List Byte) : (wordsOf n l).length = n := by
  induction n generalizing l with
  | zero => rfl
  | succ n ih => rw [wordsOf, List.length_cons, ih]

theorem getElem_wordsOf (n : Nat) (l : List Byte) {k : Nat} (hk : k < (wordsOf n l).length) :
    (wordsOf n l)[k] = BitVec.ofNat 32 (leAt l (4 * k) 4) := by
  induction n generalizing l k with
  | zero => cases hk
  | succ n ih =>
    cases k with
    | zero => rfl
    | succ k =>
      have hdrop : (l.drop 4).drop (4 * k) = l.drop (4 * (k + 1)) := by rw [List.drop_drop]; congr 1; omega
      simp only [wordsOf, List.getElem_cons_succ, ih, leAt, hdrop]

/-! ### Bytes of a response -/

theorem bytesOf_length (ws : List Word) : (bytesOf ws).length = 4 * ws.length := by
  induction ws with
  | nil => rfl
  | cons w ws ih => rw [bytesOf, List.length_append, ih, leBytes_length, List.length_cons]; omega

theorem regWords_length (s : State) (n : Nat) : ∀ off, (regWords s off n).length = n := by
  induction n with
  | zero => exact fun _ => rfl
  | succ n ih => exact fun off => congrArg (· + 1) (ih (off + 4))

theorem mbxReq_length (s : State) (p : Party) (slot : Nat) : (mbxReq s p slot).length = 256 := by
  rw [mbxReq, bytesOf_length, regWords_length]

/-- A number that stands after bytes of a known length. -/
theorem leAt_append_leBytes {a r : List Byte} {off n v : Nat} (ha : a.length = off) (hv : v < 256 ^ n) :
    leAt (a ++ (leBytes n v ++ r)) off n = v := by
  rw [leAt, List.drop_left' ha, List.take_left' (leBytes_length n v), ofLe_leBytes n v hv]

/-- The bytes of a response (Table MBX-4): two of the request, STATUS and DETAIL, the request's cookie, RESULT0, RESULT1 and the data. -/
def rspBytes (req : List Byte) (status detail r0 r1 : Nat) (data : List Byte) : List Byte :=
  req.take 2 ++ [BitVec.ofNat 8 status, BitVec.ofNat 8 detail] ++ (req.drop 4).take 4 ++ leBytes 4 r0 ++ leBytes 4 r1 ++ padTo 0x1F0 data

section
variable {req : List Byte} (hreq : req.length = 256) (status detail r0 r1 : Nat) (data : List Byte)
include hreq

theorem leAt_rspBytes_r0 (h : r0 < 2 ^ 32) : leAt (rspBytes req status detail r0 r1 data) 8 4 = r0 := by
  unfold rspBytes
  rw [List.append_assoc, List.append_assoc]
  exact leAt_append_leBytes (by simp [hreq]) h

theorem leAt_rspBytes_r1 (h : r1 < 2 ^ 32) : leAt (rspBytes req status detail r0 r1 data) 12 4 = r1 := by
  unfold rspBytes
  rw [List.append_assoc]
  exact leAt_append_leBytes (by simp [hreq]) h

/-- STATUS stands in bits 23 to 16 of the first word. -/
theorem field_rspBytes_status (h : status < 256) :
    field (BitVec.ofNat 32 (leAt (rspBytes req status detail r0 r1 data) 0 4)) 23 16 = status := by
  obtain ⟨a, req, rfl⟩ := List.exists_cons_of_length_eq_add_one hreq
  obtain ⟨b, req, rfl⟩ := List.exists_cons_of_length_eq_add_one (Nat.succ.inj hreq)
  have ha := a.isLt
  have hb := b.isLt
  simp only [rspBytes, leAt, ofLe, field, Nat.shiftRight_eq_div_pow, List.take_succ_cons, List.take_zero, List.cons_append,
    List.nil_append, List.drop_zero, BitVec.toNat_ofNat]
  omega

end

/-! ### A slot's registers (R377) -/

theorem mbxBase_vf (n : Fin 63) (slot : Nat) : mbxBase (.vf n) slot = 0x80000000 + 0x10000 * (n.val + 1) + 0x400 * slot := rfl

/-- The mask of the row that holds an offset after rows that do not. -/
theorem maskOf_of_row {off : Nat} {pre post : List Row} {r : Row} (hrows : rowsAt off = pre ++ r :: post)
    (hpre : ∀ x ∈ pre, ¬ x.holds off = true) (hr : r.holds off = true) : maskOf off = r.mask := by
  have hnone : pre.find? (·.holds off) = none := List.find?_eq_none.mpr hpre
  rw [maskOf, rowOf, hrows, List.find?_append, hnone, Option.none_or, List.find?_cons_of_pos (p := fun x : Row => x.holds off) hr]
  rfl

/-- The row of a slot's response words. -/
theorem maskOf_mbxResponse {p : Party} {slot o : Nat} (h : slot < mbxSlots p) (ho : o < 128) :
    maskOf (mbxBase p slot + 0x200 + 4 * o) = BitVec.allOnes 32 := by
  cases p with
  | pf =>
    have hslot : slot < 32 := h
    have hrows : rowsAt (mbxBase .pf slot + 0x200 + 4 * o) = mbxRows.take 4 ++ mbxRows[4] :: mbxRows.drop 5 := by
      rw [mbxBase, rowsAt_of_block (b := 1) (by omega) (by decide)]
      rfl
    refine maskOf_of_row hrows ?_ ?_ <;> simp [mbxRows, Row.holds_iff, row, mbxBase] <;> omega
  | user u =>
    have hslot : slot < 4 := h
    have hrows : rowsAt (mbxBase (.user u) slot + 0x200 + 4 * o) = mbxRows.take 9 ++ mbxRows[9] :: mbxRows.drop 10 := by
      rw [mbxBase, rowsAt_of_block (b := 1) (by omega) (by decide)]
      rfl
    refine maskOf_of_row hrows ?_ ?_ <;> simp [mbxRows, Row.holds_iff, row, mbxBase] <;> omega
  | vf n =>
    have hslot : slot < 32 := h
    have hrows : rowsAt (mbxBase (.vf n) slot + 0x200 + 4 * o) = vfRows.take 4 ++ vfRows[4] :: vfRows.drop 5 := by
      rw [mbxBase_vf, rowsAt, if_pos (by omega)]
      rfl
    refine maskOf_of_row hrows ?_ ?_ <;> simp [vfRows, Row.holds_iff, row, mbxBase_vf] <;> omega
  | fjarera | smbus | i3c => cases h

/-- A slot's registers lie in MBX, or in a VF's window. -/
theorem mbxBase_bounds {p : Party} {slot : Nat} (h : slot < mbxSlots p) :
    (0x10000 ≤ mbxBase p slot ∧ mbxBase p slot + 0x400 ≤ 0x1C000) ∨ 0x80000000 ≤ mbxBase p slot := by
  cases p with
  | pf =>
    have hslot : slot < 32 := h
    simp only [mbxBase]; omega
  | user u =>
    have hslot : slot < 4 := h
    simp only [mbxBase]; omega
  | vf n => rw [mbxBase_vf]; omega
  | fjarera | smbus | i3c => cases h

/-! ### What an answer leaves as it is (R378) -/

theorem same_msixSend {q : Part} (h : q ∉ [.pba, .out]) (s : State) (fn vec : Nat) : q.same s (msixSend s fn vec) := by
  cases q
  case pba | out => simp at h
  all_goals simp [Part.same]

theorem same_mbxNotify {q : Part} (h : q ∉ [.regs, .pba, .out]) (s : State) (p : Party) (slot : Nat) : q.same s (mbxNotify s p slot) := by
  cases p with
  | user u => exact same_sourceEdge h s _
  | _ => exact same_msixSend (fun hm => h (List.mem_cons_of_mem _ hm)) s _ _

/-- A slot with its response written and DONE. -/
def mbxWritten (s : State) (p : Party) (slot : Nat) (rsp : List Byte) : State :=
  setMbxState (regSetWide s (mbxBase p slot + 0x200) (wordsOf 128 rsp)) p slot 3

/-- A slot's request is no longer listed as running. -/
def mbxStopped (s : State) (p : Party) (slot : Nat) : State :=
  { s with mbx := { s.mbx with running := s.mbx.running.filter fun r => !(r.party = p && r.slot = slot) } }

theorem regGet_mbxStopped (s : State) (p : Party) (slot j : Nat) : regGet (mbxStopped s p slot) j = regGet s j := rfl

theorem mbxDone_eq (s : State) (p : Party) (slot status detail r0 r1 : Nat) (data : List Byte) : mbxDone s p slot status detail r0 r1 data =
    mbxNotify (count (mbxStopped (mbxWritten s p slot (rspBytes (mbxReq s p slot) status detail r0 r1 data)) p slot) 0x1C004) p slot := rfl

theorem same_mbxWritten {q : Part} (h : q ≠ .regs) (s : State) (p : Party) (slot : Nat) (rsp : List Byte) :
    q.same s (mbxWritten s p slot rsp) :=
  (same_regSetWide h _ s _).trans (same_regSet h _ _ _)

theorem same_mbxStopped {q : Part} (h : q ≠ .mbx) (s : State) (p : Party) (slot : Nat) : q.same s (mbxStopped s p slot) := by
  cases q
  case mbx => exact absurd rfl h
  all_goals rfl

theorem same_mbxDone {q : Part} (h : q ∉ answering) (s : State) (p : Party) (slot status detail r0 r1 : Nat) (data : List Byte) :
    q.same s (mbxDone s p slot status detail r0 r1 data) := by
  obtain ⟨hregs, hmbx, hpba, hout⟩ : q ≠ .regs ∧ q ≠ .mbx ∧ q ≠ .pba ∧ q ≠ .out := by simpa [answering] using h
  rw [mbxDone_eq]
  exact (((same_mbxWritten hregs s p slot _).trans (same_mbxStopped hmbx _ p slot)).trans (same_count hregs _ _)).trans
    (same_mbxNotify (by simp [hregs, hpba, hout]) _ p slot)

section
variable {p : Party} {slot : Nat} (h : slot < mbxSlots p)
include h

/-- The count of responses and the message to the owner touch no register of the slot. -/
theorem regGet_mbxDone (s : State) (status detail r0 r1 : Nat) (data : List Byte) {j : Nat} (hc : j ≠ 0x1C004)
    (hj : j < 0x191000 ∨ 0x192000 ≤ j) : regGet (mbxDone s p slot status detail r0 r1 data) j =
      regGet (mbxWritten s p slot (rspBytes (mbxReq s p slot) status detail r0 r1 data)) j := by
  rw [mbxDone_eq, regGet_mbxNotify h _ hj, regGet_count_ne _ _ _ hc, regGet_mbxStopped]

theorem onlySlot_mbxDone (s : State) (status detail r0 r1 : Nat) (data : List Byte) :
    onlySlot p slot s (mbxDone s p slot status detail r0 r1 data) := by
  intro j hj hslot hc
  rw [regGet_mbxDone h s status detail r0 r1 data hc hj.irq, mbxWritten, setMbxState, regPut, regGet_regSet_ne _ _ _ _ (by omega),
    regGet_regSetWide_outside _ _ (by rw [wordsOf_length]; omega)]

/-- A word of the response. -/
theorem regGet_mbxDone_response (s : State) (status detail r0 r1 : Nat) (data : List Byte) {o : Nat} (ho : o < 128) :
    regGet (mbxDone s p slot status detail r0 r1 data) (mbxBase p slot + 0x200 + 4 * o) =
      BitVec.ofNat 32 (leAt (rspBytes (mbxReq s p slot) status detail r0 r1 data) (4 * o) 4) := by
  have hb := mbxBase_bounds h
  rw [regGet_mbxDone h s status detail r0 r1 data (by omega) (by omega), mbxWritten, setMbxState, regPut,
    regGet_regSet_ne _ _ _ _ (by omega), regGet_regSetWide_word _ _ (by rwa [wordsOf_length]), getElem_wordsOf, maskOf_mbxResponse h ho,
    BitVec.and_allOnes]

theorem mbxState_mbxDone (s : State) (status detail r0 r1 : Nat) (data : List Byte) :
    mbxState (mbxDone s p slot status detail r0 r1 data) p slot = 3 := by
  obtain ⟨hcount, hirq⟩ := mbxBase_range h
  rw [mbxState, regField, regGet_mbxDone h s status detail r0 r1 data hcount hirq]
  exact mbxState_setMbxState h _

/-- The slot is DONE with its STATUS, whatever its results are. -/
theorem status_mbxDone (s : State) {status : Nat} (hst : status < 256) (detail r0 r1 : Nat) (data : List Byte) :
    mbxState (mbxDone s p slot status detail r0 r1 data) p slot = 3 ∧
      field (regGet (mbxDone s p slot status detail r0 r1 data) (mbxBase p slot + 0x200)) 23 16 = status := by
  refine ⟨mbxState_mbxDone h s status detail r0 r1 data, ?_⟩
  rw [show mbxBase p slot + 0x200 = mbxBase p slot + 0x200 + 4 * 0 from rfl, regGet_mbxDone_response h s _ _ _ _ _ (by decide)]
  exact field_rspBytes_status (mbxReq_length s p slot) status detail r0 r1 data hst

/-- An answer stands in the slot's response (Table MBX-4). -/
theorem answered_mbxDone (s : State) {status r0 r1 : Nat} (detail : Nat) (data : List Byte) (hst : status < 256) (h0 : r0 < 2 ^ 32)
    (h1 : r1 < 2 ^ 32) : answered (mbxDone s p slot status detail r0 r1 data) p slot status r0 r1 := by
  have hreq := mbxReq_length s p slot
  have hword {o : Nat} := regGet_mbxDone_response h s status detail r0 r1 data (o := o)
  obtain ⟨hstate, hstatus⟩ := status_mbxDone h s hst detail r0 r1 data
  refine ⟨hstate, hstatus, ?_, ?_⟩
  · rw [show mbxBase p slot + 0x208 = mbxBase p slot + 0x200 + 4 * 2 from rfl, hword (by decide), leAt_rspBytes_r0 hreq _ _ _ _ _ h0,
      BitVec.toNat_ofNat, Nat.mod_eq_of_lt h0]
  · rw [show mbxBase p slot + 0x20C = mbxBase p slot + 0x200 + 4 * 3 from rfl, hword (by decide), leAt_rspBytes_r1 hreq _ _ _ _ _ h1,
      BitVec.toNat_ofNat, Nat.mod_eq_of_lt h1]

end

/-! ### The request that is served (R378, R381) -/

theorem same_mbxTake {q : Part} (h : q ∉ [.regs, .mbx]) (s : State) (p : Party) (slot : Nat) : q.same s (mbxTake s p slot) := by
  cases q
  case regs | mbx => simp at h
  all_goals rfl

/-- Taking a request touches its slot's STATE alone. -/
theorem regGet_mbxTake (s : State) (p : Party) (slot : Nat) {j : Nat} (h : j ≠ mbxBase p slot + 4) :
    regGet (mbxTake s p slot) j = regGet s j :=
  regGet_regSet_ne _ _ _ _ h

/-- A request whose turn has come, and which passes the checks of R381, is taken and goes to its command. -/
theorem serve_of_asks {s : State} {p : Party} {slot op : Nat} {req : List Byte} (h : asks s p slot op req)
    (f : State → List Byte → State) : serve s p slot op f = f (mbxTake s p slot) req := by
  obtain ⟨⟨hreq, hstate, hslot, hop, hon, hfree, hrun, hpage, hpermits⟩, hbad⟩ := h
  obtain ⟨c, hc, hp⟩ := (Option.any_eq_true _ _).mp hpermits
  rw [firstBad, hc, Option.bind_some] at hbad
  have hturn : ¬ (mbxState s p slot ≠ 1 ∨ slot ≥ mbxSlots p ∨ leAt req 0 2 ≠ op ∨ ¬ serviceOn s
      ∨ targetHeld s p slot (mbxTarget op req) ∨ runCount s ≥ 16) := by
    simp [hstate, hop, hon, hfree]; omega
  unfold serve
  rw [hreq, if_neg hturn]
  simp only [hc, hp, hpage, hbad, not_true_eq_false, Bool.false_eq_true, or_self, if_false]

theorem asks_slot {s : State} {p : Party} {slot op : Nat} {req : List Byte} (h : asks s p slot op req) : slot < mbxSlots p := by
  obtain ⟨⟨-, -, hslot, -⟩, -⟩ := h
  exact hslot

theorem same_flt {q : Part} (h : q ≠ .flt) (s : State) (x : FltBlk) : q.same s { s with flt := x } := by
  cases q
  case flt => exact absurd rfl h
  all_goals rfl

theorem same_journalCommit {q : Part} (h : q ≠ .flt) (s : State) : q.same s (journalCommit s) := by
  unfold journalCommit
  dsimp only
  split <;> exact same_flt h s _

/-! ### Incoming transfers (R385) -/

theorem windowHandle_mbxTake {s : State} {u : Fin 4} {slot : Nat} (h : slot < 4) (w : Nat) :
    windowHandle (mbxTake s (.user u) slot) u w = windowHandle s u w := by
  have hne : userReg u (0x40 + 4 * w) ≠ mbxBase (.user u) slot + 4 := by simp only [userReg, mbxBase]; omega
  rw [windowHandle, regGet_mbxTake _ _ _ hne]
  rfl

theorem coreAt_mbxTake {s : State} {u : Fin 4} {slot : Nat} (h : slot < 4) (addr n : Nat) :
    coreAt (mbxTake s (.user u) slot) u addr n = coreAt s u addr n := by
  unfold coreAt
  rw [windowHandle_mbxTake h]
  rfl

theorem coreDma_mbxTake {s : State} {u : Fin 4} {slot : Nat} (h : slot < 4) (addr n : Nat) :
    coreDma (mbxTake s (.user u) slot) u addr n = coreDma s u addr n := by
  rw [coreDma, coreAt_mbxTake h]
  rfl

theorem coreBytes_mbxTake {s : State} {u : Fin 4} {slot : Nat} (h : slot < 4) (addr n : Nat) :
    coreBytes (mbxTake s (.user u) slot) u addr n = coreBytes s u addr n := by
  rw [coreBytes, coreAt_mbxTake h]
  rfl

/-- Taking a request leaves its party's segments, what stands there, and its Bus Master Enable as they are. -/
theorem partySegs_mbxTake {p : Party} {slot : Nat} (h : slot < mbxSlots p) (s : State) (d : Desc) (buf : HostBuf) :
    partySegs (mbxTake s p slot) p d buf = partySegs s p d buf := by
  cases p with
  | user u =>
    have h4 : slot < 4 := h
    simp only [partySegs, coreDma_mbxTake h4, coreBytes_mbxTake h4]
  | _ => simp only [partySegs]

theorem partyData_mbxTake {p : Party} {slot : Nat} (h : slot < mbxSlots p) (s : State) (segs : List (Nat × Nat)) (buf : HostBuf) :
    partyData (mbxTake s p slot) p segs buf = partyData s p segs buf := by
  cases p with
  | user u =>
    have h4 : slot < 4 := h
    simp only [partyData, coreBytes_mbxTake h4]
  | _ => simp only [partyData]

theorem busMaster_mbxTake (s : State) (p : Party) (slot : Nat) : busMaster (mbxTake s p slot) p = busMaster s p := by
  have hhq : (mbxTake s p slot).hq = s.hq := same_mbxTake (q := .hq) (by simp) s p slot
  cases p <;> simp only [busMaster, hhq]

/-- A transfer of a request just taken whose segments can be reached, are large enough and can be read hands its data on. -/
theorem mbxFetch_mbxTake {s : State} {p : Party} {slot : Nat} {d : Desc} {buf : HostBuf} {want : Option Nat} {segs : List (Nat × Nat)}
    {l : List Byte} (h : slot < mbxSlots p) (hbus : busMaster s p = true) (hsegs : partySegs s p d buf = some (segs, true))
    (hmax : segTotal segs ≤ 1073741824) (hwant : ∀ n, want = some n → n ≤ segTotal segs) (hdata : partyData s p segs buf = some l)
    (k : State → List Byte → State) :
    mbxFetch (mbxTake s p slot) p slot d buf want k = k (mbxTake s p slot) (padTo (want.getD (segTotal segs)) l) := by
  have hsmall : (want.any fun n => decide (segTotal segs < n)) = false := by
    cases want with
    | none => rfl
    | some n => simpa using hwant n rfl
  unfold mbxFetch
  rw [busMaster_mbxTake, hbus, partySegs_mbxTake h, hsegs]
  simp only [not_true_eq_false, if_false, hsmall, partyData_mbxTake h, hdata, gt_iff_lt, Nat.not_lt.mpr hmax, Bool.false_eq_true, or_self]

end Sys2Proof.Machine
end

section
/-! Proof of the statement about FORME_OPEN, FORME_WRITE and FORME_LOAD (R63, R64, R67 to R70). -/

namespace Sys2Proof.Machine
open Sys2Proof

/-! ### The formes of a request just taken, and of its answer -/

theorem frm_mbxTake (s : State) (p : Party) (slot : Nat) : (mbxTake s p slot).frm = s.frm :=
  same_mbxTake (q := .frm) (by simp) s p slot

theorem formeOf_congr {s t : State} (h : t.frm = s.frm) (i : Nat) : formeOf t i = formeOf s i := by rw [formeOf, h, formeOf]

theorem stagedBy_mbxTake (s : State) (q p : Party) (slot i : Nat) : stagedBy (mbxTake s p slot) q i = stagedBy s q i := by
  rw [stagedBy, formeOf_congr (frm_mbxTake s p slot), stagedBy]

theorem areaBytes_mbxTake (s : State) (p : Party) (slot : Nat) : areaBytes (mbxTake s p slot) = areaBytes s := by
  rw [areaBytes, frm_mbxTake, areaBytes]

theorem stagedCount_mbxTake (s : State) (p : Party) (slot : Nat) : stagedCount (mbxTake s p slot) = stagedCount s := by
  rw [stagedCount, frm_mbxTake, stagedCount]

theorem formeOf_journalCommit (s : State) (i : Nat) : formeOf (journalCommit s) i = formeOf s i :=
  formeOf_congr (same_journalCommit (q := .frm) (by simp) s) i

/-- The end of the cycle of a request that has been answered: what `u` makes of the request just taken, with its answer. -/
abbrev replied (s u : State) (p : Party) (slot status detail r0 r1 : Nat) : State := endCycle s (mbxReply u p slot status detail r0 r1)

section
variable {s u : State} {p : Party} {slot : Nat}

theorem formeOf_replied (status detail r0 r1 j : Nat) : formeOf (replied s u p slot status detail r0 r1) j = formeOf u j :=
  formeOf_congr (by rw [endCycle_frm, mbxReply_frm]) j

theorem answered_replied (h : slot < mbxSlots p) {status r0 r1 : Nat} (detail : Nat) (hst : status < 256) (h0 : r0 < 2 ^ 32)
    (h1 : r1 < 2 ^ 32) : answered (replied s u p slot status detail r0 r1) p slot status r0 r1 := by
  simp only [answered, mbxState, regField, regGet_endCycle]
  exact answered_mbxDone h u detail [] hst h0 h1

theorem status_replied (h : slot < mbxSlots p) {status : Nat} (hst : status < 256) (detail r0 r1 : Nat) :
    mbxState (replied s u p slot status detail r0 r1) p slot = 3 ∧
      field (regGet (replied s u p slot status detail r0 r1) (mbxBase p slot + 0x200)) 23 16 = status := by
  simp only [mbxState, regField, regGet_endCycle]
  exact status_mbxDone h u hst detail r0 r1 []

theorem onlyChanges_replied {l : List Part} (hu : ∀ q : Part, q ∉ l → q.same (mbxTake s p slot) u) (status detail r0 r1 : Nat) :
    onlyChanges (l ++ answering) s (replied s u p slot status detail r0 r1) := by
  refine onlyChanges_endCycle fun q hq _ _ => ?_
  obtain ⟨hl, ha⟩ : q ∉ l ∧ q ∉ answering := by simpa using hq
  have htake : q ∉ [Part.regs, .mbx] := fun hm => ha (by simp [answering] at hm ⊢; tauto)
  exact ((same_mbxTake htake s p slot).trans (hu q hl)).trans (same_mbxDone ha u ..)

theorem onlySlot_replied (h : slot < mbxSlots p) (hu : u.regs = (mbxTake s p slot).regs) (status detail r0 r1 : Nat) :
    onlySlot p slot s (replied s u p slot status detail r0 r1) := fun j hj hslot hc => by
  rw [regGet_endCycle]
  exact (onlySlot_mbxDone h u status detail r0 r1 [] j hj hslot hc).trans
    ((regGet_congr _ _ hu j).trans (regGet_mbxTake s p slot (by omega)))

/-- The answer to a request that has changed the formes, and has been committed to the journal (R386). -/
theorem formes_replied (h : slot < mbxSlots p) (hu : ∀ q : Part, q ≠ .frm → q.same (mbxTake s p slot) u) {r0 r1 : Nat}
    (h0 : r0 < 2 ^ 32) (h1 : r1 < 2 ^ 32) :
    answered (replied s (journalCommit u) p slot stSuccess 0 r0 r1) p slot 0 r0 r1 ∧
      (∀ j, formeOf (replied s (journalCommit u) p slot stSuccess 0 r0 r1) j = formeOf u j) ∧
      onlySlot p slot s (replied s (journalCommit u) p slot stSuccess 0 r0 r1) ∧
      onlyChanges (.frm :: .flt :: answering) s (replied s (journalCommit u) p slot stSuccess 0 r0 r1) := by
  have hjournal (q : Part) (hq : q ∉ [Part.frm, .flt]) : q.same (mbxTake s p slot) (journalCommit u) := by
    obtain ⟨hf, hj⟩ : q ≠ .frm ∧ q ≠ .flt := by simpa using hq
    exact (hu q hf).trans (same_journalCommit hj u)
  exact ⟨answered_replied h 0 (by decide) h0 h1, fun j => (formeOf_replied ..).trans (formeOf_journalCommit u j),
    onlySlot_replied h (hjournal .regs (by simp)) _ _ _ _, onlyChanges_replied hjournal ..⟩

end

/-! ### FORME_OPEN (R67, R68) -/

/-- A forme just opened by a party. -/
def openedForme (p : Party) : Forme :=
  { st := .staged, owner := p, writes := [], objs := [], apply := 0, ordinal := 0, commitNo := 0, due := none }

/-- The formes with one put at an identifier. -/
def putForme (s : State) (i : Nat) (f : Forme) : State := modFrm s fun x => { x with formes := mPut x.formes i f }

theorem formeOf_putForme (s : State) (i j : Nat) (f : Forme) : formeOf (putForme s i f) j = if j = i then some f else formeOf s j :=
  mGet_mPut s.frm.formes i j f

theorem exec_formeOpen (p : Party) (k : Fin 32) (s : State) : exec (.formeOpen p k) s =
    inCore s fun s => serve s p k 0x0101 fun s req =>
      if (formeOf s (byteAt req 0x10).toNat).isSome then mbxReply s p k stNotReady 0 0 0
      else if stagedCount s ≥ 8 then mbxReply s p k stExhausted 0 0 0
      else mbxReply (journalCommit (putForme s (byteAt req 0x10).toNat (openedForme p))) p k stSuccess 0 0 0 := rfl

theorem formeOpen_of_free {s : State} {p : Party} {k : Fin 32} {req : List Byte} {i : Nat} (hl : s.live = true)
    (ha : asks s p k.val 0x0101 req) (hi : i = (byteAt req 0x10).toNat) (hfree : formeOf s i = none) (hroom : stagedCount s < 8) :
    exec (.formeOpen p k) s =
      .next (replied s (journalCommit (putForme (mbxTake s p k) i (openedForme p))) p k stSuccess 0 0 0) := by
  have hfree' : ¬ (formeOf (mbxTake s p k) i).isSome = true := by simp [formeOf_congr (frm_mbxTake s p k), hfree]
  have hroom' : ¬ stagedCount (mbxTake s p k) ≥ 8 := by rw [stagedCount_mbxTake]; omega
  rw [exec_formeOpen, inCore_of_live hl, serve_of_asks ha, ← hi, if_neg hfree', if_neg hroom']

/-! ### FORME_WRITE (R63, R70) -/

/-- A forme with its writes replaced. -/
def setWrites (s : State) (i : Nat) (ws : List Triple) : State := modForme s i fun f => { f with writes := ws }

/-- The writes of a forme with triples merged onto them in order. -/
abbrev mergedWrites (f : Forme) (ts : List Triple) : List Triple := ts.foldl mergeTriple f.writes

/-- What FORME_WRITE makes of its triples once they are at hand. -/
def writeTriples (s : State) (p : Party) (k : Fin 32) (i : Nat) (f : Forme) (ts : List Triple) : State :=
  match ts.findIdx? fun t => !isFs t.off with
  | some j => mbxReply s p k stInvalidField 1 0 j
  | none =>
    if (mergedWrites f ts).length > maxWrites then mbxReply s p k stExhausted 0 0 0
    else mbxReply (journalCommit (setWrites s i (mergedWrites f ts))) p k stSuccess 0 (mergedWrites f ts).length 0

theorem writeTriples_of_staged {f : Forme} {ts : List Triple} (hfs : ∀ x ∈ ts, isFs x.off = true)
    (hlen : (mergedWrites f ts).length ≤ 16384) (s : State) (p : Party) (k : Fin 32) (i : Nat) : writeTriples s p k i f ts =
      mbxReply (journalCommit (setWrites s i (mergedWrites f ts))) p k stSuccess 0 (mergedWrites f ts).length 0 := by
  have hnone : ts.findIdx? (fun t => !isFs t.off) = none := by simpa [List.findIdx?_eq_none_iff] using hfs
  rw [writeTriples, hnone]
  exact if_neg (Nat.not_lt.mpr hlen)

theorem writeTriples_of_unstaged {ts : List Triple} (hbad : ∃ x ∈ ts, isFs x.off = false) (s : State) (p : Party) (k : Fin 32) (i : Nat)
    (f : Forme) : ∃ j, writeTriples s p k i f ts = mbxReply s p k stInvalidField 1 0 j := by
  have hsome : (ts.findIdx? fun t => !isFs t.off).isSome = true := by simpa [List.findIdx?_isSome] using hbad
  obtain ⟨j, hj⟩ := Option.isSome_iff_exists.mp hsome
  exact ⟨j, by rw [writeTriples, hj]⟩

theorem exec_formeWrite (p : Party) (k : Fin 32) (buf : HostBuf) (s : State) : exec (.formeWrite p k buf) s =
    inCore s fun s => serve s p k 0x0102 fun s req => match stagedBy s p (byteAt req 0x10).toNat with
      | none => mbxBadField s p k 0x10
      | some f => mbxFetch s p k (descAt req 0x20) buf (some (12 * leAt req 0x14 4)) fun s l =>
        writeTriples s p k (byteAt req 0x10).toNat f (triplesOf (leAt req 0x14 4) l) := rfl

/-- Its triples are at hand once the request is taken. -/
theorem formeWrite_of_fetched {s : State} {p : Party} {k : Fin 32} {req l : List Byte} {buf : HostBuf} {i n : Nat} {f : Forme}
    {segs : List (Nat × Nat)} (hl : s.live = true) (ha : asks s p k.val 0x0102 req) (hi : i = (byteAt req 0x10).toNat)
    (hn : n = leAt req 0x14 4) (hf : stagedBy s p i = some f) (hbus : busMaster s p = true)
    (hsegs : partySegs s p (descAt req 0x20) buf = some (segs, true)) (hsize : 12 * n ≤ segTotal segs)
    (hmax : segTotal segs ≤ 1073741824) (hdata : partyData s p segs buf = some l) :
    exec (.formeWrite p k buf) s = .next (endCycle s (writeTriples (mbxTake s p k) p k i f (triplesOf n (padTo (12 * n) l)))) := by
  rw [exec_formeWrite, inCore_of_live hl, serve_of_asks ha, ← hi, ← hn, stagedBy_mbxTake, hf]
  dsimp only
  rw [mbxFetch_mbxTake (asks_slot ha) hbus hsegs hmax (by rintro _ ⟨⟩; exact hsize) hdata, Option.getD_some]

/-! ### FORME_LOAD (R63, R64, R70) -/

/-- A forme with an object appended. -/
def addObj (s : State) (i : Nat) (o : BulkObj) : State := modForme s i fun f => { f with objs := f.objs ++ [o] }

theorem padTo_self (l : List Byte) : padTo l.length l = l := by simp [padTo, zeros]

theorem exec_formeLoad (p : Party) (k : Fin 32) (buf : HostBuf) (s : State) : exec (.formeLoad p k buf) s =
    inCore s fun s => serve s p k 0x0103 fun s req => match stagedBy s p (byteAt req 0x10).toNat with
      | none => mbxBadField s p k 0x10
      | some f =>
        if f.objs.length ≥ maxObjs ∨ areaBytes s + pageUp (leAt req 0x28 4) > formeArea ∧ ¬ (descAt req 0x20).sgl then
          mbxReply s p k stExhausted 0 0 0
        else mbxFetch s p k (descAt req 0x20) buf none fun s l =>
          if (byteAt l 0).toNat ≠ (byteAt req 0x11).toNat then mbxBadField s p k 0x11
          else if ¬ headerOk (byteAt req 0x11).toNat l then mbxBadField s p k 0x20
          else if areaBytes s + pageUp l.length > formeArea then mbxReply s p k stExhausted 0 0 0
          else mbxReply (journalCommit (addObj s (byteAt req 0x10).toNat
            { kind := (byteAt req 0x11).toNat, slot := (byteAt req 0x12).toNat, bytes := l })) p k stSuccess 0 (f.objs.length + 1) 0 := rfl

theorem formeLoad_of_room {s : State} {p : Party} {k : Fin 32} {req l : List Byte} {buf : HostBuf} {i kind n : Nat} {f : Forme}
    {segs : List (Nat × Nat)} (hl : s.live = true) (ha : asks s p k.val 0x0103 req) (hi : i = (byteAt req 0x10).toNat)
    (hkind : kind = (byteAt req 0x11).toNat) (hn : n = (byteAt req 0x12).toNat) (hf : stagedBy s p i = some f)
    (hobjs : f.objs.length < 16) (hbus : busMaster s p = true) (hsegs : partySegs s p (descAt req 0x20) buf = some (segs, true))
    (hmax : segTotal segs ≤ 1073741824) (hdata : partyData s p segs buf = some l) (hlen : l.length = segTotal segs)
    (hpre : (descAt req 0x20).sgl = false → areaBytes s + pageUp (leAt req 0x28 4) ≤ 536870912)
    (hbyte : (byteAt l 0).toNat = kind) (hhead : headerOk kind l = true) (hroom : areaBytes s + pageUp l.length ≤ 536870912) :
    exec (.formeLoad p k buf) s = .next (replied s (journalCommit (addObj (mbxTake s p k) i { kind := kind, slot := n, bytes := l }))
      p k stSuccess 0 (f.objs.length + 1) 0) := by
  have hfits : ¬ areaBytes s + pageUp l.length > formeArea := Nat.not_lt.mpr hroom
  have hbefore : ¬ (f.objs.length ≥ maxObjs ∨ areaBytes s + pageUp (leAt req 0x28 4) > formeArea ∧ ¬ (descAt req 0x20).sgl) := by
    rintro (h | ⟨h, hsgl⟩)
    · exact absurd hobjs (Nat.not_lt.mpr h)
    · exact absurd h (Nat.not_lt.mpr (hpre (by simpa using hsgl)))
  rw [exec_formeLoad, inCore_of_live hl, serve_of_asks ha, ← hi, ← hkind, ← hn, stagedBy_mbxTake, hf]
  dsimp only
  rw [areaBytes_mbxTake, if_neg hbefore, mbxFetch_mbxTake (asks_slot ha) hbus hsegs hmax (by rintro _ ⟨⟩) hdata, Option.getD_none,
    ← hlen, padTo_self, if_neg (not_not_intro hbyte), if_neg (not_not_intro hhead), areaBytes_mbxTake,
    if_neg hfits]

/-! ### The statement -/

/-- Settles O17: each command's answer, with what it has made of the formes, is `formes_replied`. -/
theorem formeCommandsStageWrites : Obligations.FormeCommandsStageWrites := by
  refine ⟨fun s p k req i hl ha hi hfree hroom => ?opened,
    fun s p k req l buf i n f segs hl ha hi hn hf hbus hsegs hsize hmax hdata => ⟨fun hfs hlen => ?written, fun hbad => ?refused⟩,
    fun s p k req l buf i kind n f segs hl ha hi hkind hn hf hobjs hbus hsegs hmax hdata hlen hpre hbyte hhead hroom => ?loaded⟩
  case opened =>
    obtain ⟨hans, hforme, hslot, hchange⟩ := formes_replied (s := s) (u := putForme (mbxTake s p k) i (openedForme p)) (asks_slot ha)
      (fun q hq => same_modFrm hq _ _) (r0 := 0) (r1 := 0) (by decide) (by decide)
    refine ⟨_, openedForme p, formeOpen_of_free hl ha hi hfree hroom, hans, ?_, rfl, rfl, rfl, rfl, fun j hj => ?_, hslot, hchange⟩
    · rw [hforme, formeOf_putForme, if_pos rfl]
    · rw [hforme, formeOf_putForme, if_neg hj, formeOf_congr (frm_mbxTake s p k)]
  case written =>
    obtain ⟨hforme_s, -, -⟩ := stagedBy_eq_some hf
    obtain ⟨hans, hforme, hslot, hchange⟩ := formes_replied (s := s)
      (u := setWrites (mbxTake s p k) i (mergedWrites f (triplesOf n (padTo (12 * n) l)))) (asks_slot ha)
      (fun q hq => same_modForme hq _ _ _) (r0 := (mergedWrites f (triplesOf n (padTo (12 * n) l))).length) (r1 := 0)
      (Nat.lt_of_le_of_lt hlen (by decide)) (by decide)
    refine ⟨_, (formeWrite_of_fetched hl ha hi hn hf hbus hsegs hsize hmax hdata).trans
      (by rw [writeTriples_of_staged hfs hlen]), hans, ?_, fun j hj => ?_, hslot, hchange⟩
    · rw [hforme, setWrites, formeOf_modForme_self, formeOf_congr (frm_mbxTake s p k), hforme_s]
      rfl
    · rw [hforme, setWrites, formeOf_modForme_ne _ hj, formeOf_congr (frm_mbxTake s p k)]
  case refused =>
    obtain ⟨j, hj⟩ := writeTriples_of_unstaged hbad (mbxTake s p k) p k i f
    obtain ⟨hstate, hstatus⟩ := status_replied (asks_slot ha) (status := stInvalidField) (by decide) 1 0 j
    exact ⟨_, (formeWrite_of_fetched hl ha hi hn hf hbus hsegs hsize hmax hdata).trans (by rw [hj]), hstate, hstatus,
      onlyChanges_replied (l := []) (fun q _ => .refl q _) ..⟩
  case loaded =>
    obtain ⟨hforme_s, -, -⟩ := stagedBy_eq_some hf
    obtain ⟨hans, hforme, hslot, hchange⟩ := formes_replied (s := s)
      (u := addObj (mbxTake s p k) i { kind := kind, slot := n, bytes := l }) (asks_slot ha) (fun q hq => same_modForme hq _ _ _)
      (r0 := f.objs.length + 1) (r1 := 0) (by omega) (by decide)
    refine ⟨_, formeLoad_of_room hl ha hi hkind hn hf hobjs hbus hsegs hmax hdata hlen hpre hbyte hhead hroom, hans, ?_, fun j hj => ?_,
      hslot, hchange⟩
    · rw [hforme, addObj, formeOf_modForme_self, formeOf_congr (frm_mbxTake s p k), hforme_s]
      rfl
    · rw [hforme, addObj, formeOf_modForme_ne _ hj, formeOf_congr (frm_mbxTake s p k)]

end Sys2Proof.Machine
end

section
/-! Two statements are refuted. Of FORME_DISCARD of a Locked forme (R76): it takes any state, so also one whose formes are not in the
canonical form. Of LINE_PACKET (R82): the registers that a frame without a bank takes are those in force as its tag is chosen, which is after
its first line has raised ING.CRSc_HWM. -/

namespace Sys2Proof.Machine
open Sys2Proof

/-- What is read of the next state that an instruction leads to. -/
def readAfter {α : Type} (i : Instr) (s : State) (read : State → α) : Option α := match exec i s with
  | .next t => some (read t)
  | _ => none

theorem readAfter_of_next {α : Type} {i : Instr} {s t : State} (h : exec i s = .next t) (read : State → α) :
    readAfter i s read = some (read t) := by simp only [readAfter, h]

/-! ### A discarded forme that is listed twice (R76) -/

/-- A forme of the PF without content, in a state of its life. -/
def aForme (st : FormeSt) : Forme :=
  { st := st, owner := .pf, writes := [], objs := [], apply := 0, ordinal := 0, commitNo := 1, due := some 1 }

/-- Identifier 5 is listed as Locked, and then once more as Staged; the PF asks in slot 0 to discard it. -/
def twiceListed : State :=
  { State.reset with
    live := true, sys := { State.reset.sys with ready := true }, regs := [(0x10004, 0x40000000), (0x10100, 0x0105), (0x10110, 5)],
    frm := { State.reset.frm with formes := [(5, aForme .locked), (5, aForme .staged)], lockedList := [5] } }

theorem asks_twiceListed : asks twiceListed .pf 0 0x0105 (mbxReq twiceListed .pf 0) ∧
    (byteAt (mbxReq twiceListed .pf 0) 0x10).toNat = 5 := by decide +kernel

/-- The Locked forme is discarded and, as no bank is held for it, Free at once; the one behind it comes to light. -/
theorem formeDiscard_twiceListed :
    readAfter (.formeDiscard .pf 0) twiceListed (fun t => (formeOf t 5).map (·.st)) = some (some .staged) := by decide +kernel

/-- Refutes O18: in `twiceListed`, where identifier 5 is listed twice, it is Staged after the discard of the Locked forme. No command
leads to such a state, as FORME_OPEN takes a Free identifier only; the statement does not ask that the formes be in the canonical form. -/
theorem not_formeLockUpAndDiscard : ¬ Obligations.FormeLockUpAndDiscard := by
  rintro ⟨-, -, -, hdiscard, -⟩
  obtain ⟨hasks, hi⟩ := asks_twiceListed
  obtain ⟨-, hlocked⟩ := hdiscard twiceListed .pf 0 _ 5 (aForme .locked) rfl hasks hi.symm rfl rfl
  obtain ⟨t, hexec, -, -, hst, -⟩ := hlocked rfl rfl rfl
  have hread := (readAfter_of_next hexec _).symm.trans formeDiscard_twiceListed
  obtain ⟨g, hg, hstaged⟩ := Option.map_eq_some_iff.mp (Option.some.inj hread)
  cases (hst g hg).symm.trans hstaged

/-! ### A first line that raises its course's high-water mark (R82, R128) -/

/-- A line of frame 0: line 3 of 8, 2 pixels of 10 bits, closed by its CRC (Table ING-1). -/
def firstLine : List Byte :=
  let b := [1, 0, 0, 0, 0, 0, 0, 0, 3, 0, 8, 0, 2, 0, 0, 0] ++ [0x11, 0x22, 0x03]
  b ++ leBytes 4 (crcFrom 0xFFFFFFFF b ^^^ 0xFFFFFFFF)

def firstPacket : OpenPkt :=
  { ty := 1, stream := 0, slot := some 0, len := 23, bytes := firstLine, errored := false, aborted := false }

/-- Frame 0 of slot 0 on course 0, expecting tag 1 and 8 lines of 2 pixels, none of them accepted yet. -/
def bareFrame : Frame :=
  { fr := {
      hostJob := false, slot := 0, tag := 0, formeId := 0, ord := 0, ptp := 0, timecode := 0, tcUser := 0, status := 0, linesReceived := 0,
      linesExpected := 8, linesCrc := 0, linesDiscarded := 0, ratio := 0, ratioPrev := 0, trbBytes := 0, courses := 1, tempBand := 0,
      refSource := 0, hostContext := 0, expNs := 0, periodNs := 0, phase := 0, metadata := [] },
    issueTick := 0, expAt := 0, lineTime := 1000, expTag := 1, echo := false, cfg := [(0x60000, 0x80002), (0x60004, 0)], tagKnown := false,
    bankRegs := [], bankObjs := [], lines := [], frameLines := 0, engineBad := [], fired := [], hold := .none, wins := [], closed := false,
    trb := [], trbRows := 0, gone := [], fetchFailed := false }

/-- That frame is in progress, no bank of its slot carries tag 1, and its first line waits on link 0. -/
def bareState : State :=
  let s : State := { State.reset with live := true, regs := [(0x60000, 0x80002), (0x60004, 0)] }
  modLink (modFrames (modCad s 0 fun c => { c with issued := 1 }) 0 fun _ => [bareFrame]) 0 fun l => { l with rx := [.packet firstPacket] }

theorem bareState_line : lineFails bareState 0 firstPacket = false ∧ lineWaits bareState firstPacket = false ∧
    (lineHdr firstLine).ord = 0 ∧ (lineHdr firstLine).line = 3 ∧ (lineHdr firstLine).frameLines = 8 ∧
    (issuedNo bareState 0 0).isSome = true ∧ frets bareFrame.cfg 0 = [] ∧
    (fillBuffers (drainBuffers bareState (Vector.replicate 4 0)) (stripeBytes bareFrame)).isSome = true := by decide +kernel

/-- ING.CRS0_HWM among the registers of the slot's frames. -/
def hwmOfFrames (t : State) : List Word := t.ing.frames[(0 : Fin 8)].map fun g => rmGet g.bankRegs 0x61010

/-- The line takes 4 bytes of course 0's buffer, and the frame's registers hold the mark raised to 4. -/
theorem linePacket_bareState : readAfter (.linePacket 0 (Vector.replicate 4 0) .none) bareState hwmOfFrames = some [4] := by decide +kernel

theorem hwm_tagRegs_bareState : rmGet (tagRegs bareState 0 1) 0x61010 = 0 := by decide +kernel

/-- Refutes O24: the frame in `bareState` expects the tag of no bank, so its registers are those in force. The statement takes them from the
state before the line, the model from the state in which the course buffers have taken it (R82, R128). -/
theorem not_linesAreClassified : ¬ Obligations.LinesAreClassified := by
  rintro ⟨-, -, haccepted⟩
  obtain ⟨hfails, hwaits, hord, hline, hlines, hissued, hfrets, hfill⟩ := bareState_line
  obtain ⟨-, hfirst⟩ := haccepted bareState 0 (Vector.replicate 4 0) .none firstPacket [] 0 bareFrame (lineHdr firstLine) rfl rfl rfl
    rfl hfails rfl rfl hwaits rfl hord.symm (hord ▸ hissued) hfrets (by rw [hline]; decide) (by rintro y ⟨⟩) hfill
  obtain ⟨t, g, hexec, hframes, -, -, hregs, -⟩ :=
    hfirst rfl rfl rfl (by rw [hline, hlines]; decide) (by rw [hlines]; decide)
  have hread := (readAfter_of_next hexec hwmOfFrames).symm.trans linePacket_bareState
  have hhwm : hwmOfFrames t = [rmGet (tagRegs bareState 0 1) 0x61010] := by
    rw [hwmOfFrames, hframes, List.map_singleton, hregs]
    rfl
  rw [hhwm, hwm_tagRegs_bareState] at hread
  cases hread

end Sys2Proof.Machine
end

section
/-! Links and lanes (chapter 04): what a change of one of them leaves as it is, and on what of a state it depends which lanes and slots a
link has. -/

namespace Sys2Proof.Machine
open Sys2Proof

/-! ### A link or a lane changed -/

theorem same_modLink {q : Part} (h : q ≠ .lnk) (s : State) (k : Nat) (f : Link → Link) : q.same s (modLink s k f) := by
  cases q
  case lnk => exact absurd rfl h
  all_goals rfl

theorem same_modLane {q : Part} (h : q ≠ .lnk) (s : State) (j : Nat) (f : Lane → Lane) : q.same s (modLane s j f) := by
  cases q
  case lnk => exact absurd rfl h
  all_goals rfl

@[simp] theorem regGet_modLink (s : State) (k : Nat) (f : Link → Link) (i : Nat) : regGet (modLink s k f) i = regGet s i := rfl

@[simp] theorem regGet_modLane (s : State) (j : Nat) (f : Lane → Lane) (i : Nat) : regGet (modLane s j f) i = regGet s i := rfl

theorem lanes_modLink (s : State) (k : Nat) (f : Link → Link) : (modLink s k f).lnk.lanes = s.lnk.lanes := rfl

theorem links_modLane (s : State) (j : Nat) (f : Lane → Lane) : (modLane s j f).lnk.links = s.lnk.links := rfl

theorem link_modLink_self (s : State) (k : Fin 4) (f : Link → Link) : (modLink s k.val f).lnk.links[k] = f s.lnk.links[k] :=
  vMod_getElem_self ..

theorem link_modLink_ne (s : State) {k i : Fin 4} (h : i ≠ k) (f : Link → Link) : (modLink s k.val f).lnk.links[i] = s.lnk.links[i] :=
  vMod_getElem_ne _ h _

theorem lane_modLane_self (s : State) (j : Fin 32) (f : Lane → Lane) : (modLane s j.val f).lnk.lanes[j] = f s.lnk.lanes[j] :=
  vMod_getElem_self ..

theorem lane_modLane_ne (s : State) {j i : Fin 32} (h : i ≠ j) (f : Lane → Lane) : (modLane s j.val f).lnk.lanes[i] = s.lnk.lanes[i] :=
  vMod_getElem_ne _ h _

/-! ### The configuration that a link runs under -/

/-- The links run under the same configurations in two states: CFG, LANES and SLOTS, and what a link keeps while a change waits (R105). -/
structure SameLinks (s t : State) : Prop where
  regs : ∀ (k : Fin 4) (o : Nat), o ≤ 8 → regGet t (lkReg k.val o) = regGet s (lkReg k.val o)
  held : ∀ k : Fin 4, (t.lnk.links[k]).held = (s.lnk.links[k]).held

theorem SameLinks.refl (s : State) : SameLinks s s := ⟨fun _ _ _ => rfl, fun _ => rfl⟩

theorem SameLinks.trans {s t u : State} (h : SameLinks s t) (h' : SameLinks t u) : SameLinks s u :=
  ⟨fun k o ho => (h'.regs k o ho).trans (h.regs k o ho), fun k => (h'.held k).trans (h.held k)⟩

theorem sameLinks_of_eq {s t : State} (hregs : t.regs = s.regs) (hlinks : t.lnk.links = s.lnk.links) : SameLinks s t :=
  ⟨fun _ _ _ => regGet_congr _ _ hregs _, fun k => by rw [hlinks]⟩

/-- The offsets of the registers of LNK that hold no link's CFG, LANES or SLOTS. -/
def offLinkCfg (off : Nat) : Prop := off < 0x50000 ∨ 0x50400 ≤ off ∨ 0xC ≤ off % 0x100

theorem offLinkCfg.ne {off : Nat} (h : offLinkCfg off) (k : Fin 4) {o : Nat} (ho : o ≤ 8) : lkReg k.val o ≠ off := by
  unfold offLinkCfg at h
  unfold lkReg
  omega

theorem offLinkCfg_laneReg (j o : Nat) : offLinkCfg (laneReg j o) := by
  unfold offLinkCfg laneReg
  omega

theorem sameLinks_regSet {off : Nat} (h : offLinkCfg off) (s : State) (v : Word) : SameLinks s (regSet s off v) :=
  ⟨fun k _ ho => regGet_regSet_ne _ _ _ _ (h.ne k ho), fun _ => rfl⟩

theorem sameLinks_count {off : Nat} (h : offLinkCfg off) (s : State) : SameLinks s (count s off) := sameLinks_regSet h s _

theorem sameLinks_modLane (s : State) (j : Nat) (f : Lane → Lane) : SameLinks s (modLane s j f) := ⟨fun _ _ _ => rfl, fun _ => rfl⟩

theorem sameLinks_modLink {f : Link → Link} (hf : ∀ l, (f l).held = l.held) (s : State) (k : Fin 4) : SameLinks s (modLink s k.val f) := by
  refine ⟨fun _ _ _ => rfl, fun i => ?_⟩
  by_cases h : i = k
  · rw [h, link_modLink_self, hf]
  · rw [link_modLink_ne s h]

section
variable {s t : State} (h : SameLinks s t)
include h

theorem SameLinks.heldLink (k : Fin 4) : heldLink t k.val = heldLink s k.val := by
  have hheld := h.held k
  simp only [Fin.getElem_fin] at hheld
  simp [Machine.heldLink, hheld]

theorem SameLinks.linkCfg (k : Fin 4) : linkCfg t k.val = linkCfg s k.val := by
  rw [Machine.linkCfg, h.heldLink, h.regs k 0 (by decide), Machine.linkCfg]

theorem SameLinks.linkLanes (k : Fin 4) : linkLanes t k.val = linkLanes s k.val := by
  rw [Machine.linkLanes, h.heldLink, h.regs k 4 (by decide), Machine.linkLanes]

theorem SameLinks.linkSlots (k : Fin 4) : linkSlots t k.val = linkSlots s k.val := by
  rw [Machine.linkSlots, h.heldLink, h.regs k 8 (by decide), Machine.linkSlots]

theorem SameLinks.linkEnabled (k : Fin 4) : linkEnabled t k.val = linkEnabled s k.val := by
  rw [Machine.linkEnabled, h.linkCfg, Machine.linkEnabled]

theorem SameLinks.lanesOf (k : Fin 4) : lanesOf t k.val = lanesOf s k.val := by rw [Machine.lanesOf, h.linkLanes, Machine.lanesOf]

theorem SameLinks.slotsOf (k : Fin 4) : slotsOf t k.val = slotsOf s k.val := by rw [Machine.slotsOf, h.linkSlots, Machine.slotsOf]

theorem SameLinks.laneLink (j : Nat) : laneLink t j = laneLink s j := by
  simp only [Machine.laneLink, h.linkEnabled, h.linkLanes]

theorem SameLinks.laneAssigned (j : Nat) : laneAssigned t j = laneAssigned s j := by
  simp only [Machine.laneAssigned, linkOn, regBit, h.regs _ 0 (by decide), h.regs _ 4 (by decide)]

end

end Sys2Proof.Machine
end

section
/-! Proof of the statement about BLOCK_RECEIVED and AM_RECEIVED (R92, R94 to R98, R102, R113). -/

namespace Sys2Proof.Machine
open Sys2Proof

/-! ### Changes of a lane, one after another -/

theorem vMod_vMod {α : Type} {n : Nat} (v : Vector α n) (i : Fin n) (f g : α → α) :
    vMod (vMod v i.val f) i.val g = vMod v i.val fun x => g (f x) := by
  simp [vMod]

theorem modLane_modLane (s : State) (j : Fin 32) (f g : Lane → Lane) :
    modLane (modLane s j.val f) j.val g = modLane s j.val fun l => g (f l) := by
  simp only [modLane, vMod_vMod]

theorem modLane_congr {s : State} {j : Fin 32} {f g : Lane → Lane} (h : f s.lnk.lanes[j] = g s.lnk.lanes[j]) :
    modLane s j.val f = modLane s j.val g := by
  have hv : s.lnk.lanes[j.val] = s.lnk.lanes[j] := rfl
  simp only [modLane, vMod, j.isLt, dif_pos, hv, h]

theorem count_modLane (s : State) (j : Nat) (f : Lane → Lane) (off : Nat) : count (modLane s j f) off = modLane (count s off) j f := rfl

theorem countN_modLane (s : State) (j : Nat) (f : Lane → Lane) (off n : Nat) :
    countN (modLane s j f) off n = modLane (countN s off n) j f := rfl

theorem regPut_modLane (s : State) (j : Nat) (f : Lane → Lane) (off hi lo v : Nat) :
    regPut (modLane s j f) off hi lo v = modLane (regPut s off hi lo v) j f := rfl

/-- The cycle of a command that changes a lane. -/
theorem onlyChanges_modLane (s : State) (j : Nat) (f : Lane → Lane) : onlyChanges [.lnk] s (endCycle s (modLane s j f)) :=
  onlyChanges_endCycle fun q hq _ _ => same_modLane (by simpa using hq) s j f

theorem maskOf_laneCount : ∀ j : Fin 32, ∀ o ∈ [8, 0xC, 0x10, 0x14, 0x18, 0x1C, 0x20], maskOf (laneReg j.val o) = BitVec.allOnes 32 := by
  decide +kernel

/-- The cycle of a command that counts in one of a lane's counters and changes the lane. -/
theorem count_modLane_spec (s : State) (j : Fin 32) {o : Nat} (ho : o ∈ [8, 0xC, 0x10, 0x14, 0x18, 0x1C, 0x20]) (f : Lane → Lane) :
    regGet (endCycle s (modLane (count s (laneReg j.val o)) j.val f)) (laneReg j.val o) = satInc (regGet s (laneReg j.val o)) ∧
      onlyRegs [laneReg j.val o] s (endCycle s (modLane (count s (laneReg j.val o)) j.val f)) ∧
      onlyChanges [.lnk, .regs] s (endCycle s (modLane (count s (laneReg j.val o)) j.val f)) := by
  refine ⟨?_, fun i hi _ => ?_, onlyChanges_endCycle fun q hq _ _ => ?_⟩
  · rw [regGet_endCycle, regGet_modLane, regGet_count_self (maskOf_laneCount j o ho)]
  · rw [regGet_endCycle, regGet_modLane, regGet_count_ne _ _ _ (by simpa using hi)]
  · obtain ⟨hlnk, hregs⟩ : q ≠ .lnk ∧ q ≠ .regs := by simpa using hq
    exact (same_count hregs s _).trans (same_modLane hlnk _ _ _)

/-! ### Headers (R94, R97) -/

/-- A valid sync header (R91). -/
def validHdr (hdr : BitVec 2) : Bool := hdr = 1#2 || hdr = 2#2

theorem validHdr_of_bad {hdr : BitVec 2} (h : hdr = 0 ∨ hdr = 3) : validHdr hdr = false := by rcases h with rfl | rfl <;> rfl

theorem ne_of_badHdr {hdr : BitVec 2} (h : hdr = 0 ∨ hdr = 3) : hdr ≠ 1 ∧ hdr ≠ 2 := by rcases h with rfl | rfl <;> decide

theorem validHdr_of_good {hdr : BitVec 2} (h : hdr = 1 ∨ hdr = 2) : validHdr hdr = true := by rcases h with rfl | rfl <;> rfl

/-- A lane whose window of 64 headers has moved on. -/
def windowed (p b : Nat) (l : Lane) : Lane := { l with winPos := p, winBad := b }

section
variable {s : State} {j : Fin 32} (hlock : (s.lnk.lanes[j]).blockLock = true)
include hlock

theorem headerBlk_of_locked (ok : Bool) : headerBlk s j ok = windowHeader s j ok := by rw [headerBlk, if_pos hlock]

/-- A valid header of a window with fewer than 16 invalid ones keeps block lock. -/
theorem headerBlk_good (hbad : (s.lnk.lanes[j]).winBad < 16) : ∃ p b, headerBlk s j true = modLane s j.val (windowed p b) := by
  have hfew : ¬ (s.lnk.lanes[j]).winBad + 0 ≥ 16 := Nat.not_le.mpr hbad
  rw [headerBlk_of_locked hlock, windowHeader]
  rw [if_pos rfl, if_pos rfl]
  split
  · exact ⟨0, 0, rfl⟩
  · exact ⟨_, _, modLane_congr rfl⟩

/-- An invalid header that is not the sixteenth of its window is counted. -/
theorem headerBlk_bad (hbad : (s.lnk.lanes[j]).winBad < 15) : ∃ p b, headerBlk s j false =
    modLane (count s (laneReg j.val 8)) j.val fun l => windowed p b { l with errCur := l.errCur + 1 } := by
  have hfew : ¬ (s.lnk.lanes[j]).winBad + 1 ≥ 16 := by omega
  rw [headerBlk_of_locked hlock, windowHeader]
  rw [if_neg Bool.false_ne_true, if_neg Bool.false_ne_true]
  split
  · exact ⟨0, 0, modLane_modLane (count s _) j _ _⟩
  · refine ⟨(s.lnk.lanes[j]).winPos + 1, (s.lnk.lanes[j]).winBad + 1, ?_⟩
    rw [modLane_modLane]
    exact modLane_congr rfl

/-- A lane that has lost block lock at an invalid header. -/
def unlocked (l : Lane) : Lane :=
  { l with errCur := l.errCur + 1, blockLock := false, goodRun := 0, winPos := 0, winBad := 0, amLock := false, sinceAm := none,
           amMiss := 0 }

/-- The window's last header is its sixteenth invalid one or a later one: block lock is lost. -/
theorem headerBlk_lost (hpos : (s.lnk.lanes[j]).winPos = 63) (hbad : 15 ≤ (s.lnk.lanes[j]).winBad) (hfree : laneLink s j.val = none) :
    headerBlk s j false = modLane (count (count s (laneReg j.val 8)) (laneReg j.val 0xC)) j.val unlocked := by
  have hmany : (s.lnk.lanes[j]).winBad + 1 ≥ 16 := by omega
  have hlast : (s.lnk.lanes[j]).winPos + 1 ≥ 64 := by omega
  rw [headerBlk_of_locked hlock, windowHeader]
  rw [if_neg Bool.false_ne_true, if_neg Bool.false_ne_true, if_pos hlast, if_pos hmany, loseBlockLock]
  rw [count_modLane, modLane_modLane, ((sameLinks_count (offLinkCfg_laneReg _ _) _).trans
    ((sameLinks_count (offLinkCfg_laneReg _ _) _).trans (sameLinks_modLane _ _ _))).laneLink, hfree]
  rfl

end

/-- What a header does to a lane that seeks block lock. -/
def sought (ok : Bool) (l : Lane) : Lane :=
  if ok then
    if l.goodRun + 1 ≥ 64 then { l with blockLock := true, goodRun := 0, winPos := 0, winBad := 0 }
    else { l with goodRun := l.goodRun + 1 }
  else { l with goodRun := 0, slip := (l.slip + 1) % 66 }

theorem headerBlk_seeking {s : State} {j : Fin 32} (h : (s.lnk.lanes[j]).blockLock = false) (ok : Bool) :
    headerBlk s j ok = modLane s j.val (sought ok) := by
  rw [headerBlk, if_neg (by simpa using h)]
  rfl

theorem sought_sinceAm (ok : Bool) (l : Lane) : (sought ok l).sinceAm = l.sinceAm := by
  unfold sought
  split
  · split <;> rfl
  · rfl

/-! ### The way behind a lane (R101, R102) -/

theorem throughLane_of_unassigned {s : State} {j : Fin 32} (h : laneLink s j.val = none) (b : Option RxBlk) (reads : Nat) :
    throughLane s j b reads = s := by
  rw [throughLane, h]

/-- A block on a lane of a link in LOCKING comes into the elastic buffer, which has room, and waits there. -/
theorem throughLane_of_locking {s : State} {j : Fin 32} {k : Fin 4} (hk : laneLink s j.val = some k)
    (hst : (s.lnk.links[k]).st = .locking) (hlock : (s.lnk.lanes[j]).blockLock = true) (heb : (s.lnk.lanes[j]).eb.length < 20) (b : RxBlk) :
    throughLane s j (some b) 0 = modLane s j.val fun l => { l with eb := l.eb ++ [b] } := by
  have hst' : ((modLane s j.val fun l => { l with eb := l.eb ++ [b] }).lnk.links[k]).st = .locking := hst
  have hwrite : ebWrite s j k b = modLane s j.val fun l => { l with eb := l.eb ++ [b] } := by
    rw [ebWrite, if_neg (by omega), if_neg (by omega)]
  have hdeskew : tryDeskew (modLane s j.val fun l => { l with eb := l.eb ++ [b] }) k =
      modLane s j.val fun l => { l with eb := l.eb ++ [b] } := by
    rw [tryDeskew, hst', if_pos (by decide)]
  have hread : reassemble 256 (modLane s j.val fun l => { l with eb := l.eb ++ [b] }) k =
      modLane s j.val fun l => { l with eb := l.eb ++ [b] } := by
    rw [reassemble, hst', if_pos (by decide)]
  rw [throughLane, hk]
  dsimp only
  rw [if_neg (not_not_intro hlock), Nat.zero_min, ebRead, Option.elim_some, hwrite, hdeskew, hread, hst', if_neg (by rintro ⟨⟨⟩, -⟩)]

/-! ### Blocks that are no markers -/

theorem notMarker_of_none {s : State} {j : Fin 32} (h : (s.lnk.lanes[j]).sinceAm = none) : notMarker s j = s := by
  rw [notMarker, h]

/-- A block that is no marker, as far as the marker grid. -/
def examined (s : State) (j : Fin 32) (hdr : BitVec 2) : State := notMarker (headerBlk s j (validHdr hdr)) j

/-- What a block that is no marker hands on, descrambled. -/
def plainItem (hdr : BitVec 2) (d : BitVec 64) : RxBlk :=
  if ¬ validHdr hdr then .bad
  else if hdr = 2#2 then .data (leBytes 8 d.toNat)
  else if byteAt (leBytes 8 d.toNat) 0 = 0x1E then .filler else .ctl (leBytes 8 d.toNat)

theorem plainBlock_eq (s : State) (j : Fin 32) (hdr : BitVec 2) (payload : BitVec 64) (reads : Nat) :
    plainBlock s j hdr payload reads = throughLane
      (modLane (examined s j hdr) j.val fun l =>
        { l with descr := (descramble payload 64 ((examined s j hdr).lnk.lanes[j]).descr 0#64).1 }) j
      (some (plainItem hdr (descramble payload 64 ((examined s j hdr).lnk.lanes[j]).descr 0#64).2)) reads := by
  unfold plainBlock examined validHdr plainItem
  dsimp only
  generalize descramble payload 64 _ 0#64 = hd
  rfl

/-- A block that holds no marker, on a lane that is not under test and not inverted. -/
theorem blockReceived_plain {s : State} {j : Fin 32} {hdr : BitVec 2} {payload : BitVec 64} (hl : s.live = true)
    (htest : regField s (laneReg j.val 4) 30 28 = 0) (hinv : (s.lnk.lanes[j]).invert = false)
    (h1 : hdr = 1 → markerOf (leBytes 8 payload.toNat) = none) (h2 : hdr = 2 → markerOf (leBytes 8 (~~~payload).toNat) = none)
    (reads : Nat) :
    exec (.blockReceived j hdr payload reads) s = .next (endCycle s (plainBlock s j hdr payload reads)) := by
  have hup : (if hdr = 1#2 then markerOf (leBytes 8 payload.toNat) else none) = none := by
    split
    · exact h1 ‹_›
    · rfl
  have hdown : (if hdr = 2#2 then markerOf (leBytes 8 (~~~payload).toNat) else none) = none := by
    split
    · exact h2 ‹_›
    · rfl
  rw [show exec (.blockReceived j hdr payload reads) s = execBlockReceived j hdr payload reads s from rfl, execBlockReceived,
    inCore_of_live hl]
  dsimp only
  rw [testMode, if_neg (not_not_intro htest), hinv, if_neg Bool.false_ne_true, if_neg Bool.false_ne_true, hup]
  dsimp only
  rw [hdown]

/-- On a lane of no link, of which no marker has been seen, a block goes no further. -/
theorem plainBlock_of_unassigned {s u : State} {j : Fin 32} {hdr : BitVec 2} (hu : headerBlk s j (validHdr hdr) = u)
    (hsince : (u.lnk.lanes[j]).sinceAm = none) (hfree : laneLink u j.val = none) (payload : BitVec 64) (reads : Nat) :
    ∃ d, plainBlock s j hdr payload reads = modLane u j.val fun l => { l with descr := d } := by
  rw [plainBlock_eq, examined, hu, notMarker_of_none hsince,
    throughLane_of_unassigned (((sameLinks_modLane _ _ _).laneLink _).trans hfree)]
  exact ⟨_, rfl⟩

theorem plainBlock_seeking {s : State} {j : Fin 32} (hfree : laneLink s j.val = none) (hlock : (s.lnk.lanes[j]).blockLock = false)
    (hsince : (s.lnk.lanes[j]).sinceAm = none) (hdr : BitVec 2) (payload : BitVec 64) (reads : Nat) :
    ∃ d, plainBlock s j hdr payload reads = modLane s j.val fun l => { sought (validHdr hdr) l with descr := d } := by
  obtain ⟨d, hd⟩ := plainBlock_of_unassigned (headerBlk_seeking hlock (validHdr hdr))
    (by rw [lane_modLane_self, sought_sinceAm]; exact hsince) (((sameLinks_modLane _ _ _).laneLink _).trans hfree) payload reads
  exact ⟨d, by rw [hd, modLane_modLane]⟩

theorem plainBlock_lost {s : State} {j : Fin 32} {hdr : BitVec 2} (hfree : laneLink s j.val = none)
    (hlock : (s.lnk.lanes[j]).blockLock = true) (hpos : (s.lnk.lanes[j]).winPos = 63) (hbad : 15 ≤ (s.lnk.lanes[j]).winBad)
    (hhdr : validHdr hdr = false) (payload : BitVec 64) (reads : Nat) :
    ∃ d, plainBlock s j hdr payload reads =
      modLane (count (count s (laneReg j.val 8)) (laneReg j.val 0xC)) j.val fun l => { unlocked l with descr := d } := by
  have hlinks (f : Lane → Lane) : SameLinks s (modLane (count (count s (laneReg j.val 8)) (laneReg j.val 0xC)) j.val f) :=
    (sameLinks_count (offLinkCfg_laneReg _ _) _).trans ((sameLinks_count (offLinkCfg_laneReg _ _) _).trans (sameLinks_modLane _ _ _))
  obtain ⟨d, hd⟩ := plainBlock_of_unassigned (by rw [hhdr, headerBlk_lost hlock hpos hbad hfree]) (by rw [lane_modLane_self]; rfl)
    (((hlinks _).laneLink _).trans hfree) payload reads
  exact ⟨d, by rw [hd, modLane_modLane]⟩

/-- On a lane of a link in LOCKING, of which no marker has been seen, a block comes into the elastic buffer. -/
theorem plainBlock_of_locking {s u : State} {j : Fin 32} {k : Fin 4} {hdr : BitVec 2} (hu : headerBlk s j (validHdr hdr) = u)
    (hk : laneLink u j.val = some k) (hst : (u.lnk.links[k]).st = .locking) (hlock : (u.lnk.lanes[j]).blockLock = true)
    (hsince : (u.lnk.lanes[j]).sinceAm = none) (heb : (u.lnk.lanes[j]).eb.length < 20) (payload : BitVec 64) :
    ∃ d, plainBlock s j hdr payload 0 = modLane u j.val fun l =>
      { l with descr := d, eb := l.eb ++ [plainItem hdr (descramble payload 64 (u.lnk.lanes[j]).descr 0#64).2] } := by
  rw [plainBlock_eq, examined, hu, notMarker_of_none hsince,
    throughLane_of_locking (((sameLinks_modLane _ _ _).laneLink _).trans hk) hst (by rw [lane_modLane_self]; exact hlock)
      (by rw [lane_modLane_self]; exact heb), modLane_modLane]
  exact ⟨_, rfl⟩

/-! ### Markers (R95, R96, R98) -/

theorem onGrid_iff (l : Lane) : onGrid l = true ↔ l.sinceAm = some 16383 := decide_eq_true_iff

section
variable {s : State} {j : Fin 32}

/-- 16,384 blocks after the marker that set the grid, the next one gains marker lock. -/
theorem onMarker_gains (ham : (s.lnk.lanes[j]).amLock = false) (hsince : (s.lnk.lanes[j]).sinceAm = some 16383) (logical width : Nat) :
    onMarker s j logical width = modLane s j.val fun l =>
      { l with amLock := true, sinceAm := some 0, amMiss := 0, logical := logical, width := width } := by
  rw [onMarker, ham, if_neg Bool.false_ne_true, if_pos ((onGrid_iff _).mpr hsince)]

/-- Before marker lock a marker elsewhere begins the grid. -/
theorem onMarker_begins (ham : (s.lnk.lanes[j]).amLock = false) (hsince : (s.lnk.lanes[j]).sinceAm ≠ some 16383) (logical width : Nat) :
    onMarker s j logical width = modLane s j.val fun l => { l with sinceAm := some 0 } := by
  rw [onMarker, ham, if_neg Bool.false_ne_true, if_neg (mt (onGrid_iff _).mp hsince)]

/-- With marker lock a marker off the grid is counted. -/
theorem onMarker_offGrid (ham : (s.lnk.lanes[j]).amLock = true) {d : Nat} (hsince : (s.lnk.lanes[j]).sinceAm = some d) (hd : d < 16383)
    (logical width : Nat) :
    onMarker s j logical width = modLane (count s (laneReg j.val 0x10)) j.val fun l => { l with sinceAm := some (d + 1) } := by
  have hoff : ¬ onGrid s.lnk.lanes[j] = true := by
    rw [onGrid_iff, hsince]
    rintro ⟨⟩
    exact absurd hd (by decide)
  have hsince' : ((count s (laneReg j.val 0x10)).lnk.lanes[j]).sinceAm = some d := hsince
  rw [onMarker, ham, if_pos rfl, if_neg hoff, notMarker]
  dsimp only
  rw [hsince']
  dsimp only
  rw [if_pos (by omega)]

variable (hfree : laneLink s j.val = none) (hlock : (s.lnk.lanes[j]).blockLock = true) (hbad : (s.lnk.lanes[j]).winBad < 16)
include hfree hlock hbad

/-- An inverted marker before marker lock sets INVERT. -/
theorem markerBlk_inverted (ham : (s.lnk.lanes[j]).amLock = false) (lane width seq reads : Nat) :
    ∃ p b, markerBlk s j true lane width seq reads =
      modLane s j.val fun l => { windowed p b l with invert := true, sinceAm := none } := by
  obtain ⟨p, b, hhead⟩ := headerBlk_good hlock hbad
  refine ⟨p, b, ?_⟩
  rw [markerBlk, hhead]
  dsimp only
  rw [lane_modLane_self, if_neg (not_not_intro (show (windowed p b s.lnk.lanes[j]).blockLock = true from hlock)), if_pos rfl,
    show (windowed p b s.lnk.lanes[j]).amLock = false from ham,
    if_neg Bool.false_ne_true, modLane_modLane, throughLane_of_unassigned (((sameLinks_modLane _ _ _).laneLink _).trans hfree)]
  rfl

/-- A marker before marker lock goes no further than the lane's grid. -/
theorem markerBlk_seeking (ham : (s.lnk.lanes[j]).amLock = false) (lane width seq reads : Nat) :
    ∃ p b, markerBlk s j false lane width seq reads = onMarker (modLane s j.val (windowed p b)) j lane width := by
  obtain ⟨p, b, hhead⟩ := headerBlk_good hlock hbad
  have hlane : ((modLane s j.val (windowed p b)).lnk.lanes[j]).amLock = false := by rw [lane_modLane_self]; exact ham
  have hlink : laneLink (onMarker (modLane s j.val (windowed p b)) j lane width) j.val = none := by
    by_cases hsince : ((modLane s j.val (windowed p b)).lnk.lanes[j]).sinceAm = some 16383
    · rw [onMarker_gains hlane hsince, modLane_modLane, (sameLinks_modLane _ _ _).laneLink, hfree]
    · rw [onMarker_begins hlane hsince, modLane_modLane, (sameLinks_modLane _ _ _).laneLink, hfree]
  refine ⟨p, b, ?_⟩
  rw [markerBlk, hhead]
  dsimp only
  rw [hlane, if_neg (by rw [lane_modLane_self]; exact not_not_intro hlock), if_neg Bool.false_ne_true,
    if_neg (fun h => Bool.false_ne_true h.1), hlink, throughLane_of_unassigned hlink]

/-- A marker off the grid of a locked lane is counted, and goes no further. -/
theorem markerBlk_offGrid (ham : (s.lnk.lanes[j]).amLock = true) {d : Nat} (hsince : (s.lnk.lanes[j]).sinceAm = some d) (hd : d < 16383)
    (lane width seq reads : Nat) : ∃ p b, markerBlk s j false lane width seq reads =
      modLane (count s (laneReg j.val 0x10)) j.val fun l => { windowed p b l with sinceAm := some (d + 1) } := by
  obtain ⟨p, b, hhead⟩ := headerBlk_good hlock hbad
  have ham' : ((modLane s j.val (windowed p b)).lnk.lanes[j]).amLock = true := by rw [lane_modLane_self]; exact ham
  have hsince' : ((modLane s j.val (windowed p b)).lnk.lanes[j]).sinceAm = some d := by rw [lane_modLane_self]; exact hsince
  have hoff : ¬ onGrid (modLane s j.val (windowed p b)).lnk.lanes[j] = true := by
    rw [onGrid_iff, hsince']
    rintro ⟨⟩
    exact absurd hd (by decide)
  refine ⟨p, b, ?_⟩
  rw [markerBlk, hhead]
  dsimp only
  rw [if_neg (by rw [lane_modLane_self]; exact not_not_intro hlock), if_neg Bool.false_ne_true, if_pos ⟨ham', hoff⟩,
    onMarker_offGrid ham' hsince' hd, count_modLane, modLane_modLane, throughLane_of_unassigned]
  exact (((sameLinks_count (offLinkCfg_laneReg _ _) _).trans (sameLinks_modLane _ _ _)).laneLink _).trans hfree

end

theorem amReceived_of_untested {s : State} {j : Fin 32} (hl : s.live = true) (htest : regField s (laneReg j.val 4) 30 28 = 0)
    (hinv : (s.lnk.lanes[j]).invert = false) (inv : Bool) (lane widthM1 : Fin 8) (seq : Byte) (reads : Nat) :
    exec (.amReceived j inv lane widthM1 seq reads) s =
      .next (endCycle s (markerBlk s j inv lane.val (widthM1.val + 1) seq.toNat reads)) := by
  rw [show exec (.amReceived j inv lane widthM1 seq reads) s = execAmReceived j inv lane widthM1 seq reads s from rfl, execAmReceived,
    inCore_of_live hl]
  dsimp only
  rw [testMode, if_neg (not_not_intro htest), hinv, Bool.xor_false]

/-! ### Lanes under test (R113) -/

/-- The 66 bits that a lane under test checks: those of the on-die generator in modes 2 and 3, else the received ones. -/
def testBits (s : State) (j : Fin 32) (hdr : BitVec 2) (payload : BitVec 64) : List Bool :=
  if testMode s j.val = 2 ∨ testMode s j.val = 3 then
    (prbsGen (prbsTaps (regField s (laneReg j.val 4) 27 26)) 66 (s.lnk.lanes[j]).gen []).1
  else blockBits hdr payload

/-- The checker's counts and its lock in a lane's registers. -/
def prbsShown (s : State) (j : Fin 32) (p : Prbs) (e : Nat) : State :=
  regPut (countN (countN s (laneReg j.val 0x1C) e) (laneReg j.val 0x20) (p.bits / 1048576)) (laneReg j.val 4) 25 25
    (if p.locked then 1 else 0)

theorem prbsShown_modLane (s : State) (j : Fin 32) (f : Lane → Lane) (p : Prbs) (e : Nat) :
    prbsShown (modLane s j.val f) j p e = modLane (prbsShown s j p e) j.val f := by
  rw [prbsShown, prbsShown, countN_modLane, countN_modLane, regPut_modLane]

/-- What the checker makes of 66 bits. -/
theorem prbsBlock_eq {s : State} {j : Fin 32} {bits : List Bool} {p : Prbs} {e : Nat}
    (hbits : prbsBits (prbsTaps (regField s (laneReg j.val 4) 27 26)) bits (s.lnk.lanes[j]).prbs 0 = (p, e)) :
    prbsBlock s j bits = modLane (prbsShown s j p e) j.val fun l => { l with prbs := { p with bits := p.bits % 1048576 } } := by
  rw [prbsBlock, hbits]
  rfl

/-- What the checker makes of a block of a lane that has never been mapped. -/
theorem testBlock_of_unmapped {s : State} {j : Fin 32} {hdr : BitVec 2} {payload : BitVec 64} {p : Prbs} {e : Nat}
    (hmap : (s.lnk.lanes[j]).mapped = none)
    (hbits : prbsBits (prbsTaps (regField s (laneReg j.val 4) 27 26)) (testBits s j hdr payload) (s.lnk.lanes[j]).prbs 0 = (p, e)) :
    ∃ g, testBlock s j hdr payload =
      modLane (prbsShown s j p e) j.val fun l => { l with gen := g, prbs := { p with bits := p.bits % 1048576 } } := by
  have hinv : ¬ ((s.lnk.lanes[j]).invert && (s.lnk.lanes[j]).mapped.isSome) = true := by rw [hmap]; simp
  rw [testBits] at hbits
  rw [testBlock]
  dsimp only
  rw [if_neg hinv]
  generalize prbsGen _ 66 _ [] = own at hbits ⊢
  by_cases hown : testMode s j.val = 2 ∨ testMode s j.val = 3
  · have hown' : (decide (testMode s j.val = 2) || decide (testMode s j.val = 3)) = true := by simpa using hown
    rw [if_pos hown] at hbits
    rw [if_pos hown', if_pos hown', prbsBlock_eq (p := p) (e := e) (by rw [lane_modLane_self]; exact hbits),
      prbsShown_modLane, modLane_modLane]
    exact ⟨own.2, rfl⟩
  · have hown' : ¬ (decide (testMode s j.val = 2) || decide (testMode s j.val = 3)) = true := by simpa using hown
    rw [if_neg hown] at hbits
    rw [if_neg hown', if_neg hown', prbsBlock_eq hbits]
    exact ⟨(s.lnk.lanes[j]).gen, modLane_congr rfl⟩

/-- The lock bit put into a lane's control register stands there, under its mask. -/
theorem bit_putField_lock (w : Word) (b : Bool) : bit (putField w 25 25 (if b = true then 1 else 0) &&& 0x7E000000) 25 = b := by
  cases b <;> simp [bit, putField, fieldMask]

theorem regs_prbsShown (s : State) (j : Fin 32) (p : Prbs) (e : Nat) :
    regGet (prbsShown s j p e) (laneReg j.val 0x1C) = satAdd (regGet s (laneReg j.val 0x1C)) e ∧
      regGet (prbsShown s j p e) (laneReg j.val 0x20) = satAdd (regGet s (laneReg j.val 0x20)) (p.bits / 1048576) ∧
      regBit (prbsShown s j p e) (laneReg j.val 4) 25 = p.locked ∧
      onlyRegs [laneReg j.val 4, laneReg j.val 0x1C, laneReg j.val 0x20] s (prbsShown s j p e) := by
  have herr := maskOf_laneCount j 0x1C (by decide)
  have hbits := maskOf_laneCount j 0x20 (by decide)
  have hctl : maskOf (laneReg j.val 4) = 0x7E000000 := by revert j; decide +kernel
  have h4 : laneReg j.val 0x1C ≠ laneReg j.val 4 ∧ laneReg j.val 0x20 ≠ laneReg j.val 4 ∧ laneReg j.val 0x1C ≠ laneReg j.val 0x20 := by
    unfold laneReg; omega
  obtain ⟨hne4, hne4', hne⟩ := h4
  refine ⟨?_, ?_, ?_, fun i hi _ => ?_⟩
  · rw [prbsShown, regGet_regPut, if_neg hne4, countN, regGet_regSet_ne _ _ _ _ hne, countN, regGet_regSet_self, herr,
      BitVec.and_allOnes]
  · rw [prbsShown, regGet_regPut, if_neg hne4', countN, regGet_regSet_self, hbits, BitVec.and_allOnes, countN,
      regGet_regSet_ne _ _ _ _ hne.symm]
  · rw [regBit, prbsShown, regGet_regPut, if_pos rfl, hctl, bit_putField_lock]
  · simp only [List.mem_cons, List.not_mem_nil, or_false, not_or] at hi
    obtain ⟨hi4, hi1c, hi20⟩ := hi
    rw [prbsShown, regGet_regPut, if_neg hi4, countN, regGet_regSet_ne _ _ _ _ hi20, countN, regGet_regSet_ne _ _ _ _ hi1c]

theorem same_prbsShown {q : Part} (h : q ≠ .regs) (s : State) (j : Fin 32) (p : Prbs) (e : Nat) : q.same s (prbsShown s j p e) :=
  (same_regSet h s _ _).trans ((same_regSet h _ _ _).trans (same_regSet h _ _ _))

theorem blockReceived_of_tested {s : State} (hl : s.live = true) {j : Fin 32} (htest : regField s (laneReg j.val 4) 30 28 ≠ 0)
    (hdr : BitVec 2) (payload : BitVec 64) (reads : Nat) :
    exec (.blockReceived j hdr payload reads) s = .next (endCycle s (testBlock s j hdr payload)) := by
  rw [show exec (.blockReceived j hdr payload reads) s = execBlockReceived j hdr payload reads s from rfl, execBlockReceived,
    inCore_of_live hl]
  dsimp only
  rw [testMode, if_pos htest]

theorem amReceived_of_tested {s : State} (hl : s.live = true) {j : Fin 32} (htest : regField s (laneReg j.val 4) 30 28 ≠ 0)
    (inv : Bool) (lane widthM1 : Fin 8) (seq : Byte) (reads : Nat) :
    exec (.amReceived j inv lane widthM1 seq reads) s = .next (endCycle s
      (if inv = true then testBlock s j 2 (~~~payloadOf (markerBytes lane.val (widthM1.val + 1) seq.toNat))
        else testBlock s j 1 (payloadOf (markerBytes lane.val (widthM1.val + 1) seq.toNat)))) := by
  rw [show exec (.amReceived j inv lane widthM1 seq reads) s = execAmReceived j inv lane widthM1 seq reads s from rfl, execAmReceived,
    inCore_of_live hl]
  dsimp only
  rw [testMode, if_pos htest]
  rfl

theorem plainItem_of_bad {hdr : BitVec 2} (h : hdr = 0 ∨ hdr = 3) (d : BitVec 64) : plainItem hdr d = .bad := by
  rw [plainItem, validHdr_of_bad h, if_pos Bool.false_ne_true]

theorem exists_blockReceived {s : State} (hl : s.live = true) (j : Fin 32) (hdr : BitVec 2) (payload : BitVec 64) (reads : Nat) :
    ∃ t, exec (.blockReceived j hdr payload reads) s = .next t := by
  rw [show exec (.blockReceived j hdr payload reads) s = execBlockReceived j hdr payload reads s from rfl, execBlockReceived,
    inCore_of_live hl]
  exact ⟨_, rfl⟩

/-! ### The statement -/

/-- Settles O21: each command by what its lane has locked to; the way behind the lane ends where it has no link or its link locks. -/
theorem linkReceivePath : Obligations.LinkReceivePath := by
  unfold Obligations.LinkReceivePath
  refine ⟨fun s j hdr payload reads hl htest hinv hfree hlock hsince hup hdown => ?seeking,
    fun s j k hdr payload hl htest hinv hk hst hlock hbad hsince heb => ?buffered,
    fun s j hdr payload reads hl htest hinv hfree hlock hpos hbad hsince hhdr => ?lost,
    fun s j inv lane widthM1 seq reads hl htest hinv hfree hlock hbad ham => ?marker,
    fun s j lane widthM1 seq reads d hl htest hinv hfree hlock hbad ham hsince hd => ?offGrid,
    fun s j hdr payload reads p e hl htest hmap hbits => ?tested,
    fun s j inv lane widthM1 seq reads m hl htest hm => ?testedMarker⟩
  case seeking =>
    obtain ⟨d, hblk⟩ := plainBlock_seeking hfree hlock hsince hdr payload reads
    refine ⟨_, blockReceived_plain hl htest hinv (fun _ => hup) (fun _ => hdown) reads, ?_⟩
    rw [hblk]
    have hlane := lane_modLane_self s j fun l => { sought (validHdr hdr) l with descr := d }
    refine ⟨fun hgood hrun => ?_, fun hgood hrun => ?_, fun hbad => ?_, fun i hi => ?_, ?_, onlyChanges_modLane s j _⟩
    · rw [endCycle_lnk, hlane, validHdr_of_good hgood, sought, if_pos rfl, if_neg (by omega)]
      exact ⟨hlock, rfl⟩
    · rw [endCycle_lnk, hlane, validHdr_of_good hgood, sought, if_pos rfl, if_pos (by omega)]
    · rw [endCycle_lnk, hlane, validHdr_of_bad hbad, sought, if_neg Bool.false_ne_true]
      exact ⟨hlock, rfl⟩
    · rw [endCycle_lnk, lane_modLane_ne s hi]
    · rw [endCycle_lnk, links_modLane]
  case buffered =>
    refine ⟨fun hhdr => ?data, fun hhdr => ?bad⟩
    case data =>
      subst hhdr
      obtain ⟨t, ht⟩ := exists_blockReceived hl j 2 payload 0
      refine ⟨t, ht, fun hdown => ?_⟩
      obtain ⟨p, b, hhead⟩ := headerBlk_good hlock (by omega)
      obtain ⟨d, hblk⟩ := plainBlock_of_locking (hdr := 2) (u := modLane s j.val (windowed p b)) hhead
        (((sameLinks_modLane _ _ _).laneLink _).trans hk) hst (by rw [lane_modLane_self]; exact hlock)
        (by rw [lane_modLane_self]; exact hsince) (by rw [lane_modLane_self]; exact heb) payload
      rw [lane_modLane_self, modLane_modLane] at hblk
      rw [blockReceived_plain hl htest hinv (fun h => absurd h (by decide)) (fun _ => hdown), hblk] at ht
      injection ht with ht
      rw [← ht, endCycle_lnk, lane_modLane_self]
      exact ⟨rfl, hlock, onlyChanges_modLane s j _⟩
    case bad =>
      obtain ⟨hne1, hne2⟩ := ne_of_badHdr hhdr
      obtain ⟨p, b, hhead⟩ := headerBlk_bad hlock hbad
      have hlinks (f : Lane → Lane) : SameLinks s (modLane (count s (laneReg j.val 8)) j.val f) :=
        (sameLinks_count (offLinkCfg_laneReg j.val 8) s).trans (sameLinks_modLane _ j.val f)
      obtain ⟨d, hblk⟩ := plainBlock_of_locking (hdr := hdr) (by rw [validHdr_of_bad hhdr]; exact hhead)
        (((hlinks _).laneLink _).trans hk) hst (by rw [lane_modLane_self]; exact hlock)
        (by rw [lane_modLane_self]; exact hsince) (by rw [lane_modLane_self]; exact heb) payload
      refine ⟨_, blockReceived_plain hl htest hinv (fun h => absurd h hne1) (fun h => absurd h hne2) 0, ?_⟩
      rw [hblk, plainItem_of_bad hhdr, modLane_modLane, endCycle_lnk, lane_modLane_self]
      exact ⟨rfl, count_modLane_spec s j (by decide) _⟩
  case lost =>
    obtain ⟨d, hblk⟩ := plainBlock_lost hfree hlock hpos hbad (validHdr_of_bad hhdr) payload reads
    have hplain := blockReceived_plain (payload := payload) hl htest hinv (fun h => absurd h (ne_of_badHdr hhdr).1)
      (fun h => absurd h (ne_of_badHdr hhdr).2) reads
    have hne : laneReg j.val 8 ≠ laneReg j.val 0xC := by unfold laneReg; omega
    refine ⟨_, hplain, ?_⟩
    rw [hblk]
    refine ⟨by rw [endCycle_lnk, lane_modLane_self, unlocked], ?_, ?_, onlyRegs_endCycle fun i hi _ => ?_,
      onlyChanges_endCycle fun q hq _ _ => ?_⟩
    · rw [regGet_endCycle, regGet_modLane, regGet_count_self (maskOf_laneCount j _ (by decide)), regGet_count_ne _ _ _ hne.symm]
    · rw [regGet_endCycle, regGet_modLane, regGet_count_ne _ _ _ hne, regGet_count_self (maskOf_laneCount j _ (by decide))]
    · obtain ⟨hi8, hic⟩ : i ≠ laneReg j.val 8 ∧ i ≠ laneReg j.val 0xC := by simpa using hi
      rw [regGet_modLane, regGet_count_ne _ _ _ hic, regGet_count_ne _ _ _ hi8]
    · obtain ⟨hlnk, hregs⟩ : q ≠ .lnk ∧ q ≠ .regs := by simpa using hq
      exact (same_count hregs s _).trans ((same_count hregs _ _).trans (same_modLane hlnk _ _ _))
  case marker =>
    refine ⟨_, amReceived_of_untested hl htest hinv inv lane widthM1 seq reads, ?_⟩
    cases inv with
    | true =>
      obtain ⟨p, b, hblk⟩ := markerBlk_inverted hfree hlock hbad ham lane.val (widthM1.val + 1) seq.toNat reads
      rw [hblk, endCycle_lnk, lane_modLane_self]
      exact ⟨fun _ => ⟨rfl, ham⟩, fun h => absurd h (by decide), fun h => absurd h (by decide), onlyChanges_modLane s j _⟩
    | false =>
      obtain ⟨p, b, hblk⟩ := markerBlk_seeking hfree hlock hbad ham lane.val (widthM1.val + 1) seq.toNat reads
      have ham' : ((modLane s j.val (windowed p b)).lnk.lanes[j]).amLock = false := by rw [lane_modLane_self]; exact ham
      have hsince : ((modLane s j.val (windowed p b)).lnk.lanes[j]).sinceAm = (s.lnk.lanes[j]).sinceAm := by rw [lane_modLane_self]; rfl
      rw [hblk]
      by_cases hgrid : (s.lnk.lanes[j]).sinceAm = some 16383
      · rw [onMarker_gains ham' (hsince.trans hgrid), modLane_modLane, endCycle_lnk, lane_modLane_self]
        exact ⟨fun h => absurd h (by decide), fun _ _ => ⟨rfl, rfl, rfl⟩, fun _ h => absurd hgrid h, onlyChanges_modLane s j _⟩
      · rw [onMarker_begins ham' (hsince.trans_ne hgrid), modLane_modLane, endCycle_lnk, lane_modLane_self]
        exact ⟨fun h => absurd h (by decide), fun _ h => absurd h hgrid, fun _ _ => ⟨ham, rfl⟩, onlyChanges_modLane s j _⟩
  case offGrid =>
    obtain ⟨p, b, hblk⟩ := markerBlk_offGrid hfree hlock hbad ham hsince hd lane.val (widthM1.val + 1) seq.toNat reads
    refine ⟨_, amReceived_of_untested hl htest hinv false lane widthM1 seq reads, ?_⟩
    rw [hblk, endCycle_lnk, lane_modLane_self]
    exact ⟨ham, rfl, count_modLane_spec s j (by decide) _⟩
  case tested =>
    obtain ⟨g, hblk⟩ := testBlock_of_unmapped hmap hbits
    obtain ⟨herr, hmb, hlock, honly⟩ := regs_prbsShown s j p e
    refine ⟨_, blockReceived_of_tested hl htest hdr payload reads, ?_⟩
    rw [hblk, regBit]
    refine ⟨?_, ?_, ?_, ?_, ?_, ?_⟩
    · rw [regGet_endCycle, regGet_modLane, herr]
    · rw [regGet_endCycle, regGet_modLane, hmb]
    · rw [regGet_endCycle, regGet_modLane]
      exact hlock
    · rw [endCycle_lnk, lane_modLane_self]
    · exact onlyRegs_endCycle fun i hi ho => by rw [regGet_modLane]; exact honly i hi ho
    · refine onlyChanges_endCycle fun q hq _ _ => ?_
      obtain ⟨hlnk, hregs⟩ : q ≠ .lnk ∧ q ≠ .regs := by simpa using hq
      exact (same_prbsShown hregs s j p e).trans (same_modLane hlnk _ _ _)
  case testedMarker =>
    subst hm
    refine ⟨_, amReceived_of_tested hl htest inv lane widthM1 seq reads, ?_⟩
    rw [blockReceived_of_tested hl htest]
    cases inv <;> rfl

end Sys2Proof.Machine
end

section
/-! The start of a bring-up (R103): what it makes of its link, and what it leaves as it is. -/

namespace Sys2Proof.Machine
open Sys2Proof

/-! ### Back-channel blocks sent (R93) -/

theorem putRun_origin (bs : List (Bool × BitVec 64)) : ∀ (x : BcTx) (i : Nat), (BcTx.putRun bs x i).origin = x.origin := by
  induction bs with
  | nil => exact fun _ _ => rfl
  | cons b bs ih => exact fun x i => ih _ _

theorem send_origin (x : BcTx) (now : Nat) (b : Bc) : (x.send now b).origin = x.origin := putRun_origin ..

theorem same_sendBc {q : Part} (h : q ∉ [.lnk, .out]) (s : State) (k : Fin 4) (b : Bc) : q.same s (sendBc s k b) := by
  obtain ⟨hlnk, hout⟩ : q ≠ .lnk ∧ q ≠ .out := by simpa using h
  exact (same_emit hout s _).trans (same_modLink hlnk _ _ _)

theorem link_sendBc_self (s : State) (k : Fin 4) (b : Bc) :
    (sendBc s k b).lnk.links[k] = { s.lnk.links[k] with tx := (s.lnk.links[k]).tx.send s.now b } := link_modLink_self (emit s _) k _

theorem sendLinkConfig_out (s : State) (k : Fin 4) : (sendLinkConfig s k).out = .bc k (.linkConfig (linkConfigBytes s k)) :: s.out := rfl

theorem same_sendLinkConfig {q : Part} (h : q ∉ [.lnk, .out]) (s : State) (k : Fin 4) : q.same s (sendLinkConfig s k) :=
  (same_sendBc h s k _).trans (same_modLink (by rintro rfl; exact h (by simp)) _ _ _)

theorem link_sendLinkConfig_self (s : State) (k : Fin 4) : (sendLinkConfig s k).lnk.links[k] =
    { s.lnk.links[k] with lastCfg := some s.now, tx := (s.lnk.links[k]).tx.send s.now (.linkConfig (linkConfigBytes s k)) } := by
  rw [sendLinkConfig, link_modLink_self, link_sendBc_self]

/-! ### A change of every lane of a link -/

/-- A change of each of some lanes. -/
def modLanes (s : State) (js : List (Fin 32)) (f : Lane → Lane) : State := js.foldl (fun s (j : Fin 32) => modLane s j f) s

/-- A list of lanes coerced to their numbers is folded over as the lanes are. -/
theorem foldl_laneNumbers {α : Type} (g : α → Nat → α) (js : List (Fin 32)) (a : α) :
    (js : List Nat).foldl g a = js.foldl (fun a (j : Fin 32) => g a j) a := by
  rw [show (js : List Nat) = js.map Fin.val from (List.map_eq_flatMap ..).symm, List.foldl_map]

theorem linkCfg_modLane (s : State) (j : Nat) (f : Lane → Lane) (k : Nat) : linkCfg (modLane s j f) k = linkCfg s k := rfl

theorem restartLanes_eq (s : State) (k : Nat) :
    restartLanes s k = modLanes s (lanesOf s k) (laneRestart (1000 * field (linkCfg s k) 14 0)) := by
  have hfold : ∀ (js : List (Fin 32)) (u : State),
      js.foldl (fun s (j : Fin 32) => modLane s j (laneRestart (1000 * field (linkCfg s k) 14 0))) u =
        modLanes u js (laneRestart (1000 * field (linkCfg u k) 14 0)) := by
    intro js
    induction js with
    | nil => exact fun _ => rfl
    | cons j js ih =>
      intro u
      rw [List.foldl_cons, ih, linkCfg_modLane]
      rfl
  exact (foldl_laneNumbers _ _ s).trans (hfold _ s)

theorem clearInvert_eq (s : State) (k : Nat) : clearInvert s k = modLanes s (lanesOf s k) fun l => { l with invert := false } :=
  foldl_laneNumbers _ _ s

theorem same_modLanes {q : Part} (h : q ≠ .lnk) (s : State) (js : List (Fin 32)) (f : Lane → Lane) : q.same s (modLanes s js f) := by
  unfold modLanes
  exact List.foldlRecOn js _ (motive := q.same s) (.refl q s) fun t ht j _ => ht.trans (same_modLane h t j f)

theorem links_modLanes (s : State) (js : List (Fin 32)) (f : Lane → Lane) : (modLanes s js f).lnk.links = s.lnk.links := by
  unfold modLanes
  exact List.foldlRecOn js _ (motive := fun t : State => t.lnk.links = s.lnk.links) rfl fun _ ht _ _ => ht

/-- What holds of a lane however it is changed, and holds after the change, holds of each lane named. -/
theorem lane_modLanes {P : Lane → Prop} {f : Lane → Lane} (hf : ∀ l, P (f l)) {j : Fin 32} {js : List (Fin 32)} (hj : j ∈ js) (s : State) :
    P (modLanes s js f).lnk.lanes[j] := by
  have hkeep : ∀ (js : List (Fin 32)) (u : State), P u.lnk.lanes[j] → P (modLanes u js f).lnk.lanes[j] := by
    intro js u hu
    unfold modLanes
    refine List.foldlRecOn js _ (motive := fun t : State => P t.lnk.lanes[j]) hu fun t ht i _ => ?_
    by_cases hi : j = i
    · rw [hi, lane_modLane_self]; exact hf _
    · rw [lane_modLane_ne t hi]; exact ht
  induction js generalizing s with
  | nil => cases hj
  | cons i js ih =>
    rcases List.mem_cons.mp hj with rfl | hj
    · exact hkeep js _ (by rw [lane_modLane_self]; exact hf _)
    · exact ih hj _

theorem same_restartLanes {q : Part} (h : q ≠ .lnk) (s : State) (k : Nat) : q.same s (restartLanes s k) := by
  rw [restartLanes_eq]
  exact same_modLanes h s _ _

theorem links_restartLanes (s : State) (k : Nat) : (restartLanes s k).lnk.links = s.lnk.links := by
  rw [restartLanes_eq, links_modLanes]

theorem same_clearInvert {q : Part} (h : q ≠ .lnk) (s : State) (k : Nat) : q.same s (clearInvert s k) := by
  rw [clearInvert_eq]
  exact same_modLanes h s _ _

theorem links_clearInvert (s : State) (k : Nat) : (clearInvert s k).lnk.links = s.lnk.links := by
  rw [clearInvert_eq, links_modLanes]

/-! ### CONFIG (R103) -/

/-- A link as step 1 of a bring-up finds it. -/
def toConfigLink (l : Link) : Link :=
  { l with st := .config, mapOk := false, rr := 0, pkt := none, dropping := false, capsDue := false, pings := [], samples := [],
           dropped := 0 }

theorem same_startTx {q : Part} (h : q ∉ [.lnk, .free]) (s : State) (k : Fin 4) : q.same s (startTx s k) := by
  cases q
  case lnk | free => simp at h
  all_goals rfl

theorem link_startTx_self (s : State) (k : Fin 4) : ∃ x : BcTx, x.origin = some s.now ∧
    (startTx s k).lnk.links[k] = { s.lnk.links[k] with tx := x } :=
  ⟨_, rfl, link_modLink_self { s with free := s.free + 2 } k _⟩

theorem toConfig_eq (s : State) (k : Fin 4) :
    toConfig s k = sendLinkConfig (startTx (modLink (restartLanes s k) k toConfigLink) k) k := rfl

theorem same_toConfig {q : Part} (h : q ∉ [.lnk, .out, .free]) (s : State) (k : Fin 4) : q.same s (toConfig s k) := by
  obtain ⟨hlnk, hout, hfree⟩ : q ≠ .lnk ∧ q ≠ .out ∧ q ≠ .free := by simpa using h
  exact ((same_restartLanes hlnk s k).trans (same_modLink hlnk _ _ _)).trans
    ((same_startTx (by simp [hlnk, hfree]) _ k).trans (same_sendLinkConfig (by simp [hlnk, hout]) _ k))

theorem link_toConfig_self (s : State) (k : Fin 4) : ∃ x : BcTx, x.origin = some s.now ∧
    (toConfig s k).lnk.links[k] = { toConfigLink s.lnk.links[k] with tx := x, lastCfg := some s.now } := by
  have hnow : (modLink (restartLanes s k) k toConfigLink).now = s.now := same_restartLanes (q := .now) (by simp) s k
  have hnow' : (startTx (modLink (restartLanes s k) k toConfigLink) k).now = s.now := hnow
  have hlink : (modLink (restartLanes s k) k toConfigLink).lnk.links[k] = toConfigLink s.lnk.links[k] := by
    rw [link_modLink_self, links_restartLanes]
  obtain ⟨x, hx, hself⟩ := link_startTx_self (modLink (restartLanes s k) k toConfigLink) k
  refine ⟨_, ?_, by rw [toConfig_eq, link_sendLinkConfig_self, hself, hnow', hlink]⟩
  rw [send_origin, hx, hnow]

/-! ### A start with a new timeout (R103, R105) -/

/-- What a link keeps of a change once a bring-up starts. -/
def takeChange (l : Link) : Link := { l with reconfig := false, held := if l.disabling = true then l.held else none }

theorem startBringup_eq {s : State} {k : Fin 4} (hclk : (s.sys.clocks[3]).lost = false) (htest : (s.lnk.links[k]).testing = false) :
    startBringup s k = modLink (toConfig (modLink (restartLanes s k) k takeChange) k) k fun l => { l with start := s.now } := by
  let u := modLink (restartLanes s k) k takeChange
  have hclk' : (u.sys.clocks[3]).lost = false := by
    rw [show u.sys = s.sys from same_restartLanes (q := .sys) (by simp) s k]
    exact hclk
  have htest' : (u.lnk.links[k]).testing = false := by
    rw [link_modLink_self, links_restartLanes]
    exact htest
  have hnow : u.now = s.now := same_restartLanes (q := .now) (by simp) s k
  have hstart : startBringup s k = if (u.sys.clocks[3]).lost || (u.lnk.links[k]).testing then
      modLink u k fun l => { l with st := .down, mapOk := false, rr := 0 }
      else modLink (toConfig u k) k fun l => { l with start := u.now } := rfl
  rw [hstart, hclk', htest', Bool.or_self, if_neg Bool.false_ne_true, hnow]

theorem same_startBringup {q : Part} (h : q ∉ [.lnk, .out, .free]) (s : State) (k : Fin 4) : q.same s (startBringup s k) := by
  have hlnk : q ≠ .lnk := by rintro rfl; exact h (by simp)
  unfold startBringup
  dsimp only
  split
  · exact (same_restartLanes hlnk s k).trans ((same_modLink hlnk _ _ _).trans (same_modLink hlnk _ _ _))
  · exact (same_restartLanes hlnk s k).trans ((same_modLink hlnk _ _ _).trans ((same_toConfig h _ k).trans (same_modLink hlnk _ _ _)))

theorem regGet_startBringup (s : State) (k : Fin 4) (j : Nat) : regGet (startBringup s k) j = regGet s j :=
  regGet_congr _ _ (same_startBringup (q := .regs) (by simp) s k) j

/-- A bring-up that starts: the link is in CONFIG, under its new configuration, and its back-channel begins anew. -/
theorem link_startBringup {s : State} {k : Fin 4} (hclk : (s.sys.clocks[3]).lost = false) (htest : (s.lnk.links[k]).testing = false) :
    ∃ x : BcTx, x.origin = some s.now ∧ (startBringup s k).lnk.links[k] =
      { toConfigLink (takeChange s.lnk.links[k]) with tx := x, lastCfg := some s.now, start := s.now } := by
  have hnow : (modLink (restartLanes s k) k takeChange).now = s.now := same_restartLanes (q := .now) (by simp) s k
  obtain ⟨x, hx, hlink⟩ := link_toConfig_self (modLink (restartLanes s k) k takeChange) k
  refine ⟨x, hx.trans (by rw [hnow]), ?_⟩
  rw [startBringup_eq hclk htest, link_modLink_self, hlink, link_modLink_self, links_restartLanes, hnow]

end Sys2Proof.Machine
end

section
/-! The mailbox protocol further: a request that has been taken and runs, and the data of a response (R378, R380, R385). -/

namespace Sys2Proof.Machine
open Sys2Proof

/-! ### A request just taken -/

/-- A slot's STATE is PENDING once its request is taken. -/
theorem mbxState_mbxTake {p : Party} {slot : Nat} (h : slot < mbxSlots p) (s : State) : mbxState (mbxTake s p slot) p slot = 2 := by
  have hfield (w : Word) : field (putField w 31 30 2 &&& 0xC000FFFF) 31 30 = 2 := by
    simp [field, putField, fieldMask, Nat.shiftRight_and_distrib, Nat.shiftRight_or_distrib]
  rw [mbxState, regField, mbxTake, setMbxState, regPut, regGet_regSet_self, maskOf_mbxState h, hfield]

theorem now_mbxTake (s : State) (p : Party) (slot : Nat) : (mbxTake s p slot).now = s.now := same_mbxTake (q := .now) (by decide) s p slot

theorem free_mbxTake (s : State) (p : Party) (slot : Nat) : (mbxTake s p slot).free = s.free :=
  same_mbxTake (q := .free) (by decide) s p slot

theorem lnk_mbxTake (s : State) (p : Party) (slot : Nat) : (mbxTake s p slot).lnk = s.lnk := same_mbxTake (q := .lnk) (by decide) s p slot

theorem mem_mbxTake (s : State) (p : Party) (slot : Nat) : (mbxTake s p slot).mem = s.mem := same_mbxTake (q := .mem) (by decide) s p slot

/-- A register outside MBX and the windows of VFs. -/
def outsideMbx (j : Nat) : Prop := j < 0x10000 ∨ (0x1C000 ≤ j ∧ j < 0x80000000)

section
variable {p : Party} {slot : Nat} (h : slot < mbxSlots p)
include h

theorem outsideMbx.clear {j : Nat} (hj : outsideMbx j) : ¬ (mbxBase p slot ≤ j ∧ j < mbxBase p slot + 0x400) := by
  have hb := mbxBase_bounds h
  unfold outsideMbx at hj
  omega

theorem regGet_mbxTake_outside (s : State) {j : Nat} (hj : outsideMbx j) : regGet (mbxTake s p slot) j = regGet s j :=
  regGet_mbxTake s p slot fun he => hj.clear h ⟨by omega, by omega⟩

theorem regBit_mbxTake (s : State) {j : Nat} (hj : outsideMbx j) (i : Nat) : regBit (mbxTake s p slot) j i = regBit s j i := by
  rw [regBit, regGet_mbxTake_outside h s hj, regBit]

theorem regField_mbxTake (s : State) {j : Nat} (hj : outsideMbx j) (hi lo : Nat) :
    regField (mbxTake s p slot) j hi lo = regField s j hi lo := by
  rw [regField, regGet_mbxTake_outside h s hj, regField]

/-- Room for an outgoing transfer of a request just taken hands its segments on (R385). -/
theorem mbxRoom_mbxTake {s : State} {off n : Nat} {d : Desc} {buf : HostBuf} {segs : List (Nat × Nat)} (hbus : busMaster s p = true)
    (hsegs : partySegs s p d buf = some (segs, true)) (hroom : n ≤ segTotal segs) (k : State → List (Nat × Nat) → State) :
    mbxRoom (mbxTake s p slot) p slot off d buf n k = k (mbxTake s p slot) segs := by
  unfold mbxRoom
  rw [busMaster_mbxTake, hbus, partySegs_mbxTake h, hsegs]
  dsimp only
  rw [if_neg (by decide), if_neg (by decide), if_neg (Nat.not_lt.mpr hroom)]

end

/-! ### A request that runs -/

section
variable {s u : State} {p : Party} {slot op a b : Nat} {x : MbxTarget} {hw : Bool}

theorem same_mbxRun {q : Part} (h : q ≠ .mbx) : q.same u (mbxRun u p slot op x hw a b) := by
  cases q
  case mbx => exact absurd rfl h
  all_goals rfl

/-- What stands of a request that was taken and runs: its STATE is PENDING, and no register outside its slot has changed but some named. -/
theorem run_spec (h : slot < mbxSlots p) {l : List Nat} (hl : ∀ j ∈ l, outsideMbx j)
    (hu : ∀ j, j ∉ l → regGet u j = regGet (mbxTake s p slot) j) :
    mbxState (endCycle s (mbxRun u p slot op x hw a b)) p slot = 2 ∧ onlySlotAnd l p slot s (endCycle s (mbxRun u p slot op x hw a b)) := by
  refine ⟨?_, fun j hj _ hslot _ => ?_⟩
  · have hne : mbxBase p slot + 4 ∉ l := fun hm => (hl _ hm).clear h ⟨by omega, by omega⟩
    rw [mbxState, regField, regGet_endCycle, show regGet (mbxRun u p slot op x hw a b) _ = regGet u _ from rfl, hu _ hne]
    exact mbxState_mbxTake h s
  · rw [regGet_endCycle, show regGet (mbxRun u p slot op x hw a b) _ = regGet u _ from rfl, hu _ hj, regGet_mbxTake _ _ _ (by omega)]

theorem onlyChanges_run {l : List Part} (hmbx : Part.mbx ∈ l) (hregs : Part.regs ∈ l)
    (hu : ∀ q : Part, q ∉ l → q.same (mbxTake s p slot) u) :
    onlyChanges l s (endCycle s (mbxRun u p slot op x hw a b)) :=
  onlyChanges_endCycle fun q hq _ _ => ((same_mbxTake (by
    simp only [List.mem_cons, List.not_mem_nil, or_false, not_or]
    exact ⟨fun h => hq (h ▸ hregs), fun h => hq (h ▸ hmbx)⟩) s p slot).trans (hu q hq)).trans (same_mbxRun fun h => hq (h ▸ hmbx))

end

/-! ### The answer to a request taken, with data (R378, R380) -/

/-- The end of the cycle of a request that has been answered with data. -/
abbrev done (s u : State) (p : Party) (slot status detail r0 r1 : Nat) (data : List Byte) : State :=
  endCycle s (mbxDone u p slot status detail r0 r1 data)

section
variable {s u : State} {p : Party} {slot : Nat}

theorem answered_done (h : slot < mbxSlots p) {status r0 r1 : Nat} (detail : Nat) (data : List Byte) (hst : status < 256) (h0 : r0 < 2 ^ 32)
    (h1 : r1 < 2 ^ 32) : answered (done s u p slot status detail r0 r1 data) p slot status r0 r1 := by
  simp only [answered, mbxState, regField, regGet_endCycle]
  exact answered_mbxDone h u detail data hst h0 h1

theorem onlyChanges_done {l : List Part} (hl : ∀ q ∈ answering, q ∈ l) (hu : ∀ q : Part, q ∉ l → q.same (mbxTake s p slot) u)
    (status detail r0 r1 : Nat) (data : List Byte) : onlyChanges l s (done s u p slot status detail r0 r1 data) := by
  refine onlyChanges_endCycle fun q hq _ _ => ?_
  have ha : q ∉ answering := fun h => hq (hl q h)
  have htake : q ∉ [Part.regs, .mbx] := fun hm => ha (by simp [answering] at hm ⊢; tauto)
  exact ((same_mbxTake htake s p slot).trans (hu q hq)).trans (same_mbxDone ha u ..)

theorem onlySlotAnd_done (h : slot < mbxSlots p) {l : List Nat} (hu : ∀ j, j ∉ l → outsideFlt j → regGet u j = regGet (mbxTake s p slot) j)
    (status detail r0 r1 : Nat) (data : List Byte) : onlySlotAnd l p slot s (done s u p slot status detail r0 r1 data) := by
  intro j hl hj hslot hc
  rw [regGet_endCycle, onlySlot_mbxDone h u status detail r0 r1 data j hj hslot hc, hu j hl hj, regGet_mbxTake _ _ _ (by omega)]

theorem onlySlot_done (h : slot < mbxSlots p) (hu : u.regs = (mbxTake s p slot).regs) (status detail r0 r1 : Nat) (data : List Byte) :
    onlySlot p slot s (done s u p slot status detail r0 r1 data) := fun j =>
  onlySlotAnd_done (l := []) h (fun i _ _ => regGet_congr _ _ hu i) status detail r0 r1 data j List.not_mem_nil

/-- A register outside MBX and the fault recorder is as it was before the answer. -/
theorem regGet_done (h : slot < mbxSlots p) {j : Nat} (hj : outsideMbx j) (hf : outsideFlt j) (hc : j ≠ 0x1C004)
    (status detail r0 r1 : Nat) (data : List Byte) : regGet (done s u p slot status detail r0 r1 data) j = regGet u j := by
  rw [regGet_endCycle, onlySlot_mbxDone h u status detail r0 r1 data j hf (hj.clear h) hc]

/-- A request that is refused, or answered with nothing done. -/
theorem refused_spec (h : slot < mbxSlots p) {status r0 r1 : Nat} (hst : status < 256) (h0 : r0 < 2 ^ 32) (h1 : r1 < 2 ^ 32) :
    answered (replied s (mbxTake s p slot) p slot status 0 r0 r1) p slot status r0 r1 ∧
      onlySlot p slot s (replied s (mbxTake s p slot) p slot status 0 r0 r1) ∧
      onlyChanges answering s (replied s (mbxTake s p slot) p slot status 0 r0 r1) :=
  ⟨answered_replied h 0 hst h0 h1, onlySlot_replied h rfl _ _ _ _, onlyChanges_replied (l := []) (fun q _ => .refl q _) ..⟩

/-- Words that stand in the data of a response, behind some others. -/
theorem regWords_done (h : slot < mbxSlots p) (status detail r0 r1 : Nat) (ws : List Word) : ∀ (pre post : List Byte) (m : Nat),
    pre.length = 4 * m → m + ws.length ≤ 124 → (pre ++ bytesOf ws ++ post).length ≤ 0x1F0 →
      regWords (done s u p slot status detail r0 r1 (pre ++ bytesOf ws ++ post)) (mbxBase p slot + 0x210 + 4 * m) ws.length = ws := by
  induction ws with
  | nil => exact fun _ _ _ _ _ _ => rfl
  | cons w ws ih =>
    intro pre post m hpre hm hlen
    rw [List.length_cons] at hm ⊢
    have hsplit : pre ++ bytesOf (w :: ws) ++ post = (pre ++ leBytes 4 w.toNat) ++ bytesOf ws ++ post := by
      simp only [bytesOf, List.append_assoc]
    have hoff : mbxBase p slot + 0x210 + 4 * m = mbxBase p slot + 0x200 + 4 * (4 + m) := by omega
    have hnext : mbxBase p slot + 0x210 + 4 * m + 4 = mbxBase p slot + 0x210 + 4 * (m + 1) := by omega
    have hword : leAt (rspBytes (mbxReq u p slot) status detail r0 r1 (pre ++ bytesOf (w :: ws) ++ post)) (4 * (4 + m)) 4 = w.toNat := by
      have hreq := mbxReq_length u p slot
      have hpad : padTo 0x1F0 (pre ++ bytesOf (w :: ws) ++ post) = pre ++ (leBytes 4 w.toNat ++ (bytesOf ws ++ post ++
          zeros (0x1F0 - (pre ++ bytesOf (w :: ws) ++ post).length))) := by
        rw [padTo, List.take_of_length_le hlen]
        simp only [bytesOf, List.append_assoc]
      rw [rspBytes, hpad, ← List.append_assoc _ pre]
      exact leAt_append_leBytes (by simp [hreq, hpre]; omega) w.isLt
    rw [regWords, hnext]
    congr 1
    · rw [regGet_endCycle, hoff, regGet_mbxDone_response h u status detail r0 r1 _ (by omega), hword, BitVec.ofNat_toNat,
        BitVec.setWidth_eq]
    · rw [hsplit] at hlen ⊢
      exact ih _ _ _ (by simp [hpre]; omega) (by omega) hlen

theorem regWords_done_at (h : slot < mbxSlots p) (status detail r0 r1 : Nat) {ws : List Word} {pre post : List Byte} {m n off : Nat}
    (hpre : pre.length = 4 * m) (hws : ws.length = n) (hoff : off = mbxBase p slot + 0x210 + 4 * m) (hm : m + n ≤ 124)
    (hlen : (pre ++ bytesOf ws ++ post).length ≤ 0x1F0) :
    regWords (done s u p slot status detail r0 r1 (pre ++ bytesOf ws ++ post)) off n = ws := by
  subst hws hoff
  exact regWords_done h status detail r0 r1 ws pre post m hpre hm hlen

end

end Sys2Proof.Machine
end

section
/-! Proof of the statement about the mailbox commands of the PTP clock, sensors, lanes and memory (R109, R111, R112, R317, R389 to R393,
R449). -/

namespace Sys2Proof.Machine
open Sys2Proof

theorem same_net {q : Part} (h : q ≠ .net) (s : State) (x : NetBlk) : q.same s { s with net := x } := by
  cases q
  case net => exact absurd rfl h
  all_goals rfl

theorem same_mem {q : Part} (h : q ≠ .mem) (s : State) (x : MemBlk) : q.same s { s with mem := x } := by
  cases q
  case mem => exact absurd rfl h
  all_goals rfl

theorem same_free {q : Part} (h : q ≠ .free) (s : State) (n : Nat) : q.same s { s with free := n } := by
  cases q
  case free => exact absurd rfl h
  all_goals rfl

/-! ### PTP_CONFIG (R392) -/

theorem ptpConfig_spec {s : State} {p : Party} {k : Fin 32} {req : List Byte} (hl : s.live = true) (ha : asks s p k.val 0x0201 req) :
    ∃ t, exec (.ptpConfig p k) s = .next t ∧ answered t p k.val 0 0 0 ∧ t.net = { s.net with config := wordsOf 4 (req.drop 0x10) } ∧
      onlySlot p k.val s t ∧ onlyChanges (.net :: .flt :: answering) s t := by
  have hk := asks_slot ha
  have hnet := same_mbxTake (q := .net) (by decide) s p k
  have hu (q : Part) (hq : q ≠ .net) (hf : q ≠ .flt) : q.same (mbxTake s p k)
      (journalCommit { mbxTake s p k with net := { (mbxTake s p k).net with config := wordsOf 4 (req.drop 0x10) } }) :=
    (same_net hq _ _).trans (same_journalCommit hf _)
  refine ⟨_, ?_, answered_done hk 0 [] (status := stSuccess) (by decide) (by decide) (by decide), ?_,
    onlySlot_done hk (hu .regs (by decide) (by decide)) _ _ _ _ _,
    onlyChanges_done (by decide) (fun q hq => hu q (by rintro rfl; exact hq (by decide)) (by rintro rfl; exact hq (by decide))) ..⟩
  · rw [show exec (.ptpConfig p k) s = execPtpConfig p k s from rfl, execPtpConfig, inCore_of_live hl, serve_of_asks ha]
    rfl
  · rw [endCycle_net, same_mbxDone (q := .net) (by decide), same_journalCommit (q := .net) (by decide)]
    dsimp only
    rw [show (mbxTake s p k).net = s.net from hnet]

/-! ### PTP_SET_TIME (R317, R318) -/

theorem ptpNow_stepPtp (s : State) (x : Nat) : (stepPtp s ((x : Int) - (s.ptpNow : Int))).ptpNow = x := by
  have hx : (s.ptpNow : Int) + ((x : Int) - (s.ptpNow : Int)) = x := by omega
  simp only [stepPtp, hx, Int.toNat_natCast]

theorem net_stepPtp (s : State) (d : Int) : ∃ o, (stepPtp s d).net = { s.net with stepped := o } := ⟨_, rfl⟩

theorem same_stepPtp {q : Part} (h : q ∉ [.ptpNow, .aud, .ref, .net]) (s : State) (d : Int) : q.same s (stepPtp s d) := by
  cases q
  case ptpNow | aud | ref | net => simp at h
  all_goals rfl

/-- A step of the clock moves the frame starts of the slots on the PTP axis alone. -/
theorem slot_stepPtp {s : State} {n : Fin 8} (h : (s.ref.slots[n]).ptpAxis = false) (d : Int) :
    (stepPtp s d).ref.slots[n] = s.ref.slots[n] := by
  have h' : ¬ (s.ref.slots[n.val]).ptpAxis = true := by simpa using h
  simp [stepPtp, stepAudio, h']

/-- The clock set by PTP_SET_TIME, with its event. -/
def timeSet (s : State) (x : Nat) : State :=
  let u := ptpEvent (stepPtp s ((x : Int) - (s.ptpNow : Int))) 3 0x04 .degraded (ctxUnit 0 0 0 0)
  { u with net := { u.net with sub := 0 } }

theorem same_timeSet {q : Part} (h : q ∉ .ptpNow :: .aud :: .ref :: .net :: reporting) (s : State) (x : Nat) : q.same s (timeSet s x) := by
  have hstep : q ∉ [Part.ptpNow, .aud, .ref, .net] := fun hm => h (by simp at hm ⊢; tauto)
  have hev : q ∉ reporting := fun hm => h (by simp [hm])
  exact (same_stepPtp hstep s _).trans ((same_event hev _ _ _ _ _ _ _).trans (same_net (by rintro rfl; exact h (by decide)) _ _))

theorem timeSet_ptpNow (s : State) (x : Nat) : (timeSet s x).ptpNow = x := by
  dsimp only [timeSet, ptpEvent]
  rw [event_ptpNow, ptpNow_stepPtp]

theorem timeSet_ref (s : State) (x : Nat) : (timeSet s x).ref = (stepPtp s ((x : Int) - (s.ptpNow : Int))).ref := by
  dsimp only [timeSet, ptpEvent]
  rw [event_ref]

theorem timeSet_net (s : State) (x : Nat) : ∃ o, (timeSet s x).net = { s.net with sub := 0, stepped := o } := by
  obtain ⟨o, ho⟩ := net_stepPtp s ((x : Int) - (s.ptpNow : Int))
  refine ⟨o, ?_⟩
  dsimp only [timeSet, ptpEvent]
  rw [event_net, ho]

theorem timeSet_events (s : State) (x : Nat) : regBit (timeSet s x) 0x150400 3 = true ∧ onlyRegs [0x150400] s (timeSet s x) := by
  obtain ⟨⟨off, hoff, hbit⟩, honly, -⟩ :=
    ptpEvent_spec (i := 3) (by decide) (stepPtp s ((x : Int) - (s.ptpNow : Int))) 0x04 .degraded (ctxUnit 0 0 0 0)
  obtain rfl : (0x150400 : Nat) = off := Option.some.inj hoff
  exact ⟨hbit, fun j hj ho => honly j hj ho⟩

theorem ptpSetTime_of_servoOff {s : State} {p : Party} {k : Fin 32} {req : List Byte} (hl : s.live = true)
    (ha : asks s p k.val 0x0202 req) (hoff : regBit s 0x150010 31 = false) :
    ∃ t, exec (.ptpSetTime p k) s = .next t ∧ answered t p k.val 0 0 0 ∧
      t.ptpNow = (leAt req 0x10 6 * 1000000000 + leAt req 0x18 4) * 65536 ∧
      t.net = { s.net with sub := 0, stepped := t.net.stepped } ∧ raised t .ptp 3 ∧
      (∀ n : Fin 8, (s.ref.slots[n]).ptpAxis = false → t.ref.slots[n] = s.ref.slots[n]) ∧
      onlySlotAnd [0x150400] p k.val s t ∧ onlyChanges (.ptpNow :: .aud :: .ref :: .net :: .mbx :: reporting) s t := by
  have hk := asks_slot ha
  let x := (leAt req 0x10 6 * 1000000000 + leAt req 0x18 4) * 65536
  let u := timeSet (mbxTake s p k) x
  have hservo : ¬ regBit (mbxTake s p k) 0x150010 31 = true := by
    rw [regBit_mbxTake hk s (by unfold outsideMbx; omega), hoff]
    exact Bool.false_ne_true
  have hregs : (journalCommit u).regs = u.regs := same_journalCommit (q := .regs) (by decide) u
  obtain ⟨hbit, honly⟩ := timeSet_events (mbxTake s p k) x
  obtain ⟨o, hnet⟩ := timeSet_net (mbxTake s p k) x
  have hnet' : (done s (journalCommit u) p k stSuccess 0 0 0 []).net = { s.net with sub := 0, stepped := o } := by
    rw [endCycle_net, same_mbxDone (q := .net) (by decide), same_journalCommit (q := .net) (by decide), hnet,
      show (mbxTake s p k).net = s.net from same_mbxTake (q := .net) (by decide) s p k]
  refine ⟨done s (journalCommit u) p k stSuccess 0 0 0 [], ?_,
    answered_done hk 0 [] (status := stSuccess) (by decide) (by decide) (by decide),
    ?_, ?_, ⟨0x150400, rfl, ?_⟩, fun n hn => ?_, onlySlotAnd_done hk (fun j hj ho => ?_) _ _ _ _ _,
    onlyChanges_done (by decide) (fun q hq => ?_) ..⟩
  · rw [show exec (.ptpSetTime p k) s = execPtpSetTime p k s from rfl, execPtpSetTime, inCore_of_live hl, serve_of_asks ha, if_neg hservo]
    rfl
  · rw [endCycle_ptpNow, same_mbxDone (q := .ptpNow) (by decide), same_journalCommit (q := .ptpNow) (by decide), timeSet_ptpNow]
  · rw [hnet']
  · rw [regBit, regGet_done hk (by unfold outsideMbx; omega) (by unfold outsideFlt; omega) (by decide), regGet_congr _ _ hregs]
    exact hbit
  · have href : (mbxTake s p k).ref = s.ref := same_mbxTake (q := .ref) (by decide) s p k
    rw [endCycle_ref, same_mbxDone (q := .ref) (by decide), same_journalCommit (q := .ref) (by decide), timeSet_ref,
      slot_stepPtp (by rw [href]; exact hn), href]
  · rw [regGet_congr _ _ hregs, honly j hj ho]
  · refine (same_timeSet (fun hm => hq ?_) _ x).trans (same_journalCommit (by rintro rfl; exact hq (by decide)) u)
    simp at hm ⊢
    tauto

theorem ptpSetTime_of_servoOn {s : State} {p : Party} {k : Fin 32} {req : List Byte} (hl : s.live = true)
    (ha : asks s p k.val 0x0202 req) (hon : regBit s 0x150010 31 = true) :
    exec (.ptpSetTime p k) s = .next (replied s (mbxTake s p k) p k stInService 0 0 0) := by
  rw [show exec (.ptpSetTime p k) s = execPtpSetTime p k s from rfl, execPtpSetTime, inCore_of_live hl, serve_of_asks ha,
    regBit_mbxTake (asks_slot ha) s (by unfold outsideMbx; omega), if_pos hon]

/-! ### PTP_STATUS (R392) -/

theorem freeBytesFrom_length (k n : Nat) : ∀ i, (freeBytesFrom k i n).length = n := by
  induction n with
  | zero => exact fun _ => rfl
  | succ n ih => exact fun i => congrArg (· + 1) (ih (i + 1))

/-- The bytes of PTP_STATUS before the offset that the servo was given, and after it. -/
def ptpStatusHead (n : Nat) : List Byte := freeBytesFrom n 0 21 ++ [0] ++ freeBytesFrom (n + 1) 0 2

def ptpStatusTail (n : Nat) : List Byte := freeBytesFrom (n + 2) 0 8

theorem ptpStatus_of_asks {s : State} {p : Party} {k : Fin 32} {req : List Byte} (hl : s.live = true) (ha : asks s p k.val 0x0203 req) :
    exec (.ptpStatus p k) s = .next (done s { mbxTake s p k with free := s.free + 3 } p k stSuccess 0 0 0
      (ptpStatusHead s.free ++ bytesOf [regGet s 0x150030, regGet s 0x150034] ++ ptpStatusTail s.free)) := by
  have hk := asks_slot ha
  have hreg {j : Nat} (hj : outsideMbx j) : regGet { mbxTake s p k with free := s.free + 3 } j = regGet s j :=
    (regGet_congr (mbxTake s p k) _ (by rfl) j).trans (regGet_mbxTake_outside hk s hj)
  rw [show exec (.ptpStatus p k) s = execPtpStatus p k s from rfl, execPtpStatus, inCore_of_live hl, serve_of_asks ha]
  dsimp only [freeBytes]
  rw [free_mbxTake, hreg (by unfold outsideMbx; omega), hreg (by unfold outsideMbx; omega)]
  simp only [done, ptpStatusHead, ptpStatusTail, bytesOf, List.append_nil]

theorem ptpStatus_spec {s : State} {p : Party} {k : Fin 32} {req : List Byte} (hl : s.live = true) (ha : asks s p k.val 0x0203 req) :
    ∃ t, exec (.ptpStatus p k) s = .next t ∧ answered t p k.val 0 0 0 ∧
      regWords t (mbxBase p k.val + 0x228) 2 = [regGet s 0x150030, regGet s 0x150034] ∧ onlySlot p k.val s t ∧
      onlyChanges (.free :: answering) s t := by
  have hk := asks_slot ha
  have hpre : (ptpStatusHead s.free).length = 4 * 6 := by simp [ptpStatusHead, freeBytesFrom_length]
  have hlen : (ptpStatusHead s.free ++ bytesOf [regGet s 0x150030, regGet s 0x150034] ++ ptpStatusTail s.free).length ≤ 0x1F0 := by
    simp [hpre, bytesOf_length, ptpStatusTail, freeBytesFrom_length]
  exact ⟨_, ptpStatus_of_asks hl ha, answered_done hk 0 _ (status := stSuccess) (by decide) (by decide) (by decide),
    regWords_done_at hk _ _ _ _ hpre rfl rfl (by decide) hlen, onlySlot_done hk (by rfl) _ _ _ _ _,
    onlyChanges_done (by decide) (fun q hq => same_free (by rintro rfl; exact hq (by decide)) _ _) _ _ _ _ _⟩

/-! ### SENSOR_CAP (R120, R389) -/

theorem idx8_val : ∀ n : Fin 8, idx8 n.val = some n := by decide

theorem idx32_val : ∀ j : Fin 32, idx32 j.val = some j := by decide

theorem regWords_congr {s t : State} (n : Nat) : ∀ {off : Nat}, (∀ i < n, regGet t (off + 4 * i) = regGet s (off + 4 * i)) →
    regWords t off n = regWords s off n := by
  induction n with
  | zero => exact fun _ => rfl
  | succ n ih =>
    intro off h
    have hrest : ∀ i < n, regGet t (off + 4 + 4 * i) = regGet s (off + 4 + 4 * i) := fun i hi => by
      have := h (i + 1) (by omega)
      rwa [show off + 4 * (i + 1) = off + 4 + 4 * i by omega] at this
    rw [regWords, regWords, ih hrest, show regGet t off = regGet s off from h 0 (by omega)]

section
variable {s : State} {p : Party} {k : Fin 32} {req : List Byte} {n : Fin 8} (hl : s.live = true) (ha : asks s p k.val 0x0301 req)
  (hn : (byteAt req 0x10).toNat = n.val)
include hl ha hn

theorem sensorCap_of_record (hcap : 2 ≤ regField s (capStateReg n.val) 31 30) :
    exec (.sensorCap p k) s = .next (done s (mbxTake s p k) p k stSuccess 0 0 0 (bytesOf (regWords s (capReg n.val 0) 16))) := by
  have hk := asks_slot ha
  have hwords : regWords (mbxTake s p k) (capReg n.val 0) 16 = regWords s (capReg n.val 0) 16 :=
    regWords_congr 16 fun i hi => regGet_mbxTake_outside hk s (by unfold outsideMbx capReg; omega)
  rw [show exec (.sensorCap p k) s = execSensorCap p k s from rfl, execSensorCap, inCore_of_live hl, serve_of_asks ha, hn, idx8_val]
  dsimp only
  rw [regField_mbxTake hk s (by unfold outsideMbx capStateReg; omega), if_neg (by omega), hwords]

theorem sensorCap_of_none (hcap : regField s (capStateReg n.val) 31 30 < 2) :
    exec (.sensorCap p k) s = .next (replied s (mbxTake s p k) p k stNotReady 0 0 0) := by
  rw [show exec (.sensorCap p k) s = execSensorCap p k s from rfl, execSensorCap, inCore_of_live hl, serve_of_asks ha, hn, idx8_val]
  dsimp only
  rw [regField_mbxTake (asks_slot ha) s (by unfold outsideMbx capStateReg; omega), if_pos hcap]

end

end Sys2Proof.Machine
end

section
/-! Proof of the statement about the mailbox commands of the PTP clock, sensors, lanes and memory: SENSOR_REG and BLACK_CAL (R109, R393). -/

namespace Sys2Proof.Machine
open Sys2Proof

/-! ### What a request just taken leaves of the links -/

section
variable {p : Party} {slot : Nat} (h : slot < mbxSlots p)
include h

theorem sameLinks_mbxTake (s : State) : SameLinks s (mbxTake s p slot) :=
  ⟨fun k o ho => regGet_mbxTake_outside h s (by unfold outsideMbx lkReg; omega), fun k => by rw [lnk_mbxTake]⟩

theorem slotLink_mbxTake (s : State) (n : Nat) : slotLink (mbxTake s p slot) n = slotLink s n :=
  slotLink_congr (fun j hj => regGet_mbxTake_outside h s (by
    rcases hj with ⟨m, rfl⟩ | hj | ⟨m, rfl⟩
    · unfold outsideMbx slotReg; omega
    · unfold outsideMbx; omega
    · unfold outsideMbx capReg; omega)) n

theorem slotLinkUp_mbxTake (s : State) (n : Nat) : slotLinkUp (mbxTake s p slot) n = slotLinkUp s n := by
  rw [slotLinkUp, slotLink_mbxTake h, lnk_mbxTake, slotLinkUp]

theorem unmasked_mbxTake (s : State) (n : Nat) : unmasked (mbxTake s p slot) n = unmasked s n :=
  regBit_mbxTake h s (by unfold outsideMbx slotMaskReg; omega) n

end

theorem inTake_mbxTake (s : State) (p : Party) (slot n : Nat) : inTake (mbxTake s p slot) n = inTake s n := by
  rw [inTake, show (mbxTake s p slot).mag = s.mag from same_mbxTake (q := .mag) (by decide) s p slot, inTake]

/-! ### SENSOR_REG (R109, R389) -/

/-- A REG_ACCESS that has gone out and waits for its REG_RESPONSE. -/
def accessSent (s : State) (l : Fin 4) (stream : Nat) (bytes : List Byte) (w : RegWait) : State :=
  let u := sendBc s l (.packet 0x82 stream bytes)
  { u with lnk := { u.lnk with regWaits := u.lnk.regWaits ++ [w] } }

theorem same_accessSent {q : Part} (h : q ∉ [.lnk, .out]) (s : State) (l : Fin 4) (stream : Nat) (bytes : List Byte) (w : RegWait) :
    q.same s (accessSent s l stream bytes w) := by
  cases q
  case lnk | out => simp at h
  all_goals rfl

section
variable {s : State} {p : Party} {k : Fin 32} {buf ans : HostBuf} {req d : List Byte} {n : Fin 8} {e stream : Nat} {l : Fin 4}
  {segs back : List (Nat × Nat)} (hl : s.live = true) (ha : asks s p k.val 0x0302 req) (hn : (byteAt req 0x10).toNat = n.val)
  (he : e = leAt req 0x14 4) (hlink : slotLink s n.val = some (l, stream))
include hl ha hn hlink

theorem sensorReg_of_down (hup : slotLinkUp s n.val = false) :
    exec (.sensorReg p k buf ans) s = .next (replied s (mbxTake s p k) p k stNotReady 0 0 0) := by
  have hk := asks_slot ha
  rw [show exec (.sensorReg p k buf ans) s = execSensorReg p k buf ans s from rfl, execSensorReg, inCore_of_live hl, serve_of_asks ha]
  dsimp only
  rw [hn, idx8_val]
  dsimp only
  rw [slotLink_mbxTake hk, hlink]
  dsimp only
  rw [slotLinkUp_mbxTake hk, hup, if_pos Bool.false_ne_true]

include he

/-- With the link UP and both transfers in order, all that may refuse the request is a write to an unmasked slot. -/
theorem sensorReg_of_up (hup : slotLinkUp s n.val = true) (hbus : busMaster s p = true)
    (hsegs : partySegs s p (descAt req 0x20) buf = some (segs, true)) (hsize : 12 * e ≤ segTotal segs)
    (hmax : segTotal segs ≤ 1073741824) (hdata : partyData s p segs buf = some d)
    (hback : partySegs s p (descAt req 0x30) ans = some (back, true)) (hroom : 8 * e ≤ segTotal back) :
    exec (.sensorReg p k buf ans) s = .next (endCycle s
      (if (anyWrite e (padTo (12 * e) d) && unmasked s n.val && !allowDisrupt req) = true then
          mbxReply (mbxTake s p k) p k stInService 0 0 0
        else mbxRun (journalCommit (accessSent (mbxTake s p k) l stream (accessBytes e (padTo (12 * e) d))
          { party := p, mslot := k.val, slot := n.val, entries := e, sentAt := s.now, segs := back }))
            p k 0x0302 (.slot n.val) true 0 0)) := by
  have hk := asks_slot ha
  rw [show exec (.sensorReg p k buf ans) s = execSensorReg p k buf ans s from rfl, execSensorReg, inCore_of_live hl, serve_of_asks ha]
  dsimp only
  rw [hn, idx8_val]
  dsimp only
  rw [slotLink_mbxTake hk, hlink]
  dsimp only
  rw [slotLinkUp_mbxTake hk, hup, if_neg (not_not_intro rfl), ← he,
    mbxFetch_mbxTake hk hbus hsegs hmax (by rintro _ ⟨⟩; exact hsize) hdata, mbxRoom_mbxTake hk hbus hback hroom, unmasked_mbxTake hk,
    Option.getD_some]
  have hcond : (anyWrite e (padTo (12 * e) d) = true ∧ unmasked s n.val = true ∧ ¬ allowDisrupt req = true) ↔
      (anyWrite e (padTo (12 * e) d) && unmasked s n.val && !allowDisrupt req) = true := by simp [and_assoc]
  simp only [hcond]
  rfl

end

theorem out_accessSent (s : State) (l : Fin 4) (stream : Nat) (bytes : List Byte) (w : RegWait) :
    (accessSent s l stream bytes w).out = .bc l (.packet 0x82 stream bytes) :: s.out := rfl

theorem regWaits_accessSent (s : State) (l : Fin 4) (stream : Nat) (bytes : List Byte) (w : RegWait) :
    (accessSent s l stream bytes w).lnk.regWaits = s.lnk.regWaits ++ [w] := rfl

/-- The access goes out, and the request waits for its answer. -/
theorem accessSent_runs {s : State} {p : Party} {k : Nat} (hk : k < mbxSlots p) (l : Fin 4) (stream : Nat) (bytes : List Byte) (w : RegWait)
    (op : Nat) (x : MbxTarget) {t : State}
    (ht : t = endCycle s (mbxRun (journalCommit (accessSent (mbxTake s p k) l stream bytes w)) p k op x true 0 0)) :
    mbxState t p k = 2 ∧ t.out = .bc l (.packet 0x82 stream bytes) :: s.out ∧ t.lnk.regWaits = s.lnk.regWaits ++ [w] ∧
      onlySlot p k s t ∧ onlyChanges [.out, .lnk, .flt, .mbx, .regs] s t := by
  subst ht
  have hout : (mbxTake s p k).out = s.out := same_mbxTake (q := .out) (by decide) s p k
  have hu (q : Part) (hq : q ∉ [.lnk, .out]) (hf : q ≠ .flt) :
      q.same (mbxTake s p k) (journalCommit (accessSent (mbxTake s p k) l stream bytes w)) :=
    (same_accessSent hq _ l stream bytes w).trans (same_journalCommit hf _)
  obtain ⟨hstate, hslot⟩ := run_spec (s := s) (u := journalCommit (accessSent (mbxTake s p k) l stream bytes w)) (op := op)
    (x := x) (hw := true)
    (a := 0) (b := 0) hk (l := []) (by simp) fun j _ => regGet_congr _ _ (hu .regs (by decide) (by decide)) j
  refine ⟨hstate, ?_, ?_, fun j => hslot j List.not_mem_nil, onlyChanges_run (by decide) (by decide) fun q hq => ?_⟩
  · rw [endCycle_out, ← hout, ← out_accessSent]
    exact (same_journalCommit (q := .out) (by decide) _)
  · rw [endCycle_lnk, ← lnk_mbxTake s p k, ← regWaits_accessSent]
    exact congrArg LnkBlk.regWaits (same_journalCommit (q := .lnk) (by decide) _)
  · exact hu q (fun hm => hq (by simp at hm ⊢; tauto)) (by rintro rfl; exact hq (by decide))

/-! ### BLACK_CAL (R389, R393) -/

section
variable {s : State} {p : Party} {k : Fin 32} {buf : HostBuf} {req : List Byte} {n : Fin 8} {segs : List (Nat × Nat)} (hl : s.live = true)
  (ha : asks s p k.val 0x0903 req) (hn : (byteAt req 0x10).toNat = n.val)
include hl ha hn

theorem blackCal_of_masked (hmask : unmasked s n.val = false) :
    exec (.blackCal p k buf) s = .next (replied s (mbxTake s p k) p k stNotReady 0 0 0) := by
  rw [show exec (.blackCal p k buf) s = execBlackCal p k buf s from rfl, execBlackCal, inCore_of_live hl, serve_of_asks ha]
  dsimp only
  rw [hn, idx8_val]
  dsimp only
  rw [unmasked_mbxTake (asks_slot ha), hmask, if_pos Bool.false_ne_true]

theorem blackCal_of_inService (hmask : unmasked s n.val = true)
    (hin : inTake s n.val = true ∨ ((byteAt req 0x11).toNat = 0 ∧ allowDisrupt req = false)) :
    exec (.blackCal p k buf) s = .next (replied s (mbxTake s p k) p k stInService 0 0 0) := by
  have hk := asks_slot ha
  rw [show exec (.blackCal p k buf) s = execBlackCal p k buf s from rfl, execBlackCal, inCore_of_live hl, serve_of_asks ha]
  dsimp only
  rw [hn, idx8_val]
  dsimp only
  rw [unmasked_mbxTake hk, hmask, if_neg (not_not_intro rfl), inTake_mbxTake, if_pos (by simpa using hin)]

/-- The columns of a slot are collected (R393). -/
theorem blackCal_of_free (hmask : unmasked s n.val = true) (hin : inTake s n.val = false)
    (hallow : (byteAt req 0x11).toNat ≠ 0 ∨ allowDisrupt req = true) (hbus : busMaster s p = true)
    (hsegs : partySegs s p (descAt req 0x20) buf = some (segs, true))
    (hroom : 2 * regField s (ingReg n.val 0) 15 0 * (if regBit s (ingReg n.val 4) 2 = true then 2 else 1) ≤ segTotal segs) :
    exec (.blackCal p k buf) s = .next (endCycle s (mbxRun { mbxTake s p k with mbx := { (mbxTake s p k).mbx with calib := s.mbx.calib ++
      [{ party := p, mslot := k.val, slot := n.val, want := leAt req 0x12 2, used := 0, sums := [], segs := segs }] } } p k 0x0903
        (.slot n.val) true 0 0)) := by
  have hk := asks_slot ha
  have hfree : ¬ (inTake s n.val = true ∨ (byteAt req 0x11).toNat = 0 ∧ ¬ allowDisrupt req = true) := by
    rintro (h | ⟨h0, hno⟩)
    · exact absurd h (by rw [hin]; decide)
    · exact hallow.elim (absurd h0) (absurd · hno)
  rw [show exec (.blackCal p k buf) s = execBlackCal p k buf s from rfl, execBlackCal, inCore_of_live hl, serve_of_asks ha]
  dsimp only
  rw [hn, idx8_val]
  dsimp only
  rw [unmasked_mbxTake hk, hmask, if_neg (not_not_intro rfl), inTake_mbxTake, if_neg hfree,
    regField_mbxTake hk s (by unfold outsideMbx ingReg; omega), regBit_mbxTake hk s (by unfold outsideMbx ingReg; omega),
    mbxRoom_mbxTake hk hbus hsegs hroom]
  rfl

end

theorem same_mbx {q : Part} (h : q ≠ .mbx) (s : State) (x : MbxBlk) : q.same s { s with mbx := x } := by
  cases q
  case mbx => exact absurd rfl h
  all_goals rfl

/-- The calibration collects, and its request waits. -/
theorem calibration_runs {s : State} {p : Party} {k : Nat} (hk : k < mbxSlots p) (op : Nat) (x : MbxTarget) (l : List BlackCal) {t : State}
    (ht : t = endCycle s (mbxRun { mbxTake s p k with mbx := { (mbxTake s p k).mbx with calib := l } } p k op x true 0 0)) :
    mbxState t p k = 2 ∧ t.mbx.calib = l ∧ onlySlot p k s t ∧ onlyChanges [.mbx, .regs] s t := by
  subst ht
  let u : State := { mbxTake s p k with mbx := { (mbxTake s p k).mbx with calib := l } }
  have hu (q : Part) (hq : q ≠ .mbx) : q.same (mbxTake s p k) u := same_mbx hq _ _
  obtain ⟨hstate, hslot⟩ := run_spec (s := s) (u := u) (op := op) (x := x) (hw := true) (a := 0) (b := 0) hk (l := []) (by simp)
    fun j _ => regGet_congr _ _ (hu .regs (by decide)) j
  refine ⟨hstate, ?_, fun j => hslot j List.not_mem_nil, onlyChanges_run (by decide) (by decide) fun q hq =>
    hu q (by rintro rfl; exact hq (by decide))⟩
  rw [endCycle_mbx]
  rfl

end Sys2Proof.Machine
end

section
/-! Proof of the statement about the mailbox commands of the PTP clock, sensors, lanes and memory: LANE_TEST and MEM_TEST (R111, R112,
R389, R449). -/

namespace Sys2Proof.Machine
open Sys2Proof

/-! ### The test of a lane (R111, R112) -/

theorem same_sendTest {q : Part} (h : q ∉ [.lnk, .out]) (s : State) (j : Fin 32) (mode pattern : Nat) :
    q.same s (sendTest s j mode pattern) := by
  unfold sendTest
  split
  · exact same_sendBc h s _ _
  · exact .refl q s

theorem lanes_sendTest (s : State) (j : Fin 32) (mode pattern : Nat) : (sendTest s j mode pattern).lnk.lanes = s.lnk.lanes := by
  unfold sendTest
  split <;> rfl

theorem same_setBc1 {q : Part} (h : q ≠ .lnk) (s : State) (j : Fin 32) (pattern : Option Nat) : q.same s (setBc1 s j pattern) := by
  unfold setBc1
  split
  · exact same_modLink h s _ _
  · exact .refl q s

theorem lanes_setBc1 (s : State) (j : Fin 32) (pattern : Option Nat) : (setBc1 s j pattern).lnk.lanes = s.lnk.lanes := by
  unfold setBc1
  split <;> rfl

section
variable {s : State} {j : Fin 32} (h : laneAssigned s j.val = none)
include h

theorem sendTest_of_unassigned (mode pattern : Nat) : sendTest s j mode pattern = s := by rw [sendTest, h]

theorem setBc1_of_unassigned (pattern : Option Nat) : setBc1 s j pattern = s := by rw [setBc1, h]

end

/-- What the sensor of a lane is told of its test, and what BC1 of its link carries meanwhile. -/
def tellTest (s : State) (j : Fin 32) (mode pattern : Nat) : State :=
  match mode with
  | 1 => sendTest s j 1 pattern
  | 4 => setBc1 (sendTest s j 2 pattern) j (some pattern)
  | _ => s

theorem regs_tellTest (s : State) (j : Fin 32) (mode pattern : Nat) : (tellTest s j mode pattern).regs = s.regs := by
  unfold tellTest
  split
  · exact same_sendTest (q := .regs) (by decide) s j _ _
  · exact (same_sendTest (q := .regs) (by decide) s j _ _).trans (same_setBc1 (q := .regs) (by decide) _ j _)
  · rfl

theorem lanes_tellTest (s : State) (j : Fin 32) (mode pattern : Nat) : (tellTest s j mode pattern).lnk.lanes = s.lnk.lanes := by
  unfold tellTest
  split
  · exact lanes_sendTest s j _ _
  · rw [lanes_setBc1, lanes_sendTest]
  · rfl

theorem tellTest_of_unassigned {s : State} {j : Fin 32} (h : laneAssigned s j.val = none) (mode pattern : Nat) :
    tellTest s j mode pattern = s := by
  unfold tellTest
  split
  · exact sendTest_of_unassigned h _ _
  · rw [sendTest_of_unassigned h, setBc1_of_unassigned h]
  · rfl

/-- A lane as its test begins. -/
def testLane (g rate : Nat) (l : Lane) : Lane :=
  { l with prbs := Lane.reset.prbs, gen := BitVec.ofNat 31 (g % (2 ^ 31 - 1) + 1), rate := rate }

/-- The lane's link is taken for the test, then the lane's checker starts anew in its mode. -/
def testSet (s : State) (j : Fin 32) (v : Word) (mode : Nat) : State :=
  let u := { regSet s (laneReg j 4) (v &&& 0x7C000000#32) with free := s.free + 1 }
  modLane u j (testLane (Config.freeNat s.free) (testRate u j mode))

theorem setTestMode_eq (s : State) (j : Fin 32) (v : Word) (mode : Nat) : setTestMode s j v mode =
    tellTest (testSet ((laneAssigned s j).elim s (takeForTest s)) j v mode) j mode (field v 27 26) := by
  unfold setTestMode
  cases laneAssigned s j <;> rfl

theorem maskOf_laneCtl : ∀ j : Fin 32, maskOf (laneReg j.val 4) = 0x7E000000 := by decide +kernel

theorem setTestMode_lane (s : State) (j : Fin 32) (v : Word) (mode : Nat) :
    regGet (setTestMode s j v mode) (laneReg j.val 4) = v &&& 0x7C000000 ∧
      ((setTestMode s j v mode).lnk.lanes[j]).prbs = Lane.reset.prbs := by
  rw [setTestMode_eq]
  generalize (laneAssigned s j).elim s (takeForTest s) = u
  constructor
  · rw [regGet_congr _ _ (regs_tellTest ..), testSet, regGet_modLane]
    exact (regGet_regSet_self u _ _).trans (by rw [maskOf_laneCtl, BitVec.and_assoc]; rfl)
  · rw [lanes_tellTest, testSet, lane_modLane_self]
    rfl

theorem sameLinks_testSet (s : State) (j : Fin 32) (v : Word) (mode : Nat) : SameLinks s (testSet s j v mode) := by
  let u : State := { regSet s (laneReg j 4) (v &&& 0x7C000000#32) with free := s.free + 1 }
  have hu : SameLinks s u := (sameLinks_regSet (offLinkCfg_laneReg j 4) s (v &&& 0x7C000000#32)).trans (sameLinks_of_eq rfl rfl)
  exact hu.trans (sameLinks_modLane u j _)

theorem setTestMode_of_unassigned {s : State} {j : Fin 32} (h : laneAssigned s j.val = none) (v : Word) (mode : Nat) :
    setTestMode s j v mode = testSet s j v mode := by
  rw [setTestMode_eq, h, Option.elim_none, tellTest_of_unassigned (((sameLinks_testSet s j v mode).laneAssigned j).trans h)]

theorem same_testSet {q : Part} (h : q ∉ [.regs, .free, .lnk]) (s : State) (j : Fin 32) (v : Word) (mode : Nat) :
    q.same s (testSet s j v mode) := by
  cases q
  case regs | free | lnk => simp at h
  all_goals rfl

theorem regGet_testSet_ne (s : State) (j : Fin 32) (v : Word) (mode : Nat) {i : Nat} (h : i ≠ laneReg j.val 4) :
    regGet (testSet s j v mode) i = regGet s i := regGet_regSet_ne s _ _ _ h

/-! ### LANE_TEST (R389) -/

theorem testRefused_mbxTake {p : Party} {slot : Nat} (h : slot < mbxSlots p) (s : State) (j : Fin 32) (v : Word) (mode : Nat) :
    testRefused (mbxTake s p slot) j v mode = testRefused s j v mode := by
  have hcode (k : Fin 4) : regField (mbxTake s p slot) (lkReg k 0) 30 28 = regField s (lkReg k 0) 30 28 :=
    regField_mbxTake h s (by unfold outsideMbx lkReg; omega) _ _
  simp only [testRefused, (sameLinks_mbxTake h s).laneAssigned, lnk_mbxTake, hcode]

section
variable {s : State} {p : Party} {k : Fin 32} {req : List Byte} {j : Fin 32} {mode : Nat} {v : Word} (hl : s.live = true)
  (ha : asks s p k.val 0x0901 req) (hj : (byteAt req 0x10).toNat = j.val) (hmode : mode = (byteAt req 0x11).toNat)
  (hv : v = packFields [(31, 1), (28, mode), (26, (byteAt req 0x12).toNat)])
include hl ha hj hmode hv

theorem exec_laneTest : exec (.laneTest p k) s = .next (endCycle s
    (if testRefused s j v mode = true then mbxReply (mbxTake s p k) p k stInvalidField 0 0 0x11
      else if (laneAssigned s j.val).isSome = true ∧ ¬ allowDisrupt req = true then mbxReply (mbxTake s p k) p k stInService 0 0 0
      else mbxRun (journalCommit (setTestMode (mbxTake s p k) j v mode)) p k 0x0901 (.lane j) true j
        (s.now + 1000000 * leAt req 0x14 4))) := by
  have hk := asks_slot ha
  rw [show exec (.laneTest p k) s = execLaneTest p k s from rfl, execLaneTest, inCore_of_live hl, serve_of_asks ha]
  dsimp only
  rw [hj, idx32_val]
  dsimp only
  rw [← hmode, ← hv, testRefused_mbxTake hk, (sameLinks_mbxTake hk s).laneAssigned, now_mbxTake]
  rfl

end

/-- The lane is under test, and the request waits for the end of its duration. -/
theorem laneTest_runs {s : State} {p : Party} {k : Nat} (hk : k < mbxSlots p) (j : Fin 32) (v : Word) (mode at_ : Nat) {t : State}
    (ht : t = endCycle s (mbxRun (journalCommit (setTestMode (mbxTake s p k) j v mode)) p k 0x0901 (.lane j) true j at_)) :
    regGet t (laneReg j.val 4) = v &&& 0x7C000000 ∧ (t.lnk.lanes[j]).prbs = Lane.reset.prbs ∧
      (∃ r ∈ t.mbx.running, r.party = p ∧ r.slot = k ∧ r.target = .lane j.val ∧ r.b = at_) ∧
      (laneAssigned s j.val = none → mbxState t p k = 2 ∧ onlySlotAnd [laneReg j.val 4] p k s t ∧
        onlyChanges [.free, .lnk, .flt, .mbx, .regs] s t) := by
  subst ht
  let u := setTestMode (mbxTake s p k) j v mode
  obtain ⟨hreg, hprbs⟩ := setTestMode_lane (mbxTake s p k) j v mode
  have hregs : (journalCommit u).regs = u.regs := same_journalCommit (q := .regs) (by decide) u
  have hlnk : (journalCommit u).lnk = u.lnk := same_journalCommit (q := .lnk) (by decide) u
  refine ⟨?_, ?_, ?_, fun hfree => ?_⟩
  · rw [regGet_endCycle]
    exact (regGet_congr _ _ hregs _).trans hreg
  · rw [endCycle_lnk, show (mbxRun (journalCommit u) p k 0x0901 (.lane j) true j at_).lnk = u.lnk from hlnk]
    exact hprbs
  · rw [endCycle_mbx]
    exact ⟨_, List.mem_append_right _ (List.mem_singleton_self _), rfl, rfl, rfl, rfl⟩
  · have hu : u = testSet (mbxTake s p k) j v mode :=
      setTestMode_of_unassigned (((sameLinks_mbxTake hk s).laneAssigned j).trans hfree) v mode
    obtain ⟨hstate, hslot⟩ := run_spec (s := s) (u := journalCommit u) (op := 0x0901) (x := .lane j) (hw := true) (a := j) (b := at_) hk
      (l := [laneReg j.val 4]) (by simp only [List.mem_singleton, forall_eq]; unfold outsideMbx laneReg; omega) fun i hi => by
        rw [regGet_congr _ _ hregs, hu, regGet_testSet_ne _ _ _ _ (by simpa using hi)]
    refine ⟨hstate, hslot, onlyChanges_run (by decide) (by decide) fun q hq => ?_⟩
    rw [show setTestMode (mbxTake s p k) j v mode = testSet (mbxTake s p k) j v mode from hu]
    exact (same_testSet (fun hm => hq (by simp at hm ⊢; tauto)) _ j v mode).trans
      (same_journalCommit (by rintro rfl; exact hq (by decide)) _)

/-! ### The end of a lane's test (R111) -/

/-- A lane's control register in mode 0 keeps its pattern alone. -/
theorem field_mode0 {n : Nat} (h : n < 4) : field (packFields [(26, n)] &&& 0x7E000000) 30 28 = 0 := by
  have hall : ∀ n : Fin 4, field (packFields [(26, n.val)] &&& 0x7E000000) 30 28 = 0 := by decide
  exact hall ⟨n, h⟩

/-- What the end of a test makes of a lane's registers, whatever becomes of its link. -/
theorem regGet_endTest (s : State) (j : Fin 32) (pattern i : Nat) :
    regGet (endTest s j pattern) i = regGet (regSet s (laneReg j.val 4) (packFields [(26, pattern)])) i := by
  unfold endTest
  extract_lets mode u told told'
  have htold : told.regs = u.regs := by
    unfold told
    split
    · exact same_sendTest (q := .regs) (by decide) u j _ _
    · rfl
  have htold' : told'.regs = told.regs := by
    unfold told'
    split
    · exact same_setBc1 (q := .regs) (by decide) told j _
    · rfl
  split
  · split
    · exact regGet_congr _ _ (htold'.trans htold) i
    · rw [regGet_startBringup, regGet_modLink]
      exact regGet_congr _ _ (htold'.trans htold) i
  · exact regGet_congr _ _ (htold'.trans htold) i

theorem endTest_of_unassigned {s : State} {j : Fin 32} (h : laneAssigned s j.val = none) (pattern : Nat) :
    endTest s j pattern = regSet s (laneReg j.val 4) (packFields [(26, pattern)]) := by
  have h' : laneAssigned (regSet s (laneReg j.val 4) (packFields [(26, pattern)])) j.val = none :=
    ((sameLinks_regSet (offLinkCfg_laneReg j 4) s _).laneAssigned j).trans h
  unfold endTest
  dsimp only
  rw [sendTest_of_unassigned h', ite_self, setBc1_of_unassigned h', ite_self, h']

theorem laneTestDuration_of_passed {s : State} {j : Fin 32} {r : RunReq} (hl : s.live = true)
    (hr : (s.mbx.running.find? fun r => decide (r.target = .lane j.val)) = some r) (hdue : r.b ≤ s.now)
    (hslot : r.slot < mbxSlots r.party) :
    exec (.laneTestDuration j) s = .next (endCycle s (mbxReply (endTest s j (regField s (laneReg j.val 4) 27 26)) r.party r.slot stSuccess
      (if (s.lnk.lanes[j]).prbs.locked = true then 1 else 0) (regGet s (laneReg j.val 0x1C)).toNat
        (regGet s (laneReg j.val 0x20)).toNat)) := by
  rw [show exec (.laneTestDuration j) s = execLaneTestDuration j s from rfl, execLaneTestDuration, inCore_of_live hl]
  rw [hr]
  dsimp only
  rw [if_pos hdue, finishLaneTest, if_pos hslot]

theorem running_mbxDone (s : State) (p : Party) (slot status detail r0 r1 : Nat) (data : List Byte) :
    (mbxDone s p slot status detail r0 r1 data).mbx.running = s.mbx.running.filter fun r => !(r.party = p && r.slot = slot) := by
  rw [mbxDone_eq, same_mbxNotify (q := .mbx) (by decide)]
  exact congrArg (fun m : MbxBlk => m.running.filter _) (same_mbxWritten (q := .mbx) (by decide) s p slot _)

theorem laneTestDuration_spec {s : State} {j : Fin 32} {r : RunReq} (hslot : r.slot < mbxSlots r.party) {t : State} {detail : Nat}
    (ht : t = endCycle s (mbxReply (endTest s j (regField s (laneReg j.val 4) 27 26)) r.party r.slot stSuccess detail
      (regGet s (laneReg j.val 0x1C)).toNat (regGet s (laneReg j.val 0x20)).toNat)) :
    answered t r.party r.slot 0 (regGet s (laneReg j.val 0x1C)).toNat (regGet s (laneReg j.val 0x20)).toNat ∧
      regField t (laneReg j.val 4) 30 28 = 0 ∧ (∀ x ∈ t.mbx.running, ¬ (x.party = r.party ∧ x.slot = r.slot)) ∧
      (laneAssigned s j.val = none → onlySlotAnd [laneReg j.val 4] r.party r.slot s t ∧ onlyChanges answering s t) := by
  subst ht
  have hout : outsideMbx (laneReg j.val 4) := by unfold outsideMbx laneReg; omega
  refine ⟨answered_replied hslot detail (status := stSuccess) (by decide) (BitVec.isLt _) (BitVec.isLt _), ?_, fun x hx => ?_,
    fun hfree => ⟨?_, ?_⟩⟩
  · rw [regField, mbxReply, regGet_done hslot hout (by unfold outsideFlt laneReg; omega) (by unfold laneReg; omega), regGet_endTest,
      regGet_regSet_self, maskOf_laneCtl]
    exact field_mode0 (field_lt ..)
  · rw [endCycle_mbx, mbxReply, running_mbxDone] at hx
    rintro ⟨hp, hs⟩
    simpa [hp, hs] using (List.mem_filter.mp hx).2
  · rw [endTest_of_unassigned hfree]
    intro i hi ho hs hc
    rw [regGet_endCycle, mbxReply, onlySlot_mbxDone hslot _ _ _ _ _ _ i ho hs hc, regGet_regSet_ne _ _ _ _ (by simpa using hi)]
  · rw [endTest_of_unassigned hfree]
    refine onlyChanges_endCycle fun q hq _ _ => ?_
    exact (same_regSet (by rintro rfl; exact hq (by decide)) s _ _).trans (same_mbxDone hq _ _ _ _ _ _ _ _)

/-! ### MEM_TEST (R389, R449) -/

theorem handleBytes_mbxTake (s : State) (p : Party) (slot : Nat) : handleBytes (mbxTake s p slot) = handleBytes s := by
  rw [handleBytes, show (mbxTake s p slot).imp = s.imp from same_mbxTake (q := .imp) (by decide) s p slot, handleBytes]

section
variable {p : Party} {slot : Nat} (h : slot < mbxSlots p)
include h

theorem usableBytes_mbxTake (s : State) : usableBytes (mbxTake s p slot) = usableBytes s := by
  rw [usableBytes, regField_mbxTake h s (by unfold outsideMbx; omega), usableBytes]

theorem largest_mbxTake (s : State) {off : Nat} (hoff : outsideMbx off) (hi lo : Nat) :
    largest (mbxTake s p slot) off hi lo = largest s off hi lo := by
  have hword (f : Forme) : formeWord (mbxTake s p slot) f off = formeWord s f off := by
    simp only [formeWord, regGet_mbxTake_outside h s hoff]
  simp only [largest, comingWords, lockedFormes, frm_mbxTake, hword, regGet_mbxTake_outside h s hoff]

theorem surfBytes_mbxTake (s : State) : surfBytes (mbxTake s p slot) = surfBytes s := by
  have hreg {j : Nat} (hj : outsideMbx j) (hi : Nat) := largest_mbxTake h s hj hi 0
  rw [surfBytes, usableBytes_mbxTake h, hreg (by unfold outsideMbx; omega), hreg (by unfold outsideMbx; omega),
    hreg (by unfold outsideMbx; omega), surfBytes]

/-- Whether a range is allocated is found the same of a request just taken. -/
theorem rangeTaken_mbxTake (s : State) (start len : Nat) : (rangeTaken (mbxTake s p slot) start len).1 = (rangeTaken s start len).1 := by
  simp only [rangeTaken, usableBytes_mbxTake h, surfBytes_mbxTake h, handleBytes_mbxTake, freeBool, free_mbxTake]
  split
  · rfl
  · split
    · rfl
    · split
      · rfl
      · split <;> rfl

end

/-- Finding whether a range is allocated takes no more than a free value. -/
theorem same_rangeTaken {q : Part} (h : q ≠ .free) (s : State) (start len : Nat) : q.same s (rangeTaken s start len).2 := by
  unfold rangeTaken
  split
  · exact .refl q s
  · split
    · exact .refl q s
    · split
      · exact .refl q s
      · split
        · exact .refl q s
        · exact same_free h s _

/-- The memory of a range that a test has written anew: its granules are no longer poisoned where nothing of it was allocated. -/
def testedMem (s : State) (taken : Bool) (start len : Nat) : State :=
  if taken then s
  else { s with mem := { s.mem with
    poison := s.mem.poison.filter fun g => !(decide (start ≤ 64 * g) && decide (64 * g < start + len)) } }

/-- What MEM_TEST answers. -/
def memTestReply (s : State) (p : Party) (slot failed first : Nat) : State :=
  if failed = 0 then mbxReply { s with free := s.free + 1 } p slot stSuccess 0 0 (Config.freeWord s.free).toNat
  else mbxReply s p slot stSuccess 0 (failed % 2 ^ 32) (first % 2 ^ 32)

theorem same_testedMem {q : Part} (h : q ≠ .mem) (s : State) (taken : Bool) (start len : Nat) : q.same s (testedMem s taken start len) := by
  unfold testedMem
  split
  · exact .refl q s
  · exact same_mem h s _

theorem mem_testedMem_taken (s : State) (start len : Nat) : (testedMem s true start len).mem = s.mem := rfl

theorem poison_testedMem (s : State) (start len g : Nat) : g ∈ (testedMem s false start len).mem.poison ↔
    g ∈ s.mem.poison ∧ ¬ (start ≤ 64 * g ∧ 64 * g < start + len) := by
  simp [testedMem, List.mem_filter, imp_iff_not_or]

section
variable {s : State} {p : Party} {k : Fin 32} {failed first start len : Nat} {req : List Byte} (hl : s.live = true)
  (ha : asks s p k.val 0x0902 req) (hstart : start = leAt req 0x10 8) (hlen : len = leAt req 0x18 8)
include hl ha hstart hlen

theorem memTest_of_beyond (hb : usableBytes s < start + len) : exec (.memTest p k failed first) s =
    .next (replied s (mbxTake s p k) p k stInvalidField 0 0 (if usableBytes s < start then 0x10 else 0x18)) := by
  rw [show exec (.memTest p k failed first) s = execMemTest p k failed first s from rfl, execMemTest, inCore_of_live hl, serve_of_asks ha]
  dsimp only
  rw [← hstart, ← hlen, usableBytes_mbxTake (asks_slot ha)]
  by_cases hs : usableBytes s < start
  · rw [if_pos hs, if_pos hs]
    rfl
  · rw [if_neg hs, if_pos hb, if_neg hs]
    rfl

theorem memTest_of_within (hb : start + len ≤ usableBytes s) : exec (.memTest p k failed first) s = .next (endCycle s
    (if (rangeTaken s start len).1 = true ∧ ¬ allowDisrupt req = true then
        mbxReply (rangeTaken (mbxTake s p k) start len).2 p k stInService 0 0 0
      else memTestReply (testedMem (rangeTaken (mbxTake s p k) start len).2 (rangeTaken s start len).1 start len) p k failed first)) := by
  rw [show exec (.memTest p k failed first) s = execMemTest p k failed first s from rfl, execMemTest, inCore_of_live hl, serve_of_asks ha]
  dsimp only
  rw [← hstart, ← hlen, usableBytes_mbxTake (asks_slot ha), if_neg (by omega), if_neg (by omega), rangeTaken_mbxTake (asks_slot ha)]
  rfl

end

/-- What is answered of a range that may be tested. -/
theorem memTestReply_spec {s u : State} {p : Party} {k : Nat} (hk : k < mbxSlots p) (failed first : Nat)
    (hu : ∀ q : Part, q ≠ .mem → q ≠ .free → q.same (mbxTake s p k) u) {t : State} (ht : t = endCycle s (memTestReply u p k failed first)) :
    (failed ≠ 0 → answered t p k 0 (failed % 2 ^ 32) (first % 2 ^ 32)) ∧
      (failed = 0 → mbxState t p k = 3 ∧ field (regGet t (mbxBase p k + 0x200)) 23 16 = stSuccess ∧
        regGet t (mbxBase p k + 0x208) = 0) ∧
      t.mem = u.mem ∧ onlySlot p k s t ∧ onlyChanges (.mem :: .free :: answering) s t := by
  have hlist {q : Part} (hq : q ∉ .mem :: .free :: answering) : q ≠ .mem ∧ q ≠ .free := by
    simp only [List.mem_cons, not_or] at hq
    exact ⟨hq.1, hq.2.1⟩
  subst ht
  by_cases hf : failed = 0
  · rw [memTestReply, if_pos hf]
    have hu' (q : Part) (hm : q ≠ .mem) (hr : q ≠ .free) : q.same (mbxTake s p k) { u with free := u.free + 1 } :=
      (hu q hm hr).trans (same_free hr u _)
    obtain ⟨hstate, hstatus, h0, -⟩ := answered_replied (s := s) (u := { u with free := u.free + 1 }) hk 0 (status := stSuccess) (r0 := 0)
      (by decide) (by decide) (Config.freeWord u.free).isLt
    refine ⟨absurd hf, fun _ => ⟨hstate, hstatus, BitVec.eq_of_toNat_eq h0⟩, ?_,
      onlySlot_replied hk (hu' .regs (by decide) (by decide)) _ _ _ _,
      onlyChanges_done (by decide) (fun q hq => hu' q (hlist hq).1 (hlist hq).2) _ _ _ _ _⟩
    rw [endCycle_mem, mbxReply, same_mbxDone (q := .mem) (by decide)]
  · rw [memTestReply, if_neg hf]
    refine ⟨fun _ => answered_replied hk 0 (status := stSuccess) (by decide) (Nat.mod_lt _ (by decide)) (Nat.mod_lt _ (by decide)),
      (absurd · hf), ?_,
      onlySlot_replied hk (hu .regs (by decide) (by decide)) _ _ _ _,
      onlyChanges_done (by decide) (fun q hq => hu q (hlist hq).1 (hlist hq).2) _ _ _ _ _⟩
    rw [endCycle_mem, mbxReply, same_mbxDone (q := .mem) (by decide)]

end Sys2Proof.Machine
end

section
/-! The statement about the mailbox commands of the PTP clock, sensors, lanes and memory. -/

namespace Sys2Proof.Machine
open Sys2Proof

/-- Settles O52: each command by what it finds once its request is taken; a refusal is `refused_spec`. That PTP_SET_TIME clears the
clock's fraction is the model's choice (log 33). -/
theorem ptpSensorLaneAndMemoryCommands : Obligations.PtpSensorLaneAndMemoryCommands := by
  unfold Obligations.PtpSensorLaneAndMemoryCommands
  refine ⟨fun s p k req hl ha => ptpConfig_spec hl ha,
    fun s p k req hl ha => ⟨fun hoff => ptpSetTime_of_servoOff hl ha hoff, fun hon => ?timeRefused⟩,
    fun s p k req hl ha => ptpStatus_spec hl ha,
    fun s p k req n hl ha hn => ⟨fun hcap => ?cap, fun hcap => ?noCap⟩,
    fun s p k buf ans req d n e stream l segs back hl ha hn he hlink => ⟨fun hup hbus hsegs hsize hmax hdata hback hroom =>
      ⟨fun hallow => ?access, fun hrefuse => ?accessRefused⟩, fun hdown => ?accessDown⟩,
    fun s p k buf req n segs hl ha hn => ⟨fun hmask hin hallow hbus hsegs hroom => ?calibrates, fun hmask hin => ?calRefused,
      fun hmask => ?calMasked⟩,
    fun s p k req j mode v hl ha hj hmode hv => ⟨fun hrefused => ?testRefused, fun hok hsome hno => ?testInService,
      fun hok hallow => ?tests⟩,
    fun s j r hl hr hdue hslot => ⟨_, laneTestDuration_of_passed hl hr hdue hslot, laneTestDuration_spec hslot rfl⟩,
    fun s p k failed first start len req hl ha hstart hlen => ⟨fun hb => ?beyond, fun hb hfree => ?memTested,
      fun hb htaken hno => ?memTaken⟩⟩
  case timeRefused =>
    exact ⟨_, ptpSetTime_of_servoOn hl ha hon, refused_spec (asks_slot ha) (by decide) (by decide) (by decide)⟩
  case cap =>
    have hk := asks_slot ha
    refine ⟨_, sensorCap_of_record hl ha hn hcap, answered_done hk 0 _ (status := stSuccess) (by decide) (by decide) (by decide), ?_,
      onlySlot_done hk rfl _ _ _ _ _, onlyChanges_done (by decide) (fun q _ => .refl q _) _ _ _ _ _⟩
    have hlen := regWords_length s 16 (capReg n.val 0)
    have hwords := regWords_done_at (s := s) (u := mbxTake s p k) hk stSuccess 0 0 0 (pre := []) (post := []) (m := 0) rfl hlen rfl
      (by decide)
      (by simp [bytesOf_length, hlen])
    rwa [List.nil_append, List.append_nil] at hwords
  case noCap => exact ⟨_, sensorCap_of_none hl ha hn hcap, refused_spec (asks_slot ha) (by decide) (by decide) (by decide)⟩
  case access =>
    refine ⟨_, sensorReg_of_up hl ha hn he hlink hup hbus hsegs hsize hmax hdata hback hroom, ?_⟩
    rw [if_neg (by rw [hallow]; exact Bool.false_ne_true)]
    exact accessSent_runs (asks_slot ha) _ _ _ _ _ _ rfl
  case accessRefused =>
    refine ⟨_, sensorReg_of_up hl ha hn he hlink hup hbus hsegs hsize hmax hdata hback hroom, ?_⟩
    rw [if_pos hrefuse]
    exact refused_spec (asks_slot ha) (by decide) (by decide) (by decide)
  case accessDown =>
    exact ⟨_, sensorReg_of_down hl ha hn hlink hdown, refused_spec (asks_slot ha) (by decide) (by decide) (by decide)⟩
  case calibrates =>
    have hallow' : (byteAt req 0x11).toNat ≠ 0 ∨ allowDisrupt req = true := hallow.imp_left (by omega)
    refine ⟨_, blackCal_of_free hl ha hn hmask hin hallow' hbus hsegs hroom, calibration_runs (asks_slot ha) _ _ _ rfl⟩
  case calRefused =>
    exact ⟨_, blackCal_of_inService hl ha hn hmask hin, refused_spec (asks_slot ha) (by decide) (by decide) (by decide)⟩
  case calMasked =>
    exact ⟨_, blackCal_of_masked hl ha hn hmask, refused_spec (asks_slot ha) (by decide) (by decide) (by decide)⟩
  case testRefused =>
    refine ⟨_, exec_laneTest hl ha hj hmode hv, ?_⟩
    rw [if_pos hrefused]
    exact refused_spec (asks_slot ha) (by decide) (by decide) (by decide)
  case testInService =>
    refine ⟨_, exec_laneTest hl ha hj hmode hv, ?_⟩
    rw [hok, if_neg Bool.false_ne_true, if_pos ⟨hsome, by rw [hno]; exact Bool.false_ne_true⟩]
    exact refused_spec (asks_slot ha) (by decide) (by decide) (by decide)
  case tests =>
    refine ⟨_, exec_laneTest hl ha hj hmode hv, ?_⟩
    rw [hok, if_neg Bool.false_ne_true, if_neg (fun h => h.2 (hallow h.1))]
    exact laneTest_runs (asks_slot ha) j v mode _ rfl
  case beyond =>
    refine ⟨_, memTest_of_beyond hl ha hstart hlen hb, refused_spec (asks_slot ha) (by decide) (by decide) ?_⟩
    split <;> decide
  case memTested =>
    have hk := asks_slot ha
    refine ⟨_, memTest_of_within hl ha hstart hlen hb, ?_⟩
    have hmay : ¬ ((rangeTaken s start len).1 = true ∧ ¬ allowDisrupt req = true) := by
      rintro ⟨htaken, hno⟩
      rcases hfree with h | h
      · rw [h] at htaken
        cases htaken
      · exact hno h
    rw [if_neg hmay]
    have hrange (q : Part) (hq : q ≠ .free) := same_rangeTaken hq (mbxTake s p k) start len
    obtain ⟨hfail, hnone, hmem, hslot, hchange⟩ := memTestReply_spec hk failed first
      (fun q hm hr => (hrange q hr).trans (same_testedMem hm _ (rangeTaken s start len).1 start len)) rfl
    have hmem0 : (rangeTaken (mbxTake s p k) start len).2.mem = s.mem := Eq.trans (hrange .mem (by decide)) (mem_mbxTake s p k)
    refine ⟨hfail, hnone, fun hno g => ?_, fun hyes => ?_, hslot, hchange⟩
    · rw [hmem, hno, poison_testedMem, hmem0]
    · rw [hmem, hyes, mem_testedMem_taken, hmem0]
  case memTaken =>
    have hk := asks_slot ha
    have hrange (q : Part) (hq : q ≠ .free) := same_rangeTaken hq (mbxTake s p k) start len
    refine ⟨_, memTest_of_within hl ha hstart hlen hb, ?_⟩
    rw [if_pos ⟨htaken, by rw [hno]; exact Bool.false_ne_true⟩]
    exact ⟨answered_replied hk 0 (by decide) (by decide) (by decide), onlySlot_replied hk (hrange .regs (by decide)) _ _ _ _,
      onlyChanges_done (by decide) (fun q hq => hrange q (by rintro rfl; exact hq (by decide))) _ _ _ _ _⟩

end Sys2Proof.Machine
end

section
/-! Proof of the statement about the back-channel's delay and the packets of sensors: PINGs and ECHOs (R107). -/

namespace Sys2Proof.Machine
open Sys2Proof

/-! ### PINGs sent (R107) -/

theorem same_sendPings {q : Part} (h : q ∉ [.lnk, .out]) (k : Fin 4) (n : Nat) : ∀ s, q.same s (sendPings n s k) := by
  obtain ⟨hlnk, hout⟩ : q ≠ .lnk ∧ q ≠ .out := by simpa using h
  induction n with
  | zero => exact fun s => .refl q s
  | succ n ih => exact fun s => ((same_emit hout s _).trans (same_modLink hlnk _ _ _)).trans (ih _)

/-- The PINGs go out one after the other, and are outstanding. -/
theorem sendPings_spec (k : Fin 4) (n : Nat) : ∀ s : State, ∃ l ps i x, (sendPings n s k).out = l ++ s.out ∧ l.length = n ∧
    (∀ o ∈ l, ∃ q, o = .bc k (.ping q)) ∧ ps.length = n ∧
    (sendPings n s k).lnk.links[k] = { s.lnk.links[k] with pingSeq := i, tx := x, pings := (s.lnk.links[k]).pings ++ ps } := by
  induction n with
  | zero => exact fun s => ⟨[], [], (s.lnk.links[k]).pingSeq, (s.lnk.links[k]).tx, rfl, rfl, by simp, rfl, by rw [List.append_nil]; rfl⟩
  | succ n ih =>
    intro s
    obtain ⟨q, hq⟩ : ∃ q, q = (s.lnk.links[k]).pingSeq % 256 := ⟨_, rfl⟩
    obtain ⟨at_, hat⟩ : ∃ a, a = s.now + 1000 * (8 - (n + 1)) := ⟨_, rfl⟩
    let u := modLink (emit s (.bc k (.ping q))) k fun l =>
      { l with pingSeq := q + 1, tx := l.tx.putPing at_ q, pings := l.pings ++ [{ id := q, sentAt := at_ }] }
    have hstep : sendPings (n + 1) s k = sendPings n u k := by rw [sendPings, ← hq, ← hat]
    obtain ⟨l, ps, i, x, hout, hlen, hping, hps, hlink⟩ := ih u
    refine ⟨l ++ [.bc k (.ping q)], { id := q, sentAt := at_ } :: ps, i, x, ?_, by simp [hlen], fun o ho => ?_, by simp [hps], ?_⟩
    · rw [hstep, hout, List.append_assoc]
      rfl
    · rcases List.mem_append.mp ho with ho | ho
      · exact hping o ho
      · exact ⟨q, List.mem_singleton.mp ho⟩
    · rw [hstep, hlink, link_modLink_self]
      simp only [List.append_assoc, List.singleton_append]
      rfl

theorem bcDelayMeasure_of_due {s : State} {k : Fin 4} (hl : s.live = true) (hup : (s.lnk.links[k]).st = .up)
    (hdue : (s.lnk.links[k]).lastMeas + 1000000000 ≤ s.now) :
    exec (.bcDelayMeasure k) s = .next (endCycle s (measureDelay s k)) := by
  rw [show exec (.bcDelayMeasure k) s = execBcDelayMeasure k s from rfl, execBcDelayMeasure, inCore_of_live hl]
  dsimp only
  rw [if_pos ⟨hup, hdue⟩]

/-! ### The capability requests that follow the measurement (R107, R120) -/

/-- Capability requests have gone out at most: of the links only the back-channels and what is due have changed, and of the registers none
of the link layer. -/
structure CapsAsked (s t : State) : Prop where
  link : ∀ i : Fin 4, ∃ x c, t.lnk.links[i] = { s.lnk.links[i] with tx := x, capsDue := c }
  regs : ∀ j, j < 0x60000 → regGet t j = regGet s j

theorem capsAsked_of_eq {s t : State} (hlnk : t.lnk = s.lnk) (hregs : t.regs = s.regs) : CapsAsked s t :=
  ⟨fun i => ⟨(s.lnk.links[i]).tx, (s.lnk.links[i]).capsDue, by rw [hlnk]⟩, fun j _ => regGet_congr _ _ hregs j⟩

theorem CapsAsked.refl (s : State) : CapsAsked s s := capsAsked_of_eq rfl rfl

theorem CapsAsked.trans {s t u : State} (h : CapsAsked s t) (h' : CapsAsked t u) : CapsAsked s u := by
  refine ⟨fun i => ?_, fun j hj => (h'.regs j hj).trans (h.regs j hj)⟩
  obtain ⟨x, c, hx⟩ := h.link i
  obtain ⟨x', c', hx'⟩ := h'.link i
  exact ⟨x', c', by rw [hx', hx]⟩

theorem capsAsked_modLink {s : State} {f : Link → Link} (k : Fin 4) (hf : ∀ l, ∃ x c, f l = { l with tx := x, capsDue := c }) :
    CapsAsked s (modLink s k f) := by
  refine ⟨fun i => ?_, fun _ _ => rfl⟩
  by_cases hi : i = k
  · rw [hi, link_modLink_self]
    exact hf _
  · rw [link_modLink_ne s hi]
    exact ⟨(s.lnk.links[i]).tx, (s.lnk.links[i]).capsDue, rfl⟩

theorem capsAsked_sendBc (s : State) (k : Fin 4) (b : Bc) : CapsAsked s (sendBc s k b) :=
  (capsAsked_of_eq (s := s) (t := emit s (.bc k b)) rfl rfl).trans (capsAsked_modLink k fun l => ⟨_, l.capsDue, rfl⟩)

theorem capsAsked_requestCap (s : State) (n : Fin 8) : CapsAsked s (requestCap s n) := by
  have hcap (u : State) (f : CapSt → CapSt) : CapsAsked u (modCap u n f) := capsAsked_of_eq rfl rfl
  have hreg (u : State) (v : Word) : CapsAsked u (regSet u (capStateReg n) v) :=
    ⟨fun i => ⟨_, _, rfl⟩, fun j hj => regGet_regSet_ne _ _ _ _ (by unfold capStateReg; omega)⟩
  unfold requestCap sendCapRequest
  split
  · exact hcap s _
  · next k stream _ => exact (hcap s _).trans ((capsAsked_sendBc _ k _).trans ((hcap _ _).trans (hreg _ _)))

theorem capsAsked_askCaps (s : State) (k : Fin 4) : CapsAsked s (askCaps s k) := by
  unfold askCaps
  split
  · exact List.foldlRecOn (slotsOf s k) _ (motive := CapsAsked s) (capsAsked_modLink k fun l => ⟨l.tx, false, rfl⟩)
      fun t ht n _ => ht.trans (capsAsked_requestCap t n)
  · exact .refl s

theorem askCaps_of_undue {s : State} {k : Fin 4} (h : (s.lnk.links[k]).capsDue = false) : askCaps s k = s := by
  rw [askCaps, h, if_neg Bool.false_ne_true]

/-! ### The end of a measurement (R107) -/

theorem link_lnkEvent (s : State) (i code : Nat) (sev : Severity) (n sub : Nat) (k : Fin 4) :
    (lnkEvent s i code sev n sub).lnk.links[k] = s.lnk.links[k] := by rw [lnkEvent, event_lnk]

/-- A link whose measurement is over. -/
def measureOver (l : Link) : Link := { l with samples := [], dropped := 0 }

/-- Half the median is in force on a link, and DELAY_CHANGED is raised where it has moved by more than 2 us. -/
def delayTaken (s : State) (k : Fin 4) : State :=
  let d := median (s.lnk.links[k]).samples / 2
  let old := (regGet s (lkReg k 0x14)).toNat
  let u := modLink (regSet (modLink s k measureOver) (lkReg k 0x14) (BitVec.ofNat 32 d)) k fun l => { l with delayValid := true }
  if (s.lnk.links[k]).delayValid ∧ (d > old + 2000 ∨ old > d + 2000) then lnkEvent u 6 0x07 .info k 0 else u

theorem link_delayTaken (s : State) (k : Fin 4) :
    (delayTaken s k).lnk.links[k] = { s.lnk.links[k] with samples := [], dropped := 0, delayValid := true } := by
  have hlink : (modLink (regSet (modLink s k measureOver) (lkReg k 0x14) (BitVec.ofNat 32 (median (s.lnk.links[k]).samples / 2))) k
      fun l => { l with delayValid := true }).lnk.links[k] =
        { s.lnk.links[k] with samples := [], dropped := 0, delayValid := true } := by
    rw [link_modLink_self, regSet_lnk, link_modLink_self]
    rfl
  unfold delayTaken
  dsimp only
  split
  · exact (link_lnkEvent ..).trans hlink
  · exact hlink

theorem regGet_delayTaken (s : State) (k : Fin 4) : regGet (delayTaken s k) (lkReg k.val 0x14) =
    BitVec.ofNat 32 (median (s.lnk.links[k]).samples / 2) &&& maskOf (lkReg k.val 0x14) := by
  unfold delayTaken
  dsimp only
  split
  · rw [lnkEvent, regGet_event _ _ _ _ _ _ _ _ (by unfold outsideFlt lkReg; omega)
      (by simp only [Blk.events, lkReg, ne_eq, Option.some.injEq]; omega),
      regGet_modLink, regGet_regSet_self]
  · rw [regGet_modLink, regGet_regSet_self]

section
variable {s : State} {k : Fin 4}

/-- Before the last PING is answered or dropped nothing comes of the samples. -/
theorem finishDelay_of_pings (h : (s.lnk.links[k]).pings ≠ []) : finishDelay s k = s := if_pos (.inl h)

/-- With the last PING answered or dropped, half the median of the samples comes into force. -/
theorem finishDelay_of_samples (h : (s.lnk.links[k]).pings = []) (hs : (s.lnk.links[k]).samples ≠ []) :
    finishDelay s k = askCaps (delayTaken s k) k := by
  have hrun : ¬ ((s.lnk.links[k]).pings ≠ [] ∨ (s.lnk.links[k]).samples.length + (s.lnk.links[k]).dropped = 0) := by
    rintro (hp | h0)
    · exact hp h
    · exact hs (List.eq_nil_of_length_eq_zero (by omega))
  rw [finishDelay]
  dsimp only
  rw [if_neg hrun, if_neg hs]
  rfl

/-- With no PING answered the delay stays, and DELAY_LOST is raised. -/
theorem finishDelay_of_noSample (h : (s.lnk.links[k]).pings = []) (hs : (s.lnk.links[k]).samples = []) (hd : (s.lnk.links[k]).dropped ≠ 0) :
    finishDelay s k = askCaps (lnkEvent (modLink s k measureOver) 6 0x07 .info k 0) k := by
  have hrun : ¬ ((s.lnk.links[k]).pings ≠ [] ∨ (s.lnk.links[k]).samples.length + (s.lnk.links[k]).dropped = 0) := by
    rintro (hp | h0)
    · exact hp h
    · omega
  rw [finishDelay]
  dsimp only
  rw [if_neg hrun, if_pos hs]
  rfl

end

/-- A measurement, whether it is over or not, leaves what was received and what is outstanding as it is. -/
theorem received_finishDelay (s : State) (k : Fin 4) : ((finishDelay s k).lnk.links[k]).rx = (s.lnk.links[k]).rx ∧
    ((finishDelay s k).lnk.links[k]).pings = (s.lnk.links[k]).pings := by
  by_cases h : (s.lnk.links[k]).pings = []
  · by_cases hs : (s.lnk.links[k]).samples = []
    · by_cases hd : (s.lnk.links[k]).dropped = 0
      · rw [show finishDelay s k = s from if_pos (.inr (by rw [hs, hd]; rfl))]
        exact ⟨rfl, rfl⟩
      · obtain ⟨x, c, hlink⟩ := (capsAsked_askCaps (lnkEvent (modLink s k measureOver) 6 0x07 .info k 0) k).link k
        rw [finishDelay_of_noSample h hs hd, hlink, link_lnkEvent, link_modLink_self]
        exact ⟨rfl, rfl⟩
    · obtain ⟨x, c, hlink⟩ := (capsAsked_askCaps (delayTaken s k) k).link k
      rw [finishDelay_of_samples h hs, hlink, link_delayTaken]
      exact ⟨rfl, rfl⟩
  · rw [finishDelay_of_pings h]
    exact ⟨rfl, rfl⟩

/-! ### A PING answered or dropped (R107) -/

/-- A link with a PING answered or dropped. -/
def pingEnded (q : Nat) (sample : Option Nat) (l : Link) : Link :=
  { l with pings := l.pings.filter fun p => decide (p.id ≠ q), samples := l.samples ++ sample.toList,
           dropped := l.dropped + (if sample.isSome then 0 else 1) }

theorem endPing_eq (s : State) (k : Fin 4) (q : Nat) (sample : Option Nat) :
    endPing s k q sample = finishDelay (modLink s k (pingEnded q sample)) k := rfl

theorem pings_ended {ps : List PingSt} {q : Nat} : (∀ x ∈ ps.filter fun p => decide (p.id ≠ q), x.id ≠ q) ∧
    ((∃ x ∈ ps, x.id ≠ q) → ps.filter (fun p => decide (p.id ≠ q)) ≠ []) ∧
    ((∀ x ∈ ps, x.id = q) → ps.filter (fun p => decide (p.id ≠ q)) = []) := by
  refine ⟨fun x hx => by simpa using (List.mem_filter.mp hx).2, fun ⟨x, hx, hne⟩ => ?_, fun h => ?_⟩
  · exact List.ne_nil_of_mem (List.mem_filter.mpr ⟨hx, by simpa using hne⟩)
  · simpa [List.filter_eq_nil_iff] using h

section
variable {s : State} {k : Fin 4} {q : Nat}

theorem received_endPing (sample : Option Nat) : ((endPing s k q sample).lnk.links[k]).rx = (s.lnk.links[k]).rx ∧
    ∀ x ∈ ((endPing s k q sample).lnk.links[k]).pings, x.id ≠ q := by
  obtain ⟨hrx, hp⟩ := received_finishDelay (modLink s k (pingEnded q sample)) k
  rw [endPing_eq, hrx, hp, link_modLink_self]
  exact ⟨rfl, pings_ended.1⟩

/-- While another PING is outstanding. -/
theorem endPing_of_others (h : ∃ x ∈ (s.lnk.links[k]).pings, x.id ≠ q) (sample : Option Nat) :
    endPing s k q sample = modLink s k (pingEnded q sample) := by
  rw [endPing_eq, finishDelay_of_pings]
  rw [link_modLink_self]
  exact pings_ended.2.1 h

/-- With the last PING answered, half the median comes into LNK.Lk_BC_DELAY. -/
theorem endPing_last (h : ∀ x ∈ (s.lnk.links[k]).pings, x.id = q) (v : Nat) :
    ((endPing s k q (some v)).lnk.links[k]).delayValid = true ∧ ((endPing s k q (some v)).lnk.links[k]).samples = [] ∧
      regGet (endPing s k q (some v)) (lkReg k.val 0x14) =
        BitVec.ofNat 32 (median ((s.lnk.links[k]).samples ++ [v]) / 2) &&& maskOf (lkReg k.val 0x14) := by
  have hlink := link_modLink_self s k (pingEnded q (some v))
  have hsamples : ((modLink s k (pingEnded q (some v))).lnk.links[k]).samples = (s.lnk.links[k]).samples ++ [v] := by
    rw [hlink]
    rfl
  have hcaps := capsAsked_askCaps (delayTaken (modLink s k (pingEnded q (some v))) k) k
  obtain ⟨x, c, hlast⟩ := hcaps.link k
  rw [endPing_eq, finishDelay_of_samples (by rw [hlink]; exact pings_ended.2.2 h) (by rw [hsamples]; simp), hlast, link_delayTaken,
    hcaps.regs _ (by unfold lkReg; omega), regGet_delayTaken, hsamples]
  exact ⟨rfl, rfl, rfl⟩

end

end Sys2Proof.Machine
end

section
/-! Proof of the statement about the back-channel's delay and the packets of sensors: what is received of a sensor (R93, R107, R109,
R114). -/

namespace Sys2Proof.Machine
open Sys2Proof

/-- A link that has handed on what it had received up to an item. -/
def rxTaken (r : List RxItem) (l : Link) : Link := { l with rx := r }

theorem modLink_modLink (s : State) (k : Fin 4) (f g : Link → Link) :
    modLink (modLink s k.val f) k.val g = modLink s k.val fun l => g (f l) := by
  simp only [modLink, vMod_vMod]

theorem onlyChanges_modLink (s : State) (k : Nat) (f : Link → Link) : onlyChanges [.lnk] s (endCycle s (modLink s k f)) :=
  onlyChanges_endCycle fun q hq _ _ => same_modLink (by simpa using hq) s k f

/-! ### ECHO and the timeout of a PING (R107) -/

theorem turnaround_rxTaken (s : State) (k : Fin 4) (r : List RxItem) : turnaround (modLink s k (rxTaken r)) k = turnaround s k := by
  rw [turnaround, (sameLinks_modLink (f := rxTaken r) (fun _ => rfl) s k).slotsOf, turnaround]
  rfl

theorem echo_of_outstanding {s : State} {k : Fin 4} {rtt q : Nat} {r : List RxItem} {p : PingSt} (hl : s.live = true)
    (hrx : (s.lnk.links[k]).rx = .echo q :: r) (hp : (s.lnk.links[k]).pings.find? (fun x => decide (x.id = q)) = some p) :
    exec (.echo k rtt) s = .next (endCycle s (endPing (modLink s k (rxTaken r)) k q
      (if (decide (s.now > p.sentAt + 10000) || decide (rtt > 10000000)) = true then none
        else some (rtt - turnaround s k - Config.linkLatency k.val)))) := by
  have hpings : ((modLink s k (rxTaken r)).lnk.links[k]).pings = (s.lnk.links[k]).pings := by rw [link_modLink_self]; rfl
  rw [show exec (.echo k rtt) s = execEcho k rtt s from rfl, execEcho, inCore_of_live hl]
  dsimp only
  rw [hrx, takeItem, if_pos rfl]
  dsimp only
  rw [show (modLink s k fun l => { l with rx := r }) = modLink s k (rxTaken r) from rfl, hpings, hp]
  dsimp only
  rw [turnaround_rxTaken]
  rfl

theorem pingTimeout_of_old {s : State} {k : Fin 4} {q : Nat} {p : PingSt} (hl : s.live = true) (hp : p ∈ (s.lnk.links[k]).pings)
    (hid : p.id = q) (hold : p.sentAt + 10000 ≤ s.now) : exec (.pingTimeout k q) s = .next (endCycle s (endPing s k q none)) := by
  have hany : ((s.lnk.links[k]).pings.any fun p => decide (p.id = q) && decide (s.now ≥ p.sentAt + 10000)) = true :=
    List.any_eq_true.mpr ⟨p, hp, by simpa using ⟨hid, hold⟩⟩
  rw [show exec (.pingTimeout k q) s = execPingTimeout k q s from rfl, execPingTimeout, inCore_of_live hl, hany, if_pos rfl]

/-- With the last PING dropped and none answered. -/
theorem endPing_noSample {s : State} {k : Fin 4} {q : Nat} (h : ∀ x ∈ (s.lnk.links[k]).pings, x.id = q)
    (hs : (s.lnk.links[k]).samples = []) : endPing s k q none =
      askCaps (lnkEvent (modLink (modLink s k (pingEnded q none)) k measureOver) 6 0x07 .info k 0) k := by
  have hlink := link_modLink_self s k (pingEnded q none)
  rw [endPing_eq, finishDelay_of_noSample]
  · rw [hlink]; exact pings_ended.2.2 h
  · rw [hlink]; exact (List.append_nil _).trans hs
  · rw [hlink]; simp [pingEnded]

/-! ### What a sensor sends (R93, R109, R114) -/

theorem statusBlock_of_received {s : State} {k : Fin 4} {b : List Byte} {r : List RxItem} (hl : s.live = true)
    (hrx : (s.lnk.links[k]).rx = .status b :: r) :
    exec (.statusBlock k) s = .next (endCycle s (modLink s k fun l => { l with rx := r, status := b })) := by
  rw [show exec (.statusBlock k) s = execStatusBlock k s from rfl, execStatusBlock, inCore_of_live hl]
  rw [hrx, takeItem, if_pos rfl]

theorem takePacketIf_head {ty : Nat} {p : OpenPkt} (hty : p.ty = ty) (r : List RxItem) :
    takePacketIf ty (fun _ => true) (.packet p :: r) = some (p, r) := by
  rw [takePacketIf, takeItem, if_pos (by simpa using hty)]

theorem sensorEvent_of_received {s : State} {k : Fin 4} {p : OpenPkt} {r : List RxItem} (hl : s.live = true)
    (hrx : (s.lnk.links[k]).rx = .packet p :: r) (hty : p.ty = 4) : exec (.sensorEvent k) s = .next (endCycle s
      (if p.aborted = true ∨ p.errored = true then modLink s k (rxTaken r)
        else event (modLink s k (rxTaken r)) .lnk 8 0x09 .info (ctxUnit 8 k p.stream (leAt p.bytes 0 8)) 0)) := by
  rw [show exec (.sensorEvent k) s = execSensorEvent k s from rfl, execSensorEvent, inCore_of_live hl]
  dsimp only
  rw [hrx, takePacket, takePacketIf_head hty]
  rfl

/-! ### REG_RESPONSE (R109) -/

/-- The waits for REG_RESPONSEs with one of them ended. -/
def waitEnded (s : State) (w : RegWait) : State :=
  { s with lnk := { s.lnk with regWaits := s.lnk.regWaits.filter fun x => decide (x ≠ w) } }

theorem endAccess_eq (s : State) (w : RegWait) (f : State → State) : endAccess s w f = f (waitEnded s w) := rfl

theorem same_waitEnded {q : Part} (h : q ≠ .lnk) (s : State) (w : RegWait) : q.same s (waitEnded s w) := by
  cases q
  case lnk => exact absurd rfl h
  all_goals rfl

theorem regWaits_waitEnded {s : State} {w : RegWait} (h : s.lnk.regWaits = [w]) : (waitEnded s w).lnk.regWaits = [] := by
  rw [waitEnded, h]
  simp

theorem find_wait {s : State} {w : RegWait} {n : Fin 8} (h : s.lnk.regWaits = [w]) (hn : w.slot = n.val) :
    (s.lnk.regWaits.find? fun w => decide (w.slot = n.val)) = some w := by
  rw [h, List.find?_cons_of_pos (by simpa using hn)]

/-- The REG_RESPONSE at the head of what was received meets the one request that waits. -/
theorem regResponse_of_received {s : State} {k : Fin 4} {p : OpenPkt} {r : List RxItem} {n : Fin 8} {w : RegWait} (hl : s.live = true)
    (hrx : (s.lnk.links[k]).rx = .packet p :: r) (hty : p.ty = 3) (hslot : p.slot = some n.val) (habort : p.aborted = false)
    (herr : p.errored = false) (hwait : s.lnk.regWaits = [w]) (hw : w.slot = n.val) :
    exec (.regResponse k) s = .next (endCycle s
      (if accessLate s w = true then mbxReply (waitEnded (modLink s k (rxTaken r)) w) w.party w.mslot stNotReady 0 0 0
        else mbxReply (putOut (waitEnded (modLink s k (rxTaken r)) w) w.party w.segs (p.bytes.take (8 * w.entries))) w.party w.mslot
          stSuccess 0 ((p.bytes.take (8 * w.entries)).length / 8) 0)) := by
  have hn : slotOf n.val = n := by
    unfold slotOf
    exact Fin.ext (Nat.mod_eq_of_lt n.isLt)
  have hgood : ¬ (p.aborted = true ∨ p.errored = true) := by simp [habort, herr]
  rw [show exec (.regResponse k) s = execRegResponse k s from rfl, execRegResponse, inCore_of_live hl]
  dsimp only
  rw [withPacket, withPacketIf, hrx, takePacketIf_head hty]
  dsimp only
  rw [hslot]
  dsimp only
  rw [hn, show (modLink s k fun l => { l with rx := r }).lnk.regWaits = s.lnk.regWaits from rfl, find_wait hwait hw]
  dsimp only
  rw [if_neg hgood]
  rfl

theorem regAccessTimeout_of_old {s : State} {n : Fin 8} {w : RegWait} (hl : s.live = true) (hwait : s.lnk.regWaits = [w])
    (hw : w.slot = n.val) (hold : w.sentAt + 10000000 ≤ s.now) : exec (.regAccessTimeout n) s =
      .next (endCycle s (mbxReply (waitEnded s w) w.party w.mslot stNotReady 0 0 0)) := by
  rw [show exec (.regAccessTimeout n) s = execRegAccessTimeout n s from rfl, execRegAccessTimeout, inCore_of_live hl]
  rw [find_wait hwait hw]
  dsimp only
  rw [if_pos hold, endAccess_eq]

/-! ### Answers that go out (R385) -/

theorem same_scatter {q : Part} (h : q ≠ .out) (fn : Nat) (segs : List (Nat × Nat)) :
    ∀ (s : State) (l : List Byte), q.same s (scatter s fn segs l) := by
  induction segs with
  | nil => exact fun s _ => .refl q s
  | cons x segs ih =>
    intro s l
    rw [scatter]
    split
    · exact .refl q s
    · exact (same_emit h s _).trans (ih _ _)

theorem same_coreWrite {q : Part} (h : q ∉ [.per, .imp]) (s : State) (u addr : Nat) (l : List Byte) : q.same s (coreWrite s u addr l) := by
  unfold coreWrite
  cases q
  case per | imp => simp at h
  all_goals split <;> rfl

theorem same_coreScatter {q : Part} (h : q ∉ [.per, .imp]) (u : Nat) (segs : List (Nat × Nat)) :
    ∀ (s : State) (l : List Byte), q.same s (coreScatter s u segs l) := by
  induction segs with
  | nil => exact fun s _ => .refl q s
  | cons x segs ih =>
    intro s l
    rw [coreScatter]
    split
    · exact .refl q s
    · exact (same_coreWrite h s _ _ _).trans (ih _ _)

theorem same_putOut {q : Part} (h : q ∉ [.per, .imp, .out]) (s : State) (p : Party) (segs : List (Nat × Nat)) (l : List Byte) :
    q.same s (putOut s p segs l) := by
  cases p with
  | user u => exact same_coreScatter (by simp at h ⊢; tauto) _ segs s l
  | _ => exact same_scatter (by rintro rfl; exact h (by decide)) _ segs s l

theorem out_mbxNotify (s : State) (p : Party) (slot : Nat) : s.out <:+ (mbxNotify s p slot).out := by
  cases p with
  | user u => exact out_sourceEdge s _
  | _ => exact out_msixSend s _ _

/-- What has gone out stays gone out as a request is answered. -/
theorem out_mbxDone (s : State) (p : Party) (slot status detail r0 r1 : Nat) (data : List Byte) :
    s.out <:+ (mbxDone s p slot status detail r0 r1 data).out := by
  obtain ⟨u, hu⟩ : ∃ u, u = mbxWritten s p slot (rspBytes (mbxReq s p slot) status detail r0 r1 data) := ⟨_, rfl⟩
  have hout : u.out = s.out := hu ▸ same_mbxWritten (q := .out) (by decide) s p slot _
  rw [mbxDone_eq, ← hu, ← hout]
  exact out_mbxNotify (count (mbxStopped u p slot) 0x1C004) p slot

/-- An answer of one segment to a party that is no core goes out to its memory. -/
theorem hostWrite_putOut {s : State} {p : Party} (hp : ∀ u, p ≠ .user u) {l : List Byte} {n : Nat} (hl : l.length = n) (h : 0 < n)
    (addr : Nat) :
    .hostWrite (partyNo p) addr l ∈ (putOut s p [(addr, n)] l).out := by
  have hne : l ≠ [] := by rintro rfl; simp at hl; omega
  have hput : putOut s p [(addr, n)] l = scatter s (partyNo p) [(addr, n)] l := by
    cases p with
    | user u => exact absurd rfl (hp u)
    | _ => rfl
  rw [hput, scatter, if_neg hne, List.take_of_length_le (by omega), scatter]
  exact List.mem_cons_self

/-- An answer of one segment to a core stands in its memory. -/
theorem tcmBytes_putOut {s : State} {u : Fin 4} {l : List Byte} {addr n : Nat} (hl : l.length = n) (h : addr + n ≤ 0x80000) :
    tcmBytes (putOut s (.user u) [(addr, n)] l) u.val addr n = l := by
  by_cases hne : l = []
  · subst hne hl
    simp [tcmBytes, padTo, zeros]
  · have hput : putOut s (.user u) [(addr, n)] l = putTcm s u addr l := by
      rw [putOut, coreScatter, if_neg hne, List.take_of_length_le (by omega), coreScatter, coreWrite, coreAt, if_pos (by omega)]
    have hcore : ((putTcm s u addr l).per.cores.toList[u.val]?).map (fun c => c.tcm.drop addr) =
        some (l ++ ((s.per.cores[u]).tcm.drop (addr + l.length))) := by
      have hself : (putTcm s u addr l).per.cores[u] = { s.per.cores[u] with
          tcm := padTo addr (s.per.cores[u]).tcm ++ l ++ (s.per.cores[u]).tcm.drop (addr + l.length) } := vMod_getElem_self ..
      rw [List.getElem?_eq_getElem (by simp), Vector.getElem_toList, Option.map_some,
        show (putTcm s u addr l).per.cores[u.val] = (putTcm s u addr l).per.cores[u] from rfl, hself]
      dsimp only
      rw [List.append_assoc, List.drop_left' (padTo_length ..)]
    rw [hput, tcmBytes, hcore, Option.getD_some, padTo, List.take_left' hl]
    simp [zeros, hl]

/-- What the answer to a request that has waited changes. -/
theorem waited_spec {s u : State} {p : Party} {slot : Nat} (h : slot < mbxSlots p) {l : List Part}
    (hl : ∀ q ∈ answering, q ∈ l) (hu : ∀ q : Part, q ∉ l → q.same s u) (hregs : u.regs = s.regs) (status detail r0 r1 : Nat) :
    onlySlot p slot s (endCycle s (mbxReply u p slot status detail r0 r1)) ∧
      onlyChanges l s (endCycle s (mbxReply u p slot status detail r0 r1)) := by
  refine ⟨fun j hj hslot hc => ?_, onlyChanges_endCycle fun q hq _ _ => (hu q hq).trans (same_mbxDone (fun hm => hq (hl q hm)) u ..)⟩
  rw [regGet_endCycle]
  exact (onlySlot_mbxDone h u status detail r0 r1 [] j hj hslot hc).trans (regGet_congr _ _ hregs j)

theorem regWaits_reply {s u : State} (p : Party) (slot status detail r0 r1 : Nat) :
    (endCycle s (mbxReply u p slot status detail r0 r1)).lnk.regWaits = u.lnk.regWaits := by
  rw [endCycle_lnk]
  exact congrArg LnkBlk.regWaits (same_mbxDone (q := .lnk) (by decide) u ..)

end Sys2Proof.Machine
end

section
/-! The statement about the back-channel's delay and the packets of sensors. -/

namespace Sys2Proof.Machine
open Sys2Proof

/-- Settles O22: a measurement runs by the PINGs that are outstanding (`finishDelay`), and an access by the one request that waits.
The median of an even count is the model's reading (log 9). -/
theorem linkDelayAndSensorPackets : Obligations.LinkDelayAndSensorPackets := by
  unfold Obligations.LinkDelayAndSensorPackets
  refine ⟨fun s k hl hup hdue => ?measures, fun s k rtt q turn r p hl hrx hp hsent hrtt hturn => ?sample,
    fun s k rtt q r p hl hrx hp hlate hothers => ?lateEcho, fun s k q p hl hp hid hold => ?timeout,
    fun s k b r hl hrx => ?status, fun s k p r hl hrx hty => ?event,
    fun s k p r n w hl hrx hty hslot habort herr hwait hw hm hbytes hentries hsegs hsent => ?response,
    fun s k p r n w hl hrx hty hslot habort herr hwait hw hm hlate => ?lateResponse,
    fun s n w hl hwait hw hm hold => ?accessTimeout⟩
  case measures =>
    let u := modLink s k fun l => { l with lastMeas := s.now, pings := [], samples := [], dropped := 0 }
    obtain ⟨l, ps, i, x, hout, hlen, hping, hps, hlink⟩ := sendPings_spec k 8 u
    have hself : (measureDelay s k).lnk.links[k] =
        { s.lnk.links[k] with lastMeas := s.now, samples := [], dropped := 0, pingSeq := i, tx := x, pings := ps } := by
      rw [measureDelay, hlink, link_modLink_self]
      rfl
    refine ⟨_, l, bcDelayMeasure_of_due hl hup hdue, ?_, hlen, hping, ?_⟩
    · rw [endCycle_out]; exact hout
    · rw [endCycle_lnk, hself]
      refine ⟨hps, rfl, rfl, rfl, onlyChanges_endCycle fun q hq _ _ => ?_⟩
      exact (same_modLink (by rintro rfl; exact hq (by decide)) s k _).trans (same_sendPings hq k 8 _)
  case sample =>
    have hexec := echo_of_outstanding (rtt := rtt) hl hrx hp
    rw [if_neg (by simp; omega), ← hturn] at hexec
    have hlink := link_modLink_self s k (rxTaken r)
    have hpings : ((modLink s k (rxTaken r)).lnk.links[k]).pings = (s.lnk.links[k]).pings := by rw [hlink]; rfl
    have hsamples : ((modLink s k (rxTaken r)).lnk.links[k]).samples = (s.lnk.links[k]).samples := by rw [hlink]; rfl
    obtain ⟨hrx', hids⟩ := received_endPing (s := modLink s k (rxTaken r)) (k := k) (q := q) (some (rtt - turn - Config.linkLatency k.val))
    refine ⟨_, hexec, by rw [endCycle_lnk, hrx', hlink]; rfl, by rw [endCycle_lnk]; exact hids, fun hothers => ?_, fun hlast => ?_⟩
    · rw [endPing_of_others (by rw [hpings]; exact hothers), modLink_modLink, endCycle_lnk, link_modLink_self]
      exact ⟨rfl, onlyChanges_modLink s k _⟩
    · obtain ⟨hvalid, hnone, hreg⟩ := endPing_last (by rw [hpings]; exact hlast) (rtt - turn - Config.linkLatency k.val)
      rw [endCycle_lnk, regGet_endCycle, hreg, hsamples]
      exact ⟨hvalid, hnone, rfl⟩
  case lateEcho =>
    have hexec := echo_of_outstanding (rtt := rtt) hl hrx hp
    rw [if_pos (by simp; omega)] at hexec
    have hlink := link_modLink_self s k (rxTaken r)
    obtain ⟨hrx', hids⟩ := received_endPing (s := modLink s k (rxTaken r)) (k := k) (q := q) none
    refine ⟨_, hexec, by rw [endCycle_lnk, hrx', hlink]; rfl, by rw [endCycle_lnk]; exact hids, ?_⟩
    rw [endPing_of_others (by rw [hlink]; exact hothers), modLink_modLink, endCycle_lnk, link_modLink_self]
    exact ⟨List.append_nil _, rfl, onlyChanges_modLink s k _⟩
  case timeout =>
    obtain ⟨-, hids⟩ := received_endPing (s := s) (k := k) (q := q) none
    refine ⟨_, pingTimeout_of_old hl hp hid hold, by rw [endCycle_lnk]; exact hids, fun hothers => ?_, fun hlast hsamples => ?_⟩
    · rw [endPing_of_others hothers, endCycle_lnk, link_modLink_self]
      exact ⟨rfl, onlyChanges_modLink s k _⟩
    · rw [endPing_noSample hlast hsamples]
      let u := modLink (modLink s k (pingEnded q none)) k measureOver
      have hcaps := capsAsked_askCaps (lnkEvent u 6 0x07 .info k 0) k
      obtain ⟨off, hoff, hbit⟩ := raised_event (b := .lnk) (i := 6) rfl (by unfold outsideFlt; omega) (by decide) u 0x07 .info
        (ctxUnit 8 k 0 0) 0
      obtain rfl : (0x52000 : Nat) = off := Option.some.inj hoff
      refine ⟨⟨0x52000, rfl, ?_⟩, ?_, fun hdue => ?_⟩
      · rw [regBit, regGet_endCycle, hcaps.regs _ (by decide)]
        exact hbit
      · rw [regGet_endCycle, hcaps.regs _ (by unfold lkReg; omega), lnkEvent,
          onlyRegs_event (b := .lnk) (off := 0x52000) rfl _ _ _ _ _ _ _ (by unfold lkReg; simp; omega) (by unfold outsideFlt lkReg; omega)]
        rfl
      · rw [askCaps_of_undue (by rw [link_lnkEvent, link_modLink_self, link_modLink_self]; exact hdue)]
        refine onlyChanges_endCycle fun q hq _ _ => ?_
        obtain ⟨hlnk, hrep⟩ : q ≠ .lnk ∧ q ∉ reporting := by simpa using hq
        exact (same_modLink hlnk s k _).trans ((same_modLink hlnk _ k _).trans (same_event hrep u ..))
  case status =>
    refine ⟨_, statusBlock_of_received hl hrx, ?_⟩
    rw [endCycle_lnk, link_modLink_self]
    exact ⟨rfl, rfl, onlyChanges_modLink s k _⟩
  case event =>
    refine ⟨_, sensorEvent_of_received hl hrx hty, ?_⟩
    by_cases hbad : p.aborted = true ∨ p.errored = true
    · rw [if_pos hbad, endCycle_lnk, link_modLink_self]
      have honly := onlyChanges_modLink s k (rxTaken r)
      refine ⟨rfl, onlyRegs_endCycle fun j _ _ => rfl, onlyChanges_endCycle fun q hq _ _ => ?_, fun ha he => ?_, fun _ => honly⟩
      · exact same_modLink (by rintro rfl; exact hq (by decide)) s k _
      · simp [ha, he] at hbad
    · rw [if_neg hbad, endCycle_lnk, event_lnk, link_modLink_self]
      let u := modLink s k (rxTaken r)
      refine ⟨rfl, onlyRegs_endCycle fun j hj ho => onlyRegs_event (b := .lnk) rfl u _ _ _ _ _ j hj ho,
        onlyChanges_endCycle fun q hq _ _ => ?_,
        fun _ _ => raised_endCycle ?_, (absurd · hbad)⟩
      · obtain ⟨hlnk, hrep⟩ : q ≠ .lnk ∧ q ∉ reporting := by simpa using hq
        exact (same_modLink hlnk s k _).trans (same_event hrep u ..)
      · exact raised_event (b := .lnk) (i := 8) rfl (by unfold outsideFlt; omega) (by decide) u ..
  case response =>
    have hlen : (p.bytes.take (8 * w.entries)).length = 8 * w.entries := by rw [List.length_take]; omega
    let u := waitEnded (modLink s k (rxTaken r)) w
    let v := putOut u w.party w.segs (p.bytes.take (8 * w.entries))
    have hu (q : Part) (hq : q ≠ .lnk) : q.same s u := (same_modLink hq s k _).trans (same_waitEnded hq _ w)
    have hv (q : Part) (hq : q ∉ [.lnk, .per, .imp, .out]) : q.same s v :=
      (hu q (by rintro rfl; exact hq (by decide))).trans (same_putOut (by simp at hq ⊢; tauto) u ..)
    have hlnk : v.lnk = u.lnk := same_putOut (q := .lnk) (by decide) u ..
    have hexec := regResponse_of_received hl hrx hty hslot habort herr hwait hw
    rw [if_neg (by simpa [accessLate] using hsent), hlen, Nat.mul_div_cancel_left _ (by decide)] at hexec
    refine ⟨_, hexec, answered_replied hm 0 (by decide) hentries (by decide), ?_, fun h0 hhost => ?_, fun c hc hfit => ?_,
      waited_spec hm (by decide) (fun q hq => hv q ?_) (hv .regs (by decide)) _ _ _ _⟩
    · rw [regWaits_reply, hlnk]
      exact regWaits_waitEnded (s := modLink s k (rxTaken r)) hwait
    · rw [endCycle_out, hsegs]
      exact (out_mbxDone ..).subset (hostWrite_putOut hhost hlen (by omega) _)
    · rw [tcmBytes, endCycle_per, mbxReply, same_mbxDone (q := .per) (by decide), ← tcmBytes, hsegs, hc]
      exact tcmBytes_putOut hlen (by omega)
    · simp [answering] at hq ⊢
      tauto
  case lateResponse =>
    refine ⟨_, regResponse_of_received hl hrx hty hslot habort herr hwait hw, ?_⟩
    rw [if_pos (by simpa [accessLate] using hlate)]
    exact ⟨answered_replied hm 0 (by decide) (by decide) (by decide),
      (regWaits_reply ..).trans (regWaits_waitEnded (s := modLink s k (rxTaken r)) hwait)⟩
  case accessTimeout =>
    exact ⟨_, regAccessTimeout_of_old hl hwait hw hold, answered_replied hm 0 (by decide) (by decide) (by decide),
      (regWaits_reply ..).trans (regWaits_waitEnded hwait),
      waited_spec hm (by decide) (fun q hq => same_waitEnded (by rintro rfl; exact hq (by decide)) s w) rfl _ _ _ _⟩

end Sys2Proof.Machine
end

section
/-! Proof of the statement about bring-ups and retraining: a link that leaves UP, and one that goes DOWN (R104, R105). -/

namespace Sys2Proof.Machine
open Sys2Proof

/-! ### The end of UP (R104) -/

/-- A link that hands on its open packet. -/
def pktDelivered (p : OpenPkt) (l : Link) : Link := { l with rx := l.rx ++ [.packet p], pkt := none }

theorem deliverPkt_eq (s : State) (k : Fin 4) (p : OpenPkt) : deliverPkt s k p =
    modLink (count (if p.aborted then count s (lkReg k 0x1C) else s) (lkReg k 0x30)) k (pktDelivered p) := rfl

theorem link_deliverPkt (s : State) (k : Fin 4) (p : OpenPkt) : (deliverPkt s k p).lnk.links[k] = pktDelivered p s.lnk.links[k] := by
  rw [deliverPkt_eq, link_modLink_self, count_lnk]
  split <;> rfl

/-! ### What a link's faults leave of its configuration and its bring-up -/

/-- What a bring-up of a link rests on: the time, the clocks, the links' configurations, what waits on the link, whether it is under
test, and its control register; and a slot with no frame open still has none. -/
structure LinkKept (k : Fin 4) (s t : State) : Prop where
  now : t.now = s.now
  sys : t.sys = s.sys
  cfg : SameLinks s t
  disabling : (t.lnk.links[k]).disabling = (s.lnk.links[k]).disabling
  testing : (t.lnk.links[k]).testing = (s.lnk.links[k]).testing
  ctl : regGet t (lkReg k.val 0xC) = regGet s (lkReg k.val 0xC)
  frames : ∀ n : Fin 8, currentFrame s n = none → currentFrame t n = none

section
variable {k : Fin 4}

theorem LinkKept.refl (s : State) : LinkKept k s s := ⟨rfl, rfl, .refl s, rfl, rfl, rfl, fun _ h => h⟩

theorem LinkKept.trans {s t u : State} (h : LinkKept k s t) (h' : LinkKept k t u) : LinkKept k s u :=
  ⟨h'.now.trans h.now, h'.sys.trans h.sys, h.cfg.trans h'.cfg, h'.disabling.trans h.disabling, h'.testing.trans h.testing,
    h'.ctl.trans h.ctl, fun n hn => h'.frames n (h.frames n hn)⟩

/-- What changes neither a link, nor a frame, nor a register up to a link's control register. -/
theorem linkKept_of_regs {s t : State} (hnow : t.now = s.now) (hsys : t.sys = s.sys) (hlinks : t.lnk.links = s.lnk.links)
    (hframes : t.ing.frames = s.ing.frames) (hregs : ∀ (i : Fin 4) (o : Nat), o ≤ 0xC → regGet t (lkReg i o) = regGet s (lkReg i o)) :
    LinkKept k s t :=
  ⟨hnow, hsys, ⟨fun i o ho => hregs i o (by omega), fun i => by rw [hlinks]⟩, by rw [hlinks], by rw [hlinks], hregs k _ (by decide),
    fun n hn => by rw [currentFrame, hframes]; exact hn⟩

theorem linkKept_count {off : Nat} (h : off < 0x50000 ∨ 0x50400 ≤ off ∨ 0x10 ≤ off % 0x100) (s : State) : LinkKept k s (count s off) :=
  linkKept_of_regs rfl rfl rfl rfl fun i o ho => regGet_count_ne _ _ _ (by unfold lkReg; omega)

theorem linkKept_event {b : Blk} {off : Nat} (hb : b.events = some off) (h : 0x50400 ≤ off) (s : State) (i code : Nat) (sev : Severity)
    (ctx : Ctx) (status : Nat) : LinkKept k s (event s b i code sev ctx status) :=
  linkKept_of_regs (event_now ..) (event_sys ..) (by rw [event_lnk]) (by rw [event_ing]) fun i o ho =>
    regGet_event _ _ _ _ _ _ _ _ (by unfold outsideFlt lkReg; omega) (by rw [hb, ne_eq, Option.some.injEq]; unfold lkReg; omega)

theorem linkKept_modLink {f : Link → Link} (hf : ∀ l, (f l).held = l.held ∧ (f l).disabling = l.disabling ∧ (f l).testing = l.testing)
    (s : State) : LinkKept k s (modLink s k f) :=
  ⟨rfl, rfl, sameLinks_modLink (fun l => (hf l).1) s k, by rw [link_modLink_self]; exact (hf _).2.1,
    by rw [link_modLink_self]; exact (hf _).2.2, rfl, fun _ hn => hn⟩

theorem linkKept_modLanes (s : State) (js : List (Fin 32)) (f : Lane → Lane) : LinkKept k s (modLanes s js f) :=
  linkKept_of_regs (same_modLanes (q := .now) (by decide) s js f) (same_modLanes (q := .sys) (by decide) s js f) (links_modLanes s js f)
    (by rw [show (modLanes s js f).ing = s.ing from same_modLanes (q := .ing) (by decide) s js f])
    fun i o _ => regGet_congr _ _ (same_modLanes (q := .regs) (by decide) s js f) _

theorem linkKept_restartLanes (s : State) (i : Nat) : LinkKept k s (restartLanes s i) := by
  rw [restartLanes_eq]
  exact linkKept_modLanes s _ _

theorem linkKept_clearInvert (s : State) (i : Nat) : LinkKept k s (clearInvert s i) := by
  rw [clearInvert_eq]
  exact linkKept_modLanes s _ _

theorem linkKept_forgetCaps (s : State) (i : Fin 4) : LinkKept k s (forgetCaps s i) := by
  unfold forgetCaps
  exact List.foldlRecOn (slotsOf s i) _ (motive := LinkKept k s) (.refl s) fun t ht n _ =>
    ht.trans (linkKept_of_regs (t := modCap t n _) rfl rfl rfl rfl fun _ _ _ => rfl)

theorem links_forgetCaps (s : State) (i : Fin 4) : (forgetCaps s i).lnk = s.lnk := by
  unfold forgetCaps
  exact List.foldlRecOn (slotsOf s i) _ (motive := fun t : State => t.lnk = s.lnk) rfl fun _ ht _ _ => ht

theorem linkKept_deliverPkt (s : State) (p : OpenPkt) : LinkKept k s (deliverPkt s k p) := by
  have hcount (o : Nat) (ho : 0x10 ≤ o) (ho' : o < 0x100) (u : State) : LinkKept k u (count u (lkReg k o)) :=
    linkKept_count (by unfold lkReg; omega) u
  rw [deliverPkt_eq]
  split
  · exact (hcount 0x1C (by decide) (by decide) s).trans ((hcount 0x30 (by decide) (by decide) _).trans
      (linkKept_modLink (f := pktDelivered p) (fun _ => ⟨rfl, rfl, rfl⟩) _))
  · exact (hcount 0x30 (by decide) (by decide) s).trans (linkKept_modLink (f := pktDelivered p) (fun _ => ⟨rfl, rfl, rfl⟩) _)

theorem linkKept_leaveUp (s : State) : LinkKept k s (leaveUp s k) := by
  unfold leaveUp abortOpen
  split
  · split
    · exact (linkKept_deliverPkt s _).trans (linkKept_forgetCaps _ k)
    · exact linkKept_forgetCaps s k
  · exact .refl s

theorem leaveUp_of_notUp {s : State} (h : (s.lnk.links[k]).st ≠ .up) : leaveUp s k = s := if_neg h

/-- A link that leaves UP with an open packet hands it on as ABORTED. -/
theorem link_leaveUp {s : State} {p : OpenPkt} (hup : (s.lnk.links[k]).st = .up) (hp : (s.lnk.links[k]).pkt = some p) :
    (leaveUp s k).lnk.links[k] = pktDelivered { p with aborted := true } s.lnk.links[k] := by
  rw [leaveUp, if_pos hup, links_forgetCaps, abortOpen, hp]
  exact link_deliverPkt s k _

/-! ### Lines of slots with no frame open (R124, R125) -/

theorem linkKept_ingEvent (s : State) (i : Nat) (sev : Severity) (n : Nat) (ord : Word) (tag : Nat) :
    LinkKept k s (ingEvent s i sev n ord tag) :=
  linkKept_event (b := .ing) rfl (by decide) s ..

theorem linkKept_ingCount (s : State) (n : Fin 8) (o : Nat) : LinkKept k s (count s (ingReg n o)) :=
  linkKept_count (by unfold ingReg; omega) s

theorem linkKept_strayLine (s : State) (n : Fin 8) (ord : Word) : LinkKept k s (strayLine s n ord) := by
  unfold strayLine
  dsimp only
  split
  · exact (linkKept_ingCount s n _).trans ((linkKept_ingCount _ n _).trans (linkKept_ingEvent ..))
  · exact (linkKept_ingCount s n _).trans (linkKept_ingEvent ..)

theorem linkKept_failLine {s : State} {n : Fin 8} (h : currentFrame s n = none) : LinkKept k s (failLine s n) := by
  have hcount : LinkKept k s (count s (ingReg n 0x24)) := linkKept_ingCount s n _
  unfold failLine
  dsimp only
  rw [hcount.frames n h]
  exact hcount.trans (linkKept_ingEvent ..)

/-- A line of a slot with no frame open is counted at most. -/
theorem linkKept_classify {s : State} {n : Fin 8} (h : currentFrame s n = none) (p : OpenPkt) (fault : StageFault) :
    LinkKept k s (classify s n p fault) := by
  unfold classify
  split
  · exact linkKept_failLine h
  · dsimp only
    rw [h]
    exact linkKept_strayLine s n _

theorem linkKept_takeLines {s : State} (h : ∀ n : Fin 8, currentFrame s n = none) : LinkKept k s (takeLines s k) := by
  unfold takeLines
  dsimp only
  refine List.foldlRecOn _ _ (motive := LinkKept k s) (linkKept_modLink (by exact fun _ => ⟨rfl, rfl, rfl⟩) s) fun t ht i _ => ?_
  cases i with
  | packet p =>
    cases hslot : p.slot with
    | none => simpa [hslot] using ht
    | some n => simpa [hslot] using ht.trans (linkKept_classify (ht.frames _ (h _)) p .none)
  | status b => exact ht
  | echo q => exact ht

theorem closeWhere_of_none {s : State} {n : Fin 8} (h : currentFrame s n = none) (f : Frame → Bool) (cause : Nat) :
    closeWhere s n f cause = s := by
  have hclosed : ∀ x ∈ s.ing.frames[n], ¬ (!x.closed) = true := List.find?_eq_none.mp h
  have hnil : (s.ing.frames[n]).filter (fun x => !x.closed && f x) = [] := by
    rw [List.filter_eq_nil_iff]
    intro x hx hopen
    exact hclosed x hx (Bool.and_eq_true_iff.mp hopen).1
  rw [closeWhere, hnil]
  rfl

theorem linkKept_linkDownFrames {s : State} (h : ∀ n : Fin 8, currentFrame s n = none) : LinkKept k s (linkDownFrames s k) := by
  have hkept : LinkKept k s (forgetCaps (takeLines s k) k) := (linkKept_takeLines h).trans (linkKept_forgetCaps _ k)
  unfold linkDownFrames
  refine List.foldlRecOn (slotsOf s k) _ (motive := LinkKept k s) hkept fun t ht n _ => ?_
  rw [closeWhere_of_none (ht.frames n (h n))]
  exact ht

/-! ### A link that goes DOWN and starts anew (R104, R105) -/

/-- An enabled link that is UP goes DOWN and starts its bring-up anew. -/
theorem linkFault_of_up {s : State} (h : ∀ n : Fin 8, currentFrame s n = none) (hup : (s.lnk.links[k]).st = .up)
    (hon : linkEnabled s k.val = true) : ∃ u, LinkKept k s u ∧ linkFault s k = startBringup u k := by
  have hleft : LinkKept k s (lnkEvent (count (leaveUp s k) (lkReg k 0x28)) 1 0x02 .degraded k 0) :=
    (linkKept_leaveUp s).trans ((linkKept_count (by unfold lkReg; omega) _).trans (linkKept_event (b := .lnk) rfl (by decide) _ ..))
  have hkept := hleft.trans ((linkKept_linkDownFrames fun n => hleft.frames n (h n)).trans (linkKept_clearInvert _ k.val))
  refine ⟨_, hkept, ?_⟩
  unfold linkFault
  rw [hup]
  dsimp only
  rw [hkept.cfg.linkEnabled, if_pos hon]

end

end Sys2Proof.Machine
end

section
/-! Proof of the statement about bring-ups and retraining: the commands (R103 to R105, R110). -/

namespace Sys2Proof.Machine
open Sys2Proof

section
variable {s : State} {k : Fin 4} (hl : s.live = true)
include hl

/-! ### CONFIG and LOCKING (R103) -/

theorem linkConfigSend_of_due (hst : (s.lnk.links[k]).st = .config)
    (hdue : ∀ t0, (s.lnk.links[k]).lastCfg = some t0 → t0 + 10000 ≤ s.now) :
    exec (.linkConfigSend k) s = .next (endCycle s (sendLinkConfig s k)) := by
  rw [show exec (.linkConfigSend k) s = execLinkConfigSend k s from rfl, execLinkConfigSend, inCore_of_live hl]
  dsimp only
  cases h : (s.lnk.links[k]).lastCfg with
  | none =>
    rw [hst]
    rfl
  | some t0 =>
    have hdue : s.now ≥ t0 + 10000 := hdue t0 h
    rw [hst]
    simp [hdue]

/-- A lane whose taps have been set. -/
def eqStarted (now : Nat) (l : Lane) : Lane := { l with eqPrev := none, running := true, eqAt := now }

/-- A lane whose taps have been set to a free start point, as its CDR locks. -/
def tapsSet (s : State) (j : Fin 32) : State :=
  modLane { regSet s (laneReg j 0x24) (Config.freeWord s.free) with free := s.free + 1 } j (eqStarted s.now)

omit hl in
theorem sameLinks_tapsSet (s : State) (j : Fin 32) : SameLinks s (tapsSet s j) := by
  let u : State := { regSet s (laneReg j 0x24) (Config.freeWord s.free) with free := s.free + 1 }
  have hu : SameLinks s u := (sameLinks_regSet (offLinkCfg_laneReg j 0x24) s (Config.freeWord s.free)).trans (sameLinks_of_eq rfl rfl)
  exact hu.trans (sameLinks_modLane u j _)

theorem cdrLock_of_config {j : Fin 32} (hk : laneLink s j.val = some k) (hst : (s.lnk.links[k]).st = .config) :
    exec (.cdrLock j) s = .next (endCycle s (modLink (tapsSet s j) k fun l => { l with st := .locking })) := by
  have hk' : laneLink (tapsSet s j) j.val = some k := ((sameLinks_tapsSet s j).laneLink j).trans hk
  have hst' : ((tapsSet s j).lnk.links[k]).st = .config := hst
  have hset : exec (.cdrLock j) s = inCore s fun s => match laneLink (tapsSet s j) j with
      | some k => if ((tapsSet s j).lnk.links[k]).st = .config then modLink (tapsSet s j) k fun l => { l with st := .locking }
        else tapsSet s j
      | none => tapsSet s j := rfl
  rw [hset, inCore_of_live hl, hk']
  dsimp only
  rw [if_pos hst']

theorem bringupFail_of_old (hst : (s.lnk.links[k]).st ∈ [LinkSt.config, .locking, .deskew])
    (hold : (s.lnk.links[k]).start + bringupTimeout s k.val ≤ s.now) : exec (.bringupFail k) s =
      .next (endCycle s (startBringup (count (lnkEvent s 2 0x03 .degraded k 0) (lkReg k 0x2C)) k)) := by
  have htrying : ((s.lnk.links[k]).st == .config || (s.lnk.links[k]).st == .locking || (s.lnk.links[k]).st == .deskew) = true := by
    simp only [List.mem_cons, List.not_mem_nil, or_false] at hst
    rcases hst with h | h | h <;> rw [h] <;> rfl
  rw [show exec (.bringupFail k) s = execBringupFail k s from rfl, execBringupFail, inCore_of_live hl]
  dsimp only
  rw [htrying, if_pos (by simpa using hold)]

/-! ### RETRAIN (R104, R110) -/

theorem exec_retrain {p : Party} {v : Word} (hp : mayWrite p (lkReg k.val 0xC) = true) (hv : bit v 30 = true) :
    exec (.retrain p k v) s = .next (endCycle s (writeLkCtl s k v)) := by
  rw [show exec (.retrain p k v) s = execRetrain p k v s from rfl, execRetrain, inCore_of_live hl, if_pos hv]
  unfold writeBy
  rw [if_pos hp]

omit hl in
/-- A write of RETRAIN that is not ignored starts the bring-up of an enabled link, however the link stood. -/
theorem writeLkCtl_starts {v : Word} (hv : bit v 30 = true) (hok : bit v 31 = true ∨ carriesUnmasked s k.val = false)
    (hon : linkEnabled s k.val = true) (hframes : ∀ n : Fin 8, currentFrame s n = none) :
    ∃ u, LinkKept k (regSet s (lkReg k.val 0xC) (v &&& 0x0001FFFF#32)) u ∧ writeLkCtl s k v = startBringup u k := by
  have hrefused : ¬ (bit v 30 = true ∧ carriesUnmasked s k.val = true ∧ ¬ bit v 31 = true) := by
    rintro ⟨-, hu, hno⟩
    rcases hok with h | h
    · exact hno h
    · rw [h] at hu
      cases hu
  have hon' : linkEnabled (regSet s (lkReg k.val 0xC) (v &&& 0x0001FFFF#32)) k.val = true :=
    ((sameLinks_regSet (by unfold offLinkCfg lkReg; omega) s _).linkEnabled k).trans hon
  rw [writeLkCtl, if_neg hrefused]
  dsimp only
  rw [if_neg (not_not_intro hv)]
  by_cases hup : ((regSet s (lkReg k.val 0xC) (v &&& 0x0001FFFF#32)).lnk.links[k]).st = .up
  · rw [if_pos hup]
    exact linkFault_of_up hframes hup hon'
  · rw [if_neg hup, if_pos hon']
    exact ⟨_, .refl _, rfl⟩

omit hl in
theorem writeLkCtl_refused {v : Word} (hv : bit v 30 = true) (hno : bit v 31 = false) (hu : carriesUnmasked s k.val = true) :
    writeLkCtl s k v = count s testRefusedReg := by
  rw [writeLkCtl, if_pos ⟨hv, hu, by rw [hno]; exact Bool.false_ne_true⟩]

/-! ### Changes of a forme (R105) -/

omit hl in
theorem noFrames_all (h : ∀ n ∈ slotsOf s k.val, currentFrame s n = none) :
    ((slotsOf s k.val).all fun n => (currentFrame s n).isNone) = true :=
  List.all_eq_true.mpr fun n hn => by rw [h n hn]; rfl

theorem linkReconfig_of_idle (hre : (s.lnk.links[k]).reconfig = true) (h : ∀ n ∈ slotsOf s k.val, currentFrame s n = none) :
    exec (.linkReconfig k) s = .next (endCycle s (startBringup (leaveUp s k) k)) := by
  rw [show exec (.linkReconfig k) s = execLinkReconfig k s from rfl, execLinkReconfig, inCore_of_live hl, if_pos ⟨hre, noFrames_all h⟩]

/-- A link that a disable has taken out of use. -/
def disabledLink (l : Link) : Link :=
  { l with st := .disabled, disabling := false, reconfig := false, mapOk := false, pkt := none, lastCfg := none, held := none,
           capsDue := false, pings := [], tx := { l.tx with origin := none, pattern := none } }

theorem linkDisable_of_idle (hdis : (s.lnk.links[k]).disabling = true) (h : ∀ n ∈ slotsOf s k.val, currentFrame s n = none) :
    exec (.linkDisable k) s =
      .next (endCycle s (modLink (clearInvert (restartLanes (leaveUp s k) k) k) k disabledLink)) := by
  rw [show exec (.linkDisable k) s = execLinkDisable k s from rfl, execLinkDisable, inCore_of_live hl, if_pos ⟨hdis, noFrames_all h⟩]
  rfl

end

/-- A bring-up that starts once a link has been left as `LinkKept` says. -/
theorem started_of_kept {s u : State} {k : Fin 4} (hkept : LinkKept k s u) (hclk : (s.sys.clocks[3]).lost = false)
    (htest : (s.lnk.links[k]).testing = false) : ∃ x : BcTx, x.origin = some s.now ∧ (startBringup u k).lnk.links[k] =
      { toConfigLink (takeChange u.lnk.links[k]) with tx := x, lastCfg := some s.now, start := s.now } := by
  obtain ⟨x, hx, hlink⟩ := link_startBringup (s := u) (k := k) (by rw [hkept.sys]; exact hclk) (by rw [hkept.testing]; exact htest)
  rw [hkept.now] at hx hlink
  exact ⟨x, hx, hlink⟩

theorem maskOf_lkCtl : ∀ k : Fin 4, maskOf (lkReg k.val 0xC) = 0x0001FFFF := by decide

theorem maskOf_lkFails : ∀ k : Fin 4, maskOf (lkReg k.val 0x2C) = BitVec.allOnes 32 := by decide

/-! ### The statement -/

/-- Settles O20: each command comes to `startBringup`, or to the end of the link, once its condition holds; what is done on the way is
`LinkKept`. The start point of a lane's taps is the model's free value (log 3). -/
theorem linkBringUpAndRetraining : Obligations.LinkBringUpAndRetraining := by
  unfold Obligations.LinkBringUpAndRetraining
  refine ⟨fun s k hl hst hdue => ?configs, fun s j k hl hk hst => ?locks, fun s k hl hst hold htest hclk => ?fails,
    fun s p k v hl hp hv hok hon htest hframes hclk => ?retrains, fun s p k v hl hp hv hno hu => ?ignored,
    fun s k hl hre hidle htest hclk => ?reconfigures, fun s k hl hdis hidle => ?disables⟩
  case configs =>
    refine ⟨_, linkConfigSend_of_due hl hst hdue, by rw [endCycle_out, sendLinkConfig_out], ?_⟩
    rw [endCycle_lnk, link_sendLinkConfig_self]
    exact ⟨rfl, hst, rfl, onlyChanges_endCycle fun q hq _ _ => same_sendLinkConfig hq s k⟩
  case locks =>
    refine ⟨_, cdrLock_of_config hl hk hst, ?_, ?_, ?_, ?_, onlyRegs_endCycle fun i hi _ => ?_, onlyChanges_endCycle fun q hq _ _ => ?_⟩
    · rw [endCycle_lnk, link_modLink_self]
    · rw [regGet_endCycle, regGet_modLink]
      exact regGet_regSet_self s _ _
    · rw [endCycle_lnk, lanes_modLink, tapsSet, lane_modLane_self]
      rfl
    · rw [endCycle_lnk, lanes_modLink, tapsSet, lane_modLane_self]
      rfl
    · rw [regGet_modLink]
      exact regGet_regSet_ne s _ _ _ (by simpa using hi)
    · cases q
      case lnk | regs | free => simp at hq
      all_goals rfl
  case fails =>
    let u := lnkEvent s 2 0x03 .degraded k 0
    have hev : LinkKept k s u := linkKept_event (b := .lnk) rfl (by decide) s ..
    have hkept : LinkKept k s (count u (lkReg k 0x2C)) := hev.trans (linkKept_count (by unfold lkReg; omega) u)
    have hne : (0x52000 : Nat) ≠ lkReg k 0x2C := by unfold lkReg; omega
    have honly : onlyRegs [0x52000] s u := onlyRegs_event (b := .lnk) rfl s _ _ _ _ _
    obtain ⟨off, hoff, hbit⟩ := raised_event (b := .lnk) (i := 2) rfl (by unfold outsideFlt; omega) (by decide) s 0x03 .degraded
      (ctxUnit 8 k 0 0) 0
    obtain rfl : (0x52000 : Nat) = off := Option.some.inj hoff
    obtain ⟨x, hx, hlink⟩ := started_of_kept hkept hclk htest
    refine ⟨_, bringupFail_of_old hl hst hold, ?_⟩
    rw [endCycle_lnk, hlink, regGet_endCycle, regGet_startBringup, regGet_count_self (maskOf_lkFails k)]
    refine ⟨rfl, rfl, ?_, ⟨0x52000, rfl, ?_⟩, hx, onlyRegs_endCycle fun j hj ho => ?_, onlyChanges_endCycle fun q hq _ _ => ?_⟩
    · rw [honly _ (by simpa using hne.symm) (by unfold outsideFlt lkReg; omega)]
    · rw [regBit, regGet_endCycle, regGet_startBringup, regGet_count_ne _ _ _ hne]
      exact hbit
    · obtain ⟨hj2c, hj52⟩ : j ≠ lkReg k.val 0x2C ∧ j ≠ 0x52000 := by simpa using hj
      rw [regGet_startBringup, regGet_count_ne _ _ _ hj2c, honly j (by simpa using hj52) ho]
    · have hrep : q ∉ reporting := fun hm => hq (by simp [hm])
      exact (same_event hrep s ..).trans ((same_count (by rintro rfl; exact hq (by decide)) u _).trans
        (same_startBringup (by rintro hm; simp [reporting] at hm hq; tauto) _ k))
  case retrains =>
    obtain ⟨u, hkept, hstart⟩ := writeLkCtl_starts hv hok hon hframes
    obtain ⟨x, -, hlink⟩ := started_of_kept hkept hclk htest
    refine ⟨_, exec_retrain hl hp hv, ?_⟩
    rw [hstart, endCycle_lnk, hlink, regGet_endCycle, regGet_startBringup, hkept.ctl, regGet_regSet_self, maskOf_lkCtl, BitVec.and_assoc]
    exact ⟨rfl, rfl, rfl⟩
  case ignored =>
    refine ⟨_, exec_retrain hl hp hv, ?_⟩
    rw [writeLkCtl_refused hv hno hu]
    refine ⟨by rw [regGet_endCycle, regGet_count_self (by decide)],
      onlyRegs_endCycle fun j hj _ => regGet_count_ne _ _ _ (by simpa using hj),
      onlyChanges_endCycle fun q hq _ _ => same_count (by simpa using hq) s _⟩
  case reconfigures =>
    have hkept := linkKept_leaveUp (k := k) s
    obtain ⟨x, -, hlink⟩ := started_of_kept hkept hclk htest
    refine ⟨_, linkReconfig_of_idle hl hre hidle, ?_⟩
    rw [endCycle_lnk, hlink]
    refine ⟨rfl, rfl, rfl, fun hdis => ?_, fun hdown => ?_, fun p hup hp => ?_⟩
    · have hdis' : ¬ ((leaveUp s k).lnk.links[k]).disabling = true := by rw [hkept.disabling, hdis]; exact Bool.false_ne_true
      exact if_neg hdis'
    · rw [leaveUp_of_notUp hdown]
      exact onlyChanges_endCycle fun q hq _ _ => same_startBringup hq s k
    · rw [link_leaveUp hup hp]
      rfl
  case disables =>
    have hlanes : lanesOf (restartLanes (leaveUp s k) k) k.val = lanesOf s k.val :=
      ((linkKept_leaveUp s).trans (linkKept_restartLanes (leaveUp s k) k.val)).cfg.lanesOf k
    refine ⟨_, linkDisable_of_idle hl hdis hidle, ?_⟩
    rw [endCycle_lnk, link_modLink_self, links_clearInvert, links_restartLanes]
    refine ⟨rfl, rfl, rfl, fun j hj => ?_, fun hdown => ?_, fun p hup hp => ?_⟩
    · rw [lanes_modLink, clearInvert_eq]
      exact lane_modLanes (P := fun l => l.invert = false) (fun _ => rfl) (hlanes ▸ hj) _
    · rw [leaveUp_of_notUp hdown]
      refine onlyChanges_endCycle fun q hq _ _ => ?_
      have hlnk : q ≠ .lnk := by simpa using hq
      exact (same_restartLanes hlnk s k).trans ((same_clearInvert hlnk _ k).trans (same_modLink hlnk _ _ _))
    · rw [link_leaveUp hup hp]
      rfl

end Sys2Proof.Machine
end

section
/-! Proof of the statement about metadata, statistics and the LUT memory (R133, R158, R183, R398). -/

namespace Sys2Proof.Machine
open Sys2Proof

/-! ### META_COMMIT (R133) -/

theorem writeBy_of_mayWrite {p : Party} {off : Nat} (h : mayWrite p off = true) (s : State) (f : State → State) :
    writeBy s p off f = f s := if_pos h

/-- A slot's committed metadata buffer with the bytes of the staging words. -/
def metaCommitted (s : State) (n : Fin 8) : State :=
  { s with ing := { s.ing with metadata := s.ing.metadata.set n (bytesOf (regWords s (ingReg n.val 0x80) 32)) } }

theorem same_metaCommitted {q : Part} (h : q ≠ .ing) (s : State) (n : Fin 8) : q.same s (metaCommitted s n) := by
  cases q
  case ing => exact absurd rfl h
  all_goals rfl

theorem metaCommit_of_go {s : State} {p : Party} {n : Fin 8} {v : Word} (hl : s.live = true)
    (hp : mayWrite p (ingReg n.val 0x100) = true) (hgo : bit v 0 = true) : exec (.metaCommit p n v) s =
      .next (endCycle s (regSet (metaCommitted s n) (ingReg n.val 0x104) (regGet s (ingReg n.val 0x104) + 1))) := by
  rw [show exec (.metaCommit p n v) s = execMetaCommit p n v s from rfl, execMetaCommit, inCore_of_live hl, writeBy_of_mayWrite hp,
    if_pos hgo]
  rfl

/-! ### STATS_ACK (R158, R398) -/

theorem same_pullStat {q : Part} (h : q ≠ .rfe) (s : State) (n : Fin 8) (seq : Nat) : q.same s (pullStat s n seq) := by
  cases q
  case rfe => exact absurd rfl h
  all_goals rfl

theorem ring_pullStat_self (s : State) (n : Fin 8) (seq : Nat) : ((pullStat s n seq).rfe[n]).ring =
    (s.rfe[n]).ring.map fun y => if y.seq = seq then { y with pulled := true } else y :=
  congrArg RfeSlot.ring (vMod_getElem_self s.rfe n _)

theorem rfe_pullStat_ne (s : State) {n m : Fin 8} (h : m ≠ n) (seq : Nat) : (pullStat s n seq).rfe[m] = s.rfe[m] :=
  vMod_getElem_ne s.rfe h _

theorem statsAck_of_held {s : State} {p : Party} {n : Fin 8} {v : Word} {x : StatRec} (hl : s.live = true)
    (hp : mayWrite p (0x1D5000 + 4 * n.val) = true) (hx : statAt s.rfe[n] v.toNat = .held x) :
    exec (.statsAck p n v) s = .next (endCycle s (pullStat s n x.seq)) := by
  rw [show exec (.statsAck p n v) s = execStatsAck p n v s from rfl, execStatsAck, inCore_of_live hl, writeBy_of_mayWrite hp]
  split
  · next y hy =>
    cases hx.symm.trans hy
    rfl
  · next hno => exact absurd hx (hno x)

/-! ### Counters that saturate (R10) -/

theorem regGet_countN_self {off : Nat} (h : maskOf off = BitVec.allOnes 32) (s : State) (n : Nat) :
    regGet (countN s off n) off = satAdd (regGet s off) n := by
  rw [countN, regGet_regSet_self, h, BitVec.and_allOnes]

theorem regGet_countN_ne (s : State) (i n j : Nat) (h : j ≠ i) : regGet (countN s i n) j = regGet s j := regGet_regSet_ne s i j _ h

@[simp] theorem satAdd_zero (w : Word) : satAdd w 0 = w := by
  unfold satAdd
  split <;> bv_omega

/-- One event and then `n` more are `n + 1` events. -/
theorem satAdd_satInc (w : Word) (n : Nat) : satAdd (satInc w) n = satAdd w (n + 1) := by
  have hw := w.isLt
  by_cases h : w = 0xFFFFFFFF#32
  · subst h
    rw [satInc, if_pos (by decide), satAdd, satAdd, if_pos (by simp), if_pos (by simp)]
  · have hinc : (satInc w).toNat = w.toNat + 1 := by
      rw [satInc, if_neg (by simpa using h)]
      bv_omega
    rw [satAdd, satAdd, hinc, Nat.add_assoc, Nat.add_comm 1 n]

/-! ### LUT_SCRUB (R183) -/

/-- A LUT word found uncorrectable: counted and reported. -/
def lutWordBad (s : State) (w : Nat) : State := clrEvent (count s 0xB0008) 1 0x02 .degraded (lutUnit w)

theorem lutBadRead_cons (s : State) (w : Nat) (bad : List Nat) : lutBadRead s (w :: bad) = lutBadRead (lutWordBad s w) bad := rfl

theorem same_lutWordBad {q : Part} (h : q ∉ reporting) (s : State) (w : Nat) : q.same s (lutWordBad s w) :=
  (same_count (by rintro rfl; exact h (by decide)) s 0xB0008).trans (same_event h (count s 0xB0008) .clr 1 0x02 .degraded (lutUnit w) 0)

theorem regGet_lutWordBad_uncorr (s : State) (w : Nat) : regGet (lutWordBad s w) 0xB0008 = satInc (regGet s 0xB0008) := by
  rw [lutWordBad, clrEvent, onlyRegs_event (b := .clr) (off := 0xB0000) rfl _ _ _ _ _ _ _ (by decide) (by unfold outsideFlt; omega),
    regGet_count_self (by decide)]

theorem onlyRegs_lutWordBad (s : State) (w : Nat) : onlyRegs [0xB0000, 0xB0008] s (lutWordBad s w) := by
  intro j hj ho
  obtain ⟨hev, hcnt⟩ : j ≠ 0xB0000 ∧ j ≠ 0xB0008 := by simpa using hj
  rw [lutWordBad, clrEvent, onlyRegs_event (b := .clr) (off := 0xB0000) rfl _ _ _ _ _ _ j (by simpa using hev) ho,
    regGet_count_ne _ _ _ hcnt]

theorem same_lutBadRead {q : Part} (h : q ∉ reporting) (bad : List Nat) : ∀ s : State, q.same s (lutBadRead s bad) := by
  induction bad with
  | nil => exact fun s => .refl q s
  | cons w bad ih => exact fun s => (same_lutWordBad h s w).trans (ih _)

theorem regGet_lutBadRead_uncorr (bad : List Nat) : ∀ s : State,
    regGet (lutBadRead s bad) 0xB0008 = satAdd (regGet s 0xB0008) bad.length := by
  induction bad with
  | nil => exact fun s => (satAdd_zero _).symm
  | cons w bad ih =>
    intro s
    rw [lutBadRead_cons, ih, regGet_lutWordBad_uncorr, satAdd_satInc, List.length_cons]

theorem onlyRegs_lutBadRead (bad : List Nat) : ∀ s : State, onlyRegs [0xB0000, 0xB0008] s (lutBadRead s bad) := by
  induction bad with
  | nil => exact fun s j _ _ => rfl
  | cons w bad ih => exact fun s j hj ho => (ih _ j hj ho).trans (onlyRegs_lutWordBad s w j hj ho)

/-- The last of the words raises the event, whatever those before it did. -/
theorem raised_lutBadRead {bad : List Nat} (h : bad ≠ []) (s : State) : raised (lutBadRead s bad) .clr 1 := by
  obtain ⟨l, w, rfl⟩ := (List.eq_nil_or_concat bad).resolve_left h
  rw [List.concat_eq_append, lutBadRead, List.foldl_append]
  exact raised_event (b := .clr) (i := 1) rfl (by unfold outsideFlt; omega) (by decide) ..

/-- The LUT words kept as bad with those that a scrub pass found. -/
def lutKept (s : State) (bad : List Nat) : State :=
  { s with lut := { s.lut with bad := s.lut.bad ++ bad.filter fun w => !s.lut.bad.contains w } }

theorem same_lutKept {q : Part} (h : q ≠ .lut) (s : State) (bad : List Nat) : q.same s (lutKept s bad) := by
  cases q
  case lut => exact absurd rfl h
  all_goals rfl

@[simp] theorem regGet_lutKept (s : State) (bad : List Nat) (j : Nat) : regGet (lutKept s bad) j = regGet s j := rfl

theorem mem_lutKept (s : State) (bad : List Nat) (w : Nat) : w ∈ (lutKept s bad).lut.bad ↔ w ∈ s.lut.bad ∨ w ∈ bad := by
  simp only [lutKept, List.mem_append, List.mem_filter, List.contains_eq_mem, Bool.not_eq_true', decide_eq_false_iff_not]
  tauto

theorem lutScrub_of_live {s : State} (hl : s.live = true) (corrected : Nat) (bad : List Nat) : exec (.lutScrub corrected bad) s =
    .next (endCycle s (lutBadRead (lutKept (countN s 0xB0004 corrected) bad) bad)) := by
  rw [show exec (.lutScrub corrected bad) s = execLutScrub corrected bad s from rfl, execLutScrub, inCore_of_live hl]
  rfl

/-! ### The statement -/

theorem maskOf_lutCorrected : maskOf 0xB0004 = BitVec.allOnes 32 := by decide

/-- Settles O27: a commit and an acknowledgement each change their one place; a scrub pass comes to one count and one report for each bad
word, by induction on the words. That each bad word raises the event is the model's reading (log 24). -/
theorem metadataStatisticsAndLutMemory : Obligations.MetadataStatisticsAndLutMemory := by
  unfold Obligations.MetadataStatisticsAndLutMemory
  refine ⟨fun s p n v hl hp hgo => ?commits, fun s p n v x hl hp hx => ?pulls, fun s corrected bad hl => ?scrubs⟩
  case commits =>
    refine ⟨_, metaCommit_of_go hl hp hgo, by rw [endCycle_ing]; rfl, by rw [regGet_endCycle, regGet_regSet_self],
      onlyRegs_endCycle fun j hj _ => ?_, onlyChanges_endCycle fun q hq _ _ => ?_⟩
    · exact regGet_regSet_ne (metaCommitted s n) _ _ _ (by simpa using hj)
    · obtain ⟨hing, hregs⟩ : q ≠ .ing ∧ q ≠ .regs := by simpa using hq
      exact (same_metaCommitted hing s n).trans (same_regSet hregs _ _ _)
  case pulls =>
    refine ⟨_, statsAck_of_held hl hp hx, ?_⟩
    rw [endCycle_rfe]
    exact ⟨ring_pullStat_self s n x.seq, fun m hm => rfe_pullStat_ne s hm x.seq,
      onlyChanges_endCycle fun q hq _ _ => same_pullStat (by simpa using hq) s n x.seq⟩
  case scrubs =>
    let u := countN s 0xB0004 corrected
    have honly := onlyRegs_lutBadRead bad (lutKept u bad)
    have hlut : (lutBadRead (lutKept u bad) bad).lut = (lutKept u bad).lut := same_lutBadRead (q := .lut) (by decide) bad _
    refine ⟨_, lutScrub_of_live hl corrected bad, ?_, fun w => ?_, ?_, fun hbad => raised_endCycle (raised_lutBadRead hbad _),
      onlyRegs_endCycle fun j hj ho => ?_, onlyChanges_endCycle fun q hq _ _ => ?_⟩
    · rw [regGet_endCycle, honly _ (by decide) (by unfold outsideFlt; omega), regGet_lutKept, regGet_countN_self maskOf_lutCorrected]
    · rw [endCycle_lut, hlut]
      exact mem_lutKept u bad w
    · rw [regGet_endCycle, regGet_lutBadRead_uncorr, regGet_lutKept, regGet_countN_ne _ _ _ _ (by decide)]
    · obtain ⟨hev, hcor, hunc⟩ : j ≠ 0xB0000 ∧ j ≠ 0xB0004 ∧ j ≠ 0xB0008 := by simpa using hj
      rw [honly j (by simp [hev, hunc]) ho, regGet_lutKept, regGet_countN_ne _ _ _ _ hcor]
    · obtain ⟨hlut, hrep⟩ : q ≠ .lut ∧ q ∉ reporting := by simpa using hq
      exact (same_regSet (by rintro rfl; exact hrep (by decide)) s _ _).trans
        ((same_lutKept hlut u bad).trans (same_lutBadRead hrep bad _))

end Sys2Proof.Machine
end

section
/-! Proof of the statement about capability records and the requests for them (R120 to R122). -/

namespace Sys2Proof.Machine
open Sys2Proof

/-! ### A slot's record exchange changed -/

theorem same_modCap {q : Part} (h : q ≠ .ing) (s : State) (n : Nat) (f : CapSt → CapSt) : q.same s (modCap s n f) := by
  cases q
  case ing => exact absurd rfl h
  all_goals rfl

@[simp] theorem regGet_modCap (s : State) (n : Nat) (f : CapSt → CapSt) (j : Nat) : regGet (modCap s n f) j = regGet s j := rfl

theorem cap_modCap_self (s : State) (n : Fin 8) (f : CapSt → CapSt) : (modCap s n.val f).ing.caps[n] = f s.ing.caps[n] :=
  vMod_getElem_self ..

theorem modCap_modCap (s : State) (n : Fin 8) (f g : CapSt → CapSt) :
    modCap (modCap s n.val f) n.val g = modCap s n.val fun c => g (f c) := by
  simp only [modCap, vMod_vMod]

/-! ### A record that comes into force (R121) -/

theorem maskOf_capReg : ∀ (n : Fin 8) (i : Fin 16), maskOf (capReg n.val i.val) = BitVec.allOnes 32 := by decide

theorem maskOf_minPeriod : ∀ n : Fin 8, maskOf (slotReg n.val 0x28) = BitVec.allOnes 32 := by decide

theorem maskOf_capState : ∀ n : Fin 8, maskOf (capStateReg n.val) = 0xC00000FF := by decide

section
variable (s : State) (n : Fin 8) (b : List Byte)

theorem same_putCap {q : Part} (h : q ≠ .regs) : q.same s (putCap s n b) :=
  (same_regSetWide h _ s _).trans (same_regSet h _ _ _)

theorem regGet_putCap_word (i : Fin 16) : regGet (putCap s n b) (capReg n.val i.val) = BitVec.ofNat 32 (leAt b (4 * i.val) 4) := by
  have hi : i.val < (wordsOf 16 b).length := by rw [wordsOf_length]; exact i.isLt
  rw [putCap, regGet_regSet_ne _ _ _ _ (by unfold capReg slotReg; omega),
    show capReg n.val i.val = capReg n.val 0 + 4 * i.val by unfold capReg; omega, regGet_regSetWide_word _ s hi, getElem_wordsOf,
    show capReg n.val 0 + 4 * i.val = capReg n.val i.val by unfold capReg; omega, maskOf_capReg, BitVec.and_allOnes]

theorem regGet_putCap_minPeriod : regGet (putCap s n b) (slotReg n.val 0x28) = BitVec.ofNat 32 (leAt b 0x14 4) := by
  rw [putCap, regGet_regSet_self, maskOf_minPeriod, BitVec.and_allOnes]

end

/-- A slot's exchange once a record has been accepted. -/
def capAccepted (c : CapSt) : CapSt := { c with askedAt := none, fails := 0, broughtUp := true }

/-- The first record of a slot that is accepted. -/
def firstRecord (s : State) (n : Fin 8) (b : List Byte) : State :=
  regPut (putCap (modCap s n capAccepted) n b) (capStateReg n) 31 30 2

theorem acceptCap_of_none {s : State} {n : Fin 8} (h : regField s (capStateReg n.val) 31 30 < 2) (b : List Byte) :
    acceptCap s n b = firstRecord s n b := if_pos h

/-- A record accepted shows so in CAP_STATE, under the register's mask. -/
theorem field_putField_accepted (w : Word) : field (putField w 31 30 2 &&& 0xC00000FF) 31 30 = 2 := by
  simp [field, putField, fieldMask, Nat.shiftRight_and_distrib, Nat.shiftRight_or_distrib]

section
variable (s : State) (n : Fin 8) (b : List Byte)

theorem same_firstRecord {q : Part} (h : q ∉ [.ing, .regs]) : q.same s (firstRecord s n b) := by
  obtain ⟨hing, hregs⟩ : q ≠ .ing ∧ q ≠ .regs := by simpa using h
  exact (same_modCap hing s n _).trans ((same_putCap _ n b hregs).trans (same_regSet hregs _ _ _))

theorem cap_firstRecord : (firstRecord s n b).ing.caps[n] = capAccepted s.ing.caps[n] := by
  have hing : (putCap (modCap s n capAccepted) n b).ing = (modCap s n capAccepted).ing := same_putCap (q := .ing) _ n b (by decide)
  rw [firstRecord, regPut_ing, hing, cap_modCap_self]

theorem capState_firstRecord : regField (firstRecord s n b) (capStateReg n.val) 31 30 = 2 := by
  rw [regField, firstRecord, regPut, regGet_regSet_self, maskOf_capState, field_putField_accepted]

theorem regGet_firstRecord_word (i : Fin 16) :
    regGet (firstRecord s n b) (capReg n.val i.val) = BitVec.ofNat 32 (leAt b (4 * i.val) 4) := by
  rw [firstRecord, regPut, regGet_regSet_ne _ _ _ _ (by unfold capReg capStateReg; omega), regGet_putCap_word]

theorem regGet_firstRecord_minPeriod : regGet (firstRecord s n b) (slotReg n.val 0x28) = BitVec.ofNat 32 (leAt b 0x14 4) := by
  rw [firstRecord, regPut, regGet_regSet_ne _ _ _ _ (by unfold slotReg capStateReg; omega), regGet_putCap_minPeriod]

end

/-! ### CAPABILITY (R120, R121) -/

theorem slotOf_val (n : Fin 8) : slotOf n.val = n := Fin.ext (Nat.mod_eq_of_lt n.isLt)

/-- A number within the first bytes of a list is the one that those bytes spell. -/
theorem leAt_take {l : List Byte} {off n m : Nat} (h : off + n ≤ m) : leAt (l.take m) off n = leAt l off n := by
  rw [leAt, List.drop_take, List.take_take, Nat.min_eq_left (by omega), leAt]

section
variable {s : State} {k : Fin 4} {p : OpenPkt} {r : List RxItem} {n : Fin 8} (hl : s.live = true)
  (hrx : (s.lnk.links[k]).rx = .packet p :: r) (hty : p.ty = 2) (hslot : p.slot = some n.val)
include hl hrx hty hslot

/-- The record at the head of what was received is taken, and accepted where a request awaits it. -/
theorem capability_of_received : exec (.capability k) s = .next (endCycle s
    (if (s.ing.caps[n]).askedAt.isSome ∧ capOk p then acceptCap (modLink s k (rxTaken r)) n (p.bytes.take 64)
      else modLink s k (rxTaken r))) := by
  rw [show exec (.capability k) s = execCapability k s from rfl, execCapability, inCore_of_live hl, withPacket, withPacketIf, hrx,
    takePacketIf_head hty]
  dsimp only
  rw [hslot]
  dsimp only
  rw [slotOf_val]
  rfl

theorem capability_of_awaited (hok : capOk p = true) (hask : (s.ing.caps[n]).askedAt.isSome = true)
    (hst : regField s (capStateReg n.val) 31 30 < 2) :
    exec (.capability k) s = .next (endCycle s (firstRecord (modLink s k (rxTaken r)) n (p.bytes.take 64))) := by
  rw [capability_of_received hl hrx hty hslot, if_pos ⟨hask, hok⟩, acceptCap_of_none (s := modLink s k (rxTaken r)) hst]

theorem capability_of_useless (h : capOk p = false ∨ (s.ing.caps[n]).askedAt = none) :
    exec (.capability k) s = .next (endCycle s (modLink s k (rxTaken r))) := by
  rw [capability_of_received hl hrx hty hslot, if_neg]
  rintro ⟨hask, hok⟩
  rcases h with h | h
  · rw [h] at hok
    cases hok
  · rw [h] at hask
    cases hask

end

/-! ### CAP_REQUEST_TIMEOUT (R121) -/

/-- A slot's exchange once a request has failed and the next wait begins at a tick. -/
def capFailed (now : Nat) (c : CapSt) : CapSt := { c with fails := c.fails + 1, askedAt := some now }

/-- A request has failed, and another has been sent on the slot's link and counted in CAP_STATE. -/
def askedAgain (s : State) (n : Fin 8) (l : Fin 4) (stream : Nat) : State :=
  regSet (modCap (sendBc s l (.capRequest stream)) n (capFailed s.now)) (capStateReg n)
    (packFields [(30, max 1 (regField s (capStateReg n) 31 30)), (0, min 255 (regField s (capStateReg n) 7 0 + 1))])

/-- A request has failed for the third time: the wait goes on, and CAP_FAIL is raised. -/
def thirdFailure (s : State) (n : Fin 8) : State := ingEvent (modCap s n (capFailed s.now)) 6 .degraded n 0 0

section
variable {s : State} {n : Fin 8}

theorem capTimeout_of_others {l : Fin 4} {stream : Nat} (hlink : slotLink s n.val = some (l, stream))
    (hf : (s.ing.caps[n]).fails ≠ 2) : capTimeout s n = askedAgain s n l stream := by
  let u := modCap s n fun c => { c with fails := c.fails + 1 }
  have hu : slotLink u n.val = some (l, stream) := hlink
  rw [capTimeout]
  dsimp only
  rw [if_neg hf, sendCapRequest, hu]
  dsimp only
  rw [show sendBc u l (.capRequest stream) = modCap (sendBc s l (.capRequest stream)) n fun c => { c with fails := c.fails + 1 } from rfl,
    modCap_modCap]
  rfl

theorem capTimeout_of_third (hf : (s.ing.caps[n]).fails = 2) : capTimeout s n = thirdFailure s n := by
  rw [capTimeout]
  dsimp only
  rw [if_pos hf, modCap_modCap]
  rfl

theorem capRequestTimeout_of_due (hl : s.live = true) (hdue : capDue s n = true) :
    exec (.capRequestTimeout n) s = .next (endCycle s (capTimeout s n)) := by
  rw [show exec (.capRequestTimeout n) s = execCapRequestTimeout n s from rfl, execCapRequestTimeout, inCore_of_live hl, if_pos hdue]

end

/-- The count of requests stands in the low byte of CAP_STATE, whatever the record's state is. -/
theorem field_capState_total (st : Nat) {total : Nat} (h : total < 256) :
    field (packFields [(30, st), (0, total)] &&& 0xC00000FF) 7 0 = total := by
  have hmod (x : Nat) : x % 4294967296 % 256 = x % 256 := by omega
  have hst : st * 1073741824 % 256 = 0 := by omega
  have hlow : total % 256 &&& 255 = total := by
    rw [Nat.mod_eq_of_lt h]
    exact (Nat.and_two_pow_sub_one_eq_mod total 8).trans (Nat.mod_eq_of_lt h)
  simp [field, packFields, Nat.and_mod_two_pow (n := 8), Nat.or_mod_two_pow (n := 8), hmod, hst, hlow]

section
variable (s : State) (n : Fin 8) (l : Fin 4) (stream : Nat)

theorem same_askedAgain {q : Part} (h : q ∉ [.lnk, .ing, .regs, .out]) : q.same s (askedAgain s n l stream) := by
  obtain ⟨hlnk, hing, hregs, hout⟩ : q ≠ .lnk ∧ q ≠ .ing ∧ q ≠ .regs ∧ q ≠ .out := by simpa using h
  exact (same_sendBc (by simp [hlnk, hout]) s l _).trans ((same_modCap hing _ n _).trans (same_regSet hregs _ _ _))

theorem cap_askedAgain : (askedAgain s n l stream).ing.caps[n] = capFailed s.now s.ing.caps[n] := by
  rw [askedAgain, regSet_ing, cap_modCap_self]
  rfl

theorem out_askedAgain : (askedAgain s n l stream).out = .bc l (.capRequest stream) :: s.out := rfl

theorem total_askedAgain : regField (askedAgain s n l stream) (capStateReg n.val) 7 0 =
    min 255 (regField s (capStateReg n.val) 7 0 + 1) := by
  rw [regField, askedAgain, regGet_regSet_self, maskOf_capState, field_capState_total _ (by omega)]

theorem onlyRegs_askedAgain : onlyRegs [capStateReg n.val] s (askedAgain s n l stream) := fun j hj _ =>
  regGet_regSet_ne (modCap (sendBc s l _) n _) _ _ _ (by simpa using hj)

theorem same_thirdFailure {q : Part} (h : q ∉ .ing :: reporting) : q.same s (thirdFailure s n) := by
  obtain ⟨hing, hrep⟩ : q ≠ .ing ∧ q ∉ reporting := by simpa using h
  exact (same_modCap hing s n _).trans (same_event hrep (modCap s n (capFailed s.now)) .ing 6 7 .degraded (ctxFrame n 1 n 0 0 0 0) 0)

theorem cap_thirdFailure : (thirdFailure s n).ing.caps[n] = capFailed s.now s.ing.caps[n] := by
  rw [thirdFailure, ingEvent, event_ing, cap_modCap_self]

theorem raised_thirdFailure : raised (thirdFailure s n) .ing 6 :=
  raised_event (b := .ing) (i := 6) rfl (by unfold outsideFlt; omega) (by decide) ..

theorem onlyRegs_thirdFailure : onlyRegs [0x61000] s (thirdFailure s n) :=
  onlyRegs_event (b := .ing) (off := 0x61000) rfl (modCap s n (capFailed s.now)) 6 7 .degraded (ctxFrame n 1 n 0 0 0 0) 0

end

/-! ### The statement -/

/-- Settles O26: what is received comes to the slot's first record, or to nothing but its receipt; what is not answered comes to another
request, or to CAP_FAIL. That a record which no request awaits is ignored is the model's reading (log 22). -/
theorem capabilityRecords : Obligations.CapabilityRecords := by
  unfold Obligations.CapabilityRecords
  refine ⟨fun s k p r n hl hrx hty hslot => ⟨fun hok hask hst => ?accepted, fun huseless => ?useless⟩,
    fun s n l stream hl hdue hlink => ⟨fun hf => ?asksAgain, fun hf => ?fails⟩⟩
  case accepted =>
    let u := modLink s k (rxTaken r)
    refine ⟨_, capability_of_awaited hl hrx hty hslot hok hask hst, ?_⟩
    rw [endCycle_ing, cap_firstRecord, regField, regGet_endCycle, regGet_endCycle, regGet_firstRecord_minPeriod,
      leAt_take (by decide)]
    refine ⟨rfl, rfl, capState_firstRecord u n _, fun i => ?_, rfl, onlyChanges_endCycle fun q hq _ _ => ?_⟩
    · rw [regGet_endCycle, regGet_firstRecord_word, leAt_take (by omega)]
    · obtain ⟨hlnk, hrest⟩ : q ≠ .lnk ∧ q ∉ [.ing, .regs] := by simpa using hq
      exact (same_modLink hlnk s k _).trans (same_firstRecord u n _ hrest)
  case useless =>
    refine ⟨_, capability_of_useless hl hrx hty hslot huseless, ?_, onlyChanges_modLink s k _⟩
    rw [endCycle_lnk, link_modLink_self]
    rfl
  case asksAgain =>
    refine ⟨_, capRequestTimeout_of_due hl hdue, ?_⟩
    rw [capTimeout_of_others hlink hf, endCycle_ing, cap_askedAgain, endCycle_out, out_askedAgain, regField, regGet_endCycle]
    exact ⟨rfl, rfl, rfl, total_askedAgain s n l stream, onlyRegs_endCycle (onlyRegs_askedAgain s n l stream),
      onlyChanges_endCycle fun q hq _ _ => same_askedAgain s n l stream hq⟩
  case fails =>
    refine ⟨_, capRequestTimeout_of_due hl hdue, ?_⟩
    rw [capTimeout_of_third hf, endCycle_ing, cap_thirdFailure]
    exact ⟨congrArg (· + 1) hf, raised_endCycle (raised_thirdFailure s n), onlyRegs_endCycle (onlyRegs_thirdFailure s n),
      onlyChanges_endCycle fun q hq _ _ => same_thirdFailure s n hq⟩

end Sys2Proof.Machine
end

section
/-! Proofs of the statements about RELEASING handles (R202, R203) and about the state after reset (R424, R478, R479). -/

namespace Sys2Proof.Machine
open Sys2Proof

/-! ### References (R202) -/

/-- The parts, beside the registers, that the references of handles are read from (R202). -/
def referring : List Part := [.frm, .imp, .dsp, .hev, .hq, .per]

/-- Locked formes give a register the same coming values over the same value in force. -/
theorem comingWords_congr {s t : State} (hfrm : t.frm = s.frm) {off : Nat} (hreg : regGet t off = regGet s off) :
    comingWords t off = comingWords s off := by
  have hforme (f : Forme) : formeWord t f off = formeWord s f off := by
    unfold formeWord
    rw [hreg]
  simp only [comingWords, lockedFormes, hforme, hreg, hfrm]

section
variable {s t : State} (hregs : ∀ j, outsideMbx j → regGet t j = regGet s j) (h : ∀ p ∈ referring, p.same s t)
include hregs h

theorem inPool_congr (i : Nat) : inPool t i = inPool s i := by
  have hfrm : t.frm = s.frm := h .frm (by decide)
  rw [Bool.eq_iff_iff]
  simp only [inPool, List.any_eq_true, List.mem_range]
  refine exists_congr fun k => and_congr_right fun hk => exists_congr fun j => and_congr_right fun hj => ?_
  rw [comingWords_congr hfrm (hregs _ (by unfold outsideMbx surfReg; omega))]

theorem consumerRefs_congr (i : Nat) : consumerRefs t i = consumerRefs s i := by
  have hdsp : t.dsp = s.dsp := h .dsp (by decide)
  have hhev : t.hev = s.hev := h .hev (by decide)
  have hhq : t.hq = s.hq := h .hq (by decide)
  have hper : t.per = s.per := h .per (by decide)
  have huser : userRefs t i = userRefs s i := by
    unfold userRefs
    rw [hper, List.filter_congr fun w hw => ?_]
    rw [hregs _ (by have := List.mem_range.mp hw; unfold outsideMbx; omega)]
  simp only [consumerRefs, planeRefs, encRefs, hostRefs, huser, hdsp, hhev, hhq]

/-- Handles are referenced alike in two states with the same referring parts, and with the same registers outside the mailboxes. -/
theorem referenced_congr (i : Nat) : referenced t i = referenced s i := by
  have himp : t.imp = s.imp := h .imp (by decide)
  rw [referenced, heldOutsidePool, isWriting, isLatest, himp, consumerRefs_congr hregs h, inPool_congr hregs h]
  rfl

theorem handleWord_congr (i : Nat) : handleWord t i = handleWord s i := by
  have himp : t.imp = s.imp := h .imp (by decide)
  unfold handleWord handleOf
  rw [isLatest, himp, consumerRefs_congr hregs h, inPool_congr hregs h]
  rfl

theorem handlesLive_congr (hs : handlesLive s) : handlesLive t := by
  intro x hx hr
  rw [referenced_congr hregs h]
  exact hs x ((h .imp (by decide) : t.imp = s.imp) ▸ hx) hr

end

/-! ### Every step keeps: a RELEASING handle holds a reference (R203) -/

/-- An idle tick moves the two clocks alone. -/
theorem same_idle {p : Part} (h : p ∉ [.now, .ptpNow, .net]) (s : State) : p.same s (idle s) := by
  cases p
  case now | ptpNow | net => simp at h
  all_goals unfold idle; split <;> rfl

/-- The sweep of the handles is all that the end of a cycle does to references. -/
theorem referenced_endCycle (s u : State) (i : Nat) : referenced (endCycle s u) i = referenced (sweepHandles u) i :=
  referenced_congr (fun _ _ => rfl) (by simp only [referring, List.forall_mem_cons]; exact ⟨rfl, rfl, rfl, rfl, rfl, rfl, by simp⟩) i

theorem handlesLive_endCycle (s u : State) : handlesLive (endCycle s u) := fun x hx hr =>
  (referenced_endCycle s u x.1).trans (handlesLive_sweepHandles u x hx hr)

/-- Settles O4: an idle tick moves the clocks alone, and every command ends with the sweep of the handles. -/
theorem everyReleasingHandleHoldsAReference : Obligations.EveryReleasingHandleHoldsAReference := by
  intro s t hs hstep
  cases hq : s.pending with
  | nil =>
    obtain rfl : idle s = t := by simpa [step, hq] using hstep
    have hregs : (idle s).regs = s.regs := same_idle (p := .regs) (by decide) s
    exact handlesLive_congr (fun j _ => regGet_congr s _ hregs j) (fun p hp => same_idle (by revert hp; cases p <;> decide) s) hs
  | cons c rest =>
    obtain ⟨u, hu⟩ := exec_eq_next_endCycle c (s.withPending rest)
    obtain rfl : endCycle (s.withPending rest) u = t := by simpa [stepRunsFrontCommand s c rest hq, hu] using hstep
    exact handlesLive_endCycle _ u

/-! ### After reset (R424, R479) -/

/-- Settles O5: the register map and every list of the state after reset are empty, so that what is left to decide is the reset values
of the rows named. -/
theorem resetLeavesEveryRegisterAtItsResetValue : Obligations.ResetLeavesEveryRegisterAtItsResetValue := by
  refine ⟨fun _ => rfl, ?roles, ?slots, ?masks, ?galley, ?links, ?heads, ?senders, ?audio, rfl, ?inRole, rfl, rfl, rfl, ?banks, ?issued,
    rfl, ?pulses, rfl, rfl, rfl, rfl, ?live⟩
  case live => exact fun _ hx => by cases hx
  all_goals decide +kernel

end Sys2Proof.Machine
end

section
/-! The statement about pulls and surface commands (R367 to R369) is refuted: its clause on SURF_FREE takes any state, so also one whose
handles are not in the canonical form. -/

namespace Sys2Proof.Machine
open Sys2Proof

/-- A buffer of one page, allocated to the PF. -/
def aBuffer : Handle := { owner := .pf, size := 4096, releasing := false, doneAt := none, bytes := [], born := 0 }

/-- A SURF_FREE of handle 5 that holds a reference to it itself. -/
def freeOfHeld : Cmd :=
  { op := 0x31, flags := 0, addr := 0, len := 0, arg0 := 5, arg1 := 0, arg2 := 0, sqHead := 1, order := 0, mark := 0, waiting := false,
    finished := false, holds := [5], segs := [], data := [], job := none, aborted := false }

/-- A queue of the PF with that command alone in flight. -/
def queueOfFree : Queue := { queueOfPull with cmds := [(0, freeOfHeld)] }

/-- Handle 5 is listed twice. -/
def handleTwiceListed : State :=
  { State.reset with
    live := true, hq := { State.reset.hq with queues := [(0, queueOfFree)] },
    imp := { State.reset.imp with handles := [(5, aBuffer), (5, aBuffer)] } }

/-- The reference ends as the command completes, the handle freed goes at the end of the cycle, and the one behind it comes to light. -/
theorem surfFree_handleTwiceListed :
    readAfter (.surfFree 0 0) handleTwiceListed (fun t => isAllocated t 5) = some true := by decide +kernel

/-- Refutes O49: in `handleTwiceListed`, where handle 5 is listed twice, it is allocated after SURF_FREE. No command leads to such a
state, as an allocation takes a free handle; the statement does not ask that the handles be in the canonical form, as that about
HANDLE_FREE does. -/
theorem not_pullsAndSurfaceCommands : ¬ Obligations.PullsAndSurfaceCommands := by
  rintro ⟨-, -, -, hfree, -, -⟩
  have hflight : inFlight handleTwiceListed 0 0 0x31 queueOfFree freeOfHeld := ⟨rfl, rfl, rfl, rfl, rfl, rfl, rfl, rfl, rfl⟩
  obtain ⟨hallocated, -⟩ := hfree handleTwiceListed 0 0 5 queueOfFree freeOfHeld hflight rfl
  obtain ⟨t, hexec, -, hgone, -⟩ := hallocated rfl
  have hread := (readAfter_of_next hexec _).symm.trans surfFree_handleTwiceListed
  rw [hgone] at hread
  cases hread

end Sys2Proof.Machine
end

section
/-! Proof of the statement about mailbox slots, queues and handles: maps of handles, and handles of a request just taken and at the end of
its cycle (R202, R203, R369). -/

namespace Sys2Proof.Machine
open Sys2Proof

/-! ### Sparse maps -/

/-- A value that a filter keeps is found behind it. -/
theorem mGet_filter_of_kept {α : Type} {f : Nat × α → Bool} {i : Nat} {x : α} (hf : f (i, x) = true) (m : SMap α)
    (h : mGet m i = some x) : mGet (m.filter f) i = some x := by
  induction m with
  | nil => cases h
  | cons a r ih =>
    obtain ⟨k, v⟩ := a
    by_cases hk : i = k
    · subst hk
      obtain rfl : v = x := by simpa [mGet] using h
      rw [List.filter_cons_of_pos hf, mGet, if_pos rfl]
    · have hr : mGet r i = some x := by simpa [mGet, hk] using h
      rw [List.filter_cons]
      split
      · rw [mGet, if_neg hk, ih hr]
      · exact ih hr

/-- Behind a bound no key at or below it is listed. -/
theorem mGet_of_rising {α : Type} (m : SMap α) {b i : Nat} (hm : mRising (some b) m = true) (hi : i ≤ b) : mGet m i = none := by
  induction m generalizing b with
  | nil => rfl
  | cons a r ih =>
    obtain ⟨k, v⟩ := a
    obtain ⟨hk, hr⟩ : b < k ∧ mRising (some k) r = true := by simpa [mRising] using hm
    rw [mGet, if_neg (by omega), ih hr (by omega)]

/-- In the canonical form, nothing comes to light behind a value that a filter drops. -/
theorem mGet_filter_of_rising {α : Type} (f : Nat × α → Bool) {m : SMap α} (hm : mRising none m = true) (i : Nat) :
    mGet (m.filter f) i = (mGet m i).filter fun x => f (i, x) := by
  induction m with
  | nil => rfl
  | cons a r ih =>
    obtain ⟨k, v⟩ := a
    have hr : mRising (some k) r = true := by simpa [mRising] using hm
    have hrest := ih (mRising_none r k hr)
    by_cases hk : i = k
    · subst hk
      rw [mGet_of_rising r hr (Nat.le_refl _), Option.filter_none] at hrest
      rw [mGet, if_pos rfl, List.filter_cons]
      by_cases hf : f (i, v) = true
      · rw [if_pos hf, mGet, if_pos rfl, Option.filter_some, if_pos hf]
      · rw [if_neg hf, hrest, Option.filter_some, if_neg hf]
    · rw [mGet, if_neg hk, List.filter_cons]
      split
      · rw [mGet, if_neg hk, hrest]
      · exact hrest

theorem mRising_mMod {α : Type} (m : SMap α) (i : Nat) (f : α → α) (b : Option Nat) : mRising b (mMod m i f) = mRising b m := by
  induction m generalizing b with
  | nil => rfl
  | cons a r ih =>
    obtain ⟨k, v⟩ := a
    by_cases hk : i = k
    · simp only [mMod, if_pos hk]
      cases b <;> rfl
    · simp only [mMod, if_neg hk]
      cases b <;> simp only [mRising, ih]

/-- The key found free is not listed, and lies among those looked at. -/
theorem mFreeFrom_eq_some {α : Type} {m : SMap α} {n i k : Nat} (h : mFreeFrom m n i = some k) : mGet m k = none ∧ k < i + n := by
  induction n generalizing i with
  | zero => cases h
  | succ n ih =>
    rw [mFreeFrom] at h
    split at h
    · obtain ⟨hk, hlt⟩ := ih h
      exact ⟨hk, by omega⟩
    · rename_i hfree
      cases h
      exact ⟨by simpa [mHas] using hfree, by omega⟩

/-! ### Handles at the end of a cycle (R203) -/

/-- The handles at the end of a cycle are those that are not RELEASING, or that hold a reference. -/
theorem handles_endCycle (s u : State) :
    (endCycle s u).imp.handles = u.imp.handles.filter fun x => !x.2.releasing || referenced u x.1 := by
  rw [show (endCycle s u).imp = (sweepHandles u).imp from rfl, sweepHandles]
  split
  · rfl
  · rename_i hnone
    rw [List.filter_eq_self.mpr fun x hx => ?_]
    have : x.2.releasing = false := by
      rw [Bool.eq_false_iff]
      exact fun hr => hnone (List.any_eq_true.mpr ⟨x, hx, hr⟩)
    rw [this]
    rfl

/-- A handle that is not RELEASING outlasts the cycle. -/
theorem handleOf_endCycle {u : State} {i : Nat} {b : Handle} (h : handleOf u i = some b) (hb : b.releasing = false) (s : State) :
    handleOf (endCycle s u) i = some b := by
  rw [handleOf, handles_endCycle]
  exact mGet_filter_of_kept (by rw [hb]; rfl) _ h

theorem isAllocated_iff (s : State) (i : Nat) : isAllocated s i = true ↔ ∃ b, handleOf s i = some b ∧ b.releasing = false := by
  unfold isAllocated
  split <;> simp_all

/-- The end of a cycle allocates no handle. -/
theorem isAllocated_endCycle {u : State} (hu : mRising none u.imp.handles = true) {i : Nat} (h : isAllocated u i = false) (s : State) :
    isAllocated (endCycle s u) i = false := by
  rw [Bool.eq_false_iff, ne_eq, isAllocated_iff] at h ⊢
  rintro ⟨b, hb, hlive⟩
  rw [handleOf, handles_endCycle, mGet_filter_of_rising _ hu] at hb
  exact h ⟨b, (Option.filter_eq_some_iff.mp hb).1, hlive⟩

/-! ### Handles of a request just taken (R202, R369) -/

theorem imp_mbxTake (s : State) (p : Party) (slot : Nat) : (mbxTake s p slot).imp = s.imp := same_mbxTake (q := .imp) (by decide) s p slot

theorem hq_mbxTake (s : State) (p : Party) (slot : Nat) : (mbxTake s p slot).hq = s.hq := same_mbxTake (q := .hq) (by decide) s p slot

theorem handleOf_mbxTake (s : State) (p : Party) (slot i : Nat) : handleOf (mbxTake s p slot) i = handleOf s i := by
  rw [handleOf, imp_mbxTake, handleOf]

theorem allocatedTo_mbxTake (s : State) (p q : Party) (slot i : Nat) : allocatedTo (mbxTake s p slot) q i = allocatedTo s q i := by
  unfold allocatedTo
  rw [handleOf_mbxTake]

section
variable {p : Party} {slot : Nat} (h : slot < mbxSlots p)
include h

theorem referenced_mbxTake (s : State) (i : Nat) : referenced (mbxTake s p slot) i = referenced s i :=
  referenced_congr (fun _ hj => regGet_mbxTake_outside h s hj)
    (fun q hq => same_mbxTake (by revert hq; cases q <;> decide) s p slot) i

theorem handleWord_mbxTake (s : State) (i : Nat) : handleWord (mbxTake s p slot) i = handleWord s i :=
  handleWord_congr (fun _ hj => regGet_mbxTake_outside h s hj)
    (fun q hq => same_mbxTake (by revert hq; cases q <;> decide) s p slot) i

end

end Sys2Proof.Machine
end

section
/-! Proof of the statement about mailbox slots, queues and handles: the slot protocol (R378, R379, R381). -/

namespace Sys2Proof.Machine
open Sys2Proof

/-! ### A slot's STATE word (R377) -/

theorem field_low (w : Word) : field w 15 0 = w.toNat % 65536 := rfl

/-- The mask of a STATE word keeps its count. -/
theorem field_stateMask_count (w : Word) : field (w &&& 0xC000FFFF) 15 0 = field w 15 0 := by
  simp [field_low, Nat.and_mod_two_pow (n := 16), ← Nat.and_two_pow_sub_one_eq_mod _ 16]

/-- A state put into a STATE word leaves its count as it is. -/
theorem field_putField_count (w : Word) (n : Nat) : field (putField w 31 30 n) 15 0 = field w 15 0 := by
  simp [field_low, putField, fieldMask, Nat.and_mod_two_pow (n := 16), Nat.or_mod_two_pow (n := 16)]
  exact (Nat.and_two_pow_sub_one_eq_mod _ 16).trans (Nat.mod_mod _ _)

/-- The STATE word of a posted request: POSTED, and its count. -/
theorem field_postedWord {n : Nat} (h : n < 65536) :
    field (packFields [(30, 1), (0, n)] &&& 0xC000FFFF) 31 30 = 1 ∧ field (packFields [(30, 1), (0, n)] &&& 0xC000FFFF) 15 0 = n := by
  constructor
  · have hcount : (n % 4294967296) >>> 30 = 0 := by rw [Nat.shiftRight_eq_div_pow]; omega
    simp [field, packFields, Nat.shiftRight_and_distrib, Nat.shiftRight_or_distrib, hcount]
  · rw [field_stateMask_count, field_low]
    simpa [packFields, Nat.or_mod_two_pow (n := 16)] using h

section
variable {p : Party} {slot : Nat} (h : slot < mbxSlots p)
include h

theorem mbxState_setIdle (s : State) : mbxState (setMbxState s p slot 0) p slot = 0 := by
  rw [mbxState, regField, setMbxState, regPut, regGet_regSet_self, maskOf_mbxState h]
  simp [field, putField, fieldMask, Nat.shiftRight_and_distrib]

/-- The count of requests stays as a slot's STATE is set. -/
theorem count_setMbxState (s : State) (st : Nat) :
    regField (setMbxState s p slot st) (mbxBase p slot + 4) 15 0 = regField s (mbxBase p slot + 4) 15 0 := by
  rw [regField, setMbxState, regPut, regGet_regSet_self, maskOf_mbxState h, field_stateMask_count, field_putField_count, regField]

end

/-! ### A request posted (R378) -/

/-- A slot's request is POSTED and counted, and comes last of those that wait. -/
def mbxPost (s : State) (p : Party) (slot : Nat) : State :=
  let u := regSet s (mbxBase p slot + 4) (packFields [(30, 1), (0, (regField s (mbxBase p slot + 4) 15 0 + 1) % 65536)])
  { u with mbx := { u.mbx with posted := u.mbx.posted ++ [(p, slot)] } }

theorem same_mbxPost {q : Part} (h : q ∉ [.regs, .mbx]) (s : State) (p : Party) (slot : Nat) : q.same s (mbxPost s p slot) := by
  cases q
  case regs | mbx => simp at h
  all_goals rfl

theorem mbx_mbxPost (s : State) (p : Party) (slot : Nat) :
    (mbxPost s p slot).mbx = { s.mbx with posted := s.mbx.posted ++ [(p, slot)] } := rfl

theorem regGet_mbxPost_ne (s : State) (p : Party) (slot : Nat) {j : Nat} (h : j ≠ mbxBase p slot + 4) :
    regGet (mbxPost s p slot) j = regGet s j := regGet_regSet_ne s _ j _ h

theorem state_mbxPost {p : Party} {slot : Nat} (h : slot < mbxSlots p) (s : State) : mbxState (mbxPost s p slot) p slot = 1 ∧
    regField (mbxPost s p slot) (mbxBase p slot + 4) 15 0 = (regField s (mbxBase p slot + 4) 15 0 + 1) % 65536 := by
  have hword : regGet (mbxPost s p slot) (mbxBase p slot + 4) =
      packFields [(30, 1), (0, (regField s (mbxBase p slot + 4) 15 0 + 1) % 65536)] &&& 0xC000FFFF := by
    rw [← maskOf_mbxState h]
    exact regGet_regSet_self s _ _
  rw [mbxState, regField, regField, hword]
  exact field_postedWord (Nat.mod_lt _ (by decide))

/-! ### A write of CTL (R378, R379) -/

/-- What a write of CTL makes of its slot before GO: ACK of a response, or the count of an ACK that is refused. -/
def mbxAcked (s : State) (p : Party) (slot : Nat) (v : Word) : State :=
  if bit v 30 = true then (if mbxState s p slot = 3 then setMbxState s p slot 0 else count s (mbxBase p slot + 8)) else s

theorem same_mbxAcked {q : Part} (h : q ≠ .regs) (s : State) (p : Party) (slot : Nat) (v : Word) :
    q.same s (mbxAcked s p slot v) := by
  unfold mbxAcked
  split
  · split
    · exact same_regSet h s _ _
    · exact same_count h s _
  · exact .refl q s

theorem regGet_mbxAcked (s : State) (p : Party) (slot : Nat) (v : Word) {j : Nat} (h4 : j ≠ mbxBase p slot + 4)
    (h8 : j ≠ mbxBase p slot + 8) : regGet (mbxAcked s p slot v) j = regGet s j := by
  unfold mbxAcked
  split
  · split
    · exact regGet_regSet_ne s _ _ _ h4
    · exact regGet_count_ne s _ _ h8
  · rfl

section
variable {s : State} {p : Party} {slot : Nat} {v : Word} (h : slot < mbxSlots p)
include h

theorem count_mbxAcked : regField (mbxAcked s p slot v) (mbxBase p slot + 4) 15 0 = regField s (mbxBase p slot + 4) 15 0 := by
  unfold mbxAcked
  split
  · split
    · exact count_setMbxState h s 0
    · rw [regField, regGet_count_ne _ _ _ (by omega), regField]
  · rfl

/-- GO posts the request where what comes before it leaves the slot IDLE. -/
theorem mbxCtl_eq : mbxCtl s p slot v =
    let done : Bool := decide (mbxState s p slot = 3)
    let s1 := if bit v 30 ∧ done then setMbxState s p slot 0 else s
    let idle : Bool := decide (mbxState s1 p slot = 0)
    let s2 := if (bit v 30 ∧ ¬ done) ∨ (bit v 31 ∧ ¬ idle) then count s1 (mbxBase p slot + 8) else s1
    if bit v 31 ∧ idle then sweepInvalid (mbxPost s2 p slot) else s2 := by
  unfold mbxCtl
  rw [if_neg (Nat.not_le.mpr h)]
  rfl

/-- GO in an idle slot, or with ACK in a done one, posts the slot's request. -/
theorem mbxCtl_of_go (hgo : bit v 31 = true) (hst : mbxState s p slot = 0 ∨ (mbxState s p slot = 3 ∧ bit v 30 = true)) :
    mbxCtl s p slot v = sweepInvalid (mbxPost (mbxAcked s p slot v) p slot) := by
  rw [mbxCtl_eq h, mbxAcked]
  rcases hst with hst | ⟨hst, hack⟩
  · by_cases hack : bit v 30 = true <;> simp [hst, hgo, hack]
  · simp [hst, hgo, hack, mbxState_setIdle h]

/-- GO in another state, and ACK alone of what is not done, are ignored and counted. -/
theorem mbxCtl_of_refused (hst : bit v 31 = true ∧ mbxState s p slot ≠ 0 ∧ ¬ (mbxState s p slot = 3 ∧ bit v 30 = true) ∨
    bit v 31 = false ∧ bit v 30 = true ∧ mbxState s p slot ≠ 3) : mbxCtl s p slot v = count s (mbxBase p slot + 8) := by
  rw [mbxCtl_eq h]
  rcases hst with ⟨hgo, hidle, hdone⟩ | ⟨hgo, hack, hdone⟩
  · have hnot : ¬ (bit v 30 = true ∧ mbxState s p slot = 3) := fun ha => hdone ha.symm
    simp [hgo, hidle, hnot]
  · simp [hgo, hack, hdone]

theorem mbxCtl_of_ack (hgo : bit v 31 = false) (hack : bit v 30 = true) (hst : mbxState s p slot = 3) :
    mbxCtl s p slot v = setMbxState s p slot 0 := by
  rw [mbxCtl_eq h]
  simp [hgo, hack, hst]

end

/-! ### Requests that are answered once service runs (R381) -/

/-- Slots' registers lie in windows of 1 KiB. -/
theorem mbxBase_mod (p : Party) (slot : Nat) : mbxBase p slot % 0x400 = 0 := by
  cases p <;> simp only [mbxBase, regKey] <;> omega

/-- A slot's request is the same where no more than STATE and REFUSED of a slot differ. -/
theorem mbxReq_congr {s t : State} {p : Party} {slot : Nat}
    (h : ∀ j, j ≠ mbxBase p slot + 4 → j ≠ mbxBase p slot + 8 → regGet t j = regGet s j) (q : Party) (k : Nat) :
    mbxReq t q k = mbxReq s q k := by
  have hp := mbxBase_mod p slot
  have hq := mbxBase_mod q k
  rw [mbxReq, mbxReq, regWords_congr 64 fun i hi => h _ (by omega) (by omega)]

/-- A party may issue the request that stands in a slot of its mailbox. -/
abbrev mayIssue (s : State) (p : Party) (slot : Nat) : Bool := (mbxCmdOf (leAt (mbxReq s p slot) 0 2)).any fun c => c.permits p

theorem serveInvalid_eq (s : State) (p : Party) (slot : Nat) : serveInvalid s p slot =
    if mbxState s p slot = 1 ∧ mayIssue s p slot = false ∧ serviceOn s = true ∧ runCount s < 16 then
      mbxReply (mbxTake s p slot) p slot stInvalidOpcode 0 0 0
    else s := by
  unfold serveInvalid mayIssue
  dsimp only
  generalize mbxCmdOf (leAt (mbxReq s p slot) 0 2) = o
  cases o with
  | none => simp
  | some c => cases hc : c.permits p <;> simp [hc]

theorem sweepInvalid_of_valid {s : State} (h : postedValid s) : sweepInvalid s = s := by
  unfold sweepInvalid
  have hall : ∀ l : List (Party × Nat), (∀ e ∈ l, mayIssue s e.1 e.2 = true) →
      l.foldl (fun s e => serveInvalid s e.1 e.2) s = s := fun l => by
    induction l with
    | nil => exact fun _ => rfl
    | cons e r ih =>
      intro hl
      have he : serveInvalid s e.1 e.2 = s := by simp [serveInvalid_eq, hl e List.mem_cons_self]
      rw [List.foldl_cons, he]
      exact ih fun x hx => hl x (List.mem_cons_of_mem _ hx)
  exact hall s.mbx.posted h

theorem posted_mbxDone (s : State) (p : Party) (slot status detail r0 r1 : Nat) (data : List Byte) :
    (mbxDone s p slot status detail r0 r1 data).mbx.posted = s.mbx.posted := by
  have hwritten (rsp : List Byte) : (mbxWritten s p slot rsp).mbx = s.mbx := same_mbxWritten (q := .mbx) (by decide) s p slot rsp
  rw [mbxDone_eq, same_mbxNotify (q := .mbx) (by decide), count_mbx, mbxStopped, hwritten]

end Sys2Proof.Machine
end

section
/-! Proof of the statement about mailbox slots, queues and handles: GO and ACK (R378, R379, R381). -/

namespace Sys2Proof.Machine
open Sys2Proof

theorem exec_go {s : State} (hl : s.live = true) (p : Party) (k : Fin 32) {v : Word} (hgo : bit v 31 = true) :
    exec (.go p k v) s = .next (endCycle s (mbxCtl s p k v)) := by
  rw [show exec (.go p k v) s = execGo p k v s from rfl, execGo, inCore_of_live hl, if_pos hgo]

theorem exec_ack {s : State} (hl : s.live = true) (p : Party) (k : Fin 32) {v : Word} (hack : bit v 30 = true) :
    exec (.ack p k v) s = .next (endCycle s (mbxCtl s p k v)) := by
  rw [show exec (.ack p k v) s = execAck p k v s from rfl, execAck, inCore_of_live hl, if_pos hack]

/-! ### A write that is refused, and an ACK (R378, R379) -/

theorem refusedWrite_spec (s : State) (p : Party) (slot : Nat) :
    mbxState (endCycle s (count s (mbxBase p slot + 8))) p slot = mbxState s p slot ∧
    regGet (endCycle s (count s (mbxBase p slot + 8))) (mbxBase p slot + 8) =
      satInc (regGet s (mbxBase p slot + 8)) &&& maskOf (mbxBase p slot + 8) ∧
    onlyRegs [mbxBase p slot + 8] s (endCycle s (count s (mbxBase p slot + 8))) ∧
    onlyChanges [.regs] s (endCycle s (count s (mbxBase p slot + 8))) := by
  refine ⟨?_, ?_, fun j hj _ => ?_, onlyChanges_regSet s _ _⟩
  · rw [mbxState, regField, regGet_endCycle, regGet_count_ne _ _ _ (by omega), mbxState, regField]
  · rw [regGet_endCycle, regGet_count, if_pos rfl]
  · rw [regGet_endCycle, regGet_count_ne _ _ _ (by simpa using hj)]

theorem acknowledged_spec {p : Party} {slot : Nat} (h : slot < mbxSlots p) (s : State) :
    mbxState (endCycle s (setMbxState s p slot 0)) p slot = 0 ∧
    onlyRegs [mbxBase p slot + 4] s (endCycle s (setMbxState s p slot 0)) ∧
    onlyChanges [.regs] s (endCycle s (setMbxState s p slot 0)) := by
  refine ⟨?_, fun j hj _ => ?_, onlyChanges_regSet s _ _⟩
  · rw [mbxState, regField, regGet_endCycle]
    exact mbxState_setIdle h s
  · rw [regGet_endCycle, setMbxState, regPut, regGet_regSet_ne _ _ _ _ (by simpa using hj)]

/-! ### A request posted by GO (R378) -/

/-- What GO makes of its slot: the response before acknowledged, the request posted. -/
abbrev goPosted (s : State) (p : Party) (slot : Nat) (v : Word) : State := mbxPost (mbxAcked s p slot v) p slot

theorem regGet_goPosted (s : State) (p : Party) (slot : Nat) (v : Word) {j : Nat} (h4 : j ≠ mbxBase p slot + 4)
    (h8 : j ≠ mbxBase p slot + 8) : regGet (goPosted s p slot v) j = regGet s j := by
  rw [regGet_mbxPost_ne _ _ _ h4, regGet_mbxAcked _ _ _ _ h4 h8]

theorem same_goPosted {q : Part} (h : q ∉ [.regs, .mbx]) (s : State) (p : Party) (slot : Nat) (v : Word) :
    q.same s (goPosted s p slot v) :=
  (same_mbxAcked (by rintro rfl; simp at h) s p slot v).trans (same_mbxPost h _ p slot)

theorem mbx_goPosted (s : State) (p : Party) (slot : Nat) (v : Word) :
    (goPosted s p slot v).mbx = { s.mbx with posted := s.mbx.posted ++ [(p, slot)] } := by
  rw [mbx_mbxPost, show (mbxAcked s p slot v).mbx = s.mbx from same_mbxAcked (q := .mbx) (by decide) s p slot v]

/-- Neither STATE nor REFUSED of a slot bears on what a party may issue. -/
theorem mayIssue_goPosted (s : State) (p : Party) (slot : Nat) (v : Word) (q : Party) (k : Nat) :
    mayIssue (goPosted s p slot v) q k = mayIssue s q k := by
  rw [mayIssue, mbxReq_congr fun j => regGet_goPosted s p slot v]

theorem serviceOn_goPosted (s : State) (p : Party) (slot : Nat) (v : Word) :
    serviceOn (goPosted s p slot v) = serviceOn s ∧ runCount (goPosted s p slot v) = runCount s := by
  have hsys : (goPosted s p slot v).sys = s.sys := same_goPosted (q := .sys) (by decide) s p slot v
  have hflt : (goPosted s p slot v).flt = s.flt := same_goPosted (q := .flt) (by decide) s p slot v
  rw [serviceOn, interrupted, runCount, hsys, hflt, mbx_goPosted]
  exact ⟨rfl, rfl⟩

section
variable {s : State} {p : Party} {slot : Nat} (v : Word) (h : slot < mbxSlots p)
include h

theorem goPosted_spec : mbxState (endCycle s (goPosted s p slot v)) p slot = 1 ∧
    regField (endCycle s (goPosted s p slot v)) (mbxBase p slot + 4) 15 0 = (regField s (mbxBase p slot + 4) 15 0 + 1) % 65536 ∧
    (endCycle s (goPosted s p slot v)).mbx.posted = s.mbx.posted ++ [(p, slot)] ∧
    onlyRegs [mbxBase p slot + 4, mbxBase p slot + 8] s (endCycle s (goPosted s p slot v)) ∧
    onlyChanges [.regs, .mbx] s (endCycle s (goPosted s p slot v)) := by
  obtain ⟨hstate, hcount⟩ := state_mbxPost h (mbxAcked s p slot v)
  rw [count_mbxAcked h] at hcount
  refine ⟨?_, ?_, ?_, onlyRegs_endCycle fun j hj _ => ?_, onlyChanges_endCycle fun q hq _ _ => same_goPosted hq s p slot v⟩
  · rw [mbxState, regField, regGet_endCycle]
    exact hstate
  · rw [regField, regGet_endCycle]
    exact hcount
  · rw [endCycle_mbx, mbx_goPosted]
  · simp only [List.mem_cons, List.not_mem_nil, or_false, not_or] at hj
    exact regGet_goPosted s p slot v hj.1 hj.2

/-- A request that waits alone, and that its party may not issue, is answered as service runs (R381). -/
theorem sweepInvalid_goPosted (hposted : s.mbx.posted = []) (hon : serviceOn s = true) (hrun : runCount s < 16)
    (hbad : mayIssue s p slot = false) : sweepInvalid (goPosted s p slot v) =
      mbxReply (mbxTake (goPosted s p slot v) p slot) p slot stInvalidOpcode 0 0 0 := by
  obtain ⟨hstate, -⟩ := state_mbxPost h (mbxAcked s p slot v)
  obtain ⟨hon', hrun'⟩ := serviceOn_goPosted s p slot v
  rw [sweepInvalid, mbx_goPosted, hposted, List.nil_append, List.foldl_cons, List.foldl_nil, serveInvalid_eq, mayIssue_goPosted, hon', hrun',
    if_pos ⟨hstate, hbad, hon, hrun⟩]

theorem goAnswered_spec (hposted : s.mbx.posted = []) {t : State}
    (ht : t = endCycle s (mbxReply (mbxTake (goPosted s p slot v) p slot) p slot stInvalidOpcode 0 0 0)) :
    answered t p slot stInvalidOpcode 0 0 ∧ t.mbx.posted = [] ∧ onlySlot p slot s t ∧ onlyChanges answering s t := by
  subst ht
  refine ⟨answered_replied h 0 (by decide) (by decide) (by decide), ?_, fun j hj hslot hc => ?_, onlyChanges_endCycle fun q hq _ _ => ?_⟩
  · rw [endCycle_mbx, mbxReply, posted_mbxDone]
    simp [mbxTake, setMbxState, mbx_goPosted, hposted]
  · rw [regGet_endCycle, mbxReply, onlySlot_mbxDone h _ _ _ _ _ _ j hj hslot hc, regGet_mbxTake _ _ _ (by omega),
      regGet_goPosted _ _ _ _ (by omega) (by omega)]
  · have hq' : q ∉ [Part.regs, .mbx] := fun hm => hq (by simp [answering] at hm ⊢; tauto)
    exact ((same_goPosted hq' s p slot v).trans (same_mbxTake hq' _ p slot)).trans (same_mbxDone hq _ _ _ _ _ _ _ _)

end

end Sys2Proof.Machine
end

section
/-! Proof of the statement about mailbox slots, queues and handles: requests that fail the checks of R381, and what an answer leaves. -/

namespace Sys2Proof.Machine
open Sys2Proof

/-! ### Requests with a bad byte or field (R381) -/

/-- A request whose turn has come, and which fails the checks of R381 on its bytes, is refused at the first of them. -/
theorem serve_of_bad {s : State} {p : Party} {slot op off : Nat} {req : List Byte} (h : reaches s p slot op req)
    (hbad : firstBad p op req = some off) (f : State → List Byte → State) :
    serve s p slot op f = mbxReply (mbxTake s p slot) p slot stInvalidField 0 0 off := by
  obtain ⟨hreq, hstate, hslot, hop, hon, hfree, hrun, hpage, hpermits⟩ := h
  obtain ⟨c, hc, hp⟩ := (Option.any_eq_true _ _).mp hpermits
  rw [firstBad, hc, Option.bind_some] at hbad
  have hturn : ¬ (mbxState s p slot ≠ 1 ∨ slot ≥ mbxSlots p ∨ leAt req 0 2 ≠ op ∨ ¬ serviceOn s
      ∨ targetHeld s p slot (mbxTarget op req) ∨ runCount s ≥ 16) := by
    simp [hstate, hop, hon, hfree]; omega
  unfold serve
  rw [hreq, if_neg hturn]
  simp only [hc, hp, hpage, hbad, not_true_eq_false, Bool.false_eq_true, or_self, if_false]
  rfl

/-- Every parameter of Table MBX-7 lies in the request. -/
theorem mbxRanges_lt (p : Party) (op : Nat) (req : List Byte) : ∀ e ∈ mbxRanges p op req, e.1 < 256 := by
  unfold mbxRanges
  dsimp only
  split <;> simp [descRanges]

theorem badAt_lt {c : MbxCmd} {p : Party} {req : List Byte} {off : Nat} (h : c.badAt p req = some off) : off < 256 := by
  have hbyte {i : Nat} (hi : c.badByte req = some i) : i < 256 := List.mem_range.mp (List.mem_of_find?_eq_some hi)
  have hrange {i : Nat} (hi : badRange p c.code req = some i) : i < 256 := by
    obtain ⟨e, he, rfl⟩ := Option.map_eq_some_iff.mp hi
    exact mbxRanges_lt p _ req e (List.mem_of_find?_eq_some he)
  unfold MbxCmd.badAt at h
  split at h
  · rename_i hi _
    cases h
    exact lt_of_le_of_lt (min_le_left _ _) (hbyte hi)
  · rename_i hi _
    cases h
    exact hbyte hi
  · exact hrange h

theorem firstBad_lt {p : Party} {op off : Nat} {req : List Byte} (h : firstBad p op req = some off) : off < 256 := by
  obtain ⟨c, -, hc⟩ := Option.bind_eq_some_iff.mp h
  exact badAt_lt hc

/-- Each of the plain requests is served by its slot, with its opcode. -/
theorem exec_plainRequest {p : Party} {k : Fin 32} {op : Nat} {c : Instr} (h : (op, c) ∈ plainRequests p k) :
    ∃ f, ∀ s, exec c s = inCore s fun s => serve s p k op f := by
  simp only [plainRequests, List.mem_cons, Prod.mk.injEq, List.not_mem_nil, or_false] at h
  rcases h with ⟨rfl, rfl⟩ | ⟨rfl, rfl⟩ | ⟨rfl, rfl⟩ | ⟨rfl, rfl⟩ | ⟨rfl, rfl⟩ | ⟨rfl, rfl⟩ | ⟨rfl, rfl⟩ | ⟨rfl, rfl⟩ | ⟨rfl, rfl⟩ |
    ⟨rfl, rfl⟩ | ⟨rfl, rfl⟩ | ⟨rfl, rfl⟩ <;> exact ⟨_, fun _ => rfl⟩

theorem plainRequest_of_bad {s : State} {p : Party} {k : Fin 32} {op off : Nat} {req : List Byte} {c : Instr} (hl : s.live = true)
    (hr : reaches s p k.val op req) (hbad : firstBad p op req = some off) (hc : (op, c) ∈ plainRequests p k) :
    exec c s = .next (replied s (mbxTake s p k) p k stInvalidField 0 0 off) := by
  obtain ⟨f, hf⟩ := exec_plainRequest hc
  rw [hf, inCore_of_live hl, serve_of_bad hr hbad]

/-! ### Requests that are answered with something done, and committed (R378, R386) -/

/-- An answer, and the commit before it, leave the queues and the handles as they are. -/
theorem hq_committed (u : State) (p : Party) (slot status detail r0 r1 : Nat) :
    (mbxReply (journalCommit u) p slot status detail r0 r1).hq = u.hq := by
  rw [mbxReply, same_mbxDone (q := .hq) (by decide), same_journalCommit (q := .hq) (by decide)]

theorem imp_committed (u : State) (p : Party) (slot status detail r0 r1 : Nat) :
    (mbxReply (journalCommit u) p slot status detail r0 r1).imp = u.imp := by
  rw [mbxReply, same_mbxDone (q := .imp) (by decide), same_journalCommit (q := .imp) (by decide)]

/-- The answer to a request that has changed some parts, and has been committed to the journal. -/
theorem committed_spec {s u : State} {p : Party} {slot : Nat} (h : slot < mbxSlots p) {l : List Part} (hregs : Part.regs ∉ l)
    (hflt : Part.flt ∈ l) (hu : ∀ q : Part, q ∉ l → q.same (mbxTake s p slot) u) {status r0 r1 : Nat} (hst : status < 256)
    (h0 : r0 < 2 ^ 32) (h1 : r1 < 2 ^ 32) :
    answered (replied s (journalCommit u) p slot status 0 r0 r1) p slot status r0 r1 ∧
      onlySlot p slot s (replied s (journalCommit u) p slot status 0 r0 r1) ∧
      onlyChanges (l ++ answering) s (replied s (journalCommit u) p slot status 0 r0 r1) := by
  have hcommit (q : Part) (hq : q ∉ l) : q.same (mbxTake s p slot) (journalCommit u) :=
    (hu q hq).trans (same_journalCommit (by rintro rfl; exact hq hflt) u)
  exact ⟨answered_replied h 0 hst h0 h1, onlySlot_replied h (hcommit .regs hregs) _ _ _ _, onlyChanges_replied hcommit ..⟩

end Sys2Proof.Machine
end

section
/-! Proof of the statement about mailbox slots, queues and handles: IDENTIFY, VF_QUOTA, QUEUE_CREATE and QUEUE_DELETE (R342 to R344, R390). -/

namespace Sys2Proof.Machine
open Sys2Proof

/-! ### IDENTIFY (R390) -/

theorem ofLe_lt (l : List Byte) : ofLe l < 256 ^ l.length := by
  induction l with
  | nil => exact Nat.one_pos
  | cons b r ih =>
    have hb := b.isLt
    rw [ofLe, List.length_cons, Nat.pow_succ]
    omega

theorem leAt_lt (l : List Byte) (off n : Nat) : leAt l off n < 256 ^ n :=
  lt_of_lt_of_le (ofLe_lt _) (Nat.pow_le_pow_right (by decide) (by simp))

theorem versionOf_lt (s : State) (comp : Nat) : versionOf s comp < 2 ^ 32 := leAt_lt _ 8 4

theorem versionOf_mbxTake (s : State) (p : Party) (slot comp : Nat) : versionOf (mbxTake s p slot) comp = versionOf s comp := by
  have hmgt : (mbxTake s p slot).mgt = s.mgt := same_mbxTake (q := .mgt) (by decide) s p slot
  rw [versionOf, slotAt, hmgt]
  rfl

/-- Bytes spell a number that is written as these bytes. -/
theorem leBytes_ofLe (l : List Byte) : leBytes l.length (ofLe l) = l := by
  induction l with
  | nil => rfl
  | cons b r ih =>
    have hb := b.isLt
    have hrest : (b.toNat + 256 * ofLe r) / 256 = ofLe r := by omega
    rw [List.length_cons, ofLe, leBytes, hrest, ih]
    congr 1
    exact BitVec.eq_of_toNat_eq (by rw [BitVec.toNat_ofNat]; omega)

/-- Bytes that fill whole words are their words' bytes. -/
theorem bytesOf_wordsOf (n : Nat) : ∀ l : List Byte, l.length = 4 * n → bytesOf (wordsOf n l) = l := by
  induction n with
  | zero => exact fun l h => (List.length_eq_zero_iff.mp h).symm
  | succ n ih =>
    intro l h
    have hlen : (l.take 4).length = 4 := by rw [List.length_take]; omega
    have hlt : ofLe (l.take 4) < 2 ^ 32 := by simpa [hlen] using ofLe_lt (l.take 4)
    have hword : leBytes 4 (ofLe (l.take 4)) = l.take 4 := by simpa only [hlen] using leBytes_ofLe (l.take 4)
    rw [wordsOf, bytesOf, ih _ (by rw [List.length_drop]; omega), BitVec.toNat_ofNat, Nat.mod_eq_of_lt hlt, hword, List.take_append_drop]

/-- The data of IDENTIFY: the serial number, the memory, and the version of Colophon's image. -/
def identity (s : State) : List Byte :=
  (List.range 8).map Config.deviceSerial ++ leBytes 4 (regField s 0x170000 15 0) ++ leBytes 4 (versionOf s 1)

theorem identify_of_asks {s : State} {p : Party} {k : Fin 32} {req : List Byte} (hl : s.live = true) (ha : asks s p k.val 0x0001 req) :
    exec (.identify p k) s = .next (done s (mbxTake s p k) p k stSuccess 0 (regGet s 0).toNat (versionOf s 2) (identity s)) := by
  have hk := asks_slot ha
  rw [show exec (.identify p k) s = execIdentify p k s from rfl, execIdentify, inCore_of_live hl, serve_of_asks ha]
  dsimp only
  rw [regField_mbxTake hk s (by unfold outsideMbx; omega), regGet_mbxTake_outside hk s (by unfold outsideMbx; omega), versionOf_mbxTake,
    versionOf_mbxTake]
  rfl

theorem identity_done (s u : State) {p : Party} {slot : Nat} (h : slot < mbxSlots p) (status detail r0 r1 : Nat) :
    bytesOf (regWords (done s u p slot status detail r0 r1 (identity s)) (mbxBase p slot + 0x210) 4) = identity s := by
  have hlen : (identity s).length = 4 * 4 := by simp [identity]
  have hwords := regWords_done_at (s := s) (u := u) h status detail r0 r1 (pre := []) (post := []) (ws := wordsOf 4 (identity s)) (m := 0)
    (off := mbxBase p slot + 0x210) rfl (wordsOf_length 4 _) rfl (by decide) (by simp [bytesOf_length])
  rw [List.nil_append, List.append_nil, bytesOf_wordsOf 4 _ hlen] at hwords
  rw [hwords, bytesOf_wordsOf 4 _ hlen]

/-! ### VF_QUOTA (R342) -/

theorem same_hq {q : Part} (h : q ≠ .hq) (s : State) (x : HqBlk) : q.same s { s with hq := x } := by
  cases q
  case hq => exact absurd rfl h
  all_goals rfl

theorem find_vf : ∀ n : Fin 63, ((List.finRange 63).find? fun m : Fin 63 => decide (m.val + 1 = n.val + 1)) = some n := by
  decide +kernel

/-- What a party uses of queues, tags and handles is found the same of a request just taken. -/
theorem used_mbxTake (s : State) (p q : Party) (slot : Nat) : queuesOf (mbxTake s p slot) q = queuesOf s q ∧
    tagsOf (mbxTake s p slot) q = tagsOf s q ∧ handlesOf (mbxTake s p slot) q = handlesOf s q := by
  simp only [queuesOf, tagsOf, handlesOf, hq_mbxTake, imp_mbxTake, and_self]

/-- A VF's quotas replaced. -/
def setQuota (s : State) (n : Fin 63) (q : Quota) : State := { s with hq := { s.hq with quotas := s.hq.quotas.set n q } }

section
variable {s : State} {p : Party} {k : Fin 32} {req : List Byte} {n : Fin 63} {q : Quota} (hl : s.live = true)
  (ha : asks s p k.val 0x0002 req) (hn : leAt req 0x10 2 = n.val + 1)
  (hq : q = { queues := leAt req 0x12 2, tags := leAt req 0x14 4, handles := leAt req 0x18 4 })
include hl ha hn hq

theorem exec_vfQuota : exec (.vfQuota p k) s = .next (endCycle s
    (if q.queues < queuesOf s (.vf n) ∨ q.tags < tagsOf s (.vf n) ∨ q.handles < handlesOf s (.vf n) then
      mbxReply (mbxTake s p k) p k stNotReady 0 0 0
    else if ((s.hq.quotas.set n q).toList.map (·.queues)).sum > 4096 ∨ ((s.hq.quotas.set n q).toList.map (·.tags)).sum > 262144 ∨
        ((s.hq.quotas.set n q).toList.map (·.handles)).sum > 65535 then mbxReply (mbxTake s p k) p k stExhausted 0 0 0
    else mbxReply (journalCommit (setQuota (mbxTake s p k) n q)) p k stSuccess 0 0 0)) := by
  subst hq
  obtain ⟨hqueues, htags, hhandles⟩ := used_mbxTake s p (.vf n) k
  rw [show exec (.vfQuota p k) s = execVfQuota p k s from rfl, execVfQuota, inCore_of_live hl, serve_of_asks ha]
  dsimp only
  rw [hn, find_vf]
  dsimp only
  rw [hqueues, htags, hhandles, hq_mbxTake]
  rfl

end

/-! ### QUEUE_CREATE and QUEUE_DELETE (R342 to R344) -/

theorem queueOf_mbxTake (s : State) (p : Party) (slot i : Nat) : queueOf (mbxTake s p slot) i = queueOf s i := by
  rw [queueOf, hq_mbxTake, queueOf]

theorem lowestTagRun_mbxTake (s : State) (p : Party) (slot n : Nat) : lowestTagRun (mbxTake s p slot) n = lowestTagRun s n := by
  have hfrom (k i : Nat) : tagRunFrom (mbxTake s p slot) n k i = tagRunFrom s n k i := by
    induction k generalizing i with
    | zero => rfl
    | succ k ih => rw [tagRunFrom, ih, tagRunFree, hq_mbxTake, tagRunFrom, tagRunFree]
  rw [lowestTagRun, hfrom, lowestTagRun]

theorem quotaRoom_mbxTake (s : State) (p q : Party) (slot n : Nat) : quotaRoom (mbxTake s p slot) q n = quotaRoom s q n := by
  obtain ⟨hqueues, htags, -⟩ := used_mbxTake s p q slot
  unfold quotaRoom
  cases q <;> simp only [hqueues, htags, hq_mbxTake]

/-- A run of tags found free lies among the device's tags (R343). -/
theorem lowestTagRun_lt {s : State} {n base : Nat} (h : lowestTagRun s n = some base) : base < 262144 := by
  have hfrom (k i : Nat) (hi : tagRunFrom s n k i = some base) : ∃ j, base = j * n ∧ j < i + k := by
    induction k generalizing i with
    | zero => cases hi
    | succ k ih =>
      rw [tagRunFrom] at hi
      split at hi
      · cases hi
        exact ⟨i, rfl, by omega⟩
      · obtain ⟨j, hj, hlt⟩ := ih (i + 1) hi
        exact ⟨j, hj, by omega⟩
  rw [lowestTagRun] at h
  split at h
  · cases h
  · rename_i hn
    obtain ⟨j, rfl, hj⟩ := hfrom _ _ h
    rw [Nat.zero_add] at hj
    exact (Nat.mul_lt_mul_of_pos_right hj (Nat.pos_of_ne_zero hn)).trans_le (Nat.div_mul_le_self _ _)

/-- The queues replaced. -/
def setQueues (s : State) (m : SMap Queue) : State := { s with hq := { s.hq with queues := m } }

section
variable {s : State} {p : Party} {k : Fin 32} {req : List Byte} (hl : s.live = true)
include hl

theorem queueCreate_of_room {q base : Nat} (ha : asks s p k.val 0x0003 req) (hfree : mFreeFrom s.hq.queues 4096 0 = some q)
    (hrun : lowestTagRun s (leAt req 0x28 4) = some base) (hroom : quotaRoom s p (leAt req 0x28 4) = true) :
    exec (.queueCreate p k) s = .next (replied s
      (journalCommit (setQueues (mbxTake s p k) (mPut s.hq.queues q (newQueue p req base)))) p k stSuccess 0 q base) := by
  rw [show exec (.queueCreate p k) s = execQueueCreate p k s from rfl, execQueueCreate, inCore_of_live hl, serve_of_asks ha]
  dsimp only
  rw [hq_mbxTake, hfree, lowestTagRun_mbxTake, hrun]
  dsimp only
  rw [quotaRoom_mbxTake, if_pos hroom]
  rfl

theorem queueCreate_of_full (ha : asks s p k.val 0x0003 req) (hroom : quotaRoom s p (leAt req 0x28 4) = false) :
    exec (.queueCreate p k) s = .next (replied s (mbxTake s p k) p k stExhausted 0 0 0) := by
  rw [show exec (.queueCreate p k) s = execQueueCreate p k s from rfl, execQueueCreate, inCore_of_live hl, serve_of_asks ha]
  dsimp only
  rw [quotaRoom_mbxTake, hroom]
  split
  · rw [if_neg Bool.false_ne_true]
  · rfl

theorem queueDelete_of_own {q : Nat} {x : Queue} (ha : asks s p k.val 0x0004 req) (hq : q = leAt req 0x10 2)
    (hx : queueOf s q = some x) (hp : x.owner = p) : exec (.queueDelete p k) s = .next (endCycle s
      (if x.cmds ≠ [] ∨ x.resetting.isSome = true ∨ s.hq.resetAsked.contains q = true then mbxReply (mbxTake s p k) p k stNotReady 0 0 0
      else mbxReply (journalCommit (setQueues (mbxTake s p k) (mDel s.hq.queues q))) p k stSuccess 0 0 0)) := by
  rw [show exec (.queueDelete p k) s = execQueueDelete p k s from rfl, execQueueDelete, inCore_of_live hl, serve_of_asks ha]
  dsimp only
  rw [← hq, queueOf_mbxTake, hx, Option.filter_some, if_pos (decide_eq_true hp), hq_mbxTake]
  rfl

end

end Sys2Proof.Machine
end

section
/-! Proof of the statement about mailbox slots, queues and handles: HANDLE_ALLOC, HANDLE_FREE and HANDLE_QUERY (R203, R369). -/

namespace Sys2Proof.Machine
open Sys2Proof

/-! ### HANDLE_ALLOC (R369) -/

theorem same_imp {q : Part} (h : q ≠ .imp) (s : State) (x : ImpBlk) : q.same s { s with imp := x } := by
  cases q
  case imp => exact absurd rfl h
  all_goals rfl

/-- A handle as it is allocated to a party, in whole pages. -/
def newHandle (p : Party) (size born : Nat) : Handle :=
  { owner := p, size := pageUp size, releasing := false, doneAt := none, bytes := [], born := born }

/-- A handle allocated to a party. -/
def allocated (s : State) (p : Party) (size i : Nat) : State :=
  { s with free := s.free + 1, imp := { s.imp with handles := mPut s.imp.handles i (newHandle p size s.free) } }

theorem allocHandle_of_none {s : State} (h : lowestHandle s = none) (p : Party) (size : Nat) : allocHandle s p size = none := by
  simp only [allocHandle, h]

theorem allocHandle_of_lowest {s : State} {i : Nat} (h : lowestHandle s = some i) (p : Party) (size : Nat) : allocHandle s p size =
    if handleBytes s + pageUp size > surfBytes s ∨ (handleQuota s p).any (fun q => decide (q ≤ handlesOf s p)) then none
    else some (i, allocated s p size i) := by
  simp only [allocHandle, h, allocated, newHandle]

/-- What is allocated is the lowest free handle, one of 65,535. -/
theorem allocHandle_spec {s u : State} {p : Party} {size i : Nat} (h : allocHandle s p size = some (i, u)) :
    handleOf s i = none ∧ i < 2 ^ 32 := by
  rcases Option.eq_none_or_eq_some (lowestHandle s) with hnone | ⟨j, hsome⟩
  · rw [allocHandle_of_none hnone] at h
    cases h
  · obtain ⟨hfree, hlt⟩ := mFreeFrom_eq_some hsome
    rw [allocHandle_of_lowest hsome] at h
    split at h
    · cases h
    · cases h
      exact ⟨hfree, by omega⟩

theorem same_allocated {q : Part} (h : q ∉ [.imp, .free]) (s : State) (p : Party) (size i : Nat) :
    q.same s (allocated s p size i) := by
  cases q
  case imp | free => simp at h
  all_goals rfl

theorem handleOf_allocated (s : State) (p : Party) (size i : Nat) :
    handleOf (allocated s p size i) i = some (newHandle p size s.free) := by
  rw [handleOf, allocated, mGet_mPut, if_pos rfl]

/-- An allocation finds a request just taken as it found it before. -/
theorem allocHandle_mbxTake {p : Party} {slot : Nat} (h : slot < mbxSlots p) (s : State) (size : Nat) :
    allocHandle (mbxTake s p slot) p size =
      (allocHandle s p size).map fun a => (a.1, allocated (mbxTake s p slot) p size a.1) := by
  have hquota : handleQuota (mbxTake s p slot) p = handleQuota s p := by
    unfold handleQuota
    cases p <;> simp only [hq_mbxTake]
  obtain ⟨-, -, hhandles⟩ := used_mbxTake s p p slot
  have hlowest : lowestHandle (mbxTake s p slot) = lowestHandle s := by rw [lowestHandle, imp_mbxTake, lowestHandle]
  rcases Option.eq_none_or_eq_some (lowestHandle s) with hnone | ⟨i, hsome⟩
  · rw [allocHandle_of_none (hlowest.trans hnone), allocHandle_of_none hnone, Option.map_none]
  · rw [allocHandle_of_lowest (hlowest.trans hsome), allocHandle_of_lowest hsome, handleBytes_mbxTake, surfBytes_mbxTake h, hquota, hhandles]
    split <;> rfl

section
variable {s : State} {p : Party} {k : Fin 32} {req : List Byte} {n : Nat} (hl : s.live = true) (ha : asks s p k.val 0x0401 req)
  (hn : n = leAt req 0x10 4)
include hl ha hn

theorem handleAlloc_of_room {i : Nat} {u : State} (hi : allocHandle s p n = some (i, u)) : exec (.handleAlloc p k) s =
    .next (replied s (journalCommit (allocated (mbxTake s p k) p n i)) p k stSuccess 0 i 0) := by
  rw [show exec (.handleAlloc p k) s = execHandleAlloc p k s from rfl, execHandleAlloc, inCore_of_live hl, serve_of_asks ha, ← hn,
    allocHandle_mbxTake (asks_slot ha), hi, Option.map_some]

theorem handleAlloc_of_none (hnone : allocHandle s p n = none) :
    exec (.handleAlloc p k) s = .next (replied s (mbxTake s p k) p k stExhausted 0 0 0) := by
  rw [show exec (.handleAlloc p k) s = execHandleAlloc p k s from rfl, execHandleAlloc, inCore_of_live hl, serve_of_asks ha, ← hn,
    allocHandle_mbxTake (asks_slot ha), hnone, Option.map_none]

end

/-! ### HANDLE_FREE (R203) -/

/-- A handle that is RELEASING until its last reference has ended. -/
def released (s : State) (i : Nat) : State := modHandle s i fun x => { x with releasing := true }

/-- A handle that is FREE at once. -/
def freed (s : State) (i : Nat) : State := { s with imp := { s.imp with handles := mDel s.imp.handles i } }

/-- A handle freed: RELEASING while it is referenced, FREE otherwise (R203). -/
def givenBack (s : State) (i : Nat) : State := if referenced s i = true then released s i else freed s i

theorem freeHandle_of_own {s : State} {p : Party} {i : Nat} (h : allocatedTo s p i = true) :
    freeHandle s p i = some (referenced s i, givenBack s i) := by
  rw [freeHandle, if_neg (by simp [h]), givenBack]
  cases referenced s i <;> rfl

theorem freeHandle_of_other {s : State} {p : Party} {i : Nat} (h : allocatedTo s p i = false) : freeHandle s p i = none := by
  rw [freeHandle, if_pos (by simp [h])]

theorem same_givenBack {q : Part} (h : q ≠ .imp) (s : State) (i : Nat) : q.same s (givenBack s i) := by
  unfold givenBack
  split <;> exact same_imp h s _

theorem isAllocated_givenBack (s : State) (i : Nat) : isAllocated (givenBack s i) i = false := by
  rw [Bool.eq_false_iff, ne_eq, isAllocated_iff, givenBack]
  rintro ⟨b, hb, hlive⟩
  split at hb
  · obtain ⟨x, -, rfl⟩ := Option.map_eq_some_iff.mp ((mGet_mMod s.imp.handles i _).symm.trans hb)
    cases hlive
  · rw [handleOf, freed, mGet_mDel, if_pos rfl] at hb
    cases hb

/-- A handle freed leaves the handles in the canonical form. -/
theorem mRising_givenBack {s : State} (h : mRising none s.imp.handles = true) (i : Nat) :
    mRising none (givenBack s i).imp.handles = true := by
  unfold givenBack
  split
  · exact (mRising_mMod _ _ _ _).trans h
  · exact mRising_mDel _ _ h

section
variable {s : State} {p : Party} {k : Fin 32} {req : List Byte} {i : Nat} (hl : s.live = true)
include hl

theorem handleFree_of_own (ha : asks s p k.val 0x0402 req) (hi : i = leAt req 0x10 2) (hown : allocatedTo s p i = true) :
    exec (.handleFree p k) s = .next (replied s (journalCommit (givenBack (mbxTake s p k) i)) p k
      (if referenced s i = true then stDeferred else stSuccess) 0 0 0) := by
  rw [show exec (.handleFree p k) s = execHandleFree p k s from rfl, execHandleFree, inCore_of_live hl, serve_of_asks ha,
    ← hi, freeHandle_of_own ((allocatedTo_mbxTake s p p k i).trans hown), referenced_mbxTake (asks_slot ha)]

theorem handleFree_of_other (ha : asks s p k.val 0x0402 req) (hi : i = leAt req 0x10 2) (hother : allocatedTo s p i = false) :
    exec (.handleFree p k) s = .next (replied s (mbxTake s p k) p k stInvalidField 0 0 0x10) := by
  rw [show exec (.handleFree p k) s = execHandleFree p k s from rfl, execHandleFree, inCore_of_live hl, serve_of_asks ha,
    ← hi, freeHandle_of_other ((allocatedTo_mbxTake s p p k i).trans hother)]
  rfl

/-! ### HANDLE_QUERY (R203) -/

theorem handleQuery_of_free (ha : asks s p k.val 0x0403 req) (hi : i = leAt req 0x10 2) (hfree : handleOf s i = none) :
    exec (.handleQuery p k) s = .next (replied s (mbxTake s p k) p k stSuccess 0 0 0) := by
  rw [show exec (.handleQuery p k) s = execHandleQuery p k s from rfl, execHandleQuery, inCore_of_live hl, serve_of_asks ha]
  dsimp only
  rw [← hi, handleOf_mbxTake, hfree]

/-- A handle that is not FREE is answered to its owner alone. -/
theorem handleQuery_of_held {b : Handle} (ha : asks s p k.val 0x0403 req) (hi : i = leAt req 0x10 2) (hb : handleOf s i = some b) :
    exec (.handleQuery p k) s = .next (if b.owner = p then replied s (mbxTake s p k) p k stSuccess 0 (handleWord s i).toNat b.size
      else replied s (mbxTake s p k) p k stInvalidField 0 0 0x10) := by
  rw [show exec (.handleQuery p k) s = execHandleQuery p k s from rfl, execHandleQuery, inCore_of_live hl, serve_of_asks ha]
  dsimp only
  rw [← hi, handleOf_mbxTake, hb, handleWord_mbxTake (asks_slot ha)]
  by_cases hp : b.owner = p
  · simp only [if_pos hp]
  · simp only [if_neg hp, mbxBadField]

end

end Sys2Proof.Machine
end

section
/-! The statement about mailbox slots, queues and handles. -/

namespace Sys2Proof.Machine
open Sys2Proof

/-! ### Queues and handles once a request is answered -/

section
variable {s u : State} {p : Party} {slot : Nat} (status detail r0 r1 : Nat)

theorem handleOf_committed {i : Nat} {b : Handle} (h : handleOf u i = some b) (hb : b.releasing = false) :
    handleOf (replied s (journalCommit u) p slot status detail r0 r1) i = some b :=
  handleOf_endCycle (by rw [handleOf, imp_committed]; exact h) hb s

theorem isAllocated_committed (hu : mRising none u.imp.handles = true) {i : Nat} (h : isAllocated u i = false) :
    isAllocated (replied s (journalCommit u) p slot status detail r0 r1) i = false := by
  have himp := imp_committed u p slot status detail r0 r1
  refine isAllocated_endCycle (by rw [himp]; exact hu) ?_ s
  unfold isAllocated handleOf at h ⊢
  rwa [himp]

theorem hq_replied : (replied s (journalCommit u) p slot status detail r0 r1).hq = u.hq := by rw [endCycle_hq, hq_committed]

end

/-! ### The statement -/

/-- Settles O51: a write of CTL by what its slot's STATE is (`mbxCtl_of_go`, `mbxCtl_of_refused`, `mbxCtl_of_ack`); a request by what its
command finds once it is taken. A refusal is `refused_spec`, what is done and committed is `committed_spec`. -/
theorem mailboxSlotsQueuesAndHandles : Obligations.MailboxSlotsQueuesAndHandles := by
  unfold Obligations.MailboxSlotsQueuesAndHandles
  refine ⟨fun s p k v hl hk hgo => ⟨fun hst hvalid => ?posts, fun hst => ?goRefused, fun hst hposted hon hrun hbad => ?goAnswered⟩,
    fun s p k req op off c hl hr hbad hc => ?badByte,
    fun s p k v hl hk hack hgo => ⟨fun hst => ?acks, fun hst => ?ackRefused⟩,
    fun s p k req hl ha => ?identifies,
    fun s p k req n q hl ha hn hq => ⟨fun hqueues htags hhandles hqueuesSum htagsSum hhandlesSum => ?quota, fun hused => ?quotaUsed⟩,
    fun s p k req hl ha => ⟨fun q base hfree hrun hroom => ?creates, fun hroom => ?createFull⟩,
    fun s p k req q x hl ha hq hx hp => ⟨fun hcmds hreset hasked => ?deletes, fun hcmds => ?deleteBusy⟩,
    fun s p k req n hl ha hn => ⟨fun i u hi => ?allocates, fun hnone => ?allocFull⟩,
    fun s p k req i hl ha hi hrising => ⟨fun hown => ?frees, fun hother => ?freeOther⟩,
    fun s p k req i hl ha hi => ⟨fun hfree => ?queryFree, fun b hb hp hsize => ?queryOwn, fun b hb hp => ?queryOther⟩⟩
  case posts =>
    have hvalid' : postedValid (goPosted s p k v) := fun e he =>
      (mayIssue_goPosted s p k v e.1 e.2).trans (hvalid e (by rwa [mbx_goPosted] at he))
    exact ⟨_, (exec_go hl p k hgo).trans (by rw [mbxCtl_of_go hk hgo hst, sweepInvalid_of_valid hvalid']), goPosted_spec v hk⟩
  case goRefused =>
    have hrefused : mbxState s p k ≠ 0 ∧ ¬ (mbxState s p k = 3 ∧ bit v 30 = true) := by
      rcases hst with h | h | ⟨h, hno⟩ <;> simp [*]
    exact ⟨_, (exec_go hl p k hgo).trans (by rw [mbxCtl_of_refused hk (.inl ⟨hgo, hrefused⟩)]), refusedWrite_spec s p k⟩
  case goAnswered =>
    exact ⟨_, (exec_go hl p k hgo).trans (by rw [mbxCtl_of_go hk hgo (.inl hst), sweepInvalid_goPosted v hk hposted hon hrun hbad]),
      goAnswered_spec v hk hposted rfl⟩
  case badByte =>
    obtain ⟨-, -, hk, -⟩ := id hr
    exact ⟨_, plainRequest_of_bad hl hr hbad hc,
      refused_spec hk (by decide) (by decide) (lt_trans (firstBad_lt hbad) (by decide))⟩
  case acks => exact ⟨_, (exec_ack hl p k hack).trans (by rw [mbxCtl_of_ack hk hgo hack hst]), acknowledged_spec hk s⟩
  case ackRefused =>
    exact ⟨_, (exec_ack hl p k hack).trans (by rw [mbxCtl_of_refused hk (.inr ⟨hgo, hack, hst⟩)]), refusedWrite_spec s p k⟩
  case identifies =>
    have hk := asks_slot ha
    exact ⟨_, identify_of_asks hl ha, answered_done hk 0 _ (status := stSuccess) (by decide) (BitVec.isLt _) (versionOf_lt s 2),
      identity_done s _ hk _ _ _ _, onlySlot_done hk rfl _ _ _ _ _, onlyChanges_done (by decide) (fun q _ => .refl q _) _ _ _ _ _⟩
  case quota =>
    obtain ⟨hans, hslot, hchange⟩ := committed_spec (s := s) (u := setQuota (mbxTake s p k) n q) (asks_slot ha) (l := [.hq, .flt])
      (status := stSuccess) (r0 := 0) (r1 := 0) (by decide) (by decide) (fun r hr => same_hq (by rintro rfl; exact hr (by decide)) _ _)
      (by decide) (by decide) (by decide)
    refine ⟨_, (exec_vfQuota hl ha hn hq).trans (by rw [if_neg (by omega), if_neg (by omega)]), hans, ?_, hslot, hchange⟩
    rw [hq_replied, setQuota, hq_mbxTake]
  case quotaUsed =>
    exact ⟨_, (exec_vfQuota hl ha hn hq).trans (by rw [if_pos hused]), refused_spec (asks_slot ha) (by decide) (by decide) (by decide)⟩
  case creates =>
    obtain ⟨hnone, hlt⟩ := mFreeFrom_eq_some hfree
    obtain ⟨hans, hslot, hchange⟩ := committed_spec (s := s)
      (u := setQueues (mbxTake s p k) (mPut s.hq.queues q (newQueue p req base))) (asks_slot ha) (l := [.hq, .flt])
      (status := stSuccess) (r0 := q) (r1 := base) (by decide) (by decide)
      (fun r hr => same_hq (by rintro rfl; exact hr (by decide)) _ _) (by decide) (by omega)
      (lt_trans (lowestTagRun_lt hrun) (by decide))
    refine ⟨_, queueCreate_of_room hl ha hfree hrun hroom, hans, hnone, ?_, ?_, hslot, hchange⟩
    · rw [queueOf, hq_replied, setQueues, mGet_mPut, if_pos rfl]
    · rw [hq_replied, setQueues, hq_mbxTake]
  case createFull =>
    exact ⟨_, queueCreate_of_full hl ha hroom, refused_spec (asks_slot ha) (by decide) (by decide) (by decide)⟩
  case deletes =>
    obtain ⟨hans, hslot, hchange⟩ := committed_spec (s := s) (u := setQueues (mbxTake s p k) (mDel s.hq.queues q)) (asks_slot ha)
      (l := [.hq, .flt]) (status := stSuccess) (r0 := 0) (r1 := 0) (by decide) (by decide)
      (fun r hr => same_hq (by rintro rfl; exact hr (by decide)) _ _) (by decide) (by decide) (by decide)
    refine ⟨_, (queueDelete_of_own hl ha hq hx hp).trans (by rw [if_neg (by simpa [hcmds, hreset] using hasked)]), hans, ?_, ?_, hslot, hchange⟩
    · rw [queueOf, hq_replied, setQueues, mGet_mDel, if_pos rfl]
    · rw [hq_replied, setQueues, hq_mbxTake]
  case deleteBusy =>
    exact ⟨_, (queueDelete_of_own hl ha hq hx hp).trans (by rw [if_pos (.inl hcmds)]),
      refused_spec (asks_slot ha) (by decide) (by decide) (by decide)⟩
  case allocates =>
    obtain ⟨hnone, hlt⟩ := allocHandle_spec hi
    obtain ⟨hans, hslot, hchange⟩ := committed_spec (s := s) (u := allocated (mbxTake s p k) p n i) (asks_slot ha)
      (l := [.imp, .free, .flt]) (status := stSuccess) (r0 := i) (r1 := 0) (by decide) (by decide)
      (fun r hr => same_allocated (fun hm => hr (by simp at hm ⊢; tauto)) _ _ _ _) (by decide) hlt (by decide)
    exact ⟨_, newHandle p n (mbxTake s p k).free, handleAlloc_of_room hl ha hn hi, hans, hnone,
      handleOf_committed _ _ _ _ (handleOf_allocated _ p n i) rfl, rfl, rfl, rfl, hslot, hchange⟩
  case allocFull =>
    exact ⟨_, handleAlloc_of_none hl ha hn hnone, refused_spec (asks_slot ha) (by decide) (by decide) (by decide)⟩
  case frees =>
    obtain ⟨hans, hslot, hchange⟩ := committed_spec (s := s) (u := givenBack (mbxTake s p k) i) (asks_slot ha) (l := [.imp, .flt])
      (status := if referenced s i = true then stDeferred else stSuccess) (r0 := 0) (r1 := 0) (by decide) (by decide)
      (fun r hr => same_givenBack (by rintro rfl; exact hr (by decide)) _ _) (by split <;> decide) (by decide) (by decide)
    exact ⟨_, handleFree_of_own hl ha hi hown, hans, isAllocated_committed _ _ _ _
      (mRising_givenBack (by rw [imp_mbxTake]; exact hrising) i) (isAllocated_givenBack _ i), hslot, hchange⟩
  case freeOther =>
    exact ⟨_, handleFree_of_other hl ha hi hother, refused_spec (asks_slot ha) (by decide) (by decide) (by decide)⟩
  case queryFree =>
    exact ⟨_, handleQuery_of_free hl ha hi hfree,
      refused_spec (asks_slot ha) (status := stSuccess) (by decide) (by decide) (by decide)⟩
  case queryOwn =>
    exact ⟨_, (handleQuery_of_held hl ha hi hb).trans (by rw [if_pos hp]),
      refused_spec (asks_slot ha) (status := stSuccess) (by decide) (BitVec.isLt _) hsize⟩
  case queryOther =>
    exact ⟨_, (handleQuery_of_held hl ha hi hb).trans (by rw [if_neg hp]),
      refused_spec (asks_slot ha) (by decide) (by decide) (by decide)⟩

end Sys2Proof.Machine
end

section
/-! Proof of the statement about the governor (R224, R225). -/

namespace Sys2Proof.Machine
open Sys2Proof

/-! ### A slot's part of the governor changed -/

theorem same_modGov {q : Part} (h : q ≠ .gal) (s : State) (n : Nat) (f : GovSlot → GovSlot) : q.same s (modGov s n f) := by
  cases q
  case gal => exact absurd rfl h
  all_goals rfl

@[simp] theorem regGet_modGov (s : State) (n : Nat) (f : GovSlot → GovSlot) (j : Nat) : regGet (modGov s n f) j = regGet s j := rfl

theorem gov_modGov_self (s : State) (n : Fin 8) (f : GovSlot → GovSlot) : (modGov s n.val f).gal.gov[n] = f s.gal.gov[n] :=
  vMod_getElem_self ..

/-- The boundary of a slot whose decision is being taken is no longer due. -/
def decided (s : State) (n : Fin 8) : State := modGov s n.val fun g => { g with due := false }

/-- HOLD starts anew for a slot. -/
def holdRestarted (s : State) (n : Fin 8) : State := modGov s n.val fun g => { g with sinceRaise := some 0 }

theorem govScale_decided (s : State) (n k : Fin 8) : govScale (decided s n).gal.gov[k] = govScale s.gal.gov[k] := by
  by_cases h : k = n
  · subst h
    rw [decided, gov_modGov_self]
    rfl
  · have hk : (decided s n).gal.gov[k] = s.gal.gov[k] := by
      have hne : ¬ n.val = k.val := fun he => h (Fin.ext he.symm)
      simp [decided, modGov, vMod, hne]
    rw [hk]

/-- The galley's input does not depend on which boundaries are due. -/
theorem govInput_decided (s : State) (n k : Fin 8) (r : Nat) : govInput (decided s n) k r = govInput s k r := by
  unfold govInput
  simp only [govScale_decided]
  rfl

/-! ### The decision (R224) -/

/-- The galley would stand at or above HIGH after HORIZON, with a slot at a ratio. -/
def endsHigh (s : State) (n : Fin 8) (r : Nat) : Prop :=
  ((galFill s * 4096 : Nat) : ℚ) + (govInput s n r - govWrite s) * ((regField s 0xD0010 15 0 : ℚ) / 1000)
    ≥ (galBytes s : ℚ) * (regField s 0xD0008 23 16 : ℚ) / 256

/-- The galley stands at or above LOW. -/
def notLow (s : State) : Prop := (galBytes s : ℚ) * (regField s 0xD0008 7 0 : ℚ) / 256 ≤ ((galFill s * 4096 : Nat) : ℚ)

theorem endsHigh_decided (s : State) (n : Fin 8) (r : Nat) : endsHigh (decided s n) n r ↔ endsHigh s n r := by
  unfold endsHigh
  rw [govInput_decided]
  rfl

/-- The ratio after a raise: START from lossless, else UP more, up to RATIO_MAX. -/
def raisedRatio (s : State) (r rmax : Nat) : Nat := if r = 0 then regField s 0xD0014 15 0 else min (r + regField s 0xD000C 7 0) rmax

/-- A slot's ratio raised, and counted. -/
def ratioRaised (s : State) (n : Fin 8) (r : Nat) : State := count (setRatio (holdRestarted s n) n.val r) 0xD0054

/-- The event of a raise, and that of a ratio which stands at RATIO_MAX. -/
def raiseEvent (s : State) (n : Fin 8) (ord : Word) : State := galEvent s 0 0x01 .info n.val ord
def maxEvent (s : State) (n : Fin 8) (ord : Word) : State := galEvent s 2 0x03 .degraded n.val ord

theorem governor_of_high {s : State} {n : Fin 8} {r rmax : Nat} (hr : r = regField s (ratioReg n.val) 15 0)
    (hmax : rmax = field (trbRatio s.regs n.val) 31 16) (h : endsHigh s n r) :
    ∃ ord, governor s n = if r = rmax then maxEvent (holdRestarted s n) n ord
      else raiseEvent (ratioRaised s n (raisedRatio s r rmax)) n ord := by
  subst hr hmax
  refine ⟨BitVec.ofNat 32 ((s.ref.slots[n]).issued - 1), ?_⟩
  unfold governor
  extract_lets
  exact if_pos h

theorem governor_of_kept {s : State} {n : Fin 8} (h : ¬ endsHigh s n (regField s (ratioReg n.val) 15 0)) (hlow : notLow s) :
    governor s n = s := by
  unfold governor
  extract_lets
  exact (if_neg h).trans (if_neg fun hl => absurd hl.1 (not_lt.mpr hlow))

theorem governorDecision_of_due {s : State} {n : Fin 8} (hl : s.live = true) (hdue : (s.gal.gov[n]).due = true)
    (hint : interrupted s = false) (hon : regBit s 0xD0000 31 = true) :
    exec (.governorDecision n) s = .next (endCycle s (governor (decided s n) n)) := by
  have hrun : (s.gal.gov[n]).due = true ∧ ¬ interrupted s = true := ⟨hdue, by simp [hint]⟩
  have hen : regBit (decided s n) 0xD0000 31 = true := hon
  rw [show exec (.governorDecision n) s = execGovernorDecision n s from rfl, execGovernorDecision, inCore_of_live hl, if_pos hrun]
  exact congrArg (fun t => Host.Outcome.next (endCycle s t)) (if_pos hen)

/-! ### What a raise changes -/

theorem maskOf_ratioReg : ∀ n : Fin 8, maskOf (ratioReg n.val) = 0xFFFF := by decide

theorem raisedRatio_lt {s : State} {n : Fin 8} (r : Nat) : raisedRatio s r (field (trbRatio s.regs n.val) 31 16) < 65536 := by
  have hstart : regField s 0xD0014 15 0 < 65536 := field_lt _ 15 0
  have hmax : field (trbRatio s.regs n.val) 31 16 < 65536 := field_lt _ 31 16
  unfold raisedRatio
  split <;> omega

theorem ofNat_and_ffff {r : Nat} (h : r < 65536) : BitVec.ofNat 32 r &&& 0xFFFF = BitVec.ofNat 32 r := by
  apply BitVec.eq_of_toNat_eq
  rw [BitVec.toNat_and, BitVec.toNat_ofNat, show (0xFFFF : Word).toNat = 2 ^ 16 - 1 from rfl, Nat.and_two_pow_sub_one_eq_mod]
  omega

theorem regGet_ratioRaised (s : State) (n : Fin 8) {r : Nat} (h : r < 65536) :
    regGet (ratioRaised s n r) (ratioReg n.val) = BitVec.ofNat 32 r ∧
      regGet (ratioRaised s n r) 0xD0054 = satInc (regGet s 0xD0054) ∧ onlyRegs [ratioReg n.val, 0xD0054] s (ratioRaised s n r) := by
  have hne : 0xD0054 ≠ ratioReg n.val := by unfold ratioReg; omega
  refine ⟨?_, ?_, fun j hj _ => ?_⟩
  · rw [ratioRaised, regGet_count_ne _ _ _ hne.symm, setRatio, regGet_regSet_self, maskOf_ratioReg, ofNat_and_ffff h]
  · rw [ratioRaised, regGet_count_self (by decide), setRatio, regGet_regSet_ne _ _ _ _ hne]
    rfl
  · obtain ⟨hratio, hcount⟩ : j ≠ ratioReg n.val ∧ j ≠ 0xD0054 := by simpa using hj
    rw [ratioRaised, regGet_count_ne _ _ _ hcount, setRatio, regGet_regSet_ne _ _ _ _ hratio]
    rfl

theorem same_ratioRaised {q : Part} (h : q ∉ [.gal, .regs]) (s : State) (n : Fin 8) (r : Nat) : q.same s (ratioRaised s n r) := by
  obtain ⟨hg, hr⟩ : q ≠ .gal ∧ q ≠ .regs := by simpa using h
  exact ((same_modGov hg s _ _).trans (same_regSet hr _ _ _)).trans (same_count hr _ _)

/-- What stands at the end of a decision that restarts HOLD, with its event: `w` is the state in which the event is raised. -/
theorem holdRestarted_spec {s w : State} {n : Fin 8} {i : Nat} (hi : bit (maskOf 0xD0050) i = true)
    (hgal : w.gal = (holdRestarted (decided s n) n).gal) (hregs : onlyRegs [ratioReg n.val, 0xD0054] s w)
    (hsame : ∀ q : Part, q ∉ [.gal, .regs] → q.same s w) (code : Nat) (sev : Severity) (ord : Word) {t : State}
    (ht : t = endCycle s (galEvent w i code sev n.val ord)) :
    ((t.gal.gov[n]).due = false ∧ (t.gal.gov[n]).sinceRaise = some 0) ∧ raised t .gal i ∧
      (∀ j, j ≠ 0xD0050 → outsideFlt j → regGet t j = regGet w j) ∧ onlyRegs [ratioReg n.val, 0xD0050, 0xD0054] s t ∧
      onlyChanges (.gal :: reporting) s t := by
  subst ht
  have hev : ∀ j, j ≠ 0xD0050 → outsideFlt j → regGet (endCycle s (galEvent w i code sev n.val ord)) j = regGet w j := fun j hj ho =>
    (regGet_endCycle ..).trans (onlyRegs_event (b := .gal) rfl w _ _ _ _ _ j (by simpa using hj) ho)
  refine ⟨?_, raised_endCycle (raised_event (b := .gal) rfl (by unfold outsideFlt; omega) hi ..), hev, fun j hj ho => ?_,
    onlyChanges_endCycle fun q hq _ _ => ?_⟩
  · rw [endCycle_gal, show (galEvent w i code sev n.val ord).gal = w.gal from event_gal .., hgal, holdRestarted, gov_modGov_self,
      decided, gov_modGov_self]
    exact ⟨rfl, rfl⟩
  · obtain ⟨hratio, hevents, hcount⟩ : j ≠ ratioReg n.val ∧ j ≠ 0xD0050 ∧ j ≠ 0xD0054 := by simpa using hj
    exact (hev j hevents ho).trans (hregs j (by simp [hratio, hcount]) ho)
  · exact (hsame q fun hm => hq (by simp [reporting] at hm ⊢; tauto)).trans (same_event (fun hm => hq (List.mem_cons_of_mem _ hm)) w ..)

/-- Settles O28: above HIGH the decision comes to a raise or to the event of RATIO_MAX; between LOW and HIGH, to nothing but itself. -/
theorem governorDecisions : Obligations.GovernorDecisions := by
  intro s n r rmax hl hdue hint hon hr hmax
  refine ⟨fun hhigh => ?high, fun hhigh hlow => ?kept⟩
  case high =>
    obtain ⟨ord, hgov⟩ := governor_of_high (s := decided s n) hr hmax ((endsHigh_decided s n r).mpr hhigh)
    refine ⟨_, (governorDecision_of_due hl hdue hint hon).trans (by rw [hgov]), ?_⟩
    have hne : ratioReg n.val ≠ 0xD0050 ∧ outsideFlt (ratioReg n.val) := by unfold ratioReg outsideFlt; omega
    by_cases hrm : r = rmax
    · rw [if_pos hrm]
      obtain ⟨⟨hdue', hhold⟩, hev, hreg, honly, hchange⟩ := holdRestarted_spec (s := s) (w := holdRestarted (decided s n) n) (n := n) (i := 2)
        (by decide) rfl (fun j _ _ => rfl)
        (fun q hq => (same_modGov (by rintro rfl; simp at hq) s _ _).trans (same_modGov (by rintro rfl; simp at hq) _ _ _))
        0x03 .degraded ord rfl
      exact ⟨hdue', hhold, fun h => absurd hrm h,
        fun _ => ⟨hreg _ hne.1 hne.2, hreg _ (by decide) (by unfold outsideFlt; omega), hev⟩, honly, hchange⟩
    · rw [if_neg hrm]
      obtain ⟨hratio, hcount, hregs⟩ := regGet_ratioRaised (decided s n) n (hmax ▸ raisedRatio_lt r)
      obtain ⟨⟨hdue', hhold⟩, hev, hreg, honly, hchange⟩ := holdRestarted_spec (s := s) (n := n) (i := 0) (by decide)
        (w := ratioRaised (decided s n) n (raisedRatio (decided s n) r rmax)) rfl hregs
        (fun q hq => (same_modGov (by rintro rfl; simp at hq) s _ _).trans (same_ratioRaised hq _ _ _)) 0x01 .info ord rfl
      exact ⟨hdue', hhold,
        fun _ => ⟨(hreg _ hne.1 hne.2).trans hratio, (hreg _ (by decide) (by unfold outsideFlt; omega)).trans hcount, hev⟩,
        fun h => absurd h hrm, honly, hchange⟩
  case kept =>
    refine ⟨_, (governorDecision_of_due hl hdue hint hon).trans
      (by rw [governor_of_kept (mt (endsHigh_decided s n _).mp (hr ▸ not_le.mpr hhigh)) hlow]), ?_, ?_⟩
    · rw [endCycle_gal, decided, gov_modGov_self]
    · exact onlyChanges_endCycle fun q hq _ _ => same_modGov (by simpa using hq) s _ _

end Sys2Proof.Machine
end

section
/-! The mailbox protocol further: results of any size, the bytes of a response's data, and the transfers that go out with an answer (R378,
R380, R385). -/

namespace Sys2Proof.Machine
open Sys2Proof

/-! ### Results of any size (Table MBX-4) -/

/-- Of a number that is too large the lowest bytes are written. -/
theorem leBytes_mod (n : Nat) : ∀ v, leBytes n (v % 256 ^ n) = leBytes n v := by
  induction n with
  | zero => exact fun _ => rfl
  | succ n ih =>
    intro v
    have hdiv : v % 256 ^ (n + 1) / 256 = v / 256 % 256 ^ n := by rw [Nat.pow_succ', Nat.mod_mul_right_div_self]
    have hlow : BitVec.ofNat 8 (v % 256 ^ (n + 1)) = BitVec.ofNat 8 v := by
      apply BitVec.eq_of_toNat_eq
      rw [BitVec.toNat_ofNat, BitVec.toNat_ofNat, Nat.mod_mod_of_dvd _ (by simp [Nat.pow_succ'])]
    rw [leBytes, leBytes, hdiv, ih, hlow]

theorem mbxDone_mod (s : State) (p : Party) (slot status detail r0 r1 : Nat) (data : List Byte) :
    mbxDone s p slot status detail (r0 % 2 ^ 32) (r1 % 2 ^ 32) data = mbxDone s p slot status detail r0 r1 data := by
  have h0 : leBytes 4 (r0 % 2 ^ 32) = leBytes 4 r0 := leBytes_mod 4 r0
  have h1 : leBytes 4 (r1 % 2 ^ 32) = leBytes 4 r1 := leBytes_mod 4 r1
  rw [mbxDone_eq, mbxDone_eq, rspBytes, h0, h1, ← rspBytes]

section
variable {s u : State} {p : Party} {slot : Nat} (h : slot < mbxSlots p)
include h

theorem answered_done_mod {status : Nat} (hst : status < 256) (detail r0 r1 : Nat) (data : List Byte) :
    answered (done s u p slot status detail r0 r1 data) p slot status (r0 % 2 ^ 32) (r1 % 2 ^ 32) := by
  unfold done
  rw [← mbxDone_mod]
  exact answered_done h detail data hst (Nat.mod_lt _ (by decide)) (Nat.mod_lt _ (by decide))

/-! ### The data of a response (R380) -/

theorem data_done {data : List Byte} {m : Nat} (hlen : data.length = 4 * m) (hm : m ≤ 124) (status detail r0 r1 : Nat) :
    bytesOf (regWords (done s u p slot status detail r0 r1 data) (mbxBase p slot + 0x210) m) = data := by
  have hwords := regWords_done_at (s := s) (u := u) h status detail r0 r1 (pre := []) (post := []) (ws := wordsOf m data) (m := 0)
    (off := mbxBase p slot + 0x210) rfl (wordsOf_length m _) rfl (by omega) (by simp [bytesOf_length]; omega)
  rw [List.nil_append, List.append_nil, bytesOf_wordsOf m _ hlen] at hwords
  rw [hwords, bytesOf_wordsOf m _ hlen]

end

theorem padTo_of_le {n : Nat} {l : List Byte} (h : l.length ≤ n) : padTo n l = l ++ zeros (n - l.length) := by
  rw [padTo, List.take_of_length_le h]

theorem padTo_padTo {m n : Nat} {l : List Byte} (hl : l.length ≤ m) (hm : m ≤ n) : padTo n (padTo m l) = padTo n l := by
  rw [padTo_of_le (by rwa [padTo_length]), padTo_length, padTo_of_le hl, padTo_of_le (hl.trans hm), List.append_assoc, zeros, zeros, zeros,
    List.replicate_append_replicate]
  congr 2
  omega

/-- Data that fill no whole words stand at the front of the words that they reach into. -/
theorem data_done_take {s u : State} {p : Party} {slot : Nat} (h : slot < mbxSlots p) {data : List Byte} {m : Nat}
    (hlen : data.length ≤ 4 * m) (hm : m ≤ 124) (status detail r0 r1 : Nat) :
    (bytesOf (regWords (done s u p slot status detail r0 r1 data) (mbxBase p slot + 0x210) m)).take data.length = data := by
  have hpad : done s u p slot status detail r0 r1 data = done s u p slot status detail r0 r1 (padTo (4 * m) data) := by
    unfold done
    rw [mbxDone_eq, mbxDone_eq, rspBytes, rspBytes, padTo_padTo hlen (by omega)]
  rw [hpad, data_done h (padTo_length ..) hm, padTo_of_le hlen, List.take_left']
  rfl

/-! ### What a request changes besides its answer -/

section
variable {s u : State} {p : Party} {slot : Nat} (h : slot < mbxSlots p) {l : List Part}
  (hu : ∀ q : Part, q ∉ l → q.same (mbxTake s p slot) u)
include h hu

/-- A request that has changed some parts, none of them a register, and has been answered. -/
theorem done_spec (hl : ∀ q ∈ answering, q ∈ l) (hregs : u.regs = (mbxTake s p slot).regs) (status detail r0 r1 : Nat) (data : List Byte) :
    onlySlot p slot s (done s u p slot status detail r0 r1 data) ∧ onlyChanges l s (done s u p slot status detail r0 r1 data) :=
  ⟨onlySlot_done h hregs _ _ _ _ _, onlyChanges_done hl hu ..⟩

/-- A request that has changed some parts, none of them a register, and runs. -/
theorem runs_spec (hmbx : Part.mbx ∈ l) (hreg : Part.regs ∈ l) (hregs : u.regs = (mbxTake s p slot).regs) (op : Nat) (x : MbxTarget)
    (hw : Bool) (a b : Nat) :
    mbxState (endCycle s (mbxRun u p slot op x hw a b)) p slot = 2 ∧ onlySlot p slot s (endCycle s (mbxRun u p slot op x hw a b)) ∧
      onlyChanges l s (endCycle s (mbxRun u p slot op x hw a b)) := by
  obtain ⟨hstate, hslot⟩ := run_spec (s := s) (u := u) (op := op) (x := x) (hw := hw) (a := a) (b := b) h (l := []) (by simp)
    fun j _ => regGet_congr _ _ hregs j
  exact ⟨hstate, fun j => hslot j List.not_mem_nil, onlyChanges_run hmbx hreg hu⟩

end

/-! ### Transfers of a user core (R399, R400) -/

/-- Two states that are the same to the transfers of a user core. -/
structure SameCore (u : Fin 4) (s t : State) : Prop where
  per : t.per = s.per
  imp : t.imp = s.imp
  window : ∀ w, windowHandle t u w = windowHandle s u w

section
variable {u : Fin 4} {s t : State} (h : SameCore u s t)
include h

theorem SameCore.coreAt (addr n : Nat) : coreAt t u addr n = coreAt s u addr n := by
  have hhandle (i : Nat) : handleOf t i = handleOf s i := by rw [handleOf, h.imp, handleOf]
  unfold Machine.coreAt
  simp only [h.window, hhandle]

theorem SameCore.coreWrite (addr : Nat) (l : List Byte) : SameCore u (coreWrite s u addr l) (coreWrite t u addr l) := by
  unfold Machine.coreWrite
  rw [h.coreAt]
  split
  · exact ⟨by simp only [putTcm, modCore, h.per], h.imp, h.window⟩
  · exact ⟨h.per, by simp only [writeBuffer, modHandle, h.imp], h.window⟩
  · exact h

theorem SameCore.coreScatter (segs : List (Nat × Nat)) : ∀ l : List Byte, SameCore u (coreScatter s u segs l) (coreScatter t u segs l) := by
  induction segs generalizing s t with
  | nil => exact fun _ => h
  | cons x segs ih =>
    intro l
    unfold Machine.coreScatter
    split
    · exact h
    · exact ih (h.coreWrite _ _) _

end

/-! ### Transfers of a request just taken (R385) -/

/-- A request just taken, with so many free values drawn. -/
def drawn (s : State) (p : Party) (slot n : Nat) : State := { mbxTake s p slot with free := n }

theorem drawn_none (s : State) (p : Party) (slot : Nat) : mbxTake s p slot = drawn s p slot s.free := rfl

theorem same_drawn {q : Part} (h : q ≠ .free) (s : State) (p : Party) (slot n : Nat) : q.same (mbxTake s p slot) (drawn s p slot n) :=
  same_free h _ _

section
variable {s : State} {p : Party} {slot : Nat} (h : slot < mbxSlots p) (n : Nat)
include h

/-- What a request just taken puts out to its party changes what it would have changed before. -/
theorem per_putOut_drawn (segs : List (Nat × Nat)) (l : List Byte) :
    (putOut (drawn s p slot n) p segs l).per = (putOut s p segs l).per := by
  have hper : (drawn s p slot n).per = s.per := same_mbxTake (q := .per) (by decide) s p slot
  have hout (x : State) (fn : Nat) : (scatter x fn segs l).per = x.per := same_scatter (q := .per) (by decide) fn segs x l
  cases p with
  | user u =>
    have hcore : SameCore u s (drawn s (.user u) slot n) :=
      ⟨hper, same_mbxTake (q := .imp) (by decide) s (.user u) slot, fun w => windowHandle_mbxTake h w⟩
    exact (hcore.coreScatter segs l).per
  | _ => exact (hout _ _).trans (hper.trans (hout s _).symm)

theorem mbxRoom_drawn {d : Desc} {buf : HostBuf} {segs : List (Nat × Nat)} (hbus : busMaster s p = true)
    (hsegs : partySegs s p d buf = some (segs, true)) (off want : Nat) (k : State → List (Nat × Nat) → State) :
    mbxRoom (drawn s p slot n) p slot off d buf want k =
      if segTotal segs < want then mbxReply (drawn s p slot n) p slot stInvalidField 0 want 0 else k (drawn s p slot n) segs := by
  have hbus' : busMaster (drawn s p slot n) p = true := (busMaster_mbxTake s p slot).trans hbus
  have hsegs' : partySegs (drawn s p slot n) p d buf = some (segs, true) :=
    (partySegs_mbxTake h s d buf).trans hsegs
  unfold mbxRoom
  rw [hbus', hsegs']
  dsimp only
  rw [if_neg (by decide), if_neg (by decide)]

/-- An outgoing transfer of a request just taken that has room goes out. -/
theorem mbxSend_drawn {d : Desc} {buf : HostBuf} {segs : List (Nat × Nat)} {l : List Byte} (hbus : busMaster s p = true)
    (hsegs : partySegs s p d buf = some (segs, true)) (hroom : l.length ≤ segTotal segs) (k : State → State) :
    mbxSend (drawn s p slot n) p slot d buf l k = k (putOut (drawn s p slot n) p segs l) := by
  rw [mbxSend, mbxRoom_drawn h n hbus hsegs, if_neg (Nat.not_lt.mpr hroom)]

/-- Bytes that have been put out have been delivered once the request is answered. -/
theorem delivered_done {u : State} {segs : List (Nat × Nat)} {l : List Byte} (hroom : l.length ≤ segTotal segs)
    (hper : u.per = (putOut (drawn s p slot n) p segs l).per) (hout : u.out = (putOut (drawn s p slot n) p segs l).out)
    (status detail r0 r1 : Nat) (data : List Byte) : delivered s (done s u p slot status detail r0 r1 data) p segs l := by
  refine ⟨?_, fun hp a m hone hne => ?_⟩
  · rw [endCycle_per, same_mbxDone (q := .per) (by decide), hper, per_putOut_drawn h]
  · subst hone
    have hlen : l.length ≤ m := by simpa [segTotal] using hroom
    have hput : putOut (drawn s p slot n) p [(a, m)] l = scatter (drawn s p slot n) (partyNo p) [(a, m)] l := by
      cases p with
      | user u => exact absurd rfl (hp u)
      | _ => rfl
    rw [endCycle_out]
    refine (out_mbxDone u p slot status detail r0 r1 data).mem ?_
    rw [hout, hput, scatter, if_neg hne, List.take_of_length_le hlen, scatter.eq_def]
    exact List.mem_cons_self

end

/-- A transfer that goes out of a request just taken reaches the party's memory alone. -/
theorem same_putOut_drawn {q : Part} (hq : q ∉ [.free, .per, .imp, .out]) (s : State) (p : Party) (slot n : Nat) (segs : List (Nat × Nat)) (l : List Byte) :
    q.same (mbxTake s p slot) (putOut (drawn s p slot n) p segs l) :=
  (same_drawn (by rintro rfl; simp at hq) s p slot n).trans (same_putOut (fun hm => hq (List.mem_cons_of_mem _ hm)) _ p segs l)

end Sys2Proof.Machine
end

section
/-! Proof of the statement about the mailbox commands of logs, ports, takes and the magazine: LOG_GET (R252, R394). -/

namespace Sys2Proof.Machine
open Sys2Proof

theorem same_modMag {q : Part} (h : q ≠ .mag) (s : State) (f : MagBlk → MagBlk) : q.same s (modMag s f) := by
  cases q
  case mag => exact absurd rfl h
  all_goals rfl

theorem mag_mbxTake (s : State) (p : Party) (slot : Nat) : (mbxTake s p slot).mag = s.mag := same_mbxTake (q := .mag) (by decide) s p slot

theorem flt_mbxTake (s : State) (p : Party) (slot : Nat) : (mbxTake s p slot).flt = s.flt := same_mbxTake (q := .flt) (by decide) s p slot

theorem mgt_mbxTake (s : State) (p : Party) (slot : Nat) : (mbxTake s p slot).mgt = s.mgt := same_mbxTake (q := .mgt) (by decide) s p slot

/-! ### Which pages a party reads (R394) -/

theorem boundVf_mbxTake (s : State) (p q : Party) (slot : Nat) : boundVf (mbxTake s p slot) q = boundVf s q := by
  unfold boundVf
  rw [hq_mbxTake]

/-- A party that is refused no page of the device's logs is no VF. -/
theorem boundVf_of_deviceLog {p : Party} {req : List Byte} (h : pageBarred p 0x0A01 req = false)
    (hpage : (byteAt req 0x10).toNat = 1 ∨ (byteAt req 0x10).toNat = 2) (s : State) : boundVf s p = true := by
  cases p with
  | vf n => rcases hpage with hp | hp <;> simp [pageBarred, hp] at h
  | _ => rfl

/-- What LOG_GET does for a request just taken, by its page. -/
def logPage (u : State) (p : Party) (slot : Nat) (buf : HostBuf) (req : List Byte) : State :=
  if (byteAt req 0x10).toNat = 1 then logErrors u p slot (descAt req 0x20) buf (leAt req 0x18 4)
  else if (byteAt req 0x10).toNat = 2 then logEvents u p slot (descAt req 0x20) buf (leAt req 0x14 4) (leAt req 0x18 4)
  else logDeferred u p slot (descAt req 0x20) buf (leAt req 0x14 4) (leAt req 0x18 4) ((byteAt req 0x11).getLsbD 0)

theorem exec_logGet (p : Party) (k : Fin 32) (buf : HostBuf) (s : State) : exec (.logGet p k buf) s =
    inCore s fun s => serve s p k 0x0A01 fun s req =>
      if ¬ boundVf s p then mbxBadField s p k 0x10 else logPage s p k buf req := rfl

section
variable {s : State} {p : Party} {k : Fin 32} {req : List Byte} (hl : s.live = true)
include hl

theorem logGet_of_bound (buf : HostBuf) (ha : asks s p k.val 0x0A01 req) (hb : boundVf s p = true) :
    exec (.logGet p k buf) s = .next (endCycle s (logPage (mbxTake s p k) p k buf req)) := by
  rw [exec_logGet, inCore_of_live hl, serve_of_asks ha, boundVf_mbxTake, hb, if_neg (not_not_intro rfl)]

theorem logGet_of_unbound (buf : HostBuf) (ha : asks s p k.val 0x0A01 req) (hb : boundVf s p = false) :
    exec (.logGet p k buf) s = .next (replied s (mbxTake s p k) p k stInvalidField 0 0 0x10) := by
  rw [exec_logGet, inCore_of_live hl, serve_of_asks ha, boundVf_mbxTake, hb, if_pos Bool.false_ne_true]
  rfl

end

/-- A page of the device's logs is refused to a VF as an opcode is, whatever else its request holds. -/
theorem serve_of_barred {s : State} {p : Party} {slot op : Nat} {req : List Byte} (hreq : mbxReq s p slot = req)
    (hstate : mbxState s p slot = 1) (hslot : slot < mbxSlots p) (hop : leAt req 0 2 = op) (hon : serviceOn s = true)
    (hfree : targetHeld s p slot (mbxTarget op req) = false) (hrun : runCount s < 16) (hpage : pageBarred p op req = true)
    (hcmd : (mbxCmdOf op).isSome = true) (f : State → List Byte → State) :
    serve s p slot op f = mbxReply (mbxTake s p slot) p slot stInvalidOpcode 0 0 0 := by
  obtain ⟨c, hc⟩ := Option.isSome_iff_exists.mp hcmd
  have hturn : ¬ (mbxState s p slot ≠ 1 ∨ slot ≥ mbxSlots p ∨ leAt req 0 2 ≠ op ∨ ¬ serviceOn s
      ∨ targetHeld s p slot (mbxTarget op req) ∨ runCount s ≥ 16) := by
    simp [hstate, hop, hon, hfree]; omega
  unfold serve
  rw [hreq, if_neg hturn]
  dsimp only
  rw [hc]
  dsimp only
  rw [if_pos (.inr hpage)]

/-! ### Page 0x01: error records (R394) -/

/-- The oldest error records have left the queue, and this is committed. -/
def errorsTaken (u : State) (m : Nat) : State := journalCommit (queueFell { u with flt := { u.flt with queue := u.flt.queue.drop m } })

theorem same_errorsTaken {q : Part} (h : q ≠ .flt) (u : State) (m : Nat) : q.same u (errorsTaken u m) := by
  have hfell (v : State) : q.same v (queueFell v) := by
    unfold queueFell
    split
    · exact same_flt h v _
    · exact .refl q v
  exact ((same_flt h u _).trans (hfell _)).trans (same_journalCommit h _)

theorem queue_errorsTaken (u : State) (m : Nat) : (errorsTaken u m).flt.queue = u.flt.queue.drop m := by
  have hcommit (v : State) : (journalCommit v).flt.queue = v.flt.queue := by
    unfold journalCommit beginCheckpoint
    dsimp only
    split <;> rfl
  have hfell (v : State) : (queueFell v).flt.queue = v.flt.queue := by
    unfold queueFell
    split <;> rfl
  rw [errorsTaken, hcommit, hfell]

section
variable {s : State} {p : Party} {k : Fin 32} {buf : HostBuf} {req : List Byte} {segs : List (Nat × Nat)} (hl : s.live = true)
  (ha : asks s p k.val 0x0A01 req) (hbus : busMaster s p = true) (hsegs : partySegs s p (descAt req 0x20) buf = some (segs, true))
include hl ha hbus hsegs

theorem logGet_errors {m : Nat} {bs : List Byte} (hpage : (byteAt req 0x10).toNat = 1) (hm : m = min (leAt req 0x18 4) s.flt.queue.length)
    (hbs : bs = (s.flt.queue.take m).flatMap errBytes) (hroom : bs.length ≤ segTotal segs) :
    ∃ t, exec (.logGet p k buf) s = .next t ∧ t.flt.queue = s.flt.queue.drop m ∧ mbxState t p k.val = 3 ∧
      field (regGet t (mbxBase p k.val + 0x200)) 23 16 = stSuccess ∧ (regGet t (mbxBase p k.val + 0x208)).toNat = m % 2 ^ 32 ∧
      delivered s t p segs bs ∧ onlySlot p k.val s t ∧ onlyChanges (.flt :: .free :: delivering) s t := by
  have hk := asks_slot ha
  obtain ⟨⟨-, -, -, -, -, -, -, hbar, -⟩, -⟩ := id ha
  let u := putOut (drawn s p k (s.free + 1)) p segs bs
  have huflt : u.flt = s.flt := Eq.trans (same_putOut_drawn (q := .flt) (by decide) s p k _ segs bs) (flt_mbxTake s p k)
  have htaken {q : Part} (hq : q ≠ .flt) : q.same u (errorsTaken u m) := same_errorsTaken hq u m
  have hpart (q : Part) (hq : q ∉ Part.flt :: .free :: delivering) : q.same (mbxTake s p k) (errorsTaken u m) :=
    (same_putOut_drawn (fun hx => hq (by simp [delivering, answering] at hx ⊢; tauto)) s p k _ segs bs).trans
      (htaken (by rintro rfl; simp at hq))
  have hregs : (errorsTaken u m).regs = (mbxTake s p k).regs :=
    (same_putOut_drawn (q := .regs) (by decide) s p k _ segs bs).trans (htaken (q := .regs) (by decide))
  obtain ⟨hstate, hstatus, hr0, -⟩ := answered_done_mod (s := s) (u := errorsTaken u m) hk (status := stSuccess) (by decide) 0 m
    (Config.freeWord s.free).toNat []
  obtain ⟨hslot, hchange⟩ := done_spec hk hpart (by decide) hregs stSuccess 0 m (Config.freeWord s.free).toNat []
  refine ⟨done s (errorsTaken u m) p k stSuccess 0 m (Config.freeWord s.free).toNat [], ?_, ?_, hstate, hstatus, hr0,
    delivered_done hk (s.free + 1) hroom (htaken (q := .per) (by decide)) (htaken (q := .out) (by decide)) .., hslot, hchange⟩
  · rw [logGet_of_bound hl buf ha (boundVf_of_deviceLog hbar (.inl hpage) s), logPage, if_pos hpage, logErrors]
    dsimp only [freeWord]
    have hqueue : (mbxTake s p k).flt.queue = s.flt.queue := by rw [flt_mbxTake]
    rw [hqueue, ← hm, ← hbs]
    exact congrArg (fun t => Host.Outcome.next (endCycle s t)) (mbxSend_drawn hk (s.free + 1) hbus hsegs hroom _)
  · rw [endCycle_flt, same_mbxDone (q := .flt) (by decide), queue_errorsTaken, huflt]

/-! ### Page 0x02: the persistent log (R394, R461) -/

theorem logGet_events {l : List LogEnt} {bs : List Byte} (hpage : (byteAt req 0x10).toNat = 2)
    (hents : l = (s.mgt.log.filter fun e => decide (max (leAt req 0x14 4) (oldestLog s) ≤ e.seq)).take (leAt req 0x18 4))
    (hbs : bs = l.flatMap LogEnt.bytes) (hroom : bs.length ≤ segTotal segs) (hne : l ≠ []) :
    ∃ t, exec (.logGet p k buf) s = .next t ∧
      answered t p k.val 0 (l.length % 2 ^ 32) (((l.getLast?.map (·.seq)).getD 0 + 1) % 2 ^ 32) ∧
      delivered s t p segs bs ∧ onlySlot p k.val s t ∧ onlyChanges delivering s t := by
  have hk := asks_slot ha
  obtain ⟨⟨-, -, -, -, -, -, -, hbar, -⟩, -⟩ := id ha
  let u := putOut (drawn s p k s.free) p segs bs
  have hpart (q : Part) (hq : q ∉ delivering) : q.same (mbxTake s p k) u := same_putOut (fun hx => hq (by
    simp [delivering, answering] at hx ⊢; tauto)) (mbxTake s p k) p segs bs
  obtain ⟨hslot, hchange⟩ := done_spec hk hpart (by decide) (same_putOut (q := .regs) (by decide) (mbxTake s p k) p segs bs) stSuccess 0
    l.length ((l.getLast?.map (·.seq)).getD 0 + 1) []
  refine ⟨done s u p k stSuccess 0 l.length ((l.getLast?.map (·.seq)).getD 0 + 1) [], ?_,
    answered_done_mod hk (status := stSuccess) (by decide) .., delivered_done hk s.free hroom rfl rfl .., hslot, hchange⟩
  have hlog : (mbxTake s p k).mgt.log = s.mgt.log := by rw [mgt_mbxTake]
  have hold : oldestLog (mbxTake s p k) = oldestLog s := by rw [oldestLog, mgt_mbxTake, oldestLog]
  obtain ⟨e, he⟩ := Option.isSome_iff_exists.mp (List.getLast?_isSome.mpr hne)
  rw [logGet_of_bound hl buf ha (boundVf_of_deviceLog hbar (.inr hpage) s), logPage, if_neg (by omega), if_pos hpage, logEvents,
    hlog, hold, ← hents, ← hbs, he]
  exact congrArg (fun t => Host.Outcome.next (endCycle s t)) (mbxSend_drawn hk s.free hbus hsegs hroom _)

end

/-! ### Page 0x21: deferred errors (R252) -/

/-- The entries up to the last that was read are cleared, where the request asks for it. -/
def deferredRead (u : State) (l : List DefErr) (clear : Bool) : State :=
  match l.getLast?, clear with
  | some e, true => journalCommit (clearDeferred u e.seq)
  | _, _ => u

theorem deferredRead_kept (u : State) (l : List DefErr) : deferredRead u l false = u := by
  unfold deferredRead
  cases l.getLast? <;> rfl

theorem deferredRead_cleared {l : List DefErr} {e : DefErr} (h : l.getLast? = some e) (u : State) :
    deferredRead u l true = journalCommit (clearDeferred u e.seq) := by
  unfold deferredRead
  rw [h]

theorem same_clearDeferred {q : Part} (h : q ≠ .mag) (s : State) (upTo : Nat) : q.same s (clearDeferred s upTo) := by
  unfold clearDeferred
  split
  · exact same_modMag h s _
  · exact .refl q s

theorem same_deferredRead {q : Part} (h : q ∉ [.mag, .flt]) (u : State) (l : List DefErr) (clear : Bool) :
    q.same u (deferredRead u l clear) := by
  obtain ⟨hmag, hflt⟩ : q ≠ .mag ∧ q ≠ .flt := by simpa using h
  unfold deferredRead
  split
  · exact (same_clearDeferred hmag u _).trans (same_journalCommit hflt _)
  · exact .refl q u

/-- The head of the page. -/
def deferredHead (s : State) (l : List DefErr) : List Byte :=
  [0x21, 0x01] ++ leBytes 2 l.length ++ leBytes 4 (min ((s.mag.vol.map (·.attachments)).getD 0) 0xFFFFFFFF) ++ zeros 8

theorem deferredHead_spec (s : State) (l : List DefErr) :
    (deferredHead s l).length = 16 ∧ (deferredHead s l).take 4 = [0x21, 1] ++ leBytes 2 l.length := by
  refine ⟨by simp [deferredHead], ?_⟩
  rw [deferredHead, List.append_assoc, List.take_left' (by simp)]

section
variable {s : State} {p : Party} {k : Fin 32} {buf : HostBuf} {req : List Byte} {segs : List (Nat × Nat)} (hl : s.live = true)
  (ha : asks s p k.val 0x0A01 req) (hbus : busMaster s p = true) (hsegs : partySegs s p (descAt req 0x20) buf = some (segs, true))
include hl ha hbus hsegs

theorem logGet_deferred {v : Vol} {l : List DefErr} {bs : List Byte} (hpage : (byteAt req 0x10).toNat = 0x21) (hb : boundVf s p = true)
    (hv : s.mag.vol = some v) (hents : l = (v.defs.drop (leAt req 0x14 4)).take (min (leAt req 0x18 4) 1024))
    (hbs : bs = l.flatMap defBytes) (hroom : 16 + bs.length ≤ segTotal segs) :
    ∃ t, exec (.logGet p k buf) s = .next t ∧
      answered t p k.val 0 (l.length % 2 ^ 32) ((leAt req 0x14 4 + l.length) % 2 ^ 32) ∧
      (∃ h, h.length = 16 ∧ h.take 4 = [0x21, 1] ++ leBytes 2 l.length ∧ delivered s t p segs (h ++ bs)) ∧
      ((byteAt req 0x11).toNat = 0 → onlyChanges delivering s t) ∧
      ((byteAt req 0x11).toNat = 1 → s.mag.st = .mounted →
        ∀ e, l.getLast? = some e → (t.mag.vol.map (·.defs)) = some (v.defs.filter fun d => decide (e.seq < d.seq))) ∧
      onlySlot p k.val s t ∧ onlyChanges (.mag :: .flt :: delivering) s t := by
  have hk := asks_slot ha
  let bytes := deferredHead s l ++ bs
  let u := putOut (drawn s p k s.free) p segs bytes
  let clear := (byteAt req 0x11).getLsbD 0
  obtain ⟨hlen, hhead⟩ := deferredHead_spec s l
  have hroom' : bytes.length ≤ segTotal segs := by rw [List.length_append, hlen]; exact hroom
  have hput {q : Part} (hq : q ∉ [.per, .imp, .out]) : q.same (mbxTake s p k) u := same_putOut hq (mbxTake s p k) p segs bytes
  have hmag : u.mag = s.mag := Eq.trans (hput (q := .mag) (by decide)) (mag_mbxTake s p k)
  have hread {q : Part} (hq : q ∉ [.mag, .flt]) : q.same u (deferredRead u l clear) := same_deferredRead hq u l clear
  have hpart (q : Part) (hq : q ∉ Part.mag :: .flt :: delivering) : q.same (mbxTake s p k) (deferredRead u l clear) :=
    (hput fun hx => hq (by simp [delivering, answering] at hx ⊢; tauto)).trans (hread fun hx => hq (by simp at hx ⊢; tauto))
  obtain ⟨hslot, hchange⟩ := done_spec hk hpart (by decide) ((hput (q := .regs) (by decide)).trans (hread (q := .regs) (by decide)))
    stSuccess 0 l.length (leAt req 0x14 4 + l.length) []
  refine ⟨done s (deferredRead u l clear) p k stSuccess 0 l.length (leAt req 0x14 4 + l.length) [], ?_,
    answered_done_mod hk (status := stSuccess) (by decide) .., ⟨deferredHead s l, hlen, hhead,
      delivered_done hk s.free hroom' (hread (q := .per) (by decide)) (hread (q := .out) (by decide)) ..⟩,
    fun hkeep => ?_, fun hclear hst e he => ?_, hslot, hchange⟩
  · have hdefs : ((mbxTake s p k).mag.vol.map (·.defs)).getD [] = v.defs := by rw [mag_mbxTake, hv]; rfl
    have hmagt := mag_mbxTake s p k
    rw [logGet_of_bound hl buf ha hb, logPage, if_neg (by omega), if_neg (by omega), logDeferred]
    dsimp only
    rw [hdefs, ← hents, ← hbs, hmagt]
    exact congrArg (fun t => Host.Outcome.next (endCycle s t)) (mbxSend_drawn hk s.free hbus hsegs hroom' _)
  · have hoff : clear = false := by
      have h0 : byteAt req 0x11 = 0 := BitVec.eq_of_toNat_eq hkeep
      simp [clear, h0]
    rw [hoff, deferredRead_kept]
    exact (done_spec hk (fun q hq => hput fun hx => hq (by simp [delivering, answering] at hx ⊢; tauto)) (by decide)
      (hput (q := .regs) (by decide)) ..).2
  · have hon : clear = true := by
      have h1 : byteAt req 0x11 = 1 := BitVec.eq_of_toNat_eq hclear
      simp [clear, h1]
    have hcommit (x : State) : (journalCommit x).mag = x.mag := same_journalCommit (q := .mag) (by decide) x
    rw [endCycle_mag, same_mbxDone (q := .mag) (by decide), hon, deferredRead_cleared he, hcommit, clearDeferred, hmag, if_pos hst]
    simp [modVol, modMag, hmag, hv]

end

/-- A page of the device's logs is INVALID_OPCODE to a VF, and the deferred errors INVALID_FIELD to one with no queue on the volume. -/
theorem logGet_vf {s : State} {n : Fin 63} {k : Fin 32} {buf : HostBuf} {req : List Byte} {page : Nat} (hl : s.live = true)
    (hpg : page = (byteAt req 0x10).toNat) (hreq : mbxReq s (.vf n) k.val = req) (hstate : mbxState s (.vf n) k.val = 1)
    (hop : leAt req 0 2 = 0x0A01) (hon : serviceOn s = true) (hfree : targetHeld s (.vf n) k.val (mbxTarget 0x0A01 req) = false)
    (hrun : runCount s < 16)
    (hpage : page = 1 ∨ page = 2 ∨ (page = 0x21 ∧ firstBad (.vf n) 0x0A01 req = none ∧ boundVf s (.vf n) = false)) :
    ∃ t, exec (.logGet (.vf n) k buf) s = .next t ∧
      answered t (.vf n) k.val (if page = 0x21 then stInvalidField else stInvalidOpcode) 0 (if page = 0x21 then 0x10 else 0) ∧
      onlySlot (.vf n) k.val s t ∧ onlyChanges answering s t := by
  have hk : k.val < mbxSlots (.vf n) := k.isLt
  by_cases h21 : page = 0x21
  · obtain ⟨-, hbad, hb⟩ : page = 0x21 ∧ firstBad (.vf n) 0x0A01 req = none ∧ boundVf s (.vf n) = false := by
      rcases hpage with hp | hp | hp
      · omega
      · omega
      · exact hp
    have hpermits : ((mbxCmdOf 0x0A01).any fun c => c.permits (.vf n)) = true := rfl
    have hbar : pageBarred (.vf n) 0x0A01 req = false := by simp [pageBarred, ← hpg, h21]
    rw [if_pos h21, if_pos h21]
    exact ⟨_, logGet_of_unbound hl buf ⟨⟨hreq, hstate, hk, hop, hon, hfree, hrun, hbar, hpermits⟩, hbad⟩ hb,
      refused_spec hk (by decide) (by decide) (by decide)⟩
  · have hbar : pageBarred (.vf n) 0x0A01 req = true := by
      rcases hpage with hp | hp | ⟨hp, -⟩
      · simp [pageBarred, ← hpg, hp]
      · simp [pageBarred, ← hpg, hp]
      · exact absurd hp h21
    rw [if_neg h21, if_neg h21]
    refine ⟨_, ?_, refused_spec hk (status := stInvalidOpcode) (by decide) (by decide) (by decide)⟩
    rw [exec_logGet, inCore_of_live hl, serve_of_barred hreq hstate hk hop hon hfree hrun hbar rfl]

end Sys2Proof.Machine
end

section
/-! Proof of the statement about the mailbox commands of logs, ports, takes and the magazine: EDP_AUX (R299, R389) and SDP_GET (R307). -/

namespace Sys2Proof.Machine
open Sys2Proof

/-! ### Fields of a request within their ranges (R381) -/

theorem badRange_of_badAt {c : MbxCmd} {p : Party} {req : List Byte} (h : c.badAt p req = none) : badRange p c.code req = none := by
  unfold MbxCmd.badAt at h
  split at h
  · cases h
  · cases h
  · exact h

/-- The parameters of a request that passes the checks of R381 are in the ranges that its command gives them. -/
theorem inRange_of_asks {s : State} {p : Party} {slot op : Nat} {req : List Byte} (h : asks s p slot op req) :
    ∀ e ∈ mbxRanges p op req, e.2 = false := by
  obtain ⟨⟨-, -, -, -, -, -, -, -, hpermits⟩, hbad⟩ := h
  obtain ⟨c, hc, -⟩ := (Option.any_eq_true _ _).mp hpermits
  obtain rfl : c.code = op := by simpa using List.find?_some hc
  rw [firstBad, hc, Option.bind_some] at hbad
  have hfind : (mbxRanges p c.code req).find? (·.2) = none := Option.map_eq_none_iff.mp (badRange_of_badAt hbad)
  exact fun e he => Bool.eq_false_iff.mpr (List.find?_eq_none.mp hfind e he)

/-- An AUX transaction moves 1 to 16 bytes. -/
theorem auxBytes_le {s : State} {p : Party} {slot : Nat} {req : List Byte} (h : asks s p slot 0x0701 req) :
    (byteAt req 0x18).toNat ≤ 16 := by
  have hrange := inRange_of_asks h (0x18, outOf 1 16 (byteAt req 0x18).toNat) (by simp [mbxRanges])
  simpa [outOf] using (Bool.or_eq_false_iff.mp hrange).2

/-! ### The transaction (R299) -/

/-- A transaction put out at a port. -/
def auxPut (u : State) (x : Fin 2) (wr : Bool) (req : List Byte) : State :=
  emit u (.aux x.val wr (leAt req 0x14 4) (if wr = true then (req.drop 0x20).take (byteAt req 0x18).toNat else []))

/-- A port that was training, up or in self-refresh trains anew where a write has changed its sink's link state. -/
def auxWritten (u : State) (x : Fin 2) (y : EdpPort) (relinks : Bool) : State :=
  if relinks = true ∧ (y.st = 1 ∨ y.st = 2 ∨ y.st = 3) then setEdp (journalCommit u) x.val { y with st := 1, unchanged := 0, wake := 0 }
  else journalCommit u

/-- What the sink's answer comes to. -/
def auxServed (u : State) (p : Party) (slot : Nat) (x : Fin 2) (y : EdpPort) (ack : Option (List Byte)) (relinks wr : Bool)
    (req : List Byte) : State := match ack with
  | none => mbxReply u p slot stNotReady 0 0 0
  | some l => if wr = true then mbxReply (auxWritten u x y relinks) p slot stSuccess 0 0 0
    else mbxDone u p slot stSuccess 0 0 0 (padTo (byteAt req 0x18).toNat l)

/-- A transaction that either reads, has leave, or meets no live link is not refused for the link's sake. -/
theorem mayDisturb {st : Nat} {wr allow : Bool} (h : wr = true → allow = false → st ≠ 1 ∧ st ≠ 2 ∧ st ≠ 3) :
    ¬ (wr = true ∧ (st = 1 ∨ st = 2 ∨ st = 3) ∧ ¬ allow = true) := by
  rintro ⟨hw, hst, hallow⟩
  have := h hw (Bool.eq_false_iff.mpr hallow)
  omega

theorem findPort_val : ∀ x : Fin 2, ((List.finRange 2).find? fun (k : Fin 2) => decide (k.val = x.val)) = some x := by decide

section
variable {s : State} {p : Party} {k : Fin 32} {ack : Option (List Byte)} {relinks wr : Bool} {req : List Byte} {x : Fin 2}
  (hl : s.live = true) (ha : asks s p k.val 0x0701 req) (hx : (byteAt req 0x10).toNat = x.val)
  (hwr : (byteAt req 0x11).toNat = (if wr = true then 1 else 0))
include hl ha hx hwr

theorem edpAux_of_asks : exec (.edpAux p k ack relinks) s = .next (endCycle s
    (if wr = true ∧ ((s.dsp.ports[x]).st = 1 ∨ (s.dsp.ports[x]).st = 2 ∨ (s.dsp.ports[x]).st = 3) ∧ ¬ allowDisrupt req = true then
        mbxReply (mbxTake s p k) p k stInService 0 0 0
      else if ¬ (s.dsp.ports[x]).hpd = true then mbxReply (mbxTake s p k) p k stNotReady 0 0 0
      else auxServed (auxPut (mbxTake s p k) x wr req) p k x s.dsp.ports[x] ack relinks wr req)) := by
  have hbit : (byteAt req 0x11).getLsbD 0 = wr := by
    rw [show byteAt req 0x11 = BitVec.ofNat 8 (if wr = true then 1 else 0) from BitVec.eq_of_toNat_eq (by rw [hwr]; cases wr <;> rfl)]
    cases wr <;> rfl
  have hdsp : (mbxTake s p k).dsp = s.dsp := same_mbxTake (q := .dsp) (by decide) s p k
  rw [show exec (.edpAux p k ack relinks) s = execEdpAux p k ack relinks s from rfl, execEdpAux, inCore_of_live hl, serve_of_asks ha]
  dsimp only
  rw [hx, findPort_val, hbit, hdsp]
  cases ack <;> rfl

theorem edpAux_of_live (hw : wr = true) (hallow : allowDisrupt req = false)
    (hst : (s.dsp.ports[x]).st = 1 ∨ (s.dsp.ports[x]).st = 2 ∨ (s.dsp.ports[x]).st = 3) :
    exec (.edpAux p k ack relinks) s = .next (replied s (mbxTake s p k) p k stInService 0 0 0) := by
  rw [edpAux_of_asks hl ha hx hwr, if_pos ⟨hw, hst, by simp [hallow]⟩]

variable (hfree : wr = true → allowDisrupt req = false →
  (s.dsp.ports[x]).st ≠ 1 ∧ (s.dsp.ports[x]).st ≠ 2 ∧ (s.dsp.ports[x]).st ≠ 3)
include hfree

theorem edpAux_of_low (hpd : (s.dsp.ports[x]).hpd = false) :
    exec (.edpAux p k ack relinks) s = .next (replied s (mbxTake s p k) p k stNotReady 0 0 0) := by
  rw [edpAux_of_asks hl ha hx hwr, if_neg (mayDisturb hfree), if_pos (Bool.eq_false_iff.mp hpd)]

theorem edpAux_of_high (hpd : (s.dsp.ports[x]).hpd = true) : exec (.edpAux p k ack relinks) s = .next (endCycle s
    (auxServed (auxPut (mbxTake s p k) x wr req) p k x s.dsp.ports[x] ack relinks wr req)) := by
  rw [edpAux_of_asks hl ha hx hwr, if_neg (mayDisturb hfree), if_neg (not_not_intro hpd)]

end

theorem same_dsp {q : Part} (h : q ≠ .dsp) (s : State) (x : DspBlk) : q.same s { s with dsp := x } := by
  cases q
  case dsp => exact absurd rfl h
  all_goals rfl

theorem same_setEdp {q : Part} (h : q ∉ [.dsp, .regs]) (s : State) (x : Nat) (y : EdpPort) : q.same s (setEdp s x y) := by
  obtain ⟨hdsp, hregs⟩ : q ≠ .dsp ∧ q ≠ .regs := by simpa using h
  exact (same_dsp hdsp s _).trans (same_regSet hregs _ _ _)

theorem same_auxWritten {q : Part} (h : q ∉ [.dsp, .regs, .flt]) (u : State) (x : Fin 2) (y : EdpPort) (relinks : Bool) :
    q.same u (auxWritten u x y relinks) := by
  have hcommit := same_journalCommit (q := q) (by rintro rfl; simp at h) u
  unfold auxWritten
  split
  · exact hcommit.trans (same_setEdp (fun hm => h (by simp at hm ⊢; tauto)) _ _ _)
  · exact hcommit

theorem regGet_auxWritten (u : State) (x : Fin 2) (y : EdpPort) (relinks : Bool) {j : Nat} (h : j ≠ edpStateReg x.val) :
    regGet (auxWritten u x y relinks) j = regGet u j := by
  have hcommit : (journalCommit u).regs = u.regs := same_journalCommit (q := .regs) (by decide) u
  unfold auxWritten
  split
  · rw [setEdp, regGet_regSet_ne _ _ _ _ h]
    exact regGet_congr _ _ hcommit j
  · exact regGet_congr _ _ hcommit j

theorem st_auxWritten (u : State) (x : Fin 2) {y : EdpPort} (h : y.st = 2) : ((auxWritten u x y true).dsp.ports[x]).st = 1 := by
  rw [auxWritten, if_pos ⟨rfl, .inr (.inl h)⟩, setEdp, regSet_dsp, vMod_getElem_self]

theorem auxWritten_kept (u : State) (x : Fin 2) (y : EdpPort) : auxWritten u x y false = journalCommit u := if_neg (by simp)

section
variable {s u : State} {p : Party} {k : Fin 32} {x : Fin 2} {wr : Bool} {req : List Byte} (hk : k.val < mbxSlots p)

/-- What was put out is among what has gone out once the request is answered. -/
theorem aux_mem_done (hout : u.out = (auxPut (mbxTake s p k) x wr req).out) (status detail r0 r1 : Nat) (data : List Byte) :
    .aux x.val wr (leAt req 0x14 4) (if wr = true then (req.drop 0x20).take (byteAt req 0x18).toNat else []) ∈
      (done s u p k status detail r0 r1 data).out := by
  rw [endCycle_out]
  refine (out_mbxDone u p k status detail r0 r1 data).mem ?_
  rw [hout]
  exact List.mem_cons_self

include hk

theorem auxPut_spec (status detail r0 r1 : Nat) (data : List Byte) :
    onlySlot p k s (done s (auxPut (mbxTake s p k) x wr req) p k status detail r0 r1 data) ∧
      onlyChanges answering s (done s (auxPut (mbxTake s p k) x wr req) p k status detail r0 r1 data) :=
  done_spec hk (fun q hq => same_emit (by rintro rfl; exact hq (by decide)) _ _) (fun _ hq => hq) rfl ..

/-- A write that the sink has taken. -/
theorem auxWritten_spec (y : EdpPort) (relinks : Bool) {t : State}
    (ht : t = replied s (auxWritten (auxPut (mbxTake s p k) x wr req) x y relinks) p k stSuccess 0 0 0) :
    answered t p k 0 0 0 ∧ (relinks = true → y.st = 2 → (t.dsp.ports[x]).st = 1) ∧
      (relinks = false → onlyChanges (.flt :: answering) s t) ∧ onlyChanges (.dsp :: .flt :: answering) s t ∧
      onlySlotAnd [edpStateReg x.val] p k s t := by
  subst ht
  have hput (q : Part) (hq : q ≠ .out) : q.same (mbxTake s p k) (auxPut (mbxTake s p k) x wr req) := same_emit hq _ _
  refine ⟨answered_replied hk 0 (status := stSuccess) (by decide) (by decide) (by decide), fun hre hy => ?_, fun hre => ?_,
    onlyChanges_done (by decide) (fun q hq => ?_) .., onlySlotAnd_done hk (fun j hj _ => ?_) _ _ _ _ _⟩
  · rw [hre, endCycle_dsp, mbxReply, same_mbxDone (q := .dsp) (by decide), st_auxWritten _ _ hy]
  · rw [hre, auxWritten_kept]
    exact onlyChanges_done (by decide) (fun q hq => (hput q (by rintro rfl; exact hq (by decide))).trans
      (same_journalCommit (by rintro rfl; exact hq (by decide)) _)) ..
  · exact (hput q (by rintro rfl; exact hq (by decide))).trans
      (same_auxWritten (fun hm => hq (by simp [answering] at hm ⊢; tauto)) _ _ _ _)
  · exact regGet_auxWritten _ _ _ _ (by simpa using hj)

end

section
variable {s : State} {p : Party} {k : Fin 32} {ack : Option (List Byte)} {relinks wr : Bool} {req : List Byte} {x : Fin 2} {n : Nat}
  (hl : s.live = true) (ha : asks s p k.val 0x0701 req) (hx : (byteAt req 0x10).toNat = x.val)
  (hwr : (byteAt req 0x11).toNat = (if wr = true then 1 else 0)) (hn : n = (byteAt req 0x18).toNat)
include hl ha hx hwr hn

/-- A transaction at a port whose HPD is high, by what the sink answers. -/
theorem edpAux_spec (hfree : wr = true → allowDisrupt req = false →
      (s.dsp.ports[x]).st ≠ 1 ∧ (s.dsp.ports[x]).st ≠ 2 ∧ (s.dsp.ports[x]).st ≠ 3) (hpd : (s.dsp.ports[x]).hpd = true) :
    ∃ t, exec (.edpAux p k ack relinks) s = .next t ∧
      .aux x.val wr (leAt req 0x14 4) (if wr = true then (req.drop 0x20).take n else []) ∈ t.out ∧
      (ack = none → answered t p k.val stNotReady 0 0 ∧ onlyChanges answering s t) ∧
      (∀ l, ack = some l → wr = false → answered t p k.val 0 0 0 ∧
        (bytesOf (regWords t (mbxBase p k.val + 0x210) 4)).take n = padTo n l ∧ onlyChanges answering s t) ∧
      (∀ l, ack = some l → wr = true → answered t p k.val 0 0 0 ∧
        (relinks = true → (s.dsp.ports[x]).st = 2 → (t.dsp.ports[x]).st = 1) ∧
        (relinks = false → onlyChanges (.flt :: answering) s t)) ∧
      onlyChanges (.dsp :: .flt :: answering) s t ∧ onlySlotAnd [edpStateReg x.val] p k.val s t := by
  have hk := asks_slot ha
  subst hn
  have hexec := edpAux_of_high (ack := ack) (relinks := relinks) hl ha hx hwr hfree hpd
  have hmore {t : State} (h : onlyChanges answering s t) : onlyChanges (.dsp :: .flt :: answering) s t :=
    ⟨fun q hq => h.1 q fun hm => hq (List.mem_cons_of_mem _ (List.mem_cons_of_mem _ hm)), fun _ => h.2 (by decide)⟩
  cases ack with
  | none =>
    obtain ⟨hslot, hchange⟩ := auxPut_spec (s := s) (x := x) (wr := wr) (req := req) hk stNotReady 0 0 0 []
    exact ⟨_, hexec, aux_mem_done rfl .., fun _ => ⟨answered_replied hk 0 (by decide) (by decide) (by decide), hchange⟩, nofun, nofun,
      hmore hchange, fun j _ => hslot j⟩
  | some l =>
    cases wr with
    | false =>
      have hdata := padTo_length (byteAt req 0x18).toNat l
      have hle := auxBytes_le ha
      obtain ⟨hslot, hchange⟩ := auxPut_spec (s := s) (x := x) (wr := false) (req := req) hk stSuccess 0 0 0
        (padTo (byteAt req 0x18).toNat l)
      refine ⟨_, hexec, aux_mem_done rfl .., nofun, fun l' hl' _ => ?_, nofun, hmore hchange, fun j _ => hslot j⟩
      obtain rfl := Option.some.inj hl'
      refine ⟨answered_done hk 0 _ (status := stSuccess) (by decide) (by decide) (by decide), ?_, hchange⟩
      have htake := data_done_take (s := s) (u := auxPut (mbxTake s p k) x false req) hk (data := padTo (byteAt req 0x18).toNat l) (m := 4)
        (by omega) (by decide) stSuccess 0 0 0
      rw [hdata] at htake
      exact htake
    | true =>
      obtain ⟨hans, htrain, hkept, hchange, hslot⟩ := auxWritten_spec (s := s) (x := x) (wr := true) (req := req) hk s.dsp.ports[x] relinks rfl
      exact ⟨_, hexec, aux_mem_done (same_auxWritten (q := .out) (by decide) _ _ _ _) .., nofun, nofun,
        fun _ _ _ => ⟨hans, htrain, hkept⟩, hchange, hslot⟩

end

/-! ### SDP_GET (R307) -/

section
variable {s : State} {p : Party} {k : Fin 32} {buf : HostBuf} {req : List Byte} {i : Fin 48} (hl : s.live = true)
  (ha : asks s p k.val 0x0801 req) (hi : (byteAt req 0x10).toNat = i.val)
include hl ha hi

theorem sdpGet_of_asks : exec (.sdpGet p k buf) s = .next (endCycle s
    (if ¬ bit (rmGet (s.net.snds[i]).cfg (0x141000 + 0x80 * i.val)) 31 = true then mbxReply (mbxTake s p k) p k stNotReady 0 0 0
      else mbxSend (drawn s p k (s.free + 2)) p k (descAt req 0x20) buf (freeBytesFrom (s.free + 1) 0 (Config.freeNat s.free))
        fun u => mbxReply u p k stSuccess 0 (Config.freeNat s.free) 0)) := by
  have hnet : (mbxTake s p k).net = s.net := same_mbxTake (q := .net) (by decide) s p k
  have hsnd : s.net.snds.toList[i.val]? = some s.net.snds[i] := by simp
  rw [show exec (.sdpGet p k buf) s = execSdpGet p k buf s from rfl, execSdpGet, inCore_of_live hl, serve_of_asks ha]
  dsimp only
  rw [hi, hnet, hsnd, Option.any_some]
  rfl

theorem sdpGet_off (hoff : bit (rmGet (s.net.snds[i]).cfg (0x141000 + 0x80 * i.val)) 31 = false) :
    exec (.sdpGet p k buf) s = .next (replied s (mbxTake s p k) p k stNotReady 0 0 0) := by
  rw [sdpGet_of_asks hl ha hi, if_pos (Bool.eq_false_iff.mp hoff)]

theorem sdpGet_on {segs : List (Nat × Nat)} (hon : bit (rmGet (s.net.snds[i]).cfg (0x141000 + 0x80 * i.val)) 31 = true)
    (hbus : busMaster s p = true) (hsegs : partySegs s p (descAt req 0x20) buf = some (segs, true)) :
    ∃ t, exec (.sdpGet p k buf) s = .next t ∧
      (Config.freeNat s.free ≤ segTotal segs → answered t p k.val 0 (Config.freeNat s.free % 2 ^ 32) 0) ∧
      (segTotal segs < Config.freeNat s.free → answered t p k.val stInvalidField (Config.freeNat s.free % 2 ^ 32) 0) ∧
      onlySlot p k.val s t ∧ onlyChanges (.free :: delivering) s t := by
  have hk := asks_slot ha
  have hlen : (freeBytesFrom (s.free + 1) 0 (Config.freeNat s.free)).length = Config.freeNat s.free := freeBytesFrom_length ..
  have hexec := sdpGet_of_asks (buf := buf) hl ha hi
  rw [if_neg (not_not_intro hon)] at hexec
  by_cases hroom : Config.freeNat s.free ≤ segTotal segs
  · rw [mbxSend_drawn hk _ hbus hsegs (by rwa [hlen])] at hexec
    exact ⟨_, hexec, fun _ => answered_done_mod hk (status := stSuccess) (by decide) 0 _ 0 [], fun h => absurd h (by omega),
      done_spec hk (fun q hq => same_putOut_drawn (fun hm => hq (by simp [delivering, answering] at hm ⊢; tauto)) ..) (by decide)
        (same_putOut_drawn (q := .regs) (by decide) ..) ..⟩
  · rw [mbxSend, mbxRoom_drawn hk _ hbus hsegs, hlen, if_pos (by omega)] at hexec
    obtain ⟨hslot, hchange⟩ := done_spec (s := s) (u := drawn s p k (s.free + 2)) (l := .free :: delivering) hk
      (fun q hq => same_drawn (by rintro rfl; exact hq (by decide)) s p k _) (by decide) rfl stInvalidField 0 (Config.freeNat s.free) 0 []
    have hans := answered_done_mod (s := s) (u := drawn s p k (s.free + 2)) hk (status := stInvalidField) (by decide) 0
      (Config.freeNat s.free) 0 []
    exact ⟨_, hexec, fun h => absurd h hroom, fun _ => hans, hslot, hchange⟩

end

end Sys2Proof.Machine
end

section
/-! Proof of the statement about the mailbox commands of logs, ports, takes and the magazine: TAKE_START and TAKE_INFO (R221, R245, R390). -/

namespace Sys2Proof.Machine
open Sys2Proof

theorem same_gal {q : Part} (h : q ≠ .gal) (s : State) (x : GalBlk) : q.same s { s with gal := x } := by
  cases q
  case gal => exact absurd rfl h
  all_goals rfl

theorem freeSectors_congr {s t : State} (h : t.mag = s.mag) : freeSectors t = freeSectors s := by
  unfold freeSectors usedSectors geoOf
  rw [h]

theorem takeOpen_mbxTake (s : State) (p : Party) (slot : Nat) : takeOpen (mbxTake s p slot) = takeOpen s := by
  unfold takeOpen
  rw [mag_mbxTake]

/-! ### A take opened (R221) -/

/-- The clock of waiting take units changes the galley alone, where no take content is stuck. -/
theorem same_syncWait {q : Part} (h : q ≠ .gal) {s : State} (hst : s.mag.st = .mounted) : q.same s (syncWait s) := by
  have hstuck : loseStuck s = s := if_neg (by rw [hst]; decide)
  unfold syncWait
  rw [hstuck]
  dsimp only
  split
  · exact same_gal h s _
  · exact same_gal h s _
  · exact .refl q s

theorem mag_syncWait {s : State} (hst : s.mag.st = .mounted) : (syncWait s).mag = s.mag := same_syncWait (q := .mag) (by decide) hst

/-- A take newly opened. -/
def newTake (s : State) (v : Vol) (mask : Nat) (name : List Byte) : Take :=
  { ident := v.nextTake, state := 0, slots := mask, cause := 0, streams := magStreams s, startNs := 0, startSec := 0, endNs := 0,
    endSec := 0, frames := Vector.replicate 8 0, name := name, timecode := 0, index := [] }

section
variable {s : State} {v : Vol} (hv : s.mag.vol = some v) (hst : s.mag.st = .mounted) (mask : Nat) (name : List Byte)
include hst

theorem same_openTake {q : Part} (h : q ∉ [.mag, .gal]) : q.same s (openTake s v mask name) := by
  obtain ⟨hmag, hgal⟩ : q ≠ .mag ∧ q ≠ .gal := by simpa using h
  unfold openTake
  extract_lets t u slots w mine
  have hu : q.same s w := (same_modMag hmag s _).trans (same_modMag hmag u _)
  exact (hu.trans (same_gal hgal w _)).trans (same_syncWait hgal hst)

include hv

theorem mag_openTake : (openTake s v mask name).mag =
    { s.mag with
      vol := some { v with
        takes := v.takes ++ [newTake s v mask name], nextTake := v.nextTake + 1, records := v.records ++ [takeRec (newTake s v mask name)] }
      takeSlots := s.mag.takeSlots ++ (maskSlots mask).map fun n => { slot := n.val, take := v.nextTake, last := none, full := false } } := by
  unfold openTake
  extract_lets t u slots w mine
  have hmag : (setItems w (w.gal.items.map fun i => if mine i then { i with take := some t.ident } else i)).mag = w.mag := rfl
  rw [mag_syncWait (hmag ▸ hst), hmag]
  dsimp only [w, u, slots, modVol, modMag]
  rw [hv]
  rfl

end

/-- A slot with a take that has no last frame yet is in a take. -/
theorem inTake_of_mem {s : State} {x : TakeSlot} (h : x ∈ s.mag.takeSlots) (hlast : x.last = none) : inTake s x.slot = true :=
  List.any_eq_true.mpr ⟨x, h, by simp [hlast]⟩

/-! ### TAKE_START (R390) -/

section
variable {s : State} {p : Party} {k : Fin 32} {req : List Byte} {mask : Nat} {v : Vol} (hl : s.live = true)
  (ha : asks s p k.val 0x0501 req) (hmask : mask = (byteAt req 0x10).toNat) (hne : mask ≠ 0) (hv : s.mag.vol = some v)
  (hslots : ∀ n ∈ maskSlots mask, unmasked s n.val = true ∧ trbOn s.regs n.val = true ∧ inTake s n.val = false)

include ha hne hslots in
/-- No slot of the mask keeps the take from starting. -/
theorem takeSlots_good : (decide (mask = 0) || (maskSlots mask).any fun n => !unmasked (mbxTake s p k) n.val ||
    !trbOn (mbxTake s p k).regs n.val || inTake (mbxTake s p k) n.val) = false := by
  have hk := asks_slot ha
  have htrb (n : Fin 8) : trbOn (mbxTake s p k).regs n.val = trbOn s.regs n.val :=
    regBit_mbxTake hk s (j := 0xE0000 + 0x40 * n.val) (by unfold outsideMbx; omega) 31
  have hany : ((maskSlots mask).any fun n => !unmasked (mbxTake s p k) n.val || !trbOn (mbxTake s p k).regs n.val ||
      inTake (mbxTake s p k) n.val) = false := by
    refine List.any_eq_false.mpr fun n hn => ?_
    obtain ⟨hun, hon, hin⟩ := hslots n hn
    rw [unmasked_mbxTake hk, htrb, inTake_mbxTake, hun, hon, hin]
    decide
  rw [hany, decide_eq_false hne]
  rfl

theorem thermalLatched_mbxTake {slot : Nat} (h : slot < mbxSlots p) : thermalLatched (mbxTake s p slot) = thermalLatched s :=
  regBit_mbxTake h s (by unfold outsideMbx; omega) 31

include hl ha hmask hne hslots

theorem takeStart_hot (hot : thermalLatched s = true) :
    exec (.takeStart p k) s = .next (replied s (mbxTake s p k) p k stThermal 0 0 0) := by
  have hk := asks_slot ha
  rw [show exec (.takeStart p k) s = execTakeStart p k s from rfl, execTakeStart, inCore_of_live hl, serve_of_asks ha]
  dsimp only
  rw [← hmask, takeSlots_good ha hne hslots, if_neg Bool.false_ne_true, thermalLatched_mbxTake hk, if_pos hot]

include hv

theorem takeStart_opens (cool : thermalLatched s = false) (hst : s.mag.st = .mounted) (hblank : s.mag.blank = false)
    (hpower : s.mag.power ≤ 1) (hroom : v.sectors ≤ freeSectors s * 128) :
    exec (.takeStart p k) s = .next (done s (journalCommit (openTake (mbxTake s p k) v mask ((req.drop 0x20).take 32))) p k
      stSuccess 0 v.nextTake 0 []) := by
  have hk := asks_slot ha
  have hserved : ¬ (s.mag.st ≠ .mounted ∨ s.mag.blank = true ∨ 1 < s.mag.power) := by simp [hst, hblank]; omega
  rw [show exec (.takeStart p k) s = execTakeStart p k s from rfl, execTakeStart, inCore_of_live hl, serve_of_asks ha]
  dsimp only
  rw [← hmask, takeSlots_good ha hne hslots, if_neg Bool.false_ne_true, thermalLatched_mbxTake hk, cool, if_neg Bool.false_ne_true,
    freeSectors_congr (mag_mbxTake s p k), mag_mbxTake, if_neg (by rw [hst]; decide), hv]
  dsimp only
  rw [if_neg hserved, if_neg (Nat.not_lt.mpr hroom)]
  rfl

theorem takeStart_spec (cool : thermalLatched s = false) (hst : s.mag.st = .mounted) (hblank : s.mag.blank = false)
    (hpower : s.mag.power ≤ 1) (hroom : v.sectors ≤ freeSectors s * 128) :
    ∃ t w x, exec (.takeStart p k) s = .next t ∧ answered t p k.val 0 (v.nextTake % 2 ^ 32) 0 ∧ t.mag.vol = some w ∧
      w.takes = v.takes ++ [x] ∧ w.nextTake = v.nextTake + 1 ∧ x.ident = v.nextTake ∧ x.state = 0 ∧ x.slots = mask ∧
      x.name = (req.drop 0x20).take 32 ∧ (∀ n ∈ maskSlots mask, inTake t n.val = true) ∧ onlySlot p k.val s t ∧
      onlyChanges (.mag :: .gal :: .flt :: answering) s t := by
  have hk := asks_slot ha
  let u := openTake (mbxTake s p k) v mask ((req.drop 0x20).take 32)
  have htake := mag_mbxTake s p k
  have hst' : (mbxTake s p k).mag.st = .mounted := by rw [htake, hst]
  have hmag : u.mag = _ := mag_openTake (by rw [htake, hv]) hst' mask _
  have hpart (q : Part) (hq : q ∉ Part.mag :: .gal :: .flt :: answering) : q.same (mbxTake s p k) (journalCommit u) :=
    (same_openTake hst' mask _ (fun hm => hq (by simp at hm ⊢; tauto))).trans (same_journalCommit (by rintro rfl; simp at hq) u)
  have hregs : (journalCommit u).regs = (mbxTake s p k).regs :=
    (same_openTake (q := .regs) hst' mask _ (by decide)).trans (same_journalCommit (q := .regs) (by decide) u)
  obtain ⟨hslot, hchange⟩ := done_spec hk hpart (by decide) hregs stSuccess 0 v.nextTake 0 []
  have hdone : (done s (journalCommit u) p k stSuccess 0 v.nextTake 0 []).mag = u.mag := by
    rw [endCycle_mag, same_mbxDone (q := .mag) (by decide), same_journalCommit (q := .mag) (by decide)]
  refine ⟨_, _, newTake (mbxTake s p k) v mask ((req.drop 0x20).take 32), takeStart_opens hl ha hmask hne hv hslots cool hst hblank hpower hroom,
    answered_done_mod hk (status := stSuccess) (by decide) 0 v.nextTake 0 [], by rw [hdone, hmag], rfl, rfl, rfl, rfl, rfl, rfl,
    fun n hn => ?_, hslot, hchange⟩
  have hmem : { slot := n.val, take := v.nextTake, last := none, full := false } ∈
      (done s (journalCommit u) p k stSuccess 0 v.nextTake 0 []).mag.takeSlots := by
    rw [hdone, hmag]
    exact List.mem_append_right _ (List.mem_map.mpr ⟨n, hn, rfl⟩)
  exact inTake_of_mem hmem rfl

end

/-! ### TAKE_INFO (R390) -/

theorem takeBytes_length (x : Take) : (takeBytes x).length = 128 := by
  simp [takeBytes, List.length_flatMap]

section
variable {s : State} {p : Party} {k : Fin 32} {buf : HostBuf} {req bs : List Byte} {v : Vol} {x : Take} (hl : s.live = true)
  (ha : asks s p k.val 0x0503 req) (hv : s.mag.vol = some v)
  (hx : (v.takes.find? fun y => decide (y.ident = leAt req 0x10 4)) = some x)
  (hbs : bs = ((x.index.drop (leAt req 0x14 4)).take (leAt req 0x18 4)).flatMap idxBytes)
include hl ha hv hx hbs

theorem takeInfo_of_take : exec (.takeInfo p k buf) s = .next (endCycle s
    (if leAt req 0x18 4 = 0 then mbxDone (mbxTake s p k) p k stSuccess 0 0 0 (takeBytes x)
      else mbxSend (drawn s p k s.free) p k (descAt req 0x20) buf bs fun u => mbxDone u p k stSuccess 0 0 0 (takeBytes x))) := by
  have hfind : ((mbxTake s p k).mag.vol.bind fun v => v.takes.find? fun y => decide (y.ident = leAt req 0x10 4)) = some x := by
    rw [mag_mbxTake, hv]
    exact hx
  rw [show exec (.takeInfo p k buf) s = execTakeInfo p k buf s from rfl, execTakeInfo, inCore_of_live hl, serve_of_asks ha]
  dsimp only
  rw [hfind, hbs]
  rfl

theorem takeInfo_spec (hroom : leAt req 0x18 4 = 0 ∨
      (busMaster s p = true ∧ ∃ segs, partySegs s p (descAt req 0x20) buf = some (segs, true) ∧ bs.length ≤ segTotal segs)) :
    ∃ t, exec (.takeInfo p k buf) s = .next t ∧ answered t p k.val 0 0 0 ∧
      bytesOf (regWords t (mbxBase p k.val + 0x210) 32) = takeBytes x ∧
      (∀ segs, leAt req 0x18 4 ≠ 0 → partySegs s p (descAt req 0x20) buf = some (segs, true) → delivered s t p segs bs) ∧
      onlySlot p k.val s t ∧ onlyChanges delivering s t := by
  have hk := asks_slot ha
  have hexec := takeInfo_of_take (buf := buf) hl ha hv hx hbs
  have hdata {u : State} : bytesOf (regWords (done s u p k stSuccess 0 0 0 (takeBytes x)) (mbxBase p k + 0x210) 32) = takeBytes x :=
    data_done hk (takeBytes_length x) (by decide) ..
  have hans {u : State} : answered (done s u p k stSuccess 0 0 0 (takeBytes x)) p k 0 0 0 :=
    answered_done hk 0 _ (by decide) (by decide) (by decide)
  by_cases h0 : leAt req 0x18 4 = 0
  · rw [if_pos h0] at hexec
    exact ⟨_, hexec, hans, hdata, fun _ hne => absurd h0 hne, done_spec hk (fun q _ => .refl q _) (by decide) rfl ..⟩
  · obtain ⟨hbus, segs, hsegs, hlen⟩ := hroom.resolve_left h0
    rw [if_neg h0, mbxSend_drawn hk _ hbus hsegs hlen] at hexec
    refine ⟨_, hexec, hans, hdata, fun segs' _ hsegs' => ?_, done_spec hk (fun q hq => same_putOut (fun hm => hq (by
      simp [delivering, answering] at hm ⊢; tauto)) (mbxTake s p k) p segs bs) (by decide)
      (same_putOut (q := .regs) (by decide) (mbxTake s p k) p segs bs) ..⟩
    obtain rfl : segs = segs' := by simpa using hsegs.symm.trans hsegs'
    exact delivered_done hk s.free hlen rfl rfl ..

end

end Sys2Proof.Machine
end

section
/-! Proof of the statement about the mailbox commands of logs, ports, takes and the magazine: TAKE_STOP, and the ends of takes (R245, R250,
R390). -/

namespace Sys2Proof.Machine
open Sys2Proof

/-! ### A take that closes (R245) -/

/-- The take of a volume under a number. -/
def takeNamed (s : State) (j : Nat) : Option Take := s.mag.vol.bind fun v => v.takes.find? fun y => decide (y.ident = j)

/-- Some slot's part of a take has ended for want of room. -/
def takeFull (s : State) (j : Nat) : Bool := s.mag.takeSlots.any fun y => decide (y.take = j) && y.full

/-- A take as its end finds it. -/
def endedTake (s : State) (j : Nat) (x : Take) : Take := { x with state := 1, cause := if takeFull s j then 3 else 0 }

/-- A take that has closed, before those that wait for it are answered. -/
def takeClosed (s : State) (j : Nat) (x : Take) : State :=
  let u := modMag (modVol s fun v => { v with
      takes := putTake v.takes (endedTake s j x), records := v.records ++ [takeRec (endedTake s j x)] })
    fun m => { m with
      takeSlots := m.takeSlots.filter fun y => decide (y.take ≠ x.ident), stopping := m.stopping.filter fun y => decide (y.1 ≠ x.ident) }
  if takeFull s j then magEvent u 11 0x0C .degraded (ctxVol x.ident 0 0) else u

/-- The end of one take, where it has settled (Table MBX-7). -/
def closeTake (s : State) (j : Nat) : State :=
  if takeSettled s j then
    match takeNamed s j with
    | none => s
    | some x => (s.mag.stopping.filter fun y => decide (y.1 = x.ident)).foldl
        (fun u w => mbxReply u w.2.1 w.2.2 stSuccess 0 ((endedTake s j x).index.length - takeGaps (endedTake s j x))
          (takeGaps (endedTake s j x))) (takeClosed s j x)
  else s

theorem settleTakes_eq {s : State} {v : Vol} (hv : s.mag.vol = some v) :
    settleTakes s = ((v.takes.filter fun x => decide (x.state = 0)).map (·.ident)).foldl closeTake s := by
  unfold settleTakes
  rw [hv, List.foldl_map]
  rfl

theorem closeTake_of_unsettled {s : State} {j : Nat} (h : takeSettled s j = false) : closeTake s j = s := by
  rw [closeTake, h, if_neg Bool.false_ne_true]

/-- A take whose items wait has not settled. -/
theorem takeSettled_of_item {s : State} {j : Nat} (h : (s.gal.items.any fun y => decide (y.take = some j)) = true) :
    takeSettled s j = false := by
  rw [takeSettled, h, Bool.not_true, Bool.and_false]

theorem ident_of_takeNamed {s : State} {j : Nat} {x : Take} (h : takeNamed s j = some x) : x.ident = j := by
  obtain ⟨v, -, hx⟩ := Option.bind_eq_some_iff.mp h
  simpa using List.find?_some hx

/-- What the end of a take changes of the magazine. -/
theorem mag_takeClosed (s : State) (j : Nat) (x : Take) : (takeClosed s j x).mag =
    { s.mag with
      vol := s.mag.vol.map fun v => { v with
        takes := putTake v.takes (endedTake s j x), records := v.records ++ [takeRec (endedTake s j x)] }
      takeSlots := s.mag.takeSlots.filter fun y => decide (y.take ≠ x.ident)
      stopping := s.mag.stopping.filter fun y => decide (y.1 ≠ x.ident) } := by
  unfold takeClosed
  dsimp only
  split
  · exact event_mag ..
  · rfl

theorem same_takeClosed {q : Part} (h : q ∉ Part.mag :: reporting) (s : State) (j : Nat) (x : Take) : q.same s (takeClosed s j x) := by
  obtain ⟨hmag, hrep⟩ : q ≠ .mag ∧ q ∉ reporting := by simpa using h
  unfold takeClosed
  dsimp only
  have hu (f : Vol → Vol) (g : MagBlk → MagBlk) : q.same s (modMag (modVol s f) g) :=
    (same_modMag hmag s _).trans (same_modMag hmag (modVol s f) g)
  split
  · exact (hu _ _).trans (same_event hrep ..)
  · exact hu _ _

theorem onlyRegs_takeClosed (s : State) (j : Nat) (x : Take) : onlyRegs [0xF0080] s (takeClosed s j x) := by
  intro i hi ho
  unfold takeClosed
  dsimp only
  split
  · exact onlyRegs_event (b := .mag) rfl (modMag (modVol s _) _) 11 0x0C .degraded (ctxVol x.ident 0 0) 0 i hi ho
  · rfl

/-! ### A take put in its place -/

theorem mem_putTake {l : List Take} {x y : Take} (h : y ∈ putTake l x) : y = x ∨ (y ∈ l ∧ y.ident ≠ x.ident) := by
  unfold putTake at h
  split at h
  · obtain ⟨z, hz, rfl⟩ := List.mem_map.mp h
    by_cases hid : z.ident = x.ident
    · exact .inl (if_pos hid)
    · rw [if_neg hid]
      exact .inr ⟨hz, hid⟩
  · rename_i hnone
    rcases List.mem_append.mp h with hy | hy
    · refine .inr ⟨hy, fun hid => hnone (List.any_eq_true.mpr ⟨y, hy, by simpa using hid⟩)⟩
    · exact .inl (List.mem_singleton.mp hy)

/-- Takes under other numbers stay as they are. -/
theorem find_putTake {l : List Take} {x : Take} {i : Nat} (h : x.ident ≠ i) :
    (putTake l x).find? (fun y => decide (y.ident = i)) = l.find? fun y => decide (y.ident = i) := by
  have hpred (y : Take) : decide ((if y.ident = x.ident then x else y).ident = i) = decide (y.ident = i) := by
    by_cases hid : y.ident = x.ident
    · rw [if_pos hid, hid]
    · rw [if_neg hid]
  have hself (y : Take) (hy : y.ident = i) : (if y.ident = x.ident then x else y) = y :=
    if_neg fun hid => h (hid.symm.trans hy)
  unfold putTake
  split
  · rw [List.find?_map, show ((fun y : Take => decide (y.ident = i)) ∘ fun y => if y.ident = x.ident then x else y) =
      fun y => decide (y.ident = i) from funext hpred]
    cases hf : l.find? fun y => decide (y.ident = i) with
    | none => rfl
    | some y => exact congrArg some (hself y (by simpa using List.find?_some hf))
  · rw [List.find?_append, List.find?_cons_of_neg (by simpa using h), List.find?_nil, Option.or_none]

/-! ### The end of a take that nobody waits for -/

theorem closeTake_of_unawaited {s : State} {j : Nat} (h : ∀ y ∈ s.mag.stopping, y.1 ≠ j) :
    closeTake s j = s ∨ ∃ x, takeNamed s j = some x ∧ closeTake s j = takeClosed s j x := by
  unfold closeTake
  split
  · split
    · exact .inl rfl
    · rename_i x hx
      have hnone : (s.mag.stopping.filter fun y => decide (y.1 = x.ident)) = [] := by
        rw [ident_of_takeNamed hx, List.filter_eq_nil_iff]
        exact fun y hy => by simpa using h y hy
      rw [hnone]
      exact .inr ⟨x, hx, rfl⟩
  · exact .inl rfl

/-- A state that the ends of other takes than one lead to, while its request waits. -/
structure Awaiting (i : Nat) (s t : State) : Prop where
  parts : ∀ q : Part, q ∉ Part.mag :: reporting → q.same s t
  regs : onlyRegs [0xF0080] s t
  stopping : t.mag.stopping = s.mag.stopping
  slots : ∀ y ∈ t.mag.takeSlots, y ∈ s.mag.takeSlots
  named : takeNamed t i = takeNamed s i

theorem Awaiting.refl (i : Nat) (s : State) : Awaiting i s s := ⟨fun q _ => .refl q s, fun _ _ _ => rfl, rfl, fun _ h => h, rfl⟩

theorem Awaiting.trans {i : Nat} {s t u : State} (h : Awaiting i s t) (h' : Awaiting i t u) : Awaiting i s u :=
  ⟨fun q hq => (h.parts q hq).trans (h'.parts q hq), fun j hj ho => (h'.regs j hj ho).trans (h.regs j hj ho),
    h'.stopping.trans h.stopping, fun y hy => h.slots y (h'.slots y hy), h'.named.trans h.named⟩

/-- The end of another take. -/
theorem Awaiting.closeTake {i j : Nat} {s : State} (hne : j ≠ i) (h : ∀ y ∈ s.mag.stopping, y.1 = i) : Awaiting i s (closeTake s j) := by
  rcases closeTake_of_unawaited (j := j) (s := s) (fun y hy hj => hne (hj ▸ h y hy)) with hc | ⟨x, hx, hc⟩ <;> rw [hc]
  · exact .refl i s
  · have hid := ident_of_takeNamed hx
    refine ⟨fun q hq => same_takeClosed hq s j x, onlyRegs_takeClosed s j x, ?_, fun y hy => ?_, ?_⟩
    · rw [mag_takeClosed, hid]
      exact List.filter_eq_self.mpr fun y hy => by simpa [h y hy] using hne.symm
    · rw [mag_takeClosed] at hy
      exact List.mem_of_mem_filter hy
    · rw [takeNamed, mag_takeClosed, takeNamed]
      cases s.mag.vol with
      | none => rfl
      | some v => exact find_putTake (x := endedTake s j x) (hid.trans_ne hne)

/-- While a take's items wait, the ends of takes leave its request waiting. -/
theorem Awaiting.closeTakes {i : Nat} {s : State} (hstop : ∀ y ∈ s.mag.stopping, y.1 = i)
    (hitem : (s.gal.items.any fun y => decide (y.take = some i)) = true) (l : List Nat) : Awaiting i s (l.foldl Machine.closeTake s) := by
  induction l generalizing s with
  | nil => exact .refl i s
  | cons j l ih =>
    rw [List.foldl_cons]
    by_cases hj : j = i
    · rw [hj, closeTake_of_unsettled (takeSettled_of_item hitem)]
      exact ih hstop hitem
    · have hstep := Awaiting.closeTake hj hstop
      have hgal : (Machine.closeTake s j).gal = s.gal := hstep.parts .gal (by decide)
      exact hstep.trans (ih (by rw [hstep.stopping]; exact hstop) (by rw [hgal]; exact hitem))

/-! ### The end of the take whose request waits -/

/-- A state in which a take has ended, and its request has been answered. -/
structure TakeEnded (i : Nat) (p : Party) (slot r0 r1 : Nat) (s t : State) : Prop where
  parts : ∀ q : Part, q ∉ Part.mag :: .mbx :: reporting → q.same s t
  answer : answered t p slot 0 r0 r1
  stopping : t.mag.stopping = []
  slots : ∀ y ∈ t.mag.takeSlots, y.take ≠ i
  vol : ∃ w, t.mag.vol = some w ∧ ∀ y ∈ w.takes, y.ident = i → y.state ≠ 0

/-- The registers of a slot lie outside the fault recorder, the interrupt controller and the magazine. -/
theorem slotReg_outside {p : Party} {slot o : Nat} (h : slot < mbxSlots p) (ho : o < 0x400) :
    outsideFlt (mbxBase p slot + o) ∧ mbxBase p slot + o ∉ [0xF0080] := by
  have hb := mbxBase_bounds h
  rw [List.mem_singleton]
  unfold outsideFlt
  omega

theorem answered_of_onlyRegs {s t : State} {p : Party} {slot status r0 r1 : Nat} (h : slot < mbxSlots p) (hregs : onlyRegs [0xF0080] s t)
    (ha : answered s p slot status r0 r1) : answered t p slot status r0 r1 := by
  have hreg {o : Nat} (ho : o < 0x400) : regGet t (mbxBase p slot + o) = regGet s (mbxBase p slot + o) := by
    obtain ⟨hout, hmag⟩ := slotReg_outside h ho
    exact hregs _ hmag hout
  simpa only [answered, mbxState, regField, hreg (by decide : 4 < 0x400), hreg (by decide : 0x200 < 0x400), hreg (by decide : 0x208 < 0x400),
    hreg (by decide : 0x20C < 0x400)] using ha

theorem TakeEnded.closeTake {i j r0 r1 : Nat} {p : Party} {slot : Nat} {s t : State} (hk : slot < mbxSlots p)
    (h : TakeEnded i p slot r0 r1 s t) : TakeEnded i p slot r0 r1 s (closeTake t j) := by
  rcases closeTake_of_unawaited (j := j) (s := t) (by simp [h.stopping]) with hc | ⟨x, hx, hc⟩ <;> rw [hc]
  · exact h
  · obtain ⟨w, hw, hopen⟩ := h.vol
    refine ⟨fun q hq => (h.parts q hq).trans (same_takeClosed (fun hm => hq (by simp at hm ⊢; tauto)) t j x),
      answered_of_onlyRegs hk (onlyRegs_takeClosed t j x) h.answer, ?_, fun y hy => ?_, ?_⟩
    · rw [mag_takeClosed, h.stopping]
      rfl
    · rw [mag_takeClosed] at hy
      exact h.slots y (List.mem_of_mem_filter hy)
    · rw [mag_takeClosed, hw]
      refine ⟨_, rfl, fun y hy hid => ?_⟩
      rcases mem_putTake hy with rfl | ⟨hmem, -⟩
      · exact Nat.one_ne_zero
      · exact hopen y hmem hid

theorem takeGaps_le (x : Take) : takeGaps x ≤ x.index.length := List.length_filter_le ..

section
variable {s : State} {p : Party} {slot i : Nat} {x : Take} (hk : slot < mbxSlots p) (hstop : s.mag.stopping = [(i, p, slot)])
  (hx : takeNamed s i = some x) (hlen : x.index.length < 4294967296)
  (hslots : ∀ y ∈ s.mag.takeSlots, y.take = i → y.last.isSome = true ∧ s.ing.frames.toList.getD y.slot [] = [])
  (hitems : (s.gal.items.any fun y => decide (y.take = some i)) = false)
include hk hstop hx hlen hslots hitems

/-- With every slot's last frame known, none of its frames open, and no item waiting, the take has settled: it ends, and its request is
answered. -/
theorem TakeEnded.of_settled {t : State} (h : Awaiting i s t) :
    TakeEnded i p slot (x.index.length - takeGaps x) (takeGaps x) s (Machine.closeTake t i) := by
  have hgal : t.gal = s.gal := h.parts .gal (by decide)
  have hing : t.ing = s.ing := h.parts .ing (by decide)
  have hsettled : takeSettled t i = true := by
    rw [takeSettled, hgal, hitems, hing, Bool.not_false, Bool.and_true, List.all_eq_true]
    intro y hy
    by_cases hyi : y.take = i
    · obtain ⟨hlast, hframes⟩ := hslots y (h.slots y hy) hyi
      obtain ⟨l, hl⟩ := Option.isSome_iff_exists.mp hlast
      rw [hl, hframes]
      simp
    · simp [hyi]
  have hid := ident_of_takeNamed hx
  have hx' : takeNamed t i = some x := h.named.trans hx
  have hstop' : t.mag.stopping = [(i, p, slot)] := h.stopping.trans hstop
  have hclose : Machine.closeTake t i =
      mbxReply (takeClosed t i x) p slot stSuccess 0 (x.index.length - takeGaps x) (takeGaps x) := by
    rw [Machine.closeTake, if_pos hsettled, hx']
    dsimp only
    rw [hstop', hid, List.filter_cons_of_pos (by simp)]
    rfl
  have hgaps := takeGaps_le x
  obtain ⟨v, hv, -⟩ := Option.bind_eq_some_iff.mp hx'
  have hmag : (mbxReply (takeClosed t i x) p slot stSuccess 0 (x.index.length - takeGaps x) (takeGaps x)).mag = (takeClosed t i x).mag :=
    same_mbxDone (q := .mag) (by decide) ..
  rw [hclose]
  refine ⟨fun q hq => ?_, answered_mbxDone hk _ 0 [] (status := stSuccess) (by decide) (by omega) (by omega), ?_, fun y hy => ?_, ?_⟩
  · refine ((h.parts q fun hm => hq ?_).trans (same_takeClosed (fun hm => hq ?_) t i x)).trans (same_mbxDone (fun hm => hq ?_) ..)
    all_goals simp [reporting, answering] at hm ⊢; tauto
  · rw [hmag, mag_takeClosed, hstop', hid]
    simp
  · rw [hmag, mag_takeClosed] at hy
    have := (List.mem_filter.mp hy).2
    rw [hid] at this
    simpa using this
  · rw [hmag, mag_takeClosed, hv]
    refine ⟨_, rfl, fun y hy hyi => ?_⟩
    rcases mem_putTake hy with rfl | ⟨-, hne⟩
    · exact Nat.one_ne_zero
    · exact absurd (hyi.trans hid.symm) hne

/-- Once its turn among the takes has come, the take has ended. -/
theorem TakeEnded.closeTakes {l : List Nat} (hi : i ∈ l) :
    TakeEnded i p slot (x.index.length - takeGaps x) (takeGaps x) s (l.foldl Machine.closeTake s) := by
  have hafter (l : List Nat) : ∀ t, TakeEnded i p slot (x.index.length - takeGaps x) (takeGaps x) s t →
      TakeEnded i p slot (x.index.length - takeGaps x) (takeGaps x) s (l.foldl Machine.closeTake t) := by
    induction l with
    | nil => exact fun _ h => h
    | cons j l ih => exact fun t h => ih _ (h.closeTake hk)
  have hbefore : ∀ t, Awaiting i s t → TakeEnded i p slot (x.index.length - takeGaps x) (takeGaps x) s (l.foldl Machine.closeTake t) := by
    induction l with
    | nil => exact absurd hi List.not_mem_nil
    | cons j l ih =>
      intro t ht
      rw [List.foldl_cons]
      by_cases hj : j = i
      · rw [hj]
        exact hafter l _ (TakeEnded.of_settled hk hstop hx hlen hslots hitems ht)
      · refine ih ((List.mem_cons.mp hi).resolve_left (Ne.symm hj)) _ (ht.trans (.closeTake hj ?_))
        rw [ht.stopping, hstop]
        simp
  exact hbefore s (.refl i s)

end

/-! ### TAKE_STOP (R390) -/

/-- The last frame of each slot of a take is fixed, and its request waits for what is still to be written. -/
def takeStopped (s : State) (p : Party) (slot i : Nat) : State :=
  mbxRun (modMag (journalCommit (mbxTake s p slot)) fun m => { m with
    takeSlots := m.takeSlots.map fun y =>
      if y.take = i ∧ y.last.isNone = true then { y with last := some (lastIssued (mbxTake s p slot) y.slot) } else y
    stopping := m.stopping ++ [(i, p, slot)] }) p slot 0x0502 .magazine true i 0

theorem same_takeStopped {q : Part} (h : q ∉ [.mag, .mbx, .regs, .flt]) (s : State) (p : Party) (slot i : Nat) :
    q.same s (takeStopped s p slot i) := by
  have hne (r : Part) (hr : r ∈ [Part.mag, .mbx, .regs, .flt]) : q ≠ r := fun he => h (he ▸ hr)
  exact (((same_mbxTake (fun hm => h (by simp at hm ⊢; tauto)) s p slot).trans (same_journalCommit (hne .flt (by decide)) _)).trans
    (same_modMag (hne .mag (by decide)) _ _)).trans (same_mbxRun (hne .mbx (by decide)))

theorem mag_takeStopped (s : State) (p : Party) (slot i : Nat) : (takeStopped s p slot i).mag.vol = s.mag.vol ∧
    (takeStopped s p slot i).mag.stopping = s.mag.stopping ++ [(i, p, slot)] ∧
    (∀ y ∈ (takeStopped s p slot i).mag.takeSlots, y.take = i →
      y.last.isSome = true ∧ ∃ z ∈ s.mag.takeSlots, z.take = i ∧ z.slot = y.slot) := by
  have hmag : (journalCommit (mbxTake s p slot)).mag = s.mag :=
    Eq.trans (same_journalCommit (q := .mag) (by decide) _) (mag_mbxTake s p slot)
  refine ⟨show (journalCommit (mbxTake s p slot)).mag.vol = _ by rw [hmag],
    show (journalCommit (mbxTake s p slot)).mag.stopping ++ _ = _ by rw [hmag], fun y hy hyi => ?_⟩
  obtain ⟨z, hz, rfl⟩ := List.mem_map.mp hy
  rw [hmag] at hz
  by_cases hc : z.take = i ∧ z.last.isNone = true
  · rw [if_pos hc]
    exact ⟨rfl, z, hz, hc.1, rfl⟩
  · rw [if_neg hc] at hyi ⊢
    refine ⟨?_, z, hz, hyi, rfl⟩
    cases hlast : z.last with
    | none => exact absurd ⟨hyi, by rw [hlast]; rfl⟩ hc
    | some _ => rfl

theorem mbxState_takeStopped {s : State} {p : Party} {slot : Nat} (h : slot < mbxSlots p) (i : Nat) :
    mbxState (takeStopped s p slot i) p slot = 2 := by
  have hregs : (takeStopped s p slot i).regs = (mbxTake s p slot).regs := same_journalCommit (q := .regs) (by decide) (mbxTake s p slot)
  rw [mbxState, regField, regGet_congr _ _ hregs]
  exact mbxState_mbxTake h s

section
variable {s : State} {p : Party} {k : Fin 32} {req : List Byte} {i : Nat} {v : Vol} {x : Take} (hl : s.live = true)
  (ha : asks s p k.val 0x0502 req) (hi : i = leAt req 0x10 4) (hv : s.mag.vol = some v)
  (hx : (v.takes.find? fun y => decide (y.ident = i)) = some x) (hopen : x.state = 0) (hstop : s.mag.stopping = [])
include hl ha hi hv hx hopen hstop

theorem takeStop_of_open : exec (.takeStop p k) s = .next (endCycle s (settleTakes (takeStopped s p k i))) := by
  have hfound : ((s.mag.vol.bind fun v => v.takes.find? fun y => decide (y.ident = i)).any fun y => decide (y.state = 0)) = true := by
    rw [hv, Option.bind_some, hx, Option.any_some, hopen]
    rfl
  rw [show exec (.takeStop p k) s = execTakeStop p k s from rfl, execTakeStop, inCore_of_live hl, serve_of_asks ha]
  dsimp only
  rw [mag_mbxTake, ← hi, hfound, hstop, if_neg (by simp)]
  rfl

theorem takeStop_ends : exec (.takeStop p k) s = .next (endCycle s
    (((v.takes.filter fun x => decide (x.state = 0)).map (·.ident)).foldl closeTake (takeStopped s p k i))) := by
  rw [takeStop_of_open hl ha hi hv hx hopen hstop, settleTakes_eq ((mag_takeStopped s p k i).1.trans hv)]

/-- With content of the take still to be written, its request waits. -/
theorem takeStop_waits (hitem : (s.gal.items.any fun y => decide (y.take = some i)) = true) :
    ∃ t, exec (.takeStop p k) s = .next t ∧ mbxState t p k.val = 2 ∧ t.mag.stopping = [(i, p, k.val)] ∧
      (∀ y ∈ t.mag.takeSlots, y.take = i → y.last.isSome = true) ∧ onlyChanges (.mag :: .mbx :: reporting) s t := by
  have hk := asks_slot ha
  obtain ⟨-, hstopped, hslots⟩ := mag_takeStopped s p k i
  rw [hstop, List.nil_append] at hstopped
  have hgal : (takeStopped s p k i).gal = s.gal := same_takeStopped (q := .gal) (by decide) s p k i
  have hwait := Awaiting.closeTakes (s := takeStopped s p k i) (i := i) (by rw [hstopped]; simp) (by rw [hgal]; exact hitem)
    ((v.takes.filter fun x => decide (x.state = 0)).map (·.ident))
  refine ⟨_, takeStop_ends hl ha hi hv hx hopen hstop, ?_, ?_, fun y hy hyi => ?_, onlyChanges_endCycle fun q hq _ _ => ?_⟩
  · obtain ⟨hout, hmag⟩ := slotReg_outside hk (o := 4) (by decide)
    rw [mbxState, regField, regGet_endCycle, hwait.regs _ hmag hout]
    exact mbxState_takeStopped hk i
  · rw [endCycle_mag, hwait.stopping, hstopped]
  · rw [endCycle_mag] at hy
    exact (hslots y (hwait.slots y hy) hyi).1
  · exact (same_takeStopped (fun hm => hq (by simp [reporting] at hm ⊢; tauto)) s p k i).trans
      (hwait.parts q fun hm => hq (by simp at hm ⊢; tauto))

/-- With nothing left to write, the take ends and its request is answered. -/
theorem takeStop_answers (hnone : (s.gal.items.any fun y => decide (y.take = some i)) = false) (hlen : x.index.length < 4294967296)
    (hframes : ∀ y ∈ s.mag.takeSlots, y.take = i → y.last = none ∧ s.ing.frames.toList.getD y.slot [] = []) :
    ∃ t w, exec (.takeStop p k) s = .next t ∧ answered t p k.val 0 (x.index.length - takeGaps x) (takeGaps x) ∧
      t.mag.vol = some w ∧ (w.takes.any fun y => decide (y.ident = i) && decide (y.state = 0)) = false ∧
      (∀ y ∈ t.mag.takeSlots, y.take ≠ i) ∧ onlyChanges (.mag :: .mbx :: reporting) s t := by
  have hk := asks_slot ha
  obtain ⟨hvol, hstopped, hslots⟩ := mag_takeStopped s p k i
  rw [hstop, List.nil_append] at hstopped
  have hgal : (takeStopped s p k i).gal = s.gal := same_takeStopped (q := .gal) (by decide) s p k i
  have hing : (takeStopped s p k i).ing = s.ing := same_takeStopped (q := .ing) (by decide) s p k i
  have hmem : i ∈ (v.takes.filter fun x => decide (x.state = 0)).map (·.ident) :=
    List.mem_map.mpr ⟨x, List.mem_filter.mpr ⟨List.mem_of_find?_eq_some hx, by simp [hopen]⟩, by simpa using List.find?_some hx⟩
  have hended := TakeEnded.closeTakes (s := takeStopped s p k i) hk hstopped (by rw [takeNamed, hvol, hv]; exact hx) hlen
    (fun y hy hyi => by
      obtain ⟨hlast, z, hz, hzi, hslot⟩ := hslots y hy hyi
      exact ⟨hlast, by rw [hing, ← hslot]; exact (hframes z hz hzi).2⟩) (by rw [hgal]; exact hnone) hmem
  obtain ⟨w, hw, hclosed⟩ := hended.vol
  refine ⟨_, w, takeStop_ends hl ha hi hv hx hopen hstop, ?_, by rw [endCycle_mag, hw], List.any_eq_false.mpr fun y hy => ?_,
    by rw [endCycle_mag]; exact hended.slots, onlyChanges_endCycle fun q hq _ _ => ?_⟩
  · simpa only [answered, mbxState, regField, regGet_endCycle] using hended.answer
  · simpa using hclosed y hy
  · exact (same_takeStopped (fun hm => hq (by simp [reporting] at hm ⊢; tauto)) s p k i).trans (hended.parts q hq)

end

end Sys2Proof.Machine
end

section
/-! Proof of the statement about the mailbox commands of logs, ports, takes and the magazine: VOLUME_FORMAT (R241, R242, R389). -/

namespace Sys2Proof.Machine
open Sys2Proof

/-! ### What a completion leaves as it is (R348, R351) -/

theorem same_foldl {q : Part} {α : Type} {f : State → α → State} (h : ∀ s x, q.same s (f s x)) (l : List α) :
    ∀ s, q.same s (l.foldl f s) := by
  induction l with
  | nil => exact fun s => .refl q s
  | cons x l ih => exact fun s => (h s x).trans (ih _)

theorem same_modQ {q : Part} (h : q ≠ .hq) (s : State) (i : Nat) (f : Queue → Queue) : q.same s (modQ s i f) := same_hq h s _

theorem same_fetchBad {q : Part} (h : q ≠ .fetchBad) (s : State) (x : List Client) : q.same s { s with fetchBad := x } := by
  cases q
  case fetchBad => exact absurd rfl h
  all_goals rfl

section
variable {q : Part} (h : q ∉ completing)
include h

theorem same_signalQ (s : State) (i : Nat) : q.same s (signalQ s i) := by
  unfold signalQ
  split
  · exact (same_modQ (by rintro rfl; exact h (by decide)) s i _).trans
      (same_msixSend (fun hm => h (by simp [completing] at hm ⊢; tauto)) _ _ _)
  · exact .refl q s

theorem same_writeEntry (s : State) (i : Nat) (e : Cqe) : q.same s (writeEntry s i e) := by
  obtain ⟨hhq, hout, hpba, hbad⟩ : q ≠ .hq ∧ q ≠ .out ∧ q ≠ .pba ∧ q ≠ .fetchBad := by simpa [completing] using h
  unfold writeEntry
  split
  · exact .refl q s
  · extract_lets flags bytes u wrap v w now
    have hv : q.same s v := (same_emit hout s _).trans (same_modQ hhq u i _)
    have hw : q.same s w := by
      refine hv.trans ?_
      dsimp only [w]
      split
      · exact same_fetchBad hbad v _
      · exact .refl q v
    split
    · exact hw.trans (same_signalQ h w i)
    · exact hw

theorem same_postEntry (s : State) (i : Nat) (e : Cqe) : q.same s (postEntry s i e) := by
  unfold postEntry
  split
  · exact .refl q s
  · split
    · exact same_modQ (by rintro rfl; exact h (by decide)) s i _
    · exact same_writeEntry h s i _

theorem same_complete (s : State) (i tag status detail : Nat) (result : Word) (flags : Nat) :
    q.same s (complete s i tag status detail result flags) := by
  unfold complete
  split
  · exact .refl q s
  · split
    · exact .refl q s
    · exact Part.same.trans (same_modQ (by rintro rfl; exact h (by decide)) s i _) (same_postEntry h _ i _)

/-- Flushes that complete. -/
theorem same_settleFlushes (s : State) : q.same s (settleFlushes s) := by
  refine same_foldl (fun u x => ?_) _ s
  split
  · exact .refl q u
  · refine same_foldl (fun w c => ?_) _ u
    dsimp only
    split
    · exact same_complete h w _ _ _ _ _ _
    · exact .refl q w

end

/-! ### A superblock written (R242) -/

theorem mag_writeSuper (s : State) (clean : Bool) :
    (writeSuper s clean).mag = { s.mag with vol := s.mag.vol.map fun v => { v with superSeq := v.superSeq + 1 } } := by
  unfold writeSuper
  dsimp only
  split <;> rfl

theorem same_writeSuper {q : Part} (h : q ∉ [.mag, .out]) (s : State) (clean : Bool) : q.same s (writeSuper s clean) := by
  obtain ⟨hmag, hout⟩ : q ≠ .mag ∧ q ≠ .out := by simpa using h
  unfold writeSuper
  dsimp only
  split
  · exact same_modMag hmag s _
  · exact (same_modMag hmag s _).trans (same_emit hout _ _)

/-! ### A fresh volume (R241, R242) -/

/-- What a fresh volume replaces on the magazine. -/
def freshMag (m : MagBlk) (v : Vol) : MagBlk :=
  { m with vol := some v, blank := false, units := [], ops := [], stale := [], loadFrom := none, bgTime := [] }

/-- A volume with nothing on it. -/
structure IsFresh (v : Vol) (total : Nat) : Prop where
  sectors : v.sectors = total * 15 * 31 / 512
  takes : v.takes = []
  exts : v.exts = []
  store : v.store = []
  defs : v.defs = []

/-- A magazine with a fresh volume, before its superblock is written. -/
def freshened (s : State) : State :=
  modMag (setItems (freeBytes s 16).2 ((freeBytes s 16).2.gal.items.filter fun i => !i.isHost)) fun m =>
    freshMag m (freshVol (freeBytes s 16).2 (freeBytes s 16).1)

theorem formatVolume_eq (s : State) : formatVolume s = settleFlushes (writeSuper (freshened s) false) := rfl

theorem mag_formatVolume (s : State) : ∃ v, IsFresh v s.mag.total ∧ (formatVolume s).mag = freshMag s.mag v := by
  have hflush (u : State) : (settleFlushes u).mag = u.mag := same_settleFlushes (q := .mag) (by decide) u
  refine ⟨{ freshVol (freeBytes s 16).2 (freeBytes s 16).1 with
    superSeq := (freshVol (freeBytes s 16).2 (freeBytes s 16).1).superSeq + 1 }, ⟨rfl, rfl, rfl, rfl, rfl⟩, ?_⟩
  rw [formatVolume_eq, hflush, mag_writeSuper]
  rfl

theorem same_formatVolume {q : Part} (h : q ∉ [.mag, .gal, .free, .hq, .out, .pba, .fetchBad]) (s : State) : q.same s (formatVolume s) := by
  have hne (r : Part) (hr : r ∈ [Part.mag, .gal, .free, .hq, .out, .pba, .fetchBad]) : q ≠ r := fun he => h (he ▸ hr)
  have hfresh : q.same s (freshened s) := ((same_free (hne .free (by decide)) s _).trans (same_gal (hne .gal (by decide)) _ _)).trans
    (same_modMag (hne .mag (by decide)) _ _)
  exact (hfresh.trans (same_writeSuper (fun hm => h (by simp at hm ⊢; tauto)) _ false)).trans
    (same_settleFlushes (fun hm => h (by simp [completing] at hm ⊢; tauto)) _)

/-! ### VOLUME_FORMAT (R389) -/

section
variable {s : State} {p : Party} {k : Fin 32} {req : List Byte} (hl : s.live = true) (ha : asks s p k.val 0x0504 req)
  (hst : s.mag.st = .mounted ∨ (s.mag.st = .readOnly ∧ s.mag.wp = true)) (hpower : s.mag.power ≤ 1)
include hl ha hst hpower

theorem volumeFormat_of_served : exec (.volumeFormat p k) s = .next (endCycle s
    (if takeOpen s = true ∨ (¬ s.mag.blank = true ∧ ¬ allowDisrupt req = true) then mbxReply (mbxTake s p k) p k stInService 0 0 0
      else mbxReply (journalCommit (formatVolume (mbxTake s p k))) p k stSuccess 0
        (((formatVolume (mbxTake s p k)).mag.vol.map (·.sectors)).getD 0 % 2 ^ 32)
        (((formatVolume (mbxTake s p k)).mag.vol.map (·.sectors)).getD 0 / 2 ^ 32))) := by
  have hserved : ¬ (¬ (s.mag.st = .mounted ∨ (s.mag.st = .readOnly ∧ s.mag.wp = true)) ∨ s.mag.power > 1) := by
    rintro (hn | hn)
    · exact hn hst
    · omega
  rw [show exec (.volumeFormat p k) s = execVolumeFormat p k s from rfl, execVolumeFormat, inCore_of_live hl, serve_of_asks ha]
  dsimp only
  rw [takeOpen_mbxTake, show (mbxTake s p k.val).mag = s.mag from mag_mbxTake s p k, if_neg hserved]

theorem volumeFormat_inTake (hopen : takeOpen s = true) :
    exec (.volumeFormat p k) s = .next (replied s (mbxTake s p k) p k stInService 0 0 0) := by
  rw [volumeFormat_of_served hl ha hst hpower, if_pos (.inl hopen)]

theorem volumeFormat_spec (hclosed : takeOpen s = false) (hleave : s.mag.blank = true ∨ allowDisrupt req = true) :
    ∃ t v, exec (.volumeFormat p k) s = .next t ∧ t.mag.vol = some v ∧ v.sectors = s.mag.total * 15 * 31 / 512 ∧ v.takes = [] ∧
      v.exts = [] ∧ v.store = [] ∧ v.defs = [] ∧ t.mag.blank = false ∧ t.mag.units = [] ∧ t.mag.ops = [] ∧
      answered t p k.val 0 (v.sectors % 2 ^ 32) (v.sectors / 2 ^ 32 % 2 ^ 32) ∧
      onlyChanges (.mag :: .gal :: .free :: .flt :: .hq :: .fetchBad :: answering) s t := by
  have hk := asks_slot ha
  obtain ⟨v, hfresh, hmag⟩ := mag_formatVolume (mbxTake s p k)
  rw [mag_mbxTake] at hfresh hmag
  have hexec := volumeFormat_of_served hl ha hst hpower
  rw [if_neg (by rw [hclosed]; rintro (h | ⟨hb, ha⟩); exacts [Bool.false_ne_true h, hleave.elim hb ha]), hmag] at hexec
  have hdone (r0 r1 : Nat) : (replied s (journalCommit (formatVolume (mbxTake s p k))) p k stSuccess 0 r0 r1).mag = freshMag s.mag v := by
    rw [endCycle_mag, mbxReply, same_mbxDone (q := .mag) (by decide), same_journalCommit (q := .mag) (by decide), hmag]
  refine ⟨_, v, hexec, by rw [hdone]; rfl, hfresh.sectors, hfresh.takes, hfresh.exts, hfresh.store, hfresh.defs, by rw [hdone]; rfl,
    by rw [hdone]; rfl, by rw [hdone]; rfl, ?_, onlyChanges_done (by decide) (fun q hq => ?_) ..⟩
  · have hans := answered_done_mod (s := s) (u := journalCommit (formatVolume (mbxTake s p k))) hk (status := stSuccess) (by decide) 0
      (v.sectors % 2 ^ 32) (v.sectors / 2 ^ 32) []
    rw [Nat.mod_mod] at hans
    exact hans
  · exact (same_formatVolume (fun hm => hq (by simp [answering] at hm ⊢; tauto)) _).trans
      (same_journalCommit (by rintro rfl; exact hq (by decide)) _)

end

end Sys2Proof.Machine
end

section
/-! Proof of the statement about the mailbox commands of logs, ports, takes and the magazine: MAG_POWER and MAG_EJECT (R234, R235, R255,
R389). -/

namespace Sys2Proof.Machine
open Sys2Proof

theorem isMounted_mbxTake (s : State) (p : Party) (slot : Nat) : isMounted (mbxTake s p slot) = isMounted s := by
  rw [isMounted, mag_mbxTake, isMounted]

/-! ### A transition that waits (R255) -/

/-- A power state asked for, and committed. -/
def powerAsked (u : State) (p : Party) (slot m : Nat) : State :=
  journalCommit (modMag u fun x => { x with transition := some (m, some (p, slot)) })

theorem requestPower_eq (u : State) (p : Party) (slot m : Nat) (eject : Bool) : requestPower u p slot m eject =
    mbxRun (if eject then requestEject (powerAsked u p slot m) none else powerAsked u p slot m) p slot 0x0505 .magazine true m 0 := by
  cases eject <;> rfl

theorem same_powerAsked {q : Part} (h : q ∉ [.mag, .flt]) (u : State) (p : Party) (slot m : Nat) : q.same u (powerAsked u p slot m) := by
  obtain ⟨hmag, hflt⟩ : q ≠ .mag ∧ q ≠ .flt := by simpa using h
  exact (same_modMag hmag u _).trans (same_journalCommit hflt _)

theorem mag_powerAsked (u : State) (p : Party) (slot m : Nat) :
    (powerAsked u p slot m).mag = { u.mag with transition := some (m, some (p, slot)) } := by
  rw [powerAsked, same_journalCommit (q := .mag) (by decide)]
  rfl

theorem mag_mbxRun (s u : State) (p : Party) (slot op : Nat) (x : MbxTarget) (hw : Bool) (a b : Nat) :
    (endCycle s (mbxRun u p slot op x hw a b)).mag = u.mag := by rw [endCycle_mag]; rfl

/-! ### A mount that starts (R234) -/

theorem same_driveMag {q : Part} (h : q ∉ [.mag, .out]) (s : State) (vcc lock : Bool) : q.same s (driveMag s vcc lock) := by
  obtain ⟨hmag, hout⟩ : q ≠ .mag ∧ q ≠ .out := by simpa using h
  unfold driveMag
  extract_lets u w
  have hu : q.same s u := by
    dsimp only [u]
    split
    · exact .refl q s
    · exact same_emit hout s _
  have hw : q.same u w := by
    dsimp only [w]
    split
    · exact .refl q u
    · exact same_emit hout u _
  exact (hu.trans hw).trans (same_modMag hmag w _)

theorem mag_driveMag (s : State) (vcc lock : Bool) : (driveMag s vcc lock).mag = { s.mag with vccEn := vcc, locked := lock } := by
  unfold driveMag
  dsimp only
  split <;> split <;> rfl

theorem mag_startMount {s : State} (hoff : s.mag.st = .off) (m : Nat) :
    (startMount s m).mag = { s.mag with vccEn := true, st := .ident, wanted := m, vccAt := s.now } := by
  rw [startMount, if_pos hoff]
  dsimp only [modMag]
  rw [mag_driveMag]

theorem same_startMount {q : Part} (h : q ∉ [.mag, .out]) (s : State) (m : Nat) : q.same s (startMount s m) := by
  unfold startMount
  split
  · exact (same_driveMag h s true s.mag.locked).trans (same_modMag (by rintro rfl; simp at h) _ _)
  · exact .refl q s

/-- Pins driven with a request waiting. -/
theorem driveMag_mbxRun (u : State) (p : Party) (slot op : Nat) (x : MbxTarget) (hw : Bool) (a b : Nat) (vcc lock : Bool) :
    driveMag (mbxRun u p slot op x hw a b) vcc lock = mbxRun (driveMag u vcc lock) p slot op x hw a b := by
  unfold driveMag
  by_cases hvcc : u.mag.vccEn = vcc <;> by_cases hlock : u.mag.locked = lock <;> simp only [mbxRun, emit, hvcc, hlock, if_true, if_false] <;> rfl

/-- A mount that starts with its request waiting. -/
theorem startMount_mbxRun (u : State) (p : Party) (slot op : Nat) (x : MbxTarget) (hw : Bool) (a b m : Nat) :
    startMount (mbxRun u p slot op x hw a b) m = mbxRun (startMount u m) p slot op x hw a b := by
  by_cases hoff : u.mag.st = .off
  · have hrun : (mbxRun u p slot op x hw a b).mag.st = .off := hoff
    rw [startMount, if_pos hrun, startMount, if_pos hoff, driveMag_mbxRun]
    rfl
  · have hrun : ¬ (mbxRun u p slot op x hw a b).mag.st = .off := hoff
    rw [startMount, if_neg hrun, startMount, if_neg hoff]

/-! ### MAG_POWER (R389) -/

section
variable {s : State} {p : Party} {k : Fin 32} {req : List Byte} {m : Nat} (hl : s.live = true) (ha : asks s p k.val 0x0505 req)
  (hm : m = (byteAt req 0x10).toNat)
include hl ha

theorem magPower_of_away (hst : s.mag.st = .empty ∨ s.mag.st = .unusable ∨ s.mag.st = .ejecting) :
    exec (.magPower p k) s = .next (replied s (mbxTake s p k) p k stNotReady 0 0 0) := by
  rw [show exec (.magPower p k) s = execMagPower p k s from rfl, execMagPower, inCore_of_live hl, serve_of_asks ha]
  dsimp only
  rw [mag_mbxTake]
  rcases hst with hst | hst | hst <;> rw [hst]

include hm

theorem magPower_of_mounted (hst : s.mag.st = .mounted ∨ s.mag.st = .readOnly) : exec (.magPower p k) s = .next (endCycle s
    (if m = s.mag.power then mbxReply (mbxTake s p k) p k stSuccess 0 0 0
      else if m ≥ 2 ∧ takeOpen s = true then mbxReply (mbxTake s p k) p k stInService 0 0 0
      else requestPower (mbxTake s p k) p k m (decide (m = 3)))) := by
  rw [show exec (.magPower p k) s = execMagPower p k s from rfl, execMagPower, inCore_of_live hl, serve_of_asks ha]
  dsimp only
  rw [mag_mbxTake, takeOpen_mbxTake, ← hm]
  rcases hst with hst | hst <;> rw [hst]

theorem magPower_of_off (hst : s.mag.st = .off) (hle : m ≤ 1) : exec (.magPower p k) s = .next (endCycle s
    (startMount (requestPower (mbxTake s p k) p k m false) m)) := by
  rw [show exec (.magPower p k) s = execMagPower p k s from rfl, execMagPower, inCore_of_live hl, serve_of_asks ha]
  dsimp only
  rw [mag_mbxTake, ← hm, hst]
  dsimp only
  rw [if_neg (by omega), if_neg (by omega)]

theorem magPower_of_mounting (hst : s.mag.st = .ident ∨ s.mag.st = .mounting) (hle : m ≤ 1) : exec (.magPower p k) s = .next (endCycle s
    (requestPower (modMag (mbxTake s p k) fun x => { x with wanted := m }) p k m false)) := by
  rw [show exec (.magPower p k) s = execMagPower p k s from rfl, execMagPower, inCore_of_live hl, serve_of_asks ha]
  dsimp only
  rw [mag_mbxTake, ← hm]
  rcases hst with hst | hst <;> rw [hst] <;> exact congrArg (fun t => Host.Outcome.next (endCycle s t)) (if_neg (by omega))

/-- A transition of a mounted magazine waits; into MP3 the magazine is ejecting. -/
theorem magPower_waits (hst : s.mag.st = .mounted ∨ s.mag.st = .readOnly) (hne : m ≠ s.mag.power) (hfree : 2 ≤ m → takeOpen s = false) :
    ∃ t, exec (.magPower p k) s = .next t ∧ mbxState t p k.val = 2 ∧ t.mag.transition = some (m, some (p, k.val)) ∧
      t.mag.st = (if m = 3 then .ejecting else s.mag.st) ∧ onlySlot p k.val s t ∧ onlyChanges [.mag, .flt, .mbx, .regs] s t := by
  have hk := asks_slot ha
  let u := if decide (m = 3) = true then requestEject (powerAsked (mbxTake s p k) p k m) none else powerAsked (mbxTake s p k) p k m
  have hasked := mag_powerAsked (mbxTake s p k) p k m
  rw [mag_mbxTake] at hasked
  have hmag : u.mag.transition = some (m, some (p, k.val)) ∧ u.mag.st = (if m = 3 then .ejecting else s.mag.st) := by
    dsimp only [u]
    by_cases h3 : m = 3
    · rw [if_pos (by simpa using h3), if_pos h3, requestEject]
      dsimp only [modMag]
      rw [hasked]
      exact ⟨rfl, rfl⟩
    · rw [if_neg (by simpa using h3), if_neg h3, hasked]
      exact ⟨rfl, rfl⟩
  have hsame {q : Part} (hq : q ∉ [.mag, .flt]) : q.same (mbxTake s p k) u := by
    have hask := same_powerAsked hq (mbxTake s p k) p k m
    dsimp only [u]
    split
    · exact hask.trans (same_modMag (by rintro rfl; simp at hq) _ _)
    · exact hask
  obtain ⟨hstate, hslot, hchange⟩ := runs_spec (l := [.mag, .flt, .mbx, .regs]) hk
    (fun q hq => hsame fun hx => hq (by simp at hx ⊢; tauto)) (by decide) (by decide) (hsame (q := .regs) (by decide)) 0x0505 .magazine
    true m 0
  refine ⟨_, ?_, hstate, by rw [mag_mbxRun]; exact hmag.1, by rw [mag_mbxRun]; exact hmag.2, hslot, hchange⟩
  rw [magPower_of_mounted hl ha hm hst, if_neg hne, if_neg fun h => Bool.false_ne_true ((hfree h.1).symm.trans h.2), requestPower_eq]

/-- A magazine that is off starts to mount. -/
theorem magPower_mounts (hst : s.mag.st = .off) (hle : m ≤ 1) :
    ∃ t, exec (.magPower p k) s = .next t ∧ mbxState t p k.val = 2 ∧ t.mag.st = .ident ∧ t.mag.vccEn = true ∧ t.mag.vccAt = s.now ∧
      t.mag.wanted = m ∧ onlySlot p k.val s t ∧ onlyChanges [.mag, .flt, .mbx, .regs, .out] s t := by
  have hk := asks_slot ha
  let u := powerAsked (mbxTake s p k) p k m
  have hask {q : Part} (hq : q ∉ [.mag, .flt]) : q.same (mbxTake s p k) u := same_powerAsked hq _ p k m
  have hsame {q : Part} (hq : q ∉ [.mag, .flt, .out]) : q.same (mbxTake s p k) (startMount u m) :=
    (hask fun hx => hq (by simp at hx ⊢; tauto)).trans (same_startMount (fun hx => hq (by simp at hx ⊢; tauto)) u m)
  have hoff : u.mag.st = .off := by rw [mag_powerAsked, mag_mbxTake]; exact hst
  have hnow : u.now = s.now := Eq.trans (hask (q := .now) (by decide)) (now_mbxTake s p k)
  have hmag := mag_startMount hoff m
  obtain ⟨hstate, hslot, hchange⟩ := runs_spec (l := [.mag, .flt, .mbx, .regs, .out]) hk
    (fun q hq => hsame fun hx => hq (by simp at hx ⊢; tauto)) (by decide) (by decide) (hsame (q := .regs) (by decide)) 0x0505 .magazine
    true m 0
  refine ⟨_, ?_, hstate, ?_, ?_, ?_, ?_, hslot, hchange⟩
  · rw [magPower_of_off hl ha hm hst hle, requestPower_eq, startMount_mbxRun, if_neg Bool.false_ne_true]
  all_goals rw [mag_mbxRun, hmag]
  exact hnow

/-- A magazine that is being identified or mounted takes the state that is asked for last. -/
theorem magPower_takes (hst : s.mag.st = .ident ∨ s.mag.st = .mounting) (hle : m ≤ 1) :
    ∃ t, exec (.magPower p k) s = .next t ∧ mbxState t p k.val = 2 ∧ t.mag.st = s.mag.st ∧ t.mag.wanted = m ∧
      t.mag.transition = some (m, some (p, k.val)) ∧ onlySlot p k.val s t ∧ onlyChanges [.mag, .flt, .mbx, .regs] s t := by
  have hk := asks_slot ha
  let w := modMag (mbxTake s p k) fun x => { x with wanted := m }
  have hsame {q : Part} (hq : q ∉ [.mag, .flt]) : q.same (mbxTake s p k) (powerAsked w p k m) :=
    (same_modMag (by rintro rfl; simp at hq) _ _).trans (same_powerAsked hq w p k m)
  obtain ⟨hstate, hslot, hchange⟩ := runs_spec (l := [.mag, .flt, .mbx, .regs]) hk
    (fun q hq => hsame fun hx => hq (by simp at hx ⊢; tauto)) (by decide) (by decide) (hsame (q := .regs) (by decide)) 0x0505 .magazine
    true m 0
  have hmag : (powerAsked w p k m).mag = { s.mag with wanted := m, transition := some (m, some (p, k.val)) } := by
    rw [mag_powerAsked]
    dsimp only [w, modMag]
    rw [mag_mbxTake]
  refine ⟨_, ?_, hstate, by rw [mag_mbxRun, hmag], by rw [mag_mbxRun, hmag], by rw [mag_mbxRun, hmag], hslot, hchange⟩
  rw [magPower_of_mounting hl ha hm hst hle, requestPower_eq, if_neg Bool.false_ne_true]

end

/-! ### MAG_EJECT (R235, R389) -/

section
variable {s : State} {p : Party} {k : Fin 32} {req : List Byte} (hl : s.live = true) (ha : asks s p k.val 0x0506 req)
include hl ha

theorem magEject_of_asks : exec (.magEject p k) s = .next (endCycle s
    (if takeOpen s = true then mbxReply (mbxTake s p k) p k stInService 0 0 0
      else if ¬ isMounted s = true then mbxReply (mbxTake s p k) p k stNotReady 0 0 0
      else mbxRun (requestEject (journalCommit (mbxTake s p k)) (some (p, k.val))) p k 0x0506 .magazine true 0 0)) := by
  rw [show exec (.magEject p k) s = execMagEject p k s from rfl, execMagEject, inCore_of_live hl, serve_of_asks ha]
  rw [takeOpen_mbxTake, isMounted_mbxTake]
  rfl

theorem magEject_inTake (hopen : takeOpen s = true) :
    exec (.magEject p k) s = .next (replied s (mbxTake s p k) p k stInService 0 0 0) := by
  rw [magEject_of_asks hl ha, if_pos hopen]

theorem magEject_spec (hclosed : takeOpen s = false) (hmounted : isMounted s = true) :
    ∃ t, exec (.magEject p k) s = .next t ∧ mbxState t p k.val = 2 ∧ t.mag.st = .ejecting ∧ t.mag.eject = some (some (p, k.val)) ∧
      onlySlot p k.val s t ∧ onlyChanges [.mag, .flt, .mbx, .regs] s t := by
  have hk := asks_slot ha
  have hsame {q : Part} (hq : q ∉ [.mag, .flt]) :
      q.same (mbxTake s p k) (requestEject (journalCommit (mbxTake s p k)) (some (p, k.val))) :=
    (same_journalCommit (by rintro rfl; simp at hq) _).trans (same_modMag (by rintro rfl; simp at hq) _ _)
  obtain ⟨hstate, hslot, hchange⟩ := runs_spec (l := [.mag, .flt, .mbx, .regs]) hk
    (fun q hq => hsame fun hx => hq (by simp at hx ⊢; tauto)) (by decide) (by decide) (hsame (q := .regs) (by decide)) 0x0506 .magazine
    true 0 0
  refine ⟨_, ?_, hstate, by rw [mag_mbxRun]; rfl, by rw [mag_mbxRun]; rfl, hslot, hchange⟩
  rw [magEject_of_asks hl ha, if_neg (by simp [hclosed]), if_neg (not_not_intro hmounted)]

end

end Sys2Proof.Machine
end

section
/-! Proof of the statement about the mailbox commands of logs, ports, takes and the magazine. -/

namespace Sys2Proof.Machine
open Sys2Proof

/-- A request that is answered with nothing done, by the instruction that answers it. -/
theorem exec_refused {s : State} {p : Party} {k : Fin 32} {op status : Nat} {req : List Byte} {i : Instr} (ha : asks s p k.val op req)
    (hexec : exec i s = .next (replied s (mbxTake s p k) p k status 0 0 0)) (hst : status < 256 := by decide) :
    ∃ t, exec i s = .next t ∧ answered t p k.val status 0 0 ∧ onlySlot p k.val s t ∧ onlyChanges answering s t :=
  ⟨_, hexec, refused_spec (asks_slot ha) hst (by decide) (by decide)⟩

/-- Settles O53, command by command. A write refused IN_SERVICE in self-refresh (STATE 3), and INVALID_FIELD to a VF with no queue on
the volume (log 37), are the model's readings. -/
theorem logPortTakeAndVolumeCommands : Obligations.LogPortTakeAndVolumeCommands := by
  refine ⟨?logGet, ?logGetVf, ?edpAux, ?sdpGet, ?takeStart, ?takeStop, ?takeInfo, ?volumeFormat, ?magPower, ?magEject⟩
  case logGet =>
    exact fun s p k buf req segs hl ha hbus hsegs => ⟨
      fun m bs hpage hm hbs hroom => logGet_errors hl ha hbus hsegs hpage hm hbs hroom,
      fun l bs hpage hents hbs hroom hne => logGet_events hl ha hbus hsegs hpage hents hbs hroom hne,
      fun v l bs hpage hb hv hents hbs hroom => logGet_deferred hl ha hbus hsegs hpage hb hv hents hbs hroom⟩
  case logGetVf =>
    exact fun s n k buf req page hl hpg hreq hstate hop hon hfree hrun hpage => logGet_vf hl hpg hreq hstate hop hon hfree hrun hpage
  case edpAux =>
    exact fun s p k ack relinks wr req x n hl ha hx hwr hn => ⟨
      fun hfree hpd => edpAux_spec hl ha hx hwr hn hfree hpd,
      fun hfree hpd => exec_refused ha (edpAux_of_low hl ha hx hwr hfree hpd),
      fun hw hallow hst => exec_refused ha (edpAux_of_live hl ha hx hwr hw hallow hst)⟩
  case sdpGet =>
    exact fun s p k buf req i segs hl ha hi => ⟨
      fun hon hbus hsegs => sdpGet_on hl ha hi hon hbus hsegs,
      fun hoff => exec_refused ha (sdpGet_off hl ha hi hoff)⟩
  case takeStart =>
    exact fun s p k req mask v hl ha hmask hne hv hslots => ⟨
      fun cool hst hblank hpower hroom => takeStart_spec hl ha hmask hne hv hslots cool hst hblank hpower hroom,
      fun hot => exec_refused ha (takeStart_hot hl ha hmask hne hslots hot)⟩
  case takeStop =>
    exact fun s p k req i v x hl ha hi hv hx hopen hstop => ⟨
      fun hitem => takeStop_waits hl ha hi hv hx hopen hstop hitem,
      fun hnone hlen hframes => takeStop_answers hl ha hi hv hx hopen hstop hnone hlen hframes⟩
  case takeInfo =>
    exact fun s p k buf req bs v x hl ha hv hx hbs hroom => takeInfo_spec hl ha hv hx hbs hroom
  case volumeFormat =>
    exact fun s p k req hl ha hst hpower => ⟨
      fun hclosed hleave => volumeFormat_spec hl ha hst hpower hclosed hleave,
      fun hopen => exec_refused ha (volumeFormat_inTake hl ha hst hpower hopen)⟩
  case magPower =>
    intro s p k req m hl ha hm
    refine ⟨fun hst => ⟨fun hsame => ?_, fun hne hdeep hopen => ?_, fun hne hfree => magPower_waits hl ha hm hst hne hfree⟩,
      fun hst hle => magPower_mounts hl ha hm hst hle, fun hst hle => magPower_takes hl ha hm hst hle,
      fun hst => exec_refused ha (magPower_of_away hl ha hst)⟩
    · exact exec_refused ha (status := stSuccess) ((magPower_of_mounted hl ha hm hst).trans (by rw [if_pos hsame]))
    · exact exec_refused ha ((magPower_of_mounted hl ha hm hst).trans (by rw [if_neg hne, if_pos ⟨hdeep, hopen⟩]))
  case magEject =>
    exact fun s p k req hl ha => ⟨
      fun hclosed hmounted => magEject_spec hl ha hclosed hmounted,
      fun hopen => exec_refused ha (magEject_inTake hl ha hopen)⟩

end Sys2Proof.Machine
end

section
/-! What the magazine's events, deferred errors and failed dies change, and what they leave as it is (R239, R240, R251, R257). -/

namespace Sys2Proof.Machine
open Sys2Proof

/-! ### Registers that stay -/

theorem onlyRegs.refl (l : List Nat) (s : State) : onlyRegs l s s := fun _ _ _ => rfl

theorem onlyRegs.trans {l : List Nat} {s t u : State} (h : onlyRegs l s t) (h' : onlyRegs l t u) : onlyRegs l s u := fun j hj ho =>
  (h' j hj ho).trans (h j hj ho)

theorem onlyRegs.mono {l m : List Nat} {s t : State} (h : onlyRegs l s t) (hl : l ⊆ m) : onlyRegs m s t := fun j hj ho =>
  h j (fun hm => hj (hl hm)) ho

theorem onlyRegs_of_regs {l : List Nat} {s t : State} (h : t.regs = s.regs) : onlyRegs l s t := fun j _ _ => regGet_congr s t h j

theorem onlyRegs_count (s : State) (off : Nat) : onlyRegs [off] s (count s off) := fun j hj _ =>
  regGet_count_ne s off j (by simpa using hj)

theorem onlyRegs_foldl {α : Type} {r : List Nat} {f : State → α → State} (h : ∀ s x, onlyRegs r s (f s x)) (l : List α) :
    ∀ s, onlyRegs r s (l.foldl f s) := by
  induction l with
  | nil => exact fun s => .refl r s
  | cons x l ih => exact fun s => (h s x).trans (ih _)

/-! ### Counters and events of the magazine (Tables MAG-16 and MAG-17) -/

theorem maskOf_magEvents : maskOf 0xF0080 = 0x3FFF := by decide

theorem maskOf_magCounts :
    ∀ off ∈ [0xF0040, 0xF0044, 0xF0048, 0xF004C, 0xF0050, 0xF0054, 0xF0058], maskOf off = BitVec.allOnes 32 := by decide

theorem bit_magEvents : ∀ i < 14, bit (0x3FFF : Word) i = true := by decide

theorem magEvents_outside : outsideFlt 0xF0080 := by unfold outsideFlt; omega

theorem bit_setBit_of_bit {w : Word} {i : Nat} (h : bit w i = true) (k : Nat) : bit (setBit w k) i = true := by
  unfold bit at h ⊢
  simp [setBit, BitVec.getLsbD_or, h]

theorem raised_mag_iff {s : State} {i : Nat} : raised s .mag i ↔ regBit s 0xF0080 i = true :=
  ⟨fun ⟨_, hb, hi⟩ => Option.some.inj hb ▸ hi, fun h => ⟨_, rfl, h⟩⟩

/-- Every event of the magazine that was raised before still is. -/
def KeepsRaised (s t : State) : Prop := ∀ i < 14, raised s .mag i → raised t .mag i

theorem KeepsRaised.trans {s t u : State} (h : KeepsRaised s t) (h' : KeepsRaised t u) : KeepsRaised s u := fun i hi hr =>
  h' i hi (h i hi hr)

theorem keepsRaised_of_events {s t : State} (h : regGet t 0xF0080 = regGet s 0xF0080) : KeepsRaised s t := fun i _ hr =>
  raised_mag_iff.mpr (by rw [regBit, h]; exact raised_mag_iff.mp hr)

theorem onlyRegs.keepsRaised {l : List Nat} {s t : State} (h : onlyRegs l s t) (hl : 0xF0080 ∉ l) : KeepsRaised s t :=
  keepsRaised_of_events (h _ hl magEvents_outside)

theorem keepsRaised_magEvent (s : State) (i code : Nat) (sev : Severity) (ctx : Ctx) : KeepsRaised s (magEvent s i code sev ctx) :=
  fun j hj hr => raised_mag_iff.mpr <| by
    rw [regBit, magEvent, regGet_event_events _ _ _ _ _ _ _ _ magEvents_outside rfl, bit_and, maskOf_magEvents, bit_magEvents j hj,
      bit_setBit_of_bit (raised_mag_iff.mp hr)]
    rfl

theorem raised_magEvent {i : Nat} (hi : i < 14) (s : State) (code : Nat) (sev : Severity) (ctx : Ctx) :
    raised (magEvent s i code sev ctx) .mag i :=
  raised_event rfl magEvents_outside (by rw [maskOf_magEvents]; exact bit_magEvents i hi) s code sev ctx 0

theorem onlyRegs_magEvent (s : State) (i code : Nat) (sev : Severity) (ctx : Ctx) : onlyRegs [0xF0080] s (magEvent s i code sev ctx) :=
  onlyRegs_event rfl s i code sev ctx 0

@[simp] theorem mag_magEvent (s : State) (i code : Nat) (sev : Severity) (ctx : Ctx) : (magEvent s i code sev ctx).mag = s.mag :=
  event_mag ..

@[simp] theorem gal_magEvent (s : State) (i code : Nat) (sev : Severity) (ctx : Ctx) : (magEvent s i code sev ctx).gal = s.gal :=
  event_gal ..

@[simp] theorem now_magEvent (s : State) (i code : Nat) (sev : Severity) (ctx : Ctx) : (magEvent s i code sev ctx).now = s.now :=
  event_now ..

theorem same_magEvent {q : Part} (h : q ∉ reporting) (s : State) (i code : Nat) (sev : Severity) (ctx : Ctx) :
    q.same s (magEvent s i code sev ctx) := same_event h ..

theorem same_record {q : Part} (h : q ∉ reporting) (s : State) (tag code : Nat) (sev : Severity) (ctx : Ctx) (status : Nat) :
    q.same s (record s tag code sev ctx status) := by
  cases q
  case regs | out | pba | flt | mgt => simp [reporting] at h
  all_goals simp [Part.same]

/-! ### A deferred error attached (R251) -/

/-- The next deferred error of a volume. -/
def attachment (v : Vol) (cause kind vsa n take : Nat) (ord : Word) (slot no : Nat) : DefErr :=
  { seq := v.attachments + 1, cause := cause, kind := kind, vsa := vsa, n := n, take := take, ord := ord, slot := slot, no := no }

/-- A volume with one more deferred error. -/
def withAttachment (v : Vol) (d : DefErr) : Vol :=
  { v with
    defs := v.defs ++ [d], attachments := v.attachments + 1, records := v.records ++ [deferRec d], takes := touchDeferred v.takes d.vsa d.n }

section
variable {s : State} {v : Vol} (hv : s.mag.vol = some v) (cause kind vsa n take : Nat) (ord : Word) (slot no : Nat)
include hv

theorem attachDeferred_eq : ∃ ctx, attachDeferred s cause kind vsa n take ord slot no =
    magEvent (attachAll (count (modVol s fun w => withAttachment w (attachment v cause kind vsa n take ord slot no)) 0xF0054))
      9 0x0A .itemFailed ctx := by
  unfold attachDeferred
  rw [hv]
  exact ⟨_, rfl⟩

theorem mag_attachDeferred : (attachDeferred s cause kind vsa n take ord slot no).mag =
    { s.mag with vol := some (withAttachment v (attachment v cause kind vsa n take ord slot no)) } := by
  obtain ⟨ctx, heq⟩ := attachDeferred_eq hv cause kind vsa n take ord slot no
  rw [heq, mag_magEvent]
  dsimp only [attachAll, count, regSet, modVol, modMag]
  rw [hv]
  rfl

theorem regGet_attachDeferred : regGet (attachDeferred s cause kind vsa n take ord slot no) 0xF0054 = satInc (regGet s 0xF0054) := by
  obtain ⟨ctx, heq⟩ := attachDeferred_eq hv cause kind vsa n take ord slot no
  rw [heq, onlyRegs_magEvent _ 9 0x0A .itemFailed ctx _ (by decide) (by unfold outsideFlt; omega)]
  exact regGet_count_self (maskOf_magCounts _ (by decide)) _

theorem raised_attachDeferred : raised (attachDeferred s cause kind vsa n take ord slot no) .mag 9 := by
  obtain ⟨ctx, heq⟩ := attachDeferred_eq hv cause kind vsa n take ord slot no
  rw [heq]
  exact raised_magEvent (by decide) ..

end

/-- A volume but for what deferred errors add to it. -/
def Vol.besidesErrors (v : Vol) : Vol := { v with bad := [], defs := [], attachments := 0, records := [], takes := [] }

/-- The magazine but for its volume. -/
def MagBlk.besidesVol (m : MagBlk) : MagBlk := { m with vol := none }

/-- What deferred errors leave as it is of a state and of its volume. -/
structure ErrorsAttached (s t : State) : Prop where
  parts : ∀ q : Part, q ∉ Part.hq :: .mag :: reporting → q.same s t
  regs : onlyRegs [0xF0054, 0xF0080] s t
  raised : KeepsRaised s t
  mag : t.mag.besidesVol = s.mag.besidesVol
  vol : t.mag.vol.map Vol.besidesErrors = s.mag.vol.map Vol.besidesErrors
  records : ∀ v w, s.mag.vol = some v → t.mag.vol = some w → v.records ⊆ w.records

theorem ErrorsAttached.refl (s : State) : ErrorsAttached s s :=
  ⟨fun q _ => .refl q s, .refl _ s, fun _ _ h => h, rfl, rfl, fun _ _ hv hw => Option.some.inj (hv.symm.trans hw) ▸ List.Subset.refl _⟩

theorem ErrorsAttached.trans {s t u : State} (h : ErrorsAttached s t) (h' : ErrorsAttached t u) : ErrorsAttached s u where
  parts q hq := (h.parts q hq).trans (h'.parts q hq)
  regs := h.regs.trans h'.regs
  raised := h.raised.trans h'.raised
  mag := h'.mag.trans h.mag
  vol := h'.vol.trans h.vol
  records v w hv hw := by
    have hsome : t.mag.vol.map Vol.besidesErrors = some v.besidesErrors := by rw [h.vol, hv]; rfl
    obtain ⟨x, hx, -⟩ := Option.map_eq_some_iff.mp hsome
    exact List.Subset.trans (h.records v x hv hx) (h'.records x w hx hw)

theorem ErrorsAttached.foldl {α : Type} {f : State → α → State} (h : ∀ s x, ErrorsAttached s (f s x)) (l : List α) :
    ∀ s, ErrorsAttached s (l.foldl f s) := by
  induction l with
  | nil => exact .refl
  | cons x l ih => exact fun s => (h s x).trans (ih _)

theorem errorsAttached_modVol {s : State} {f : Vol → Vol} (hf : ∀ v, (f v).besidesErrors = v.besidesErrors)
    (hr : ∀ v, v.records ⊆ (f v).records) : ErrorsAttached s (modVol s f) where
  parts q hq := same_modMag (by rintro rfl; simp at hq) s _
  regs := .refl _ s
  raised _ _ h := h
  mag := rfl
  vol := by
    change (s.mag.vol.map f).map _ = _
    rw [Option.map_map]
    exact congrArg (s.mag.vol.map ·) (funext hf)
  records v w hv hw := by
    change s.mag.vol.map f = some w at hw
    rw [hv] at hw
    exact Option.some.inj hw ▸ hr v

theorem errorsAttached_of_mag {s t : State} (parts : ∀ q : Part, q ∉ Part.hq :: .mag :: reporting → q.same s t)
    (regs : onlyRegs [0xF0054, 0xF0080] s t) (raised : KeepsRaised s t) (mag : t.mag = s.mag) : ErrorsAttached s t :=
  ⟨parts, regs, raised, by rw [mag], by rw [mag], fun v w hv hw => by
    rw [mag, hv] at hw
    exact Option.some.inj hw ▸ List.Subset.refl _⟩

theorem errorsAttached_attachDeferred (s : State) (cause kind vsa n take : Nat) (ord : Word) (slot no : Nat) :
    ErrorsAttached s (attachDeferred s cause kind vsa n take ord slot no) := by
  cases hv : s.mag.vol with
  | none =>
    rw [attachDeferred, hv]
    exact .refl s
  | some v =>
    obtain ⟨ctx, heq⟩ := attachDeferred_eq hv cause kind vsa n take ord slot no
    rw [heq]
    refine (errorsAttached_modVol (f := fun w => withAttachment w (attachment v cause kind vsa n take ord slot no)) (fun _ => rfl)
      fun _ => List.subset_append_left _ _).trans (errorsAttached_of_mag (fun q hq => ?_) ?_ ?_ ?_)
    · obtain ⟨hhq, -, hrep⟩ : q ≠ .hq ∧ q ≠ .mag ∧ q ∉ reporting := by simpa using hq
      have hregs : q ≠ .regs := by rintro rfl; exact hrep (by decide)
      exact ((same_count hregs _ _).trans (same_hq hhq _ _)).trans (same_magEvent hrep ..)
    · exact ((onlyRegs_count _ 0xF0054).mono (by simp)).trans ((onlyRegs_magEvent (attachAll (count _ _)) 9 0x0A .itemFailed ctx).mono (by simp))
    · exact ((onlyRegs_count _ 0xF0054).keepsRaised (by decide)).trans (keepsRaised_magEvent (attachAll (count _ _)) 9 0x0A .itemFailed ctx)
    · exact mag_magEvent ..

/-! ### Ranges lost (R239, R251) -/

/-- A volume with sectors that cannot be read any more. -/
def withBad (v : Vol) (l : List Nat) : Vol := { v with bad := v.bad ++ l }

/-- What of an extent lies in a range that is lost: its sectors cannot be read any more, and a deferred error is attached for them. -/
def loseExt (cause vsa n : Nat) (s : State) (e : Ext) : State :=
  let a := max e.vsa vsa
  let b := min (e.vsa + e.n) (vsa + n)
  attachDeferred (modVol s fun v => withBad v ((List.range (b - a)).map (a + ·))) cause e.kind a (b - a)
    (if e.kind ≤ 2 then e.take else 0) e.ord e.slot e.no

theorem loseRange_eq {s : State} {v : Vol} (hv : s.mag.vol = some v) (cause vsa n : Nat) : loseRange s cause vsa n =
    (v.exts.filter fun e => decide (e.vsa < vsa + n) && decide (vsa < e.vsa + e.n)).foldl (loseExt cause vsa n) s := by
  unfold loseRange
  rw [hv]
  rfl

theorem errorsAttached_loseRange (s : State) (cause vsa n : Nat) : ErrorsAttached s (loseRange s cause vsa n) := by
  cases hv : s.mag.vol with
  | none =>
    rw [loseRange, hv]
    exact .refl s
  | some v =>
    rw [loseRange_eq hv]
    refine .foldl (fun u e => ?_) _ s
    exact (errorsAttached_modVol (s := u) (f := fun v => withBad v _) (fun _ => rfl) fun _ => List.Subset.refl _).trans
      (errorsAttached_attachDeferred ..)

theorem errorsAttached_loseRanges (cause : Nat) (l : List (Nat × Nat)) (s : State) :
    ErrorsAttached s (l.foldl (fun s p => loseRange s cause p.1 p.2) s) := by
  refine ErrorsAttached.foldl (fun u p => ?_) l s
  exact errorsAttached_loseRange u cause p.1 p.2

theorem errorsAttached_damageRanges (s : State) (l : List (Nat × Nat)) : ErrorsAttached s (damageRanges s l) :=
  errorsAttached_loseRanges 1 l s

/-! ### Take content that can no longer be written (R27) -/

theorem same_loseItem {q : Part} (h : q ∉ Part.gal :: reporting) (s : State) (i : GalItem) : q.same s (loseItem s i) := by
  obtain ⟨hgal, hrep⟩ : q ≠ .gal ∧ q ∉ reporting := by simpa using h
  unfold loseItem
  dsimp only
  split
  · exact same_gal hgal s _
  · exact (same_record hrep s ..).trans (same_gal hgal _ _)

theorem onlyRegs_loseItem (s : State) (i : GalItem) : onlyRegs [] s (loseItem s i) := fun j _ ho => by
  unfold loseItem
  dsimp only
  split
  · rfl
  · exact regGet_record _ _ _ _ _ _ j ho

theorem same_loseStuck {q : Part} (h : q ∉ Part.gal :: reporting) (s : State) : q.same s (loseStuck s) := by
  unfold loseStuck
  split
  · exact same_foldl (same_loseItem h) _ s
  · exact .refl q s

theorem onlyRegs_loseStuck (s : State) : onlyRegs [] s (loseStuck s) := by
  unfold loseStuck
  split
  · exact onlyRegs_foldl onlyRegs_loseItem _ s
  · exact .refl [] s

/-! ### A volume that becomes READ_ONLY (R240) -/

theorem mag_toReadOnly (s : State) : (toReadOnly s).mag = { s.mag with st := if s.mag.st = .mounted then .readOnly else s.mag.st } := by
  unfold toReadOnly
  split
  · exact Eq.trans (same_loseStuck (q := .mag) (by decide) _) (mag_magEvent ..)
  · rfl

theorem same_toReadOnly {q : Part} (h : q ∉ Part.gal :: .mag :: reporting) (s : State) : q.same s (toReadOnly s) := by
  obtain ⟨hgal, hmag, hrep⟩ : q ≠ .gal ∧ q ≠ .mag ∧ q ∉ reporting := by simpa using h
  unfold toReadOnly
  split
  · exact ((same_modMag hmag s _).trans (same_magEvent hrep ..)).trans (same_loseStuck (by simp [hgal, hrep]) _)
  · exact .refl q s

theorem onlyRegs_toReadOnly (s : State) : onlyRegs [0xF0080] s (toReadOnly s) := by
  unfold toReadOnly
  split
  · exact (onlyRegs_magEvent (modMag s _) 8 0x09 .degraded ctxNone).trans ((onlyRegs_loseStuck _).mono (by simp))
  · exact .refl _ s

theorem keepsRaised_toReadOnly (s : State) : KeepsRaised s (toReadOnly s) := by
  unfold toReadOnly
  split
  · exact (keepsRaised_magEvent (modMag s _) 8 0x09 .degraded ctxNone).trans ((onlyRegs_loseStuck _).keepsRaised (by simp))
  · exact fun _ _ h => h

theorem raised_toReadOnly {s : State} (h : s.mag.st = .mounted) : raised (toReadOnly s) .mag 8 := by
  rw [toReadOnly, if_pos h]
  exact (onlyRegs_loseStuck _).keepsRaised (by simp) 8 (by decide) (raised_magEvent (by decide) ..)

/-! ### A die that fails (R240) -/

/-- A die declared failed in the journal; `short` makes the groups' short stripes what they are from then on. -/
def dieMarked (s : State) (die : Nat) (short : SMap Nat → SMap Nat) : State :=
  modMag (modVol s fun v => { v with failed := v.failed ++ [die], records := v.records ++ [dieRec die], short := short v.short })
    fun m => { m with degraded := true, rebuild := true }

/-- A die declared failed in the journal, in the superblock and by its event. -/
def dieDeclared (s : State) (die : Nat) (short : SMap Nat → SMap Nat) : State :=
  magEvent (writeSuper (dieMarked s die short) false) 7 0x08 .degraded (ctxDie die)

/-- Another die of the same stripe group has failed before. -/
def secondOfGroup (v : Vol) (die : Nat) : Bool := v.failed.any fun d => decide (d / 16 = die / 16)

theorem failDie_of_new {s : State} {v : Vol} {die : Nat} (hv : s.mag.vol = some v) (hnew : die ∉ v.failed) (lost : List (Nat × Nat)) :
    ∃ short, failDie s die lost =
      if secondOfGroup v die then lost.foldl (fun s p => loseRange s 3 p.1 p.2) (toReadOnly (dieDeclared s die short))
      else dieDeclared s die short := by
  unfold failDie
  rw [hv]
  dsimp only
  rw [if_neg (by simpa using hnew)]
  exact ⟨fun m => if mHas m (die / 16) then m else mPut m (die / 16) _, rfl⟩

theorem failDie_of_known {s : State} {v : Vol} {die : Nat} (hv : s.mag.vol = some v) (hknown : die ∈ v.failed) (lost : List (Nat × Nat)) :
    failDie s die lost = s := by
  unfold failDie
  rw [hv]
  dsimp only
  rw [if_pos (by simpa using hknown)]

/-- A volume on which one more die has failed. -/
def withFailed (v : Vol) (die : Nat) (short : SMap Nat → SMap Nat) : Vol :=
  { v with failed := v.failed ++ [die], records := v.records ++ [dieRec die], short := short v.short, superSeq := v.superSeq + 1 }

theorem mag_dieDeclared {s : State} {v : Vol} (hv : s.mag.vol = some v) (die : Nat) (short : SMap Nat → SMap Nat) :
    (dieDeclared s die short).mag = { s.mag with vol := some (withFailed v die short), degraded := true, rebuild := true } := by
  rw [dieDeclared, mag_magEvent, mag_writeSuper]
  dsimp only [dieMarked, modVol, modMag]
  rw [hv]
  rfl

theorem same_dieDeclared {q : Part} (h : q ∉ Part.mag :: reporting) (s : State) (die : Nat) (short : SMap Nat → SMap Nat) :
    q.same s (dieDeclared s die short) := by
  obtain ⟨hmag, hrep⟩ : q ≠ .mag ∧ q ∉ reporting := by simpa using h
  have hout : q ≠ .out := by rintro rfl; exact hrep (by decide)
  exact (((same_modMag hmag s _).trans (same_modMag hmag _ _)).trans (same_writeSuper (by simp [hmag, hout]) _ false)).trans
    (same_magEvent hrep ..)

theorem regs_writeSuper (s : State) (clean : Bool) : (writeSuper s clean).regs = s.regs := same_writeSuper (q := .regs) (by decide) s clean

theorem onlyRegs_dieDeclared (s : State) (die : Nat) (short : SMap Nat → SMap Nat) : onlyRegs [0xF0080] s (dieDeclared s die short) :=
  (onlyRegs_of_regs (t := writeSuper (dieMarked s die short) false) (regs_writeSuper _ false)).trans
    (onlyRegs_magEvent _ 7 0x08 .degraded (ctxDie die))

theorem keepsRaised_dieDeclared (s : State) (die : Nat) (short : SMap Nat → SMap Nat) : KeepsRaised s (dieDeclared s die short) :=
  KeepsRaised.trans (t := writeSuper (dieMarked s die short) false)
    (keepsRaised_of_events (regGet_congr _ _ (regs_writeSuper (dieMarked s die short) false) _))
    (keepsRaised_magEvent _ 7 0x08 .degraded (ctxDie die))

/-- The magazine but for its volume and what is known of its dies. -/
def MagBlk.besidesDies (m : MagBlk) : MagBlk := { m with st := .empty, vol := none, degraded := false, rebuild := false, fails := [] }

/-- What failures of dies and blocks, and ranges that are lost with them, leave as it is. -/
structure DiesHurt (s t : State) : Prop where
  parts : ∀ q : Part, q ∉ Part.gal :: .hq :: .mag :: reporting → q.same s t
  regs : onlyRegs [0xF0054, 0xF0080] s t
  raised : KeepsRaised s t
  mag : t.mag.besidesDies = s.mag.besidesDies

theorem DiesHurt.refl (s : State) : DiesHurt s s := ⟨fun q _ => .refl q s, .refl _ s, fun _ _ h => h, rfl⟩

theorem DiesHurt.trans {s t u : State} (h : DiesHurt s t) (h' : DiesHurt t u) : DiesHurt s u :=
  ⟨fun q hq => (h.parts q hq).trans (h'.parts q hq), h.regs.trans h'.regs, h.raised.trans h'.raised, h'.mag.trans h.mag⟩

theorem ErrorsAttached.diesHurt {s t : State} (h : ErrorsAttached s t) : DiesHurt s t :=
  ⟨fun q hq => h.parts q fun hm => hq (List.mem_cons_of_mem _ hm), h.regs, h.raised,
    (congrArg MagBlk.besidesDies h.mag :)⟩

theorem diesHurt_toReadOnly (s : State) : DiesHurt s (toReadOnly s) where
  parts q hq := same_toReadOnly (fun hm => hq (by simp at hm ⊢; tauto)) s
  regs := (onlyRegs_toReadOnly s).mono (by simp)
  raised := keepsRaised_toReadOnly s
  mag := by rw [mag_toReadOnly]; rfl

/-- What it comes to that a die not yet known as failed is declared so. -/
structure DieFailed (v : Vol) (die : Nat) (s t : State) : Prop extends DiesHurt s t where
  failed : t.mag.vol.map (·.failed) = some (v.failed ++ [die])
  superSeq : t.mag.vol.map (·.superSeq) = some (v.superSeq + 1)
  journalled : ∀ w, t.mag.vol = some w → dieRec die ∈ w.records
  degraded : t.mag.degraded = true
  rebuild : t.mag.rebuild = true
  reported : Machine.raised t .mag 7
  alone : secondOfGroup v die = false → t.mag.st = s.mag.st ∧ t.mag.vol.map (·.records) = some (v.records ++ [dieRec die])
  second : secondOfGroup v die = true → s.mag.st = .mounted → t.mag.st = .readOnly ∧ Machine.raised t .mag 8

theorem dieFailed_failDie {s : State} {v : Vol} {die : Nat} (hv : s.mag.vol = some v) (hnew : die ∉ v.failed) (lost : List (Nat × Nat)) :
    DieFailed v die s (failDie s die lost) := by
  obtain ⟨short, heq⟩ := failDie_of_new hv hnew lost
  have hmag := mag_dieDeclared hv die short
  have hdeclared : DiesHurt s (dieDeclared s die short) := by
    refine ⟨fun q hq => same_dieDeclared (fun hm => hq (by simp at hm ⊢; tauto)) s die short, (onlyRegs_dieDeclared s die short).mono (by simp),
      keepsRaised_dieDeclared s die short, by rw [hmag]; rfl⟩
  have hraised : Machine.raised (dieDeclared s die short) .mag 7 := raised_magEvent (by decide) ..
  cases hsecond : secondOfGroup v die with
  | false =>
    rw [heq, hsecond, if_neg Bool.false_ne_true]
    exact { hdeclared with
      failed := by rw [hmag]; rfl, superSeq := by rw [hmag]; rfl, degraded := by rw [hmag], rebuild := by rw [hmag], reported := hraised
      journalled := fun w hw => by rw [hmag] at hw; exact Option.some.inj hw ▸ List.mem_append_right _ (List.mem_singleton.mpr rfl)
      alone := fun _ => by rw [hmag]; exact ⟨rfl, rfl⟩
      second := fun h => absurd (hsecond.symm.trans h) (by decide) }
  | true =>
    rw [heq, hsecond, if_pos rfl]
    have hread := diesHurt_toReadOnly (dieDeclared s die short)
    have hro := mag_toReadOnly (dieDeclared s die short)
    rw [hmag] at hro
    have hlost := errorsAttached_loseRanges 3 lost (toReadOnly (dieDeclared s die short))
    have hvol := hlost.vol
    rw [hro, Option.map_some] at hvol
    obtain ⟨w, hw, hrest⟩ := Option.map_eq_some_iff.mp hvol
    have hmag' := hlost.mag
    rw [hro] at hmag'
    refine { (hdeclared.trans hread).trans hlost.diesHurt with
      failed := ?_, superSeq := ?_, journalled := ?_, degraded := ?_, rebuild := ?_, reported := ?_, alone := ?_, second := ?_ }
    · rw [hw, Option.map_some, show w.failed = _ from (congrArg Vol.failed hrest :)]
      rfl
    · rw [hw, Option.map_some, show w.superSeq = _ from (congrArg Vol.superSeq hrest :)]
      rfl
    · intro x hx
      exact hlost.records _ x (by rw [hro]) hx (by simp [withFailed])
    · exact (congrArg MagBlk.degraded hmag' :)
    · exact (congrArg MagBlk.rebuild hmag' :)
    · exact hlost.raised 7 (by decide) (hread.raised 7 (by decide) hraised)
    · exact fun h => absurd (hsecond.symm.trans h) (by decide)
    · intro _ hst
      refine ⟨Eq.trans (congrArg MagBlk.st hmag' :) (if_pos hst), hlost.raised 8 (by decide) (raised_toReadOnly ?_)⟩
      rw [hmag]
      exact hst

end Sys2Proof.Machine
end

section
/-! Proof of the statement about reads of the magazine and dies that fall silent (R239, R240, R251, R254). -/

namespace Sys2Proof.Machine
open Sys2Proof

/-! ### The retry (R239, R254) -/

/-- Reads at one level after the other sent to a die. -/
def retried (s : State) (die : Nat) (l : List Nat) : State := l.foldl (fun s k => flashTo s (.retry k) die []) s

theorem same_retried {q : Part} (h : q ≠ .out) (s : State) (die : Nat) (l : List Nat) : q.same s (retried s die l) :=
  same_foldl (fun u _ => same_emit h u _) l s

theorem out_retried (die : Nat) (l : List Nat) : ∀ s : State,
    (retried s die l).out = (l.map fun k => Out.flash (.retry k) (dieAddr s.mag.chans die) []).reverse ++ s.out := by
  induction l with
  | nil => exact fun _ => rfl
  | cons k l ih =>
    intro s
    rw [retried, List.foldl_cons, ← retried, ih, List.map_cons, List.reverse_cons, List.append_assoc]
    rfl

/-- The levels that a retry goes through until one succeeds, or all of them. -/
def triedLevels (s : State) (levels : Nat) (good : Option Nat) : List Nat :=
  let l := retryLevels (regField s 0xF0024 (8 * (s.thm.band % 4) + 7) (8 * (s.thm.band % 4))) levels
  match good with
  | some k => l.take (k + 1)
  | none => l

theorem mapped_of_filter {l : List Ext} {vsa : Nat} {e : Ext}
    (h : l.filter (fun e => decide (e.vsa < vsa + 1) && decide (vsa < e.vsa + e.n)) = [e]) :
    (e.vsa ≤ vsa ∧ vsa < e.vsa + e.n) ∧ (l.any fun e => decide (e.vsa ≤ vsa) && decide (vsa < e.vsa + e.n)) = true := by
  have hmem : e ∈ l.filter fun e => decide (e.vsa < vsa + 1) && decide (vsa < e.vsa + e.n) := by rw [h]; exact List.mem_singleton.mpr rfl
  obtain ⟨he, hb⟩ := List.mem_filter.mp hmem
  have hb' : e.vsa ≤ vsa ∧ vsa < e.vsa + e.n := by simpa [Nat.lt_succ_iff] using hb
  exact ⟨hb', List.any_eq_true.mpr ⟨e, he, by simpa using hb'⟩⟩

/-- A sector that lies in an extent and is lost. -/
theorem loseExt_sector {e : Ext} {vsa : Nat} (h : e.vsa ≤ vsa ∧ vsa < e.vsa + e.n) (cause : Nat) (s : State) :
    loseExt cause vsa 1 s e = attachDeferred (modVol s fun v => withBad v [vsa]) cause e.kind vsa 1 (if e.kind ≤ 2 then e.take else 0)
      e.ord e.slot e.no := by
  have hmax : max e.vsa vsa = vsa := Nat.max_eq_right h.1
  have hmin : min (e.vsa + e.n) (vsa + 1) - vsa = 1 := by omega
  unfold loseExt
  rw [hmax]
  dsimp only
  rw [hmin]
  rfl

/-! ### SECTOR_READ -/

section
variable {s : State} {vsa die levels : Nat} {v : Vol} {e : Ext} (hl : s.live = true) (hv : s.mag.vol = some v)
  (hst : isMounted s = true ∨ s.mag.st = .ejecting)
  (he : v.exts.filter (fun e => decide (e.vsa < vsa + 1) && decide (vsa < e.vsa + e.n)) = [e])
include hl hv hst he

theorem sectorRead_of_mapped (good : Option Nat) (rebuilt : Bool) : exec (.sectorRead vsa die levels good rebuilt) s = .next (endCycle s
    (if good.any (fun k => decide (k < levels)) then count (retried s die (triedLevels s levels good)) 0xF0048
      else if rebuilt then modVol (count (retried s die (triedLevels s levels good)) 0xF004C) fun v =>
        { v with moves := if v.moves.contains vsa then v.moves else v.moves ++ [vsa] }
      else loseRange (count (retried s die (triedLevels s levels good)) 0xF0050) 2 vsa 1)) := by
  obtain ⟨-, hany⟩ := mapped_of_filter he
  rw [show exec (.sectorRead vsa die levels good rebuilt) s = execSectorRead vsa die levels good rebuilt s from rfl, execSectorRead,
    inCore_of_live hl, hv]
  dsimp only
  rw [if_neg (by simpa [hany] using fun h => hst.resolve_left (by simp [h]))]
  rfl

theorem sectorRead_retried {k : Nat} (hk : k < levels) (rebuilt : Bool) :
    ∃ t, exec (.sectorRead vsa die levels (some k) rebuilt) s = .next t ∧ regGet t 0xF0048 = satInc (regGet s 0xF0048) ∧
      t.out = ((triedLevels s levels (some k)).map fun l => Out.flash (.retry l) (dieAddr s.mag.chans die) []).reverse ++ s.out ∧
      onlyRegs [0xF0048] s t ∧ onlyChanges [.regs, .out] s t := by
  have hregs := same_retried (q := .regs) (by decide) s die (triedLevels s levels (some k))
  refine ⟨_, (sectorRead_of_mapped hl hv hst he (some k) rebuilt).trans (by rw [Option.any_some, decide_eq_true hk, if_pos rfl]), ?_, ?_,
    onlyRegs_endCycle ((onlyRegs_of_regs hregs).trans (onlyRegs_count _ _)), onlyChanges_endCycle fun q hq _ _ => ?_⟩
  · rw [regGet_endCycle, regGet_count_self (maskOf_magCounts _ (by decide)), regGet_congr _ _ hregs]
  · rw [endCycle_out]
    exact out_retried ..
  · obtain ⟨hr, ho⟩ : q ≠ .regs ∧ q ≠ .out := by simpa using hq
    exact (same_retried ho s die _).trans (same_count hr _ _)

theorem sectorRead_rebuilt :
    ∃ t, exec (.sectorRead vsa die levels none true) s = .next t ∧ regGet t 0xF004C = satInc (regGet s 0xF004C) ∧
      t.mag.vol = some { v with moves := if v.moves.contains vsa then v.moves else v.moves ++ [vsa] } ∧
      onlyRegs [0xF004C] s t ∧ onlyChanges [.regs, .out, .mag] s t := by
  let u := retried s die (triedLevels s levels none)
  have hregs : u.regs = s.regs := same_retried (q := .regs) (by decide) s die _
  have hmag : u.mag = s.mag := same_retried (q := .mag) (by decide) s die _
  have hexec : exec (.sectorRead vsa die levels none true) s = .next (endCycle s (modVol (count u 0xF004C) fun v =>
      { v with moves := if v.moves.contains vsa then v.moves else v.moves ++ [vsa] })) := sectorRead_of_mapped hl hv hst he none true
  refine ⟨_, hexec, ?_, ?_, onlyRegs_endCycle ((onlyRegs_of_regs hregs).trans (onlyRegs_count u _)),
    onlyChanges_endCycle fun q hq _ _ => ?_⟩
  · rw [regGet_endCycle, ← regGet_congr _ _ hregs]
    exact regGet_count_self (maskOf_magCounts _ (by decide)) u
  · rw [endCycle_mag]
    change u.mag.vol.map _ = _
    rw [hmag, hv]
    rfl
  · obtain ⟨hr, ho, hm⟩ : q ≠ .regs ∧ q ≠ .out ∧ q ≠ .mag := by simpa using hq
    exact ((same_retried ho s die _).trans (same_count hr _ _)).trans (same_modMag hm _ _)

theorem sectorRead_lost :
    ∃ t w d, exec (.sectorRead vsa die levels none false) s = .next t ∧ regGet t 0xF0050 = satInc (regGet s 0xF0050) ∧
      t.mag.vol = some w ∧ w.bad = v.bad ++ [vsa] ∧ w.defs = v.defs ++ [d] ∧ d.seq = v.attachments + 1 ∧ d.cause = 2 ∧
      d.vsa = vsa ∧ d.n = 1 ∧ d.kind = e.kind ∧ regGet t 0xF0054 = satInc (regGet s 0xF0054) ∧ raised t .mag 9 ∧
      onlyRegs [0xF0050, 0xF0054, 0xF0080] s t ∧ onlyChanges (.mag :: .hq :: reporting) s t := by
  obtain ⟨hin, -⟩ := mapped_of_filter he
  let u := count (retried s die (triedLevels s levels none)) 0xF0050
  have hregs : (retried s die (triedLevels s levels none)).regs = s.regs := same_retried (q := .regs) (by decide) s die _
  have hmag : u.mag = s.mag := same_retried (q := .mag) (by decide) s die _
  have hcount : onlyRegs [0xF0050] s u := (onlyRegs_of_regs hregs).trans (onlyRegs_count _ 0xF0050)
  have hbad : (modVol u fun v => withBad v [vsa]).mag.vol = some (withBad v [vsa]) := by
    change u.mag.vol.map _ = _
    rw [hmag, hv]
    rfl
  have hlost : loseRange u 2 vsa 1 = attachDeferred (modVol u fun v => withBad v [vsa]) 2 e.kind vsa 1 (if e.kind ≤ 2 then e.take else 0)
      e.ord e.slot e.no := by
    rw [loseRange_eq (hmag ▸ hv), he, List.foldl_cons, List.foldl_nil, loseExt_sector hin]
  have hexec : exec (.sectorRead vsa die levels none false) s = .next (endCycle s (loseRange u 2 vsa 1)) :=
    sectorRead_of_mapped hl hv hst he none false
  have hattached := errorsAttached_loseRange u 2 vsa 1
  refine ⟨_, withAttachment (withBad v [vsa]) (attachment (withBad v [vsa]) 2 e.kind vsa 1 (if e.kind ≤ 2 then e.take else 0) e.ord e.slot e.no),
    _, hexec, ?_, ?_, rfl, rfl, rfl, rfl, rfl, rfl, rfl, ?_, ?_, ?_,
    onlyChanges_endCycle fun q hq _ _ => ?_⟩
  · rw [regGet_endCycle, ← regGet_congr _ _ hregs]
    exact (hattached.regs _ (by decide) (by unfold outsideFlt; omega)).trans (regGet_count_self (maskOf_magCounts _ (by decide)) _)
  · rw [endCycle_mag, hlost, mag_attachDeferred hbad]
  · rw [regGet_endCycle, ← hcount _ (by decide) (by unfold outsideFlt; omega), hlost, regGet_attachDeferred hbad]
    rfl
  · exact raised_endCycle (hlost ▸ raised_attachDeferred hbad ..)
  · exact onlyRegs_endCycle ((hcount.mono (by simp)).trans (hattached.regs.mono (by simp)))
  · obtain ⟨hm, hh, hr⟩ : q ≠ .mag ∧ q ≠ .hq ∧ q ∉ reporting := by simpa using hq
    have ho : q ≠ .out ∧ q ≠ .regs := ⟨by rintro rfl; exact hr (by decide), by rintro rfl; exact hr (by decide)⟩
    exact ((same_retried ho.1 s die _).trans (same_count ho.2 _ _)).trans (hattached.parts q (by simp [hm, hh, hr]))

end

/-! ### DIE_SILENT (R240) -/

theorem dieSilent_of_live {s : State} (hl : s.live = true) (die : Nat) (lost : List (Nat × Nat)) :
    exec (.dieSilent die lost) s = .next (endCycle s (failDie s die lost)) := inCore_of_live hl fun s => failDie s die lost

theorem secondOfGroup_iff {v : Vol} {die : Nat} : secondOfGroup v die = true ↔ ∃ d ∈ v.failed, d / 16 = die / 16 := by
  simp [secondOfGroup]

theorem dieSilent_declares {s : State} {v : Vol} {die : Nat} (hl : s.live = true) (hv : s.mag.vol = some v) (hnew : die ∉ v.failed)
    (lost : List (Nat × Nat)) :
    ∃ t w, exec (.dieSilent die lost) s = .next t ∧ t.mag.vol = some w ∧ w.failed = v.failed ++ [die] ∧ dieRec die ∈ w.records ∧
      w.superSeq = v.superSeq + 1 ∧ t.mag.degraded = true ∧ t.mag.rebuild = true ∧ raised t .mag 7 ∧
      ((∀ d ∈ v.failed, d / 16 ≠ die / 16) → t.mag.st = s.mag.st ∧ w.records = v.records ++ [dieRec die]) ∧
      ((∃ d ∈ v.failed, d / 16 = die / 16) → s.mag.st = .mounted → t.mag.st = .readOnly ∧ raised t .mag 8) ∧
      onlyRegs [0xF0054, 0xF0080] s t ∧ onlyChanges (.gal :: .hq :: .mag :: reporting) s t := by
  have h := dieFailed_failDie hv hnew lost
  obtain ⟨w, hw, hfailed⟩ := Option.map_eq_some_iff.mp h.failed
  have hsuper := h.superSeq
  rw [hw] at hsuper
  refine ⟨_, w, dieSilent_of_live hl die lost, by rw [endCycle_mag, hw], hfailed, h.journalled w hw, Option.some.inj hsuper,
    by rw [endCycle_mag, h.degraded], by rw [endCycle_mag, h.rebuild], raised_endCycle h.reported, fun hne => ?_, fun hsecond hst => ?_,
    onlyRegs_endCycle h.regs, onlyChanges_endCycle fun q hq _ _ => h.parts q hq⟩
  · obtain ⟨hst, hrecords⟩ := h.alone (Bool.eq_false_iff.mpr fun hs => by
      obtain ⟨d, hd, hg⟩ := secondOfGroup_iff.mp hs
      exact hne d hd hg)
    rw [hw] at hrecords
    exact ⟨by rw [endCycle_mag, hst], Option.some.inj hrecords⟩
  · obtain ⟨hro, hr⟩ := h.second (secondOfGroup_iff.mpr hsecond) hst
    exact ⟨by rw [endCycle_mag, hro], raised_endCycle hr⟩

/-- Settles O30: a read by what the retry and the rebuild come to, a silent die by whether it is known to have failed. -/
theorem magazineReadsAndDieFailures : Obligations.MagazineReadsAndDieFailures := by
  refine ⟨fun s vsa die levels v e hl hv hst he => ⟨fun k b start hk hstart => ?_, sectorRead_rebuilt hl hv hst he,
    sectorRead_lost hl hv hst he⟩, fun s die lost v hl hv => ⟨fun hnew => dieSilent_declares hl hv hnew lost, fun hknown => ?_⟩⟩
  · subst hstart
    exact sectorRead_retried hl hv hst he hk b
  · exact ⟨_, (dieSilent_of_live hl die lost).trans (by rw [failDie_of_known hv hknown]), onlyChanges_nothing s⟩

end Sys2Proof.Machine
end

section
/-! What the magazine's housekeeping leaves as it is: answers, completions, the ends of takes, checks of space, merged writes and
superblocks (R235, R236, R242, R245, R250, R360). -/

namespace Sys2Proof.Machine
open Sys2Proof

/-! ### Answers in any mailbox slot (R378) -/

theorem regGet_sourceEdge_below {j : Nat} (h : j < 0x190000) (s : State) (i : Nat) : regGet (sourceEdge s i) j = regGet s j := by
  have hpending : j ≠ pendingReg i := by unfold pendingReg; omega
  have hhost : j ≠ hostPendingReg i := by unfold hostPendingReg; omega
  have hmerged : j ≠ mergedReg := by unfold mergedReg; omega
  unfold sourceEdge
  split
  · dsimp only
    split <;> split <;> simp [regGet_regSet, regGet_count, hpending, hhost, hmerged]
  · rfl

theorem regGet_mbxNotify_below {j : Nat} (h : j < 0x190000) (s : State) (p : Party) (slot : Nat) :
    regGet (mbxNotify s p slot) j = regGet s j := by
  cases p with
  | user u => exact regGet_sourceEdge_below h s _
  | _ => exact regGet_msixSend ..

/-- A register that lies in no slot's STATE or response, whichever the slot is. -/
theorem regGet_mbxDone_aside {j : Nat} (hj : j < 0x190000) (hslot : j % 0x400 < 0x200 ∧ j % 0x400 ≠ 4) (hc : j ≠ 0x1C004) (s : State)
    (p : Party) (slot status detail r0 r1 : Nat) (data : List Byte) : regGet (mbxDone s p slot status detail r0 r1 data) j = regGet s j := by
  have hbase := mbxBase_mod p slot
  rw [mbxDone_eq, regGet_mbxNotify_below hj, regGet_count_ne _ _ _ hc, regGet_mbxStopped, mbxWritten, setMbxState, regPut,
    regGet_regSet_ne _ _ _ _ (by omega), regGet_regSetWide_outside _ _ (by rw [wordsOf_length]; omega)]

/-! ### What is kept -/

/-- The pins that the device drives, and the requests for a power state and for an eject. -/
def magPins (m : MagBlk) : Bool × Bool × Option (Nat × Option (Party × Nat)) × Option (Option (Party × Nat)) :=
  (m.vccEn, m.locked, m.transition, m.eject)

/-- What housekeeping leaves as it is: pins and requests, the units under way, COMMIT_SEQ, the galley but for items that leave it, events
raised, and the count of units. -/
structure MagKept (s t : State) : Prop where
  pins : magPins t.mag = magPins s.mag
  units : t.mag.units = s.mag.units
  durable : t.mag.vol.map (·.durableSeq) = s.mag.vol.map (·.durableSeq)
  items : t.gal.items ⊆ s.gal.items
  raised : KeepsRaised s t
  written : regGet t 0xF0058 = regGet s 0xF0058

theorem MagKept.refl (s : State) : MagKept s s := ⟨rfl, rfl, rfl, List.Subset.refl _, fun _ _ h => h, rfl⟩

theorem MagKept.trans {s t u : State} (h : MagKept s t) (h' : MagKept t u) : MagKept s u :=
  ⟨h'.pins.trans h.pins, h'.units.trans h.units, h'.durable.trans h.durable, List.Subset.trans h'.items h.items, h.raised.trans h'.raised,
    h'.written.trans h.written⟩

theorem MagKept.foldl {α : Type} {f : State → α → State} (h : ∀ s x, MagKept s (f s x)) (l : List α) : ∀ s, MagKept s (l.foldl f s) := by
  induction l with
  | nil => exact .refl
  | cons x l ih => exact fun s => (h s x).trans (ih _)

theorem written_outside : outsideFlt 0xF0058 := by unfold outsideFlt; omega

/-- Operations that reach neither the magazine, nor its registers, nor the galley but to take items from it. -/
theorem magKept_of_parts {s t : State} {l : List Nat} (hmag : t.mag = s.mag) (hitems : t.gal.items ⊆ s.gal.items) (hregs : onlyRegs l s t)
    (hraised : KeepsRaised s t) (hl : 0xF0058 ∉ l) : MagKept s t :=
  ⟨by rw [hmag], by rw [hmag], by rw [hmag], hitems, hraised, hregs _ hl written_outside⟩

/-- Operations on other parts of the magazine. -/
theorem magKept_of_mag {s t : State} (hpins : magPins t.mag = magPins s.mag) (hunits : t.mag.units = s.mag.units)
    (hvol : t.mag.vol.map (·.durableSeq) = s.mag.vol.map (·.durableSeq)) (hgal : t.gal = s.gal) (hregs : t.regs = s.regs) : MagKept s t :=
  ⟨hpins, hunits, hvol, hgal ▸ List.Subset.refl _, keepsRaised_of_events (regGet_congr _ _ hregs _), regGet_congr _ _ hregs _⟩

theorem magKept_magEvent (s : State) (i code : Nat) (sev : Severity) (ctx : Ctx) : MagKept s (magEvent s i code sev ctx) :=
  magKept_of_parts (mag_magEvent ..) (by rw [gal_magEvent]; exact List.Subset.refl _) (onlyRegs_magEvent s i code sev ctx)
    (keepsRaised_magEvent s i code sev ctx) (by decide)

theorem magKept_mbxReply (s : State) (p : Party) (slot status detail r0 r1 : Nat) :
    MagKept s (mbxReply s p slot status detail r0 r1) where
  pins := by rw [mbxReply, same_mbxDone (q := .mag) (by decide)]
  units := by rw [mbxReply, same_mbxDone (q := .mag) (by decide)]
  durable := by rw [mbxReply, same_mbxDone (q := .mag) (by decide)]
  items := by
    rw [mbxReply, same_mbxDone (q := .gal) (by decide)]
    exact List.Subset.refl _
  raised := keepsRaised_of_events (regGet_mbxDone_aside (by decide) (by decide) (by decide) ..)
  written := regGet_mbxDone_aside (by decide) (by decide) (by decide) ..

theorem mag_mbxReply (s : State) (p : Party) (slot status detail r0 r1 : Nat) : (mbxReply s p slot status detail r0 r1).mag = s.mag :=
  same_mbxDone (q := .mag) (by decide) ..

/-! ### The galley's items (R27, R219) -/

theorem magKept_setItems {s : State} {l : List GalItem} (h : l ⊆ s.gal.items) : MagKept s (setItems s l) :=
  magKept_of_parts (l := []) rfl h (onlyRegs_of_regs rfl) (fun _ _ h => h) (by decide)

theorem magKept_freeItem (s : State) (i : Nat) : MagKept s (freeItem s i) := magKept_setItems (List.filter_subset_self _)

theorem magKept_record (s : State) (tag code : Nat) (sev : Severity) (ctx : Ctx) (status : Nat) :
    MagKept s (record s tag code sev ctx status) := by
  have hregs : onlyRegs [] s (record s tag code sev ctx status) := fun j _ ho => regGet_record _ _ _ _ _ _ j ho
  exact magKept_of_parts (same_record (q := .mag) (by decide) ..)
    (by rw [same_record (q := .gal) (by decide)]; exact List.Subset.refl _) hregs (hregs.keepsRaised (by simp)) (by simp)

theorem magKept_loseItem (s : State) (i : GalItem) : MagKept s (loseItem s i) := by
  unfold loseItem
  dsimp only
  split
  · exact magKept_freeItem s _
  · exact (magKept_record s ..).trans (magKept_freeItem _ _)

theorem magKept_loseStuck (s : State) : MagKept s (loseStuck s) := by
  unfold loseStuck
  split
  · exact .foldl magKept_loseItem _ s
  · exact .refl s

theorem magKept_syncWait (s : State) : MagKept s (syncWait s) := by
  have hclock (u : State) (x : GalBlk) (hx : x.items = u.gal.items) : MagKept u { u with gal := x } :=
    magKept_of_parts (l := []) rfl (hx ▸ List.Subset.refl _) (onlyRegs_of_regs rfl) (fun _ _ h => h) (by decide)
  unfold syncWait
  dsimp only
  split
  · exact (magKept_loseStuck s).trans (hclock _ _ rfl)
  · exact (magKept_loseStuck s).trans (hclock _ _ rfl)
  · exact magKept_loseStuck s

/-- On a volume that is not READ_ONLY the clock of waiting take units changes the galley alone. -/
theorem same_syncWait_of_st {q : Part} (h : q ≠ .gal) {s : State} (hst : s.mag.st ≠ .readOnly) : q.same s (syncWait s) := by
  have hstuck : loseStuck s = s := if_neg hst
  unfold syncWait
  rw [hstuck]
  dsimp only
  split
  · exact same_gal h s _
  · exact same_gal h s _
  · exact .refl q s

/-! ### Completions and flushes (R235, R236, R360) -/

theorem magKept_of_completing {s t : State} (h : ∀ q : Part, q ∉ completing → q.same s t) : MagKept s t := by
  have hregs : t.regs = s.regs := h .regs (by decide)
  have hgal : t.gal = s.gal := h .gal (by decide)
  exact magKept_of_parts (l := []) (h .mag (by decide)) (by rw [hgal]; exact List.Subset.refl _) (onlyRegs_of_regs hregs)
    (keepsRaised_of_events (regGet_congr _ _ hregs _)) (by decide)

theorem magKept_settleFlushes (s : State) : MagKept s (settleFlushes s) := magKept_of_completing fun _ hq => same_settleFlushes hq s

theorem same_endMagCommands {q : Part} (h : q ∉ completing) (s : State) (forRemoval : Bool) : q.same s (endMagCommands s forRemoval) := by
  refine same_foldl (fun u x => same_foldl (fun w c => ?_) _ u) _ s
  split
  · split
    · exact same_complete h w ..
    · split
      · exact same_complete h w ..
      · exact .refl q w
  · exact .refl q w

theorem magKept_endMagCommands (s : State) (forRemoval : Bool) : MagKept s (endMagCommands s forRemoval) :=
  magKept_of_completing fun _ hq => same_endMagCommands hq s forRemoval

/-! ### Space (R250) -/

/-- A check of space sets LOW_SPACE's state, may end the parts of takes, and may raise its event. -/
theorem checkSpace_eq (s : State) : checkSpace s = s ∨ ∃ low slots, ∃ u, (u = s ∨ ∃ ctx, u = magEvent s 10 0x0B .info ctx) ∧
    checkSpace s = modMag u fun m => { m with vol := m.vol.map fun v => { v with low := low }, takeSlots := slots } := by
  unfold checkSpace
  split
  · exact .inl rfl
  · extract_lets f low u w
    refine .inr ?_
    have hu : u = s ∨ ∃ ctx, u = magEvent s 10 0x0B .info ctx := by
      dsimp only [u]
      split
      · exact .inr ⟨_, rfl⟩
      · exact .inl rfl
    split
    · exact ⟨low, _, u, hu, rfl⟩
    · exact ⟨low, u.mag.takeSlots, u, hu, rfl⟩

theorem magKept_checkSpace (s : State) : MagKept s (checkSpace s) := by
  rcases checkSpace_eq s with h | ⟨low, slots, u, hu, h⟩ <;> rw [h]
  · exact .refl s
  · have hvol : MagKept u (modMag u fun m => { m with vol := m.vol.map fun v => { v with low := low }, takeSlots := slots }) :=
      magKept_of_mag rfl rfl (Option.map_map ..) rfl rfl
    rcases hu with rfl | ⟨ctx, rfl⟩
    · exact hvol
    · exact (magKept_magEvent s 10 0x0B .info ctx).trans hvol

theorem mag_checkSpace (s : State) : ∃ (low : Vol → Bool) (slots : List TakeSlot), (checkSpace s).mag =
    { s.mag with vol := s.mag.vol.map fun v => { v with low := low v }, takeSlots := slots } := by
  rcases checkSpace_eq s with h | ⟨low, slots, u, hu, h⟩ <;> rw [h]
  · exact ⟨(·.low), s.mag.takeSlots, by cases s.mag; simp⟩
  · have hmag : u.mag = s.mag := by
      rcases hu with rfl | ⟨ctx, rfl⟩
      · rfl
      · exact mag_magEvent ..
    exact ⟨fun _ => low, slots, by rw [← hmag]; rfl⟩

theorem same_checkSpace {q : Part} (h : q ∉ Part.mag :: reporting) (s : State) : q.same s (checkSpace s) := by
  obtain ⟨hmag, hrep⟩ : q ≠ .mag ∧ q ∉ reporting := by simpa using h
  rcases checkSpace_eq s with hc | ⟨low, slots, u, hu, hc⟩ <;> rw [hc]
  · exact .refl q s
  · rcases hu with rfl | ⟨ctx, rfl⟩
    · exact same_modMag hmag _ _
    · exact (same_magEvent hrep ..).trans (same_modMag hmag _ _)

theorem onlyRegs_checkSpace (s : State) : onlyRegs [0xF0080] s (checkSpace s) := by
  rcases checkSpace_eq s with hc | ⟨low, slots, u, hu, hc⟩ <;> rw [hc]
  · exact .refl _ s
  · rcases hu with rfl | ⟨ctx, rfl⟩
    · exact .refl _ _
    · exact onlyRegs_magEvent s 10 0x0B .info ctx

/-! ### The ends of takes (R245) -/

theorem magKept_takeClosed (s : State) (j : Nat) (x : Take) : MagKept s (takeClosed s j x) := by
  unfold takeClosed
  extract_lets u
  have hu : MagKept s u := magKept_of_mag rfl rfl (Option.map_map ..) rfl rfl
  split
  · exact hu.trans (magKept_magEvent u 11 0x0C .degraded _)
  · exact hu

theorem magKept_closeTake (s : State) (j : Nat) : MagKept s (closeTake s j) := by
  unfold closeTake
  split
  · split
    · exact .refl s
    · exact (magKept_takeClosed s j _).trans (.foldl (fun u w => magKept_mbxReply u ..) _ _)
  · exact .refl s

theorem magKept_settleTakes (s : State) : MagKept s (settleTakes s) := by
  cases hv : s.mag.vol with
  | none =>
    rw [settleTakes, hv]
    exact .refl s
  | some v =>
    rw [settleTakes_eq hv]
    exact .foldl magKept_closeTake _ s

/-! ### Host writes that merge, and superblocks (R242, R357) -/

theorem magKept_mergeOps (k : Nat) : ∀ s, MagKept s (mergeOps k s) := by
  induction k with
  | zero => exact .refl
  | succ k ih =>
    intro s
    unfold mergeOps
    split
    · split
      · exact .refl s
      · refine MagKept.trans ?_ (ih _)
        exact magKept_of_mag rfl rfl (Option.map_map ..) rfl rfl
    · exact .refl s

theorem magKept_writeSuper (s : State) (clean : Bool) : MagKept s (writeSuper s clean) where
  pins := by rw [mag_writeSuper]; rfl
  units := by rw [mag_writeSuper]
  durable := by
    rw [mag_writeSuper]
    exact Option.map_map ..
  items := by
    rw [same_writeSuper (q := .gal) (by decide)]
    exact List.Subset.refl _
  raised := keepsRaised_of_events (regGet_congr _ _ (regs_writeSuper s clean) _)
  written := regGet_congr _ _ (regs_writeSuper s clean) _

/-! ### Deferred errors (R251) -/

theorem ErrorsAttached.magKept {s t : State} (h : ErrorsAttached s t) : MagKept s t := by
  have hgal : t.gal = s.gal := h.parts .gal (by decide)
  refine ⟨(congrArg magPins h.mag :), (congrArg MagBlk.units h.mag :), ?_, by rw [hgal]; exact List.Subset.refl _, h.raised,
    h.regs _ (by decide) written_outside⟩
  have hvol := congrArg (Option.map (·.durableSeq)) h.vol
  rw [Option.map_map, Option.map_map] at hvol
  exact hvol

end Sys2Proof.Machine
end

section
/-! Commit units: their strips issued, their place in the log, their start, their durability, and a copy that is written again (R237, R238,
R243, R247, R249). -/

namespace Sys2Proof.Machine
open Sys2Proof

/-! ### Parts that stay -/

theorem same_modVol {q : Part} (h : q ≠ .mag) (s : State) (f : Vol → Vol) : q.same s (modVol s f) := same_modMag h s _

theorem same_setItems {q : Part} (h : q ≠ .gal) (s : State) (l : List GalItem) : q.same s (setItems s l) := same_gal h s _

/-! ### Strips issued (R238) -/

/-- A unit but for which of its strips have been issued. -/
def MUnit.laid (u : MUnit) : MUnit := { u with progs := u.progs.map fun p => { p with issued := true } }

/-- The magazine but for its units. -/
def MagBlk.besidesUnits (m : MagBlk) : MagBlk := { m with units := [] }

/-- What issuing strips leaves as it is: all but outputs and which strips of which units have been issued. -/
structure Issued (s t : State) : Prop where
  parts : ∀ q : Part, q ∉ [Part.mag, .out] → q.same s t
  mag : t.mag.besidesUnits = s.mag.besidesUnits
  seqs : t.mag.units.map (·.seq) = s.mag.units.map (·.seq)
  unit : ∀ seq, (unitOf t seq).map MUnit.laid = (unitOf s seq).map MUnit.laid

theorem Issued.refl (s : State) : Issued s s := ⟨fun q _ => .refl q s, rfl, rfl, fun _ => rfl⟩

theorem Issued.trans {s t u : State} (h : Issued s t) (h' : Issued t u) : Issued s u :=
  ⟨fun q hq => (h.parts q hq).trans (h'.parts q hq), h'.mag.trans h.mag, h'.seqs.trans h.seqs, fun k => (h'.unit k).trans (h.unit k)⟩

theorem Issued.foldl {α : Type} {f : State → α → State} (h : ∀ s x, Issued s (f s x)) (l : List α) : ∀ s, Issued s (l.foldl f s) := by
  induction l with
  | nil => exact .refl
  | cons x l ih => exact fun s => (h s x).trans (ih _)

theorem seq_of_unitOf {s : State} {k : Nat} {u : MUnit} (h : unitOf s k = some u) : u.seq = k := by
  simpa using List.find?_some h

theorem unitOf_eq_none {s : State} {k : Nat} : unitOf s k = none ↔ k ∉ s.mag.units.map (·.seq) := by
  simp [unitOf, List.find?_eq_none]

theorem unitOf_setUnit (s : State) (w : MUnit) (k : Nat) :
    unitOf (setUnit s w) k = (unitOf s k).map fun x => if x.seq = w.seq then w else x := by
  have hpred : ((fun u : MUnit => decide (u.seq = k)) ∘ fun x => if x.seq = w.seq then w else x) = fun u => decide (u.seq = k) := by
    funext x
    by_cases h : x.seq = w.seq
    · simp [h]
    · simp [h]
  change (s.mag.units.map fun x => if x.seq = w.seq then w else x).find? _ = _
  rw [List.find?_map, hpred]
  rfl

theorem unitOf_setUnit_self {s : State} {u w : MUnit} {k : Nat} (hu : unitOf s k = some u) (hw : w.seq = u.seq) :
    unitOf (setUnit s w) k = some w := by
  rw [unitOf_setUnit, hu, Option.map_some, if_pos hw.symm]

theorem seqs_setUnit (s : State) (w : MUnit) : (setUnit s w).mag.units.map (·.seq) = s.mag.units.map (·.seq) := by
  change (s.mag.units.map fun x => if x.seq = w.seq then w else x).map _ = _
  rw [List.map_map]
  refine List.map_congr_left fun x _ => ?_
  by_cases h : x.seq = w.seq
  · simp [h]
  · simp [h]

theorem issued_setUnit {s : State} {u w : MUnit} {k : Nat} (hu : unitOf s k = some u) (hw : w.laid = u.laid) : Issued s (setUnit s w) where
  parts q hq := same_modMag (by rintro rfl; simp at hq) s _
  mag := rfl
  seqs := seqs_setUnit s w
  unit j := by
    rw [unitOf_setUnit]
    cases hx : unitOf s j with
    | none => rfl
    | some x =>
      have hseq : w.seq = u.seq := (congrArg MUnit.seq hw :)
      by_cases hxw : x.seq = w.seq
      · have hj : j = k := by rw [← seq_of_unitOf hx, hxw, hseq, seq_of_unitOf hu]
        have hxu : x = u := by rw [hj, hu] at hx; exact (Option.some.inj hx).symm
        rw [Option.map_some, if_pos hxw, Option.map_some, Option.map_some, hw, hxu]
      · rw [Option.map_some, if_neg hxw]

/-- A program marked in a way that its unit's strips do not show once all count as issued. -/
theorem laid_set {u : MUnit} {i : Nat} {p : Prog} (h : u.progs[i]? = some p) :
    MUnit.laid { u with progs := u.progs.set i { p with issued := true } } = u.laid := by
  obtain ⟨hi, hp⟩ := List.getElem?_eq_some_iff.mp h
  have hset : (u.progs.set i { p with issued := true }).map (fun p => { p with issued := true }) =
      u.progs.map fun p => { p with issued := true } := by
    rw [List.map_set]
    refine List.ext_getElem? fun j => ?_
    by_cases hj : i = j
    · subst hj
      simp [hi, hp]
    · rw [List.getElem?_set_ne hj]
  simp only [MUnit.laid, hset]

theorem issued_issueOne (s : State) (k i : Nat) : Issued s (issueOne s k i) := by
  unfold issueOne
  split
  · exact .refl s
  · rename_i u hu
    split
    · exact .refl s
    · rename_i p hp
      split
      · exact .refl s
      · have hset : Issued s (setUnit s { u with progs := u.progs.set i { p with issued := true } }) := issued_setUnit hu (laid_set hp)
        exact hset.trans ⟨fun q hq => same_emit (by rintro rfl; simp at hq) _ _, rfl, rfl, fun _ => rfl⟩

theorem issued_issueStrips (s : State) : Issued s (issueStrips s) := by
  refine Issued.foldl (fun w u => ?_) _ s
  refine Issued.foldl (fun x i => ?_) _ w
  exact issued_issueOne x u.seq i

theorem Issued.mag_eq {s t : State} (h : Issued s t) {α : Type} (f : MagBlk → α) (hf : ∀ m, f m = f m.besidesUnits) : f t.mag = f s.mag := by
  rw [hf, h.mag, ← hf]

theorem Issued.regs {s t : State} (h : Issued s t) : t.regs = s.regs := h.parts .regs (by decide)

/-! ### A unit in the log (R237, R238) -/

/-- What a unit carries, whatever its place in the log. -/
def MUnit.content (u : MUnit) : MUnit := { u with stripe := 0, strip := 0, progs := [], commit := false, opens := false }

/-- A copy of a unit laid at the next log position of a volume, of which no strip has been written. -/
structure FreshCopy (u : MUnit) (v : Vol) (w : MUnit) : Prop where
  content : w.content = u.content
  stripe : w.stripe = v.stripe
  strip : w.strip = v.strip
  commit : w.commit = false
  undone : (w.progs.all fun p => !p.done) = true

theorem undone_laid (u : MUnit) : (u.laid.progs.all fun p => !p.done) = u.progs.all fun p => !p.done := List.all_map ..

theorem FreshCopy.of_laid {u : MUnit} {v : Vol} {w x : MUnit} (h : FreshCopy u v w) (hx : x.laid = w.laid) : FreshCopy u v x where
  content := Eq.trans (congrArg MUnit.content hx :) h.content
  stripe := Eq.trans (congrArg MUnit.stripe hx :) h.stripe
  strip := Eq.trans (congrArg MUnit.strip hx :) h.strip
  commit := Eq.trans (congrArg MUnit.commit hx :) h.commit
  undone := by rw [← undone_laid, hx, undone_laid, h.undone]

/-- No strip that is laid has been written. -/
theorem undone_programs (g : Geo) (ss : List (List Byte)) (k : Nat) :
    ∀ (i l d : Nat) (acc : List Byte), ∀ p ∈ (g.programs ss k i l d acc).1, p.done = false := by
  induction k with
  | zero => exact fun _ _ _ _ _ hp => absurd hp List.not_mem_nil
  | succ k ih =>
    intro i l d acc p hp
    unfold Geo.programs at hp
    extract_lets b sum x y at hp
    split at hp
    · have hmem : p ∈ (if k = 0 then [y, x] else x :: y :: (g.programs ss k (i + 1) (l + 1) 0 []).1) := hp
      have hcases : p = x ∨ p = y ∨ p ∈ (g.programs ss k (i + 1) (l + 1) 0 []).1 := by
        split at hmem
        · rcases List.mem_pair.mp hmem with h | h
          · exact .inr (.inl h)
          · exact .inl h
        · simpa using hmem
      rcases hcases with rfl | rfl | hrest
      · rfl
      · rfl
      · exact ih _ _ _ _ p hrest
    · rcases List.mem_cons.mp (show p ∈ x :: (g.programs ss k (i + 1) l (d + 1) sum).1 from hp) with rfl | hrest
      · rfl
      · exact ih _ _ _ _ p hrest

/-- A volume but for its next log position and LOW_SPACE's state. -/
def Vol.besidesPlace (v : Vol) : Vol := { v with stripe := 0, strip := 0, parity := [], low := false }

/-- The magazine but for its units, its volume, and when its load began. -/
def MagBlk.besidesLoad (m : MagBlk) : MagBlk := { m with units := [], vol := none, loadFrom := none }

theorem map_of_map {α β γ : Type} {o o' : Option α} {g : α → β} (h : o.map g = o'.map g) (f : β → γ) :
    (o.map fun x => f (g x)) = o'.map fun x => f (g x) := by
  simpa [Option.map_map, Function.comp_def] using congrArg (Option.map f) h

/-- A unit put behind the others, before its strips are issued. -/
def unitPut (s : State) (w : MUnit) (since : Option Nat) (f : Vol → Vol) : State :=
  modVol (modMag s fun m => { m with units := m.units ++ [w], loadFrom := since }) f

theorem same_unitPut {q : Part} (h : q ≠ .mag) (s : State) (w : MUnit) (since : Option Nat) (f : Vol → Vol) :
    q.same s (unitPut s w since f) :=
  (same_modMag h s _).trans (same_modVol h _ f)

theorem layUnit_eq (s : State) (v : Vol) (u : MUnit) : ∃ (w : MUnit) (since : Option Nat) (f : Vol → Vol), FreshCopy u v w ∧
    (∀ x, (f x).besidesPlace = x.besidesPlace) ∧ layUnit s v u = issueStrips (unitPut s w since f) := by
  unfold layUnit
  extract_lets g u0 ss n
  split
  rename_i l1 d1 _
  split
  rename_i progs acc hprogs
  extract_lets opens u1 since
  refine ⟨u1, _, fun x => { x with stripe := l1, strip := d1, parity := acc }, ⟨rfl, rfl, rfl, rfl, List.all_eq_true.mpr fun p hp => ?_⟩,
    fun _ => rfl, rfl⟩
  have hundone := undone_programs g ss n 0 v.stripe v.strip v.parity
  rw [hprogs] at hundone
  rcases List.mem_append.mp hp with hp | hp
  · simpa using hundone p hp
  · cases hopens : opens with
    | true =>
      rw [hopens, if_pos rfl] at hp
      rw [List.mem_singleton.mp hp]
      rfl
    | false =>
      rw [hopens] at hp
      exact absurd hp List.not_mem_nil

/-- What it comes to that a unit is laid at the next log position. -/
structure Laid (s : State) (v : Vol) (u : MUnit) (t : State) : Prop where
  parts : ∀ q : Part, q ∉ [Part.mag, .out] → q.same s t
  mag : t.mag.besidesLoad = s.mag.besidesLoad
  vol : t.mag.vol.map Vol.besidesPlace = s.mag.vol.map Vol.besidesPlace
  seqs : t.mag.units.map (·.seq) = s.mag.units.map (·.seq) ++ [u.seq]
  unit : unitOf s u.seq = none → ∃ w, unitOf t u.seq = some w ∧ FreshCopy u v w

theorem laid_layUnit (s : State) (v : Vol) (u : MUnit) : Laid s v u (layUnit s v u) := by
  obtain ⟨w, since, f, hw, hf, heq⟩ := layUnit_eq s v u
  have hissued := issued_issueStrips (unitPut s w since f)
  have hseq : w.seq = u.seq := (congrArg MUnit.seq hw.content :)
  rw [heq]
  refine ⟨fun q hq => ?_, hissued.mag_eq MagBlk.besidesLoad fun _ => rfl, ?_, ?_, fun hnone => ?_⟩
  · exact (same_unitPut (by rintro rfl; simp at hq) s w since f).trans (hissued.parts q hq)
  · rw [hissued.mag_eq MagBlk.vol fun _ => rfl]
    exact (Option.map_map ..).trans (congrArg (Option.map · _) (funext hf))
  · rw [hissued.seqs, ← hseq]
    exact List.map_append ..
  · have hfind : unitOf (unitPut s w since f) u.seq = some w := by
      change (s.mag.units ++ [w]).find? _ = _
      rw [List.find?_append, show s.mag.units.find? _ = none from hnone, Option.none_or, List.find?_cons_of_pos (by simp [hseq])]
    have hunit := hissued.unit u.seq
    rw [hfind] at hunit
    obtain ⟨x, hx, hlaid⟩ := Option.map_eq_some_iff.mp hunit
    exact ⟨x, hx, hw.of_laid hlaid⟩

/-! ### A unit begun (R247) -/

/-- Host writes and items marked for a unit that begins, and the volume as it takes the unit. -/
def unitTaken (s : State) (ops : List HostOp) (items : List GalItem) (f : Vol → Vol) : State :=
  modVol (setItems (modMag s fun m => { m with ops := ops }) items) f

theorem same_unitTaken {q : Part} (h : q ∉ [.gal, .mag]) (s : State) (ops : List HostOp) (items : List GalItem) (f : Vol → Vol) :
    q.same s (unitTaken s ops items f) := by
  obtain ⟨hgal, hmag⟩ : q ≠ .gal ∧ q ≠ .mag := by simpa using h
  exact ((same_modMag hmag s _).trans (same_setItems hgal _ items)).trans (same_modVol hmag _ f)

/-- A unit begun takes the next SEQ, and of the records and trims that wait those that its trailer holds. -/
theorem beginUnit_eq (s : State) (v : Vol) (u : MUnit) : ∃ (recs : List Byte) (trims : List Nat) (ops : List HostOp) (items : List GalItem)
    (f : Vol → Vol), (∀ x, (f x).nextSeq = x.nextSeq + 1) ∧ (u.kind = 4 → ∀ x, (f x).sinceUnits = 0) ∧
    (∀ x, (f x).durableSeq = x.durableSeq) ∧
    beginUnit s v u = checkSpace (layUnit (unitTaken s ops items f) v { u with seq := v.nextSeq, recs := recs, ops := u.ops ++ trims }) := by
  unfold beginUnit
  extract_lets own room
  split
  rename_i carried left _
  exact ⟨_, _, _, _, fun x => { x with
    nextSeq := x.nextSeq + 1, records := left, exts := _, sinceUnits := if u.kind = 4 then 0 else x.sinceUnits + 1
    sinceBytes := if u.kind = 4 then 0 else x.sinceBytes + u.body.length }, fun _ => rfl, fun h _ => if_pos h, fun _ => rfl, rfl⟩

theorem vol_checkSpace (s : State) : (checkSpace s).mag.vol.map Vol.besidesPlace = s.mag.vol.map Vol.besidesPlace := by
  obtain ⟨low, slots, hmag⟩ := mag_checkSpace s
  rw [hmag]
  exact Option.map_map ..

/-- What it comes to that a unit begins. -/
structure Begun (s : State) (v : Vol) (u : MUnit) (t : State) : Prop where
  parts : ∀ q : Part, q ∉ Part.gal :: .mag :: reporting → q.same s t
  regs : onlyRegs [0xF0080] s t
  pins : magPins t.mag = magPins s.mag
  seqs : t.mag.units.map (·.seq) = s.mag.units.map (·.seq) ++ [v.nextSeq]
  nextSeq : t.mag.vol.map (·.nextSeq) = s.mag.vol.map fun x => x.nextSeq + 1
  sinceUnits : u.kind = 4 → t.mag.vol.map (·.sinceUnits) = s.mag.vol.map fun _ => 0
  unit : unitOf s v.nextSeq = none → ∃ w, unitOf t v.nextSeq = some w ∧ w.kind = u.kind ∧ w.body = u.body ∧ w.take = u.take ∧
    w.items = u.items ∧ w.frec = u.frec ∧ u.ops ⊆ w.ops

theorem begun_beginUnit (s : State) (v : Vol) (u : MUnit) : Begun s v u (beginUnit s v u) := by
  obtain ⟨recs, trims, ops, items, f, hnext, hsince, -, heq⟩ := beginUnit_eq s v u
  rw [heq]
  generalize hw : ({ u with seq := v.nextSeq, recs := recs, ops := u.ops ++ trims } : MUnit) = w
  have hseq : w.seq = v.nextSeq := by rw [← hw]
  have hlaid := laid_layUnit (unitTaken s ops items f) v w
  have hkept := magKept_checkSpace (layUnit (unitTaken s ops items f) v w)
  have hvol := (vol_checkSpace (layUnit (unitTaken s ops items f) v w)).trans hlaid.vol
  refine ⟨fun q hq => ?_, ?_, hkept.pins.trans (congrArg magPins hlaid.mag :), ?_, ?_, fun hkind => ?_, fun hnone => ?_⟩
  · obtain ⟨hgal, hm, hrep⟩ : q ≠ .gal ∧ q ≠ .mag ∧ q ∉ reporting := by simpa using hq
    have hout : q ≠ .out := by rintro rfl; exact hrep (by decide)
    exact ((same_unitTaken (by simp [hm, hgal]) s ops items f).trans (hlaid.parts q (by simp [hm, hout]))).trans
      (same_checkSpace (by simp [hm, hrep]) _)
  · have hregs : (layUnit (unitTaken s ops items f) v w).regs = s.regs := hlaid.parts .regs (by decide)
    exact (onlyRegs_of_regs hregs).trans (onlyRegs_checkSpace _)
  · rw [hkept.units, hlaid.seqs, hseq]
    rfl
  · refine (map_of_map hvol Vol.nextSeq :).trans ((Option.map_map ..).trans ?_)
    exact congrArg (Option.map · s.mag.vol) (funext hnext)
  · refine (map_of_map hvol Vol.sinceUnits :).trans ((Option.map_map ..).trans ?_)
    exact congrArg (Option.map · s.mag.vol) (funext (hsince hkind))
  · obtain ⟨x, hx, hcopy⟩ := hlaid.unit (by rw [hseq]; exact hnone)
    have hcontent {α : Type} (g : MUnit → α) (hg : ∀ y, g y = g y.content) : g x = g w := by rw [hg, hcopy.content, ← hg]
    refine ⟨x, ?_, ?_⟩
    · rw [unitOf, hkept.units, ← hseq]
      exact hx
    · rw [hcontent MUnit.kind fun _ => rfl, hcontent MUnit.body fun _ => rfl, hcontent MUnit.take fun _ => rfl,
        hcontent MUnit.items fun _ => rfl, hcontent MUnit.frec fun _ => rfl, hcontent MUnit.ops fun _ => rfl, ← hw]
      exact ⟨rfl, rfl, rfl, rfl, rfl, List.subset_append_left ..⟩

end Sys2Proof.Machine
end

section
/-! Commit units further: a strip that is done, a unit that becomes durable, and one that is written again (R238, R243, R250). -/

namespace Sys2Proof.Machine
open Sys2Proof

/-! ### A strip that is done (R224, R238) -/

/-- The unit with one of its programs done. -/
def withDone (u : MUnit) (i : Nat) : MUnit :=
  { u with progs := match u.progs[i]? with
    | some p => u.progs.set i { p with done := true }
    | none => u.progs }

theorem done_withDone {u : MUnit} {i : Nat} (h : i < u.progs.length) : ((withDone u i).progs[i]?).map (·.done) = some true := by
  simp [withDone, h]

theorem lt_of_runningProg {u : MUnit} {kind : Strip} {die i : Nat} (h : runningProg u kind die = some i) : i < u.progs.length :=
  (List.findIdx?_eq_some_iff_getElem.mp h).1

theorem done_of_laid {u w : MUnit} (h : w.laid = u.laid) (i : Nat) : (w.progs[i]?).map (·.done) = (u.progs[i]?).map (·.done) := by
  have hget := congrArg (fun x : MUnit => (x.progs[i]?).map (·.done)) h
  simpa only [MUnit.laid, List.getElem?_map, Option.map_map, Function.comp_def] using hget

theorem same_countStrip {q : Part} (h : q ∉ [.mag, .gal]) (s : State) (u : MUnit) : q.same s (countStrip s u) := by
  obtain ⟨hmag, hgal⟩ : q ≠ .mag ∧ q ≠ .gal := by simpa using h
  unfold countStrip
  dsimp only
  split
  · exact (same_modMag hmag s _).trans (same_gal hgal _ _)
  · exact same_modMag hmag s _

theorem mag_countStrip (s : State) (u : MUnit) : ∃ rate, (countStrip s u).mag = { s.mag with rate := rate } := by
  unfold countStrip
  dsimp only
  split <;> exact ⟨_, rfl⟩

/-- A strip done whose unit goes on. -/
structure StripDone (s : State) (u : MUnit) (i : Nat) (t : State) : Prop where
  vol : t.mag.vol = s.mag.vol
  unit : ∃ w, unitOf t u.seq = some w ∧ (w.progs[i]?).map (·.done) = some true ∧ w.body = u.body

theorem stripDone_issued {s a : State} {u : MUnit} {i : Nat} (hunits : a.mag.units = s.mag.units) (hvol : a.mag.vol = s.mag.vol)
    (hu : unitOf s u.seq = some u) (hi : i < u.progs.length) : StripDone s u i (issueStrips (setUnit a (withDone u i))) := by
  have hissued := issued_issueStrips (setUnit a (withDone u i))
  have hunit := hissued.unit u.seq
  have hfind : unitOf a u.seq = some u := by rw [unitOf, hunits]; exact hu
  rw [unitOf_setUnit_self (w := withDone u i) hfind rfl] at hunit
  obtain ⟨w, hw, hlaid⟩ := Option.map_eq_some_iff.mp hunit
  exact ⟨(hissued.mag_eq MagBlk.vol fun _ => rfl).trans hvol, w, hw, (done_of_laid hlaid i).trans (done_withDone hi),
    (congrArg MUnit.body hlaid :)⟩

/-! ### A unit that becomes durable (R238, R250) -/

theorem items_foldl_freeItem (l : List Nat) : ∀ s : State, ∀ i ∈ (l.foldl freeItem s).gal.items, i ∈ s.gal.items ∧ i.ident ∉ l := by
  induction l with
  | nil => exact fun s i hi => ⟨hi, List.not_mem_nil⟩
  | cons k l ih =>
    intro s i hi
    obtain ⟨hmem, hout⟩ := ih (freeItem s k) i hi
    obtain ⟨hmem', hne⟩ := List.mem_filter.mp hmem
    exact ⟨hmem', fun hc => (List.mem_cons.mp hc).elim (by simpa using hne) hout⟩

/-- What it comes to that a unit becomes durable. -/
structure MadeDurable (s : State) (u : MUnit) (t : State) : Prop where
  pins : magPins t.mag = magPins s.mag
  seqs : t.mag.units.map (·.seq) = (s.mag.units.filter fun x => decide (x.seq ≠ u.seq)).map (·.seq)
  durable : t.mag.vol.map (·.durableSeq) = s.mag.vol.map fun v => max v.durableSeq u.seq
  items : ∀ i ∈ t.gal.items, i.ident ∉ u.items
  written : regGet t 0xF0058 = satInc (regGet s 0xF0058)

theorem madeDurable_unitDurable (s : State) (u : MUnit) : MadeDurable s u (unitDurable s u) := by
  unfold unitDurable
  extract_lets s1 s2 s3 s4 s5 ops s6 s7 g s8
  have h2 : MagKept s1 s2 := by
    dsimp only [s2]
    split
    · exact magKept_of_mag rfl rfl rfl rfl rfl
    · exact .refl s1
  have h4 : MagKept s3 s4 := .foldl magKept_freeItem _ _
  have h8 : MagKept s7 s8 := by
    dsimp only [s8]
    split
    · refine MagKept.trans ?_ (magKept_writeSuper _ false)
      exact magKept_of_mag rfl rfl (Option.map_map ..) rfl rfl
    · exact .refl s7
  have hrest : MagKept s5 (syncWait (settleTakes (settleFlushes (checkSpace s8)))) :=
    (magKept_of_mag (s := s5) (t := s6) rfl rfl rfl rfl rfl).trans <| (magKept_mergeOps _ s6).trans <| h8.trans <| (magKept_checkSpace s8).trans <|
      (magKept_settleFlushes _).trans <| (magKept_settleTakes _).trans (magKept_syncWait _)
  have hissued := issued_issueStrips (syncWait (settleTakes (settleFlushes (checkSpace s8))))
  have hcount : regGet s3 0xF0058 = satInc (regGet s2 0xF0058) := regGet_count_self (maskOf_magCounts _ (by decide)) s2
  refine ⟨?_, ?_, ?_, fun i hi => ?_, ?_⟩
  · rw [hissued.mag_eq magPins fun _ => rfl, hrest.pins]
    exact h4.pins.trans h2.pins
  · rw [hissued.seqs, hrest.units]
    exact congrArg (List.map (·.seq)) (h4.units.trans h2.units)
  · rw [hissued.mag_eq MagBlk.vol fun _ => rfl, hrest.durable]
    have h := congrArg (Option.map fun k => max k u.seq) (h4.durable.trans h2.durable)
    rw [Option.map_map, Option.map_map] at h
    exact (Option.map_map ..).trans h
  · have hgal : (issueStrips (syncWait (settleTakes (settleFlushes (checkSpace s8))))).gal = _ := hissued.parts .gal (by decide)
    rw [hgal] at hi
    exact (items_foldl_freeItem u.items s3 i (hrest.items hi)).2
  · rw [regGet_congr _ _ hissued.regs, hrest.written]
    exact h4.written.trans (hcount.trans (congrArg satInc h2.written))

theorem MadeDurable.unit {s t : State} {u : MUnit} (h : MadeDurable s u t) : unitOf t u.seq = none :=
  unitOf_eq_none.mpr fun hm => by
    rw [h.seqs] at hm
    obtain ⟨x, hx, hseq⟩ := List.mem_map.mp hm
    simpa [hseq] using (List.mem_filter.mp hx).2

/-! ### A unit that is written again (R238) -/

/-- Units in the order of their SEQ about one of them. -/
def unitsSorted (k : Nat) (l : List MUnit) : List MUnit :=
  (l.filter fun x => decide (x.seq < k)) ++ (l.filter fun x => decide (x.seq = k)) ++ (l.filter fun x => decide (x.seq > k))

theorem find_unitsSorted (k : Nat) (l : List MUnit) :
    (unitsSorted k l).find? (fun x => decide (x.seq = k)) = l.find? fun x => decide (x.seq = k) := by
  have hlow : (l.filter fun x => decide (x.seq < k)).find? (fun x => decide (x.seq = k)) = none := List.find?_eq_none.mpr fun x hx => by
    have := (List.mem_filter.mp hx).2
    simp only [decide_eq_true_eq] at this ⊢
    omega
  have hhigh : (l.filter fun x => decide (x.seq > k)).find? (fun x => decide (x.seq = k)) = none := List.find?_eq_none.mpr fun x hx => by
    have := (List.mem_filter.mp hx).2
    simp only [decide_eq_true_eq] at this ⊢
    omega
  rw [unitsSorted, List.find?_append, List.find?_append, hlow, hhigh, Option.none_or, Option.or_none, List.find?_filter]
  simp

/-- A unit's copy that has failed let go; `stale` is what it still programs, and `f` moves its extents. -/
def copyDropped (s : State) (u : MUnit) (stale : List (Nat × Strip × Nat)) (f : Vol → Vol) : State :=
  modVol (modMag s fun m => { m with units := m.units.filter fun x => decide (x.seq ≠ u.seq), stale := stale }) f

theorem rewriteUnit_eq {s : State} {v : Vol} (hv : s.mag.vol = some v) (u : MUnit) : ∃ stale f, rewriteUnit s u =
    modMag (layUnit (copyDropped s u stale f) v u) fun m => { m with units := unitsSorted u.seq m.units } := by
  unfold rewriteUnit
  extract_lets running s1
  rw [show s1.mag.vol = some v from hv]
  exact ⟨_, _, rfl⟩

/-- What it comes to that a unit is written again. -/
structure Rewritten (s : State) (v : Vol) (u : MUnit) (t : State) : Prop where
  parts : ∀ q : Part, q ∉ [Part.mag, .out] → q.same s t
  retired : t.mag.retired = s.mag.retired
  vol : t.mag.vol.isSome = true
  unit : ∃ w, unitOf t u.seq = some w ∧ FreshCopy u v w

theorem rewritten_rewriteUnit {s : State} {v : Vol} (hv : s.mag.vol = some v) (u : MUnit) : Rewritten s v u (rewriteUnit s u) := by
  obtain ⟨stale, f, heq⟩ := rewriteUnit_eq hv u
  have hlaid := laid_layUnit (copyDropped s u stale f) v u
  have hnone : unitOf (copyDropped s u stale f) u.seq = none := unitOf_eq_none.mpr fun hm => by
    obtain ⟨x, hx, hseq⟩ := List.mem_map.mp hm
    simpa [hseq] using (List.mem_filter.mp hx).2
  obtain ⟨w, hw, hcopy⟩ := hlaid.unit hnone
  rw [heq]
  refine ⟨fun q hq => ?_, (congrArg MagBlk.retired hlaid.mag :), ?_, w, (find_unitsSorted ..).trans hw, hcopy⟩
  · have hmag : q ≠ .mag := by rintro rfl; simp at hq
    exact ((same_modMag hmag s _).trans (same_modVol hmag _ f)).trans ((hlaid.parts q hq).trans (same_modMag hmag _ _))
  · have hsome := congrArg Option.isSome hlaid.vol
    rw [Option.isSome_map, Option.isSome_map, show (copyDropped s u stale f).mag.vol = s.mag.vol.map f from rfl, hv] at hsome
    exact hsome

/-! ### Blocks that fail (R238, R240) -/

/-- A failure noted for its die. -/
def failNoted (s : State) (die : Nat) : State :=
  modMag s fun m => { m with
    fails := mPut m.fails die (s.now :: ((mGet s.mag.fails die).getD []).filter fun t => decide (s.now < t + 3600000000000)) }

/-- The failures of a die within the last 60 minutes. -/
def recentFails (s : State) (die : Nat) : Nat :=
  (((mGet s.mag.fails die).getD []).filter fun x => decide (s.now < x + 3600000000000)).length

theorem blockFailed_eq (s : State) (die : Nat) (lost : List (Nat × Nat)) : blockFailed s die lost =
    if 4 ≤ recentFails s die then failDie (failNoted s die) die lost else failNoted s die := by
  have hlen : ((s.now :: ((mGet s.mag.fails die).getD []).filter fun t => decide (s.now < t + 3600000000000)).length > 4) =
      (4 ≤ recentFails s die) := by rw [List.length_cons, recentFails]; exact propext (by omega)
  unfold blockFailed
  simp only [hlen]
  rfl

theorem diesHurt_failNoted (s : State) (die : Nat) : DiesHurt s (failNoted s die) :=
  ⟨fun q hq => same_modMag (by rintro rfl; simp at hq) s _, .refl _ s, fun _ _ h => h, rfl⟩

theorem diesHurt_failDie (s : State) (die : Nat) (lost : List (Nat × Nat)) : DiesHurt s (failDie s die lost) := by
  cases hv : s.mag.vol with
  | none =>
    rw [failDie, hv]
    exact .refl s
  | some v =>
    by_cases h : die ∈ v.failed
    · rw [failDie_of_known hv h]
      exact .refl s
    · exact (dieFailed_failDie hv h lost).toDiesHurt

theorem diesHurt_blockFailed (s : State) (die : Nat) (lost : List (Nat × Nat)) : DiesHurt s (blockFailed s die lost) := by
  rw [blockFailed_eq]
  split
  · exact (diesHurt_failNoted s die).trans (diesHurt_failDie ..)
  · exact diesHurt_failNoted s die

theorem DiesHurt.retired {s t : State} (h : DiesHurt s t) : t.mag.retired = s.mag.retired := (congrArg MagBlk.retired h.mag :)

theorem DiesHurt.unitOf {s t : State} (h : DiesHurt s t) (k : Nat) : unitOf t k = unitOf s k := by
  have hunits : t.mag.units = s.mag.units := (congrArg MagBlk.units h.mag :)
  rw [Machine.unitOf, hunits, Machine.unitOf]

theorem retired_retireBlock (s : State) (die : Nat) :
    mGet (retireBlock s die).mag.retired die = some ((mGet s.mag.retired die).getD 0 + 1) := by
  change mGet (mPut s.mag.retired die _) die = _
  rw [mGet_mPut, if_pos rfl]

end Sys2Proof.Machine
end

section
/-! Proof of the statement about commit units: how they begin, how their strips program, and block erases (R238, R240, R243, R244, R247, R249
to R251). -/

namespace Sys2Proof.Machine
open Sys2Proof

/-! ### UNIT_BEGIN (R244, R247) -/

theorem unitOf_endCycle (s t : State) (k : Nat) : unitOf (endCycle s t) k = unitOf t k := by
  rw [unitOf, endCycle_mag, unitOf]

theorem canBegin_of_pwrFail {s : State} (h : s.mag.pwrFail = true) : canBegin s = false := by
  rw [canBegin, h, Bool.not_true, Bool.and_false]

/-- Take content that is ready to be begun. -/
def takesReady (s : State) : List GalItem := (readyItems s).filter fun i => i.gap || setComplete s i

/-- Host writes that wait for a unit. -/
def writesWaiting (s : State) : List HostOp := s.mag.ops.filter fun o => !o.isTrim && o.begun.isNone

/-- The unit of a checkpoint: the records that recreate the volume (R243). -/
def ckptUnit (s : State) (v : Vol) : MUnit := { blankUnit 4 with body := ckptBody s v }

theorem beginNext_of_ckpt {v : Vol} (h : ckptDue v = true) (s : State) (batch : Nat) : beginNext s v batch = beginUnit s v (ckptUnit s v) :=
  if_pos h

theorem unitItems_of_frame {i : GalItem} {slot : Fin 8} (h : i.kind = .frame slot) (s : State) : unitItems s i = [i] := by
  rw [unitItems, h]

theorem beginTake_of_item {s : State} {i : GalItem} {r : List GalItem} (hready : takesReady s = i :: r) (hgap : i.gap = false) (v : Vol) :
    beginTake s v = beginTakeUnit s v [] i := by
  have htake : ((takesReady s).takeWhile (·.gap)).take 512 = [] := by
    rw [hready, List.takeWhile_cons_of_neg (by simp [hgap])]
    rfl
  unfold beginTake
  rw [show (readyItems s).filter (fun i => i.gap || setComplete s i) = takesReady s from rfl]
  have hfirst : (some i).filter (fun x : GalItem => !x.gap) = some i := by simp [hgap]
  dsimp only
  rw [htake, hready, List.length_nil, List.drop_zero, List.head?_cons, hfirst]

/-- A frame of a take, for which the volume has room, begins as a unit of its own. -/
theorem beginTakeUnit_of_frame {s : State} {v : Vol} {i : GalItem} {slot : Fin 8} {k : Nat} (hv : s.mag.vol = some v)
    (hkind : i.kind = .frame slot) (hcorrupt : i.corrupt = false) (htake : i.take = some k)
    (hroom : lowestFree (units4k i.data.length) (withOps (geoOf s v) v.exts (s.mag.ops.filter fun o => o.begun.isNone)) 0 +
      units4k i.data.length ≤ v.sectors) :
    ∃ u : MUnit, beginTakeUnit s v [] i = beginUnit s v u ∧ u.kind = 1 ∧ u.body = i.data ∧ u.take = k ∧ u.items = [i.ident] ∧
      u.frec = (i.fr.map recBytes).getD [] := by
  have hbody : (([i] : List GalItem).map (·.data)).flatten = i.data := by simp
  have hany : ([i] : List GalItem).any (·.corrupt) = false := by simp [hcorrupt]
  unfold beginTakeUnit
  rw [unitItems_of_frame hkind]
  dsimp only
  rw [hbody, hany, if_neg (Nat.not_lt.mpr hroom), hkind, htake, if_neg Bool.false_ne_true, hv]
  refine ⟨_, rfl, rfl, rfl, rfl, rfl, ?_⟩
  simp

theorem beginHostUnit_of_one {s : State} {v : Vol} {o : HostOp} (hv : s.mag.vol = some v) (hcorrupt : o.corrupt = false) :
    ∃ u : MUnit, beginHostUnit s v [o] = beginUnit s v u ∧ u.kind = 3 ∧ u.body = o.data ∧ u.ops = [o.no] := by
  have hfit : fitBatch s 1 [o] = [o] := by
    unfold fitBatch
    split <;> rfl
  unfold beginHostUnit
  dsimp only [List.length_singleton]
  rw [hfit]
  dsimp only [List.foldl_cons, List.foldl_nil]
  rw [if_neg (by simp [hcorrupt]), hv]
  exact ⟨_, rfl, rfl, by simp, rfl⟩

section
variable {s : State} {v : Vol} {batch : Nat} (hl : s.live = true) (hv : s.mag.vol = some v)
include hl hv

theorem unitBegin_of_stopped (h : canBegin s = false) : exec (.unitBegin batch) s = .next (endCycle s s) := by
  rw [show exec (.unitBegin batch) s = execUnitBegin batch s from rfl, execUnitBegin, inCore_of_live hl, hv]
  dsimp only
  rw [h, if_neg Bool.false_ne_true]

/-- A unit that is next to begin takes the next SEQ and its place behind the others. -/
theorem unitBegin_begins (hcan : canBegin s = true) {u : MUnit} (hnext : beginNext s v batch = beginUnit s v u)
    (hnone : unitOf s v.nextSeq = none) :
    ∃ t w, exec (.unitBegin batch) s = .next t ∧ t.mag.units.map (·.seq) = s.mag.units.map (·.seq) ++ [v.nextSeq] ∧
      unitOf t v.nextSeq = some w ∧ (w.kind = u.kind ∧ w.body = u.body ∧ w.take = u.take ∧ w.items = u.items ∧ w.frec = u.frec ∧
      u.ops ⊆ w.ops) ∧ t.mag.vol.map (·.nextSeq) = some (v.nextSeq + 1) ∧ (u.kind = 4 → t.mag.vol.map (·.sinceUnits) = some 0) ∧
      onlyRegs [0xF0080] s t ∧ onlyChanges (.gal :: .mag :: reporting) s t := by
  have h := begun_beginUnit s v u
  obtain ⟨w, hw, hcarries⟩ := h.unit hnone
  refine ⟨endCycle s (beginUnit s v u), w, ?_, by rw [endCycle_mag, h.seqs], by rw [unitOf_endCycle, hw], hcarries,
    by rw [endCycle_mag, h.nextSeq, hv]; rfl, fun hkind => by rw [endCycle_mag, h.sinceUnits hkind, hv]; rfl, onlyRegs_endCycle h.regs,
    onlyChanges_endCycle fun q hq _ _ => h.parts q hq⟩
  rw [show exec (.unitBegin batch) s = execUnitBegin batch s from rfl, execUnitBegin, inCore_of_live hl, hv]
  dsimp only
  rw [hcan, if_pos rfl, hnext]

end

theorem beginNext_of_frame {s : State} {v : Vol} {i : GalItem} {r : List GalItem} {slot : Fin 8} {k : Nat} (hv : s.mag.vol = some v)
    (hckpt : ckptDue v = false) (hready : takesReady s = i :: r) (hgap : i.gap = false) (hkind : i.kind = .frame slot)
    (hcorrupt : i.corrupt = false) (htake : i.take = some k)
    (hroom : lowestFree (units4k i.data.length) (withOps (geoOf s v) v.exts (s.mag.ops.filter fun o => o.begun.isNone)) 0 +
      units4k i.data.length ≤ v.sectors) (batch : Nat) :
    ∃ u : MUnit, beginNext s v batch = beginUnit s v u ∧ u.kind = 1 ∧ u.body = i.data ∧ u.take = k ∧ u.items = [i.ident] ∧
      u.frec = (i.fr.map recBytes).getD [] := by
  obtain ⟨u, hu, hcarries⟩ := beginTakeUnit_of_frame hv hkind hcorrupt htake hroom
  refine ⟨u, ?_, hcarries⟩
  rw [← hu, ← beginTake_of_item hready hgap]
  exact (if_neg (by simp [hckpt])).trans (if_pos (show takesReady s ≠ [] by simp [hready]))

theorem beginNext_of_write {s : State} {v : Vol} {o : HostOp} {r : List HostOp} {batch : Nat} (hv : s.mag.vol = some v)
    (hckpt : ckptDue v = false) (hbatch : batch ≤ 1) (hready : takesReady s = []) (hwait : writesWaiting s = o :: r)
    (hcorrupt : o.corrupt = false) (hfits : o.n ≤ 262128) :
    ∃ u : MUnit, beginNext s v batch = beginUnit s v u ∧ u.kind = 3 ∧ u.body = o.data ∧ u.ops = [o.no] := by
  obtain ⟨u, hu, hcarries⟩ := beginHostUnit_of_one hv hcorrupt
  have hone : hostBatch (max 1 batch) 262128 (writesWaiting s) = [o] := by
    rw [Nat.max_eq_left hbatch, hwait, hostBatch, if_pos hfits, hostBatch]
  refine ⟨u, ?_, hcarries⟩
  rw [← hu, ← hone]
  exact (if_neg (by simp [hckpt])).trans <| (if_neg (show ¬ takesReady s ≠ [] by simp [hready])).trans <|
    (if_pos (show writesWaiting s ≠ [] by simp [hwait])).trans
      (if_neg (show ¬ hostBatch (max 1 batch) 262128 (writesWaiting s) = [] by simp [hone]))

/-! ### STRIP_PROGRAMMED (R238) -/

section
variable {s : State} {seq die : Nat} {kind : Strip} {damage lost : List (Nat × Nat)} {u : MUnit} {i : Nat} (hl : s.live = true)
include hl

/-- What the first copy of a unit still programs changes no unit. -/
theorem stripProgrammed_stale (hstale : s.mag.stale.contains (seq, kind, die) = true) :
    ∃ t, exec (.stripProgrammed seq kind true die damage lost) s = .next t ∧ t.mag.stale = s.mag.stale.erase (seq, kind, die) ∧
      t.mag.vol = s.mag.vol ∧ onlyChanges [.mag, .out] s t := by
  let a := modMag s fun m => { m with stale := m.stale.erase (seq, kind, die) }
  have hissued := issued_issueStrips a
  refine ⟨endCycle s (issueStrips a), ?_, by rw [endCycle_mag, hissued.mag_eq MagBlk.stale fun _ => rfl]; rfl,
    by rw [endCycle_mag, hissued.mag_eq MagBlk.vol fun _ => rfl]; rfl, onlyChanges_endCycle fun q hq _ _ =>
      (same_modMag (by rintro rfl; simp at hq) s _).trans (hissued.parts q hq)⟩
  rw [show exec (.stripProgrammed seq kind true die damage lost) s = execStripProgrammed seq kind true die damage lost s from rfl,
    execStripProgrammed, inCore_of_live hl, hstale, if_pos rfl]
  rfl

variable (hu : unitOf s seq = some u) (hi : runningProg u kind die = some i) (hstale : s.mag.stale.contains (seq, kind, die) = false)
include hu hi hstale

theorem stripProgrammed_of_running (ok : Bool) : exec (.stripProgrammed seq kind ok die damage lost) s = .next (endCycle s
    (if ok then stripDone s u i kind
      else damageRanges (blockFailed (rewriteUnit (progFailed s die) { u with progs := u.progs.eraseIdx i }) die lost) damage)) := by
  rw [show exec (.stripProgrammed seq kind ok die damage lost) s = execStripProgrammed seq kind ok die damage lost s from rfl,
    execStripProgrammed, inCore_of_live hl, hstale, if_neg Bool.false_ne_true, hu]
  dsimp only
  rw [hi]

theorem stripProgrammed_data (hkind : kind = .data) :
    ∃ t w, exec (.stripProgrammed seq kind true die damage lost) s = .next t ∧ unitOf t seq = some w ∧
      (w.progs[i]?).map (·.done) = some true ∧ w.body = u.body ∧ t.mag.vol = s.mag.vol ∧ onlyChanges [.mag, .gal, .out] s t := by
  have hseq := seq_of_unitOf hu
  obtain ⟨rate, hmag⟩ := mag_countStrip s (withDone u i)
  have hdone := stripDone_issued (a := countStrip s (withDone u i)) (by rw [hmag]) (by rw [hmag]) (hseq ▸ hu) (lt_of_runningProg hi)
  obtain ⟨w, hw, hcarries⟩ := hdone.unit
  refine ⟨endCycle s (issueStrips (setUnit (countStrip s (withDone u i)) (withDone u i))), w,
    (stripProgrammed_of_running hl hu hi hstale true).trans (by subst hkind; rfl), by rw [unitOf_endCycle, ← hseq, hw], hcarries.1, hcarries.2,
    by rw [endCycle_mag, hdone.vol], onlyChanges_endCycle fun q hq _ _ => ?_⟩
  obtain ⟨hm, hg, ho⟩ : q ≠ .mag ∧ q ≠ .gal ∧ q ≠ .out := by simpa using hq
  exact ((same_countStrip (by simp [hm, hg]) s _).trans (same_modMag hm _ _)).trans ((issued_issueStrips _).parts q (by simp [hm, ho]))

theorem stripProgrammed_parity (hkind : kind = .parity) :
    ∃ t w, exec (.stripProgrammed seq kind true die damage lost) s = .next t ∧ unitOf t seq = some w ∧
      (w.progs[i]?).map (·.done) = some true ∧ w.body = u.body ∧ t.mag.vol = s.mag.vol ∧ onlyChanges [.mag, .out] s t := by
  have hseq := seq_of_unitOf hu
  have hdone := stripDone_issued (s := s) (a := s) rfl rfl (hseq ▸ hu) (lt_of_runningProg hi)
  obtain ⟨w, hw, hcarries⟩ := hdone.unit
  refine ⟨endCycle s (issueStrips (setUnit s (withDone u i))), w, (stripProgrammed_of_running hl hu hi hstale true).trans (by subst hkind; rfl),
    by rw [unitOf_endCycle, ← hseq, hw], hcarries.1, hcarries.2, by rw [endCycle_mag, hdone.vol], onlyChanges_endCycle fun q hq _ _ => ?_⟩
  exact (same_modMag (by rintro rfl; simp at hq) s _).trans ((issued_issueStrips _).parts q hq)

theorem stripProgrammed_last {v : Vol} (hlast : (kind = .commit ∧ u.opens = false) ∨ kind = .partialParity) (hv : s.mag.vol = some v) :
    ∃ t, exec (.stripProgrammed seq kind true die damage lost) s = .next t ∧ unitOf t seq = none ∧
      regGet t 0xF0058 = satInc (regGet s 0xF0058) ∧ t.mag.vol.map (·.durableSeq) = some (max v.durableSeq seq) ∧
      (∀ i ∈ t.gal.items, i.ident ∉ u.items) := by
  have hseq := seq_of_unitOf hu
  obtain ⟨a, ha, hvol, hregs⟩ : ∃ a, stripDone s u i kind = unitDurable a (withDone u i) ∧ a.mag.vol = s.mag.vol ∧ a.regs = s.regs := by
    rcases hlast with ⟨rfl, hopens⟩ | rfl
    · obtain ⟨rate, hmag⟩ := mag_countStrip s (withDone u i)
      exact ⟨countStrip s (withDone u i), if_neg (by simp [hopens]), by rw [hmag], same_countStrip (q := .regs) (by decide) s _⟩
    · exact ⟨s, rfl, rfl, rfl⟩
  have hdurable := madeDurable_unitDurable a (withDone u i)
  refine ⟨endCycle s (unitDurable a (withDone u i)), (stripProgrammed_of_running hl hu hi hstale true).trans (by rw [if_pos rfl, ha]), ?_, ?_,
    ?_, fun x hx => ?_⟩
  · rw [unitOf_endCycle, ← hseq]
    exact hdurable.unit
  · rw [regGet_endCycle, hdurable.written, regGet_congr _ _ hregs]
  · rw [endCycle_mag, hdurable.durable, hvol, hv, ← hseq]
    rfl
  · rw [endCycle_gal] at hx
    exact hdurable.items x hx

theorem stripProgrammed_fails {v : Vol} (hv : s.mag.vol = some v) :
    ∃ t w, exec (.stripProgrammed seq kind false die damage lost) s = .next t ∧ unitOf t seq = some w ∧ w.body = u.body ∧
      (w.progs.all fun p => !p.done) = true ∧ w.commit = false ∧ w.stripe = v.stripe ∧ w.strip = v.strip ∧
      mGet t.mag.retired die = some ((mGet s.mag.retired die).getD 0 + 1) ∧ regGet t 0xF0040 = satInc (regGet s 0xF0040) ∧
      raised t .mag 12 ∧ onlyRegs [0xF0040, 0xF0054, 0xF0080] s t ∧ onlyChanges (.gal :: .hq :: .mag :: reporting) s t := by
  let x : MUnit := { u with progs := u.progs.eraseIdx i }
  let a := magEvent (count s 0xF0040) 12 0x0D .info (ctxDie die)
  have hmag : a.mag = s.mag := mag_magEvent ..
  have hvol : (retireBlock a die).mag.vol = some v := Eq.trans (congrArg MagBlk.vol hmag :) hv
  have hregs : onlyRegs [0xF0040, 0xF0080] s a := ((onlyRegs_count s 0xF0040).mono (by simp)).trans
    ((onlyRegs_magEvent (count s 0xF0040) 12 0x0D .info (ctxDie die)).mono (by simp))
  have hagain := rewritten_rewriteUnit hvol x
  obtain ⟨w, hw, hcopy⟩ := hagain.unit
  have hhurt := (diesHurt_blockFailed (rewriteUnit (retireBlock a die) x) die lost).trans
    (errorsAttached_damageRanges (blockFailed (rewriteUnit (retireBlock a die) x) die lost) damage).diesHurt
  have hagainRegs : (rewriteUnit (retireBlock a die) x).regs = a.regs := hagain.parts .regs (by decide)
  have hreg := fun j => regGet_congr _ _ hagainRegs j
  refine ⟨_, w, stripProgrammed_of_running hl hu hi hstale false, ?_, (congrArg MUnit.body hcopy.content :), hcopy.undone, hcopy.commit,
    hcopy.stripe, hcopy.strip, ?_, ?_, raised_endCycle (hhurt.raised 12 (by decide) ?_), onlyRegs_endCycle fun j hj ho => ?_,
    onlyChanges_endCycle fun q hq _ _ => ?_⟩
  · rw [unitOf_endCycle, ← seq_of_unitOf hu]
    exact (hhurt.unitOf _).trans hw
  · rw [endCycle_mag]
    refine (congrArg (mGet · die) (hhurt.retired.trans hagain.retired)).trans ((retired_retireBlock a die).trans ?_)
    rw [hmag]
  · rw [regGet_endCycle]
    refine (hhurt.regs _ (by decide) (by unfold outsideFlt; omega)).trans ((hreg _).trans ?_)
    refine (onlyRegs_magEvent (count s 0xF0040) 12 0x0D .info (ctxDie die) _ (by decide) (by unfold outsideFlt; omega)).trans ?_
    exact regGet_count_self (maskOf_magCounts _ (by decide)) s
  · exact keepsRaised_of_events (hreg _) 12 (by decide) (raised_magEvent (by decide) ..)
  · obtain ⟨h40, h54, h80⟩ : j ≠ 0xF0040 ∧ j ≠ 0xF0054 ∧ j ≠ 0xF0080 := by simpa using hj
    exact (hhurt.regs j (by simp [h54, h80]) ho).trans ((hreg j).trans (hregs j (by simp [h40, h80]) ho))
  · obtain ⟨hg, hh, hm, hr⟩ : q ≠ .gal ∧ q ≠ .hq ∧ q ≠ .mag ∧ q ∉ reporting := by simpa using hq
    have hout : q ≠ .out ∧ q ≠ .regs := ⟨by rintro rfl; exact hr (by decide), by rintro rfl; exact hr (by decide)⟩
    have ha : q.same s (retireBlock a die) := ((same_count hout.2 s _).trans (same_magEvent hr ..)).trans (same_modMag hm _ _)
    exact (ha.trans (hagain.parts q (by simp [hm, hout.1]))).trans (hhurt.parts q hq)

end

/-! ### BLOCK_ERASE (R240, R249, R251) -/

section
variable {s : State} {die : Nat} {damage lost : List (Nat × Nat)} {v : Vol} (hl : s.live = true) (hv : s.mag.vol = some v)
include hl

theorem blockErase_stopped (hpwr : s.mag.pwrFail = true) (ok : Bool) :
    exec (.blockErase die ok damage lost) s = .next (endCycle s s) := by
  rw [show exec (.blockErase die ok damage lost) s = execBlockErase die ok damage lost s from rfl, execBlockErase, inCore_of_live hl,
    if_pos (.inr hpwr)]

include hv

theorem blockErase_of_powered (hpwr : s.mag.pwrFail = false) (ok : Bool) : exec (.blockErase die ok damage lost) s = .next (endCycle s
    (if ok then flashTo s .erase die []
      else damageRanges (blockFailed (retireBlock (count (flashTo s .erase die []) 0xF0044) die) die lost) damage)) := by
  rw [show exec (.blockErase die ok damage lost) s = execBlockErase die ok damage lost s from rfl, execBlockErase, inCore_of_live hl,
    if_neg (by simp [hv, hpwr])]

/-- An erase that has failed, counted, its block retired and the failure noted. -/
def eraseFailed (s : State) (die : Nat) : State := retireBlock (count (flashTo s .erase die []) 0xF0044) die

theorem blockErase_fails (hpwr : s.mag.pwrFail = false) (hnew : die ∉ v.failed) :
    ∃ t, exec (.blockErase die false damage lost) s = .next t ∧ regGet t 0xF0044 = satInc (regGet s 0xF0044) ∧
      mGet t.mag.retired die = some ((mGet s.mag.retired die).getD 0 + 1) ∧
      (4 ≤ recentFails s die →
        t.mag.vol.map (·.failed) = some (v.failed ++ [die]) ∧ t.mag.degraded = true ∧ t.mag.rebuild = true ∧ raised t .mag 7) ∧
      (recentFails s die < 4 →
        t.mag.vol.map (·.failed) = some v.failed ∧ t.mag.st = s.mag.st ∧ (damage = [] → t.mag.vol = s.mag.vol)) ∧
      onlyRegs [0xF0044, 0xF0054, 0xF0080] s t ∧ onlyChanges (.gal :: .hq :: .mag :: reporting) s t := by
  have hvol : (eraseFailed s die).mag.vol = some v := hv
  have hrecent : recentFails (eraseFailed s die) die = recentFails s die := rfl
  have hblock := diesHurt_blockFailed (eraseFailed s die) die lost
  have hdamage := errorsAttached_damageRanges (blockFailed (eraseFailed s die) die lost) damage
  have hhurt := hblock.trans hdamage.diesHurt
  have hregs : onlyRegs [0xF0044] s (eraseFailed s die) := onlyRegs_count (flashTo s .erase die []) 0xF0044
  refine ⟨_, blockErase_of_powered hl hv hpwr false, ?_, ?_, fun hfifth => ?_, fun hfew => ?_, onlyRegs_endCycle fun j hj ho => ?_,
    onlyChanges_endCycle fun q hq _ _ => ?_⟩
  · rw [regGet_endCycle]
    exact (hhurt.regs _ (by decide) (by unfold outsideFlt; omega)).trans
      (regGet_count_self (maskOf_magCounts _ (by decide)) (flashTo s .erase die []))
  · rw [endCycle_mag]
    exact (congrArg (mGet · die) hhurt.retired).trans (retired_retireBlock (count (flashTo s .erase die []) 0xF0044) die)
  · have heq : blockFailed (eraseFailed s die) die lost = failDie (failNoted (eraseFailed s die) die) die lost := by
      rw [blockFailed_eq, hrecent, if_pos hfifth]
    have hfailed := dieFailed_failDie (s := failNoted (eraseFailed s die) die) hvol hnew lost
    rw [← heq] at hfailed
    refine ⟨?_, ?_, ?_, raised_endCycle (hdamage.raised 7 (by decide) hfailed.reported)⟩
    · rw [endCycle_mag]
      exact (map_of_map hdamage.vol Vol.failed :).trans hfailed.failed
    · rw [endCycle_mag]
      exact Eq.trans (congrArg MagBlk.degraded hdamage.mag :) hfailed.degraded
    · rw [endCycle_mag]
      exact Eq.trans (congrArg MagBlk.rebuild hdamage.mag :) hfailed.rebuild
  · have heq : blockFailed (eraseFailed s die) die lost = failNoted (eraseFailed s die) die := by
      rw [blockFailed_eq, hrecent, if_neg (Nat.not_le.mpr hfew)]
    have hnoted : (failNoted (eraseFailed s die) die).mag.vol = s.mag.vol ∧ (failNoted (eraseFailed s die) die).mag.st = s.mag.st := ⟨rfl, rfl⟩
    rw [← heq] at hnoted
    refine ⟨?_, ?_, fun hnil => ?_⟩
    · rw [endCycle_mag]
      exact (map_of_map hdamage.vol Vol.failed :).trans (by rw [hnoted.1, hv]; rfl)
    · rw [endCycle_mag]
      exact Eq.trans (congrArg MagBlk.st hdamage.mag :) hnoted.2
    · subst hnil
      rw [endCycle_mag]
      exact hnoted.1
  · obtain ⟨h44, hrest⟩ : j ≠ 0xF0044 ∧ j ∉ [0xF0054, 0xF0080] := by simpa using hj
    exact (hhurt.regs j hrest ho).trans (hregs j (by simp [h44]) ho)
  · obtain ⟨hg, hh, hm, hr⟩ : q ≠ .gal ∧ q ≠ .hq ∧ q ≠ .mag ∧ q ∉ reporting := by simpa using hq
    have hout : q ≠ .out ∧ q ≠ .regs := ⟨by rintro rfl; exact hr (by decide), by rintro rfl; exact hr (by decide)⟩
    have hcount : q.same s (count (flashTo s .erase die []) 0xF0044) := (same_emit hout.1 s _).trans (same_count hout.2 _ _)
    have hretire : q.same (count (flashTo s .erase die []) 0xF0044) (eraseFailed s die) := by
      unfold eraseFailed retireBlock
      exact same_modMag hm _ _
    exact (hcount.trans hretire).trans (hhurt.parts q hq)

end

/-- Settles O29: what begins by what is due, a strip by its kind and outcome, an erase by its outcome and the die's failures. -/
theorem commitUnitsBeginAndProgram : Obligations.CommitUnitsBeginAndProgram := by
  refine ⟨fun s batch v hl hv hnone => ⟨?ckpt, ?frame, ?write, ?stopped⟩, fun s seq die kind damage lost u i hl hu hi => ⟨?running, ?stale⟩,
    fun s die damage lost v hl hv => ⟨?erase, ?noErase⟩⟩
  case ckpt =>
    intro hcan hdue
    obtain ⟨t, w, ht, hseqs, hw, ⟨hkind, hbody, -⟩, hnext, hsince, hregs, hchange⟩ :=
      unitBegin_begins hl hv hcan (beginNext_of_ckpt hdue s batch) hnone
    exact ⟨t, w, ht, hseqs, hw, hkind, hbody, hnext, hsince rfl, hregs, hchange⟩
  case frame =>
    intro i r slot k hcan hckpt hready hgap hcorrupt hkind htake hroom
    obtain ⟨u, hu, hk, hb, ht, hi, hf⟩ := beginNext_of_frame hv hckpt hready hgap hkind hcorrupt htake hroom batch
    obtain ⟨t, w, hexec, hseqs, hw, ⟨hkind', hbody, htake', hitems, hfrec, -⟩, -, -, hregs, hchange⟩ := unitBegin_begins hl hv hcan hu hnone
    exact ⟨t, w, hexec, hseqs, hw, hkind'.trans hk, hbody.trans hb, htake'.trans ht, hitems.trans hi, hfrec.trans hf, hregs, hchange⟩
  case write =>
    intro o r hcan hckpt hbatch hready hwait hcorrupt hfits
    obtain ⟨u, hu, hk, hb, ho⟩ := beginNext_of_write hv hckpt hbatch hready hwait hcorrupt hfits
    obtain ⟨t, w, hexec, hseqs, hw, ⟨hkind, hbody, -, -, -, hops⟩, -, -, hregs, hchange⟩ := unitBegin_begins hl hv hcan hu hnone
    exact ⟨t, w, hexec, hseqs, hw, hkind.trans hk, hbody.trans hb, hops (by rw [ho]; exact List.mem_singleton.mpr rfl), hregs, hchange⟩
  case stopped => exact fun hpwr => ⟨_, unitBegin_of_stopped hl hv (canBegin_of_pwrFail hpwr), onlyChanges_nothing s⟩
  case running =>
    exact fun hstale => ⟨stripProgrammed_data hl hu hi hstale, stripProgrammed_parity hl hu hi hstale,
      fun v hlast hv => stripProgrammed_last hl hu hi hstale hlast hv, fun v hv => stripProgrammed_fails hl hu hi hstale hv⟩
  case stale => exact fun hstale => stripProgrammed_stale hl hstale
  case erase =>
    exact fun hpwr => ⟨⟨_, blockErase_of_powered hl hv hpwr true, by rw [endCycle_out]; rfl, onlyChanges_emit s _⟩,
      fun hnew => blockErase_fails hl hv hpwr hnew⟩
  case noErase => exact fun ok hpwr => ⟨_, blockErase_stopped hl hpwr ok, onlyChanges_nothing s⟩

end Sys2Proof.Machine
end

section
/-! Proof of the statement about the magazine's pins: insertion and mounting, the eject button, removal, and power failure (R232, R234 to
R236, R249, R255). -/

namespace Sys2Proof.Machine
open Sys2Proof

/-! ### Insertion (R234) -/

/-- A magazine in the bay with its latch closed, OFF, and reported. -/
def putIn (s : State) : State :=
  magEvent (modMag s fun m => { m with st := .off, present := true, latch := true }) 0 0x01 .info ctxNone

theorem mag_putIn (s : State) : (putIn s).mag = { s.mag with st := .off, present := true, latch := true } := mag_magEvent ..

theorem onlyRegs_putIn (s : State) : onlyRegs [0xF0080] s (putIn s) := onlyRegs_magEvent (modMag s _) 0 0x01 .info ctxNone

theorem same_putIn {q : Part} (h : q ∉ Part.mag :: reporting) (s : State) : q.same s (putIn s) := by
  obtain ⟨hmag, hrep⟩ : q ≠ .mag ∧ q ∉ reporting := by simpa using h
  have hmod : q.same s (modMag s fun m => { m with st := .off, present := true, latch := true }) := same_modMag hmag _ _
  exact hmod.trans (same_magEvent hrep ..)

/-- AUTO_MOUNT in a device that is ready. -/
abbrev autoMounts (s : State) : Prop := regBit s 0xF0000 31 = true ∧ s.sys.ready = true

theorem autoMounts_putIn (s : State) : autoMounts (putIn s) ↔ autoMounts s := by
  have hsys : (putIn s).sys = s.sys := same_putIn (q := .sys) (by decide) s
  rw [autoMounts, autoMounts, regBit, regBit, onlyRegs_putIn s 0xF0000 (by decide) (by unfold outsideFlt; omega), hsys]

/-- A magazine put into the bay, with its mount started where AUTO_MOUNT asks for that. -/
def insertedIn (s : State) : State := if autoMounts s then startMount (putIn s) 0 else putIn s

theorem inserted_eq {s : State} (hl : s.live = true) (hst : s.mag.st = .empty ∨ (s.mag.st = .off ∧ s.mag.latch = false)) :
    exec .inserted s = .next (endCycle s (insertedIn s)) := by
  rw [show exec .inserted s = execInserted s from rfl, execInserted, inCore_of_live hl, if_pos (by simpa using hst), insertedIn,
    ← if_congr (autoMounts_putIn s) rfl rfl]
  rfl

/-! ### Requests for a power state (R255) -/

theorem endTransition_of_none {s : State} (h : s.mag.transition = none) (status : Nat) : endTransition s status = s := by
  rw [endTransition, h]

theorem endTransition_of_asked {s : State} {w k : Nat} {p : Party} (h : s.mag.transition = some (w, some (p, k))) (status : Nat) :
    endTransition s status = mbxReply (modMag s fun m => { m with transition := none }) p k status 0 0 0 := by
  rw [endTransition, h]

theorem mag_endTransition (s : State) (status : Nat) : (endTransition s status).mag = { s.mag with transition := none } := by
  unfold endTransition
  split
  · dsimp only
    split
    · exact mag_mbxReply ..
    · rfl
  next h => rw [← h]

theorem keepsRaised_endTransition (s : State) (status : Nat) : KeepsRaised s (endTransition s status) := by
  unfold endTransition
  split
  · dsimp only
    split
    · exact keepsRaised_of_events (regGet_mbxDone_aside (by decide) (by decide) (by decide) ..)
    · exact fun _ _ h => h
  · exact fun _ _ h => h

/-! ### The end of a mount without MAG_VCC_GOOD (R234) -/

/-- The power off again after 50 ms, and reported. -/
def vccLost (s : State) : State :=
  magEvent (modMag (driveMag s false s.mag.locked) fun m => { m with st := .off }) 2 0x03 .degraded ctxNone

theorem mag_vccLost (s : State) : (vccLost s).mag = { s.mag with vccEn := false, st := .off } := by
  rw [vccLost, mag_magEvent, modMag, mag_driveMag]

theorem regs_driveMag (s : State) (vcc lock : Bool) : (driveMag s vcc lock).regs = s.regs := same_driveMag (q := .regs) (by decide) s vcc lock

theorem onlyRegs_vccLost (s : State) : onlyRegs [0xF0080] s (vccLost s) := by
  have hdriven : onlyRegs [0xF0080] s (modMag (driveMag s false s.mag.locked) fun m => { m with st := .off }) :=
    onlyRegs_of_regs (regs_driveMag s false s.mag.locked)
  exact hdriven.trans (onlyRegs_magEvent _ 2 0x03 .degraded ctxNone)

theorem same_vccLost {q : Part} (h : q ∉ Part.mag :: reporting) (s : State) : q.same s (vccLost s) := by
  obtain ⟨hmag, hrep⟩ : q ≠ .mag ∧ q ∉ reporting := by simpa using h
  have hout : q ≠ .out := by rintro rfl; exact hrep (by decide)
  have hoff : q.same (driveMag s false s.mag.locked) (modMag (driveMag s false s.mag.locked) fun m => { m with st := .off }) :=
    same_modMag hmag _ _
  exact ((same_driveMag (by simp [hmag, hout]) s false s.mag.locked).trans hoff).trans (same_magEvent hrep ..)

theorem vccGoodTimeout_eq {s : State} (hl : s.live = true) (hst : s.mag.st = .ident) (hgood : s.mag.vccGood = false)
    (hlate : s.mag.vccAt + 50000000 ≤ s.now) : exec .vccGoodTimeout s = .next (endCycle s (endTransition (vccLost s) stNotReady)) := by
  rw [show exec .vccGoodTimeout s = execVccGoodTimeout s from rfl, execVccGoodTimeout, inCore_of_live hl,
    if_pos ⟨hst, by simp [hgood], hlate⟩, vccLost]

/-! ### Identification (R232, R234 step 3) -/

theorem same_flashAll {q : Part} (h : q ≠ .out) (s : State) (ops : List FlashOp) : q.same s (flashAll s ops) := by
  refine same_foldl (fun u k => ?_) _ s
  exact same_foldl (fun w op => same_emit h w _) ops u

theorem mag_flashAll (s : State) (ops : List FlashOp) : (flashAll s ops).mag = s.mag := same_flashAll (q := .mag) (by decide) s ops

/-- The dies of a medium asked for what they are. -/
def identified (s : State) (m : Medium) : State :=
  flashAll (modMag s fun x => { x with chans := m.chans, dies := m.dies, rateSel := regField s 0xF0000 1 0, serials := m.serials })
    [.reset, .readId, .uniqueId, .paramPage]

theorem mag_identified (s : State) (m : Medium) : (identified s m).mag =
    { s.mag with chans := m.chans, dies := m.dies, rateSel := regField s 0xF0000 1 0, serials := m.serials } := mag_flashAll ..

theorem regs_identified (s : State) (m : Medium) : (identified s m).regs = s.regs := same_flashAll (q := .regs) (by decide) ..

/-- A mount that has failed on a die: no volume, the power off. -/
def unusableAt (s : State) (m : Medium) (die : Nat) : State :=
  mountFail (driveMag (dropVolume (identified s m) .unusable) false false) m.chans die

/-- A die fails identification that the superblock does not know as failed. -/
def strangeDie (m : Medium) : Option Nat := m.bad.find? fun d => !(((superOf m).map superFailed).getD []).contains d

theorem mountMedium_of_strange {m : Medium} {die : Nat} (h : strangeDie m = some die) (s : State) :
    mountMedium s m = unusableAt s m die := by
  have hfind : (m.bad.find? fun d => !(((superOf m).map superFailed).getD []).contains d) = some die := h
  unfold mountMedium
  dsimp only
  rw [hfind]
  rfl

theorem strangeDie_isSome {m : Medium} {d : Nat} (hd : d ∈ m.bad) (hnew : d ∉ ((superOf m).map superFailed).getD []) :
    (strangeDie m).isSome = true := by
  rw [strangeDie, List.find?_isSome]
  exact ⟨d, hd, by simpa using hnew⟩

theorem strangeDie_eq_none {m : Medium} (h : ∀ d ∈ m.bad, d ∈ ((superOf m).map superFailed).getD []) : strangeDie m = none := by
  rw [strangeDie, List.find?_eq_none]
  exact fun d hd => by simpa using h d hd

theorem mag_unusableAt (s : State) (m : Medium) (die : Nat) : (unusableAt s m die).mag.st = .unusable ∧ (unusableAt s m die).mag.vccEn = false := by
  rw [unusableAt, mountFail, mag_magEvent, mag_driveMag]
  exact ⟨rfl, rfl⟩

theorem raised_unusableAt (s : State) (m : Medium) (die : Nat) : raised (unusableAt s m die) .mag 2 := raised_magEvent (by decide) ..

/-! ### A medium that is taken (R234 steps 3 to 5) -/

/-- The dies of a medium calibrated and trained, the power on, the lock as it is asked for. -/
def calibrated (s : State) (m : Medium) : State :=
  driveMag (trainDies (modMag (identified s m) fun x => { x with
    st := .mounting, planes := m.planes, bits := m.bits, blocks := m.blocks, total := m.total, wp := m.wp,
    power := min (identified s m).mag.wanted 1, lastZq := (identified s m).now })) true (regBit (identified s m) 0xF0000 30)

theorem mag_calibrated (s : State) (m : Medium) : (calibrated s m).mag = { (identified s m).mag with
    st := .mounting, planes := m.planes, bits := m.bits, blocks := m.blocks, total := m.total, wp := m.wp, power := min s.mag.wanted 1,
    lastZq := (identified s m).now, vccEn := true, locked := regBit s 0xF0000 30 } := by
  rw [calibrated, mag_driveMag, trainDies, mag_flashAll, modMag, regBit, regGet_congr _ _ (regs_identified s m), mag_identified, ← regBit]

/-- The end of a mount: reported, and that the volume is READ_ONLY where it is. -/
def mountReported (s : State) (ro : Bool) : State :=
  if ro then magEvent (magEvent s 1 0x02 .info ctxNone) 8 0x09 .degraded ctxNone else magEvent s 1 0x02 .info ctxNone

theorem mag_mountReported (s : State) (ro : Bool) : (mountReported s ro).mag = s.mag := by
  unfold mountReported
  split
  · rw [mag_magEvent, mag_magEvent]
  · exact mag_magEvent ..

theorem raised_mountReported (s : State) (ro : Bool) : raised (mountReported s ro) .mag 1 := by
  have hmounted : raised (magEvent s 1 0x02 .info ctxNone) .mag 1 := raised_magEvent (by decide) ..
  unfold mountReported
  split
  · exact keepsRaised_magEvent _ 8 0x09 .degraded ctxNone 1 (by decide) hmounted
  · exact hmounted

/-- A medium without a superblock mounted. -/
def mountedBlank (s : State) (m : Medium) : State :=
  modMag (calibrated s m) fun x => { x with st := if m.wp then .readOnly else .mounted, blank := true, vol := none }

theorem mountMedium_of_blank {m : Medium} (hdies : strangeDie m = none) (hpop : legalPop m = true) (hsuper : superOf m = none) (s : State) :
    mountMedium s m = mountReported (mountedBlank s m) m.wp := by
  have hfind : (m.bad.find? fun d => !(((superOf m).map superFailed).getD []).contains d) = none := hdies
  unfold mountMedium
  dsimp only
  rw [hfind]
  dsimp only
  rw [if_neg (by simp [hpop]), hsuper]
  rfl

/-! ### A volume recovered (R248) -/

/-- The VOLUME_ID of the volume, if there is one. -/
def volIdent (s : State) : Option (List Byte) := s.mag.vol.map (·.ident)

theorem volIdent_modVol {f : Vol → Vol} (h : ∀ v, (f v).ident = v.ident) (s : State) : volIdent (modVol s f) = volIdent s := by
  change (s.mag.vol.map f).map _ = _
  rw [Option.map_map]
  exact congrArg (s.mag.vol.map ·) (funext h)

theorem volIdent_foldl {α : Type} {f : State → α → State} (h : ∀ s x, volIdent (f s x) = volIdent s) (l : List α) :
    ∀ s, volIdent (l.foldl f s) = volIdent s := by
  induction l with
  | nil => exact fun _ => rfl
  | cons x l ih => exact fun s => (ih _).trans (h s x)

theorem volIdent_magEvent (s : State) (i code : Nat) (sev : Severity) (ctx : Ctx) : volIdent (magEvent s i code sev ctx) = volIdent s := by
  rw [volIdent, mag_magEvent, volIdent]

theorem volIdent_recoverTakes (s : State) : volIdent (recoverTakes s) = volIdent s := by
  unfold recoverTakes
  split
  · rfl
  · extract_lets cut u
    refine (volIdent_foldl (fun w t => ?_) _ u).trans rfl
    extract_lets t1 x
    refine (volIdent_foldl (fun y n => ?_) _ x).trans (volIdent_modVol ?_ w)
    · split
      · exact volIdent_magEvent ..
      · rfl
    · exact fun _ => rfl

theorem volIdent_rejoinHeld (s : State) : volIdent (rejoinHeld s) = volIdent s := by
  unfold rejoinHeld
  split
  · rfl
  · extract_lets mine u
    refine (volIdent_modVol ?_ u).trans rfl
    exact fun _ => rfl

/-- A formatted medium with its volume recovered and no take left open. -/
def recovered (s : State) (m : Medium) (b : List Byte) : State :=
  rejoinHeld (recoverTakes (modMag (calibrated s m) fun x =>
    { x with vol := some (recoverVol m b), degraded := !(recoverVol m b).failed.isEmpty }))

theorem volIdent_recovered (s : State) (m : Medium) (b : List Byte) : volIdent (recovered s m b) = some (recoverVol m b).ident :=
  (volIdent_rejoinHeld _).trans (volIdent_recoverTakes _)

theorem mountMedium_of_super {m : Medium} {b : List Byte} (hdies : strangeDie m = none) (hpop : legalPop m = true)
    (hsuper : superOf m = some b) (s : State) : ∃ ro rebuild, (m.wp = true → ro = true) ∧ mountMedium s m =
      mountReported (modMag (recovered s m b) fun x => { x with st := if ro then .readOnly else .mounted, rebuild := rebuild }) ro := by
  have hfind : (m.bad.find? fun d => !(((superOf m).map superFailed).getD []).contains d) = none := hdies
  unfold mountMedium
  dsimp only
  rw [hfind]
  dsimp only
  rw [if_neg (by simp [hpop]), hsuper]
  exact ⟨_, _, fun h => by rw [h, Bool.true_or, Bool.true_or], rfl⟩

/-! ### MAG_VCC_GOOD_RISE (R234) -/

/-- MAG_VCC_GOOD high. -/
def vccRisen (s : State) : State := modMag s fun x => { x with vccGood := true }

theorem magVccGoodRise_eq {s : State} (hl : s.live = true) (hst : s.mag.st = .ident) (m : Medium) :
    ∃ status, exec (.magVccGoodRise m) s = .next (endCycle s (endTransition (mountMedium (vccRisen s) m) status)) :=
  ⟨_, by rw [show exec (.magVccGoodRise m) s = execMagVccGoodRise m s from rfl, execMagVccGoodRise, inCore_of_live hl, if_pos hst, vccRisen]⟩

/-! ### Eject (R235, R242) -/

theorem pins_finalWrites (s : State) : magPins (finalWrites s).mag = magPins s.mag := by
  unfold finalWrites
  split
  · rfl
  next v hv =>
    split
    · rfl
    · extract_lets u w
      have hu : magPins u.mag = magPins s.mag := (begun_beginUnit s v (ckptUnit s v)).pins
      have hw : magPins w.mag = magPins u.mag := by
        dsimp only [w]
        split
        · exact (madeDurable_unitDurable u _).pins
        · rfl
      exact ((magKept_writeSuper w true).pins.trans hw).trans hu

/-- What an eject has written and ended before it is answered. -/
def unmounting (s : State) : State := endMagCommands (finalWrites s) false

theorem pins_unmounting (s : State) : magPins (unmounting s).mag = magPins s.mag :=
  (magKept_endMagCommands _ false).pins.trans (pins_finalWrites s)

theorem answerEject_of_asked {s : State} {p : Party} {k : Nat} (heject : s.mag.eject = some (some (p, k)))
    (hnone : s.mag.transition = none) : answerEject s = mbxReply s p k stSuccess 0 0 0 := by
  rw [answerEject, heject]
  exact endTransition_of_none (by rw [mag_mbxReply, hnone]) stSuccess

/-- The end of a magazine's stay: pins low and nothing mounted. -/
def letGo (s : State) (st : MagSt) : State := dropVolume (driveMag s false false) st

theorem mag_letGo (s : State) (st : MagSt) : (letGo s st).mag.st = st ∧ (letGo s st).mag.vol = none ∧ (letGo s st).mag.power = 3 ∧
    (letGo s st).mag.vccEn = false ∧ (letGo s st).mag.locked = false ∧ (letGo s st).mag.eject = none := by
  rw [letGo, dropVolume, modMag, mag_driveMag]
  exact ⟨rfl, rfl, rfl, rfl, rfl, rfl⟩

theorem regs_letGo (s : State) (st : MagSt) : (letGo s st).regs = s.regs := regs_driveMag s false false

section
variable {s : State} (hl : s.live = true)
include hl

theorem ejectUnmount_of_durable (hst : s.mag.st = .ejecting) (hpwr : s.mag.pwrFail = false) (hdurable : allDurable s = true) :
    exec .ejectUnmount s = .next (endCycle s (letGo (answerEject (unmounting s)) .off)) := by
  rw [show exec .ejectUnmount s = execEjectUnmount s from rfl, execEjectUnmount, inCore_of_live hl, if_pos ⟨hst, hdurable, by simp [hpwr]⟩,
    letGo, unmounting]

theorem ejectUnmount_of_waiting (hdurable : allDurable s = false) : exec .ejectUnmount s = .next (endCycle s s) := by
  rw [show exec .ejectUnmount s = execEjectUnmount s from rfl, execEjectUnmount, inCore_of_live hl, if_neg (by simp [hdurable])]

end

/-! ### A surprise removal (R236) -/

theorem magKept_holdRemoved (s : State) : MagKept s (holdRemoved s) := by
  unfold holdRemoved
  split
  · exact .refl s
  next v hv =>
    extract_lets u
    have hu : MagKept s u := by
      refine MagKept.foldl (fun w o => ?_) _ s
      exact (errorsAttached_attachDeferred w 5 3 o.vsa o.n 0 0 0 o.no).magKept
    split
    · exact hu
    · dsimp only
      split
      · exact hu
      · exact hu.trans (magKept_of_mag rfl rfl rfl rfl rfl)

theorem magKept_loseItems (s : State) : MagKept s (loseItems s) := by
  unfold loseItems
  extract_lets u
  have hu : MagKept s u := .foldl magKept_loseItem _ s
  exact hu.trans (magKept_setItems (List.filter_subset_self _))

theorem magKept_endTakes (s : State) : MagKept s (endTakes s) := by
  unfold endTakes
  extract_lets u
  have hu : MagKept s u := by
    dsimp only [u]
    split
    · exact .refl s
    · refine MagKept.trans (t := modMag s _) (magKept_of_mag rfl rfl rfl rfl rfl) (.foldl (fun x t => ?_) _ _)
      refine MagKept.foldl (fun y e => ?_) _ x
      split
      · exact magKept_mbxReply ..
      · exact .refl y
  exact hu.trans (magKept_of_mag rfl rfl rfl rfl rfl)

theorem takeSlots_endTakes (s : State) : (endTakes s).mag.takeSlots = [] := rfl

/-- The requests for a power state and for an eject answered NOT_READY. -/
def requestsRefused (s : State) : State :=
  let s := match s.mag.transition with
    | some (_, some w) => mbxReply s w.1 w.2 stNotReady 0 0 0
    | _ => s
  match s.mag.eject with
  | some (some w) => mbxReply s w.1 w.2 stNotReady 0 0 0
  | _ => s

theorem magKept_requestsRefused (s : State) : MagKept s (requestsRefused s) := by
  unfold requestsRefused
  extract_lets u
  have hu : MagKept s u := by
    dsimp only [u]
    split
    · exact magKept_mbxReply ..
    · exact .refl s
  split
  · exact hu.trans (magKept_mbxReply ..)
  · exact hu

theorem mag_requestsRefused (s : State) : (requestsRefused s).mag = s.mag := by
  unfold requestsRefused
  extract_lets u
  have hu : u.mag = s.mag := by
    dsimp only [u]
    split
    · exact mag_mbxReply ..
    · rfl
  split
  · exact (mag_mbxReply ..).trans hu
  · exact hu

/-- A removal reported, with the power off. -/
def removalReported (s : State) : State := magEvent (driveMag s false false) 3 0x04 .degraded ctxNone

/-- A removal with its commands ended, and what it lost accounted for. -/
def removalSettled (s : State) : State := requestsRefused (endTakes (loseItems (holdRemoved (endMagCommands (removalReported s) true))))

theorem magKept_removalSettled (s : State) : MagKept (removalReported s) (removalSettled s) :=
  ((((magKept_endMagCommands _ true).trans (magKept_holdRemoved _)).trans (magKept_loseItems _)).trans (magKept_endTakes _)).trans
    (magKept_requestsRefused _)

theorem takeSlots_removalSettled (s : State) : (removalSettled s).mag.takeSlots = [] := by
  rw [removalSettled, mag_requestsRefused, takeSlots_endTakes]

theorem pins_removalSettled (s : State) : (removalSettled s).mag.vccEn = false ∧ (removalSettled s).mag.locked = false := by
  have hpins := (magKept_removalSettled s).pins
  rw [removalReported, mag_magEvent, mag_driveMag] at hpins
  exact ⟨congrArg (·.1) hpins, congrArg (·.2.1) hpins⟩

theorem raised_removalSettled (s : State) : raised (removalSettled s) .mag 3 :=
  (magKept_removalSettled s).raised 3 (by decide) (raised_magEvent (by decide) ..)

/-- Nothing mounted any more, and nothing in the galley that belongs to a take. -/
def volumeGone (s : State) (st : MagSt) : State :=
  let u := dropVolume s st
  { u with gal := { u.gal with items := u.gal.items.map fun i => { i with take := none, unit := none } } }

theorem mag_volumeGone (s : State) (st : MagSt) : (volumeGone s st).mag = (dropVolume s st).mag := rfl

theorem keepsRaised_volumeGone (s : State) (st : MagSt) : KeepsRaised s (volumeGone s st) :=
  keepsRaised_of_events (regGet_congr s (volumeGone s st) rfl _)

theorem removal_eq (s : State) (present : Bool) :
    removal s present = syncWait (volumeGone (removalSettled s) (if present then .off else .empty)) := rfl

theorem mag_removal (s : State) (present : Bool) :
    (removal s present).mag = (dropVolume (removalSettled s) (if present then .off else .empty)).mag := by
  have hst : (volumeGone (removalSettled s) (if present then .off else .empty)).mag.st ≠ .readOnly := by
    cases present <;> exact nofun
  rw [removal_eq, same_syncWait_of_st (q := .mag) (by decide) hst, mag_volumeGone]

theorem raised_removal (s : State) (present : Bool) : raised (removal s present) .mag 3 := by
  rw [removal_eq]
  exact (magKept_syncWait _).raised 3 (by decide) (keepsRaised_volumeGone (removalSettled s) _ 3 (by decide) (raised_removalSettled s))

section
variable {s : State} (hl : s.live = true)
include hl

theorem removed_of_surprise (hempty : s.mag.st ≠ .empty) (hoff : s.mag.st ≠ .off) (b l : Bool) :
    exec (.removed b l) s = .next (endCycle s (modMag (removal s b) fun m => { m with present := b, latch := l })) := by
  rw [show exec (.removed b l) s = execRemoved b l s from rfl, execRemoved, inCore_of_live hl]
  dsimp only
  rw [if_neg hempty, if_neg hoff]

theorem removed_of_off (hoff : s.mag.st = .off) (b l : Bool) : exec (.removed b l) s =
    .next (endCycle s (modMag s fun m => { m with present := b, latch := l, st := if b then .off else .empty })) := by
  rw [show exec (.removed b l) s = execRemoved b l s from rfl, execRemoved, inCore_of_live hl]
  dsimp only
  rw [if_neg (by rw [hoff]; exact nofun), if_pos hoff]

theorem presenceRemoved_of_off (hoff : s.mag.st = .off) : exec .presenceRemoved s =
    .next (endCycle s (modMag s fun m => { m with st := .empty, present := false, latch := false })) := by
  rw [show exec .presenceRemoved s = execPresenceRemoved s from rfl, execPresenceRemoved, inCore_of_live hl, if_pos hoff]

/-! ### The eject button (R235) -/

theorem ejectButton_of_closed (hbutton : regBit s 0xF0000 29 = true) (hm : isMounted s = true) (hopen : takeOpen s = false) :
    exec .ejectButton s = .next (endCycle s (modMag s fun m => { m with st := .ejecting, eject := some none })) := by
  rw [show exec .ejectButton s = execEjectButton s from rfl, execEjectButton, inCore_of_live hl, if_neg (by simp [hbutton, hm]),
    if_neg (by simp [hopen]), requestEject]

theorem ejectButton_of_open (hbutton : regBit s 0xF0000 29 = true) (hm : isMounted s = true) (hopen : takeOpen s = true) :
    exec .ejectButton s = .next (endCycle s (magEvent s 4 0x05 .info ctxNone)) := by
  rw [show exec .ejectButton s = execEjectButton s from rfl, execEjectButton, inCore_of_live hl, if_neg (by simp [hbutton, hm]),
    if_pos hopen]

/-! ### Power failure (R249, R457) -/

theorem pwrFail_eq : exec .pwrFail s = .next (endCycle s (magEvent (modMag s fun m => { m with pwrFail := true }) 5 0x06 .degraded ctxNone)) := by
  rw [show exec .pwrFail s = execPwrFail s from rfl, execPwrFail, inCore_of_live hl]

theorem pwrFailClear_of_cool (hgood : s.mag.vccGood = true) (hcool : s.thm.shutAt = none) :
    exec .pwrFailClear s = .next (endCycle s (issueStrips (modMag s fun m => { m with pwrFail := false }))) := by
  rw [show exec .pwrFailClear s = execPwrFailClear s from rfl, execPwrFailClear, inCore_of_live hl, if_pos ⟨hgood, by rw [hcool]; rfl⟩]

theorem pwrFailClear_of_shutdown {x : Nat} (hshut : s.thm.shutAt = some x) : exec .pwrFailClear s = .next (endCycle s s) := by
  rw [show exec .pwrFailClear s = execPwrFailClear s from rfl, execPwrFailClear, inCore_of_live hl, if_neg (by simp [hshut])]

end

end Sys2Proof.Machine
end

section
/-! The settlement of the statement about the magazine's pins (R232, R234 to R236, R249, R255). -/

namespace Sys2Proof.Machine
open Sys2Proof

/-! ### Insertion and the mount -/

theorem mag_insertedIn_of_manual {s : State} (h : ¬ autoMounts s) :
    (insertedIn s).mag = { s.mag with st := .off, present := true, latch := true } := by
  rw [insertedIn, if_neg h, mag_putIn]

theorem mag_insertedIn_of_auto {s : State} (h : autoMounts s) :
    (insertedIn s).mag = { s.mag with present := true, latch := true, vccEn := true, st := .ident, wanted := 0, vccAt := s.now } := by
  have hoff : (putIn s).mag.st = .off := by rw [mag_putIn]
  have hnow : (putIn s).now = s.now := now_magEvent ..
  rw [insertedIn, if_pos h, mag_startMount hoff, mag_putIn, hnow]

theorem same_insertedIn {q : Part} (h : q ∉ [.mag, .out]) (s : State) : q.same (putIn s) (insertedIn s) := by
  unfold insertedIn
  split
  · exact same_startMount h _ 0
  · exact .refl q _

theorem inserted_starts {s : State} (hl : s.live = true) (hst : s.mag.st = .empty ∨ (s.mag.st = .off ∧ s.mag.latch = false)) :
    ∃ t, exec .inserted s = .next t ∧ t.mag.present = true ∧ t.mag.latch = true ∧ raised t .mag 0 ∧
      (¬ (regBit s 0xF0000 31 = true ∧ s.sys.ready = true) → t.mag.st = .off ∧ t.mag.vccEn = s.mag.vccEn) ∧
      (regBit s 0xF0000 31 = true → s.sys.ready = true → t.mag.st = .ident ∧ t.mag.vccEn = true ∧ t.mag.vccAt = s.now) ∧
      onlyRegs [0xF0080] s t ∧ onlyChanges (.mag :: reporting) s t := by
  have hregs : (insertedIn s).regs = (putIn s).regs := same_insertedIn (q := .regs) (by decide) s
  have hraised : raised (putIn s) .mag 0 := raised_magEvent (by decide) ..
  have hpresent : (insertedIn s).mag.present = true ∧ (insertedIn s).mag.latch = true := by
    by_cases h : autoMounts s
    · rw [mag_insertedIn_of_auto h]
      exact ⟨rfl, rfl⟩
    · rw [mag_insertedIn_of_manual h]
      exact ⟨rfl, rfl⟩
  refine ⟨_, inserted_eq hl hst, by rw [endCycle_mag, hpresent.1], by rw [endCycle_mag, hpresent.2],
    raised_endCycle (keepsRaised_of_events (regGet_congr _ _ hregs _) 0 (by decide) hraised), fun h => ?_, fun hreg hready => ?_,
    onlyRegs_endCycle ((onlyRegs_putIn s).trans (onlyRegs_of_regs hregs)), onlyChanges_endCycle fun q hq _ _ => ?_⟩
  · rw [endCycle_mag, mag_insertedIn_of_manual h]
    exact ⟨rfl, rfl⟩
  · rw [endCycle_mag, mag_insertedIn_of_auto ⟨hreg, hready⟩]
    exact ⟨rfl, rfl, rfl⟩
  · exact (same_putIn hq s).trans (same_insertedIn (fun hm => hq (by simp [reporting] at hm ⊢; tauto)) s)

theorem vccGoodTimeout_ends {s : State} (hl : s.live = true) (hst : s.mag.st = .ident) (hgood : s.mag.vccGood = false)
    (hlate : s.mag.vccAt + 50000000 ≤ s.now) :
    ∃ t, exec .vccGoodTimeout s = .next t ∧ t.mag.st = .off ∧ t.mag.vccEn = false ∧ t.mag.transition = none ∧ raised t .mag 2 ∧
      (s.mag.transition = none → onlyRegs [0xF0080] s t ∧ onlyChanges (.mag :: reporting) s t) ∧
      (∀ w p k, s.mag.transition = some (w, some (p, k)) → k < mbxSlots p → answered t p k stNotReady 0 0) := by
  have hmag : (endCycle s (endTransition (vccLost s) stNotReady)).mag = { s.mag with vccEn := false, st := .off, transition := none } := by
    rw [endCycle_mag, mag_endTransition, mag_vccLost]
  have hasked : (vccLost s).mag.transition = s.mag.transition := by rw [mag_vccLost]
  refine ⟨_, vccGoodTimeout_eq hl hst hgood hlate, by rw [hmag], by rw [hmag], by rw [hmag],
    raised_endCycle (keepsRaised_endTransition _ _ 2 (by decide) (raised_magEvent (by decide) ..)), fun hnone => ?_, fun w p k hsome hk => ?_⟩
  · rw [endTransition_of_none (hasked.trans hnone)]
    exact ⟨onlyRegs_endCycle (onlyRegs_vccLost s), onlyChanges_endCycle fun q hq _ _ => same_vccLost hq s⟩
  · rw [endTransition_of_asked (hasked.trans hsome)]
    exact answered_replied hk 0 (by decide) (by decide) (by decide)

section
variable {s : State} {m : Medium} (hl : s.live = true) (hst : s.mag.st = .ident)
include hl hst

theorem mount_unusable {d : Nat} (hd : d ∈ m.bad) (hnew : d ∉ ((superOf m).map superFailed).getD []) :
    ∃ t, exec (.magVccGoodRise m) s = .next t ∧ t.mag.st = .unusable ∧ t.mag.vccEn = false ∧ raised t .mag 2 := by
  obtain ⟨die, hdie⟩ := Option.isSome_iff_exists.mp (strangeDie_isSome hd hnew)
  obtain ⟨status, heq⟩ := magVccGoodRise_eq hl hst m
  obtain ⟨hunusable, hvcc⟩ := mag_unusableAt (vccRisen s) m die
  rw [mountMedium_of_strange hdie] at heq
  exact ⟨_, heq, by rw [endCycle_mag, mag_endTransition, hunusable], by rw [endCycle_mag, mag_endTransition, hvcc],
    raised_endCycle (keepsRaised_endTransition _ status 2 (by decide) (raised_unusableAt ..))⟩

theorem mount_blank (hbad : m.bad = []) (hpop : legalPop m = true) (hsuper : superOf m = none) :
    ∃ t, exec (.magVccGoodRise m) s = .next t ∧ t.mag.st = (if m.wp then .readOnly else .mounted) ∧ t.mag.blank = true ∧ t.mag.vol = none ∧
      t.mag.chans = m.chans ∧ t.mag.dies = m.dies ∧ t.mag.power = min s.mag.wanted 1 ∧ t.mag.locked = regBit s 0xF0000 30 ∧
      raised t .mag 1 := by
  obtain ⟨status, heq⟩ := magVccGoodRise_eq hl hst m
  rw [mountMedium_of_blank (strangeDie_eq_none (by simp [hbad])) hpop hsuper] at heq
  refine ⟨_, heq, ?_⟩
  rw [endCycle_mag, mag_endTransition, mag_mountReported, mountedBlank, modMag, mag_calibrated, mag_identified]
  exact ⟨rfl, rfl, rfl, rfl, rfl, rfl, rfl,
    raised_endCycle (keepsRaised_endTransition _ status 1 (by decide) (raised_mountReported ..))⟩

theorem mount_formatted {b : List Byte} (hbad : ∀ d ∈ m.bad, d ∈ superFailed b) (hpop : legalPop m = true) (hsuper : superOf m = some b) :
    ∃ t, exec (.magVccGoodRise m) s = .next t ∧ isMounted t = true ∧ (m.wp = true → t.mag.st = .readOnly) ∧
      t.mag.vol.map (·.ident) = some (recoverVol m b).ident ∧ raised t .mag 1 := by
  obtain ⟨status, heq⟩ := magVccGoodRise_eq hl hst m
  obtain ⟨ro, rebuild, hro, hmount⟩ := mountMedium_of_super (strangeDie_eq_none (by simpa [hsuper] using hbad)) hpop hsuper (vccRisen s)
  rw [hmount] at heq
  refine ⟨_, heq, ?_, fun hwp => ?_, ?_, raised_endCycle (keepsRaised_endTransition _ status 1 (by decide) (raised_mountReported ..))⟩
  · rw [isMounted, endCycle_mag, mag_endTransition, mag_mountReported]
    cases ro <;> rfl
  · rw [endCycle_mag, mag_endTransition, mag_mountReported, hro hwp]
    rfl
  · rw [endCycle_mag, mag_endTransition, mag_mountReported]
    exact volIdent_recovered (vccRisen s) m b

end

/-! ### Eject and removal -/

theorem ejectUnmount_ends {s : State} (hl : s.live = true) (hst : s.mag.st = .ejecting) (hpwr : s.mag.pwrFail = false)
    (hdurable : allDurable s = true) :
    ∃ t, exec .ejectUnmount s = .next t ∧ t.mag.st = .off ∧ t.mag.vol = none ∧ t.mag.power = 3 ∧ t.mag.vccEn = false ∧
      t.mag.locked = false ∧ t.mag.eject = none ∧
      (∀ p k, s.mag.eject = some (some (p, k)) → k < mbxSlots p → s.mag.transition = none → answered t p k stSuccess 0 0) := by
  obtain ⟨hoff, hvol, hpower, hvcc, hlock, heject⟩ := mag_letGo (answerEject (unmounting s)) .off
  refine ⟨_, ejectUnmount_of_durable hl hst hpwr hdurable, by rw [endCycle_mag, hoff], by rw [endCycle_mag, hvol], by rw [endCycle_mag, hpower],
    by rw [endCycle_mag, hvcc], by rw [endCycle_mag, hlock], by rw [endCycle_mag, heject], fun p k hasked hk hnone => ?_⟩
  have hpins := pins_unmounting s
  have hasked' : (unmounting s).mag.eject = some (some (p, k)) := Eq.trans (congrArg (·.2.2.2) hpins) hasked
  have hnone' : (unmounting s).mag.transition = none := Eq.trans (congrArg (·.2.2.1) hpins) hnone
  rw [answerEject_of_asked hasked' hnone']
  have hanswered : answered (mbxReply (unmounting s) p k stSuccess 0 0 0) p k stSuccess 0 0 :=
    answered_mbxDone hk _ 0 [] (by decide) (by decide) (by decide)
  exact answered_of_onlyRegs hk (onlyRegs_of_regs ((endCycle_regs _ _).trans (regs_letGo _ .off))) hanswered

theorem removed_ends {s : State} (hl : s.live = true) (hempty : s.mag.st ≠ .empty) (hoff : s.mag.st ≠ .off) (b l : Bool) :
    ∃ t, exec (.removed b l) s = .next t ∧ t.mag.st = (if b then .off else .empty) ∧ t.mag.present = b ∧ t.mag.latch = l ∧
      t.mag.vol = none ∧ t.mag.power = 3 ∧ t.mag.vccEn = false ∧ t.mag.locked = false ∧ t.mag.takeSlots = [] ∧ t.mag.units = [] ∧
      raised t .mag 3 := by
  obtain ⟨hvcc, hlock⟩ := pins_removalSettled s
  refine ⟨_, removed_of_surprise hl hempty hoff b l, ?_⟩
  rw [endCycle_mag, modMag, mag_removal]
  exact ⟨rfl, rfl, rfl, rfl, rfl, hvcc, hlock, takeSlots_removalSettled s, rfl, raised_endCycle (raised_removal s b)⟩

/-! ### Power failure -/

theorem pwrFail_stops {s : State} (hl : s.live = true) :
    ∃ t, exec .pwrFail s = .next t ∧ t.mag = { s.mag with pwrFail := true } ∧ raised t .mag 5 ∧ onlyRegs [0xF0080] s t ∧
      onlyChanges (.mag :: reporting) s t := by
  refine ⟨_, pwrFail_eq hl, by rw [endCycle_mag, mag_magEvent]; rfl, raised_endCycle (raised_magEvent (by decide) ..),
    onlyRegs_endCycle (onlyRegs_magEvent (modMag s _) 5 0x06 .degraded ctxNone), onlyChanges_endCycle fun q hq _ _ => ?_⟩
  obtain ⟨hmag, hrep⟩ : q ≠ .mag ∧ q ∉ reporting := by simpa using hq
  have hmod : q.same s (modMag s fun m => { m with pwrFail := true }) := same_modMag hmag _ _
  exact hmod.trans (same_magEvent hrep ..)

theorem pwrFailClear_resumes {s : State} (hl : s.live = true) (hgood : s.mag.vccGood = true) (hcool : s.thm.shutAt = none) :
    ∃ t, exec .pwrFailClear s = .next t ∧ t.mag.pwrFail = false ∧ t.mag.st = s.mag.st ∧ t.mag.vol = s.mag.vol ∧
      onlyChanges [.mag, .out] s t := by
  have hissued := issued_issueStrips (modMag s fun m => { m with pwrFail := false })
  refine ⟨_, pwrFailClear_of_cool hl hgood hcool, ?_, ?_, ?_, onlyChanges_endCycle fun q hq _ _ => ?_⟩
  · rw [endCycle_mag]
    exact hissued.mag_eq MagBlk.pwrFail fun _ => rfl
  · rw [endCycle_mag]
    exact hissued.mag_eq MagBlk.st fun _ => rfl
  · rw [endCycle_mag]
    exact hissued.mag_eq MagBlk.vol fun _ => rfl
  · have hmod : q.same s (modMag s fun m => { m with pwrFail := false }) := same_modMag (by rintro rfl; simp at hq) _ _
    exact hmod.trans (hissued.parts q hq)

theorem onlyChanges_modMag (s : State) (f : MagBlk → MagBlk) : onlyChanges [.mag] s (endCycle s (modMag s f)) :=
  onlyChanges_endCycle fun _ hq _ _ => same_modMag (by simpa using hq) s f

/-- Settles O31, pin by pin: insertion, the 50 ms, MAG_VCC_GOOD by what the dies hold, the button, the eject, removal, and power failure. -/
theorem magazineInsertionAndRemoval : Obligations.MagazineInsertionAndRemoval := by
  refine ⟨fun s hl hst => inserted_starts hl hst, fun s hl hst hgood hlate => vccGoodTimeout_ends hl hst hgood hlate,
    fun s m hl hst => ⟨fun d hd hnew => mount_unusable hl hst hd hnew, fun hbad hpop hsuper => mount_blank hl hst hbad hpop hsuper,
      fun b hbad hpop hsuper => mount_formatted hl hst hbad hpop hsuper⟩,
    fun s hl hbutton hm => ⟨fun hopen => ?closed, fun hopen => ?opened⟩,
    fun s hl hst hpwr => ⟨fun hdurable => ejectUnmount_ends hl hst hpwr hdurable, fun hwaits => ?waits⟩, fun s hl hoff => ?taken,
    fun s b l hl => ⟨fun hempty hoff => removed_ends hl hempty hoff b l, fun hoff => ?follows⟩,
    fun s hl => ⟨pwrFail_stops hl, fun hgood hcool => pwrFailClear_resumes hl hgood hcool, fun x hshut => ?shutdown⟩⟩
  case closed => exact ⟨_, ejectButton_of_closed hl hbutton hm hopen, endCycle_mag .., onlyChanges_modMag s _⟩
  case opened =>
    exact ⟨_, ejectButton_of_open hl hbutton hm hopen, raised_endCycle (raised_magEvent (by decide) ..),
      onlyRegs_endCycle (onlyRegs_magEvent s 4 0x05 .info ctxNone), onlyChanges_endCycle fun q hq _ _ => same_magEvent hq ..⟩
  case waits => exact ⟨_, ejectUnmount_of_waiting hl hwaits, onlyChanges_nothing s⟩
  case taken => exact ⟨_, presenceRemoved_of_off hl hoff, endCycle_mag .., onlyChanges_modMag s _⟩
  case follows => exact ⟨_, removed_of_off hl hoff b l, endCycle_mag .., onlyChanges_modMag s _⟩
  case shutdown => exact ⟨_, pwrFailClear_of_shutdown hl hshut, onlyChanges_nothing s⟩

end Sys2Proof.Machine
end

section
/-! Proof of the statement about RATE_DECISION (R271, R272). -/

namespace Sys2Proof.Machine
open Sys2Proof

/-! ### What a decision rests on -/

theorem same_ratePp {q : Part} (h : q ≠ .free) (s : State) (cf : EncCfg) : q.same s (ratePp s cf).2 := by
  unfold ratePp
  split
  · exact same_free h s _
  · exact .refl q s

theorem ratePp_of_slot {s : State} {cf : EncCfg} {n : Nat} (hjob : cf.hostJob = false) (hslot : surfSlot s cf.surf = some n) :
    ratePp s cf = ((cf.rate : ℚ) * 1000 * (nominalPeriod s s.regs n * (cf.frameDiv : ℚ) / 1000000000) * encShare cf, s) := by
  simp [ratePp, hjob, hslot]

section
variable {cf : EncCfg} {st : EncStream} (pp : ℚ) {ty : Nat}

theorem qp_of_firstOfType (h : st.last.toList.getD ty none = none) :
    (rateDecision cf st pp ty).1 = max cf.qpMin (min cf.qpInit cf.qpMax) := by
  simp only [rateDecision, h, clampNat]
  omega

theorem qp_of_last {q b g : Nat} (h : st.last.toList.getD ty none = some (q, b, g)) (hg : g ≠ 0) :
    (rateDecision cf st pp ty).1 =
      (max (cf.qpMin : Int) (min ((q : Int) + sixLog ((b : ℚ) / (g : ℚ))) (cf.qpMax : Int))).toNat := by
  simp only [rateDecision, h, clampNat, if_neg hg]

theorem clampNat_lt {lo hi n : Nat} (hlo : lo < n) (hhi : hi < n) (x : Int) : clampNat x lo hi < n := by
  unfold clampNat
  omega

theorem qp_lt (rd : Nat → Word) (ty : Nat) : (rateDecision (encCfgOf rd) st pp ty).1 < 64 :=
  clampNat_lt (field_lt _ 13 8) (field_lt _ 21 16) _

end

/-! ### PIC_QP and PIC_TARGET -/

theorem maskOf_picQp : ∀ (e : Fin 4) (k : Fin 16), maskOf (encReg e.val k.val 0x40) = 0x8000003F := by decide +kernel

theorem maskOf_picTarget : ∀ (e : Fin 4) (k : Fin 16), maskOf (encReg e.val k.val 0x44) = BitVec.allOnes 32 := by decide +kernel

/-- A decision put into a stream's PIC_TARGET and PIC_QP. -/
def putDecision (u : State) (e k : Nat) (d : Nat × ℚ) : State :=
  regSet (regSet u (encReg e k 0x44) (BitVec.ofNat 32 (d.2 / 8).floor.toNat)) (encReg e k 0x40) (packFields [(31, 1), (0, d.1)])

section
variable (u : State) (e : Fin 4) (k : Fin 16) (d : Nat × ℚ)

theorem picQp_putDecision : regGet (putDecision u e k d) (encReg e k 0x40) = packFields [(31, 1), (0, d.1)] &&& 0x8000003F := by
  rw [putDecision, regGet_regSet_self, maskOf_picQp]

theorem valid_putDecision : regBit (putDecision u e k d) (encReg e k 0x40) 31 = true := by
  simp [regBit, picQp_putDecision, bit, packFields]

theorem qp_putDecision (h : d.1 < 64) : regField (putDecision u e k d) (encReg e k 0x40) 5 0 = d.1 := by
  have hbound : ∀ n : Fin 64, field (packFields [(31, 1), (0, n.val)] &&& 0x8000003F) 5 0 = n.val := by decide +kernel
  rw [regField, picQp_putDecision]
  exact hbound ⟨d.1, h⟩

theorem target_putDecision : regGet (putDecision u e k d) (encReg e k 0x44) = BitVec.ofNat 32 (d.2 / 8).floor.toNat := by
  rw [putDecision, regGet_regSet_ne _ _ _ _ (by unfold encReg; omega), regGet_regSet_self, maskOf_picTarget, BitVec.and_allOnes]

theorem onlyRegs_putDecision : onlyRegs [encReg e k 0x40, encReg e k 0x44] u (putDecision u e k d) := fun j hj _ => by
  obtain ⟨hqp, htarget⟩ : j ≠ encReg e k 0x40 ∧ j ≠ encReg e k 0x44 := by simpa using hj
  rw [putDecision, regGet_regSet_ne _ _ _ _ hqp, regGet_regSet_ne _ _ _ _ htarget]

theorem same_putDecision {q : Part} (h : q ≠ .regs) : q.same u (putDecision u e k d) :=
  (same_regSet h u _ _).trans (same_regSet h _ _ _)

end

/-! ### The command -/

/-- The fields of the picture that a stream codes next. -/
def EncStream.nextConf (st : EncStream) (e k : Nat) : EncCfg := ((st.next e k).map fun p => p.conf e k).getD (st.conf e k)

theorem nextConf_eq_encCfgOf (st : EncStream) (e k : Nat) : ∃ rd, st.nextConf e k = encCfgOf rd := by
  unfold EncStream.nextConf
  cases st.next e k with
  | none => exact ⟨st.word e k, rfl⟩
  | some p => exact ⟨fun off => rmGet p.cfg (encReg e k off), rfl⟩

/-- What a stream remembers of its pictures as it decides: nothing, where it is enabled anew with the picture it codes next. -/
def EncStream.remembered (st : EncStream) (e k : Nat) : EncStream :=
  if ((st.next e k).map (·.anew)).getD st.anew then { st with debt := 0, last := Vector.replicate 4 none } else st

/-- The decision of a stream for the picture that it codes next, at a picture's share of the rate. -/
def EncStream.decision (st : EncStream) (e k : Nat) (pp : ℚ) : Nat × ℚ :=
  rateDecision (st.nextConf e k) (st.remembered e k) pp
    ((st.remembered e k).typeAt (st.nextConf e k) (((st.next e k).map (·.first)).getD (st.remembered e k).wantIrap)
      ((st.remembered e k).nextPosition e k))

theorem exec_rateDecision (e : Fin 4) (k : Fin 16) (s : State) : exec (.rateDecision e k) s = inCore s fun s =>
    let st := s.hev.streams[e][k]
    if ¬ (st.nextConf e k).on ∨ (st.nextConf e k).rc = 0 ∨ regBit s (encReg e k 0x40) 31 ∨ ¬ s.sys.ready ∨ interrupted s then s
    else putDecision (ratePp s (st.nextConf e k)).2 e k (st.decision e k (ratePp s (st.nextConf e k)).1) := rfl

section
variable {s : State} {e : Fin 4} {k : Fin 16} {st : EncStream} (hst : st = s.hev.streams[e][k])
include hst

theorem rateDecision_of_idle (h : (st.nextConf e k).rc = 0 ∨ regBit s (encReg e k 0x40) 31 = true) :
    exec (.rateDecision e k) s = .next (endCycle s s) := by
  subst hst
  rw [exec_rateDecision, inCore_of_fixed]
  refine if_pos ?_
  rcases h with hrc | hvalid
  · exact .inr (.inl hrc)
  · exact .inr (.inr (.inl hvalid))

theorem rateDecision_of_due (hl : s.live = true) (hready : s.sys.ready = true) (hserved : interrupted s = false)
    (hon : (st.nextConf e k).on = true) (hrc : (st.nextConf e k).rc ≠ 0) (hfree : regBit s (encReg e k 0x40) 31 = false) :
    exec (.rateDecision e k) s = .next (endCycle s
      (putDecision (ratePp s (st.nextConf e k)).2 e k (st.decision e k (ratePp s (st.nextConf e k)).1))) := by
  rw [exec_rateDecision, inCore_of_live hl]
  dsimp only
  rw [← hst, if_neg (by simp [hon, hrc, hfree, hready, hserved])]

end

/-- Settles O34: a decision is made where the conditions of R271 hold, and else nothing is done. That nothing changes while PIC_QP is VALID is
the model's reading (log 29), as is that a stream enabled anew decides for every type as for its first picture. -/
theorem rateDecisions : Obligations.RateDecisions := by
  refine ⟨fun s e k st0 st nx cf ty hl hready hserved hst0 hnx hcf hst hon hrc hfree hty => ?made,
    fun s e k st hst hidle => ⟨_, rateDecision_of_idle hst hidle, onlyChanges_nothing s⟩⟩
  case made =>
    subst hnx
    obtain rfl : cf = st0.nextConf e k := hcf
    obtain rfl : st = st0.remembered e k := hst
    have hexec := rateDecision_of_due hst0 hl hready hserved hon hrc hfree
    generalize hpp : (ratePp s (st0.nextConf e k)).1 = pp at hexec
    have hdec : st0.decision e k pp = rateDecision (st0.nextConf e k) (st0.remembered e k) pp ty := by rw [hty]; rfl
    have hqp : (st0.decision e k pp).1 < 64 := by
      obtain ⟨rd, hrd⟩ := nextConf_eq_encCfgOf st0 e k
      rw [hdec, hrd]
      exact qp_lt pp rd ty
    refine ⟨_, hexec, ?_, fun hfirst => ?_, fun q b g hlast hg => ?_, fun n p hjob hslot hp => ⟨?_, ?_⟩, ?_, ?_⟩
    · rw [regBit, regGet_endCycle]
      exact valid_putDecision _ e k _
    · rw [regField, regGet_endCycle]
      exact (qp_putDecision _ e k _ hqp).trans (by rw [hdec, qp_of_firstOfType pp hfirst])
    · rw [regField, regGet_endCycle]
      exact (qp_putDecision _ e k _ hqp).trans (by rw [hdec, qp_of_last pp hlast hg])
    · rw [ratePp_of_slot hjob hslot, ← hp] at hpp
      subst hpp
      rw [regGet_endCycle, target_putDecision, hdec]
      rfl
    · rw [endCycle_free, same_putDecision (q := .free) _ e k _ (by decide), ratePp_of_slot hjob hslot]
    · exact onlyRegs_endCycle fun j hj ho => (onlyRegs_putDecision _ e k _ j hj ho).trans
        (regGet_congr _ _ (same_ratePp (q := .regs) (by decide) s _) j)
    · refine onlyChanges_endCycle fun q hq _ _ => ?_
      obtain ⟨hregs, hdraw⟩ : q ≠ .regs ∧ q ≠ .free := by simpa using hq
      exact (same_ratePp hdraw s _).trans (same_putDecision _ e k _ hregs)

end Sys2Proof.Machine
end

section
/-! The encoder streams (R258): one stream changed, and what that leaves as it is. -/

namespace Sys2Proof.Machine
open Sys2Proof

theorem same_hev {q : Part} (h : q ≠ .hev) (s : State) (x : HevBlk) : q.same s { s with hev := x } := by
  cases q
  case hev => exact absurd rfl h
  all_goals rfl

theorem same_modEnc {q : Part} (h : q ≠ .hev) (s : State) (e k : Nat) (f : EncStream → EncStream) : q.same s (modEnc s e k f) :=
  same_hev h s _

@[simp] theorem regGet_modEnc (s : State) (e k : Nat) (f : EncStream → EncStream) (j : Nat) : regGet (modEnc s e k f) j = regGet s j := rfl

@[simp] theorem stream_modEnc_self (s : State) (e : Fin 4) (k : Fin 16) (f : EncStream → EncStream) :
    (modEnc s e k f).hev.streams[e][k] = f s.hev.streams[e][k] := by
  rw [modEnc, vMod_getElem_self, vMod_getElem_self]

theorem stream_modEnc_ne (s : State) (e : Fin 4) {k j : Fin 16} (h : j ≠ k) (f : EncStream → EncStream) :
    (modEnc s e k f).hev.streams[e][j] = s.hev.streams[e][j] := by
  rw [modEnc, vMod_getElem_self, vMod_getElem_ne _ h]

end Sys2Proof.Machine
end

section
/-! Proof of the statement about STREAM_SEI and STREAM_HEADERS (R264, R390). -/

namespace Sys2Proof.Machine
open Sys2Proof

/-- The STREAM byte of a request names its core and stream. -/
theorem reqStream_of_encByte {req : List Byte} {e : Fin 4} {k : Fin 16} (h : (byteAt req 0x10).toNat = encByte e.val k.val) :
    reqStream req = (e.val, k.val) := by
  have he := e.isLt
  have hk := k.isLt
  unfold reqStream encByte at *
  rw [h]
  congr 1 <;> omega

theorem outsideMbx_encReg (e : Fin 4) (k : Fin 16) : outsideMbx (encReg e.val k.val 0) := by
  unfold outsideMbx encReg
  omega

/-! ### STREAM_SEI -/

/-- The static SEI staged for a stream, with the payload of a request put in or, at length 0, taken out. -/
def stagedSei (req : List Byte) (m : SMap (List Byte)) : SMap (List Byte) :=
  if byteAt req 0x12 = 0 then mDel m (byteAt req 0x11).toNat
  else mPut m (byteAt req 0x11).toNat ((req.drop 0x20).take (byteAt req 0x12).toNat)

/-- A request just taken, with its payload staged for a stream. -/
def seiStaged (s : State) (p : Party) (slot : Nat) (e k : Nat) (req : List Byte) : State :=
  modEnc (mbxTake s p slot) e k fun st => { st with seiNext := stagedSei req st.seiNext }

section
variable {s : State} {p : Party} {i : Fin 32} {req : List Byte} (hl : s.live = true)

theorem exec_streamSei (p : Party) (i : Fin 32) (s : State) : exec (.streamSei p i) s = inCore s fun s => serve s p i 0x0601 fun u req =>
    mbxReply (journalCommit (modEnc u (reqStream req).1 (reqStream req).2 fun st => { st with
      seiNext := if (byteAt req 0x12).toNat = 0 then mDel st.seiNext (byteAt req 0x11).toNat
        else mPut st.seiNext (byteAt req 0x11).toNat ((req.drop 0x20).take (byteAt req 0x12).toNat) })) p i stSuccess 0 0 0 := rfl

include hl

theorem streamSei_of_asks {e : Fin 4} {k : Fin 16} (ha : asks s p i.val 0x0601 req)
    (hstream : (byteAt req 0x10).toNat = encByte e.val k.val) :
    exec (.streamSei p i) s = .next (replied s (journalCommit (seiStaged s p i e k req)) p i stSuccess 0 0 0) := by
  have hzero : (byteAt req 0x12).toNat = 0 ↔ byteAt req 0x12 = 0 := BitVec.toNat_inj (y := 0#8)
  rw [exec_streamSei, inCore_of_live hl, serve_of_asks ha]
  simp only [reqStream_of_encByte hstream, hzero]
  rfl

theorem streamSei_spec {e : Fin 4} {k : Fin 16} (ha : asks s p i.val 0x0601 req)
    (hstream : (byteAt req 0x10).toNat = encByte e.val k.val) :
    ∃ t, exec (.streamSei p i) s = .next t ∧ answered t p i.val stSuccess 0 0 ∧
      (t.hev.streams[e][k]).seiNext = stagedSei req (s.hev.streams[e][k]).seiNext ∧
      onlySlot p i.val s t ∧ onlyChanges (.hev :: .flt :: answering) s t := by
  have hi := asks_slot ha
  have htake : (mbxTake s p i).hev = s.hev := same_mbxTake (q := .hev) (by decide) s p i
  obtain ⟨hans, hslot, hchange⟩ := committed_spec (s := s) (u := seiStaged s p i e k req) (l := [.hev, .flt]) hi (by decide) (by decide)
    (fun q hq => same_modEnc (by rintro rfl; exact hq (by decide)) _ _ _ _) (status := stSuccess) (r0 := 0) (r1 := 0) (by decide) (by decide)
    (by decide)
  refine ⟨_, streamSei_of_asks hl ha hstream, hans, ?_, hslot, hchange⟩
  rw [endCycle_hev, mbxReply, same_mbxDone (q := .hev) (by decide), same_journalCommit (q := .hev) (by decide), seiStaged,
    stream_modEnc_self, htake]

theorem streamSei_of_bad {off : Nat} (hr : reaches s p i.val 0x0601 req) (hbad : firstBad p 0x0601 req = some off) :
    exec (.streamSei p i) s = .next (replied s (mbxTake s p i) p i stInvalidField 0 0 off) := by
  rw [exec_streamSei, inCore_of_live hl, serve_of_bad hr hbad]

end

/-- A request that passes the checks of R381 has one of the two types, and a payload of at most 200 bytes. -/
theorem seiFields_of_asks {s : State} {p : Party} {slot : Nat} {req : List Byte} (h : asks s p slot 0x0601 req) :
    (byteAt req 0x11 = 137 ∨ byteAt req 0x11 = 144) ∧ (byteAt req 0x12).toNat ≤ 200 := by
  have hty := inRange_of_asks h (0x11, decide ((byteAt req 0x11).toNat ≠ 137) && decide ((byteAt req 0x11).toNat ≠ 144)) (by simp [mbxRanges])
  have hlen := inRange_of_asks h (0x12, outOf 0 200 (byteAt req 0x12).toNat) (by simp [mbxRanges])
  constructor
  · have hty' : (byteAt req 0x11).toNat = 137 ∨ (byteAt req 0x11).toNat = 144 := by
      simpa [imp_iff_not_or] using hty
    exact hty'.imp (fun h => BitVec.eq_of_toNat_eq h) fun h => BitVec.eq_of_toNat_eq h
  · simpa [outOf] using hlen

/-! ### STREAM_HEADERS -/

section
variable {s : State} {p : Party} {i : Fin 32} {req : List Byte} {buf : HostBuf} {e : Fin 4} {k : Fin 16} (hl : s.live = true)
  (ha : asks s p i.val 0x0602 req) (hstream : (byteAt req 0x10).toNat = encByte e.val k.val)
include hl ha hstream

theorem streamHeaders_of_asks : exec (.streamHeaders p i buf) s = .next (endCycle s
    (if ¬ regBit s (encReg e.val k.val 0) 31 = true then mbxReply (mbxTake s p i) p i stNotReady 0 0 0
      else mbxSend (mbxTake s p i) p i (descAt req 0x20) buf (s.hev.streams[e][k]).headers fun u =>
        mbxReply u p i stSuccess 0 (s.hev.streams[e][k]).headers.length 0)) := by
  have htake : (mbxTake s p i).hev = s.hev := same_mbxTake (q := .hev) (by decide) s p i
  have hlist : ((s.hev.streams.toList.getD e.val (Vector.replicate 16 EncStream.reset)).toList.getD k.val EncStream.reset) =
      s.hev.streams[e][k] := by simp
  rw [show exec (.streamHeaders p i buf) s = execStreamHeaders p i buf s from rfl, execStreamHeaders, inCore_of_live hl, serve_of_asks ha]
  simp only [reqStream_of_encByte hstream, regBit_mbxTake (asks_slot ha) s (outsideMbx_encReg e k), htake, hlist]

theorem streamHeaders_off (hoff : regBit s (encReg e.val k.val 0) 31 = false) :
    exec (.streamHeaders p i buf) s = .next (replied s (mbxTake s p i) p i stNotReady 0 0 0) := by
  rw [streamHeaders_of_asks hl ha hstream, if_pos (Bool.eq_false_iff.mp hoff)]

variable {segs : List (Nat × Nat)} (hon : regBit s (encReg e.val k.val 0) 31 = true)
include hon

theorem streamHeaders_small (hbus : busMaster s p = true) (hsegs : partySegs s p (descAt req 0x20) buf = some (segs, true))
    (hsmall : segTotal segs < (s.hev.streams[e][k]).headers.length) :
    exec (.streamHeaders p i buf) s =
      .next (replied s (mbxTake s p i) p i stInvalidField 0 (s.hev.streams[e][k]).headers.length 0) := by
  rw [streamHeaders_of_asks hl ha hstream, if_neg (not_not_intro hon), drawn_none, mbxSend,
    mbxRoom_drawn (asks_slot ha) _ hbus hsegs, if_pos hsmall]

theorem streamHeaders_sent (hlen : (s.hev.streams[e][k]).headers.length < 2 ^ 32)
    (hmay : mayReceive s p (descAt req 0x20) buf segs (s.hev.streams[e][k]).headers) :
    ∃ t, exec (.streamHeaders p i buf) s = .next t ∧ answered t p i.val stSuccess (s.hev.streams[e][k]).headers.length 0 ∧
      delivered s t p segs (s.hev.streams[e][k]).headers ∧ onlySlot p i.val s t ∧ onlyChanges delivering s t := by
  have hi := asks_slot ha
  obtain ⟨hbus, hsegs, hroom⟩ := hmay
  have hexec := streamHeaders_of_asks (buf := buf) hl ha hstream
  rw [if_neg (not_not_intro hon), drawn_none, mbxSend_drawn hi _ hbus hsegs hroom] at hexec
  have hput (q : Part) (hq : q ∉ delivering) :
      q.same (mbxTake s p i) (putOut (drawn s p i s.free) p segs (s.hev.streams[e][k]).headers) :=
    same_putOut (fun hm => hq (by simp [delivering, answering] at hm ⊢; tauto)) _ p segs _
  obtain ⟨hslot, hchange⟩ := done_spec (s := s) hi hput (by decide)
    (same_putOut (q := .regs) (by decide) ..) stSuccess 0 (s.hev.streams[e][k]).headers.length 0 []
  exact ⟨_, hexec, answered_done hi 0 [] (by decide) hlen (by decide), delivered_done hi s.free hroom rfl rfl stSuccess 0 _ 0 [], hslot,
    hchange⟩

end

/-- Settles O35: STREAM_SEI by whether it passes the checks of R381, STREAM_HEADERS by whether the stream is enabled and its buffer large
enough. -/
theorem streamHeaderSets : Obligations.StreamHeaderSets := by
  refine ⟨fun s p i req e k hl ha hstream => streamSei_spec hl ha hstream, fun s p i req off hl hr => ⟨fun hbad => ?bad, fun hok => ?ok⟩,
    fun s p i req buf e k l segs hl ha hstream hhead hlen => ?headers⟩
  case bad =>
    have ⟨_, _, hi, _⟩ := hr
    exact ⟨_, streamSei_of_bad hl hr hbad, refused_spec hi (by decide) (by decide) (lt_of_lt_of_le (firstBad_lt hbad) (by decide))⟩
  case ok => exact seiFields_of_asks ⟨hr, hok⟩
  case headers =>
    subst hhead
    refine ⟨fun hon hmay => streamHeaders_sent hl ha hstream hon hlen hmay, fun hon hbus hsegs hsmall => ?_,
      fun hoff => exec_refused ha (streamHeaders_off hl ha hstream hoff)⟩
    exact ⟨_, streamHeaders_small hl ha hstream hon hbus hsegs hsmall, refused_spec (asks_slot ha) (by decide) hlen (by decide)⟩

end Sys2Proof.Machine
end

section
/-! Completions of host queues (R345, R348): the entry posted, the tag freed, and the commands that stay in flight. -/

namespace Sys2Proof.Machine
open Sys2Proof

/-! ### Sparse maps with one value changed -/

theorem mMod_mMod {α : Type} (m : SMap α) (i : Nat) (f g : α → α) : mMod (mMod m i f) i g = mMod m i fun x => g (f x) := by
  induction m with
  | nil => rfl
  | cons a m ih =>
    obtain ⟨k, v⟩ := a
    by_cases h : i = k
    · simp only [mMod, if_pos h]
    · simp only [mMod, if_neg h, ih]

/-- A key that is taken out need not be changed before. -/
theorem mDel_mMod {α : Type} (m : SMap α) (i : Nat) (f : α → α) : mDel (mMod m i f) i = mDel m i := by
  induction m with
  | nil => rfl
  | cons a m ih =>
    obtain ⟨k, v⟩ := a
    by_cases h : i = k
    · simp only [mMod, mDel, if_pos h]
    · simp only [mMod, mDel, if_neg h, ih]

theorem mem_of_mGet {α : Type} {m : SMap α} {i : Nat} {v : α} (h : mGet m i = some v) : (i, v) ∈ m := by
  induction m with
  | nil => cases h
  | cons a m ih =>
    obtain ⟨k, w⟩ := a
    rw [mGet] at h
    split at h
    · rename_i hk
      obtain rfl : w = v := by simpa using h
      rw [hk]
      exact List.mem_cons_self
    · exact List.mem_cons_of_mem _ (ih h)

theorem mem_of_mem_mDel {α : Type} {m : SMap α} {i : Nat} {a : Nat × α} (h : a ∈ mDel m i) : a ∈ m := by
  induction m with
  | nil => exact h
  | cons b m ih =>
    obtain ⟨k, v⟩ := b
    rw [mDel] at h
    split at h
    · exact List.mem_cons_of_mem _ (ih h)
    · exact (List.mem_cons.mp h).elim (fun he => he ▸ List.mem_cons_self) fun hm => List.mem_cons_of_mem _ (ih hm)

section
variable {α β : Type} {i : Nat} {v : α} {f : α → α} {g : Nat × α → List β}

/-- A change that a collection over the map does not see. -/
theorem flatMap_mMod_of_kept {m : SMap α} (h : mGet m i = some v) (hg : g (i, f v) = g (i, v)) : (mMod m i f).flatMap g = m.flatMap g := by
  induction m with
  | nil => cases h
  | cons a m ih =>
    obtain ⟨k, w⟩ := a
    by_cases hk : i = k
    · subst hk
      obtain rfl : w = v := by simpa [mGet] using h
      simp only [mMod, if_pos, List.flatMap_cons, hg]
    · simp only [mMod, if_neg hk, List.flatMap_cons, ih (by simpa [mGet, hk] using h)]

/-- A change of the one value that a collection over the map finds. -/
theorem flatMap_mMod_of_only {m : SMap α} (h : mGet m i = some v) (hm : m.flatMap g = []) : (mMod m i f).flatMap g = g (i, f v) := by
  induction m with
  | nil => cases h
  | cons a m ih =>
    obtain ⟨k, w⟩ := a
    obtain ⟨ha, hrest⟩ := List.append_eq_nil_iff.mp ((List.flatMap_cons ..).symm.trans hm)
    by_cases hk : i = k
    · subst hk
      obtain rfl : w = v := by simpa [mGet] using h
      simp only [mMod, if_pos, List.flatMap_cons, hrest, List.append_nil]
    · simp only [mMod, if_neg hk, List.flatMap_cons, ha, List.nil_append, ih (by simpa [mGet, hk] using h) hrest]

end

/-! ### The commands in flight that a test takes -/

/-- The commands of one queue that a test takes. -/
def queueFinds (f : Nat → Cmd → Bool) (x : Nat × Queue) : List (Nat × Nat) :=
  x.2.cmds.flatMap fun p => if f x.1 p.2 then [(x.1, p.1)] else []

theorem findCmds_eq_flatMap (s : State) (f : Nat → Cmd → Bool) : findCmds s f = s.hq.queues.flatMap (queueFinds f) := by
  have hqueue (i : Nat) (l : List (Nat × Cmd)) : ((l.filter fun p => f i p.2).map fun p => (i, p.1)) =
      l.flatMap fun p => if f i p.2 then [(i, p.1)] else [] := by
    induction l with
    | nil => rfl
    | cons a l ih => by_cases h : f i a.2 = true <;> simp [h, ih]
  unfold findCmds
  congr 1
  exact funext fun x => hqueue x.1 x.2.cmds

theorem findCmds_eq_nil_iff (s : State) (f : Nat → Cmd → Bool) :
    findCmds s f = [] ↔ ∀ x ∈ s.hq.queues, ∀ p ∈ x.2.cmds, f x.1 p.2 = false := by
  simp [findCmds_eq_flatMap, queueFinds, List.flatMap_eq_nil_iff]

theorem findCmds_congr {s t : State} (h : t.hq = s.hq) (f : Nat → Cmd → Bool) : findCmds t f = findCmds s f := by
  rw [findCmds, h, findCmds]

/-- A stricter test finds nothing where a test finds nothing. -/
theorem findCmds_eq_nil_of_imp {s : State} {f g : Nat → Cmd → Bool} (h : ∀ i c, g i c = true → f i c = true) (hf : findCmds s f = []) :
    findCmds s g = [] := by
  rw [findCmds_eq_nil_iff] at hf ⊢
  exact fun x hx p hp => Bool.eq_false_iff.mpr fun hg => Bool.eq_false_iff.mp (hf x hx p hp) (h _ _ hg)

theorem queueOf_congr {s t : State} (h : t.hq = s.hq) (q : Nat) : queueOf t q = queueOf s q := by rw [queueOf, h, queueOf]

theorem cmdOf_congr {s t : State} (h : t.hq = s.hq) (q tag : Nat) : cmdOf t q tag = cmdOf s q tag := by
  rw [cmdOf, queueOf_congr h, cmdOf]

theorem cmdOf_of_queue {s : State} {q tag : Nat} {x : Queue} {c : Cmd} (hx : queueOf s q = some x) (hc : mGet x.cmds tag = some c) :
    cmdOf s q tag = some c := by
  rw [cmdOf, hx, Option.bind_some, hc]

section
variable {s : State} {q tag : Nat} {x : Queue} {c : Cmd} (hx : queueOf s q = some x) (hc : mGet x.cmds tag = some c) {g : Cmd → Cmd}
include hx

theorem queueOf_modCmd : queueOf (modCmd s q tag g) q = some { x with cmds := mMod x.cmds tag g } := by
  rw [queueOf, modCmd, modQ, mGet_mMod, ← queueOf, hx]
  rfl

include hc

theorem cmdOf_modCmd : cmdOf (modCmd s q tag g) q tag = some (g c) := by
  rw [cmdOf, queueOf_modCmd hx, Option.bind_some, mGet_mMod, hc]
  rfl

/-- A command changed in nothing that a test looks at. -/
theorem findCmds_modCmd_of_kept {f : Nat → Cmd → Bool} (h : f q (g c) = f q c) : findCmds (modCmd s q tag g) f = findCmds s f := by
  rw [findCmds_eq_flatMap, findCmds_eq_flatMap]
  exact flatMap_mMod_of_kept hx (flatMap_mMod_of_kept hc (by simp only [h]))

/-- A command changed into the only one that a test takes. -/
theorem findCmds_modCmd_of_only {f : Nat → Cmd → Bool} (h : f q (g c) = true) (hs : findCmds s f = []) :
    findCmds (modCmd s q tag g) f = [(q, tag)] := by
  rw [findCmds_eq_flatMap] at hs ⊢
  have hqueue : queueFinds f (q, x) = [] := List.flatMap_eq_nil_iff.mp hs _ (mem_of_mGet hx)
  exact (flatMap_mMod_of_only hx hs).trans ((flatMap_mMod_of_only hc hqueue).trans (by simp only [h, if_true]))

end

/-! ### A command that completes -/

theorem out_signalQ (s : State) (q : Nat) : s.out <:+ (signalQ s q).out := by
  unfold signalQ
  split
  · exact out_msixSend (modQ s q _) _ _
  · exact List.suffix_rfl

/-- The message of a queue leaves its commands as they are. -/
theorem hq_signalQ {s : State} {q : Nat} {x : Queue} (hx : queueOf s q = some x) :
    ∃ g : Queue → Queue, (signalQ s q).hq = { s.hq with queues := mMod s.hq.queues q g } ∧ ∀ z, (g z).cmds = z.cmds := by
  refine ⟨fun z => { z with unsignalled := 0 }, ?_, fun _ => rfl⟩
  rw [signalQ, hx]
  exact msixSend_hq ..

/-- An entry that ends a flight is written at its queue's tail, and the tag is free. -/
theorem writeEntry_ends {s : State} {q : Nat} {x : Queue} {y : Cqe} (hx : queueOf s q = some x) (hy : y.ends = true) :
    .hostWrite x.fn (x.cqBase + 16 * x.cqTail) (cqeBytes x y.result y.tag y.sqHead y.status y.detail y.flags y.op) ∈ (writeEntry s q y).out ∧
      ∃ g : Queue → Queue, (writeEntry s q y).hq = { s.hq with queues := mMod s.hq.queues q g } ∧ ∀ z, (g z).cmds = mDel z.cmds y.tag := by
  unfold writeEntry
  split
  · rename_i hnone
    cases hx.symm.trans hnone
  · rename_i z hz
    obtain rfl : x = z := Option.some.inj (hx.symm.trans hz)
    extract_lets flags bytes u wrap v w now
    let f : Queue → Queue := fun z => { z with
      cqTail := (z.cqTail + 1) % z.cqDepth, phase := if wrap then !z.phase else z.phase, attached := 0, unsignalled := z.unsignalled + 1
      firstAt := if z.unsignalled = 0 then u.now else z.firstAt, cmds := if y.ends then mDel z.cmds y.tag else z.cmds }
    have hcmds (z : Queue) : (f z).cmds = mDel z.cmds y.tag := if_pos hy
    have hhq : w.hq = { s.hq with queues := mMod s.hq.queues q f } := by
      dsimp only [w]
      rw [if_pos hy]
      rfl
    have hout : .hostWrite x.fn (x.cqBase + 16 * x.cqTail) bytes ∈ w.out := by
      dsimp only [w]
      rw [if_pos hy]
      exact List.mem_cons_self
    have hqueue : queueOf w q = some (f x) := by
      rw [queueOf, hhq, mGet_mMod, ← queueOf, hx]
      rfl
    split
    · obtain ⟨g, hg, hkept⟩ := hq_signalQ hqueue
      refine ⟨(out_signalQ w q).mem hout, fun z => g (f z), ?_, fun z => (hkept (f z)).trans (hcmds z)⟩
      rw [hg, hhq, mMod_mMod]
    · exact ⟨hout, f, hhq, hcmds⟩

/-- A command in flight, not completed before, whose queue's CQ has room (R345, R348). -/
structure Posts (s : State) (q tag : Nat) (x : Queue) (c : Cmd) : Prop where
  queue : queueOf s q = some x
  cmd : mGet x.cmds tag = some c
  finished : c.finished = false
  aborted : c.aborted = false
  full : x.full = false
  backlog : x.backlog = []

theorem Posts.congr {s t : State} {q tag : Nat} {x : Queue} {c : Cmd} (h : Posts s q tag x c) (ht : t.hq = s.hq) : Posts t q tag x c :=
  { h with queue := (queueOf_congr ht q).trans h.queue }

section
variable {s : State} {q tag : Nat} {x : Queue} {c : Cmd} (h : Posts s q tag x c) (status detail : Nat) (result : Word) (flags : Nat)
include h

/-- The entry goes out, and of the commands in flight only those of its tag are gone. -/
theorem complete_posts :
    .hostWrite x.fn (x.cqBase + 16 * x.cqTail) (cqeBytes x result tag c.sqHead status detail flags c.op) ∈
        (complete s q tag status detail result flags).out ∧
      ∃ g : Queue → Queue, (complete s q tag status detail result flags).hq = { s.hq with queues := mMod s.hq.queues q g } ∧
        ∀ z, (g z).cmds = mDel z.cmds tag := by
  let y : Cqe := { result := result, tag := tag, sqHead := c.sqHead, status := status, detail := detail, flags := flags, op := c.op,
                   irqNow := bit (BitVec.ofNat 32 c.flags) 1, ends := true }
  let f : Queue → Queue := fun z => { z with cmds := mMod z.cmds tag fun c => { c with finished := true, waiting := false } }
  have hqueue : queueOf (modQ s q f) q = some (f x) := queueOf_modCmd h.queue
  have hroom : ¬ (x.full = true ∨ x.backlog ≠ []) := by simp [h.backlog, h.full]
  have heq : complete s q tag status detail result flags = writeEntry (modQ s q f) q y := by
    unfold complete
    simp only [cmdOf_of_queue h.queue h.cmd, h.finished, h.aborted, Bool.false_eq_true, or_self, if_false]
    unfold postEntry
    rw [show modCmd s q tag _ = modQ s q f from rfl, hqueue]
    exact if_neg hroom
  obtain ⟨hout, g, hg, hcmds⟩ := writeEntry_ends (y := y) hqueue rfl
  rw [heq]
  refine ⟨hout, fun z => g (f z), ?_, fun z => (hcmds (f z)).trans (mDel_mMod ..)⟩
  rw [hg, modQ, mMod_mMod]

theorem completed_endCycle (s' : State) :
    completed (endCycle s' (complete s q tag status detail result flags)) q tag x c status detail result flags := by
  obtain ⟨hout, g, hg, hcmds⟩ := complete_posts h status detail result flags
  refine ⟨by rwa [endCycle_out], ?_⟩
  rw [cmdOf_congr (endCycle_hq ..), cmdOf, queueOf, hg, mGet_mMod, ← queueOf, h.queue, Option.map_some, Option.bind_some, hcmds, mGet_mDel,
    if_pos rfl]

/-- A completion brings no command in flight. -/
theorem findCmds_complete {f : Nat → Cmd → Bool} (hf : findCmds s f = []) : findCmds (complete s q tag status detail result flags) f = [] := by
  obtain ⟨-, g, hg, hcmds⟩ := complete_posts h status detail result flags
  have hqueue : queueFinds f (q, x) = [] := List.flatMap_eq_nil_iff.mp (findCmds_eq_flatMap s f ▸ hf) _ (mem_of_mGet h.queue)
  rw [findCmds_eq_flatMap, hg]
  refine (flatMap_mMod_of_only h.queue (findCmds_eq_flatMap s f ▸ hf)).trans (List.flatMap_eq_nil_iff.mpr fun p hp => ?_)
  exact List.flatMap_eq_nil_iff.mp hqueue p (mem_of_mem_mDel (hcmds x ▸ hp))

end

/-- What a command leaves that has changed some parts and completes. -/
theorem onlyChanges_complete {l : List Part} (hl : ∀ p ∈ completing, p ∈ l) {s u : State} (hu : ∀ p : Part, p ∉ l → p.same s u)
    (q tag status detail : Nat) (result : Word) (flags : Nat) :
    onlyChanges l s (endCycle s (complete u q tag status detail result flags)) :=
  onlyChanges_endCycle fun p hp _ _ => (hu p hp).trans (same_complete (fun hm => hp (hl p hm)) u ..)

/-! ### The command that an opcode row executes -/

section
variable {s : State} {q tag op : Nat} {x : Queue} {c : Cmd} (h : inFlight s q tag op x c)
include h

theorem posts_of_inFlight : Posts s q tag x c := by
  obtain ⟨-, hqueue, hcmd, -, -, hfinished, haborted, hfull, hbacklog⟩ := h
  exact ⟨hqueue, hcmd, hfinished, haborted, hfull, hbacklog⟩

theorem asCommand_of_inFlight (f : State → Queue → Cmd → State) : asCommand s q tag op f = f s x c := by
  obtain ⟨-, hqueue, hcmd, hop, hwaits, hfinished, haborted, -, -⟩ := h
  unfold asCommand
  simp only [hqueue, cmdOf_of_queue hqueue hcmd]
  rw [if_pos (by simp [hop, hwaits, hfinished, haborted])]

end

/-- Data from one stretch of host memory, read without an error. -/
theorem cmdFetch_of_data {s : State} {q tag : Nat} {c : Cmd} {buf : HostBuf} {d : List Byte} (hsgl : bit (BitVec.ofNat 32 c.flags) 3 = false)
    (hdata : buf.data = some d) (f : State → List Byte → State) : cmdFetch s q tag c buf none f = f s (padTo c.len d) := by
  simp [cmdFetch, dataSegs, hsgl, hdata, segTotal]

end Sys2Proof.Machine
end

section
/-! Proof of the statement about decoder sessions and pictures (R282 to R285, R370). -/

namespace Sys2Proof.Machine
open Sys2Proof

/-! ### Sessions and their closing -/

/-- A DEC_CLOSE of a session that waits. -/
abbrev closeWaits (i : Nat) (_ : Nat) (c : Cmd) : Bool := decide (c.op = 0x42) && decide (c.arg0 % 16 = i) && c.waiting

theorem settleCloses_of_none {s : State} {i : Nat} (h : findCmds s (closeWaits i) = []) : settleCloses s i = s := by
  unfold settleCloses
  rw [findCmds_eq_nil_of_imp (f := closeWaits i) (fun _ c hc => by simp_all) h, List.foldl_nil]

theorem closing_of_none {s : State} {i : Nat} (h : findCmds s (closeWaits i) = []) (order : Nat) : closing s i order = false := by
  unfold closing
  rw [findCmds_eq_nil_of_imp (f := closeWaits i) (fun _ c hc => by simp_all) h]
  rfl

theorem mGet_of_sessionOf {s : State} {p : Party} {i : Nat} {y : Session} (h : sessionOf s p i = some y) :
    mGet s.hev.sessions i = some y ∧ y.owner = p := by
  simpa [sessionOf, Option.filter_eq_some_iff] using h

theorem same_modSession {q : Part} (h : q ≠ .hev) (s : State) (i : Nat) (f : Session → Session) : q.same s (modSession s i f) :=
  same_hev h s _

theorem sessions_modSession (s : State) (i : Nat) (f : Session → Session) :
    mGet (modSession s i f).hev.sessions i = (mGet s.hev.sessions i).map f := mGet_mMod ..

/-- A completion and the end of the cycle leave the sessions as they are. -/
theorem hev_completed (s u : State) (q tag status detail : Nat) (result : Word) (flags : Nat) :
    (endCycle s (complete u q tag status detail result flags)).hev = u.hev := by
  rw [endCycle_hev, same_complete (q := .hev) (by decide)]

/-! ### DEC_OPEN -/

/-- A session newly opened. -/
def openedSession (p : Party) (params : List Byte) (fmt w h : Nat) : Session :=
  { owner := p, size := bufSize fmt w h, params := params, pictures := 0, dpb := [], fresh := true, todo := [] }

section
variable {s : State} {q tag i : Nat} {x : Queue} {c : Cmd} {buf : HostBuf} {d : List Byte} (hc : inFlight s q tag 0x40 x c)
  (hserved : interrupted s = false) (hi : i = c.arg0 % 16) (hsgl : bit (BitVec.ofNat 32 c.flags) 3 = false) (hdata : buf.data = some d)
include hc hserved hi hsgl hdata

theorem decOpen_of_fetched (pic : Option (Nat × Nat × Nat)) : exec (.decOpen q tag buf pic) s = .next (endCycle s
    (if (mGet s.hev.sessions i).isSome then completeSt s q tag stNotReady
      else match pic with
      | none => completeField s q tag 0 0x08 0
      | some (fmt, w, h) => completeSt { s with hev := { s.hev with
          sessions := mPut s.hev.sessions i (openedSession x.owner (padTo c.len d) fmt w h) } } q tag stSuccess)) := by
  subst hi
  have ⟨hl, _⟩ := hc
  rw [show exec (.decOpen q tag buf pic) s = execDecOpen q tag buf pic s from rfl, execDecOpen, inCore_of_live hl, hserved,
    if_neg Bool.false_ne_true, asCommand_of_inFlight hc, cmdFetch_of_data hsgl hdata]
  rfl

theorem decOpen_opens (hfree : mGet s.hev.sessions i = none) (fmt w h : Nat) :
    ∃ t y, exec (.decOpen q tag buf (some (fmt, w, h))) s = .next t ∧ completed t q tag x c stSuccess 0 0 0 ∧
      sessionOf t x.owner i = some y ∧ y.params = padTo c.len d ∧ y.pictures = 0 ∧ y.dpb = [] ∧ y.todo = [] ∧ y.size = bufSize fmt w h ∧
      onlyChanges (.hev :: completing) s t := by
  have hexec := decOpen_of_fetched hc hserved hi hsgl hdata (some (fmt, w, h))
  rw [if_neg (by rw [hfree]; decide)] at hexec
  dsimp only at hexec
  have hposts := (posts_of_inFlight hc).congr (t := { s with hev := { s.hev with
    sessions := mPut s.hev.sessions i (openedSession x.owner (padTo c.len d) fmt w h) } }) rfl
  refine ⟨_, openedSession x.owner (padTo c.len d) fmt w h, hexec, completed_endCycle hposts .., ?_, rfl, rfl, rfl, rfl, rfl,
    onlyChanges_complete (by decide) (fun p hp => same_hev (by rintro rfl; exact hp (by decide)) s _) ..⟩
  rw [sessionOf, completeSt, hev_completed, mGet_mPut, if_pos rfl]
  exact Option.filter_eq_some_iff.mpr ⟨rfl, decide_eq_true rfl⟩

theorem decOpen_badParams (hfree : mGet s.hev.sessions i = none) :
    exec (.decOpen q tag buf none) s = .next (endCycle s (completeField s q tag 0 0x08 0)) := by
  rw [decOpen_of_fetched hc hserved hi hsgl hdata none, if_neg (by rw [hfree]; decide)]

theorem decOpen_ofOpen (hopen : (mGet s.hev.sessions i).isSome = true) (pic : Option (Nat × Nat × Nat)) :
    exec (.decOpen q tag buf pic) s = .next (endCycle s (completeSt s q tag stNotReady)) := by
  rw [decOpen_of_fetched hc hserved hi hsgl hdata pic, if_pos hopen]

end

/-- A command that is refused, or completes with nothing done. -/
theorem refusal_spec {s : State} {q tag op : Nat} {x : Queue} {c : Cmd} {i : Instr} {status detail flags : Nat} {result : Word}
    (hc : inFlight s q tag op x c) (hexec : exec i s = .next (endCycle s (complete s q tag status detail result flags))) :
    ∃ t, exec i s = .next t ∧ completed t q tag x c status detail result flags ∧ onlyChanges completing s t :=
  ⟨_, hexec, completed_endCycle (posts_of_inFlight hc) .., onlyChanges_complete (fun _ h => h) (fun p _ => .refl p s) ..⟩

/-! ### DEC_PICTURE -/

section
variable {s : State} {q tag i h : Nat} {x : Queue} {c : Cmd} {buf : HostBuf} {d : List Byte} {y : Session} {b : Handle}
  (hc : inFlight s q tag 0x41 x c) (hi : i = c.arg0 % 16) (hh : h = c.arg1 % 65536) (hy : sessionOf s x.owner i = some y)
  (hclosing : findCmds s (closeWaits i) = []) (hown : allocatedTo s x.owner h = true) (hb : handleOf s h = some b) (hsize : y.size ≤ b.size)
  (hsgl : bit (BitVec.ofNat 32 c.flags) 3 = false) (hdata : buf.data = some d)

/-- A picture that waits with its access unit, and holds its handle. -/
def submitted (l : List Byte) (h : Nat) (c : Cmd) : Cmd := { c with waiting := true, data := l, holds := c.holds ++ [h] }

/-- A picture submitted behind the others of its session. -/
def pictureSubmitted (s : State) (q tag i h : Nat) (l : List Byte) : State :=
  modSession (modCmd s q tag (submitted l h)) i fun y => { y with todo := y.todo ++ [(q, tag)] }

include hc hi hh hy hclosing hown hb hsize hsgl hdata

theorem decPicture_of_fetched : exec (.decPicture q tag buf) s = .next (endCycle s (settleCloses
    (if referenced s h = true then completeField s q tag 0 0x20 0 else pictureSubmitted s q tag i h (padTo c.len d)) i)) := by
  subst hi hh
  have ⟨hl, _⟩ := hc
  have hlarge : ¬ b.size < y.size := Nat.not_lt.mpr hsize
  rw [show exec (.decPicture q tag buf) s = execDecPicture q tag buf s from rfl, execDecPicture, inCore_of_live hl, asCommand_of_inFlight hc]
  simp only [hy, hb, closing_of_none hclosing, hown, hlarge, decide_false, Bool.false_eq_true, if_false, not_true_eq_false, false_or, or_false,
    cmdFetch_of_data hsgl hdata]
  congr 3
  simp only [holdHandle, modCmd, modQ, mMod_mMod]
  rfl

theorem decPicture_waits (hfree : referenced s h = false) :
    ∃ t, exec (.decPicture q tag buf) s = .next t ∧
      cmdOf t q tag = some { c with waiting := true, data := padTo c.len d, holds := c.holds ++ [h] } ∧
      sessionOf t x.owner i = some { y with todo := y.todo ++ [(q, tag)] } ∧ onlyChanges [.hq, .hev] s t := by
  have ⟨_, hqueue, hcmd, hop, _⟩ := hc
  have hnone : findCmds (pictureSubmitted s q tag i h (padTo c.len d)) (closeWaits i) = [] :=
    (findCmds_congr (s := modCmd s q tag (submitted (padTo c.len d) h)) rfl _).trans
      ((findCmds_modCmd_of_kept hqueue hcmd (by simp [closeWaits, submitted, hop])).trans hclosing)
  have hexec := decPicture_of_fetched hc hi hh hy hclosing hown hb hsize hsgl hdata
  rw [if_neg (by rw [hfree]; decide), settleCloses_of_none hnone] at hexec
  obtain ⟨hget, howner⟩ := mGet_of_sessionOf hy
  refine ⟨_, hexec, ?_, ?_, onlyChanges_endCycle fun p hp _ _ => ?_⟩
  · rw [cmdOf_congr (endCycle_hq ..)]
    exact cmdOf_modCmd hqueue hcmd
  · rw [sessionOf, endCycle_hev, pictureSubmitted, sessions_modSession, show (modCmd s q tag _).hev = s.hev from rfl, hget]
    exact Option.filter_eq_some_iff.mpr ⟨rfl, decide_eq_true howner⟩
  · obtain ⟨hhq, hhev⟩ : p ≠ .hq ∧ p ≠ .hev := by simpa using hp
    exact (same_modQ hhq s q _).trans (same_modSession hhev _ i _)

theorem decPicture_ofReferenced (href : referenced s h = true) :
    exec (.decPicture q tag buf) s = .next (endCycle s (completeField s q tag 0 0x20 0)) := by
  rw [decPicture_of_fetched hc hi hh hy hclosing hown hb hsize hsgl hdata, if_pos href, completeField,
    settleCloses_of_none (findCmds_complete (posts_of_inFlight hc) _ _ _ _ hclosing)]

end

/-! ### DEC_CLOSE -/

section
variable {s : State} {q tag i : Nat} {x : Queue} {c : Cmd} {y : Session} (hc : inFlight s q tag 0x42 x c) (hi : i = c.arg0 % 16)
  (hy : sessionOf s x.owner i = some y) (hclosing : findCmds s (closeWaits i) = [])

/-- A command that waits. -/
def waits (c : Cmd) : Cmd := { c with waiting := true }

include hc hi hy hclosing

theorem decClose_of_first : exec (.decClose q tag) s = .next (endCycle s
    (if picturesBefore s i c.order = true then modCmd s q tag waits else closeSession (modCmd s q tag waits) q tag i)) := by
  subst hi
  have ⟨hl, hqueue, hcmd, hop, _, hfinished, haborted, _⟩ := hc
  have honly : findCmds (modCmd s q tag waits) (fun _ d => decide (d.op = 0x42) && decide (d.arg0 % 16 = c.arg0 % 16) && d.waiting &&
      !d.finished && !d.aborted) = [(q, tag)] :=
    findCmds_modCmd_of_only hqueue hcmd (by simp [waits, hop, hfinished, haborted])
      (findCmds_eq_nil_of_imp (f := closeWaits (c.arg0 % 16)) (fun _ d hd => by simp_all) hclosing)
  have hbefore : picturesBefore (modCmd s q tag waits) (c.arg0 % 16) c.order = picturesBefore s (c.arg0 % 16) c.order := by
    unfold picturesBefore
    rw [findCmds_modCmd_of_kept hqueue hcmd (by simp [waits])]
  rw [show exec (.decClose q tag) s = execDecClose q tag s from rfl, execDecClose, inCore_of_live hl, asCommand_of_inFlight hc]
  simp only [hy, closing_of_none hclosing, Option.isNone_some, Bool.false_eq_true, or_self, if_false]
  rw [show (modCmd s q tag fun c => { c with waiting := true }) = modCmd s q tag waits from rfl, settleCloses, honly, List.foldl_cons,
    List.foldl_nil, cmdOf_modCmd hqueue hcmd]
  rw [← hbefore]
  rfl

theorem decClose_closes (hnone : picturesBefore s i c.order = false) :
    ∃ t, exec (.decClose q tag) s = .next t ∧ completed t q tag x c stSuccess 0 (BitVec.ofNat 32 y.pictures) 0 ∧
      mGet t.hev.sessions i = none ∧ onlyChanges (.hev :: completing) s t := by
  have hexec := decClose_of_first hc hi hy hclosing
  rw [if_neg (by rw [hnone]; decide), closeSession, show (modCmd s q tag waits).hev = s.hev from rfl, (mGet_of_sessionOf hy).1] at hexec
  have ⟨_, hqueue, hcmd, _, _, hfinished, haborted, hfull, hbacklog⟩ := hc
  have hposts : Posts { modCmd s q tag waits with hev := { s.hev with sessions := mDel s.hev.sessions i } } q tag
      { x with cmds := mMod x.cmds tag waits } (waits c) :=
    ⟨queueOf_modCmd hqueue, by rw [mGet_mMod, hcmd]; rfl, hfinished, haborted, hfull, hbacklog⟩
  refine ⟨_, hexec, completed_endCycle hposts .., ?_, onlyChanges_complete (by decide) (fun p hp => ?_) ..⟩
  · rw [hev_completed, mGet_mDel, if_pos rfl]
  · exact (same_modQ (by rintro rfl; exact hp (by decide)) s q _).trans (same_hev (by rintro rfl; exact hp (by decide)) _ _)

theorem decClose_waits (hsome : picturesBefore s i c.order = true) :
    ∃ t, exec (.decClose q tag) s = .next t ∧ cmdOf t q tag = some { c with waiting := true } ∧ t.hev = s.hev ∧ onlyChanges [.hq] s t := by
  have hexec := decClose_of_first hc hi hy hclosing
  rw [if_pos hsome] at hexec
  have ⟨_, hqueue, hcmd, _⟩ := hc
  refine ⟨_, hexec, ?_, endCycle_hev .., onlyChanges_endCycle fun p hp _ _ => same_modQ (by simpa using hp) s q _⟩
  rw [cmdOf_congr (endCycle_hq ..)]
  exact cmdOf_modCmd hqueue hcmd

end

end Sys2Proof.Machine
end

section
/-! Proof of the statement about decoder sessions and pictures: PICTURE_DECODED (R282 to R285). -/

namespace Sys2Proof.Machine
open Sys2Proof

/-! ### Bytes of a buffer -/

theorem handleOf_modHandle {s : State} {h : Nat} {b : Handle} (hb : handleOf s h = some b) (f : Handle → Handle) :
    handleOf (modHandle s h f) h = some (f b) := by
  rw [handleOf, modHandle, mGet_mMod, ← handleOf, hb]
  rfl

/-- A handle's contents once bytes are put at an offset: what stood before it, filled up, the bytes, and what stood behind them. -/
def written (off : Nat) (l : List Byte) (b : Handle) : Handle :=
  { b with bytes := (b.bytes.take off ++ (List.range (off - b.bytes.length)).map fun i => Config.bufferByte b.born (b.bytes.length + i)) ++ l
      ++ b.bytes.drop (off + l.length) }

theorem writeBuffer_eq (s : State) (h off : Nat) (l : List Byte) : writeBuffer s h off l = modHandle s h (written off l) := rfl

theorem same_writeBuffer {q : Part} (hq : q ≠ .imp) (s : State) (h off : Nat) (l : List Byte) : q.same s (writeBuffer s h off l) :=
  same_imp hq s _

/-- The bytes put at an offset stand there. -/
theorem bufferBytes_of_written {s : State} {h : Nat} {b : Handle} {off : Nat} {l : List Byte} (hb : handleOf s h = some (written off l b)) :
    bufferBytes s h off l.length = l := by
  have hfront : (b.bytes.take off ++ (List.range (off - b.bytes.length)).map fun i => Config.bufferByte b.born (b.bytes.length + i)).length
      = off := by
    rw [List.length_append, List.length_take, List.length_map, List.length_range]
    omega
  have htake : ((written off l b).bytes.drop off).take l.length = l := by
    rw [written, List.append_assoc, List.drop_left' hfront, List.take_left' rfl]
  unfold bufferBytes
  simp only [hb, htake, Nat.sub_self, List.range_zero, List.map_nil, List.append_nil]

/-! ### What a decoded picture leaves (R283, R284) -/

/-- The pictures that an access unit refers to; an IRAP refers to none. -/
def picUsed (nals : List (List Byte)) (d : Decoded) : List Int :=
  if 16 ≤ sliceNal nals ∧ sliceNal nals ≤ 23 then [] else d.used.eraseDups

/-- The references of an access unit that a session does not hold. -/
def picMissing (y : Session) (nals : List (List Byte)) (d : Decoded) : List Int :=
  (picUsed nals d).filter fun p => !y.dpb.any fun z => decide (z.poc = p)

/-- A reference is missing, or was concealed itself. -/
def picConcealed (y : Session) (nals : List (List Byte)) (d : Decoded) : Bool :=
  decide (picMissing y nals d ≠ []) || y.dpb.any fun z => (picUsed nals d).contains z.poc && z.concealed

/-- The counts of a decoded picture, and the event of one concealed. -/
def picCounted (s : State) (i : Fin 16) (missing : Nat) (concealed : Bool) : State :=
  let u := count (countN s 0x111008 missing) 0x111004
  if concealed then decEvent (count u 0x11100C) 6 0x07 .info i.val else u

/-- The record and the planes of a picture in its handle. -/
def picStored (s : State) (h : Nat) (rec planes : List Byte) : State := writeBuffer (writeBuffer s h 0 rec) h 4096 planes

/-- A picture stored in its handle and entered in its session. -/
def picEntered (s : State) (i : Fin 16) (h : Nat) (rec planes : List Byte) (f : Session → Session) : State :=
  modSession (picStored s h rec planes) i.val f

section
variable (s : State) (i : Fin 16) (h : Nat) (rec planes : List Byte) (f : Session → Session)

theorem same_picEntered {q : Part} (hq : q ∉ [.hev, .imp]) : q.same s (picEntered s i h rec planes f) := by
  obtain ⟨hhev, himp⟩ : q ≠ .hev ∧ q ≠ .imp := by simpa using hq
  exact ((same_writeBuffer himp s h 0 rec).trans (same_writeBuffer himp _ h 4096 planes)).trans (same_modSession hhev _ i.val f)

theorem sessions_picEntered : mGet (picEntered s i h rec planes f).hev.sessions i.val = (mGet s.hev.sessions i.val).map f := mGet_mMod ..

theorem handleOf_picEntered {b : Handle} (hb : handleOf s h = some b) :
    handleOf (picEntered s i h rec planes f) h = some (written 4096 planes (written 0 rec b)) :=
  handleOf_modHandle (handleOf_modHandle hb _) _

end

theorem decodePicture_eq {d : Decoded} (hsound : d.corrupt = false) (s : State) (i : Fin 16) (y : Session) (q tag h : Nat)
    (nals : List (List Byte)) : ∃ rec f, decodePicture s i y q tag h nals d false =
      complete (picEntered (picCounted s i (picMissing y nals d).length (picConcealed y nals d)) i h rec d.planes f) q tag
        (if picConcealed y nals d = true then stConcealed else stSuccess) 0 (BitVec.ofInt 32 d.poc) (if d.notOutput then 16 else 0) ∧
      ∀ z : Session, (f z).pictures = z.pictures + 1 ∧ (f z).todo = z.todo := by
  unfold decodePicture
  extract_lets ty irap used missing concealed corrupt keep dpb s1 s2 s3 s4 s5 s6 s7 s8 st
  have hused : used = picUsed nals d := by simp [used, irap, ty, picUsed]
  have hmissing : missing = picMissing y nals d := by rw [picMissing, ← hused]
  have hconcealed : concealed = picConcealed y nals d := by rw [picConcealed, ← hused, ← hmissing]
  have hcorrupt : corrupt = false := by simp [corrupt, hsound]
  refine ⟨decodedRecord (auRecord nals) q tag y.pictures concealed corrupt, fun z => { z with
    pictures := z.pictures + 1, dpb := dpb, fresh := if z.pictures = 0 then decide (ty = 21) else z.fresh && !irap }, ?_,
    fun z => ⟨rfl, rfl⟩⟩
  dsimp only [s1, s2, s3, s4, s5, s6, s7, s8, st]
  rw [hcorrupt, hconcealed, hmissing, picCounted, picEntered, picStored]
  cases picConcealed y nals d with
  | true => simp only [if_true, Bool.false_eq_true, if_false, or_false]
  | false => simp only [Bool.false_eq_true, if_false, or_self]

theorem maskOf_decCounts : ∀ off ∈ [0x111004, 0x111008, 0x11100C], maskOf off = BitVec.allOnes 32 := by decide

section
variable (s : State) (i : Fin 16) (n : Nat)

theorem picCounted_true : picCounted s i n true =
    decEvent (count (count (countN s 0x111008 n) 0x111004) 0x11100C) 6 0x07 .info i.val := by simp only [picCounted, if_true]

theorem picCounted_false : picCounted s i n false = count (countN s 0x111008 n) 0x111004 := by
  simp only [picCounted, Bool.false_eq_true, if_false]

theorem same_picCounted {q : Part} (h : q ∉ reporting) (concealed : Bool) : q.same s (picCounted s i n concealed) := by
  have hregs : q ≠ .regs := by rintro rfl; exact h (by decide)
  have hcount : q.same s (count (countN s 0x111008 n) 0x111004) := (same_regSet hregs s _ _).trans (same_count hregs _ _)
  cases concealed with
  | true =>
    rw [picCounted_true]
    exact (hcount.trans (same_count hregs _ _)).trans (same_event h _ _ _ _ _ _ _)
  | false =>
    rw [picCounted_false]
    exact hcount

theorem same_picCounted_false {q : Part} (h : q ≠ .regs) : q.same s (picCounted s i n false) := by
  rw [picCounted_false]
  exact (same_regSet h s _ _).trans (same_count h _ _)

theorem onlyRegs_picCounted_false : onlyRegs [0x111004, 0x111008] s (picCounted s i n false) := fun j hj _ => by
  obtain ⟨hpics, hsub⟩ : j ≠ 0x111004 ∧ j ≠ 0x111008 := by simpa using hj
  rw [picCounted_false, regGet_count_ne _ _ _ hpics, regGet_countN_ne _ _ _ _ hsub]

/-- The event of a concealed picture touches none of the decoder's counters. -/
theorem regGet_picCounted {off : Nat} (h : off ∈ [0x111004, 0x111008]) (concealed : Bool) :
    regGet (picCounted s i n concealed) off = regGet (picCounted s i n false) off := by
  cases concealed with
  | false => rfl
  | true =>
    have hoff : off < 0x191000 ∧ Blk.hev.events ≠ some off ∧ off ≠ 0x11100C := by
      simp only [List.mem_cons, List.not_mem_nil, or_false] at h
      rcases h with rfl | rfl <;> decide
    obtain ⟨hflt, hevents, hne⟩ := hoff
    rw [picCounted_true, picCounted_false, decEvent, regGet_event _ _ _ _ _ _ _ _ (.inl hflt) hevents, regGet_count_ne _ _ _ hne]

theorem pics_picCounted (concealed : Bool) : regGet (picCounted s i n concealed) 0x111004 = satInc (regGet s 0x111004) := by
  rw [regGet_picCounted s i n (by decide), picCounted_false, regGet_count_self (maskOf_decCounts _ (by decide)),
    regGet_countN_ne _ _ _ _ (by decide)]

theorem substituted_picCounted (concealed : Bool) : regGet (picCounted s i n concealed) 0x111008 = satAdd (regGet s 0x111008) n := by
  rw [regGet_picCounted s i n (by decide), picCounted_false, regGet_count_ne _ _ _ (by decide),
    regGet_countN_self (maskOf_decCounts _ (by decide))]

theorem concealed_picCounted : regGet (picCounted s i n true) 0x11100C = satInc (regGet s 0x11100C) := by
  rw [picCounted_true, decEvent, regGet_event _ _ _ _ _ _ _ _ (.inl (by decide)) (by decide),
    regGet_count_self (maskOf_decCounts _ (by decide)), regGet_count_ne _ _ _ (by decide), regGet_countN_ne _ _ _ _ (by decide)]

theorem raised_picCounted : raised (picCounted s i n true) .hev 6 := by
  rw [picCounted_true]
  exact raised_event (off := 0x112000) rfl (.inl (by decide)) (by decide) _ _ _ _ _

end

/-! ### The oldest picture of a session -/

/-- The oldest picture of a session taken up. -/
def pictureTaken (s : State) (i : Fin 16) (r : List (Nat × Nat)) : State := modSession s i.val fun y => { y with todo := r }

section
variable {s : State} {i : Fin 16} {d : Decoded} {y : Session} {q tag : Nat} {r : List (Nat × Nat)} {x : Queue} {c : Cmd}
  (hposts : Posts s q tag x c) (hclosing : findCmds s (closeWaits i.val) = [])
include hposts

/-- A picture that completes after all that is done for it leaves no DEC_CLOSE waiting. -/
theorem settleCloses_complete (hclosing : findCmds s (closeWaits i.val) = []) {u : State} (hu : u.hq = s.hq) (status detail : Nat)
    (result : Word) (flags : Nat) :
    settleCloses (complete u q tag status detail result flags) i.val = complete u q tag status detail result flags :=
  settleCloses_of_none (findCmds_complete (hposts.congr hu) _ _ _ _ ((findCmds_congr hu _).trans hclosing))

variable (hl : s.live = true) (hy : mGet s.hev.sessions i.val = some y) (htodo : y.todo = (q, tag) :: r)
include hl hy htodo

theorem pictureDecoded_eq : exec (.pictureDecoded i d false) s = .next (endCycle s (settleCloses
    (if (sliceNal (annexB c.data 0 [] false) = 8 ∨ sliceNal (annexB c.data 0 [] false) = 9) ∧ y.pictures > 0 ∧ y.fresh = true then
        complete (pictureTaken s i r) q tag stSuccess 0 (BitVec.ofInt 32 d.poc) 16
      else decodePicture (pictureTaken s i r) i y q tag (c.arg1 % 65536) (annexB c.data 0 [] false) d false) i.val)) := by
  have hcmd : cmdOf (pictureTaken s i r) q tag = some c := cmdOf_of_queue (s := s) hposts.queue hposts.cmd
  rw [show exec (.pictureDecoded i d false) s = execPictureDecoded i d false s from rfl, execPictureDecoded, inCore_of_live hl]
  simp only [hy, htodo]
  rw [show (modSession s i.val fun y => { y with todo := r }) = pictureTaken s i r from rfl, hcmd]
  simp only [hposts.aborted, Bool.false_eq_true, if_false, Bool.or_eq_true, decide_eq_true_eq]

include hclosing

theorem pictureDecoded_of_rasl (hrasl : sliceNal (annexB c.data 0 [] false) = 8) (hpics : 0 < y.pictures) (hfresh : y.fresh = true) :
    ∃ t, exec (.pictureDecoded i d false) s = .next t ∧ completed t q tag x c stSuccess 0 (BitVec.ofInt 32 d.poc) 16 ∧
      (mGet t.hev.sessions i.val).map (fun z => (z.pictures, z.todo)) = some (y.pictures, r) ∧ onlyChanges (.hev :: completing) s t := by
  have hexec := pictureDecoded_eq (d := d) hposts hl hy htodo
  rw [if_pos ⟨.inl hrasl, hpics, hfresh⟩, settleCloses_complete hposts hclosing (u := pictureTaken s i r) rfl] at hexec
  refine ⟨_, hexec, completed_endCycle (hposts.congr (t := pictureTaken s i r) rfl) .., ?_,
    onlyChanges_complete (by decide) (fun p hp => same_modSession (by rintro rfl; exact hp (by decide)) s _ _) ..⟩
  rw [hev_completed, pictureTaken, sessions_modSession, hy]
  rfl

/-- What a picture leaves that is decoded with no error. -/
theorem pictureDecoded_decodes (hplain : ¬ ((sliceNal (annexB c.data 0 [] false) = 8 ∨ sliceNal (annexB c.data 0 [] false) = 9) ∧
      y.pictures > 0 ∧ y.fresh = true)) (hsound : d.corrupt = false) {nals : List (List Byte)} (hnals : nals = annexB c.data 0 [] false) :
    ∃ u rec f, u = picEntered (picCounted (pictureTaken s i r) i (picMissing y nals d).length (picConcealed y nals d)) i (c.arg1 % 65536) rec
          d.planes f ∧ u.hq = s.hq ∧ (∀ z : Session, (f z).pictures = z.pictures + 1 ∧ (f z).todo = z.todo) ∧
        exec (.pictureDecoded i d false) s = .next (endCycle s (complete u q tag
          (if picConcealed y nals d = true then stConcealed else stSuccess) 0 (BitVec.ofInt 32 d.poc) (if d.notOutput then 16 else 0))) := by
  have hexec := pictureDecoded_eq (d := d) hposts hl hy htodo
  rw [if_neg hplain, ← hnals] at hexec
  obtain ⟨rec, f, heq, hf⟩ := decodePicture_eq hsound (pictureTaken s i r) i y q tag (c.arg1 % 65536) nals
  have hcounted := same_picCounted (q := .hq) (pictureTaken s i r) i (picMissing y nals d).length (by decide) (picConcealed y nals d)
  rw [heq] at hexec
  generalize picCounted (pictureTaken s i r) i (picMissing y nals d).length (picConcealed y nals d) = v at hexec hcounted ⊢
  have hhq : (picEntered v i (c.arg1 % 65536) rec d.planes f).hq = s.hq := hcounted
  rw [settleCloses_complete hposts hclosing hhq] at hexec
  exact ⟨_, rec, f, rfl, hhq, hf, hexec⟩

theorem pictureDecoded_complete (hplain : ¬ ((sliceNal (annexB c.data 0 [] false) = 8 ∨ sliceNal (annexB c.data 0 [] false) = 9) ∧
      y.pictures > 0 ∧ y.fresh = true)) (hsound : d.corrupt = false) {h : Nat} (hh : h = c.arg1 % 65536) (hheld : isAllocated s h = true)
    (hmissing : picMissing y (annexB c.data 0 [] false) d = []) (hdpb : y.dpb.all (fun z => !z.concealed) = true) :
    ∃ t, exec (.pictureDecoded i d false) s = .next t ∧
      completed t q tag x c stSuccess 0 (BitVec.ofInt 32 d.poc) (if d.notOutput then 16 else 0) ∧
      regGet t 0x111004 = satInc (regGet s 0x111004) ∧ bufferBytes t h 4096 d.planes.length = d.planes ∧
      (mGet t.hev.sessions i.val).map (fun z => (z.pictures, z.todo)) = some (y.pictures + 1, r) ∧
      onlyRegs [0x111004, 0x111008] s t ∧ onlyChanges (.hev :: .imp :: .regs :: completing) s t := by
  have hfirm : picConcealed y (annexB c.data 0 [] false) d = false := by
    rw [picConcealed, hmissing]
    simp only [List.all_eq_true, Bool.not_eq_true'] at hdpb
    simpa using fun z hz _ => hdpb z hz
  obtain ⟨u, rec, f, hu, hhq, hf, hexec⟩ := pictureDecoded_decodes (d := d) hposts hclosing hl hy htodo hplain hsound rfl
  rw [hfirm, hmissing, List.length_nil, ← hh] at hu
  rw [hfirm, if_neg Bool.false_ne_true] at hexec
  have hsame {p : Part} (hp : p ∉ [.hev, .imp, .regs]) : p.same s u := by
    obtain ⟨hhev, himp, hregs⟩ : p ≠ .hev ∧ p ≠ .imp ∧ p ≠ .regs := by simpa using hp
    rw [hu]
    exact ((same_modSession hhev s _ _).trans (same_picCounted_false _ i _ hregs)).trans
      (same_picEntered _ i h rec d.planes f (by simp [hhev, himp]))
  have hregs (j : Nat) : regGet (endCycle s (complete u q tag stSuccess 0 (BitVec.ofInt 32 d.poc) (if d.notOutput then 16 else 0))) j =
      regGet (picCounted (pictureTaken s i r) i 0 false) j := by
    rw [regGet_endCycle, regGet_congr _ _ (same_complete (q := .regs) (by decide) u ..), hu]
    exact regGet_congr _ _ (same_picEntered (q := .regs) _ i h rec d.planes f (by decide)) j
  obtain ⟨b, hb, hlive⟩ := (isAllocated_iff s h).mp hheld
  refine ⟨_, hexec, completed_endCycle (hposts.congr hhq) .., ?_, ?_, ?_, fun j hj ho => ?_,
    onlyChanges_complete (by decide) (fun p hp => hsame fun hm => hp (by simp at hm ⊢; tauto)) ..⟩
  · rw [hregs, pics_picCounted]
    rfl
  · have hstored : handleOf u h = some (written 4096 d.planes (written 0 rec b)) := by
      rw [hu]
      refine handleOf_picEntered _ i h rec d.planes f ?_
      rwa [handleOf, same_picCounted_false (q := .imp) _ i 0 (by decide)]
    refine bufferBytes_of_written (b := written 0 rec b) (handleOf_endCycle (b := written 4096 d.planes (written 0 rec b)) ?_ hlive s)
    rw [handleOf, same_complete (q := .imp) (by decide) u]
    exact hstored
  · have hsess : mGet (picCounted (pictureTaken s i r) i 0 false).hev.sessions i.val = some { y with todo := r } := by
      rw [same_picCounted_false (q := .hev) _ i 0 (by decide), pictureTaken, sessions_modSession, hy]
      rfl
    rw [hev_completed, hu, sessions_picEntered, hsess]
    simp [hf]
  · rw [hregs, onlyRegs_picCounted_false _ i 0 j hj ho]
    rfl

theorem pictureDecoded_conceals (hplain : ¬ ((sliceNal (annexB c.data 0 [] false) = 8 ∨ sliceNal (annexB c.data 0 [] false) = 9) ∧
      y.pictures > 0 ∧ y.fresh = true)) (hsound : d.corrupt = false) {missing : List Int}
    (hm : picMissing y (annexB c.data 0 [] false) d = missing) (hmissing : missing ≠ []) :
    ∃ t, exec (.pictureDecoded i d false) s = .next t ∧
      completed t q tag x c stConcealed 0 (BitVec.ofInt 32 d.poc) (if d.notOutput then 16 else 0) ∧
      regGet t 0x111008 = satAdd (regGet s 0x111008) missing.length ∧ regGet t 0x11100C = satInc (regGet s 0x11100C) ∧
      regGet t 0x111004 = satInc (regGet s 0x111004) ∧ raised t .hev 6 := by
  have hconcealed : picConcealed y (annexB c.data 0 [] false) d = true := by
    rw [picConcealed, hm, decide_eq_true hmissing, Bool.true_or]
  obtain ⟨u, rec, f, hu, hhq, hf, hexec⟩ := pictureDecoded_decodes (d := d) hposts hclosing hl hy htodo hplain hsound rfl
  rw [hconcealed, hm] at hu
  rw [hconcealed, if_pos rfl] at hexec
  have hregs (j : Nat) : regGet (endCycle s (complete u q tag stConcealed 0 (BitVec.ofInt 32 d.poc) (if d.notOutput then 16 else 0))) j =
      regGet (picCounted (pictureTaken s i r) i missing.length true) j := by
    rw [regGet_endCycle, regGet_congr _ _ (same_complete (q := .regs) (by decide) u ..), hu]
    exact regGet_congr _ _ (same_picEntered (q := .regs) _ i _ rec d.planes f (by decide)) j
  obtain ⟨off, hoff, hbit⟩ := raised_picCounted (pictureTaken s i r) i missing.length
  refine ⟨_, hexec, completed_endCycle (hposts.congr hhq) .., ?_, ?_, ?_, off, hoff, ?_⟩
  · rw [hregs, substituted_picCounted]
    rfl
  · rw [hregs, concealed_picCounted]
    rfl
  · rw [hregs, pics_picCounted]
    rfl
  · rw [regBit, hregs]
    exact hbit

end

/-- Settles O50: DEC_OPEN by the session and its parameters, DEC_PICTURE by its handle, DEC_CLOSE by the pictures before it, and
PICTURE_DECODED by what the access unit refers to. -/
theorem decoderSessionsAndPictures : Obligations.DecoderSessionsAndPictures := by
  refine ⟨fun s q tag i x c buf d pic hc hserved hi hsgl hdata => ⟨fun fmt w h hfree hpic => ?opens, fun hfree hpic => ?badParams,
      fun hopen => refusal_spec hc (decOpen_ofOpen hc hserved hi hsgl hdata hopen pic)⟩,
    fun s q tag i h x c buf d y b hc hi hh hy hclosing hown hb hsize hsgl hdata => ⟨
      fun hfree => decPicture_waits hc hi hh hy hclosing hown hb hsize hsgl hdata hfree,
      fun href => refusal_spec hc (decPicture_ofReferenced hc hi hh hy hclosing hown hb hsize hsgl hdata href)⟩,
    fun s q tag i x c y hc hi hy hclosing => ⟨fun hnone => decClose_closes hc hi hy hclosing hnone,
      fun hsome => decClose_waits hc hi hy hclosing hsome⟩,
    fun s i d y q tag h r x c missing hl hy htodo hqueue hcmd haborted hfinished hfull hbacklog hh hheld hsound hclosing hm => ?decoded⟩
  case opens =>
    subst hpic
    exact decOpen_opens hc hserved hi hsgl hdata hfree fmt w h
  case badParams =>
    subst hpic
    exact refusal_spec hc (decOpen_badParams hc hserved hi hsgl hdata hfree)
  case decoded =>
    have hposts : Posts s q tag x c := ⟨hqueue, hcmd, hfinished, haborted, hfull, hbacklog⟩
    refine ⟨fun hnot => ?_, fun hrasl hpics hfresh => pictureDecoded_of_rasl hposts hclosing hl hy htodo hrasl hpics hfresh⟩
    have hplain : ¬ ((sliceNal (annexB c.data 0 [] false) = 8 ∨ sliceNal (annexB c.data 0 [] false) = 9) ∧ y.pictures > 0 ∧
        y.fresh = true) := by
      rintro ⟨hrasl, -, hfresh⟩
      rcases hnot with ⟨h8, h9⟩ | hstale
      · exact hrasl.elim h8 h9
      · rw [hfresh] at hstale
        cases hstale
    exact ⟨fun hnone hdpb => pictureDecoded_complete hposts hclosing hl hy htodo hplain hsound hh hheld (hm.symm.trans hnone) hdpb,
      fun hsome => pictureDecoded_conceals hposts hclosing hl hy htodo hplain hsound hm.symm hsome⟩

end Sys2Proof.Machine
end

section
/-! Rows of the encoder's pictures (R270, R272, R274) and the end of a picture (R268, R278). -/

namespace Sys2Proof.Machine
open Sys2Proof

/-! ### Streams that latch their fields (R258, R265) -/

/-- The streams of core `e` have the pictures in progress and the coded ones that they had. -/
def KeepsPics (e : Fin 4) (s t : State) : Prop := ∀ k : Fin 16,
  (t.hev.streams[e][k]).cur = (s.hev.streams[e][k]).cur ∧ (t.hev.streams[e][k]).coded = (s.hev.streams[e][k]).coded

theorem KeepsPics.trans {e : Fin 4} {s t u : State} (h : KeepsPics e s t) (h' : KeepsPics e t u) : KeepsPics e s u := fun k =>
  ⟨(h' k).1.trans (h k).1, (h' k).2.trans (h k).2⟩

theorem keepsPics_of_hev {s t : State} (h : t.hev = s.hev) (e : Fin 4) : KeepsPics e s t := fun _ => by rw [h]; exact ⟨rfl, rfl⟩

theorem keepsPics_modEnc {f : EncStream → EncStream} (h : ∀ st, (f st).cur = st.cur ∧ (f st).coded = st.coded) (s : State) (e : Fin 4)
    (k : Fin 16) : KeepsPics e s (modEnc s e k f) := fun j => by
  by_cases hj : j = k
  · subst hj
    rw [stream_modEnc_self]
    exact h _
  · rw [stream_modEnc_ne s e hj]
    exact ⟨rfl, rfl⟩

theorem newHeaders_eq (s : State) (e k : Nat) : ∃ n b, newHeaders s e k = modEnc { s with free := n } e k fun st =>
    { st with headers := b, sei := st.seiSet } := by
  simp only [newHeaders, freeNat, freeBytes]
  exact ⟨_, _, rfl⟩

theorem same_newHeaders {q : Part} (h : q ∉ [.hev, .free]) (s : State) (e k : Nat) : q.same s (newHeaders s e k) := by
  obtain ⟨hhev, hfree⟩ : q ≠ .hev ∧ q ≠ .free := by simpa using h
  obtain ⟨n, b, heq⟩ := newHeaders_eq s e k
  rw [heq]
  exact (same_free hfree s n).trans (same_modEnc hhev _ e k _)

theorem keepsPics_newHeaders (s : State) (e : Fin 4) (k : Fin 16) : KeepsPics e s (newHeaders s e k) := by
  obtain ⟨n, b, heq⟩ := newHeaders_eq s e k
  rw [heq]
  refine (keepsPics_of_hev (same_free (q := .hev) (by decide) s n) e).trans (keepsPics_modEnc ?_ _ e k)
  exact fun _ => ⟨rfl, rfl⟩

/-- A stream that latches does nothing, or takes new headers or not and then its fields. -/
theorem latchStream_cases (s : State) (e : Fin 4) (k : Fin 16) : latchStream s e k = s ∨ ∃ u f, (u = s ∨ u = newHeaders s e k) ∧
    (∀ st : EncStream, (f st).cur = st.cur ∧ (f st).coded = st.coded) ∧ latchStream s e k = modEnc u e k f := by
  unfold latchStream
  dsimp only
  split
  · exact .inl rfl
  · refine .inr ⟨_, _, ?_, ?_, rfl⟩
    · split
      · exact .inr rfl
      · exact .inl rfl
    · exact fun _ => ⟨rfl, rfl⟩

theorem same_latchIdleStream {q : Part} (h : q ∉ [.hev, .free]) (s : State) (e : Fin 4) (k : Fin 16) : q.same s (latchIdleStream s e k) := by
  have hhev : q ≠ .hev := by rintro rfl; exact h (by decide)
  unfold latchIdleStream
  dsimp only
  split
  · obtain heq | ⟨u, f, hu, -, heq⟩ := latchStream_cases s e k
    · rw [heq]
      exact .refl q s
    · rw [heq]
      obtain rfl | rfl := hu
      · exact same_modEnc hhev u e k f
      · exact (same_newHeaders h s e k).trans (same_modEnc hhev _ e k f)
  · exact .refl q s

theorem keepsPics_latchIdleStream (s : State) (e : Fin 4) (k : Fin 16) : KeepsPics e s (latchIdleStream s e k) := by
  unfold latchIdleStream
  dsimp only
  split
  · obtain heq | ⟨u, f, hu, hf, heq⟩ := latchStream_cases s e k
    · rw [heq]
      exact keepsPics_of_hev rfl e
    · rw [heq]
      obtain rfl | rfl := hu
      · exact keepsPics_modEnc hf u e k
      · exact (keepsPics_newHeaders s e k).trans (keepsPics_modEnc hf _ e k)
  · exact keepsPics_of_hev rfl e

theorem same_raise {q : Part} (h : q ∉ [.regs, .pba, .out]) (s : State) (b : Blk) (i : Nat) : q.same s (raise s b i) := by
  cases q
  case regs | pba | out => simp at h
  all_goals simp [Part.same]

theorem settleApplied_cases (s : State) : settleApplied s = s ∨ ∃ x, settleApplied s = raise { s with frm := x } .frm 0 := by
  unfold settleApplied
  split
  · exact .inr ⟨_, rfl⟩
  · exact .inl rfl

theorem same_frm {q : Part} (h : q ≠ .frm) (s : State) (x : FrmBlk) : q.same s { s with frm := x } := same_modFrm h s fun _ => x

theorem same_settleApplied {q : Part} (h : q ∉ .frm :: reporting) (s : State) : q.same s (settleApplied s) := by
  obtain heq | ⟨x, heq⟩ := settleApplied_cases s
  · rw [heq]
    exact .refl q s
  · rw [heq]
    exact (same_frm (by rintro rfl; exact h (by decide)) s x).trans
      (same_raise (fun hq => h (by simp [reporting] at hq ⊢; tauto)) _ _ _)

theorem onlyRegs_settleApplied (s : State) : onlyRegs [0x20020] s (settleApplied s) := by
  obtain heq | ⟨x, heq⟩ := settleApplied_cases s
  · rw [heq]
    exact .refl _ s
  · rw [heq]
    refine (onlyRegs_of_regs (same_frm (q := .regs) (by decide) s x)).trans fun j hj ho => regGet_raise _ _ _ _ ?_ ?_
    · unfold outsideFlt at ho
      omega
    · simpa [Blk.events, eq_comm] using hj

section
variable (s : State) (e : Fin 4)

theorem same_latchIdle {q : Part} (h : q ∉ .hev :: .free :: .frm :: reporting) : q.same s (latchIdle s e) :=
  (same_foldl (same_latchIdleStream (e := e) fun hq => h (by simp at hq ⊢; tauto)) _ s).trans
    (same_settleApplied (fun hq => h (by simp at hq ⊢; tauto)) _)

theorem onlyRegs_latchIdle : onlyRegs [0x20020] s (latchIdle s e) :=
  (onlyRegs_of_regs (same_foldl (q := .regs) (same_latchIdleStream (e := e) (by decide)) _ s)).trans (onlyRegs_settleApplied _)

theorem keepsPics_latchIdle : KeepsPics e s (latchIdle s e) := by
  refine KeepsPics.trans (t := (List.finRange 16).foldl (fun s k => latchIdleStream s e k) s) ?_
    (keepsPics_of_hev (same_settleApplied (q := .hev) (by decide) _) e)
  exact List.foldlRecOn _ _ (keepsPics_of_hev rfl e) fun u hu k _ => hu.trans (keepsPics_latchIdleStream u e k)

end

section
variable (s v : State) (e : Fin 4)

theorem regGet_latched {j : Nat} (hj : j ≠ 0x20020) (ho : outsideFlt j) : regGet (endCycle s (latchIdle v e)) j = regGet v j := by
  rw [regGet_endCycle, onlyRegs_latchIdle v e j (by simpa using hj) ho]

theorem keepsPics_latched : KeepsPics e v (endCycle s (latchIdle v e)) :=
  (keepsPics_latchIdle v e).trans (keepsPics_of_hev (endCycle_hev s _) e)

variable {s v}

theorem onlyChanges_latched (h : ∀ q : Part, q ∉ .hev :: .free :: .frm :: reporting → q.same s v) :
    onlyChanges (.hev :: .free :: .frm :: reporting) s (endCycle s (latchIdle v e)) :=
  onlyChanges_endCycle fun q hq _ _ => (h q hq).trans (same_latchIdle v e hq)

end

/-! ### The stream that a core serves (R270) -/

/-- The better of a stream found so far and stream `k`: the one whose picture was bound first. -/
def rowBetter (s : State) (e : Fin 4) (job : Bool) (b : Option (Fin 16 × Nat)) (k : Fin 16) : Option (Fin 16 × Nat) :=
  match rowPic s e k with
  | some p =>
    if p.job.isSome ≠ job then b
    else match b with
      | some (_, n) => if p.boundAt < n then some (k, p.boundAt) else b
      | none => some (k, p.boundAt)
  | none => b

/-- The stream that a core would serve among those of surfaces, or among those of host jobs, and when its picture was bound. -/
def rowPick (s : State) (e : Fin 4) (job : Bool) : Option (Fin 16 × Nat) := (List.finRange 16).foldl (rowBetter s e job) none

theorem rowStream_eq (s : State) (e : Fin 4) : rowStream s e = match rowPick s e false with
    | some (k, _) => some k
    | none => (rowPick s e true).map (·.1) := rfl

theorem rowBetter_cases (s : State) (e : Fin 4) (job : Bool) (b : Option (Fin 16 × Nat)) (k : Fin 16) :
    rowBetter s e job b k = b ∨ (rowPic s e k).isSome = true ∧ ∃ n, rowBetter s e job b k = some (k, n) := by
  unfold rowBetter
  cases rowPic s e k with
  | none => exact .inl rfl
  | some p =>
    dsimp only
    split
    · exact .inl rfl
    · split
      · split
        · exact .inr ⟨rfl, _, rfl⟩
        · exact .inl rfl
      · exact .inr ⟨rfl, _, rfl⟩

/-- A stream picked has a picture to code a row of. -/
theorem rowPic_of_rowPick {s : State} {e : Fin 4} {job : Bool} {x : Fin 16 × Nat} (h : rowPick s e job = some x) :
    (rowPic s e x.1).isSome = true := by
  have hfold (l : List (Fin 16)) : ∀ b, (∀ x ∈ b, (rowPic s e x.1).isSome = true) →
      ∀ x ∈ l.foldl (rowBetter s e job) b, (rowPic s e x.1).isSome = true := by
    induction l with
    | nil => exact fun _ hb => hb
    | cons k l ih =>
      refine fun b hb => ih _ ?_
      obtain heq | ⟨hpic, n, heq⟩ := rowBetter_cases s e job b k
      · rw [heq]
        exact hb
      · rw [heq]
        rintro _ ⟨⟩
        exact hpic
  exact hfold _ none (by simp) x h

theorem rowPic_of_rowStream {s : State} {e : Fin 4} {k : Fin 16} (h : rowStream s e = some k) : (rowPic s e k).isSome = true := by
  rw [rowStream_eq] at h
  cases hsurface : rowPick s e false with
  | some x =>
    rw [hsurface] at h
    obtain rfl := Option.some.inj h
    exact rowPic_of_rowPick hsurface
  | none =>
    rw [hsurface] at h
    obtain ⟨x, hjob, rfl⟩ := Option.map_eq_some_iff.mp h
    exact rowPic_of_rowPick hjob

/-- The picture in progress of a stream served is the one that a row is coded of. -/
theorem rowSlot_of_cur {s : State} {e : Fin 4} {k : Fin 16} {p : EncPic} (hserved : rowStream s e = some k)
    (hcur : (s.hev.streams[e][k]).cur = some p) (hstarted : p.started = true) (ctus : List Nat) (sei hdr : Nat) :
    rowSlot s e k ctus sei hdr = codeRow s e k p ctus hdr := by
  have hsome := rowPic_of_rowStream hserved
  have hpic : rowPic s e k = some p := by
    simp only [rowPic, hcur, Option.orElse_some, Option.filter_some] at hsome ⊢
    split at hsome
    next hready => exact if_pos hready
    next => exact absurd hsome (by decide)
  unfold rowSlot
  rw [hpic]
  simp only [hstarted, if_true, hcur]

theorem exec_ctuRow (e : Fin 4) (ctus : List Nat) (sei hdr : Nat) (fault : Bool) (s : State) :
    exec (.ctuRow e ctus sei hdr fault) s = execCtuRow e ctus sei hdr fault s := rfl

theorem ctuRow_of_cur {s : State} {e : Fin 4} {k : Fin 16} {p : EncPic} (hl : s.live = true) (hserved : rowStream s e = some k)
    (hcur : (s.hev.streams[e][k]).cur = some p) (hstarted : p.started = true) (ctus : List Nat) (sei hdr : Nat) :
    exec (.ctuRow e ctus sei hdr false) s = .next (endCycle s (latchIdle (codeRow s e k p ctus hdr) e)) := by
  rw [exec_ctuRow, execCtuRow, inCore_of_live hl]
  simp only [Bool.false_eq_true, if_false, hserved, rowSlot_of_cur hserved hcur hstarted]

/-! ### The CTUs of a row (R274) -/

section
variable {b : Option Nat} {h after : Nat}

/-- Coding CTUs uses bits up, never fewer. -/
theorem codeCtus_le (l : List Nat) : ∀ u, u ≤ (codeCtus b h after l u).1 := by
  induction l with
  | nil => exact fun u => Nat.le_refl u
  | cons c r ih =>
    intro u
    unfold codeCtus
    split
    · exact Nat.le_refl u
    · exact (Nat.le_add_right u c).trans (ih _)

/-- Where 32 bits for each CTU to come and the headers to come fit in the budget before a row's CTUs, they do with those coded as they are and
the others at 32 bits each. -/
theorem codeCtus_within {n : Nat} (l : List Nat) : ∀ u, u + 32 * (l.length + after) + h ≤ n →
    (codeCtus (some n) h after l u).1 + 32 * ((codeCtus (some n) h after l u).2 + after) + h ≤ n := by
  induction l with
  | nil => exact fun u hu => by simpa [codeCtus] using hu
  | cons c r ih =>
    intro u hu
    unfold codeCtus
    split
    · exact hu
    next hfits =>
      refine ih _ ?_
      simpa using hfits

end

/-! ### A row (R272, R274) -/

/-- CTUs across and down a picture. -/
def EncCfg.across (cf : EncCfg) : Nat := ceilDiv cf.w 64
def EncCfg.down (cf : EncCfg) : Nat := ceilDiv cf.h 64

/-- What a row's CTUs cost as coded: an operand too short is made up with zeros. -/
def EncCfg.rowCosts (cf : EncCfg) (ctus : List Nat) : List Nat := (ctus ++ List.replicate cf.across 0).take cf.across

/-- Header bits of slices that a picture has not begun, at `hdr` bits each. -/
def headersToCome (cf : EncCfg) (p : EncPic) (hdr : Nat) : Nat :=
  hdr * ((if cf.sliceRows = 0 then 1 else ceilDiv cf.down cf.sliceRows) - (if cf.sliceRows = 0 then 1 else p.rows / cf.sliceRows + 1))

/-- Bits used with the CTUs of a picture's next row that are coded as they are, and how many are skipped. -/
def rowCoded (cf : EncCfg) (p : EncPic) (ctus : List Nat) (hdr : Nat) : Nat × Nat :=
  if p.skipping then (p.bits, (cf.rowCosts ctus).length)
  else codeCtus (sliceBudget cf p) (headersToCome cf p hdr) (cf.across * (cf.down - 1 - p.rows)) (cf.rowCosts ctus) p.bits

/-- Bits used with the row, at a drawn cost of its skipped CTUs. -/
def rowBits (cf : EncCfg) (p : EncPic) (ctus : List Nat) (hdr x : Nat) : Nat :=
  (rowCoded cf p ctus hdr).1 + x % (32 * (rowCoded cf p ctus hdr).2 + 1)

/-- Whether a picture is clamped with the row. -/
def rowClamped (cf : EncCfg) (p : EncPic) (ctus : List Nat) (hdr x : Nat) : Bool :=
  p.clamped || ((sliceBudget cf p).any fun b =>
    decide (rowBits cf p ctus hdr x + (cf.down - 1 - p.rows) * (rowBits cf p ctus hdr x - p.bits) > b) && decide (cf.down - 1 - p.rows > 0))

/-- A picture with one row more. -/
def rowDone (cf : EncCfg) (p : EncPic) (ctus : List Nat) (hdr x : Nat) : EncPic :=
  { p with
    rows := p.rows + 1, bits := rowBits cf p ctus hdr x, skipping := decide (0 < (rowCoded cf p ctus hdr).2),
    clamped := rowClamped cf p ctus hdr x,
    qp := if rowClamped cf p ctus hdr x then cf.qpMax else if cf.rc = 0 then p.qp
      else rowLoop cf p.target p.rows cf.down (rowBits cf p ctus hdr x) p.qp,
    qpMin := min p.qpMin p.qp, qpMax := max p.qpMax p.qp }

/-- What the bits of CTUs coded again as skip are drawn from. -/
def rowDraw (skip : Bool) (s : State) : Nat × State := if skip then freeNat s else (0, s)

/-- A row counted, and its stream shown, by the core. -/
def rowShown (s : State) (e : Fin 4) (k : Fin 16) : State :=
  regSet (count s (0x110008 + 0x40 * e.val)) (0x110000 + 0x40 * e.val) (packFields [(0, k.val)])

theorem codeRow_eq (s : State) (e : Fin 4) (k : Fin 16) (p : EncPic) (ctus : List Nat) (hdr : Nat) : ∃ x n,
    codeRow s e k p ctus hdr =
      if p.rows + 1 ≥ (p.conf e k).down then finishPic (rowShown { s with free := n } e k) e k (rowDone (p.conf e k) p ctus hdr x)
      else modEnc (rowShown { s with free := n } e k) e k fun st => { st with cur := some (rowDone (p.conf e k) p ctus hdr x) } := by
  have hdraw : ∃ x n, rowDraw (decide (0 < (rowCoded (p.conf e k) p ctus hdr).2)) s = (x, { s with free := n }) := by
    unfold rowDraw
    split
    · exact ⟨_, _, rfl⟩
    · exact ⟨0, s.free, rfl⟩
  obtain ⟨x, n, hxn⟩ := hdraw
  refine ⟨x, n, ?_⟩
  have heq : codeRow s e k p ctus hdr =
      if p.rows + 1 ≥ (p.conf e k).down then
        finishPic (rowShown (rowDraw (decide (0 < (rowCoded (p.conf e k) p ctus hdr).2)) s).2 e k) e k
          (rowDone (p.conf e k) p ctus hdr (rowDraw (decide (0 < (rowCoded (p.conf e k) p ctus hdr).2)) s).1)
      else modEnc (rowShown (rowDraw (decide (0 < (rowCoded (p.conf e k) p ctus hdr).2)) s).2 e k) e k fun st =>
        { st with cur := some (rowDone (p.conf e k) p ctus hdr (rowDraw (decide (0 < (rowCoded (p.conf e k) p ctus hdr).2)) s).1) } := rfl
  rw [heq, hxn]

section
variable (cf : EncCfg) (p : EncPic) (ctus : List Nat) (hdr x : Nat)

theorem length_rowCosts : (cf.rowCosts ctus).length = cf.across := by
  simp [EncCfg.rowCosts]

theorem bits_le_rowBits : p.bits ≤ rowBits cf p ctus hdr x := by
  unfold rowBits rowCoded
  split
  · exact Nat.le_add_right _ _
  · exact (codeCtus_le _ _).trans (Nat.le_add_right _ _)

theorem rowDone_skipping (hw : 0 < cf.across) (h : p.skipping = true) : (rowDone cf p ctus hdr x).skipping = true := by
  simpa [rowDone, rowCoded, h, length_rowCosts] using hw

theorem rowDone_clamped (h : p.clamped = true) : (rowDone cf p ctus hdr x).clamped = true := by
  simp [rowDone, rowClamped, h]

theorem rowDone_qp_of_clamped (h : (rowDone cf p ctus hdr x).clamped = true) : (rowDone cf p ctus hdr x).qp = cf.qpMax := if_pos h

theorem rowDone_qp_of_unclamped (h : (rowDone cf p ctus hdr x).clamped = false) (hrc : cf.rc = 0) : (rowDone cf p ctus hdr x).qp = p.qp :=
  (if_neg (Bool.not_eq_true _ ▸ h)).trans (if_pos hrc)

/-- The CTUs that are skipped take at most 32 bits each. -/
theorem rowBits_within {b : Nat} (hb : sliceBudget cf p = some b) (hrows : p.rows < cf.down)
    (h : p.bits + 32 * (cf.across * (cf.down - p.rows)) + headersToCome cf p hdr ≤ b) :
    rowBits cf p ctus hdr x + 32 * (cf.across * (cf.down - 1 - p.rows)) + headersToCome cf p hdr ≤ b := by
  have hcoded : (rowCoded cf p ctus hdr).1 + 32 * ((rowCoded cf p ctus hdr).2 + cf.across * (cf.down - 1 - p.rows)) +
      headersToCome cf p hdr ≤ b := by
    have hbefore : p.bits + 32 * ((cf.rowCosts ctus).length + cf.across * (cf.down - 1 - p.rows)) + headersToCome cf p hdr ≤ b := by
      have hsplit : cf.down - p.rows = 1 + (cf.down - 1 - p.rows) := by omega
      rw [length_rowCosts]
      rwa [hsplit, Nat.mul_add, Nat.mul_one] at h
    unfold rowCoded
    split
    · exact hbefore
    · rw [hb]
      exact codeCtus_within _ _ hbefore
  have hdrawn : x % (32 * (rowCoded cf p ctus hdr).2 + 1) < 32 * (rowCoded cf p ctus hdr).2 + 1 := Nat.mod_lt x (Nat.succ_pos _)
  unfold rowBits
  omega

end

end Sys2Proof.Machine
end

section
/-! Proof of the statement about CTU_ROW (R268, R270, R272 to R274, R420). -/

namespace Sys2Proof.Machine
open Sys2Proof

/-! ### Counters of a core and of a stream (Tables HEV-1 and HEV-5) -/

theorem maskOf_rowCount : ∀ e : Fin 4, maskOf (0x110008 + 0x40 * e.val) = BitVec.allOnes 32 := by decide +kernel

theorem maskOf_coreStream : ∀ (e : Fin 4) (k : Fin 16),
    packFields [(0, k.val)] &&& maskOf (0x110000 + 0x40 * e.val) = packFields [(0, k.val)] := by decide +kernel

theorem maskOf_picCounts : ∀ (e : Fin 4) (k : Fin 16), ∀ off ∈ [0x4C, 0x50], maskOf (encReg e.val k.val off) = BitVec.allOnes 32 := by
  decide +kernel

section
variable (s : State) (e : Fin 4) (k : Fin 16)

theorem same_rowShown {q : Part} (h : q ≠ .regs) : q.same s (rowShown s e k) := (same_count h s _).trans (same_regSet h _ _ _)

theorem count_rowShown : regGet (rowShown s e k) (0x110008 + 0x40 * e.val) = satInc (regGet s (0x110008 + 0x40 * e.val)) := by
  rw [rowShown, regGet_regSet_ne _ _ _ _ (by omega), regGet_count_self (maskOf_rowCount e)]

theorem stream_rowShown : regGet (rowShown s e k) (0x110000 + 0x40 * e.val) = packFields [(0, k.val)] := by
  rw [rowShown, regGet_regSet_self, maskOf_coreStream]

theorem onlyRegs_rowShown : onlyRegs [0x110008 + 0x40 * e.val, 0x110000 + 0x40 * e.val] s (rowShown s e k) := fun j hj _ => by
  obtain ⟨hcount, hstream⟩ : j ≠ 0x110008 + 0x40 * e.val ∧ j ≠ 0x110000 + 0x40 * e.val := by simpa using hj
  rw [rowShown, regGet_regSet_ne _ _ _ _ hstream, regGet_count_ne _ _ _ hcount]

end

/-! ### A row that is not the last -/

/-- A part that CTU_ROW does not reach is none of those that its row changes. -/
theorem ne_of_notReached {q : Part} (h : q ∉ .hev :: .free :: .frm :: reporting) :
    q ≠ .hev ∧ q ≠ .free ∧ q ≠ .regs ∧ q ∉ reporting := by
  refine ⟨?_, ?_, ?_, fun hq => h (List.mem_cons_of_mem _ (List.mem_cons_of_mem _ (List.mem_cons_of_mem _ hq)))⟩ <;>
    (rintro rfl; exact h (by decide))

section
variable {s : State} {e : Fin 4} {k : Fin 16} {p : EncPic} {ctus : List Nat} {sei hdr : Nat}

theorem codeRow_goesOn (hrows : p.rows + 1 < (p.conf e k).down) : ∃ v x, codeRow s e k p ctus hdr = v ∧
    (v.hev.streams[e][k]).cur = some (rowDone (p.conf e k) p ctus hdr x) ∧
    regGet v (0x110008 + 0x40 * e.val) = satInc (regGet s (0x110008 + 0x40 * e.val)) ∧
    regGet v (0x110000 + 0x40 * e.val) = packFields [(0, k.val)] ∧
    onlyRegs [0x110008 + 0x40 * e.val, 0x110000 + 0x40 * e.val] s v ∧
    ∀ q : Part, q ∉ .hev :: .free :: .frm :: reporting → q.same s v := by
  obtain ⟨x, n, hrow⟩ := codeRow_eq s e k p ctus hdr
  rw [if_neg (by omega)] at hrow
  have hdrawn : onlyRegs [] s { s with free := n } := onlyRegs_of_regs rfl
  refine ⟨_, x, hrow, by rw [stream_modEnc_self], ?_, ?_, fun j hj ho => ?_, fun q hq => ?_⟩
  · rw [regGet_modEnc, count_rowShown]
    rfl
  · rw [regGet_modEnc, stream_rowShown]
  · rw [regGet_modEnc, onlyRegs_rowShown _ e k j hj ho, hdrawn j (by simp) ho]
  · obtain ⟨hhev, hfree, hregs, -⟩ := ne_of_notReached hq
    exact ((same_free hfree s n).trans (same_rowShown _ e k hregs)).trans (same_modEnc hhev _ e k _)

theorem ctuRow_goesOn (hl : s.live = true) (hserved : rowStream s e = some k) (hcur : (s.hev.streams[e][k]).cur = some p)
    (hstarted : p.started = true) (hrows : p.rows + 1 < (p.conf e k).down) : ∃ t x, exec (.ctuRow e ctus sei hdr false) s = .next t ∧
    (t.hev.streams[e][k]).cur = some (rowDone (p.conf e k) p ctus hdr x) ∧
    regGet t (0x110008 + 0x40 * e.val) = satInc (regGet s (0x110008 + 0x40 * e.val)) ∧
    regGet t (0x110000 + 0x40 * e.val) = packFields [(0, k.val)] ∧
    onlyRegs [0x110008 + 0x40 * e.val, 0x110000 + 0x40 * e.val, 0x20020] s t ∧ onlyChanges (.hev :: .free :: .frm :: reporting) s t := by
  obtain ⟨v, x, hrow, hpic, hcount, hstream, hregs, hsame⟩ := codeRow_goesOn (s := s) (k := k) (ctus := ctus) (hdr := hdr) hrows
  have hcore (o : Nat) (hlo : 0x110000 ≤ o) (hhi : o < 0x110100) : regGet (endCycle s (latchIdle v e)) o = regGet v o :=
    regGet_latched s v e (by omega) (by unfold outsideFlt; omega)
  refine ⟨_, x, ctuRow_of_cur hl hserved hcur hstarted ctus sei hdr, ?_, ?_, ?_, fun j hj ho => ?_, ?_⟩ <;> rw [hrow]
  · rw [(keepsPics_latched s v e k).1, hpic]
  · rw [hcore _ (by omega) (by omega), hcount]
  · rw [hcore _ (by omega) (by omega), hstream]
  · rw [regGet_latched s v e (fun h => hj (by simp [h])) ho, hregs j (fun h => hj (List.mem_append_left [0x20020] h)) ho]
  · exact onlyChanges_latched e hsame

end

/-! ### The last row (R268, R278) -/

/-- A picture that used up its budget is counted and reported. -/
def spentNoted (s : State) (e k : Nat) (q : EncPic) : State :=
  if q.clamped || q.skipping then hevEvent (count s (encReg e k 0x50)) 0 0x01 .info e k q else s

/-- A coded picture put behind the stream's others. -/
def Finished (q : EncPic) (f : EncStream → EncStream) : Prop := ∀ st, (f st).cur = none ∧ (f st).coded = st.coded ++ [q]

theorem finishPic_eq (s : State) (e : Fin 4) (k : Fin 16) (p : EncPic) : ∃ u d f w n, (∀ q : Part, q ≠ .free → q.same s u) ∧
    Finished { p with data := d } f ∧ finishPic s e k p = emitReady n
      (regSet (modEnc (spentNoted (count u (encReg e k 0x4C)) e k { p with data := d }) e k f) (encReg e k 0x48) w) e k := by
  have hrate (c : Prop) [Decidable c] (v : State) (cf : EncCfg) : ∃ pp u, (∀ q : Part, q ≠ .free → q.same v u) ∧
      (if c then ((0 : ℚ), v) else ratePp v cf) = (pp, u) := by
    split
    · exact ⟨_, _, fun q _ => .refl q v, rfl⟩
    · exact ⟨_, _, fun q hq => same_ratePp hq v cf, rfl⟩
  unfold finishPic
  extract_lets st cf full
  split
  next slices v hv =>
  have hdraw : v = { s with free := s.free + 1 } := (congrArg Prod.snd hv).symm
  extract_lets auLen bits left inflow excess fill q debt spent
  obtain ⟨pp, u, hu, heq⟩ := hrate (cf.rc = 0) v cf
  rw [heq]
  refine ⟨u, _, _, _, _, fun q hq => ?_, ?_, rfl⟩
  · rw [hdraw] at hu
    exact (same_free hq s _).trans (hu q hq)
  · exact fun st => ⟨rfl, rfl⟩

theorem emitReady_of_unsealed {s : State} {e : Fin 4} {k : Fin 16} {q : EncPic} (h : (s.hev.streams[e][k]).coded = [q]) (hfr : q.fr = none) :
    ∀ n, emitReady n s e k = s
  | 0 => rfl
  | n + 1 => by
    rw [emitReady]
    change (match (s.hev.streams[e][k]).coded with | p :: r => _ | [] => s) = s
    rw [h]
    exact if_neg (by simp [hfr])

section
variable (s : State) (e : Fin 4) (k : Fin 16) (q : EncPic)

theorem same_spentNoted {part : Part} (h : part ∉ reporting) : part.same s (spentNoted s e k q) := by
  unfold spentNoted
  split
  · exact (same_count (by rintro rfl; exact h (by decide)) s _).trans (same_event h ..)
  · exact .refl part s

theorem onlyRegs_spentNoted : onlyRegs [encReg e k 0x50, 0x112000] s (spentNoted s e k q) := by
  unfold spentNoted
  split
  · have hevent : onlyRegs [0x112000] _ (hevEvent (count s (encReg e k 0x50)) 0 0x01 .info e k q) :=
      onlyRegs_event rfl _ _ _ _ _ _
    exact ((onlyRegs_count s (encReg e k 0x50)).mono (by simp)).trans (hevent.mono (by simp))
  · exact .refl _ s

variable {q} (h : q.clamped = true ∨ q.skipping = true)
include h

theorem spentNoted_of_spent : spentNoted s e k q = hevEvent (count s (encReg e k 0x50)) 0 0x01 .info e k q :=
  if_pos (by simpa using h)

theorem raised_spentNoted : raised (spentNoted s e k q) .hev 0 := by
  rw [spentNoted_of_spent s e k h]
  exact raised_event rfl (by unfold outsideFlt; omega) (by decide) ..

theorem count_spentNoted : regGet (spentNoted s e k q) (encReg e k 0x50) = satInc (regGet s (encReg e k 0x50)) := by
  have hreg : encReg e k 0x50 < 0x112000 ∧ outsideFlt (encReg e k 0x50) := by
    unfold outsideFlt encReg
    omega
  rw [spentNoted_of_spent s e k h, hevEvent, onlyRegs_event rfl _ _ _ _ _ _ _ (by simpa using hreg.1.ne) hreg.2,
    regGet_count_self (maskOf_picCounts e k _ (by decide))]

end

/-- The counters of a stream's pictures stand apart from the other registers that a row may change. -/
theorem encReg_apart (e : Fin 4) (k : Fin 16) {o : Nat} (ho : o = 0x4C ∨ o = 0x50) :
    encReg e k o ≠ 0x20020 ∧ encReg e k o ≠ encReg e k 0x48 ∧ encReg e k o ≠ 0x112000 ∧ encReg e k o ≠ 0x110008 + 0x40 * e.val ∧
      encReg e k o ≠ 0x110000 + 0x40 * e.val ∧ outsideFlt (encReg e k o) := by
  unfold outsideFlt encReg
  omega

section
variable {s : State} {e : Fin 4} {k : Fin 16} {p : EncPic} {ctus : List Nat} {sei hdr : Nat}

theorem codeRow_ends (hrows : p.rows + 1 = (p.conf e k).down) (hfr : p.fr = none) (hcoded : (s.hev.streams[e][k]).coded = []) :
    ∃ v q, codeRow s e k p ctus hdr = v ∧ (v.hev.streams[e][k]).cur = none ∧ (v.hev.streams[e][k]).coded = [q] ∧
      q.bound = p.bound ∧ q.rows = p.rows + 1 ∧ regGet v (encReg e k 0x4C) = satInc (regGet s (encReg e k 0x4C)) ∧
      (q.clamped = true ∨ q.skipping = true → regGet v (encReg e k 0x50) = satInc (regGet s (encReg e k 0x50)) ∧ raised v .hev 0) ∧
      ∀ part : Part, part ∉ .hev :: .free :: .frm :: reporting → part.same s v := by
  obtain ⟨x, m, hrow⟩ := codeRow_eq s e k p ctus hdr
  rw [if_pos hrows.ge] at hrow
  obtain ⟨u, d, f, w, n, hu, hf, hfinish⟩ := finishPic_eq (rowShown { s with free := m } e k) e k (rowDone (p.conf e k) p ctus hdr x)
  rw [hfinish] at hrow
  generalize hq : { rowDone (p.conf e k) p ctus hdr x with data := d } = q at hrow hf
  obtain ⟨hbound, hdone, hunsealed⟩ : q.bound = p.bound ∧ q.rows = p.rows + 1 ∧ q.fr = none := by
    rw [← hq]
    exact ⟨rfl, rfl, hfr⟩
  have hsame {part : Part} (hpart : part ≠ .free ∧ part ≠ .regs) : part.same s u :=
    ((same_free hpart.1 s m).trans (same_rowShown _ e k hpart.2)).trans (hu part hpart.1)
  generalize hv : regSet (modEnc (spentNoted (count u (encReg e k 0x4C)) e k q) e k f) (encReg e k 0x48) w = v at hrow
  have hstream : (v.hev.streams[e][k]).cur = none ∧ (v.hev.streams[e][k]).coded = [q] := by
    obtain ⟨hnone, hlast⟩ := hf s.hev.streams[e][k]
    rw [← hv, regSet_hev, stream_modEnc_self, same_spentNoted (part := .hev) _ e k q (by decide), count_hev,
      hsame (part := .hev) (by decide)]
    exact ⟨hnone, by rw [hlast, hcoded]; rfl⟩
  rw [emitReady_of_unsealed hstream.2 hunsealed] at hrow
  have hreg {j : Nat} (hj : j ≠ encReg e k 0x48) : regGet v j = regGet (spentNoted (count u (encReg e k 0x4C)) e k q) j := by
    rw [← hv, regGet_regSet_ne _ _ _ _ hj, regGet_modEnc]
  have hpics {o : Nat} (ho : o = 0x4C ∨ o = 0x50) : regGet u (encReg e k o) = regGet s (encReg e k o) := by
    obtain ⟨-, -, -, hcount, hshown, hout⟩ := encReg_apart e k ho
    rw [regGet_congr _ _ (hu .regs (by decide)), onlyRegs_rowShown _ e k _ (by simp [hcount, hshown]) hout]
    rfl
  refine ⟨v, q, hrow, hstream.1, hstream.2, hbound, hdone, ?_, fun hspent => ⟨?_, ?_⟩, fun part hpart => ?_⟩
  · obtain ⟨-, hlast, hevents, -, -, hout⟩ := encReg_apart e k (.inl rfl)
    have hspent : encReg e k 0x4C ≠ encReg e k 0x50 := by unfold encReg; omega
    rw [hreg hlast, onlyRegs_spentNoted _ e k q _ (by simp [hspent, hevents]) hout, regGet_count_self (maskOf_picCounts e k _ (by decide)),
      hpics (.inl rfl)]
  · obtain ⟨-, hlast, -⟩ := encReg_apart e k (.inr rfl)
    rw [hreg hlast, count_spentNoted _ e k hspent, regGet_count_ne _ _ _ (by unfold encReg; omega), hpics (.inr rfl)]
  · obtain ⟨off, hoff, hbit⟩ := raised_spentNoted (count u (encReg e k 0x4C)) e k hspent
    obtain rfl : 0x112000 = off := Option.some.inj hoff
    exact ⟨_, rfl, by rwa [regBit, hreg (by unfold encReg; omega)]⟩
  · obtain ⟨hhev, hfree, hregs, hreport⟩ := ne_of_notReached hpart
    rw [← hv]
    exact ((((hsame ⟨hfree, hregs⟩).trans (same_count hregs u _)).trans (same_spentNoted _ e k q hreport)).trans
      (same_modEnc hhev _ e k f)).trans (same_regSet hregs _ _ w)

theorem ctuRow_ends (hl : s.live = true) (hserved : rowStream s e = some k) (hcur : (s.hev.streams[e][k]).cur = some p)
    (hstarted : p.started = true) (hrows : p.rows + 1 = (p.conf e k).down) (hfr : p.fr = none)
    (hcoded : (s.hev.streams[e][k]).coded = []) :
    ∃ t q, exec (.ctuRow e ctus sei hdr false) s = .next t ∧ (t.hev.streams[e][k]).cur = none ∧
      (t.hev.streams[e][k]).coded = [q] ∧ q.bound = p.bound ∧ q.rows = p.rows + 1 ∧
      regGet t (encReg e k 0x4C) = satInc (regGet s (encReg e k 0x4C)) ∧
      (q.clamped = true ∨ q.skipping = true → regGet t (encReg e k 0x50) = satInc (regGet s (encReg e k 0x50)) ∧ raised t .hev 0) ∧
      onlyChanges (.hev :: .free :: .frm :: reporting) s t := by
  obtain ⟨v, q, hrow, hnone, hlast, hbound, hdone, hcount, hspent, hsame⟩ := codeRow_ends (ctus := ctus) (hdr := hdr) hrows hfr hcoded
  have hpics {o : Nat} (ho : o = 0x4C ∨ o = 0x50) : regGet (endCycle s (latchIdle v e)) (encReg e k o) = regGet v (encReg e k o) := by
    obtain ⟨hevents, -, -, -, -, hout⟩ := encReg_apart e k ho
    exact regGet_latched s v e hevents hout
  refine ⟨_, q, ctuRow_of_cur hl hserved hcur hstarted ctus sei hdr, ?_, ?_, hbound, hdone, ?_, fun h => ⟨?_, ?_⟩, ?_⟩ <;> rw [hrow]
  · rw [(keepsPics_latched s v e k).1, hnone]
  · rw [(keepsPics_latched s v e k).2, hlast]
  · rw [hpics (.inl rfl), hcount]
  · rw [hpics (.inr rfl), (hspent h).1]
  · obtain ⟨off, hoff, hbit⟩ := (hspent h).2
    obtain rfl : 0x112000 = off := Option.some.inj hoff
    exact ⟨_, rfl, by rwa [regBit, regGet_latched s v e (by decide) (by unfold outsideFlt; omega)]⟩
  · exact onlyChanges_latched e hsame

end

/-! ### A fault of the core (R420) -/

theorem same_noteJobPic {q : Part} (h : q ∉ completing) (s : State) (i tag f e k : Nat) (budget corrupt : Bool) :
    q.same s (noteJobPic s i tag f e k budget corrupt) := by
  obtain ⟨hhq, hout⟩ : q ≠ .hq ∧ q ≠ .out := by
    constructor <;> (rintro rfl; exact h (by decide))
  unfold noteJobPic
  extract_lets own u
  refine Part.same.trans (t := u) (same_modQ hhq s i _) ?_
  unfold settleJob
  split
  · split
    · exact .refl q u
    · split
      · exact .refl q u
      · exact (same_foldl (fun v x => same_emit hout v _) _ u).trans (same_complete h ..)
  · exact .refl q u

theorem same_addGap {q : Part} (h : q ≠ .gal) (s : State) (g : GalKind) (ord : Word) (take : Option Nat) (fr : Option FrameRec) :
    q.same s (addGap s g ord take fr) := by
  unfold addGap
  split
  · exact .refl q s
  · exact same_gal h s _

theorem passFirst_cur (st : EncStream) (p : EncPic) : (st.passFirst p).cur = st.cur := by
  unfold EncStream.passFirst
  split
  · rfl
  · split <;> rfl

theorem abandon_cur (st : EncStream) : st.abandon.cur = none := by
  unfold EncStream.abandon
  split <;> rfl

/-- A stream once its picture `p` is not coded: in structure 3 its next picture is an IRAP. -/
def EncStream.without (st : EncStream) (cf : EncCfg) (p : EncPic) : EncStream :=
  let st := EncStream.passFirst { st with waiting := st.waiting.filter fun q => decide (q.bound ≠ p.bound) } p
  if cf.gop = 3 then { st with forceIrap := true, group := [] } else st

theorem without_cur (st : EncStream) (cf : EncCfg) (p : EncPic) : (st.without cf p).cur = st.cur := by
  unfold EncStream.without
  dsimp only
  split <;> exact passFirst_cur _ p

/-- Of the encoder streams, a picture dropped changes its own alone. -/
theorem hev_dropPicWith (s : State) (e k : Nat) (cf : EncCfg) (p : EncPic) {report : State → State}
    (hreport : ∀ u, (report u).hev = u.hev) :
    (dropPicWith s e k cf p report).hev = (modEnc s e k fun st => st.without cf p).hev := by
  unfold dropPicWith
  extract_lets reported freed gapped dropped
  have hfreed : freed.hev = s.hev := by
    have hreported : reported.hev = s.hev := hreport _
    dsimp only [freed]
    split
    · exact (same_setItems (q := .hev) (by decide) _ _).trans hreported
    · exact hreported
  have hgapped : gapped.hev = s.hev := by
    dsimp only [gapped]
    split
    · rw [same_addGap (q := .hev) (by decide)]
      exact hfreed
    · exact hreport _
  have hdropped : dropped.hev = (modEnc s e k fun st => st.without cf p).hev := by
    dsimp only [dropped, modEnc]
    rw [hgapped]
    rfl
  split
  · rw [same_noteJobPic (q := .hev) (by decide)]
    exact hdropped
  · exact hdropped

/-- A stream with no picture in progress that codes an IRAP next. -/
def StartsAnew (st : EncStream) : Prop := st.cur = none ∧ st.forceIrap = true ∧ st.group = []

/-- A stream that codes its next picture as an IRAP. -/
def EncStream.restarted (st : EncStream) : EncStream := { st with forceIrap := true, group := [] }

/-- The picture in progress of a stream of a core whose state is lost, abandoned. -/
def picLost (e : Fin 4) (s : State) (k : Fin 16) : State :=
  match (s.hev.streams[e][k]).cur with
  | some p =>
    dropPicWith (modEnc (freeNat s).2 e k EncStream.abandon) e k (p.conf e k) p fun u =>
      record u 0x10 ((freeNat s).1 % 256) .itemFailed (ctxFrame p.slot 3 e k p.ord ((p.fr.map (·.tag)).getD 0) 0) 0
  | none => s

/-- A stream of a core whose state is lost. -/
def streamLost (e : Fin 4) (s : State) (k : Fin 16) : State := modEnc (picLost e s k) e k EncStream.restarted

theorem coreLost_eq (s : State) (e : Fin 4) : coreLost s e = (List.finRange 16).foldl (streamLost e) s := rfl

theorem picLost_spec (e : Fin 4) (s : State) (k : Fin 16) : ((picLost e s k).hev.streams[e][k]).cur = none ∧
    ∀ j ≠ k, (picLost e s k).hev.streams[e][j] = s.hev.streams[e][j] := by
  unfold picLost
  split
  next p hcur =>
    rw [hev_dropPicWith _ _ _ _ _ fun u => record_hev ..]
    refine ⟨?_, fun j hj => ?_⟩
    · rw [stream_modEnc_self, stream_modEnc_self, without_cur, abandon_cur]
    · rw [stream_modEnc_ne _ e hj, stream_modEnc_ne _ e hj]
      rfl
  next hcur => exact ⟨hcur, fun _ _ => rfl⟩

theorem streamLost_self (e : Fin 4) (s : State) (k : Fin 16) : StartsAnew ((streamLost e s k).hev.streams[e][k]) := by
  rw [streamLost, stream_modEnc_self]
  exact ⟨(picLost_spec e s k).1, rfl, rfl⟩

theorem streamLost_keeps {e : Fin 4} {s : State} {j : Fin 16} (h : StartsAnew (s.hev.streams[e][j])) (k : Fin 16) :
    StartsAnew ((streamLost e s k).hev.streams[e][j]) := by
  by_cases hj : j = k
  · subst hj
    exact streamLost_self e s j
  · rw [streamLost, stream_modEnc_ne _ e hj, (picLost_spec e s k).2 j hj]
    exact h

/-- Every stream of a core starts anew once the core's state is lost. -/
theorem startsAnew_coreLost (s : State) (e : Fin 4) (k : Fin 16) : StartsAnew ((coreLost s e).hev.streams[e][k]) := by
  have hlost (l : List (Fin 16)) : ∀ s, k ∈ l ∨ StartsAnew (s.hev.streams[e][k]) →
      StartsAnew ((l.foldl (streamLost e) s).hev.streams[e][k]) := by
    induction l with
    | nil => exact fun s h => h.resolve_left (by simp)
    | cons j l ih =>
      refine fun s h => ih _ ?_
      obtain hmem | hanew := h
      · obtain rfl | hmem := List.mem_cons.mp hmem
        · exact .inr (streamLost_self e s k)
        · exact .inl hmem
      · exact .inr (streamLost_keeps hanew j)
  rw [coreLost_eq]
  exact hlost _ s (.inl (List.mem_finRange k))

/-- Settles O33: a row by the picture in progress, whose budget holds because coded CTUs stop where the skipped ones would no longer fit; the
last row by what ends a picture; a fault by what it does to each stream of the core. -/
theorem encoderRowsKeepTheBudget : Obligations.EncoderRowsKeepTheBudget := by
  refine ⟨fun s e k p cf ctus sei hdr hl hserved hcur hstarted hcf hw => ⟨fun hrows => ?row, fun hrows hfr hcoded => ?last⟩,
    fun s e ctus sei hdr hl => ?fault⟩
  case row =>
    subst hcf
    obtain ⟨t, x, hexec, hpic, hcount, hstream, hregs, hchange⟩ :=
      ctuRow_goesOn (ctus := ctus) (sei := sei) (hdr := hdr) hl hserved hcur hstarted hrows
    have hacross : 0 < (p.conf e k).across := by
      unfold EncCfg.across ceilDiv
      omega
    refine ⟨t, _, hexec, hpic, rfl, bits_le_rowBits .., rowDone_skipping _ p ctus hdr x hacross, rowDone_clamped _ p ctus hdr x,
      rowDone_qp_of_clamped _ p ctus hdr x, rowDone_qp_of_unclamped _ p ctus hdr x, fun b h hb hh hbefore => ?_, hcount, hstream, hregs, hchange⟩
    subst hh
    exact rowBits_within _ p ctus hdr x hb (Nat.lt_of_succ_lt hrows) hbefore
  case last =>
    subst hcf
    exact ctuRow_ends hl hserved hcur hstarted hrows hfr hcoded
  case fault =>
    refine ⟨_, (exec_ctuRow ..).trans (inCore_of_live hl _), fun k => ?_⟩
    rw [endCycle_hev]
    exact startsAnew_coreLost s e k

end Sys2Proof.Machine
end
